-- ==== Sys2Proof/Word.lean ====
section
/-! DEFINITION. The word types of the machine (R1 to R7) and their plainest readings. -/

namespace Sys2Proof

/-- A byte, the smallest addressable unit (R4). -/
abbrev Byte := BitVec 8
/-- A 32-bit lane (R198). -/
abbrev Half := BitVec 32
/-- A 64-bit word of the woodward and of the elements. -/
abbrev Word := BitVec 64

end Sys2Proof
end

