-- ==== Sys2Proof/Machine/Bits.lean ====
section
/-! DEFINITION. Bit fields, sign extension, byte order and residues. -/

namespace Sys2Proof.Machine

/-- Bits [hi:lo] of a number. -/
def bits (n hi lo : Nat) : Nat := (n >>> lo) % 2 ^ (hi + 1 - lo)

/-- Bit i of a number. -/
def bit (n i : Nat) : Bool := n.testBit i

/-- A bit as 0 or 1. -/
def b2n (b : Bool) : Nat := if b then 1 else 0

/-- A bit as a 64-bit value. -/
def b2w (b : Bool) : Word := if b then 1 else 0

/-- A 64-bit count advanced; a count that would pass its largest value stays there (R383) (DESIGN CHOICE, log entry 77). -/
def satAdd (w : Word) (n : Nat) : Word := BitVec.ofNat 64 (min (w.toNat + n) (2 ^ 64 - 1))

/-- The low n bits of a number read in two's complement. -/
def toS (n x : Nat) : Int :=
  let y := x % 2 ^ n
  if y < 2 ^ (n - 1) then (y : Int) else (y : Int) - (2 ^ n : Nat)

/-- An integer reduced modulo 2^n. -/
def ofS (n : Nat) (x : Int) : Nat := (x % ((2 ^ n : Nat) : Int)).toNat

/-- Little-endian bytes of a number (R4). -/
def toBytes : Nat → Nat → List Byte
  | 0, _ => []
  | k + 1, n => BitVec.ofNat 8 n :: toBytes k (n / 256)

/-- The number little-endian bytes write (R4). -/
def ofBytes : List Byte → Nat
  | [] => 0
  | b :: t => b.toNat + 256 * ofBytes t

/-- Big-endian reading, for the byte strings of the cryptographic standards. -/
def ofBytesBE (l : List Byte) : Nat := ofBytes l.reverse
def toBytesBE (k n : Nat) : List Byte := (toBytes k n).reverse

/-- Data modulo 15 (R8, R129). -/
def mod15 (w : Word) : BitVec 4 := BitVec.ofNat 4 (w.toNat % 15)

/-- The number of 1 bits among the low k bits. -/
def popcount : Nat → Nat → Nat
  | 0, _ => 0
  | k + 1, n => n % 2 + popcount k (n / 2)

/-- The number of trailing zero bits among the low k bits. -/
def trailingZeros : Nat → Nat → Nat
  | 0, _ => 0
  | k + 1, n => if n % 2 = 1 then 0 else 1 + trailingZeros k (n / 2)

/-- The number of leading zero bits of a k-bit number. -/
def leadingZeros (k n : Nat) : Nat := if n % 2 ^ k = 0 then k else k - 1 - (n % 2 ^ k).log2

/-- The bits of a k-bit number that are set, ascending. -/
def bitList : Nat → Nat → Nat → List Nat
  | 0, _, _ => []
  | k + 1, i, n => if n % 2 = 1 then i :: bitList k (i + 1) (n / 2) else bitList k (i + 1) (n / 2)

/-- The bytes of a list at [off, off + n), reading 0 past its end. -/
def sliceB (l : List Byte) (off n : Nat) : List Byte := ((l.drop off).take n) ++ List.replicate (n - (l.drop off).length) 0

/-- The little-endian number at [off, off + n) of a byte list. -/
def leAt (l : List Byte) (off n : Nat) : Nat := ofBytes (sliceB l off n)

/-- A byte list cut into pieces of k bytes. -/
def chunks (k : Nat) : Nat → List Byte → List (List Byte)
  | 0, _ => []
  | f + 1, l => if l.isEmpty then [] else l.take k :: chunks k f (l.drop k)

end Sys2Proof.Machine
end

