-- ==== Sys2Proof/Syntax.lean ====
section
/-! DEFINITION. The syntax of the machine: the operand fields of woodward instructions (R114, R116) and of
element operations (R119), and the ONE inductive `Instr`, one constructor for every row of the opcode table:
package events, woodward instructions and element operations. -/

namespace Sys2Proof

/-- The operand slots a target names (R114). -/
inductive Slot | l | r | q | o
  deriving DecidableEq, Repr

/-- A valid target of a woodward instruction (R114). -/
structure Target where
  slot : Slot
  index : BitVec 7
  deriving DecidableEq, Repr

/-- The fields common to every woodward instruction word (R114): predicate register, sense and the two targets. -/
structure Hdr where
  pred : BitVec 4
  sense : Bool
  ta : Option Target
  tb : Option Target
  deriving DecidableEq, Repr

/-- The space codes of R116. -/
inductive Space | gen | loc | shr | clu | gl
  deriving DecidableEq, Repr

/-- The access types of class L (R116). -/
inductive MemType | z8 | z16 | z32 | z64 | s8 | s16 | s32
  deriving DecidableEq, Repr

/-- The widths of SEXT and ZEXT (R116 class W). -/
inductive Width | w8 | w16 | w32
  deriving DecidableEq, Repr

/-- The memory orders of class A (R116). -/
inductive MemOrder | rlx | acq | rel | ar
  deriving DecidableEq, Repr

/-- The scopes of class A and of BND elements (R116, R124). -/
inductive Scope | glade | unit | die | pkg | canopy
  deriving DecidableEq, Repr

/-- The order, scope and width of an atomic (R116 class A). -/
structure AtomHdr where
  order : MemOrder
  scope : Scope
  wide : Bool
  deriving DecidableEq, Repr

/-- The sub-operations of ATOM.MINMAX (R116). -/
inductive MinMaxOp | mins | maxs | minz | maxz
  deriving DecidableEq, Repr

/-- The sub-operations of ATOM.BIT (R116). -/
inductive BitOp | and | or | xor
  deriving DecidableEq, Repr

/-- The peers of class O (R116). -/
inductive Peer | stand | raft0 | raft1 | run | wload | link
  deriving DecidableEq, Repr

/-- The flags of an order instruction (R116 class O). -/
structure OrdHdr where
  timed : Bool
  pop : Bool
  push : Bool
  peer : Peer
  deriving DecidableEq, Repr

/-- The functions of TSK.QUERY (R179). -/
inductive QuerySel | ts | floor | aborts
  deriving DecidableEq, Repr

/-- The functions of RILL.GET (R333). -/
inductive RillFn | state | arrived | config
  deriving DecidableEq, Repr

/-- The functions of SLOT.QRY (R343). -/
inductive SlotFn | free | reserved | filling | full | key
  deriving DecidableEq, Repr

/-- The items of TL.READ (R384). -/
inductive TlItem | issued | retired | badnum | badstat
  deriving DecidableEq, Repr

/-- The items of CC.READ (R384). -/
inductive CcItem | count | status | nonok
  deriving DecidableEq, Repr

/-- The element types of R119. -/
inductive ElemType | f32 | bf16 | e4m3 | e2m1 | s32 | z32 | s64 | z64
  deriving DecidableEq, Repr

/-- The destinations of an element operation other than THRU (R119). -/
inductive Dest | res | rso | dis
  deriving DecidableEq, Repr

/-- The relations of FCMP (R202). -/
inductive FRel | eq | ne | lt | le | unord
  deriving DecidableEq, Repr

/-- The relations of ICMP (R207). -/
inductive IRel | eq | ne | lt | le
  deriving DecidableEq, Repr

/-- The integer types of the element operations (R127). -/
inductive IntType | s32 | z32 | s64 | z64
  deriving DecidableEq, Repr

/-- The request sizes of the AG operations (R212). -/
inductive AgSize | b1 | b2 | b4 | b8
  deriving DecidableEq, Repr

/-- The operations of AG.ATOM (R212). -/
inductive AgOp | add | mins | maxs | minz | maxz | and | or | xchg
  deriving DecidableEq, Repr

/-- What a requester offers a responder (R431): the bits of the signature, hash, key-agreement and cipher algorithms. -/
structure SpdmOffer where
  rsp : Nat
  asym : Nat
  hash : Nat
  dhe : Nat
  aead : Nat
  deriving DecidableEq, Repr

/-- A portion of a certificate chain that a requester asks for (R431). -/
structure SpdmPortion where
  rsp : Nat
  slot : Nat
  off : Nat
  len : Nat
  deriving DecidableEq, Repr

/-- A responder with the certificate slot or the measurement operation that a request names (R431). -/
structure SpdmParam where
  rsp : Nat
  param : Nat
  deriving DecidableEq, Repr

/-- A VF with the key of its selective IDE stream (R445). -/
structure IdeKey where
  vf : Nat
  key : List Byte
  deriving DecidableEq, Repr

/-- Every row of the opcode table (R12 onward): package events, woodward instructions, element operations.
The docstring of each constructor names its rule and says what it stands for. -/
inductive Instr where
  /-- ADD (R160): Delivers L + R modulo 2^64. -/
  | add (h : Hdr)
  /-- ADDI (R160): Delivers L plus the sign-extended immediate. -/
  | addi (h : Hdr) (imm : BitVec 30)
  /-- SUB (R160): Delivers L − R. -/
  | sub (h : Hdr)
  /-- MUL (R160): Delivers the low 64 bits of L × R. -/
  | mul (h : Hdr)
  /-- MULH_S (R160): Delivers the signed high half of L × R. -/
  | mulhS (h : Hdr)
  /-- MULH_Z (R160): Delivers the unsigned high half of L × R. -/
  | mulhZ (h : Hdr)
  /-- DIV_S (R161): Delivers the signed quotient truncated toward zero, without faulting. -/
  | divS (h : Hdr)
  /-- DIV_Z (R161): Delivers the unsigned quotient, without faulting. -/
  | divZ (h : Hdr)
  /-- REM_S (R161): Delivers the signed remainder. -/
  | remS (h : Hdr)
  /-- REM_Z (R161): Delivers the unsigned remainder. -/
  | remZ (h : Hdr)
  /-- AND (R160): Delivers L AND R. -/
  | and (h : Hdr)
  /-- OR (R160): Delivers L OR R. -/
  | or (h : Hdr)
  /-- XOR (R160): Delivers L XOR R. -/
  | xor (h : Hdr)
  /-- ANDN (R160): Delivers L AND NOT R. -/
  | andn (h : Hdr)
  /-- NOT (R162): Delivers NOT L. -/
  | not (h : Hdr)
  /-- SHL (R160): Shifts L left by R[5:0]. -/
  | shl (h : Hdr)
  /-- SHR (R160): Shifts L right by R[5:0] with zero fill. -/
  | shr (h : Hdr)
  /-- SAR (R160): Shifts L right by R[5:0] with sign fill. -/
  | sar (h : Hdr)
  /-- ROL (R160): Rotates L left by R[5:0]. -/
  | rol (h : Hdr)
  /-- CLZ (R162): Counts the leading zero bits of L. -/
  | clz (h : Hdr)
  /-- CTZ (R162): Counts the trailing zero bits of L. -/
  | ctz (h : Hdr)
  /-- POPC (R162): Counts the 1 bits of L. -/
  | popc (h : Hdr)
  /-- MIN_S (R160): Delivers the signed minimum. -/
  | minS (h : Hdr)
  /-- MIN_Z (R160): Delivers the unsigned minimum. -/
  | minZ (h : Hdr)
  /-- MAX_S (R160): Delivers the signed maximum. -/
  | maxS (h : Hdr)
  /-- MAX_Z (R160): Delivers the unsigned maximum. -/
  | maxZ (h : Hdr)
  /-- SEXT (R162): Sign-extends the low 8, 16 or 32 bits of L. -/
  | sext (h : Hdr) (w : Width)
  /-- ZEXT (R162): Zero-extends the low 8, 16 or 32 bits of L. -/
  | zext (h : Hdr) (w : Width)
  /-- BEXT (R162): Extracts bit field pos, len of L. -/
  | bext (h : Hdr) (pos : BitVec 6) (len1 : BitVec 6)
  /-- BINS (R162): Inserts R[len−1:0] into L at pos. -/
  | bins (h : Hdr) (pos : BitVec 6) (len1 : BitVec 6)
  /-- MOVI (R163): Delivers the sign-extended immediate. -/
  | movi (h : Hdr) (imm : BitVec 30)
  /-- MOVHI (R163): Replaces one 16-bit lane of L by imm16. -/
  | movhi (h : Hdr) (lane : BitVec 2) (imm : BitVec 16)
  /-- SEL (R164): Delivers L or R by the selector in slot Q. -/
  | sel (h : Hdr)
  /-- CMP_EQ (R165): Delivers L = R and optionally writes a predicate at commit. -/
  | cmpEq (h : Hdr) (wr : Bool) (qi : BitVec 4)
  /-- CMP_NE (R165): Delivers L ≠ R. -/
  | cmpNe (h : Hdr) (wr : Bool) (qi : BitVec 4)
  /-- CMP_LT_S (R165): Delivers signed L < R. -/
  | cmpLtS (h : Hdr) (wr : Bool) (qi : BitVec 4)
  /-- CMP_LT_Z (R165): Delivers unsigned L < R. -/
  | cmpLtZ (h : Hdr) (wr : Bool) (qi : BitVec 4)
  /-- CMP_LE_S (R165): Delivers signed L ≤ R. -/
  | cmpLeS (h : Hdr) (wr : Bool) (qi : BitVec 4)
  /-- CMP_LE_Z (R165): Delivers unsigned L ≤ R. -/
  | cmpLeZ (h : Hdr) (wr : Bool) (qi : BitVec 4)
  /-- TEST (R165): Delivers (L AND R) ≠ 0. -/
  | test (h : Hdr) (wr : Bool) (qi : BitVec 4)
  /-- QAND (R165): Delivers L[0] AND R[0]. -/
  | qand (h : Hdr) (wr : Bool) (qi : BitVec 4)
  /-- QOR (R165): Delivers L[0] OR R[0]. -/
  | qor (h : Hdr) (wr : Bool) (qi : BitVec 4)
  /-- MADD_M (R166): Delivers (L + R) mod q of a valid modulus register. -/
  | maddM (h : Hdr) (m : BitVec 4)
  /-- MSUB_M (R166): Delivers (L − R) mod q. -/
  | msubM (h : Hdr) (m : BitVec 4)
  /-- MMUL_M (R166): Delivers (L × R) mod q. -/
  | mmulM (h : Hdr) (m : BitVec 4)
  /-- MRED (R166): Delivers L mod q. -/
  | mred (h : Hdr) (m : BitVec 4)
  /-- RDG (R167): Delivers the sequential value of a general register. -/
  | rdg (h : Hdr) (g : BitVec 6)
  /-- WRG (R167): Resolves a general register with L, written at commit. -/
  | wrg (h : Hdr) (g : BitVec 6)
  /-- MOV (R167): Delivers L unchanged to up to two targets. -/
  | mov (h : Hdr)
  /-- NULL_EFFECT (R168): Counts as n effects and delivers a completion token. -/
  | nullEffect (h : Hdr) (n : BitVec 8)
  /-- NULL_REG (R168): Resolves a general register as unchanged and delivers a token. -/
  | nullReg (h : Hdr) (g : BitVec 6)
  /-- LAND (R169): Carries a landing label for BRI and RET, with no effect. -/
  | land (h : Hdr) (num : BitVec 12)
  /-- BR (R171): Makes the block's successor the computed block address. -/
  | br (h : Hdr) (off : BitVec 30)
  /-- BRI (R172): Branches through a bounded jump table entry with a required label. -/
  | bri (h : Hdr) (off : BitVec 18) (last : BitVec 12)
  /-- CALL (R171): Branches and writes the fall-through address to LINK at commit. -/
  | call (h : Hdr) (off : BitVec 30)
  /-- RET (R173): Transfers to address L, requiring label 0. -/
  | ret (h : Hdr)
  /-- HALT (R171): Halts the woodward after commit. -/
  | halt (h : Hdr)
  /-- BKPT (R180): Commits the block, then traps with BREAKPOINT and the code. -/
  | bkpt (h : Hdr) (num : BitVec 12)
  /-- CVTA_TO (R176): Converts a generic address to a space offset, or NONE. -/
  | cvtaTo (h : Hdr) (sp : Space)
  /-- CVTA_FROM (R176): Converts a space offset to a generic address, or NONE. -/
  | cvtaFrom (h : Hdr) (sp : Space)
  /-- ISSPACE (R176): Tests whether L lies in a space's window. -/
  | isspace (h : Hdr) (sp : Space)
  /-- LEA (R176): Computes L + offset, converted into the named space. -/
  | lea (h : Hdr) (sp : Space) (off : BitVec 23)
  /-- APERQ (R176): Delivers the base of a space window. -/
  | aperq (h : Hdr) (sp : Space)
  /-- LD (R259): Loads 1–8 bytes, extends them and delivers value and token. -/
  | ld (h : Hdr) (ty : MemType) (sp : Space) (off : BitVec 23)
  /-- ST (R259): Buffers a store of R written at commit. -/
  | st (h : Hdr) (ty : MemType) (sp : Space) (off : BitVec 23)
  /-- LD_T (R260): Warms translation and the read set without ever faulting. -/
  | ldT (h : Hdr) (sp : Space) (off : BitVec 23)
  /-- GSAVE (R261): Stores up to 16 general registers as consecutive words, all checked first. -/
  | gsave (h : Hdr) (first : BitVec 6) (cnt1 : BitVec 4) (sp : Space) (off : BitVec 17)
  /-- GLOAD (R261): Loads up to 16 general registers at commit, all words checked first. -/
  | gload (h : Hdr) (first : BitVec 6) (cnt1 : BitVec 4) (sp : Space) (off : BitVec 17)
  /-- ATOM_ADD (R263): Atomically adds R to a held word at the commit frontier. -/
  | atomAdd (h : Hdr) (a : AtomHdr)
  /-- ATOM_MINMAX (R263): Atomically takes the signed or unsigned minimum or maximum. -/
  | atomMinmax (h : Hdr) (a : AtomHdr) (op : MinMaxOp)
  /-- ATOM_BIT (R263): Atomically applies AND, OR or XOR. -/
  | atomBit (h : Hdr) (a : AtomHdr) (op : BitOp)
  /-- ATOM_XCHG (R263): Atomically exchanges the word with R. -/
  | atomXchg (h : Hdr) (a : AtomHdr)
  /-- ATOM_CAS (R263): Atomically compares the word with R and writes gN if they are equal. -/
  | atomCas (h : Hdr) (a : AtomHdr) (g : BitVec 6)
  /-- FENCE (R264): Orders the atomics of the glade at its scope from its commit. -/
  | fence (h : Hdr) (order : MemOrder) (scope : Scope)
  /-- TSK_STAMP (R177): Sets TASK.FLOOR to L at commit. -/
  | tskStamp (h : Hdr)
  /-- TSK_YIELD (R178): Stops prediction past the block until it commits. -/
  | tskYield (h : Hdr)
  /-- TSK_YIELD_PHASE (R178): Puts the woodward at its phase mark at commit. -/
  | tskYieldPhase (h : Hdr)
  /-- TSK_QUERY (R179): Delivers TASK.TS, TASK.FLOOR or TASK.ABORTS. -/
  | tskQuery (h : Hdr) (sel : QuerySel)
  /-- ORD_STAND (R297): Enters a stand order that installs a standing operation. -/
  | ordStand (h : Hdr) (o : OrdHdr)
  /-- ORD_STANDX (R298): Enters a stand order in another position's stand queue. -/
  | ordStandx (h : Hdr) (o : OrdHdr) (ux : BitVec 3) (uy : BitVec 4)
  /-- ORD_RAFT (R302): Enters a raft order that streams tiles in COPY, OPEN or SEAL mode. -/
  | ordRaft (h : Hdr) (o : OrdHdr)
  /-- ORD_RAFTX (R294): Enters a raft order in another position's raft queue. -/
  | ordRaftx (h : Hdr) (o : OrdHdr) (ux : BitVec 3) (uy : BitVec 4)
  /-- ORD_RUN (R307): Enters a run order of n counts. -/
  | ordRun (h : Hdr) (o : OrdHdr)
  /-- ORD_RUNX (R307): Enters a run order in another position's run queue. -/
  | ordRunx (h : Hdr) (o : OrdHdr) (ux : BitVec 3) (uy : BitVec 4)
  /-- ORD_WLOAD (R305): Enters a weight-load order filling the idle planes. -/
  | ordWload (h : Hdr) (o : OrdHdr)
  /-- ORD_LINK (R306): Enters a link order landing tiles in a remote zone. -/
  | ordLink (h : Hdr) (o : OrdHdr)
  /-- ORD_TOKEN (R308): Adds one credit to a credit FIFO, now or at a start offset. -/
  | ordToken (h : Hdr) (o : OrdHdr)
  /-- ORD_STEER (R299): Appends a route entry to the stand's steering queue when it starts. -/
  | ordSteer (h : Hdr) (o : OrdHdr) (entry : BitVec 8)
  /-- ORD_MODE (R307): Places mode-switch motes into SIDE ports of the masked stems and rows. -/
  | ordMode (h : Hdr) (o : OrdHdr) (mode : BitVec 16)
  /-- ORD_BOUGH (R307): Requests activation of a bough at the next phase boundary. -/
  | ordBough (h : Hdr) (o : OrdHdr) (b : Bool)
  /-- ARM (R324): Checks a descriptor and its images and arms an entry at commit. -/
  | arm (h : Hdr)
  /-- DISARM (R325): Makes an armed entry DISARMING. -/
  | disarm (h : Hdr)
  /-- RTE_SET (R328): Writes a route-table entry at commit. -/
  | rteSet (h : Hdr)
  /-- RILL_SET (R332): Reconfigures and re-arms an unbound rill. -/
  | rillSet (h : Hdr)
  /-- RILL_GET (R333): Delivers a rill's state, arrived count or configuration; STATE acquires when reached. -/
  | rillGet (h : Hdr) (fn : RillFn)
  /-- RILL_RESET (R334): Delivers the rill's state and re-arms it at commit. -/
  | rillReset (h : Hdr)
  /-- TAG_LOOK_LOOKUP (R337): Looks up a global address in the tag table, reporting hit or victim. -/
  | tagLookLookup (h : Hdr)
  /-- TAG_LOOK_READ (R337): Delivers a tag-table slot word. -/
  | tagLookRead (h : Hdr)
  /-- TAG_SET (R338): Writes a whole tag-table slot. -/
  | tagSet (h : Hdr)
  /-- TAG_SET_SECT (R338): Changes only the sector bits of a valid slot. -/
  | tagSetSect (h : Hdr)
  /-- TAG_INV (R338): Delivers a slot word and clears it at commit. -/
  | tagInv (h : Hdr)
  /-- SLOT_RES (R341): Reserves slots of a destination zone under the source key. -/
  | slotRes (h : Hdr)
  /-- SLOT_REL_RELEASE (R342): Ends a key's reservation on a zone at commit. -/
  | slotRelRelease (h : Hdr)
  /-- SLOT_REL_DONE (R342): Returns a FULL own slot to RESERVED and sends its notice. -/
  | slotRelDone (h : Hdr)
  /-- SLOT_QRY (R343): Delivers a slot-state mask or a slot's key. -/
  | slotQry (h : Hdr) (fn : SlotFn)
  /-- TSLOT_SET (R346): Sets a time-slot entry from the next phase boundary. -/
  | tslotSet (h : Hdr)
  /-- PLACE_PART (R348): Delivers the own context's partition rectangle. -/
  | placePart (h : Hdr)
  /-- PLACE_HEALTH (R348): Delivers half of the die's runtime health map. -/
  | placeHealth (h : Hdr)
  /-- PLACE_BUSY (R348): Delivers which glades hold a unit in the active bough. -/
  | placeBusy (h : Hdr)
  /-- PLACE_FIT (R348): Applies the placement test to a query without placing anything. -/
  | placeFit (h : Hdr)
  /-- SEED_OPEN (R364): Opens a seed bank with a reserve and a backing. -/
  | seedOpen (h : Hdr)
  /-- SEED_APPEND (R365): Appends an accepted token to a bank, trimming if it is full. -/
  | seedAppend (h : Hdr)
  /-- SEED_DRAFT (R366): Selects draft branches and writes the draft record. -/
  | seedDraft (h : Hdr) (lmin : BitVec 5) (bmax1 : BitVec 2) (dmax1 : BitVec 4)
  /-- SEED_SAVE (R368): Writes a compact image of the bank's window. -/
  | seedSave (h : Hdr)
  /-- SEED_LOAD (R369): Loads an image into a bank and starts a replay. -/
  | seedLoad (h : Hdr)
  /-- SEED_TRIM (R367): Trims the window to C/2 tokens and starts a replay. -/
  | seedTrim (h : Hdr)
  /-- SEED_CLOSE (R370): Writes back and closes a bank, freeing its handle. -/
  | seedClose (h : Hdr)
  /-- GRAFT_FETCH (R378): Starts fetching a graft image into the pool. -/
  | graftFetch (h : Hdr)
  /-- GRAFT_PIN (R378): Pins a READY graft and delivers its pool address, or faults with a miss or bad hash. -/
  | graftPin (h : Hdr)
  /-- GRAFT_UNPIN (R380): Releases one pin of the launch. -/
  | graftUnpin (h : Hdr)
  /-- GRAFT_QRY_STATE (R381): Delivers the state word of a graft entry. -/
  | graftQryState (h : Hdr)
  /-- GRAFT_QRY_FIND (R381): Finds the handle of the context's graft by id and version. -/
  | graftQryFind (h : Hdr)
  /-- TL_READ (R388): Delivers an item of an engine timeline. -/
  | tlRead (h : Hdr) (tl : Peer) (item : TlItem)
  /-- TL_WAIT_GE (R389): Waits until retired ≥ L, then acquires at commit. -/
  | tlWaitGe (h : Hdr) (tl : Peer)
  /-- TL_WAIT_LAG (R389): Waits until issued − retired ≤ L. -/
  | tlWaitLag (h : Hdr) (tl : Peer)
  /-- CC_READ (R392): Delivers the count, status or nonok count of a completion counter. -/
  | ccRead (h : Hdr) (item : CcItem)
  /-- CC_WAIT (R392): Waits until a counter reaches R, then acquires. -/
  | ccWait (h : Hdr)
  /-- CC_ADD (R393): Adds R to a soft counter at commit, as a release. -/
  | ccAdd (h : Hdr) (b : BitVec 2)
  /-- CANCEL (R394): Cancels the selected objects at commit, forced or at the boundary. -/
  | cancel (h : Hdr) (b : Bool)
  /-- PEN_BRANCH (R398): Opens a penalty overlay from a draft branch. -/
  | penBranch (h : Hdr) (b : BitVec 2)
  /-- PEN_ACCEPT (R399): Merges the accepted tokens into the base counts and closes the overlay. -/
  | penAccept (h : Hdr) (b : BitVec 2)
  /-- PEN_DROP (R400): Closes the masked overlays. -/
  | penDrop (h : Hdr) (mask : BitVec 4)
  /-- USE_SIGN (R403): Has the heartwood sign a usage record of the job. -/
  | useSign (h : Hdr)
  /-- PERF_READ (R405): Delivers a per-context performance count. -/
  | perfRead (h : Hdr)
  /-- LIFE_READ (R407): Delivers a lifetime counter or histogram bin. -/
  | lifeRead (h : Hdr)
  /-- TRAP (R180): Commits the block, then traps with a software cause. -/
  | trap (h : Hdr) (n : BitVec 5)
  /-- TRET (R182): Leaves the handler and resumes at TRAP.BLOCK, the phase mark or the halt. -/
  | tret (h : Hdr)
  /-- SRD (R183): Delivers a system register, clearing an RC register at commit. -/
  | srd (h : Hdr) (num : BitVec 12)
  /-- SWR (R183): Writes a system register at commit under its access code. -/
  | swr (h : Hdr) (num : BitVec 12)
  /-- EVWAIT (R185): Waits for an event count beyond its ordinal and consumes it at commit. -/
  | evwait (h : Hdr) (n : BitVec 8)
  /-- EVSEND (R184): Adds 1 to an event count of the destinations at commit, as a release. -/
  | evsend (h : Hdr) (n : BitVec 8)
  /-- HW_CALL_SAMPLE_KEY (R186): Derives the glade's sampler key from a party seed. -/
  | hwCallSampleKey (h : Hdr) (svc : BitVec 12)
  /-- HW_CALL_ENTROPY (R186): Writes 32 bytes of heartwood random output to the burrow. -/
  | hwCallEntropy (h : Hdr)
  /-- TEST_CLR (R187): Delivers the last in-field test status and requests a new test. -/
  | testClr (h : Hdr)
  /-- FADD (R202): Per lane FP32 A + B. -/
  | fadd (d : Dest) (imm : BitVec 12)
  /-- FSUB (R202): Per lane FP32 A − B. -/
  | fsub (d : Dest) (imm : BitVec 12)
  /-- FMUL (R202): Per lane FP32 A × B. -/
  | fmul (d : Dest) (imm : BitVec 12)
  /-- FMA (R202): Per lane A × B + C with one rounding. -/
  | fma (d : Dest) (imm : BitVec 12)
  /-- FNMA (R202): Per lane C − A × B with one rounding. -/
  | fnma (d : Dest) (imm : BitVec 12)
  /-- FMIN (R202): Per lane FP32 minimum. -/
  | fmin (d : Dest) (imm : BitVec 12)
  /-- FMAX (R202): Per lane FP32 maximum. -/
  | fmax (d : Dest) (imm : BitVec 12)
  /-- FMOD (R202): Per lane absolute value and/or negation. -/
  | fmod (d : Dest) (neg : Bool) (abs : Bool)
  /-- FCMP (R202): Per lane FP32 comparison giving all ones or 0. -/
  | fcmp (d : Dest) (r : FRel)
  /-- FSEL (R202): Per lane selects A or B by C. -/
  | fsel (d : Dest) (imm : BitVec 12)
  /-- FRND (R202): Per lane rounds to an integral value in the element's mode. -/
  | frnd (d : Dest) (imm : BitVec 12)
  /-- FCLAMP (R202): Per lane clamps A between B and C. -/
  | fclamp (d : Dest) (imm : BitVec 12)
  /-- FSCALE (R202): Per lane A × 2^B with one rounding. -/
  | fscale (d : Dest) (imm : BitVec 12)
  /-- CVT_F32_BF16 (R203): Widens two BF16 elements to FP32 lanes. -/
  | cvtF32Bf16 (d : Dest) (h : BitVec 1)
  /-- CVT_BF16_F32 (R203): Packs four FP32 lanes into BF16 values. -/
  | cvtBf16F32 (d : Dest)
  /-- CVT_F32_E4M3 (R203): Widens two E4M3 bytes to FP32 lanes. -/
  | cvtF32E4m3 (d : Dest) (p : BitVec 2)
  /-- CVT_E4M3_F32 (R203): Converts four FP32 lanes into E4M3 bytes of C. -/
  | cvtE4m3F32 (d : Dest) (h : BitVec 1)
  /-- CVT_E2M1_F32 (R203): Converts four FP32 lanes into E2M1 nibbles of C. -/
  | cvtE2m1F32 (d : Dest) (p : BitVec 2)
  /-- CVT_IF (R204): Converts between integer lanes and FP32. -/
  | cvtIf (d : Dest) (ty : IntType) (dir : Bool)
  /-- IADD (R207): Per lane integer add. -/
  | iadd (d : Dest) (ty : IntType) (imm : BitVec 12)
  /-- ISUB (R207): Per lane integer subtract. -/
  | isub (d : Dest) (ty : IntType) (imm : BitVec 12)
  /-- IMUL (R207): Per lane low half of the product. -/
  | imul (d : Dest) (ty : IntType) (imm : BitVec 12)
  /-- IMULH (R207): Per lane high half of the product. -/
  | imulh (d : Dest) (ty : IntType) (imm : BitVec 12)
  /-- IAND (R207): Per lane AND. -/
  | iand (d : Dest) (ty : IntType) (imm : BitVec 12)
  /-- IOR (R207): Per lane OR. -/
  | ior (d : Dest) (ty : IntType) (imm : BitVec 12)
  /-- IXOR (R207): Per lane XOR. -/
  | ixor (d : Dest) (ty : IntType) (imm : BitVec 12)
  /-- ISHL (R207): Per lane shift left. -/
  | ishl (d : Dest) (ty : IntType) (imm : BitVec 12)
  /-- ISHR (R207): Per lane shift right with zero fill. -/
  | ishr (d : Dest) (ty : IntType) (imm : BitVec 12)
  /-- ISAR (R207): Per lane shift right with sign fill. -/
  | isar (d : Dest) (ty : IntType) (imm : BitVec 12)
  /-- IMIN (R207): Per lane minimum. -/
  | imin (d : Dest) (ty : IntType) (imm : BitVec 12)
  /-- IMAX (R207): Per lane maximum. -/
  | imax (d : Dest) (ty : IntType) (imm : BitVec 12)
  /-- ICMP (R207): Per lane integer comparison. -/
  | icmp (d : Dest) (ty : IntType) (r : IRel)
  /-- ISEL (R207): Per lane selects A or B by C. -/
  | isel (d : Dest) (ty : IntType) (imm : BitVec 12)
  /-- MMUL (R209): Modular product of A and B. -/
  | mmul (d : Dest) (m : BitVec 4)
  /-- MADD (R209): Modular sum of A and B. -/
  | madd (d : Dest) (m : BitVec 4)
  /-- MSUB (R209): Modular difference of A and B. -/
  | msub (d : Dest) (m : BitVec 4)
  /-- BFLY (R209): Forward butterfly with two results one cycle apart. -/
  | bfly (d : Dest) (m : BitVec 4)
  /-- IBFLY (R209): Inverse butterfly with two results one cycle apart. -/
  | ibfly (d : Dest) (m : BitVec 4)
  /-- PASS (R210): Result := A with tags kept. -/
  | pass (d : Dest) (ty : ElemType) (imm : BitVec 12)
  /-- PASS_THRU (R65): Pass-through: the result register takes the pass-lane source with latency 1. -/
  | passThru
  /-- HOLD (R210): Writes A only when C.data[0] is 1. -/
  | hold (d : Dest) (ty : ElemType) (imm : BitVec 12)
  /-- CONST (R210): Result := the widened immediate. -/
  | const (d : Dest) (ty : ElemType) (imm : BitVec 12)
  /-- AG_CNT (R211): Level-1 address counter emitting i × B and wrapping. -/
  | agCnt (d : Dest) (n : BitVec 12)
  /-- AG_LINK (R211): Higher address level advancing when the lower levels wrap. -/
  | agLink (d : Dest) (l : BitVec 4) (n : BitVec 8)
  /-- AG_LD (R212): Issues a load at B + A whose reply goes to the AGR lane. -/
  | agLd (d : Dest) (sp : Space) (z : AgSize)
  /-- AG_ST (R212): Issues a store of C at B + A. -/
  | agSt (d : Dest) (sp : Space) (z : AgSize)
  /-- AG_GATH (R212): Issues a gather load at B + A × size. -/
  | agGath (d : Dest) (sp : Space) (z : AgSize)
  /-- AG_SCAT (R212): Issues a scatter store at B + A × size. -/
  | agScat (d : Dest) (sp : Space) (z : AgSize)
  /-- AG_ATOM (R212): Issues a relaxed atomic at B + A and returns the old value. -/
  | agAtom (d : Dest) (sc : Scope) (op : AgOp) (sp : Space) (z : Bool)
  /-- RED_FADD (R216): Reduces the stem's rows by FP32 sum in a fixed tree. -/
  | redFadd (d : Dest) (msk : Bool)
  /-- RED_FMAX (R216): Reduces the stem's rows by FP32 maximum. -/
  | redFmax (d : Dest) (msk : Bool)
  /-- RED_IADD (R216): Reduces the stem's rows by a sum modulo 2^64. -/
  | redIadd (d : Dest) (z : Bool) (msk : Bool)
  /-- RED_ARGMAX (R216): Reduces the stem's rows to the index of the maximum. -/
  | redArgmax (d : Dest) (msk : Bool)
  /-- RED_SMERGE (R217): Joins partial softmax states across the stem's rows. -/
  | redSmerge (d : Dest) (msk : Bool)
  /-- JOIN_ISECT (R220): Intersects two sorted streams. -/
  | joinIsect (d : Dest) (wide : Bool) (lv : BitVec 4)
  /-- JOIN_UNION (R220): Unions two sorted streams. -/
  | joinUnion (d : Dest) (wide : Bool) (lv : BitVec 4)
  /-- JOIN_MERGE (R220): Merges two sorted streams stably. -/
  | joinMerge (d : Dest) (wide : Bool) (lv : BitVec 4)
  /-- SAMP_INIT (R222): Clears the sampling state and sets the path index. -/
  | sampInit (d : Dest) (p : BitVec 6)
  /-- SAMP_STEP (R223): One weighted reservoir step, drawing two words. -/
  | sampStep (d : Dest) (f : BitVec 6)
  /-- SAMP_EMIT (R222): Emits the candidate and flags, and optionally clears them. -/
  | sampEmit (d : Dest) (clr : Bool)
  /-- RNG (R222): Draws two random words into the two lanes. -/
  | rng (d : Dest)
  /-- EXP2 (R225): Fern 2^x, correctly rounded. -/
  | exp2 (d : Dest) (imm : BitVec 12)
  /-- LOG2 (R225): Fern log2 x, correctly rounded. -/
  | log2 (d : Dest) (imm : BitVec 12)
  /-- RCP (R225): Fern 1/x. -/
  | rcp (d : Dest) (imm : BitVec 12)
  /-- RSQRT (R225): Fern 1/√x. -/
  | rsqrt (d : Dest) (imm : BitVec 12)
  /-- SQRT (R225): Fern √x. -/
  | sqrt (d : Dest) (imm : BitVec 12)
  /-- TANH (R225): Fern tanh x. -/
  | tanh (d : Dest) (imm : BitVec 12)
  /-- ERF (R225): Fern erf x. -/
  | erf (d : Dest) (imm : BitVec 12)
  /-- BND_REL (R226): Delivers A once the unit's earlier AG writes are visible at the element's scope. -/
  | bndRel (d : Dest) (ty : ElemType)
  /-- RES_CHK (R227): Checks A's residue and error tag, marking err or faulting. -/
  | resChk (d : Dest) (ty : ElemType) (flt : Bool)
  /-- SEQ_TAG (R228): Checks port motes for sequence order, dropping duplicates and faulting on gaps. -/
  | seqTag (d : Dest) (ty : ElemType)
  /-- RILL_IN (R229): Takes the head of the row's lane of a rill's decode output. -/
  | rillIn (d : Dest) (ty : ElemType) (r : BitVec 5)
  /-- RILL_OUT (R230): Sends A as a mote on a rill. -/
  | rillOut (d : Dest) (ty : ElemType) (r : BitVec 5)
  /-- POWER_ON (R453): Power is applied and the package runs bring-up: boot, measurement, part-record check, HBM zeroing, crown-die release and the first in-field tests. -/
  | powerOn (failed : List Nat)
  /-- THERMAL_SHUTDOWN (R454): At 115 °C the device writes the lifetime records, cancels every job and holds the crown dies in reset. -/
  | thermalShutdown
  /-- CLOCK_STEP (R454): A die steps its glade clock to stay under the power cap and the junction limit. -/
  | clockStep (die : Nat) (step : Nat)
  /-- LIFETIME_FLUSH (R406): Every hour the package writes its lifetime counters and histograms to serial flash. -/
  | lifetimeFlush
  /-- VF_RESET (R424): An accepted VF reset advances INCARN, disables the VF's rings, cancels its jobs, reclaims its reservations and reports VF_RESET to PF0. -/
  | vfReset (vf : Nat)
  /-- TDI_STOP (R446): A VF's TDI leaves RUN; if the VF holds a CONFIDENTIAL job, this is handled as a VF reset. -/
  | tdiStop (vf : Nat) (error : Bool)
  /-- REGISTER_WRITE (R12): A host write to a BAR register that has no behaviour of its own sets the register under its access code. -/
  | registerWrite (fn : Nat) (off : Nat) (v : Word) (granted : Bool) (tbit : Bool)
  /-- RING_ENABLE (R311): A write of RING.CTL enable checks the size, widx and translation of the ring and makes it ACTIVE or records a cause. -/
  | ringEnable (vf : Nat) (ring : Nat) (granted : Bool) (tbit : Bool)
  /-- RING_TEARDOWN_DRAIN (R313): A DRAIN teardown fixes the dispatched messages, lets their launches complete and cancels the unfetched messages with records. -/
  | ringTeardownDrain (vf : Nat) (ring : Nat) (tbit : Bool)
  /-- RING_TEARDOWN_CANCEL (R313): A CANCEL teardown cancels the dispatched launches and writes CANCELLED records for the unfetched messages. -/
  | ringTeardownCancel (vf : Nat) (ring : Nat) (tbit : Bool)
  /-- RING_WIDX_WRITE (R311): A write of RING.WIDX publishes messages, or puts the ring into ERROR when widx is at or above size. -/
  | ringWidxWrite (vf : Nat) (ring : Nat) (v : Word) (tbit : Bool)
  /-- RING_DRAIN_COMPLETE (R311): A DRAINING ring whose records are all written becomes DISABLED with ridx := widx. -/
  | ringDrainComplete (vf : Nat) (ring : Nat)
  /-- RING_FETCH (R312): An ACTIVE ring with ridx ≠ widx fetches the next tagged message, advances ridx and hands the message to the arm-table front end. -/
  | ringFetch (vf : Nat) (ring : Nat) (ok : Bool)
  /-- TINV_PAGE (R251): TINV.CMD kind 1 invalidates the translation entries covering the page of TINV.ADDR for the named context. -/
  | tinvPage (vf : Nat) (cmd : Word) (tbit : Bool)
  /-- TINV_CONTEXT (R251): TINV.CMD kind 2 invalidates every translation entry of the named context. -/
  | tinvContext (vf : Nat) (cmd : Word) (tbit : Bool)
  /-- TINV_COMPLETE (R251): An invalidation command completes once no cache holds a covered entry and covered accesses are performed, and TINV.DONE advances. -/
  | tinvComplete (vf : Nat)
  /-- FQ_RCNT_WRITE (R315): A write of FQ.RCNT consumes fault records, and is ignored below the current value or above wcnt. -/
  | fqRcntWrite (fn : Nat) (v : Word) (tbit : Bool)
  /-- FQ_LOST_READ (R315): A read of FQ.LOST returns the dropped-record count and clears it. -/
  | fqLostRead (fn : Nat) (tbit : Bool)
  /-- MSIX_MESSAGE (R447): An MSI-X vector sends a message, at most once per µs, covering every record written before it. -/
  | msixMessage (fn : Nat) (vec : Nat)
  /-- ATS_INVALIDATE (R252): A host ATS Invalidate Request completes once the covered entries are gone and the accesses through them are performed. -/
  | atsInvalidate (vf : Nat) (addr : Nat) (size : Nat)
  /-- PRG_RESPONSE (R253): A page request group response retries or faults the waiting accesses, or is discarded as stale. -/
  | prgResponse (vf : Nat) (idx : Nat) (ok : Bool)
  /-- PRG_TIMEOUT (R253): A page request with no response within 100 ms faults each waiting access with HOST_PAGE. -/
  | prgTimeout (vf : Nat) (idx : Nat)
  /-- PAGE_REQUEST (R317): An access needing a host page takes the lowest free PRG index and sends one Page Request, or joins an existing one. -/
  | pageRequest (vf : Nat) (page : Nat)
  /-- WALK_COMPLETE (R250): A table walk completes, fills the translation caches and lets the waiting accesses, or a held AG request, proceed or fault. -/
  | walkComplete (glade : Nat)
  /-- SELECTION_PASS (R54): Every 64 cy the forester serves one context of the lowest placeable class by deficit round robin. -/
  | selectionPass (die : Nat)
  /-- LAUNCH_BOOST (R51): A batch or background launch eligible for 1 ms without placement is raised by one class. -/
  | launchBoost (die : Nat) (idx : Nat)
  /-- RESERVING_TIMEOUT (R55): A launch that has been at the head of its queue for 1 ms, blocked by occupied glades, becomes reserving. -/
  | reservingTimeout (die : Nat) (idx : Nat)
  /-- LAUNCH_START (R39): Once all units are placed and loaded, the start pulse zeroes the counters and sets the registers in every present glade. -/
  | launchStart (die : Nat) (idx : Nat)
  /-- UNIT_COMPLETE (R42): In the first cy in which every present glade of a unit is done, the unit counter advances. -/
  | unitComplete (die : Nat) (idx : Nat) (upos : Nat)
  /-- PHASE_BOUNDARY (R43): When every present glade is at its mark with its orders retired, the phase counter advances and the actions of R44 are applied. -/
  | phaseBoundary (die : Nat) (idx : Nat)
  /-- BOUGH_SAVE_WRITE (R420): Within 20 µs the outgoing bough's state is written to its save record. -/
  | boughSaveWrite (die : Nat) (idx : Nat)
  /-- PHASE_LIMIT_EXPIRY (R44): A phase that has run past its job's phase limit while a higher-class launch waits is pre-empted by force. -/
  | phaseLimitExpiry (die : Nat) (idx : Nat)
  /-- CANCEL_PROCESS (R45): The forester applies a cancel: it aborts tasks, quiesces engines, releases reservations and advances counters CANCELLED. -/
  | cancelProcess (die : Nat)
  /-- PERIOD_ROLLOVER (R52): An accounting period rolls over and the over-quota hold of a job is released. -/
  | periodRollover (ctx : Nat)
  /-- INFIELD_TEST (R426): At the boundary after a request, the clearing's launches are held and the clearing is tested. -/
  | infieldTest (clearing : Nat) (pass : Bool)
  /-- TIME_SLOT_EVENT (R345): A valid time-slot entry adds 1 to EVC of its destinations at its offset in the phase. -/
  | timeSlotEvent (die : Nat) (idx : Nat) (slot : Nat)
  /-- CONTEXT_CYCLE (R63): The context counter advances one context cycle unless a hold, a fault or a swap freezes it, and the running rows issue their ring words. -/
  | contextCycle (glade : Nat)
  /-- RESULT_LAND (R191): An element result lands in its result register, and on the stream-out port for RSO. -/
  | resultLand (glade : Nat)
  /-- FERN_RESULT_LAND (R195): A fern result reaches its landing position in the stem's age queue and the requester's result register. -/
  | fernResultLand (glade : Nat)
  /-- AG_REPLY (R213): An AG load or atomic reply enters the element's reply queue in issue order. -/
  | agReply (glade : Nat) (stem : Nat) (row : Nat)
  /-- ENTRY_START_TIMED (R61): A timed queue entry starts on its start offset, or raises TIME_LATE or TIME_STARVE. -/
  | entryStartTimed (glade : Nat) (queue : Nat)
  /-- ENTRY_START_GATED (R61): A token-gated entry starts once it is at the head of its queue and any token it pops is present. -/
  | entryStartGated (glade : Nat) (queue : Nat)
  /-- ENTRY_RETIRE (R277): An entry meets its retirement condition, and the timeline's retired count advances in number order, pushing any token. -/
  | entryRetire (glade : Nat) (queue : Nat)
  /-- CREDIT_TIMER_FIRE (R309): A timed credit reaches its offset and adds a token to its credit FIFO, or raises TIME_STARVE. -/
  | creditTimerFire (glade : Nat)
  /-- STAND_FIRE (R71): A ready standing-op slot fires an A tile into its destination tile set, exchanging planes first for the plane-swap form. -/
  | standFire (glade : Nat)
  /-- STAND_SLOT_RELEASE (R297): When the last A bit-plane enters the array, the A slot becomes EMPTY, its rill is re-armed and a freed-slot notice is sent. -/
  | standSlotRelease (glade : Nat)
  /-- STAND_FIRE_COMPLETE (R72): At s + M×W + 10 the destination tile set changes tag to ACCUM or FULL. -/
  | standFireComplete (glade : Nat)
  /-- DRAIN_BEAT (R73): A FULL tile set with a steering mote delivers the next 128 B beat to every port of the chain when all can take it. -/
  | drainBeat (glade : Nat) (set : Nat)
  /-- RAFT_NOTICE_SERVE (R76): A raft takes the next pending freed-slot notice round robin across rills and starts one tile within 64 cy. -/
  | raftNoticeServe (glade : Nat) (raft : Nat)
  /-- RAFT_TILE_LAND (R302): A raft tile's writes are performed in COPY, OPEN or SEAL mode, and the counted rill advances. -/
  | raftTileLand (glade : Nat) (raft : Nat)
  /-- WLOAD_REGION (R305): The weight-load engine decrypts and checks one 4 KiB region and writes aligned weights into the idle planes, or faults. -/
  | wloadRegion (glade : Nat)
  /-- RILL_ARRIVAL (R329): A counted arrival advances a rill's arrived count, and the rill releases its bytes and fires its event when reached. -/
  | rillArrival (glade : Nat) (rill : Nat) (bytes : Nat)
  /-- LANDING_ARRIVAL (R340): A landing tile or zone mote is written into its reserved slot, moving the slot through FILLING to FULL, or is discarded. -/
  | landingArrival (glade : Nat)
  /-- MOTE_ARRIVAL (R415): A sink checks an arriving mote, accepts it, or discards it and requests re-injection. -/
  | moteArrival (glade : Nat)
  /-- MOTE_REINJECTION (R415): A source re-sends motes from the requested seq out of its replay buffer, or raises REPLAY_EXHAUSTED. -/
  | moteReinjection (glade : Nat) (stream : Nat)
  /-- SEED_REPLAY_STEP (R361): A seed walker indexes the next window token of a bank in REPLAY, and the bank becomes READY when built reaches n. -/
  | seedReplayStep (die : Nat) (bank : Nat)
  /-- GRAFT_FETCH_COMPLETE (R375): The graft fetcher finishes writing an image and verifies its hash and header, making the entry READY or FAILED. -/
  | graftFetchComplete (entry : Nat)
  /-- GRAFT_FETCH_TIMEOUT (R375): A graft fetch with no completion within 100 ms fails with reason 4. -/
  | graftFetchTimeout (entry : Nat)
  /-- WAIT_TIMEOUT (R158): A waiting instruction of the oldest block reaches WAITLIM and faults WAIT_TIMEOUT. -/
  | waitTimeout (glade : Nat) (idx : Nat)
  /-- ORDER_STALL (R287): A block waiting for queue room reaches WAITLIM and faults ORDER_STALL. -/
  | orderStall (glade : Nat)
  /-- BLOCK_FETCH (R113): The woodward fetches and decodes a block, checking range, format, opcodes, targets and landing label. -/
  | blockFetch (glade : Nat)
  /-- BLOCK_COMMIT (R145): The oldest quiescent block at the commit frontier resolves its outputs and commits its writes, or faults. -/
  | blockCommit (glade : Nat)
  /-- LANE_FAILURE (R448): A failed lane makes the link retrain at the next lower width, or takes it down. -/
  | laneFailure (link : Nat) (lane : Nat)
  /-- LINK_UP (R452): At link-up the sides exchange VERSION, run mutual SPDM and join the canopy if every check passes. -/
  | linkUp (link : Nat) (number : Nat) (canopy : Nat) (chain : List Byte) (aliasCert : List Byte) (key : List Byte)
  /-- LINK_DOWN (R451): A link leaves the up state: LINK_DOWN is written, unacknowledged flits dropped, and streams torn. -/
  | linkDown (link : Nat)
  /-- PEER_RECLAIM_TIMEOUT (R344): 100 µs after a peer is lost, every reservation it holds is reclaimed unless a link came back. -/
  | peerReclaimTimeout (peer : Nat)
  /-- FLIT_DATA (R450): A DATA flit delivers landing-tile bytes into a zone slot. -/
  | flitData (link : Nat) (seq : Nat) (ok : Bool) (credits : Nat) (payload : List Byte)
  /-- FLIT_NOTICE (R450): A NOTICE flit carries freed-slot notices back to the stream's source raft. -/
  | flitNotice (link : Nat) (seq : Nat) (ok : Bool) (credits : Nat) (payload : List Byte)
  /-- FLIT_SLOT_RES (R341): A SLOTCTL RES flit asks the destination to reserve slots, and the destination answers. -/
  | flitSlotRes (link : Nat) (seq : Nat) (ok : Bool) (credits : Nat) (payload : List Byte)
  /-- FLIT_SLOT_ANSWER (R341): A SLOTCTL RES or RELEASE answer returns the destination's status to the waiting instruction. -/
  | flitSlotAnswer (link : Nat) (seq : Nat) (ok : Bool) (credits : Nat) (payload : List Byte)
  /-- FLIT_SLOT_RELEASE (R342): A SLOTCTL RELEASE flit queries and holds a key's reservation, which ends at the sender's commit. -/
  | flitSlotRelease (link : Nat) (seq : Nat) (ok : Bool) (credits : Nat) (payload : List Byte)
  /-- FLIT_SLOT_RECLAIM (R344): A SLOTCTL RECLAIM or ENDED flit ends a key's reservations at the destination. -/
  | flitSlotReclaim (link : Nat) (seq : Nat) (ok : Bool) (credits : Nat) (payload : List Byte)
  /-- FLIT_CALL (R314): A CALL flit delivers a tagged message to the arm-table front end, which accepts or rejects it. -/
  | flitCall (link : Nat) (seq : Nat) (ok : Bool) (credits : Nat) (payload : List Byte)
  /-- FLIT_CALL_DONE (R314): A CALL_DONE flit returns a call's completion record to the sender. -/
  | flitCallDone (link : Nat) (seq : Nat) (ok : Bool) (credits : Nat) (payload : List Byte)
  /-- FLIT_SPDM (R450): An SPDM flit carries a fragment of an SPDM message on the link. -/
  | flitSpdm (link : Nat) (seq : Nat) (ok : Bool) (credits : Nat) (payload : List Byte)
  /-- FLIT_NAK (R451): A NAK makes the sender resend a flit from its replay buffer, and eight failures trigger a retrain. -/
  | flitNak (link : Nat) (seq : Nat) (ok : Bool) (credits : Nat) (payload : List Byte)
  /-- FLIT_VERSION (R452): A VERSION control flit fixes the link protocol version. -/
  | flitVersion (link : Nat) (seq : Nat) (ok : Bool) (credits : Nat) (payload : List Byte)
  /-- FLIT_SUSPECT (R427): A SUSPECT notice makes the receiving package raise SUSPECT for its jobs that received from the named glades. -/
  | flitSuspect (link : Nat) (seq : Nat) (ok : Bool) (credits : Nat) (payload : List Byte)
  /-- FLIT_PEER_ABORT (R425): A member job's end advances the collective's abort counter, tears its rills and reports PEER_ABORT. -/
  | flitPeerAbort (link : Nat) (seq : Nat) (ok : Bool) (credits : Nat) (payload : List Byte)
  /-- SLOT_ANSWER_TIMEOUT (R341): A cross-package slot request with no answer within 100 µs delivers NOLINK. -/
  | slotAnswerTimeout (glade : Nat)
  /-- SPDM_GET_VERSION (R431): SPDM GET_VERSION negotiates version 1.3. -/
  | spdmGetVersion (rsp : Nat) (common : Bool)
  /-- SPDM_GET_CAPABILITIES (R431): SPDM GET_CAPABILITIES reports the responder's capabilities. -/
  | spdmGetCapabilities (rsp : Nat)
  /-- SPDM_NEGOTIATE_ALGORITHMS (R431): SPDM NEGOTIATE_ALGORITHMS selects P-256, SHA-256, secp256r1 and AES-256-GCM. -/
  | spdmNegotiateAlgorithms (req : SpdmOffer)
  /-- SPDM_GET_DIGESTS (R431): SPDM GET_DIGESTS returns the digest of certificate slot 0. -/
  | spdmGetDigests (rsp : Nat)
  /-- SPDM_GET_CERTIFICATE (R431): SPDM GET_CERTIFICATE returns the root, device and alias chain. -/
  | spdmGetCertificate (req : SpdmPortion)
  /-- SPDM_CHALLENGE (R431): SPDM CHALLENGE proves possession of the alias key. -/
  | spdmChallenge (req : SpdmParam) (nonce : List Byte)
  /-- SPDM_GET_MEASUREMENTS (R431): SPDM GET_MEASUREMENTS returns M0–M3, signed. -/
  | spdmGetMeasurements (req : SpdmParam) (nonce : List Byte)
  /-- SPDM_KEY_EXCHANGE (R431): SPDM KEY_EXCHANGE starts a secured session. -/
  | spdmKeyExchange (rsp : Nat) (ses : Nat) (secret : List Byte)
  /-- SPDM_FINISH (R431): SPDM FINISH completes the secured session handshake. -/
  | spdmFinish (rsp : Nat) (ses : Nat)
  /-- SPDM_KEY_UPDATE (R431): SPDM KEY_UPDATE refreshes the session keys without changing any session entry's key. -/
  | spdmKeyUpdate (rsp : Nat) (ses : Nat)
  /-- SPDM_HEARTBEAT (R431): SPDM HEARTBEAT keeps a session alive. -/
  | spdmHeartbeat (rsp : Nat) (ses : Nat)
  /-- SPDM_END_SESSION (R431): SPDM END_SESSION ends a session and closes the party's session entries. -/
  | spdmEndSession (rsp : Nat) (ses : Nat)
  /-- SPDM_UNSUPPORTED (R432): A request that is unsupported, or a vendor request outside a secured session, is answered with ERROR UnsupportedRequest. -/
  | spdmUnsupported (rsp : Nat)
  /-- JOB_JOIN (R436): A party binds its index in a job to its SPDM session and receives its session seed. -/
  | jobJoin (ses : Nat) (serial : Nat) (pos : Nat)
  /-- QUOTE (R436): The heartwood returns a signed 384-byte quote with any pending SUSPECT messages. -/
  | quote (ses : Nat) (nonce : List Byte)
  /-- SESSION_OPEN (R438): The heartwood creates a session entry with a derived key and prefixes and returns its handle. -/
  | sessionOpen (ses : Nat)
  /-- SESSION_CLOSE (R438): The party's session entries are closed. -/
  | sessionClose (ses : Nat) (handle : Nat)
  /-- WEIGHT_INSTALL (R442): The heartwood unwraps weight chunks and installs them into OPND regions under a WEIGHTS key. -/
  | weightInstall (ses : Nat) (q : List Byte) (va : Nat) (pos : Nat) (chunks : List (List Byte))
  /-- IMAGE_KEY (R443): A party registers or replaces the job's image key for user-written images. -/
  | imageKey (ses : Nat) (key : List Byte)
  /-- JOB_OPEN (R433): PF0's job-open request is checked, and the heartwood creates keys, zeroes the grant and builds page tables. -/
  | jobOpen (request : List Byte)
  /-- JOB_CLOSE (R437): A job ends: its keys and session entries are erased and its granules returned. -/
  | jobClose (ctx : Nat)
  /-- POWER_CAP_SET (R454): PLDM sets the module power cap between 1,200 and 2,600 W. -/
  | powerCapSet (watts : Nat)
  /-- FIRMWARE_UPDATE (R455): PLDM type 5 writes the inactive firmware slots, which take effect at the next power-on. -/
  | firmwareUpdate (heart : Bool) (img : List Byte) (secver : Nat) (sig : List Byte)
  /-- PLDM_MONITOR (R455): PLDM type 2 returns temperatures, power, clock steps, the health map and lifetime counts. -/
  | pldmMonitor
  /-- PACKAGE_NUMBER_SET (R448): PF0 sets the package number and canopy identifier, after which the links train. -/
  | packageNumberSet (num : Nat) (canopy : Nat)
  /-- USAGE_RECORD_REQUEST (R455): The operator obtains a signed usage record of a job through the management plane. -/
  | usageRecordRequest (ctx : Nat) (nonce : List Byte)
  /-- POWER_FAIL (R406): Power is lost without a controlled shutdown, losing every lifetime event after the last flash record and all volatile state. -/
  | powerFail
  /-- QUOTA_CHANGE (R376): The operator changes a job's quotas, raising or lowering its usage limit or graft quota, which may release an over-quota hold or force graft evictions. -/
  | quotaChange (ctx : Nat) (graft : Nat) (usage : Nat) (occ : Nat)
  /-- TDISP_LOCK_INTERFACE (R446): A TDISP LOCK_INTERFACE request moves a VF's TDI from CONFIG_UNLOCKED to CONFIG_LOCKED. -/
  | tdispLockInterface (vf : Nat)
  /-- TDISP_START_INTERFACE (R446): A TDISP START_INTERFACE request moves a locked TDI into RUN, after which BAR accesses need the IDE T bit. -/
  | tdispStartInterface (vf : Nat)
  /-- IDE_KM_KEY_PROG (R445): An IDE_KM exchange on a function's DOE mailbox sets the keys of the VF's selective IDE stream. -/
  | ideKmKeyProg (req : IdeKey)
  /-- ATS_TRANSLATION_COMPLETION (R252): An ATS Translation Completion from the host fills the translation caches for a host address or triggers a page request. -/
  | atsTranslationCompletion (vf : Nat) (page : Nat) (rd : Bool) (wr : Bool)
  /-- AG_STORE_PERFORMED (R213): An AG store, scatter or atomic write is performed, ending its outstanding request and possibly completing a pending BND.REL release. -/
  | agStorePerformed (glade : Nat) (stem : Nat) (row : Nat)
  /-- FLIT_IDLE (R449): An IDLE flit arrives, carrying only a credit return that lets the receiver's withheld sends proceed. -/
  | flitIdle (link : Nat) (seq : Nat) (ok : Bool) (credits : Nat)
  /-- HISTOGRAM_SECOND (R406): Each second, the thermal and voltage histogram bin of each die's highest reading advances by 1. -/
  | histogramSecond (temps : List Nat) (mvs : List Nat)
  deriving DecidableEq, Repr

end Sys2Proof
end

