-- ==== Sys2Proof/Machine/Operands.lean ====
section
/-! DEFINITION. Operand forms: the payload fields as values (R116), the generic address windows (R175, R176), and the data functions of
the integer, field, compare and modular instructions (R160 to R166). -/

namespace Sys2Proof.Machine

/-! ### Payload fields as values -/

/-- imm of class I, sign-extended (R116). -/
def immI (imm : BitVec 30) : Word := imm.signExtend 64
/-- The signed byte offset of class L. -/
def offL (off : BitVec 23) : Word := off.signExtend 64
/-- The signed byte offset of class V. -/
def offV (off : BitVec 17) : Word := off.signExtend 64
/-- Block address + 64 × sext(offset) for classes J and X (R170, R172), as an integer. -/
def branchTo (addr : Nat) (off : Int) : Int := (addr : Int) + 64 * off

/-- NONE of R176. -/
def noneW : Word := 0xFFFFFFFFFFFFFFFF

/-- The base of a space's window (R175); GL and GEN have base 0. A LOC address of a descriptor is reported with its base (DEDUCED, log entry 48). -/
def spBase : Space → Nat
  | .loc => 0xFF00000000000000
  | .shr => 0xFF00000100000000
  | .clu => 0xFF00000200000000
  | _ => 0
/-- The size of a space's window. -/
def spSize : Space → Nat
  | .loc => 0x00100000
  | .shr => 0x0C000000
  | .clu => 0x08000000
  | _ => 2 ^ 56

/-- A generic address lies in a window. -/
def inWindow (base size a : Nat) : Bool := decide (base ≤ a) && decide (a < base + size)

/-- A generic address is canonical: in some window, or with bits [63:56] zero (R175). -/
def canonical (a : Nat) : Bool :=
  decide (a < 2 ^ 56) || inWindow 0xFF00000000000000 0x00100000 a || inWindow 0xFF00000100000000 0x0C000000 a
    || inWindow 0xFF00000200000000 0x08000000 a

/-- CVTA.TO (R176). -/
def cvtaTo (sp : Space) (l : Word) : Word :=
  match sp with
  | .gen => if canonical l.toNat then l else noneW
  | .gl => if canonical l.toNat then l else noneW
  | sp => if inWindow (spBase sp) (spSize sp) l.toNat then BitVec.ofNat 64 (l.toNat - spBase sp) else noneW

/-- CVTA.FROM (R176). -/
def cvtaFrom (sp : Space) (l : Word) : Word :=
  match sp with
  | .gen => l
  | sp => if l.toNat < spSize sp then BitVec.ofNat 64 (spBase sp + l.toNat) else noneW

/-- ISSPACE (R176). -/
def isSpace (sp : Space) (l : Word) : Word :=
  match sp with
  | .gen => b2w (canonical l.toNat)
  | .gl => b2w (decide (l.toNat < 2 ^ 56))
  | sp => b2w (inWindow (spBase sp) (spSize sp) l.toNat)

/-- LEA (R176). -/
def leaW (sp : Space) (off : BitVec 23) (l : Word) : Word :=
  match sp with
  | .gen => l + offL off
  | sp => cvtaFrom sp (l + offL off)

/-- APERQ (R176). -/
def aperq (sp : Space) : Word := BitVec.ofNat 64 (spBase sp)

/-- The generic address an access names (R256): its space code says how L + offset is read. -/
def mtBytes : MemType → Nat | .z8 => 1 | .z16 => 2 | .z32 => 4 | .z64 => 8 | .s8 => 1 | .s16 => 2 | .s32 => 4
def mtSigned : MemType → Bool | .s8 => true | .s16 => true | .s32 => true | _ => false

/-- A loaded value extended by its type (R259). -/
def loadExt (ty : MemType) (n : Nat) : Word :=
  if mtSigned ty then BitVec.ofNat 64 (ofS 64 (toS (8 * mtBytes ty) n)) else BitVec.ofNat 64 n

/-! ### Integer and logic (R160 to R163) -/

def mulhS (l r : Word) : Word := BitVec.ofNat 64 (ofS 64 (toS 64 l.toNat * toS 64 r.toNat / ((2 ^ 64 : Nat) : Int)))
def mulhZ (l r : Word) : Word := BitVec.ofNat 64 (l.toNat * r.toNat / 2 ^ 64)
/-- DIV.S and REM.S (R161): quotient truncated toward zero; division by zero gives −1 and L. -/
def divS (l r : Word) : Word := if r = 0 then noneW else l.sdiv r
def remS (l r : Word) : Word := if r = 0 then l else l.srem r
/-- DIV.Z and REM.Z (R161). -/
def divZ (l r : Word) : Word := if r = 0 then noneW else l / r
def remZ (l r : Word) : Word := if r = 0 then l else l % r
def shamt (r : Word) : Nat := r.toNat % 64
def shlW (l r : Word) : Word := l <<< shamt r
def shrW (l r : Word) : Word := l >>> shamt r
def sarW (l r : Word) : Word := l.sshiftRight (shamt r)
def rolW (l r : Word) : Word := l.rotateLeft (shamt r)
def minS (l r : Word) : Word := if l.sle r then l else r
def maxS (l r : Word) : Word := if r.sle l then l else r
def minZ (l r : Word) : Word := if l ≤ r then l else r
def maxZ (l r : Word) : Word := if r ≤ l then l else r
def clzW (l : Word) : Word := BitVec.ofNat 64 (leadingZeros 64 l.toNat)
def ctzW (l : Word) : Word := BitVec.ofNat 64 (trailingZeros 64 l.toNat)
def popcW (l : Word) : Word := BitVec.ofNat 64 (popcount 64 l.toNat)
def widthBits : Width → Nat | .w8 => 8 | .w16 => 16 | .w32 => 32
def sextW (w : Width) (l : Word) : Word := BitVec.ofNat 64 (ofS 64 (toS (widthBits w) l.toNat))
def zextW (w : Width) (l : Word) : Word := BitVec.ofNat 64 (l.toNat % 2 ^ widthBits w)
def bextW (pos len1 : BitVec 6) (l : Word) : Word := BitVec.ofNat 64 (l.toNat / 2 ^ pos.toNat % 2 ^ (len1.toNat + 1))
/-- The mask of a field of len bits at pos. -/
def fieldMask (pos len : Nat) : Word := BitVec.ofNat 64 ((2 ^ len - 1) * 2 ^ pos)
def binsW (pos len1 : BitVec 6) (l r : Word) : Word :=
  let m := fieldMask pos.toNat (len1.toNat + 1)
  (l &&& ~~~m) ||| ((r <<< pos.toNat) &&& m)
def movhiW (lane : BitVec 2) (imm : BitVec 16) (l : Word) : Word :=
  let m := fieldMask (16 * lane.toNat) 16
  (l &&& ~~~m) ||| (imm.setWidth 64 <<< (16 * lane.toNat))

end Sys2Proof.Machine
end

