-- ==== Sys2Proof/Machine/Float.lean ====
section
/-! DEFINITION. Number formats, exactly (R81 to R100): every finite value is a sign, a natural mantissa and a binary exponent, every
operation is carried out exactly, and rounding happens once, in the function that names the format. -/

namespace Sys2Proof.Machine

/-- A floating-point datum: NaN, an infinity, or the exact value (−1)^neg × m × 2^e, where m = 0 is a zero of that sign. -/
inductive Fp where
  | nan
  | inf (neg : Bool)
  | fin (neg : Bool) (m : Nat) (e : Int)
  deriving DecidableEq, Repr

/-- The rounding modes of R93. -/
inductive Rm | rne | rtz | rup | rdn | rsto
  deriving DecidableEq, Repr

/-- The rounding code of R93; codes 5 to 7 are reserved and do not reach an element. -/
def rmOfCode (c : BitVec 3) : Rm :=
  if c = 1 then .rtz else if c = 2 then .rup else if c = 3 then .rdn else if c = 4 then .rsto else .rne

/-- m × 2^e with e ≥ q as a multiple of 2^q. -/
def scaleUp (m : Nat) (e q : Int) : Nat := m * 2 ^ (e - q).toNat

/-- The number of significant bits. -/
def bitLen (m : Nat) : Nat := if m = 0 then 0 else m.log2 + 1

/-- Divide by 2^k with the rounding mode; `neg` is the sign of the value, `v` the 32-bit random word of RSTO (R97). -/
def roundShift (rm : Rm) (neg : Bool) (v m k : Nat) : Nat :=
  let f := m >>> k
  let r := m % 2 ^ k
  if r = 0 then f
  else
    match rm with
    | .rne => if 2 * r > 2 ^ k ∨ (2 * r = 2 ^ k ∧ f % 2 = 1) then f + 1 else f
    | .rtz => f
    | .rup => if neg then f else f + 1
    | .rdn => if neg then f + 1 else f
    | .rsto =>
      -- f of R97 measures from the lower neighbour of the value itself: for a negative value that is f + 1 in magnitude
      if neg then (if v < ((2 ^ k - r) <<< 32) / 2 ^ k then f else f + 1)
      else if v < (r <<< 32) / 2 ^ k then f + 1 else f

/-- Round m × 2^e to p significant bits with least exponent emin: the mantissa and its exponent. -/
def roundPrec (rm : Rm) (neg : Bool) (v : Nat) (p : Nat) (emin : Int) (m : Nat) (e : Int) : Nat × Int :=
  let q : Int := max emin (e + (bitLen m : Int) - (p : Int))
  if q ≤ e then (scaleUp m e q, q) else (roundShift rm neg v m (q - e).toNat, q)

/-- A float format: precision, least exponent of a unit in the last place, exponent bits, fraction bits, bias. -/
structure Fmt where
  p : Nat
  emin : Int
  eb : Nat
  fb : Nat
  bias : Int
  deriving DecidableEq, Repr

/-- FP32 and BF16 (R81), E4M3 (R83) and E2M1 (R84). -/
def fmt32 : Fmt := ⟨24, -149, 8, 23, 127⟩
def fmtBf : Fmt := ⟨8, -133, 8, 7, 127⟩
def fmtE4 : Fmt := ⟨4, -9, 4, 3, 7⟩
def fmtE2 : Fmt := ⟨2, -1, 2, 1, 1⟩

/-- The fields of a code of the format: sign, exponent, fraction. -/
def fmtFields (f : Fmt) (c : Nat) : Bool × Nat × Nat :=
  (bit c (f.eb + f.fb), bits c (f.eb + f.fb - 1) f.fb, bits c (f.fb - 1) 0)

/-- The finite value of a code, its exponent field not read as a special one. -/
def fmtFin (f : Fmt) (c : Nat) : Fp :=
  let x := fmtFields f c
  if x.2.1 = 0 then .fin x.1 x.2.2 f.emin
  else .fin x.1 (2 ^ f.fb + x.2.2) (f.emin + (x.2.1 : Int) - 1)

/-- FP32 and BF16 decode (R81). -/
def dec32 (c : Nat) : Fp :=
  let x := fmtFields fmt32 c
  if x.2.1 = 255 then (if x.2.2 = 0 then .inf x.1 else .nan) else fmtFin fmt32 c
def decBf (c : Nat) : Fp := dec32 (c * 65536)
/-- E4M3 decode (R83). -/
def decE4 (c : Nat) : Fp := if c % 128 = 127 then .nan else fmtFin fmtE4 c
/-- E2M1 decode (R84). -/
def decE2 (c : Nat) : Fp := fmtFin fmtE2 c

/-- The code of a rounded finite value; the mantissa is below 2^p and the exponent at least emin. -/
def fmtCode (f : Fmt) (neg : Bool) (m : Nat) (e : Int) : Nat :=
  let s := b2n neg * 2 ^ (f.eb + f.fb)
  if m < 2 ^ f.fb then s + m
  else s + (e - f.emin + 1).toNat * 2 ^ f.fb + (m - 2 ^ f.fb)

/-- A mantissa of 2^p carries into the next exponent. -/
def normCarry (f : Fmt) (x : Nat × Int) : Nat × Int := if x.1 = 2 ^ f.p then (x.1 / 2, x.2 + 1) else x

/-- The canonical NaN of FP32 (R82). -/
def nan32 : Nat := 0x7FC00000
/-- Infinity of a sign in FP32. -/
def inf32 (neg : Bool) : Nat := if neg then 0xFF800000 else 0x7F800000

/-- One rounding, RNE, to FP32, overflow to infinity (R99). -/
def enc32 (x : Fp) : Nat :=
  match x with
  | .nan => nan32
  | .inf n => inf32 n
  | .fin n m e =>
    let y := normCarry fmt32 (roundPrec .rne n 0 24 (-149) m e)
    if y.2 + 23 > 127 ∧ y.1 ≥ 2 ^ 23 then inf32 n else fmtCode fmt32 n y.1 y.2

/-! ### Exact operations -/

def Fp.neg : Fp → Fp
  | .nan => .nan
  | .inf n => .inf (!n)
  | .fin n m e => .fin (!n) m e

def Fp.isNan : Fp → Bool
  | .nan => true
  | _ => false

def Fp.isZero : Fp → Bool
  | .fin _ m _ => m == 0
  | _ => false

/-- The exact integer m × 2^(e − q) with its sign. -/
def signedAt (n : Bool) (m : Nat) (e q : Int) : Int := if n then -((scaleUp m e q : Nat) : Int) else ((scaleUp m e q : Nat) : Int)

/-- Exact sum; an exact zero sum of unlike signs is +0 (R96). -/
def Fp.add : Fp → Fp → Fp
  | .nan, _ => .nan
  | _, .nan => .nan
  | .inf a, .inf b => if a = b then .inf a else .nan
  | .inf a, .fin _ _ _ => .inf a
  | .fin _ _ _, .inf b => .inf b
  | .fin n m e, .fin n' m' e' =>
    let q := min e e'
    let t := signedAt n m e q + signedAt n' m' e' q
    if t = 0 then .fin (n && n') 0 q else .fin (decide (t < 0)) t.natAbs q

/-- Exact product. -/
def Fp.mul : Fp → Fp → Fp
  | .nan, _ => .nan
  | _, .nan => .nan
  | .inf a, .inf b => .inf (a != b)
  | .inf a, .fin n m _ => if m = 0 then .nan else .inf (a != n)
  | .fin n m _, .inf b => if m = 0 then .nan else .inf (n != b)
  | .fin n m e, .fin n' m' e' => .fin (n != n') (m * m') (e + e')

/-- Scale by 2^k. -/
def Fp.scale (k : Int) : Fp → Fp
  | .fin n m e => .fin n m (e + k)
  | x => x

/-- Numeric order of two data that are not NaN; −0 equals +0. -/
def Fp.cmp : Fp → Fp → Ordering
  | .inf a, .inf b => if a = b then .eq else if a then .lt else .gt
  | .inf a, _ => if a then .lt else .gt
  | _, .inf b => if b then .gt else .lt
  | .fin n m e, .fin n' m' e' =>
    let q := min e e'
    compare (signedAt n m e q) (signedAt n' m' e' q)
  | _, _ => .eq

/-- FP32 codes to FP32 codes (R99). -/
def f32add (a b : Nat) : Nat := enc32 ((dec32 a).add (dec32 b))
def f32sub (a b : Nat) : Nat := enc32 ((dec32 a).add (dec32 b).neg)
def f32mul (a b : Nat) : Nat := enc32 ((dec32 a).mul (dec32 b))
def f32fma (a b c : Nat) : Nat := enc32 (((dec32 a).mul (dec32 b)).add (dec32 c))
def f32fnma (a b c : Nat) : Nat := enc32 ((((dec32 a).mul (dec32 b)).neg).add (dec32 c))
/-- A × 2^n; beyond ±400 every n gives the result of ±400 (overflow, or a value below half the smallest subnormal). -/
def f32scale (a b : Nat) : Nat := enc32 ((dec32 a).scale (max (-400) (min 400 (toS 32 b))))

/-- Order key of an FP32 code that is not NaN: −0 lies below +0. -/
def f32key (c : Nat) : Int := if bit c 31 then -((c % 2 ^ 31 : Nat) : Int) - 1 else ((c : Nat) : Int)

def f32isNan (c : Nat) : Bool := (dec32 c).isNan

/-- FMIN and FMAX: NaN if either is NaN, −0 below +0 (R99). -/
def f32min (a b : Nat) : Nat :=
  if f32isNan a || f32isNan b then nan32 else if f32key a ≤ f32key b then a else b
def f32max (a b : Nat) : Nat :=
  if f32isNan a || f32isNan b then nan32 else if f32key b ≤ f32key a then a else b

/-! ### Conversions (R93 to R97) -/

/-- The largest finite value of a narrow target, as mantissa and exponent, and its code magnitude. -/
def fmtMax (f : Fmt) : Nat × Int × Nat :=
  if f = fmtE4 then (14, 5, 0x7E) else if f = fmtE2 then (3, 1, 7) else (255, 120, 0x7F7F)

/-- The NaN code of a target that has one. -/
def fmtNan (f : Fmt) : Nat := if f = fmtE4 then 0x7F else 0x7FC0

/-- The sign bit of a code of the format. -/
def fmtSign (f : Fmt) (n : Bool) : Nat := b2n n * 2 ^ (f.eb + f.fb)

/-- Saturation code of R93. -/
inductive Sat | bound | nan | wrap
  deriving DecidableEq, Repr
def satOfCode (c : BitVec 2) : Sat := if c = 1 then .nan else if c = 2 then .wrap else .bound

/-- m × 2^e compared with m' × 2^e'. -/
def magGt (m : Nat) (e : Int) (m' : Nat) (e' : Int) : Bool :=
  let q := min e e'
  decide (scaleUp m e q > scaleUp m' e' q)

/-- Conversion to BF16, E4M3 or E2M1 (R94). -/
def convFp (f : Fmt) (rm : Rm) (sm : Sat) (v : Nat) (x : Fp) : Nat :=
  let mx := fmtMax f
  match x with
  | .nan => if f = fmtE2 then 0 else fmtNan f
  | .inf n =>
    if f = fmtBf then fmtSign f n + 0x7F80
    else if sm = .nan then fmtNan f else fmtSign f n + mx.2.2
  | .fin n m e =>
    let y := normCarry f (roundPrec rm n v f.p f.emin m e)
    if magGt y.1 y.2 mx.1 mx.2.1 then
      if rm = .rtz ∨ (rm = .rdn ∧ n = false) ∨ (rm = .rup ∧ n = true) then fmtSign f n + mx.2.2
      else if sm = .bound then fmtSign f n + mx.2.2
      else fmtNan f
    else fmtCode f n y.1 y.2

/-- Round a finite value to an integer (R94). -/
def roundInt (rm : Rm) (v : Nat) (n : Bool) (m : Nat) (e : Int) : Int :=
  let k : Nat := if 0 ≤ e then m * 2 ^ e.toNat else roundShift rm n v m (-e).toNat
  if n then -((k : Nat) : Int) else ((k : Nat) : Int)

/-- Conversion to an n-bit integer, signed or unsigned (R94); −0 gives 0 (R96). -/
def convInt (w : Nat) (signed : Bool) (rm : Rm) (sm : Sat) (v : Nat) (x : Fp) : Nat :=
  let lo : Int := if signed then -((2 ^ (w - 1) : Nat) : Int) else 0
  let hi : Int := if signed then ((2 ^ (w - 1) : Nat) : Int) - 1 else ((2 ^ w : Nat) : Int) - 1
  match x with
  | .nan => 0
  | .inf n => if sm = .bound then ofS w (if n then lo else hi) else 0
  | .fin n m e =>
    let i := roundInt rm v n m e
    if i < lo then (if sm = .bound then ofS w lo else ofS w i)
    else if hi < i then (if sm = .bound then ofS w hi else ofS w i)
    else ofS w i

/-- Conversion of an integer to FP32 in a rounding mode (R94, R95); it cannot overflow. -/
def intTo32 (rm : Rm) (v : Nat) (i : Int) : Nat :=
  let n := decide (i < 0)
  let y := normCarry fmt32 (roundPrec rm n v 24 (-149) i.natAbs 0)
  if i = 0 then 0 else fmtCode fmt32 n y.1 y.2

/-- FRND: to an integral FP32 value in the element's mode (R202). -/
def f32rnd (rm : Rm) (v a : Nat) : Nat :=
  match dec32 a with
  | .nan => nan32
  | .inf n => inf32 n
  | .fin n m e =>
    if 0 ≤ e then a
    else
      let k := roundShift rm n v m (-e).toNat
      if k = 0 then b2n n * 2 ^ 31 else enc32 (.fin n k 0)

/-! ### E8M0 (R85) -/

/-- The value of an E8M0 code; 0xFF is NaN. -/
def decE8 (k : Nat) : Fp := if k = 255 then .nan else .fin false 1 ((k : Int) - 127)

/-! ### Fern functions (R224, R225): the exact function rounded once, RNE -/

/-- The integer square root, by bits from the top. -/
def isqrtAux : Nat → Nat → Nat → Nat
  | 0, _, r => r
  | k + 1, n, r => let t := r + 2 ^ k; if t * t ≤ n then isqrtAux k n t else isqrtAux k n r
def isqrt (n : Nat) : Nat := isqrtAux (bitLen n / 2 + 1) n 0

/-- A positive real given by 64 or more leading bits and whether bits were lost: rounded RNE to FP32. -/
def enc32sticky (neg : Bool) (m : Nat) (e : Int) (lost : Bool) : Nat := enc32 (.fin neg (2 * m + b2n lost) (e - 1))

/-- RCP. -/
def f32rcp (a : Nat) : Nat :=
  match dec32 a with
  | .nan => nan32
  | .inf n => b2n n * 2 ^ 31
  | .fin n m e => if m = 0 then inf32 n else enc32sticky n (2 ^ 80 / m) (-e - 80) (2 ^ 80 % m != 0)

/-- SQRT. -/
def f32sqrt (a : Nat) : Nat :=
  match dec32 a with
  | .nan => nan32
  | .inf n => if n then nan32 else inf32 false
  | .fin n m e =>
    if m = 0 then a
    else if n then nan32
    else
      let e2 := e - 80 - (e % 2)
      let x := scaleUp m e e2
      let r := isqrt x
      enc32sticky false r (e2 / 2) (r * r != x)

/-- RSQRT. -/
def f32rsqrt (a : Nat) : Nat :=
  match dec32 a with
  | .nan => nan32
  | .inf n => if n then nan32 else 0
  | .fin n m e =>
    if m = 0 then inf32 n
    else if n then nan32
    else
      -- 1/√(m·2^e) = √(2^(2k)/m)·2^(−k−e/2): take e even by moving one bit into m
      let m' := if e % 2 = 0 then m else 2 * m
      let e' := if e % 2 = 0 then e else e - 1
      let x := 2 ^ 160 / m'
      let r := isqrt x
      enc32sticky false r (-80 - e' / 2) (r * r * m' != 2 ^ 160)

/-- Fixed-point precision of the interval computations below. -/
def fernBits : Nat := 128

/-- 2^f for 0 ≤ f < 1 given as f·2^128: lower bound of the value times 2^128, by Taylor series in f·ln 2 (each term truncated; at most
60 terms, so the error lies below 2^(−118)). -/
def expSeries : Nat → Nat → Nat → Nat → Nat
  | 0, _, _, _ => 0
  | k + 1, i, x, t => t + expSeries k (i + 1) x (t * x / 2 ^ 128 / (i + 1))

/-- ln 2 times 2^128, rounded down. -/
def ln2Fix : Nat := 0xB17217F7D1CF79ABC9E3B39803F2F6AF

/-- exp of a nonnegative fixed-point number below 1, times 2^128, within 2^(−118). -/
def expFix (x : Nat) : Nat := expSeries 60 0 x (2 ^ 128)

/-- EXP2. Integers are exact; otherwise the value is irrational, so a value known to 2^(−110) rounds as the exact one does unless it
lies that close to a midpoint, which no FP32 argument reaches (DEDUCED, log entry 12). -/
def f32exp2 (a : Nat) : Nat :=
  match dec32 a with
  | .nan => nan32
  | .inf n => if n then 0 else inf32 false
  | .fin n m e =>
    if m = 0 then 0x3F800000
    else if magGt m e 1 9 then (if n then 0 else inf32 false)
    else
      -- x = ±m·2^e, |x| < 2^9: floor and 128-bit fraction, both exact when e ≥ −128 and a sticky tail otherwise
      let num : Nat := if 0 ≤ e + 128 then m * 2 ^ (e + 128).toNat else m >>> (-(e + 128)).toNat
      if 0 ≤ e + 128 then
        let x : Int := if n then -((num : Nat) : Int) else ((num : Nat) : Int)
        let ip : Int := x / ((2 ^ 128 : Nat) : Int)
        let fr : Nat := (x % ((2 ^ 128 : Nat) : Int)).toNat
        if fr = 0 then enc32 (.fin false 1 ip)
        else enc32sticky false (expFix (fr * ln2Fix / 2 ^ 128)) (ip - 128) true
      else enc32sticky false (if n then 2 ^ 128 - 1 else 2 ^ 128) (-128) true

/-- 2·atanh(z) series for a fixed-point z: Σ z^(2i+1)/(2i+1). -/
def atanhSeries : Nat → Nat → Nat → Nat → Nat
  | 0, _, _, _ => 0
  | k + 1, i, z2, p => p / (2 * i + 1) + atanhSeries k (i + 1) z2 (p * z2 / 2 ^ 160)

/-- ln 2 times 2^160, rounded down. -/
def ln2Fix160 : Nat := 0xB17217F7D1CF79ABC9E3B39803F2F6AF40F34326

/-- LOG2. For x = 2^k·y with y in [√½, √2): k + ln y / ln 2 with ln y = 2 atanh((y − 1)/(y + 1)). -/
def f32log2 (a : Nat) : Nat :=
  match dec32 a with
  | .nan => nan32
  | .inf n => if n then nan32 else inf32 false
  | .fin n m e =>
    if m = 0 then inf32 true
    else if n then nan32
    else
      let len := bitLen m
      -- y = m / 2^(len−1) in [1, 2); halve it when above √2 (compared through y² > 2)
      let big := decide (m * m > 2 * 2 ^ (2 * (len - 1)))
      let d : Nat := if big then 2 ^ len else 2 ^ (len - 1)
      let k : Int := e + (len : Int) - 1 + (if big then 1 else 0)
      let up := decide (m ≥ d)
      let num := if up then m - d else d - m
      if num = 0 then enc32 (.fin (decide (k < 0)) k.natAbs 0)
      else
        let z := num * 2 ^ 160 / (m + d)
        let z2 := z * z / 2 ^ 160
        let ln := 2 * atanhSeries 64 0 z2 z
        let l2 : Nat := ln * 2 ^ 160 / ln2Fix160
        let t : Int := k * ((2 ^ 160 : Nat) : Int) + (if up then ((l2 : Nat) : Int) else -((l2 : Nat) : Int))
        enc32sticky (decide (t < 0)) t.natAbs (-160) true

/-- TANH: (1 − u)/(1 + u) with u = exp(−2|x|); tiny arguments, where tanh x = x − x³/3 …, are x just below. -/
def f32tanh (a : Nat) : Nat :=
  match dec32 a with
  | .nan => nan32
  | .inf n => if n then 0xBF800000 else 0x3F800000
  | .fin n m e =>
    if m = 0 then a
    else if magGt m e 1 5 then enc32sticky n (2 ^ 64 - 1) (-64) true
    else if magGt 1 (-20) m e then enc32sticky n (m * 2 ^ 60 - 1) (e - 60) true
    else
      -- 2|x| = q·ln 2 + r; exp(2|x|) = 2^q·exp(r), all in 128-bit fixed point
      let x2 : Nat := if 0 ≤ e + 129 then m * 2 ^ (e + 129).toNat else m >>> (-(e + 129)).toNat
      let q := x2 / ln2Fix
      let ex := expFix (x2 % ln2Fix) * 2 ^ q
      enc32sticky n ((ex - 2 ^ 128) * 2 ^ 128 / (ex + 2 ^ 128)) (-128) true

/-- Σ (−1)^i x^(2i+1) / (i! (2i+1)) split into positive and negative parts; p is x^(2i+1)/i! times 2^256. -/
def erfSeries : Nat → Nat → Nat → Nat → Int
  | 0, _, _, _ => 0
  | k + 1, i, x2, p =>
    (if i % 2 = 0 then (((p / (2 * i + 1)) : Nat) : Int) else -(((p / (2 * i + 1)) : Nat) : Int))
      + erfSeries k (i + 1) x2 (p * x2 / 2 ^ 256 / (i + 1))

/-- 2/√π times 2^256, rounded down. -/
def twoOverSqrtPi : Nat := 0x120DD750429B6D11AE3A914FED7FD8688281341D7587CEA2E7342B06199CC4161

/-- ERF: the series about 0, exact to some 2^(−180) for |x| < 4; from 4 on the value rounds to ±1. -/
def f32erf (a : Nat) : Nat :=
  match dec32 a with
  | .nan => nan32
  | .inf n => if n then 0xBF800000 else 0x3F800000
  | .fin n m e =>
    if m = 0 then a
    else if magGt m e 1 2 ∨ (m = 1 ∧ e = 2) then enc32sticky n (2 ^ 64 - 1) (-64) true
    else if magGt 1 (-60) m e then enc32sticky n (m * (twoOverSqrtPi / 2 ^ 128)) (e - 128) true
    else
      let x : Nat := if 0 ≤ e + 256 then m * 2 ^ (e + 256).toNat else m >>> (-(e + 256)).toNat
      let sum := (erfSeries 150 0 (x * x / 2 ^ 256) x).toNat
      enc32sticky n (sum * twoOverSqrtPi / 2 ^ 256) (-256) true

end Sys2Proof.Machine
end

