-- ==== Sys2Proof/Machine/Maps.lean ====
section
/-! DEFINITION. Sparse data by key: lists of key and value pairs with rising keys. A key that is not listed reads as the default
the reader names, so that a machine just after reset lists nothing. -/

namespace Sys2Proof.Machine

/-- A map from natural numbers, as plain data. -/
abbrev NatMap (α : Type) := List (Nat × α)

/-- The value at a key, if it is listed. -/
def nfind {α : Type} (m : NatMap α) (key : Nat) : Option α := (m.find? fun entry => entry.1 == key).map Prod.snd

/-- The value at a key, or the default where the key is not listed. -/
def nget {α : Type} (d : α) (m : NatMap α) (key : Nat) : α := (nfind m key).getD d

/-- The map with a key set, keys kept rising. -/
def nset {α : Type} (m : NatMap α) (key : Nat) (value : α) : NatMap α :=
  match m with
  | [] => [(key, value)]
  | entry :: rest =>
    if key < entry.1 then (key, value) :: m
    else if entry.1 = key then (key, value) :: rest
    else entry :: nset rest key value

/-- The map without a key. -/
def ndel {α : Type} (m : NatMap α) (key : Nat) : NatMap α := m.eraseP fun entry => entry.1 == key

/-- The map with the value at a key changed by a function. -/
def nmod {α : Type} (d : α) (m : NatMap α) (key : Nat) (change : α → α) : NatMap α := nset m key (change (nget d m key))

/-- The listed keys whose value meets a test. -/
def nkeys {α : Type} (m : NatMap α) (test : Nat → α → Bool) : List Nat :=
  m.filterMap fun entry => if test entry.1 entry.2 then some entry.1 else none

/-- A list with its element at an index replaced; an index past the end changes nothing. -/
abbrev lset {α : Type} (l : List α) (index : Nat) (value : α) : List α := l.set index value

end Sys2Proof.Machine
end

