-- ==== Sys2Proof/Machine/ThicketState.lean ====
section
/-! DEFINITION. The state of a glade's thicket (R188, R189): values with their tags, elements, stems, ports and the run in progress. -/

namespace Sys2Proof.Machine

/-- A release that a value belongs to (R271, R273, R281): its scope, the glade that made it, and its number. -/
structure Rel where
  scope : Scope
  glade : Nat
  id : Nat
  deriving DecidableEq, Repr

/-- A tagged value (R189), with the releases of BND.REL that it derives from (R281). -/
structure Val where
  data : Word := 0
  residue : BitVec 4 := 0
  edm : BitVec 4 := 0
  err : Bool := false
  last : Bool := false
  valid : Bool := true
  port : Bool := false
  seq : BitVec 16 := 0
  rels : List Rel := []
  deriving DecidableEq, Repr

/-- The value of every stage and result register at the start pulse (R188). -/
def Val.zero : Val := {}

/-- An idle value with run-end tags (R218, R220). -/
def Val.idle (edm : BitVec 4) (last : Bool) : Val := { edm := edm, last := last, valid := false }

/-- A mote: payload and sideband (R129), and the releases its payload derives from (R281). -/
structure Mote where
  data : Word := 0
  rill : BitVec 5 := 0
  edm : BitVec 4 := 0
  residue : BitVec 4 := 0
  route : BitVec 8 := 0
  seq : BitVec 16 := 0
  err : Bool := false
  last : Bool := false
  valid : Bool := true
  rels : List Rel := []
  deriving DecidableEq, Repr

/-- A result in flight toward a result register (R66, R191): the counter values at which it lands and at which it was issued, its value, whether it also goes
to the stream-out port, and, of a BND.REL result, the time of its issue, whose release it waits for (R226). -/
structure Flight where
  land : Nat
  issued : Nat := 0
  val : Val
  rso : Bool
  rel : Option Nat := none
  deriving DecidableEq, Repr

/-- What an AG request does at memory (R212). -/
inductive AgKind where
  | load
  | store
  | atom (op : AgOp) (scope : Scope)
  deriving DecidableEq, Repr

/-- An outstanding AG request (R213): the time of its issue, the run that made it by its number among all orders, generic and physical byte address, the page key of a device page (R241),
size in bytes, store or atomic operand, the tags its reply carries, once an atomic has been performed its old value and whether the memory reported it
uncorrectable, the releases of BND.REL that wait for it (R226), and of a load, by number, the writes noted after its issue and the earlier ones that it was not ordered after
(R270). -/
structure AgReq where
  issued : Nat
  uid : Nat := 0
  kind : AgKind
  gaddr : Nat
  phys : Nat
  key : Option Nat
  size : Nat
  operand : Word
  edm : BitVec 4
  last : Bool
  old : Option Word := none
  bad : Bool := false
  rels : List Nat := []
  asOf : Nat := 0
  blind : List Nat := []
  deriving DecidableEq, Repr

/-- The state of one element (R188). `landed` and `resAt` are the counter values at which the value of `res` landed and was issued. The class state of every class is held; the class word says which of it is used. -/
structure Elem where
  la : List Val := []
  lb : List Val := []
  lc : List Val := []
  res : Val := {}
  landed : Option Nat := none
  resAt : Nat := 0
  flight : List Flight := []
  rm : BitVec 3 := 0
  sat : BitVec 2 := 0
  level : Nat := 0
  agOut : List AgReq := []
  agRep : List Val := []
  qa : List Val := []
  qb : List Val := []
  doneA : Option (BitVec 4 × Bool) := none
  doneB : Option (BitVec 4 × Bool) := none
  pend : Option Val := none
  cand : BitVec 32 := 0
  mass : Nat := 0
  bad : Bool := false
  path : Nat := 0
  expect : BitVec 16 := 0
  rblk : Nat := 0
  rword : Nat := 0
  deriving DecidableEq, Repr

/-- An entry of a stem's fern age queue (R195): row, landing and issuing counter value, value and whether it also lands in the requester's
result register, and on the stream-out port. -/
structure FernEnt where
  row : Nat
  land : Nat
  issued : Nat := 0
  val : Val
  res : Bool
  rso : Bool
  landed : Bool := false
  deriving DecidableEq, Repr

/-- A port of lane queues (R192): how many values were put, in lane order over all vectors; the values not yet taken, by position; how
many each lane has handed out. -/
structure Port where
  put : Nat := 0
  vals : List (Nat × Val) := []
  taken : List (Nat × Nat) := []
  deriving DecidableEq, Repr

/-- What the row of one stem contributes to a reduction (R215), kept from the row's issue to row 15's. -/
structure RedLeaf where
  present : Bool
  a : Val
  b : Val
  cbad : Bool
  deriving DecidableEq, Repr

/-- The state of one stem: its rings (R64, R134), class words by row (R124), fern age queue, port buffers, the stream-out landings not yet
in the port by (landing position − row) × 16 + row, the motes emitted since the start pulse (the stream-out count is its low 16 bits),
the leaves of the reductions in progress by (count × 16 + row). -/
structure Stem where
  op : List (BitVec 24) := [0x602000]
  rt : List (BitVec 16) := [0]
  tap : List (BitVec 16) := [0]
  cls : List (Nat × BitVec 16) := []
  fern : List FernEnt := []
  strm : Port := {}
  holw : Port := {}
  side : Port := {}
  so : List (Nat × Val) := []
  soCnt : Nat := 0
  leaves : List (Nat × RedLeaf) := []
  deriving DecidableEq, Repr

/-- A run entry in progress (R64, R201): operation number, its number among all orders, first count, length, the latched moduli by register, the latched Philox words
and sampler key. -/
structure Run where
  opnum : Nat
  uid : Nat := 0
  first : Nat
  len : Nat
  mods : List (Nat × Nat)
  seqid : BitVec 32
  pos : BitVec 32
  key : Option Word
  deriving DecidableEq, Repr

/-- The thicket of a glade: the context counter (R63), whether a fault stops it, elements by stem × 16 + row, stems,
the run in progress, and, while a full rill buffer holds the counter, the elements by stem and row whose motes of this count are in the buffers already (R230). -/
structure Thicket where
  cnt : Nat := 0
  stopped : Bool := false
  elems : List (Nat × Elem) := []
  stems : List (Nat × Stem) := []
  run : Option Run := none
  sent : List (Nat × Nat) := []
  deriving DecidableEq, Repr

end Sys2Proof.Machine
end

