-- ==== Sys2Proof/Machine/ElemFns.lean ====
section
/-! DEFINITION. The data functions of the element operations (R198 to R228): lanes, tags, immediates, integer, FP32, conversion and modular
results, the reducer tree, joins and sampling steps, as functions of the values read. -/

namespace Sys2Proof.Machine

/-! ### Lanes and immediates -/

def lane0 (w : Word) : Nat := w.toNat % 2 ^ 32
def lane1 (w : Word) : Nat := w.toNat / 2 ^ 32
/-- Two 32-bit lanes as a word. -/
def ofLanes (x y : Nat) : Word := BitVec.ofNat 64 (x % 2 ^ 32 + (y % 2 ^ 32) * 2 ^ 32)

/-- Per lane, of one, two and three values. -/
def map1 (f : Nat → Nat) (a : Word) : Word := ofLanes (f (lane0 a)) (f (lane1 a))
def map2 (f : Nat → Nat → Nat) (a b : Word) : Word := ofLanes (f (lane0 a) (lane0 b)) (f (lane1 a) (lane1 b))
def map3 (f : Nat → Nat → Nat → Nat) (a b c : Word) : Word :=
  ofLanes (f (lane0 a) (lane0 b) (lane0 c)) (f (lane1 a) (lane1 b) (lane1 c))

/-- The immediate widened by type and placed in the word (R120, R198). -/
def immWord (ty : ElemType) (imm : BitVec 12) : Word :=
  let n := imm.toNat
  match ty with
  | .f32 => ofLanes (n * 2 ^ 20) (n * 2 ^ 20)
  | .bf16 => let h := n * 16; ofLanes (h + h * 65536) (h + h * 65536)
  | .e4m3 => BitVec.ofNat 64 (n % 256)
  | .e2m1 => BitVec.ofNat 64 (n % 16)
  | .s32 => ofLanes (ofS 32 (toS 12 n)) (ofS 32 (toS 12 n))
  | .z32 => ofLanes n n
  | .s64 => BitVec.ofNat 64 (ofS 64 (toS 12 n))
  | .z64 => BitVec.ofNat 64 n

/-- A value of an immediate or a constant: valid 1, all other tags 0, its residue generated (R190, R210). -/
def Val.ofWord (w : Word) : Val := { data := w, residue := mod15 w }

/-! ### Tags (R190, R199) -/

/-- A valid value whose residue does not agree with its data (R199). -/
def Val.mismatch (v : Val) : Bool := v.valid && decide (v.residue ≠ mod15 v.data)

/-- err of a result: a mismatch or an err tag among the values read (R199). -/
def errOf (reads : List Val) : Bool := reads.any fun v => v.err || v.mismatch

def maxEdm (vs : List Val) : BitVec 4 := vs.foldl (fun m v => if m.toNat < v.edm.toNat then v.edm else m) 0

/-- The releases that values derive from (R281). -/
def relsOf (reads : List Val) : List Rel := (reads.flatMap (·.rels)).eraseDups

/-- A result whose residue is generated from its data (mark G of R200). -/
def mkG (reads : List Val) (w : Word) : Val :=
  { data := w, residue := mod15 w, edm := maxEdm reads, err := errOf reads,
    last := reads.any (·.last), valid := reads.all (·.valid), rels := relsOf reads }

/-- A result whose residue is predicted (mark P of R200); a prediction that disagrees with the data sets err. -/
def mkP (reads : List Val) (w : Word) (r : BitVec 4) : Val :=
  { mkG reads w with residue := r, err := errOf reads || decide (r ≠ mod15 w) }

/-- How many mismatches an operation counts (R199): one per valid value read that disagrees, one for a failed prediction. -/
def mismG (reads : List Val) : Nat := (reads.filter Val.mismatch).length
def mismP (reads : List Val) (w : Word) (r : BitVec 4) : Nat := mismG reads + b2n (decide (r ≠ mod15 w))

/-! ### Integer lanes (R207, R208) -/

/-- The width of an integer type's lanes and whether it is signed. -/
def tBits : IntType → Nat | .s32 => 32 | .z32 => 32 | .s64 => 64 | .z64 => 64
def tSigned : IntType → Bool | .s32 => true | .z32 => false | .s64 => true | .z64 => false

/-- A lane read as an integer of the type. -/
def tRd (t : IntType) (x : Nat) : Int := if tSigned t then toS (tBits t) x else ((x % 2 ^ (tBits t) : Nat) : Int)

/-- A function of the lanes of an integer type. -/
def tMap2 (t : IntType) (f : Nat → Nat → Nat) (a b : Word) : Word :=
  if tBits t = 32 then Machine.map2 f a b else BitVec.ofNat 64 (f a.toNat b.toNat)
def tMap3 (t : IntType) (f : Nat → Nat → Nat → Nat) (a b c : Word) : Word :=
  if tBits t = 32 then Machine.map3 f a b c else BitVec.ofNat 64 (f a.toNat b.toNat c.toNat)

def iaddW (t : IntType) : Word → Word → Word := tMap2 t fun x y => (x + y) % 2 ^ (tBits t)
def isubW (t : IntType) : Word → Word → Word := tMap2 t fun x y => (x + 2 ^ (tBits t) - y) % 2 ^ (tBits t)
def imulW (t : IntType) : Word → Word → Word := tMap2 t fun x y => x * y % 2 ^ (tBits t)
def imulhW (t : IntType) : Word → Word → Word := tMap2 t fun x y => ofS (tBits t) (tRd t x * tRd t y / ((2 ^ (tBits t) : Nat) : Int))
def ishlW (t : IntType) : Word → Word → Word := tMap2 t fun x y => x * 2 ^ (y % tBits t) % 2 ^ (tBits t)
def ishrW (t : IntType) : Word → Word → Word := tMap2 t fun x y => x / 2 ^ (y % tBits t)
def isarW (t : IntType) : Word → Word → Word := tMap2 t fun x y => ofS (tBits t) (toS (tBits t) x / ((2 ^ (y % tBits t) : Nat) : Int))
def iminW (t : IntType) : Word → Word → Word := tMap2 t fun x y => if tRd t x ≤ tRd t y then x else y
def imaxW (t : IntType) : Word → Word → Word := tMap2 t fun x y => if tRd t y ≤ tRd t x then x else y
def icmpW (t : IntType) (r : IRel) : Word → Word → Word := tMap2 t fun x y =>
  let b : Bool := match r with
    | .eq => decide (tRd t x = tRd t y)
    | .ne => decide (tRd t x ≠ tRd t y)
    | .lt => decide (tRd t x < tRd t y)
    | .le => decide (tRd t x ≤ tRd t y)
  if b then 2 ^ (tBits t) - 1 else 0
def iselW (t : IntType) : Word → Word → Word → Word := tMap3 t fun x y z => if z ≠ 0 then x else y

/-- The number of lanes of a test over the lanes of a type. -/
def laneCount (t : IntType) (p : Nat → Nat → Bool) (a b : Word) : Nat :=
  if tBits t = 32 then b2n (p (lane0 a) (lane0 b)) + b2n (p (lane1 a) (lane1 b)) else b2n (p a.toNat b.toNat)

/-- Predicted residues of IADD, ISUB and of IMUL on 64-bit types (R208). -/
def iaddRes (t : IntType) (a b : Val) : BitVec 4 :=
  BitVec.ofNat 4 ((a.residue.toNat + b.residue.toNat + 30
    - laneCount t (fun x y => decide (x + y ≥ 2 ^ (tBits t))) a.data b.data) % 15)
def isubRes (t : IntType) (a b : Val) : BitVec 4 :=
  BitVec.ofNat 4 ((a.residue.toNat + 30 - b.residue.toNat
    + laneCount t (fun x y => decide (x < y)) a.data b.data) % 15)
def imulRes (a b : Val) : BitVec 4 :=
  BitVec.ofNat 4 ((a.residue.toNat * b.residue.toNat + 15 - (a.data.toNat * b.data.toNat / 2 ^ 64) % 15) % 15)

/-! ### FP32 pairs (R202) -/

def fmodL (neg abs : Bool) (a : Nat) : Nat :=
  if f32isNan a then nan32
  else
    let m := if abs then a % 2 ^ 31 else a
    if neg then (if bit m 31 then m - 2 ^ 31 else m + 2 ^ 31) else m

def fcmpL (r : FRel) (a b : Nat) : Nat :=
  let nan := f32isNan a || f32isNan b
  let c := (dec32 a).cmp (dec32 b)
  let t : Bool := match r with
    | .eq => !nan && c == .eq
    | .ne => nan || c != .eq
    | .lt => !nan && c == .lt
    | .le => !nan && (c == .lt || c == .eq)
    | .unord => nan
  if t then 0xFFFFFFFF else 0

def fselL (a b c : Nat) : Nat := if c ≠ 0 then a else b
def fclampL (a b c : Nat) : Nat := f32min (f32max a b) c

/-! ### Conversions (R203, R204); `ws` are the random words of RSTO, one per converted value in the order of the rule -/

def wordAt (ws : List Nat) (i : Nat) : Nat := ws.getD i 0

def cvtF32Bf16W (h : Nat) (a : Word) : Word :=
  let x := a.toNat / 2 ^ (32 * h)
  let one (b : Nat) : Nat := if (decBf b).isNan then nan32 else b * 65536
  ofLanes (one (x % 65536)) (one (x / 65536 % 65536))

def cvtBf16F32W (rm : Rm) (sm : Sat) (ws : List Nat) (a b : Word) : Word :=
  let c (i x : Nat) : Nat := convFp fmtBf rm sm (wordAt ws i) (dec32 x)
  BitVec.ofNat 64 (c 0 (lane0 a) + c 1 (lane1 a) * 2 ^ 16 + c 2 (lane0 b) * 2 ^ 32 + c 3 (lane1 b) * 2 ^ 48)

/-- An exact value that FP32 represents, as FP32. -/
def exact32 (x : Fp) : Nat := enc32 x

def cvtF32E4m3W (p : Nat) (a : Word) : Word :=
  ofLanes (exact32 (decE4 (bits a.toNat (16 * p + 7) (16 * p)))) (exact32 (decE4 (bits a.toNat (16 * p + 15) (16 * p + 8))))

/-- A word with bits [lo + n − 1 : lo] replaced. -/
def insBits (w : Nat) (lo n x : Nat) : Nat := w % 2 ^ lo + (x % 2 ^ n) * 2 ^ lo + (w / 2 ^ (lo + n)) * 2 ^ (lo + n)

def cvtE4m3F32W (rm : Rm) (sm : Sat) (ws : List Nat) (h : Nat) (a b c : Word) : Word :=
  let k (i x : Nat) : Nat := convFp fmtE4 rm sm (wordAt ws i) (dec32 x)
  BitVec.ofNat 64 (insBits c.toNat (32 * h) 32
    (k 0 (lane0 a) + k 1 (lane1 a) * 2 ^ 8 + k 2 (lane0 b) * 2 ^ 16 + k 3 (lane1 b) * 2 ^ 24))

def cvtE2m1F32W (rm : Rm) (sm : Sat) (ws : List Nat) (p : Nat) (a b c : Word) : Word :=
  let k (i x : Nat) : Nat := convFp fmtE2 rm sm (wordAt ws i) (dec32 x)
  BitVec.ofNat 64 (insBits c.toNat (16 * p) 16
    (k 0 (lane0 a) + k 1 (lane1 a) * 2 ^ 4 + k 2 (lane0 b) * 2 ^ 8 + k 3 (lane1 b) * 2 ^ 12))

/-- CVT.IF (R204). -/
def cvtIfW (rm : Rm) (sm : Sat) (ws : List Nat) (t : IntType) (toInt : Bool) (a : Word) : Word :=
  if toInt then
    if tBits t = 32 then
      ofLanes (convInt 32 (tSigned t) rm sm (wordAt ws 0) (dec32 (lane0 a)))
        (convInt 32 (tSigned t) rm sm (wordAt ws 1) (dec32 (lane1 a)))
    else BitVec.ofNat 64 (convInt 64 (tSigned t) rm sm (wordAt ws 0) (dec32 (lane0 a)))
  else if tBits t = 32 then
    ofLanes (intTo32 rm (wordAt ws 0) (tRd t (lane0 a))) (intTo32 rm (wordAt ws 1) (tRd t (lane1 a)))
  else ofLanes (intTo32 rm (wordAt ws 0) (tRd t a.toNat)) 0

def frndW (rm : Rm) (ws : List Nat) (a : Word) : Word :=
  ofLanes (f32rnd rm (wordAt ws 0) (lane0 a)) (f32rnd rm (wordAt ws 1) (lane1 a))

/-! ### Modular (R92, R209) -/

def maddQ (q a b : Nat) : Nat := (a + b) % q
def msubQ (q a b : Nat) : Nat := (a % q + q - b % q) % q
def mmulQ (q a b : Nat) : Nat := a * b % q

/-! ### Reducers (R108, R215 to R217) -/

/-- Combine a list pairwise, left before right. -/
def pairUp {α : Type} (f : α → α → α) : List α → List α
  | a :: b :: t => f a b :: pairUp f t
  | l => l

/-- The fixed tree of R108 over 16 leaves. -/
def tree16 {α : Type} (f : α → α → α) (d : α) (l : List α) : α :=
  (pairUp f (pairUp f (pairUp f (pairUp f l)))).headD d

/-- Combine where an absent side is ignored (R216). -/
def optComb {α : Type} (f : α → α → α) : Option α → Option α → Option α
  | none, y => y
  | x, none => x
  | some x, some y => some (f x y)

/-- RED.ARGMAX: NaN above every number, −0 equals +0, smaller index, then left (R216). -/
def argmaxComb (x y : Nat × Nat) : Nat × Nat :=
  let nx := f32isNan x.1
  let ny := f32isNan y.1
  let c : Ordering := if nx && ny then .eq else if nx then .gt else if ny then .lt else (dec32 x.1).cmp (dec32 y.1)
  match c with
  | .gt => x
  | .lt => y
  | .eq => if x.2 ≤ y.2 then x else y

/-- A partial softmax state (R217): m, s, v0, v1. -/
structure Smx where
  m : Nat
  s : Nat
  v0 : Nat
  v1 : Nat
  deriving DecidableEq, Repr

def Smx.empty : Smx := ⟨0xFF800000, 0, 0, 0⟩
def Smx.isEmpty (x : Smx) : Bool := x.m == 0xFF800000 && x.s == 0

/-- combine of R217. -/
def smergeComb (l r : Smx) : Smx :=
  if l.isEmpty then r
  else if r.isEmpty then l
  else if [l.m, l.s, l.v0, l.v1, r.m, r.s, r.v0, r.v1].any f32isNan then ⟨nan32, nan32, nan32, nan32⟩
  else
    let m := f32max l.m r.m
    let fl := f32exp2 (f32sub l.m m)
    let fr := f32exp2 (f32sub r.m m)
    let j (x y : Nat) : Nat := f32add (f32mul x fl) (f32mul y fr)
    ⟨m, j l.s r.s, j l.v0 r.v0, j l.v1 r.v1⟩

/-- The reducing operations of R216. -/
inductive RedOp | fadd | fmax | iadd | argmax | smerge
  deriving DecidableEq, Repr

def leafOpt (x : RedLeaf) : Option RedLeaf := if x.present then some x else none

/-- The data of a reduction's first and second result over the 16 leaves in row order. -/
def reduceW (op : RedOp) (ls : List RedLeaf) : Word × Option Word :=
  match op with
  | .fadd =>
    let f (g : Word → Nat) : Nat := tree16 f32add 0 (ls.map fun x => if x.present then g x.a.data else 0)
    (ofLanes (f lane0) (f lane1), none)
  | .fmax =>
    let f (g : Word → Nat) : Nat :=
      (tree16 (optComb f32max) none (ls.map fun x => if x.present then some (g x.a.data) else none)).getD 0xFF800000
    (ofLanes (f lane0) (f lane1), none)
  | .iadd => (BitVec.ofNat 64 (ls.foldl (fun t x => if x.present then t + x.a.data.toNat else t) 0), none)
  | .argmax =>
    let r := (tree16 (optComb argmaxComb) none
      (ls.map fun x => if x.present then some (lane0 x.a.data, lane1 x.a.data) else none)).getD (0xFF800000, 0xFFFFFFFF)
    (ofLanes (if f32isNan r.1 then nan32 else r.1) r.2, none)
  | .smerge =>
    let r := (tree16 (optComb smergeComb) none
      (ls.map fun x => if x.present then
        some (Smx.mk (lane0 x.a.data) (lane1 x.a.data) (lane0 x.b.data) (lane1 x.b.data)) else none)).getD Smx.empty
    (ofLanes r.m r.s, some (ofLanes r.v0 r.v1))

/-- The values a reduction reads: A of the contributing rows, B too for RED.SMERGE (R215). -/
def redReads (op : RedOp) (ls : List RedLeaf) : List Val :=
  (ls.filter (·.present)).flatMap fun x => if op = .smerge then [x.a, x.b] else [x.a]

/-- A reduction's result value: tags over the contributing rows, err also from any row's mask (R215). -/
def redVal (op : RedOp) (ls : List RedLeaf) (w : Word) : Val :=
  let v := mkG (redReads op ls) w
  { v with err := v.err || ls.any (·.cbad) }

/-! ### Joins (R218 to R221) -/

inductive JoinOp | isect | union | merge
  deriving DecidableEq, Repr

/-- A value that ends a run at run level `lv` (R218). -/
def endsRun (lv : Nat) (v : Val) : Bool := v.last || (decide (0 < lv) && decide (lv ≤ v.edm.toNat))

def joinKey (wide : Bool) (v : Val) : Nat := if wide then lane1 v.data else lane0 v.data

/-- Append the value read to a queue if it is valid or ends a run. -/
def joinAppend (lv : Nat) (q : List Val) (v : Val) : List Val := if v.valid || endsRun lv v then q ++ [v] else q

/-- Remove the head of a queue, keeping the run-end tags when it ends a run: the queue and the done mark. -/
def joinTake (lv : Nat) (q : List Val) (d : Option (BitVec 4 × Bool)) : List Val × Option (BitVec 4 × Bool) :=
  match q with
  | [] => ([], d)
  | h :: t => (t, if endsRun lv h then some (h.edm, h.last) else d)

/-- MERGE emits the taken value with last and edm cleared (R221). -/
def joinPlain (v : Val) : Val := { v with last := false, edm := 0, port := false, seq := 0, err := v.err || v.mismatch }

/-- ISECT and UNION: the key word and, for Z64, the payload pair as the pending output (R221). -/
def joinPair (wide : Bool) (a b : Option Val) : Val × Option Val :=
  let reads := (a.toList ++ b.toList)
  let key := match a, b with
    | some x, _ => joinKey wide x
    | none, some y => joinKey wide y
    | none, none => 0
  let pl (x : Option Val) : Nat := match x with | some v => lane0 v.data | none => 0
  let e := errOf reads
  let mk (w : Word) : Val := { data := w, residue := mod15 w, err := e, rels := relsOf reads }
  (mk (BitVec.ofNat 64 key), if wide then some (mk (ofLanes (pl b) (pl a))) else none)

/-- One issue of a JOIN element after the appends (R220): the element and the value delivered. -/
def joinIssue (op : JoinOp) (wide : Bool) (lv : Nat) (e : Elem) : Elem × Val :=
  match e.pend with
  | some v => ({ e with pend := none }, v)
  | none =>
    match e.doneA, e.doneB with
    | some x, some y =>
      ({ e with doneA := none, doneB := none },
        Val.idle (if x.1.toNat < y.1.toNat then y.1 else x.1) (x.2 || y.2))
    | da, db =>
      let takeA (e : Elem) : Elem := let r := joinTake lv e.qa e.doneA; { e with qa := r.1, doneA := r.2 }
      let takeB (e : Elem) : Elem := let r := joinTake lv e.qb e.doneB; { e with qb := r.1, doneB := r.2 }
      let idleA := da.isNone && (match e.qa with | h :: _ => !h.valid | [] => false)
      let idleB := db.isNone && (match e.qb with | h :: _ => !h.valid | [] => false)
      if idleA then (takeA e, Val.idle 0 false)
      else if idleB then (takeB e, Val.idle 0 false)
      else if (da.isNone && e.qa.isEmpty) || (db.isNone && e.qb.isEmpty) then (e, Val.idle 0 false)
      else
        let emit (e : Elem) (a b : Option Val) : Elem × Val :=
          match op with
          | .merge => (e, joinPlain ((a.orElse fun _ => b).getD Val.zero))
          | .isect =>
            if a.isSome && b.isSome then (let r := joinPair wide a b; ({ e with pend := r.2 }, r.1))
            else (e, Val.idle 0 false)
          | .union => let r := joinPair wide a b; ({ e with pend := r.2 }, r.1)
        match da, db, e.qa, e.qb with
        | none, some _, a :: _, _ => emit (takeA e) (some a) none
        | some _, none, _, b :: _ => emit (takeB e) none (some b)
        | none, none, a :: _, b :: _ =>
          let ka := joinKey wide a
          let kb := joinKey wide b
          if ka < kb then emit (takeA e) (some a) none
          else if kb < ka then emit (takeB e) none (some b)
          else if op = .merge then emit (takeA e) (some a) none
          else emit (takeB (takeA e)) (some a) (some b)
        | _, _, _, _ => (e, Val.idle 0 false)

/-! ### Sampling (R222, R223) -/

/-- The weight of SAMP.STEP: min(2^48 − 1, roundRNE(x × 2^F)) and whether the weight is bad. -/
def sampWeight (f x : Nat) : Nat × Bool :=
  match dec32 x with
  | .nan => (0, true)
  | .inf _ => (0, true)
  | .fin n m e =>
    if n && m != 0 then (0, true)
    else
      let e' := e + (f : Int)
      (min (2 ^ 48 - 1) (if 0 ≤ e' then m * 2 ^ e'.toNat else roundShift .rne false 0 m (-e').toNat), false)

/-- SAMP.EMIT's word (R222). -/
def sampEmitW (e : Elem) : Word :=
  BitVec.ofNat 64 (e.cand.toNat + b2n (decide (e.mass = 0)) * 2 ^ 32 + b2n e.bad * 2 ^ 33)

/-! ### Philox-4×32-10 (R206) -/

def philoxRound (c : Nat × Nat × Nat × Nat) (k : Nat × Nat) : Nat × Nat × Nat × Nat :=
  let p0 := 0xD2511F53 * c.1
  let p1 := 0xCD9E8D57 * c.2.2.1
  ((p1 / 2 ^ 32) ^^^ c.2.1 ^^^ k.1, p1 % 2 ^ 32, (p0 / 2 ^ 32) ^^^ c.2.2.2 ^^^ k.2, p0 % 2 ^ 32)

def philoxRounds : Nat → Nat × Nat × Nat × Nat → Nat × Nat → Nat × Nat × Nat × Nat
  | 0, c, _ => c
  | n + 1, c, k => philoxRounds n (philoxRound c k) ((k.1 + 0x9E3779B9) % 2 ^ 32, (k.2 + 0xBB67AE85) % 2 ^ 32)

/-- Word `i` of the block with counter (c0, c1, c2, c3) under a 64-bit key. -/
def philoxWord (key : Word) (c0 c1 c2 c3 i : Nat) : Nat :=
  let r := philoxRounds 10 (c0, c1, c2, c3) (key.toNat % 2 ^ 32, key.toNat / 2 ^ 32)
  if i = 0 then r.1 else if i = 1 then r.2.1 else if i = 2 then r.2.2.1 else r.2.2.2

end Sys2Proof.Machine
end

