-- ==== Sys2Proof/Machine/Crypto.lean ====
section
/-! DEFINITION. The cryptographic functions the spec names by their standards: SHA-256, HMAC and HKDF over it, AES-256 in GCM (R302, R438,
R442, R449), and ECDSA P-256 signatures (R132, R428, R430). Byte strings are lists of bytes. -/

namespace Sys2Proof.Machine

/-! ## SHA-256 -/

/-- The 64 round constants side by side, the first the most significant. -/
def shaConstants : Nat :=
  0x428a2f9871374491b5c0fbcfe9b5dba53956c25b59f111f1923f82a4ab1c5ed5d807aa9812835b01243185be550c7dc372be5d7480deb1fe9bdc06a7c19bf174e49b69c1efbe47860fc19dc6240ca1cc2de92c6f4a7484aa5cb0a9dc76f988da983e5152a831c66db00327c8bf597fc7c6e00bf3d5a7914706ca63511429296727b70a852e1b21384d2c6dfc53380d13650a7354766a0abb81c2c92e92722c85a2bfe8a1a81a664bc24b8b70c76c51a3d192e819d6990624f40e3585106aa07019a4c1161e376c082748774c34b0bcb5391c0cb34ed8aa4a5b9cca4f682e6ff3748f82ee78a5636f84c878148cc7020890befffaa4506cebbef9a3f7c67178f2

/-- The hash value before the first block, its eight words side by side. -/
def shaStart : Nat := 0x6a09e667bb67ae853c6ef372a54ff53a510e527f9b05688c1f83d9ab5be0cd19

/-- Word i of n words of 32 bits written side by side, the first the most significant. -/
def wordOf (n x i : Nat) : Nat := x / 2 ^ (32 * (n - 1 - i)) % 2 ^ 32

/-- The exclusive or of a word's rotations to the right, and of its shift where one is given. -/
def spread (turns : List Nat) (shifted : Option Nat) (x : Nat) : Nat :=
  turns.foldl (fun a n => a ^^^ (x / 2 ^ n + x % 2 ^ n * 2 ^ (32 - n))) (match shifted with | some n => x / 2 ^ n | none => 0)

/-- The sixteen schedule words in hand, moved on by one. -/
def scheduleOn (w : List Nat) : List Nat :=
  let at_ (i : Nat) : Nat := w.getD i 0
  w.drop 1 ++ [(at_ 0 + at_ 9 + spread [7, 18] (some 3) (at_ 1) + spread [17, 19] (some 10) (at_ 14)) % 2 ^ 32]

/-- The eight working words, moved on by one round that takes in the number kw. -/
def workOn (kw : Nat) (v : List Nat) : List Nat :=
  let at_ (i : Nat) : Nat := v.getD i 0
  let chosen := at_ 6 ^^^ (at_ 4 &&& (at_ 5 ^^^ at_ 6))
  let most := (at_ 0 &&& (at_ 1 ||| at_ 2)) ||| (at_ 1 &&& at_ 2)
  let t := at_ 7 + spread [6, 11, 25] none (at_ 4) + chosen + kw
  (t + spread [2, 13, 22] none (at_ 0) + most) % 2 ^ 32 :: (v.take 3 ++ (at_ 3 + t) % 2 ^ 32 :: (v.drop 4).take 3)

/-- The last n rounds of a block. -/
def workThrough : Nat → List Nat → List Nat → List Nat
  | 0, _, v => v
  | n + 1, w, v => workThrough n (scheduleOn w) (workOn (wordOf 64 shaConstants (63 - n) + w.headD 0) v)

/-- The hash value, its words in a list, after one more block of 64 bytes. -/
def digestOn (h : List Nat) (b : List Byte) : List Nat :=
  List.zipWith (fun x y => (x + y) % 2 ^ 32) h (workThrough 64 ((chunks 4 16 b).map ofBytesBE) h)

/-- SHA-256: the text, a 1 bit, zeros, and its length in bits as 8 bytes, taken in 64 bytes at a time. -/
def sha256 (m : List Byte) : List Byte :=
  let tail := (0x80 : Byte) :: List.replicate ((119 - m.length % 64) % 64) 0 ++ toBytesBE 8 (8 * m.length)
  let text := m ++ tail
  ((chunks 64 (text.length / 64) text).foldl digestOn ((List.range 8).map (wordOf 8 shaStart))).flatMap (toBytesBE 4)

/-- HMAC-SHA-256. -/
def hmac (key m : List Byte) : List Byte :=
  let k := if key.length > 64 then sha256 key else key
  let k := k ++ List.replicate (64 - k.length) 0
  sha256 (k.map (· ^^^ 0x5c) ++ sha256 (k.map (· ^^^ 0x36) ++ m))

/-- HKDF-Expand of at most 32 bytes (one block). -/
def hkdfExpand (prk info : List Byte) (n : Nat) : List Byte := (hmac prk (info ++ [1])).take n

/-- HKDF-Extract. -/
def hkdfExtract (salt ikm : List Byte) : List Byte := hmac salt ikm

/-- The bytes of an ASCII string. -/
def ascii (s : String) : List Byte := s.toList.map fun c => BitVec.ofNat 8 c.toNat

/-! ## AES-256 -/

/-- Multiplication in GF(2^8) with x^8 + x^4 + x^3 + x + 1. -/
def gmul (a : Nat) : Nat → Nat → Nat
  | 0, _ => 0
  | k + 1, b =>
    let r := gmul a k (b / 2)
    let r := if r ≥ 128 then (2 * r ^^^ 0x11b) % 256 else 2 * r
    if b % 2 = 1 then r ^^^ a else r

def gf8 (a b : Nat) : Nat := gmul a 8 b

/-- The inverse as the 254th power; 0 for 0. -/
def gfInv (a : Nat) : Nat :=
  let a2 := gf8 a a
  let a4 := gf8 a2 a2
  let a8 := gf8 a4 a4
  let a16 := gf8 a8 a8
  let a32 := gf8 a16 a16
  let a64 := gf8 a32 a32
  let a128 := gf8 a64 a64
  gf8 a2 (gf8 a4 (gf8 a8 (gf8 a16 (gf8 a32 (gf8 a64 a128)))))

def rotl8 (x n : Nat) : Nat := (x * 2 ^ n ||| x / 2 ^ (8 - n)) % 256

def sbox (a : Nat) : Nat :=
  let i := gfInv a
  i ^^^ rotl8 i 1 ^^^ rotl8 i 2 ^^^ rotl8 i 3 ^^^ rotl8 i 4 ^^^ 0x63

def xorB (a b : List Nat) : List Nat := (a.zip b).map fun p => p.1 ^^^ p.2

/-- The key schedule's words, newest first. -/
def aesExpand : Nat → Nat → Nat → List (List Nat) → List (List Nat)
  | 0, _, _, w => w
  | k + 1, i, rc, w =>
    let t := (w[0]?).getD []
    let t' := if i % 8 = 0 then
        match (t.drop 1 ++ t.take 1).map sbox with
        | x :: xs => (x ^^^ rc) :: xs
        | [] => []
      else if i % 8 = 4 then t.map sbox else t
    aesExpand k (i + 1) (if i % 8 = 0 then gf8 rc 2 else rc) (xorB ((w[7]?).getD []) t' :: w)

/-- The fifteen round keys of AES-256, 16 bytes each. -/
def aesKeys (key : List Byte) : List (List Nat) :=
  let w := ((chunks 4 8 key).map fun c => c.map BitVec.toNat).reverse
  let all := (aesExpand 52 8 1 w).reverse
  (List.range 15).map fun r => ((all.drop (4 * r)).take 4).flatten

def shiftRows (b : List Nat) : List Nat := (List.range 16).map fun i => (b[(i + 4 * (i % 4)) % 16]?).getD 0

def mixColumn : List Nat → List Nat
  | [a, b, c, d] =>
    [gf8 a 2 ^^^ gf8 b 3 ^^^ c ^^^ d, a ^^^ gf8 b 2 ^^^ gf8 c 3 ^^^ d, a ^^^ b ^^^ gf8 c 2 ^^^ gf8 d 3, gf8 a 3 ^^^ b ^^^ c ^^^ gf8 d 2]
  | l => l

def mixColumns (b : List Nat) : List Nat :=
  (List.range 4).flatMap fun i => mixColumn ((b.drop (4 * i)).take 4)

def aesRounds : List (List Nat) → List Nat → List Nat
  | [], b => b
  | [k], b => xorB (shiftRows (b.map sbox)) k
  | k :: ks, b => aesRounds ks (xorB (mixColumns (shiftRows (b.map sbox))) k)

/-- One block enciphered under expanded keys. -/
def aesBlock (keys : List (List Nat)) (b : List Nat) : List Nat :=
  match keys with
  | [] => b
  | k :: ks => aesRounds ks (xorB b k)

/-! ## GCM -/

/-- Multiplication in GF(2^128) as GCM numbers its bits. -/
def ghashMul (x : Nat) : Nat → Nat → Nat
  | 0, _ => 0
  | k + 1, v =>
    let z := if x.testBit k then v else 0
    let v' := if v % 2 = 1 then v / 2 ^^^ (0xe1 * 2 ^ 120) else v / 2
    z ^^^ ghashMul x k v'

def pad16 (l : List Byte) : List Byte := l ++ List.replicate ((16 - l.length % 16) % 16) 0

def ghash (h : Nat) (m : List Byte) : Nat :=
  (chunks 16 (m.length / 16) m).foldl (fun y b => ghashMul (y ^^^ ofBytesBE b) 128 h) 0

def natBlock (n : Nat) : List Nat := (toBytesBE 16 n).map BitVec.toNat
def blockBytes (b : List Nat) : List Byte := b.map (BitVec.ofNat 8)

/-- CTR-mode key stream over a text, from a counter block. -/
def gctr (keys : List (List Nat)) (iv : List Byte) : Nat → List (List Byte) → List Byte
  | _, [] => []
  | c, b :: t =>
    let ks := blockBytes (aesBlock keys ((iv ++ toBytesBE 4 c).map BitVec.toNat))
    (b.zip ks).map (fun p => p.1 ^^^ p.2) ++ gctr keys iv (c + 1) t

/-- The tag of a ciphertext. -/
def gcmTag (keys : List (List Nat)) (iv aad ct : List Byte) : List Byte :=
  let h := ofBytesBE (blockBytes (aesBlock keys (natBlock 0)))
  let s := ghash h (pad16 aad ++ pad16 ct ++ toBytesBE 8 (8 * aad.length) ++ toBytesBE 8 (8 * ct.length))
  let e := aesBlock keys ((iv ++ toBytesBE 4 1).map BitVec.toNat)
  ((toBytesBE 16 s).zip (blockBytes e)).map fun p => p.1 ^^^ p.2

/-- AES-256-GCM with a 12-byte IV: ciphertext and tag. -/
def gcmSeal (key iv aad pt : List Byte) : List Byte × List Byte :=
  let keys := aesKeys key
  let ct := gctr keys iv 2 (chunks 16 (pt.length / 16 + 1) pt)
  (ct, gcmTag keys iv aad ct)

/-- The plaintext, if the tag verifies. -/
def gcmOpen (key iv aad ct tag : List Byte) : Option (List Byte) :=
  let keys := aesKeys key
  if gcmTag keys iv aad ct = tag then some (gctr keys iv 2 (chunks 16 (ct.length / 16 + 1) ct)) else none

/-! ## ECDSA over P-256 -/

def p256P : Nat := 0xffffffff00000001000000000000000000000000ffffffffffffffffffffffff
def p256N : Nat := 0xffffffff00000000ffffffffffffffffbce6faada7179e84f3b9cac2fc632551
def p256B : Nat := 0x5ac635d8aa3a93e7b3ebbd55769886bc651d06b0cc53b0f63bce3c3e27d2604b
def p256Gx : Nat := 0x6b17d1f2e12c4247f8bce6e563a440f277037d812deb33a0f4a13945d898c296
def p256Gy : Nat := 0x4fe342e2fe1a7f9b8ee7eb4a7c0f9e162bce33576b315ececbb6406837bf51f5

/-- x^e modulo m, by the low k bits of e. -/
def powMod (m x : Nat) : Nat → Nat → Nat
  | 0, _ => 1 % m
  | k + 1, e => let h := powMod m x k (e / 2); let h := h * h % m; if e % 2 = 1 then h * x % m else h

def invMod (m x : Nat) : Nat := powMod m (x % m) 256 (m - 2)

/-- A point in Jacobian coordinates; z = 0 is the point at infinity. -/
structure EcPoint where
  x : Nat
  y : Nat
  z : Nat
  deriving DecidableEq, Repr

def ecDouble (p : EcPoint) : EcPoint :=
  let m := p256P
  if p.z = 0 ∨ p.y = 0 then ⟨1, 1, 0⟩ else
  let y2 := p.y * p.y % m
  let s := 4 * p.x * y2 % m
  let z2 := p.z * p.z % m
  let w := 3 * (p.x + m - z2) * (p.x + z2) % m
  let x := (w * w + 2 * m - 2 * s) % m
  ⟨x, (w * (s + m - x) + m * m - 8 * y2 * y2 % m) % m, 2 * p.y * p.z % m⟩

def ecAdd (p q : EcPoint) : EcPoint :=
  let m := p256P
  if p.z = 0 then q else if q.z = 0 then p else
  let z1 := p.z * p.z % m
  let z2 := q.z * q.z % m
  let u1 := p.x * z2 % m
  let u2 := q.x * z1 % m
  let s1 := p.y * z2 * q.z % m
  let s2 := q.y * z1 * p.z % m
  if u1 = u2 then if s1 = s2 then ecDouble p else ⟨1, 1, 0⟩ else
  let h := (u2 + m - u1) % m
  let r := (s2 + m - s1) % m
  let h2 := h * h % m
  let h3 := h2 * h % m
  let v := u1 * h2 % m
  let x := (r * r + 3 * m - h3 - 2 * v) % m
  ⟨x, (r * (v + m - x) + m - s1 * h3 % m) % m, h * p.z % m * q.z % m⟩

/-- A multiple of a point, by the low k bits of the scalar. -/
def ecMul (p : EcPoint) : Nat → Nat → EcPoint
  | 0, _ => ⟨1, 1, 0⟩
  | k + 1, n => let d := ecDouble (ecMul p k (n / 2)); if n % 2 = 1 then ecAdd d p else d

/-- ECDSA P-256 over SHA-256: the key is x ‖ y, the signature r ‖ s, each 32 bytes, most significant byte first. -/
def ecdsaVerify (key msg sig : List Byte) : Bool :=
  let x := ofBytesBE (key.take 32)
  let y := ofBytesBE (key.drop 32)
  let r := ofBytesBE (sig.take 32)
  let s := ofBytesBE (sig.drop 32)
  if key.length ≠ 64 ∨ sig.length ≠ 64 ∨ r = 0 ∨ s = 0 ∨ p256N ≤ r ∨ p256N ≤ s ∨ p256P ≤ x ∨ p256P ≤ y then false
  else if y * y % p256P ≠ (x * x * x + (p256P - 3) * x + p256B) % p256P then false
  else
    let w := invMod p256N s
    let e := ofBytesBE (sha256 msg)
    let pt := ecAdd (ecMul ⟨p256Gx, p256Gy, 1⟩ 256 (e * w % p256N)) (ecMul ⟨x, y, 1⟩ 256 (r * w % p256N))
    if pt.z = 0 then false
    else
      let zi := invMod p256P pt.z
      pt.x * (zi * zi % p256P) % p256P % p256N = r

end Sys2Proof.Machine
end

