-- ==== Sys2Proof/WellFormed.lean ====
section
/-! DEFINITION. Which instructions are well-formed: the limits of R113, R114 and R116 that the fields' own widths do not
already state, the limits of the element operations' modifiers (R211, R218), and the ranges of the agents an event names. -/

namespace Sys2Proof

/-- The header fields of a woodward instruction; none for element operations and events. -/
def Instr.hdr : Instr → Option Hdr
  | .add h => some h
  | .addi h _ => some h
  | .sub h => some h
  | .mul h => some h
  | .mulhS h => some h
  | .mulhZ h => some h
  | .divS h => some h
  | .divZ h => some h
  | .remS h => some h
  | .remZ h => some h
  | .and h => some h
  | .or h => some h
  | .xor h => some h
  | .andn h => some h
  | .not h => some h
  | .shl h => some h
  | .shr h => some h
  | .sar h => some h
  | .rol h => some h
  | .clz h => some h
  | .ctz h => some h
  | .popc h => some h
  | .minS h => some h
  | .minZ h => some h
  | .maxS h => some h
  | .maxZ h => some h
  | .sext h _ => some h
  | .zext h _ => some h
  | .bext h _ _ => some h
  | .bins h _ _ => some h
  | .movi h _ => some h
  | .movhi h _ _ => some h
  | .sel h => some h
  | .cmpEq h _ _ => some h
  | .cmpNe h _ _ => some h
  | .cmpLtS h _ _ => some h
  | .cmpLtZ h _ _ => some h
  | .cmpLeS h _ _ => some h
  | .cmpLeZ h _ _ => some h
  | .test h _ _ => some h
  | .qand h _ _ => some h
  | .qor h _ _ => some h
  | .maddM h _ => some h
  | .msubM h _ => some h
  | .mmulM h _ => some h
  | .mred h _ => some h
  | .rdg h _ => some h
  | .wrg h _ => some h
  | .mov h => some h
  | .nullEffect h _ => some h
  | .nullReg h _ => some h
  | .land h _ => some h
  | .br h _ => some h
  | .bri h _ _ => some h
  | .call h _ => some h
  | .ret h => some h
  | .halt h => some h
  | .bkpt h _ => some h
  | .cvtaTo h _ => some h
  | .cvtaFrom h _ => some h
  | .isspace h _ => some h
  | .lea h _ _ => some h
  | .aperq h _ => some h
  | .ld h _ _ _ => some h
  | .st h _ _ _ => some h
  | .ldT h _ _ => some h
  | .gsave h _ _ _ _ => some h
  | .gload h _ _ _ _ => some h
  | .atomAdd h _ => some h
  | .atomMinmax h _ _ => some h
  | .atomBit h _ _ => some h
  | .atomXchg h _ => some h
  | .atomCas h _ _ => some h
  | .fence h _ _ => some h
  | .tskStamp h => some h
  | .tskYield h => some h
  | .tskYieldPhase h => some h
  | .tskQuery h _ => some h
  | .ordStand h _ => some h
  | .ordStandx h _ _ _ => some h
  | .ordRaft h _ => some h
  | .ordRaftx h _ _ _ => some h
  | .ordRun h _ => some h
  | .ordRunx h _ _ _ => some h
  | .ordWload h _ => some h
  | .ordLink h _ => some h
  | .ordToken h _ => some h
  | .ordSteer h _ _ => some h
  | .ordMode h _ _ => some h
  | .ordBough h _ _ => some h
  | .arm h => some h
  | .disarm h => some h
  | .rteSet h => some h
  | .rillSet h => some h
  | .rillGet h _ => some h
  | .rillReset h => some h
  | .tagLookLookup h => some h
  | .tagLookRead h => some h
  | .tagSet h => some h
  | .tagSetSect h => some h
  | .tagInv h => some h
  | .slotRes h => some h
  | .slotRelRelease h => some h
  | .slotRelDone h => some h
  | .slotQry h _ => some h
  | .tslotSet h => some h
  | .placePart h => some h
  | .placeHealth h => some h
  | .placeBusy h => some h
  | .placeFit h => some h
  | .seedOpen h => some h
  | .seedAppend h => some h
  | .seedDraft h _ _ _ => some h
  | .seedSave h => some h
  | .seedLoad h => some h
  | .seedTrim h => some h
  | .seedClose h => some h
  | .graftFetch h => some h
  | .graftPin h => some h
  | .graftUnpin h => some h
  | .graftQryState h => some h
  | .graftQryFind h => some h
  | .tlRead h _ _ => some h
  | .tlWaitGe h _ => some h
  | .tlWaitLag h _ => some h
  | .ccRead h _ => some h
  | .ccWait h => some h
  | .ccAdd h _ => some h
  | .cancel h _ => some h
  | .penBranch h _ => some h
  | .penAccept h _ => some h
  | .penDrop h _ => some h
  | .useSign h => some h
  | .perfRead h => some h
  | .lifeRead h => some h
  | .trap h _ => some h
  | .tret h => some h
  | .srd h _ => some h
  | .swr h _ => some h
  | .evwait h _ => some h
  | .evsend h _ => some h
  | .hwCallSampleKey h _ => some h
  | .hwCallEntropy h => some h
  | .testClr h => some h
  | _ => none

/-- Sense 1 needs a predicate register other than q0 (R113); SEL has pred 0 and sense 0. -/
def hdrOk (i : Instr) : Bool :=
  match i.hdr with
  | none => true
  | some h =>
    match i with
    | .sel _ => decide (h.pred = 0) && !h.sense
    | _ => !(decide (h.pred = 0) && h.sense)

/-- The payload limits of R116 and the rules that R308, R363, R384 and R186 add to them. -/
def payloadOk : Instr → Bool
  | .bext _ pos len1 => decide (pos.toNat + len1.toNat + 1 ≤ 64)
  | .bins _ pos len1 => decide (pos.toNat + len1.toNat + 1 ≤ 64)
  | .cmpEq _ wr qi => !(wr && decide (qi = 0))
  | .cmpNe _ wr qi => !(wr && decide (qi = 0))
  | .cmpLtS _ wr qi => !(wr && decide (qi = 0))
  | .cmpLtZ _ wr qi => !(wr && decide (qi = 0))
  | .cmpLeS _ wr qi => !(wr && decide (qi = 0))
  | .cmpLeZ _ wr qi => !(wr && decide (qi = 0))
  | .test _ wr qi => !(wr && decide (qi = 0))
  | .qand _ wr qi => !(wr && decide (qi = 0))
  | .qor _ wr qi => !(wr && decide (qi = 0))
  | .wrg _ g => decide (g ≠ 0)
  | .nullReg _ g => decide (g ≠ 0)
  | .nullEffect _ n => decide (1 ≤ n.toNat) && decide (n.toNat ≤ 112)
  | .st _ ty _ _ => !(decide (ty = .s8) || decide (ty = .s16) || decide (ty = .s32))
  | .gsave _ first cnt1 _ _ => decide (first.toNat + cnt1.toNat + 1 ≤ 64)
  | .gload _ first cnt1 _ _ => decide (first.toNat + cnt1.toNat + 1 ≤ 64)
  | .ordToken _ o => o.push && !o.pop
  | .seedDraft _ lmin _ _ => decide (lmin ≠ 0)
  | .penDrop _ mask => decide (mask ≠ 0)
  | .hwCallSampleKey _ svc => decide (svc ≠ 2)
  | .agLink _ l _ => decide (2 ≤ l.toNat) && decide (l.toNat ≤ 8)
  | .joinIsect _ _ lv => decide (lv.toNat ≤ 8)
  | .joinUnion _ _ lv => decide (lv.toNat ≤ 8)
  | .joinMerge _ _ lv => decide (lv.toNat ≤ 8)
  | _ => true

/-- The agents an event names exist in the package (R15 to R20). -/
def eventOk : Instr → Bool
  | .clockStep die step => decide (die < 4) && decide (step < 5)
  | .vfReset vf => decide (1 ≤ vf) && decide (vf < 64)
  | .tdiStop vf _ => decide (1 ≤ vf) && decide (vf < 64)
  | .registerWrite fn _ _ _ _ => decide (fn < 64)
  | .ringEnable vf ring _ _ => decide (1 ≤ vf) && decide (vf < 64) && decide (ring < 8)
  | .ringTeardownDrain vf ring _ => decide (1 ≤ vf) && decide (vf < 64) && decide (ring < 8)
  | .ringTeardownCancel vf ring _ => decide (1 ≤ vf) && decide (vf < 64) && decide (ring < 8)
  | .ringWidxWrite vf ring _ _ => decide (1 ≤ vf) && decide (vf < 64) && decide (ring < 8)
  | .ringDrainComplete vf ring => decide (1 ≤ vf) && decide (vf < 64) && decide (ring < 8)
  | .ringFetch vf ring _ => decide (1 ≤ vf) && decide (vf < 64) && decide (ring < 8)
  | .tinvPage vf _ _ => decide (1 ≤ vf) && decide (vf < 64)
  | .tinvContext vf _ _ => decide (1 ≤ vf) && decide (vf < 64)
  | .tinvComplete vf => decide (1 ≤ vf) && decide (vf < 64)
  | .fqRcntWrite fn _ _ => decide (fn < 64)
  | .fqLostRead fn _ => decide (fn < 64)
  | .msixMessage fn vec => decide (fn < 64) && decide (vec < 9)
  | .atsInvalidate vf _ _ => decide (1 ≤ vf) && decide (vf < 64)
  | .prgResponse vf idx _ => decide (1 ≤ vf) && decide (vf < 64) && decide (idx < 512)
  | .prgTimeout vf idx => decide (1 ≤ vf) && decide (vf < 64) && decide (idx < 512)
  | .pageRequest vf _ => decide (1 ≤ vf) && decide (vf < 64)
  | .walkComplete glade => decide (glade < 512)
  | .selectionPass die => decide (die < 4)
  | .launchBoost die idx => decide (die < 4) && decide (idx < 4096)
  | .reservingTimeout die idx => decide (die < 4) && decide (idx < 4096)
  | .launchStart die idx => decide (die < 4) && decide (idx < 4096)
  | .unitComplete die idx upos => decide (die < 4) && decide (idx < 4096) && decide (upos < 64)
  | .phaseBoundary die idx => decide (die < 4) && decide (idx < 4096)
  | .boughSaveWrite die idx => decide (die < 4) && decide (idx < 4096)
  | .phaseLimitExpiry die idx => decide (die < 4) && decide (idx < 4096)
  | .cancelProcess die => decide (die < 4)
  | .periodRollover ctx => decide (ctx < 1024)
  | .infieldTest clearing _ => decide (clearing < 64)
  | .timeSlotEvent die idx slot => decide (die < 4) && decide (idx < 4096) && decide (slot < 64)
  | .contextCycle glade => decide (glade < 512)
  | .resultLand glade => decide (glade < 512)
  | .fernResultLand glade => decide (glade < 512)
  | .agReply glade stem row => decide (glade < 512) && decide (stem < 16) && decide (row < 16)
  | .entryStartTimed glade queue => decide (glade < 512) && decide (queue < 5)
  | .entryStartGated glade queue => decide (glade < 512) && decide (queue < 5)
  | .entryRetire glade queue => decide (glade < 512) && decide (queue < 6)
  | .creditTimerFire glade => decide (glade < 512)
  | .standFire glade => decide (glade < 512)
  | .standSlotRelease glade => decide (glade < 512)
  | .standFireComplete glade => decide (glade < 512)
  | .drainBeat glade set => decide (glade < 512) && decide (set < 2)
  | .raftNoticeServe glade raft => decide (glade < 512) && decide (raft < 2)
  | .raftTileLand glade raft => decide (glade < 512) && decide (raft < 2)
  | .wloadRegion glade => decide (glade < 512)
  | .rillArrival glade rill _ => decide (glade < 512) && decide (rill < 32)
  | .landingArrival glade => decide (glade < 512)
  | .moteArrival glade => decide (glade < 512)
  | .moteReinjection glade stream => decide (glade < 512) && decide (stream < 52)
  | .seedReplayStep die bank => decide (die < 4) && decide (bank < 4096)
  | .graftFetchComplete entry => decide (entry < 65536)
  | .graftFetchTimeout entry => decide (entry < 65536)
  | .waitTimeout glade idx => decide (glade < 512) && decide (idx < 112)
  | .orderStall glade => decide (glade < 512)
  | .blockFetch glade => decide (glade < 512)
  | .blockCommit glade => decide (glade < 512)
  | .laneFailure link lane => decide (link < 16) && decide (lane < 20)
  | .linkUp link _ _ _ _ _ => decide (link < 16)
  | .linkDown link => decide (link < 16)
  | .flitData link _ _ _ _ => decide (link < 16)
  | .flitNotice link _ _ _ _ => decide (link < 16)
  | .flitSlotRes link _ _ _ _ => decide (link < 16)
  | .flitSlotAnswer link _ _ _ _ => decide (link < 16)
  | .flitSlotRelease link _ _ _ _ => decide (link < 16)
  | .flitSlotReclaim link _ _ _ _ => decide (link < 16)
  | .flitCall link _ _ _ _ => decide (link < 16)
  | .flitCallDone link _ _ _ _ => decide (link < 16)
  | .flitSpdm link _ _ _ _ => decide (link < 16)
  | .flitNak link _ _ _ _ => decide (link < 16)
  | .flitVersion link _ _ _ _ => decide (link < 16)
  | .flitSuspect link _ _ _ _ => decide (link < 16)
  | .flitPeerAbort link _ _ _ _ => decide (link < 16)
  | .slotAnswerTimeout glade => decide (glade < 512)
  | .jobClose ctx => decide (ctx < 1024)
  | .usageRecordRequest ctx _ => decide (ctx < 1024)
  | .quotaChange ctx _ _ _ => decide (ctx < 1024)
  | .tdispLockInterface vf => decide (1 ≤ vf) && decide (vf < 64)
  | .tdispStartInterface vf => decide (1 ≤ vf) && decide (vf < 64)
  | .ideKmKeyProg req => decide (1 ≤ req.vf) && decide (req.vf < 64)
  | .atsTranslationCompletion vf _ _ _ => decide (1 ≤ vf) && decide (vf < 64)
  | .agStorePerformed glade stem row => decide (glade < 512) && decide (stem < 16) && decide (row < 16)
  | .flitIdle link _ _ _ => decide (link < 16)
  | _ => true

/-- A well-formed instruction. -/
def wellFormed (i : Instr) : Bool := hdrOk i && payloadOk i && eventOk i

end Sys2Proof
end

