-- ==== Sys2Proof/Decode.lean ====
section
/-! DEFINITION. Decoding and encoding: woodward instruction words (R114 to R118), element op words (R119, R127, R128),
total on any bits and rejecting by name; after the decoders, the encoders from the same tables. -/

namespace Sys2Proof

/-- Why a woodward word is refused at block decode, in the names of R113. -/
inductive WordReject | opcodeUndef | blockFormat | payloadReserved | targetInvalid
  deriving DecidableEq, Repr

/-- Why an op word is refused by the configuration loader: unassigned opcode (R128), type not permitted (R127), THRU misuse
(R119), reserved modifier bits or values (R198). -/
inductive OpReject | opcode | type | thru | modifier
  deriving DecidableEq, Repr

/-! ### Codes of the enumerated fields -/

/-- The slot codes of R114. -/
def Slot.code : Slot → BitVec 2 | .l => 0 | .r => 1 | .q => 2 | .o => 3
def Slot.ofCode (c : BitVec 2) : Slot :=
  if c = 0 then .l else if c = 1 then .r else if c = 2 then .q else .o

/-- The space codes of R116; 5 to 7 are reserved. -/
def Space.code : Space → BitVec 3 | .gen => 0 | .loc => 1 | .shr => 2 | .clu => 3 | .gl => 4
def Space.ofCode (c : BitVec 3) : Option Space :=
  if c = 0 then some .gen else if c = 1 then some .loc else if c = 2 then some .shr
  else if c = 3 then some .clu else if c = 4 then some .gl else none

/-- The type codes of class L (R116); 7 to 15 are reserved. -/
def MemType.code : MemType → BitVec 4
  | .z8 => 0 | .z16 => 1 | .z32 => 2 | .z64 => 3 | .s8 => 4 | .s16 => 5 | .s32 => 6
def MemType.ofCode (c : BitVec 4) : Option MemType :=
  if c = 0 then some .z8 else if c = 1 then some .z16 else if c = 2 then some .z32 else if c = 3 then some .z64
  else if c = 4 then some .s8 else if c = 5 then some .s16 else if c = 6 then some .s32 else none

/-- The width codes of class W (R116); 3 is reserved. -/
def Width.code : Width → BitVec 2 | .w8 => 0 | .w16 => 1 | .w32 => 2
def Width.ofCode (c : BitVec 2) : Option Width :=
  if c = 0 then some .w8 else if c = 1 then some .w16 else if c = 2 then some .w32 else none

/-- The order codes of class A (R116); 4 to 7 are reserved. -/
def MemOrder.code : MemOrder → BitVec 3 | .rlx => 0 | .acq => 1 | .rel => 2 | .ar => 3
def MemOrder.ofCode (c : BitVec 3) : Option MemOrder :=
  if c = 0 then some .rlx else if c = 1 then some .acq else if c = 2 then some .rel else if c = 3 then some .ar else none

/-- The scope codes of class A (R116); 5 to 7 are reserved. -/
def Scope.code : Scope → BitVec 3 | .glade => 0 | .unit => 1 | .die => 2 | .pkg => 3 | .canopy => 4
def Scope.ofCode (c : BitVec 3) : Option Scope :=
  if c = 0 then some .glade else if c = 1 then some .unit else if c = 2 then some .die
  else if c = 3 then some .pkg else if c = 4 then some .canopy else none

def MinMaxOp.code : MinMaxOp → BitVec 3 | .mins => 0 | .maxs => 1 | .minz => 2 | .maxz => 3
def MinMaxOp.ofCode (c : BitVec 3) : Option MinMaxOp :=
  if c = 0 then some .mins else if c = 1 then some .maxs else if c = 2 then some .minz else if c = 3 then some .maxz else none

def BitOp.code : BitOp → BitVec 3 | .and => 0 | .or => 1 | .xor => 2
def BitOp.ofCode (c : BitVec 3) : Option BitOp :=
  if c = 0 then some .and else if c = 1 then some .or else if c = 2 then some .xor else none

/-- The peer and timeline codes of R116 and R384; 6 and 7 are reserved. -/
def Peer.code : Peer → BitVec 3 | .stand => 0 | .raft0 => 1 | .raft1 => 2 | .run => 3 | .wload => 4 | .link => 5
def Peer.ofCode (c : BitVec 3) : Option Peer :=
  if c = 0 then some .stand else if c = 1 then some .raft0 else if c = 2 then some .raft1
  else if c = 3 then some .run else if c = 4 then some .wload else if c = 5 then some .link else none

def QuerySel.code : QuerySel → BitVec 2 | .ts => 0 | .floor => 1 | .aborts => 2
def RillFn.code : RillFn → BitVec 2 | .state => 0 | .arrived => 1 | .config => 2
def SlotFn.code : SlotFn → BitVec 3 | .free => 0 | .reserved => 1 | .filling => 2 | .full => 3 | .key => 4
def TlItem.code : TlItem → BitVec 2 | .issued => 0 | .retired => 1 | .badnum => 2 | .badstat => 3
def TlItem.ofCode (c : BitVec 2) : TlItem :=
  if c = 0 then .issued else if c = 1 then .retired else if c = 2 then .badnum else .badstat
def CcItem.code : CcItem → BitVec 2 | .count => 0 | .status => 1 | .nonok => 2

/-- The type codes of R119. -/
def ElemType.code : ElemType → BitVec 3
  | .f32 => 0 | .bf16 => 1 | .e4m3 => 2 | .e2m1 => 3 | .s32 => 4 | .z32 => 5 | .s64 => 6 | .z64 => 7
def ElemType.ofCode (n : Nat) : Option ElemType :=
  if n = 0 then some .f32 else if n = 1 then some .bf16 else if n = 2 then some .e4m3 else if n = 3 then some .e2m1
  else if n = 4 then some .s32 else if n = 5 then some .z32 else if n = 6 then some .s64
  else if n = 7 then some .z64 else none

def IntType.code : IntType → BitVec 3 | .s32 => 4 | .z32 => 5 | .s64 => 6 | .z64 => 7
def IntType.ofCode (n : Nat) : Option IntType :=
  if n = 4 then some .s32 else if n = 5 then some .z32 else if n = 6 then some .s64
  else if n = 7 then some .z64 else none

/-- The destination codes of R119; 3 is THRU. -/
def Dest.code : Dest → BitVec 2 | .res => 0 | .rso => 1 | .dis => 2
def Dest.ofCode (c : BitVec 2) : Option Dest :=
  if c = 0 then some .res else if c = 1 then some .rso else if c = 2 then some .dis else none

def FRel.code : FRel → BitVec 3 | .eq => 0 | .ne => 1 | .lt => 2 | .le => 3 | .unord => 4
def FRel.ofCode (c : BitVec 3) : Option FRel :=
  if c = 0 then some .eq else if c = 1 then some .ne else if c = 2 then some .lt else if c = 3 then some .le
  else if c = 4 then some .unord else none

def IRel.code : IRel → BitVec 2 | .eq => 0 | .ne => 1 | .lt => 2 | .le => 3
def IRel.ofCode (c : BitVec 2) : Option IRel :=
  if c = 0 then some .eq else if c = 1 then some .ne else if c = 2 then some .lt else some .le

def AgSize.code : AgSize → BitVec 2 | .b1 => 0 | .b2 => 1 | .b4 => 2 | .b8 => 3
def AgSize.ofCode (c : BitVec 2) : Option AgSize :=
  if c = 0 then some .b1 else if c = 1 then some .b2 else if c = 2 then some .b4 else some .b8

def AgOp.code : AgOp → BitVec 3
  | .add => 0 | .mins => 1 | .maxs => 2 | .minz => 3 | .maxz => 4 | .and => 5 | .or => 6 | .xchg => 7
def AgOp.ofCode (c : BitVec 3) : Option AgOp :=
  if c = 0 then some .add else if c = 1 then some .mins else if c = 2 then some .maxs else if c = 3 then some .minz
  else if c = 4 then some .maxz else if c = 5 then some .and else if c = 6 then some .or else some .xchg

/-- Order, scope and width of an atomic in payload bits [29:23] (R116 class A). -/
def AtomHdr.code (a : AtomHdr) : BitVec 7 := a.order.code ++ a.scope.code ++ BitVec.ofBool a.wide
/-- Flags and peer of an order in payload bits [29:24] (R116 class O). -/
def OrdHdr.code (o : OrdHdr) : BitVec 6 :=
  BitVec.ofBool o.timed ++ BitVec.ofBool o.pop ++ BitVec.ofBool o.push ++ o.peer.code

/-! ### Payload classes (R116): each answers the fields of its class, or none where the layout is broken -/

def pZ (p : BitVec 30) : Option Unit := if p = 0 then some () else none
def pFn (p : BitVec 30) (k : Nat) : Option Unit := if p.toNat = k then some () else none
def pK (p : BitVec 30) : Option (BitVec 2 × BitVec 16) :=
  if p.extractLsb' 18 12 = 0 then some (p.extractLsb' 16 2, p.extractLsb' 0 16) else none
def pF (p : BitVec 30) : Option (BitVec 6 × BitVec 6) :=
  let pos := p.extractLsb' 6 6
  let len1 := p.extractLsb' 0 6
  if p.extractLsb' 12 18 = 0 ∧ pos.toNat + len1.toNat + 1 ≤ 64 then some (pos, len1) else none
def pW (p : BitVec 30) : Option Width :=
  if p.extractLsb' 2 28 = 0 then Width.ofCode (p.extractLsb' 0 2) else none
def pC (p : BitVec 30) : Option (Bool × BitVec 4) :=
  let wr := p.getLsbD 4
  let qi := p.extractLsb' 0 4
  if p.extractLsb' 5 25 = 0 ∧ ¬(wr = true ∧ qi = 0) then some (wr, qi) else none
def pM (p : BitVec 30) : Option (BitVec 4) := if p.extractLsb' 4 26 = 0 then some (p.extractLsb' 0 4) else none
def pG (p : BitVec 30) : Option (BitVec 6) := if p.extractLsb' 6 24 = 0 then some (p.extractLsb' 0 6) else none
def pG1 (p : BitVec 30) : Option (BitVec 6) :=
  if p.extractLsb' 6 24 = 0 ∧ p.extractLsb' 0 6 ≠ 0 then some (p.extractLsb' 0 6) else none
def pU0 (p : BitVec 30) : Option (BitVec 8) :=
  let n := p.extractLsb' 0 8
  if p.extractLsb' 8 22 = 0 ∧ 1 ≤ n.toNat ∧ n.toNat ≤ 112 then some n else none
def pU1 (p : BitVec 30) : Option (BitVec 6) :=
  if p.getLsbD 29 = true ∧ p.extractLsb' 6 23 = 0 ∧ p.extractLsb' 0 6 ≠ 0 then some (p.extractLsb' 0 6) else none
def pP (p : BitVec 30) : Option (BitVec 12) := if p.extractLsb' 12 18 = 0 then some (p.extractLsb' 0 12) else none
def pY (p : BitVec 30) : Option (BitVec 5) := if p.extractLsb' 5 25 = 0 then some (p.extractLsb' 0 5) else none
def pE (p : BitVec 30) : Option (BitVec 8) := if p.extractLsb' 8 22 = 0 then some (p.extractLsb' 0 8) else none
def pS (p : BitVec 30) : Option Space :=
  if p.extractLsb' 26 4 = 0 ∧ p.extractLsb' 0 23 = 0 then Space.ofCode (p.extractLsb' 23 3) else none
def pL (p : BitVec 30) : Option (MemType × Space × BitVec 23) :=
  match MemType.ofCode (p.extractLsb' 26 4), Space.ofCode (p.extractLsb' 23 3) with
  | some ty, some sp => some (ty, sp, p.extractLsb' 0 23)
  | _, _ => none
/-- ST takes types 0 to 3 only (R259). -/
def pLS (p : BitVec 30) : Option (MemType × Space × BitVec 23) :=
  match pL p with
  | some (ty, sp, off) => if ty = .s8 ∨ ty = .s16 ∨ ty = .s32 then none else some (ty, sp, off)
  | none => none
def pL0 (p : BitVec 30) : Option (Space × BitVec 23) :=
  if p.extractLsb' 26 4 = 0 then (Space.ofCode (p.extractLsb' 23 3)).map fun sp => (sp, p.extractLsb' 0 23) else none
def pV (p : BitVec 30) : Option (BitVec 6 × BitVec 4 × Space × BitVec 17) :=
  let first := p.extractLsb' 24 6
  let cnt1 := p.extractLsb' 20 4
  if first.toNat + cnt1.toNat + 1 ≤ 64 then
    (Space.ofCode (p.extractLsb' 17 3)).map fun sp => (first, cnt1, sp, p.extractLsb' 0 17)
  else none
/-- Order, scope and width of class A. -/
def pAHdr (p : BitVec 30) : Option AtomHdr :=
  match MemOrder.ofCode (p.extractLsb' 27 3), Scope.ofCode (p.extractLsb' 24 3) with
  | some o, some s => some ⟨o, s, p.getLsbD 23⟩
  | _, _ => none
def pA (p : BitVec 30) : Option AtomHdr := if p.extractLsb' 0 23 = 0 then pAHdr p else none
def pAM (p : BitVec 30) : Option (AtomHdr × MinMaxOp) :=
  match pAHdr p, MinMaxOp.ofCode (p.extractLsb' 20 3) with
  | some a, some op => if p.extractLsb' 0 20 = 0 then some (a, op) else none
  | _, _ => none
def pAB (p : BitVec 30) : Option (AtomHdr × BitOp) :=
  match pAHdr p, BitOp.ofCode (p.extractLsb' 20 3) with
  | some a, some op => if p.extractLsb' 0 20 = 0 then some (a, op) else none
  | _, _ => none
def pAC (p : BitVec 30) : Option (AtomHdr × BitVec 6) :=
  if p.extractLsb' 6 17 = 0 then (pAHdr p).map fun a => (a, p.extractLsb' 0 6) else none
def pAF (p : BitVec 30) : Option (MemOrder × Scope) :=
  match MemOrder.ofCode (p.extractLsb' 27 3), Scope.ofCode (p.extractLsb' 24 3) with
  | some o, some s => if p.extractLsb' 0 24 = 0 then some (o, s) else none
  | _, _ => none
/-- Flags and peer of class O; a peer code of 6 or 7 is refused whether or not pop or push is set. -/
def pOHdr (p : BitVec 30) : Option OrdHdr :=
  (Peer.ofCode (p.extractLsb' 24 3)).map fun peer => ⟨p.getLsbD 29, p.getLsbD 28, p.getLsbD 27, peer⟩
def pO (p : BitVec 30) : Option OrdHdr := if p.extractLsb' 0 24 = 0 then pOHdr p else none
def pOX (p : BitVec 30) : Option (OrdHdr × BitVec 3 × BitVec 4) :=
  if p.extractLsb' 0 16 = 0 ∧ p.getLsbD 23 = false then
    (pOHdr p).map fun o => (o, p.extractLsb' 20 3, p.extractLsb' 16 4)
  else none
/-- ORD.TOKEN requires push 1 and pop 0 (R308). -/
def pOT (p : BitVec 30) : Option OrdHdr :=
  match pO p with
  | some o => if o.push = true ∧ o.pop = false then some o else none
  | none => none
def pOS (p : BitVec 30) : Option (OrdHdr × BitVec 8) :=
  if p.extractLsb' 8 16 = 0 then (pOHdr p).map fun o => (o, p.extractLsb' 0 8) else none
def pOM (p : BitVec 30) : Option (OrdHdr × BitVec 16) :=
  if p.extractLsb' 16 8 = 0 then (pOHdr p).map fun o => (o, p.extractLsb' 0 16) else none
def pOB (p : BitVec 30) : Option (OrdHdr × Bool) :=
  if p.extractLsb' 1 23 = 0 then (pOHdr p).map fun o => (o, p.getLsbD 0) else none
def pTQ (p : BitVec 30) : Option QuerySel :=
  if p.toNat = 0 then some .ts else if p.toNat = 1 then some .floor else if p.toNat = 2 then some .aborts else none
def pTR (p : BitVec 30) : Option RillFn :=
  if p.toNat = 0 then some .state else if p.toNat = 1 then some .arrived else if p.toNat = 2 then some .config else none
def pTS (p : BitVec 30) : Option SlotFn :=
  if p.toNat = 0 then some .free else if p.toNat = 1 then some .reserved else if p.toNat = 2 then some .filling
  else if p.toNat = 3 then some .full else if p.toNat = 4 then some .key else none
/-- SEED.DRAFT: [4:0] lmin, not 0, [6:5] bmax − 1, [10:7] dmax − 1 (R363). -/
def pTD (p : BitVec 30) : Option (BitVec 5 × BitVec 2 × BitVec 4) :=
  if p.extractLsb' 11 19 = 0 ∧ p.extractLsb' 0 5 ≠ 0 then
    some (p.extractLsb' 0 5, p.extractLsb' 5 2, p.extractLsb' 7 4)
  else none
def pTLI (p : BitVec 30) : Option (Peer × TlItem) :=
  if p.extractLsb' 5 25 = 0 then
    (Peer.ofCode (p.extractLsb' 0 3)).map fun tl => (tl, TlItem.ofCode (p.extractLsb' 3 2))
  else none
def pTL (p : BitVec 30) : Option Peer := if p.extractLsb' 3 27 = 0 then Peer.ofCode (p.extractLsb' 0 3) else none
def pTC (p : BitVec 30) : Option CcItem :=
  if p.toNat = 0 then some .count else if p.toNat = 1 then some .status else if p.toNat = 2 then some .nonok else none
def pT2 (p : BitVec 30) : Option (BitVec 2) := if p.extractLsb' 2 28 = 0 then some (p.extractLsb' 0 2) else none
def pT1 (p : BitVec 30) : Option Bool := if p.extractLsb' 1 29 = 0 then some (p.getLsbD 0) else none
def pTM (p : BitVec 30) : Option (BitVec 4) :=
  if p.extractLsb' 4 26 = 0 ∧ p.extractLsb' 0 4 ≠ 0 then some (p.extractLsb' 0 4) else none
/-- HW.CALL with a service number other than ENTROPY: SAMPLE_KEY, or an unassigned service (R186). -/
def pPH (p : BitVec 30) : Option (BitVec 12) :=
  if p.extractLsb' 12 18 = 0 ∧ p.extractLsb' 0 12 ≠ 2 then some (p.extractLsb' 0 12) else none
def pPE (p : BitVec 30) : Option Unit := if p.toNat = 2 then some () else none

/-! ### Woodward words -/

/-- Opcodes 0x000 to 0x03f: integer, field and compare instructions. -/
def decodeInt (op : Nat) (h : Hdr) (p : BitVec 30) : Option Instr :=
  if op = 0x001 then (pZ p).map fun _ => .add h else
  if op = 0x002 then some (.addi h p) else
  if op = 0x003 then (pZ p).map fun _ => .sub h else
  if op = 0x004 then (pZ p).map fun _ => .mul h else
  if op = 0x005 then (pZ p).map fun _ => .mulhS h else
  if op = 0x006 then (pZ p).map fun _ => .mulhZ h else
  if op = 0x007 then (pZ p).map fun _ => .divS h else
  if op = 0x008 then (pZ p).map fun _ => .divZ h else
  if op = 0x009 then (pZ p).map fun _ => .remS h else
  if op = 0x00a then (pZ p).map fun _ => .remZ h else
  if op = 0x00b then (pZ p).map fun _ => .and h else
  if op = 0x00c then (pZ p).map fun _ => .or h else
  if op = 0x00d then (pZ p).map fun _ => .xor h else
  if op = 0x00e then (pZ p).map fun _ => .andn h else
  if op = 0x00f then (pZ p).map fun _ => .not h else
  if op = 0x010 then (pZ p).map fun _ => .shl h else
  if op = 0x011 then (pZ p).map fun _ => .shr h else
  if op = 0x012 then (pZ p).map fun _ => .sar h else
  if op = 0x013 then (pZ p).map fun _ => .rol h else
  if op = 0x014 then (pZ p).map fun _ => .clz h else
  if op = 0x015 then (pZ p).map fun _ => .ctz h else
  if op = 0x016 then (pZ p).map fun _ => .popc h else
  if op = 0x017 then (pZ p).map fun _ => .minS h else
  if op = 0x018 then (pZ p).map fun _ => .minZ h else
  if op = 0x019 then (pZ p).map fun _ => .maxS h else
  if op = 0x01a then (pZ p).map fun _ => .maxZ h else
  if op = 0x01b then (pW p).map fun w => .sext h w else
  if op = 0x01c then (pW p).map fun w => .zext h w else
  if op = 0x01d then (pF p).map fun (pos, len1) => .bext h pos len1 else
  if op = 0x01e then (pF p).map fun (pos, len1) => .bins h pos len1 else
  if op = 0x01f then some (.movi h p) else
  if op = 0x020 then (pK p).map fun (lane, imm) => .movhi h lane imm else
  if op = 0x021 then (pZ p).map fun _ => .sel h else
  if op = 0x028 then (pC p).map fun (wr, qi) => .cmpEq h wr qi else
  if op = 0x029 then (pC p).map fun (wr, qi) => .cmpNe h wr qi else
  if op = 0x02a then (pC p).map fun (wr, qi) => .cmpLtS h wr qi else
  if op = 0x02b then (pC p).map fun (wr, qi) => .cmpLtZ h wr qi else
  if op = 0x02c then (pC p).map fun (wr, qi) => .cmpLeS h wr qi else
  if op = 0x02d then (pC p).map fun (wr, qi) => .cmpLeZ h wr qi else
  if op = 0x02e then (pC p).map fun (wr, qi) => .test h wr qi else
  if op = 0x02f then (pC p).map fun (wr, qi) => .qand h wr qi else
  if op = 0x030 then (pC p).map fun (wr, qi) => .qor h wr qi else
  none

/-- Opcodes 0x040 to 0x07f: modular, plumbing and control instructions. -/
def decodeCtl (op : Nat) (h : Hdr) (p : BitVec 30) : Option Instr :=
  if op = 0x040 then (pM p).map fun m => .maddM h m else
  if op = 0x041 then (pM p).map fun m => .msubM h m else
  if op = 0x042 then (pM p).map fun m => .mmulM h m else
  if op = 0x043 then (pM p).map fun m => .mred h m else
  if op = 0x048 then (pG p).map fun g => .rdg h g else
  if op = 0x049 then (pG1 p).map fun g => .wrg h g else
  if op = 0x04a then (pZ p).map fun _ => .mov h else
  if op = 0x04b then ((pU0 p).map fun n => .nullEffect h n) <|> ((pU1 p).map fun g => .nullReg h g) else
  if op = 0x04c then (pP p).map fun num => .land h num else
  if op = 0x050 then some (.br h p) else
  if op = 0x051 then (some (p.extractLsb' 12 18, p.extractLsb' 0 12)).map fun (off, last) => .bri h off last else
  if op = 0x052 then some (.call h p) else
  if op = 0x053 then (pZ p).map fun _ => .ret h else
  if op = 0x054 then (pZ p).map fun _ => .halt h else
  if op = 0x055 then (pP p).map fun num => .bkpt h num else
  none

/-- Opcodes 0x080 to 0x0bf: address and memory instructions. -/
def decodeMem (op : Nat) (h : Hdr) (p : BitVec 30) : Option Instr :=
  if op = 0x080 then (pS p).map fun sp => .cvtaTo h sp else
  if op = 0x081 then (pS p).map fun sp => .cvtaFrom h sp else
  if op = 0x082 then (pS p).map fun sp => .isspace h sp else
  if op = 0x083 then (pL0 p).map fun (sp, off) => .lea h sp off else
  if op = 0x084 then (pS p).map fun sp => .aperq h sp else
  if op = 0x088 then (pL p).map fun (ty, sp, off) => .ld h ty sp off else
  if op = 0x089 then (pLS p).map fun (ty, sp, off) => .st h ty sp off else
  if op = 0x08a then (pL0 p).map fun (sp, off) => .ldT h sp off else
  if op = 0x08b then (pV p).map fun (first, cnt1, sp, off) => .gsave h first cnt1 sp off else
  if op = 0x08c then (pV p).map fun (first, cnt1, sp, off) => .gload h first cnt1 sp off else
  if op = 0x090 then (pA p).map fun a => .atomAdd h a else
  if op = 0x091 then (pAM p).map fun (a, op) => .atomMinmax h a op else
  if op = 0x092 then (pAB p).map fun (a, op) => .atomBit h a op else
  if op = 0x093 then (pA p).map fun a => .atomXchg h a else
  if op = 0x094 then (pAC p).map fun (a, g) => .atomCas h a g else
  if op = 0x095 then (pAF p).map fun (order, scope) => .fence h order scope else
  none

/-- Opcodes 0x0c0 to 0x0ff: tasks and orders. -/
def decodeOrd (op : Nat) (h : Hdr) (p : BitVec 30) : Option Instr :=
  if op = 0x0c0 then (pZ p).map fun _ => .tskStamp h else
  if op = 0x0c1 then ((pFn p 0).map fun _ => .tskYield h) <|> ((pFn p 1).map fun _ => .tskYieldPhase h) else
  if op = 0x0c2 then (pTQ p).map fun sel => .tskQuery h sel else
  if op = 0x0c8 then (pO p).map fun o => .ordStand h o else
  if op = 0x0c9 then (pOX p).map fun (o, ux, uy) => .ordStandx h o ux uy else
  if op = 0x0ca then (pO p).map fun o => .ordRaft h o else
  if op = 0x0cb then (pOX p).map fun (o, ux, uy) => .ordRaftx h o ux uy else
  if op = 0x0cc then (pO p).map fun o => .ordRun h o else
  if op = 0x0cd then (pOX p).map fun (o, ux, uy) => .ordRunx h o ux uy else
  if op = 0x0ce then (pO p).map fun o => .ordWload h o else
  if op = 0x0cf then (pO p).map fun o => .ordLink h o else
  if op = 0x0d0 then (pOT p).map fun o => .ordToken h o else
  if op = 0x0d1 then (pOS p).map fun (o, entry) => .ordSteer h o entry else
  if op = 0x0d2 then (pOM p).map fun (o, mode) => .ordMode h o mode else
  if op = 0x0d3 then (pOB p).map fun (o, b) => .ordBough h o b else
  none

/-- Opcodes 0x100 to 0x10f: table instructions. -/
def decodeTab (op : Nat) (h : Hdr) (p : BitVec 30) : Option Instr :=
  if op = 0x100 then (pZ p).map fun _ => .arm h else
  if op = 0x101 then (pZ p).map fun _ => .disarm h else
  if op = 0x102 then (pZ p).map fun _ => .rteSet h else
  if op = 0x103 then (pZ p).map fun _ => .rillSet h else
  if op = 0x104 then (pTR p).map fun fn => .rillGet h fn else
  if op = 0x105 then (pZ p).map fun _ => .rillReset h else
  if op = 0x106 then ((pFn p 0).map fun _ => .tagLookLookup h) <|> ((pFn p 1).map fun _ => .tagLookRead h) else
  if op = 0x107 then ((pFn p 0).map fun _ => .tagSet h) <|> ((pFn p 1).map fun _ => .tagSetSect h) else
  if op = 0x108 then (pZ p).map fun _ => .tagInv h else
  if op = 0x109 then (pZ p).map fun _ => .slotRes h else
  if op = 0x10a then ((pFn p 0).map fun _ => .slotRelRelease h) <|> ((pFn p 1).map fun _ => .slotRelDone h) else
  if op = 0x10b then (pTS p).map fun fn => .slotQry h fn else
  if op = 0x10c then (pZ p).map fun _ => .tslotSet h else
  if op = 0x10d then ((pFn p 0).map fun _ => .placePart h) <|> ((pFn p 1).map fun _ => .placeHealth h) <|> ((pFn p 2).map fun _ => .placeBusy h) <|> ((pFn p 3).map fun _ => .placeFit h) else
  none

/-- Opcodes 0x110 to 0x13f: seed and graft instructions. -/
def decodeSeed (op : Nat) (h : Hdr) (p : BitVec 30) : Option Instr :=
  if op = 0x110 then (pZ p).map fun _ => .seedOpen h else
  if op = 0x111 then (pZ p).map fun _ => .seedAppend h else
  if op = 0x112 then (pTD p).map fun (lmin, bmax1, dmax1) => .seedDraft h lmin bmax1 dmax1 else
  if op = 0x113 then (pZ p).map fun _ => .seedSave h else
  if op = 0x114 then (pZ p).map fun _ => .seedLoad h else
  if op = 0x115 then (pZ p).map fun _ => .seedTrim h else
  if op = 0x116 then (pZ p).map fun _ => .seedClose h else
  if op = 0x118 then (pZ p).map fun _ => .graftFetch h else
  if op = 0x119 then (pZ p).map fun _ => .graftPin h else
  if op = 0x11a then (pZ p).map fun _ => .graftUnpin h else
  if op = 0x11b then ((pFn p 0).map fun _ => .graftQryState h) <|> ((pFn p 1).map fun _ => .graftQryFind h) else
  none

/-- Opcodes 0x140 to 0x17f: counter instructions. -/
def decodeCnt (op : Nat) (h : Hdr) (p : BitVec 30) : Option Instr :=
  if op = 0x140 then (pTLI p).map fun (tl, item) => .tlRead h tl item else
  if op = 0x141 then (pTL p).map fun tl => .tlWaitGe h tl else
  if op = 0x142 then (pTL p).map fun tl => .tlWaitLag h tl else
  if op = 0x148 then (pTC p).map fun item => .ccRead h item else
  if op = 0x149 then (pZ p).map fun _ => .ccWait h else
  if op = 0x14a then (pT2 p).map fun b => .ccAdd h b else
  if op = 0x14b then (pT1 p).map fun b => .cancel h b else
  if op = 0x150 then (pT2 p).map fun b => .penBranch h b else
  if op = 0x151 then (pT2 p).map fun b => .penAccept h b else
  if op = 0x152 then (pTM p).map fun mask => .penDrop h mask else
  if op = 0x158 then (pZ p).map fun _ => .useSign h else
  if op = 0x159 then (pZ p).map fun _ => .perfRead h else
  if op = 0x15a then (pZ p).map fun _ => .lifeRead h else
  none

/-- Opcodes 0x180 to 0x1ff: system instructions. -/
def decodeSys (op : Nat) (h : Hdr) (p : BitVec 30) : Option Instr :=
  if op = 0x180 then (pY p).map fun n => .trap h n else
  if op = 0x181 then (pZ p).map fun _ => .tret h else
  if op = 0x182 then (pP p).map fun num => .srd h num else
  if op = 0x183 then (pP p).map fun num => .swr h num else
  if op = 0x184 then (pE p).map fun n => .evwait h n else
  if op = 0x185 then (pE p).map fun n => .evsend h n else
  if op = 0x186 then ((pPH p).map fun svc => .hwCallSampleKey h svc) <|> ((pPE p).map fun _ => .hwCallEntropy h) else
  if op = 0x187 then (pZ p).map fun _ => .testClr h else
  none

/-- The instruction an opcode and its payload name (R116, R117), given the header fields; none where the payload
breaks the layout of its class. -/
def decodePayload (op : Nat) (h : Hdr) (p : BitVec 30) : Option Instr :=
  if op < 0x040 then decodeInt op h p else
  if op < 0x080 then decodeCtl op h p else
  if op < 0x0c0 then decodeMem op h p else
  if op < 0x100 then decodeOrd op h p else
  if op < 0x110 then decodeTab op h p else
  if op < 0x140 then decodeSeed op h p else
  if op < 0x180 then decodeCnt op h p else
  decodeSys op h p

/-- The assigned woodward opcodes (R117); every other code is unassigned (R118). -/
def opAssigned (op : Nat) : Bool :=
  (decide (0x001 ≤ op) && decide (op ≤ 0x021)) ||
  (decide (0x028 ≤ op) && decide (op ≤ 0x030)) ||
  (decide (0x040 ≤ op) && decide (op ≤ 0x043)) ||
  (decide (0x048 ≤ op) && decide (op ≤ 0x04c)) ||
  (decide (0x050 ≤ op) && decide (op ≤ 0x055)) ||
  (decide (0x080 ≤ op) && decide (op ≤ 0x084)) ||
  (decide (0x088 ≤ op) && decide (op ≤ 0x08c)) ||
  (decide (0x090 ≤ op) && decide (op ≤ 0x095)) ||
  (decide (0x0c0 ≤ op) && decide (op ≤ 0x0c2)) ||
  (decide (0x0c8 ≤ op) && decide (op ≤ 0x0d3)) ||
  (decide (0x100 ≤ op) && decide (op ≤ 0x10d)) ||
  (decide (0x110 ≤ op) && decide (op ≤ 0x116)) ||
  (decide (0x118 ≤ op) && decide (op ≤ 0x11b)) ||
  (decide (0x140 ≤ op) && decide (op ≤ 0x142)) ||
  (decide (0x148 ≤ op) && decide (op ≤ 0x14b)) ||
  (decide (0x150 ≤ op) && decide (op ≤ 0x152)) ||
  (decide (0x158 ≤ op) && decide (op ≤ 0x15a)) ||
  (decide (0x180 ≤ op) && decide (op ≤ 0x187))

/-- A target field (R114): ten bits, all zero when the valid bit is 0. -/
def decodeTarget (t : BitVec 10) : Option (Option Target) :=
  if t.getLsbD 9 then some (some ⟨Slot.ofCode (t.extractLsb' 7 2), t.extractLsb' 0 7⟩)
  else if t = 0 then some none else none

/-- The opcode field of a woodward word (R114). -/
def wordOpcode (w : BitVec 64) : Nat := (w.extractLsb' 55 9).toNat

/-- A woodward instruction word (R114), with the checks of R113 that the word alone decides, in their order. -/
def decodeWord (w : BitVec 64) : Except WordReject Instr :=
  let op := wordOpcode w
  let pred : BitVec 4 := w.extractLsb' 51 4
  let sense := w.getLsbD 50
  if opAssigned op = false then .error .opcodeUndef
  else if pred = 0 ∧ sense = true then .error .blockFormat
  else if op = 0x021 ∧ (pred ≠ 0 ∨ sense = true) then .error .blockFormat
  else
    match decodeTarget (w.extractLsb' 40 10), decodeTarget (w.extractLsb' 30 10) with
    | some ta, some tb =>
      match decodePayload op ⟨pred, sense, ta, tb⟩ (w.extractLsb' 0 30) with
      | some i => .ok i
      | none => .error .payloadReserved
    | _, _ =>
      match decodePayload op ⟨pred, sense, none, none⟩ (w.extractLsb' 0 30) with
      | some _ => .error .targetInvalid
      | none => .error .payloadReserved

/-! ### Element op words -/

/-- The operation a 24-bit op word names, from the fields of R119 and the opcode map of R127; the modifier bits are those
of each operation's description. -/
def decodeOpFields (o ty : Nat) (d : Dest) (w : BitVec 24) : Except OpReject Instr :=
  if o = 0x01 then (if ty = 0 then (let imm := w.extractLsb' 0 12; .ok (.fadd d imm)) else .error .type) else
  if o = 0x02 then (if ty = 0 then (let imm := w.extractLsb' 0 12; .ok (.fsub d imm)) else .error .type) else
  if o = 0x03 then (if ty = 0 then (let imm := w.extractLsb' 0 12; .ok (.fmul d imm)) else .error .type) else
  if o = 0x04 then (if ty = 0 then (let imm := w.extractLsb' 0 12; .ok (.fma d imm)) else .error .type) else
  if o = 0x05 then (if ty = 0 then (let imm := w.extractLsb' 0 12; .ok (.fnma d imm)) else .error .type) else
  if o = 0x06 then (if ty = 0 then (let imm := w.extractLsb' 0 12; .ok (.fmin d imm)) else .error .type) else
  if o = 0x07 then (if ty = 0 then (let imm := w.extractLsb' 0 12; .ok (.fmax d imm)) else .error .type) else
  if o = 0x08 then (if ty = 0 then (if w &&& 0x000ffc#24 = 0 then (let neg := w.getLsbD 1; (let abs := w.getLsbD 0; .ok (.fmod d neg abs))) else .error .modifier) else .error .type) else
  if o = 0x09 then (if ty = 0 then (if w &&& 0x000ff8#24 = 0 then (match FRel.ofCode (w.extractLsb' 0 3) with | some r => .ok (.fcmp d r) | none => .error .modifier) else .error .modifier) else .error .type) else
  if o = 0x0a then (if ty = 0 then (let imm := w.extractLsb' 0 12; .ok (.fsel d imm)) else .error .type) else
  if o = 0x0b then (if ty = 0 then (let imm := w.extractLsb' 0 12; .ok (.frnd d imm)) else .error .type) else
  if o = 0x0c then (if ty = 0 then (let imm := w.extractLsb' 0 12; .ok (.fclamp d imm)) else .error .type) else
  if o = 0x0d then (if ty = 0 then (let imm := w.extractLsb' 0 12; .ok (.fscale d imm)) else .error .type) else
  if o = 0x10 then (if ty = 0 then (if w &&& 0x000ffe#24 = 0 then (let h := w.extractLsb' 0 1; .ok (.cvtF32Bf16 d h)) else .error .modifier) else .error .type) else
  if o = 0x11 then (if ty = 1 then (if w &&& 0x000fff#24 = 0 then .ok (.cvtBf16F32 d) else .error .modifier) else .error .type) else
  if o = 0x12 then (if ty = 0 then (if w &&& 0x000ffc#24 = 0 then (let p := w.extractLsb' 0 2; .ok (.cvtF32E4m3 d p)) else .error .modifier) else .error .type) else
  if o = 0x13 then (if ty = 2 then (if w &&& 0x000ffe#24 = 0 then (let h := w.extractLsb' 0 1; .ok (.cvtE4m3F32 d h)) else .error .modifier) else .error .type) else
  if o = 0x14 then (if ty = 3 then (if w &&& 0x000ffc#24 = 0 then (let p := w.extractLsb' 0 2; .ok (.cvtE2m1F32 d p)) else .error .modifier) else .error .type) else
  if o = 0x15 then (match IntType.ofCode ty with | some ty => (if w &&& 0x000ffe#24 = 0 then (let dir := w.getLsbD 0; .ok (.cvtIf d ty dir)) else .error .modifier) | none => .error .type) else
  if o = 0x18 then (match IntType.ofCode ty with | some ty => (let imm := w.extractLsb' 0 12; .ok (.iadd d ty imm)) | none => .error .type) else
  if o = 0x19 then (match IntType.ofCode ty with | some ty => (let imm := w.extractLsb' 0 12; .ok (.isub d ty imm)) | none => .error .type) else
  if o = 0x1a then (match IntType.ofCode ty with | some ty => (let imm := w.extractLsb' 0 12; .ok (.imul d ty imm)) | none => .error .type) else
  if o = 0x1b then (match IntType.ofCode ty with | some ty => (let imm := w.extractLsb' 0 12; .ok (.imulh d ty imm)) | none => .error .type) else
  if o = 0x1c then (match IntType.ofCode ty with | some ty => (let imm := w.extractLsb' 0 12; .ok (.iand d ty imm)) | none => .error .type) else
  if o = 0x1d then (match IntType.ofCode ty with | some ty => (let imm := w.extractLsb' 0 12; .ok (.ior d ty imm)) | none => .error .type) else
  if o = 0x1e then (match IntType.ofCode ty with | some ty => (let imm := w.extractLsb' 0 12; .ok (.ixor d ty imm)) | none => .error .type) else
  if o = 0x1f then (match IntType.ofCode ty with | some ty => (let imm := w.extractLsb' 0 12; .ok (.ishl d ty imm)) | none => .error .type) else
  if o = 0x20 then (match IntType.ofCode ty with | some ty => (let imm := w.extractLsb' 0 12; .ok (.ishr d ty imm)) | none => .error .type) else
  if o = 0x21 then (match IntType.ofCode ty with | some ty => (let imm := w.extractLsb' 0 12; .ok (.isar d ty imm)) | none => .error .type) else
  if o = 0x22 then (match IntType.ofCode ty with | some ty => (let imm := w.extractLsb' 0 12; .ok (.imin d ty imm)) | none => .error .type) else
  if o = 0x23 then (match IntType.ofCode ty with | some ty => (let imm := w.extractLsb' 0 12; .ok (.imax d ty imm)) | none => .error .type) else
  if o = 0x24 then (match IntType.ofCode ty with | some ty => (if w &&& 0x000ffc#24 = 0 then (match IRel.ofCode (w.extractLsb' 0 2) with | some r => .ok (.icmp d ty r) | none => .error .modifier) else .error .modifier) | none => .error .type) else
  if o = 0x25 then (match IntType.ofCode ty with | some ty => (let imm := w.extractLsb' 0 12; .ok (.isel d ty imm)) | none => .error .type) else
  if o = 0x28 then (if ty = 7 then (if w &&& 0x000ff0#24 = 0 then (let m := w.extractLsb' 0 4; .ok (.mmul d m)) else .error .modifier) else .error .type) else
  if o = 0x29 then (if ty = 7 then (if w &&& 0x000ff0#24 = 0 then (let m := w.extractLsb' 0 4; .ok (.madd d m)) else .error .modifier) else .error .type) else
  if o = 0x2a then (if ty = 7 then (if w &&& 0x000ff0#24 = 0 then (let m := w.extractLsb' 0 4; .ok (.msub d m)) else .error .modifier) else .error .type) else
  if o = 0x2b then (if ty = 7 then (if w &&& 0x000ff0#24 = 0 then (let m := w.extractLsb' 0 4; .ok (.bfly d m)) else .error .modifier) else .error .type) else
  if o = 0x2c then (if ty = 7 then (if w &&& 0x000ff0#24 = 0 then (let m := w.extractLsb' 0 4; .ok (.ibfly d m)) else .error .modifier) else .error .type) else
  if o = 0x30 then (match ElemType.ofCode ty with | some ty => (let imm := w.extractLsb' 0 12; .ok (.pass d ty imm)) | none => .error .type) else
  if o = 0x31 then (match ElemType.ofCode ty with | some ty => (let imm := w.extractLsb' 0 12; .ok (.hold d ty imm)) | none => .error .type) else
  if o = 0x32 then (match ElemType.ofCode ty with | some ty => (let imm := w.extractLsb' 0 12; .ok (.const d ty imm)) | none => .error .type) else
  if o = 0x38 then (if ty = 7 then (let n := w.extractLsb' 0 12; .ok (.agCnt d n)) else .error .type) else
  if o = 0x39 then (if ty = 7 then (let l := w.extractLsb' 8 4; if 2 ≤ l.toNat ∧ l.toNat ≤ 8 then (let n := w.extractLsb' 0 8; .ok (.agLink d l n)) else .error .modifier) else .error .type) else
  if o = 0x3a then (if ty = 7 then (if w &&& 0x000fe0#24 = 0 then (match Space.ofCode (w.extractLsb' 2 3) with | some sp => (match AgSize.ofCode (w.extractLsb' 0 2) with | some z => .ok (.agLd d sp z) | none => .error .modifier) | none => .error .modifier) else .error .modifier) else .error .type) else
  if o = 0x3b then (if ty = 7 then (if w &&& 0x000fe0#24 = 0 then (match Space.ofCode (w.extractLsb' 2 3) with | some sp => (match AgSize.ofCode (w.extractLsb' 0 2) with | some z => .ok (.agSt d sp z) | none => .error .modifier) | none => .error .modifier) else .error .modifier) else .error .type) else
  if o = 0x3c then (if ty = 7 then (if w &&& 0x000fe0#24 = 0 then (match Space.ofCode (w.extractLsb' 2 3) with | some sp => (match AgSize.ofCode (w.extractLsb' 0 2) with | some z => .ok (.agGath d sp z) | none => .error .modifier) | none => .error .modifier) else .error .modifier) else .error .type) else
  if o = 0x3d then (if ty = 7 then (if w &&& 0x000fe0#24 = 0 then (match Space.ofCode (w.extractLsb' 2 3) with | some sp => (match AgSize.ofCode (w.extractLsb' 0 2) with | some z => .ok (.agScat d sp z) | none => .error .modifier) | none => .error .modifier) else .error .modifier) else .error .type) else
  if o = 0x3e then (if ty = 7 then (if w &&& 0x000802#24 = 0x2#24 then (match Scope.ofCode (w.extractLsb' 8 3) with | some sc => (match AgOp.ofCode (w.extractLsb' 5 3) with | some op => (match Space.ofCode (w.extractLsb' 2 3) with | some sp => (let z := w.getLsbD 0; .ok (.agAtom d sc op sp z)) | none => .error .modifier) | none => .error .modifier) | none => .error .modifier) else .error .modifier) else .error .type) else
  if o = 0x40 then (if ty = 0 then (if w &&& 0x000ffe#24 = 0 then (let msk := w.getLsbD 0; .ok (.redFadd d msk)) else .error .modifier) else .error .type) else
  if o = 0x41 then (if ty = 0 then (if w &&& 0x000ffe#24 = 0 then (let msk := w.getLsbD 0; .ok (.redFmax d msk)) else .error .modifier) else .error .type) else
  if o = 0x42 then (if ty = 6 ∨ ty = 7 then (let z := decide (ty = 7); (if w &&& 0x000ffe#24 = 0 then (let msk := w.getLsbD 0; .ok (.redIadd d z msk)) else .error .modifier)) else .error .type) else
  if o = 0x43 then (if ty = 0 then (if w &&& 0x000ffe#24 = 0 then (let msk := w.getLsbD 0; .ok (.redArgmax d msk)) else .error .modifier) else .error .type) else
  if o = 0x44 then (if ty = 0 then (if w &&& 0x000ffe#24 = 0 then (let msk := w.getLsbD 0; .ok (.redSmerge d msk)) else .error .modifier) else .error .type) else
  if o = 0x48 then (if ty = 5 ∨ ty = 7 then (let wide := decide (ty = 7); (if w &&& 0x000ff0#24 = 0 then (let lv := w.extractLsb' 0 4; if lv.toNat ≤ 8 then .ok (.joinIsect d wide lv) else .error .modifier) else .error .modifier)) else .error .type) else
  if o = 0x49 then (if ty = 5 ∨ ty = 7 then (let wide := decide (ty = 7); (if w &&& 0x000ff0#24 = 0 then (let lv := w.extractLsb' 0 4; if lv.toNat ≤ 8 then .ok (.joinUnion d wide lv) else .error .modifier) else .error .modifier)) else .error .type) else
  if o = 0x4a then (if ty = 5 ∨ ty = 7 then (let wide := decide (ty = 7); (if w &&& 0x000ff0#24 = 0 then (let lv := w.extractLsb' 0 4; if lv.toNat ≤ 8 then .ok (.joinMerge d wide lv) else .error .modifier) else .error .modifier)) else .error .type) else
  if o = 0x50 then (if ty = 7 then (if w &&& 0x000fc0#24 = 0 then (let p := w.extractLsb' 0 6; .ok (.sampInit d p)) else .error .modifier) else .error .type) else
  if o = 0x51 then (if ty = 7 then (if w &&& 0x000fc0#24 = 0 then (let f := w.extractLsb' 0 6; .ok (.sampStep d f)) else .error .modifier) else .error .type) else
  if o = 0x52 then (if ty = 7 then (if w &&& 0x000ffe#24 = 0 then (let clr := w.getLsbD 0; .ok (.sampEmit d clr)) else .error .modifier) else .error .type) else
  if o = 0x53 then (if ty = 5 then (if w &&& 0x000fff#24 = 0 then .ok (.rng d) else .error .modifier) else .error .type) else
  if o = 0x58 then (if ty = 0 then (let imm := w.extractLsb' 0 12; .ok (.exp2 d imm)) else .error .type) else
  if o = 0x59 then (if ty = 0 then (let imm := w.extractLsb' 0 12; .ok (.log2 d imm)) else .error .type) else
  if o = 0x5a then (if ty = 0 then (let imm := w.extractLsb' 0 12; .ok (.rcp d imm)) else .error .type) else
  if o = 0x5b then (if ty = 0 then (let imm := w.extractLsb' 0 12; .ok (.rsqrt d imm)) else .error .type) else
  if o = 0x5c then (if ty = 0 then (let imm := w.extractLsb' 0 12; .ok (.sqrt d imm)) else .error .type) else
  if o = 0x5d then (if ty = 0 then (let imm := w.extractLsb' 0 12; .ok (.tanh d imm)) else .error .type) else
  if o = 0x5e then (if ty = 0 then (let imm := w.extractLsb' 0 12; .ok (.erf d imm)) else .error .type) else
  if o = 0x60 then (match ElemType.ofCode ty with | some ty => (if w &&& 0x000fff#24 = 0 then .ok (.bndRel d ty) else .error .modifier) | none => .error .type) else
  if o = 0x61 then (match ElemType.ofCode ty with | some ty => (if w &&& 0x000ffe#24 = 0 then (let flt := w.getLsbD 0; .ok (.resChk d ty flt)) else .error .modifier) | none => .error .type) else
  if o = 0x62 then (match ElemType.ofCode ty with | some ty => (if w &&& 0x000fff#24 = 0 then .ok (.seqTag d ty) else .error .modifier) | none => .error .type) else
  if o = 0x68 then (match ElemType.ofCode ty with | some ty => (if w &&& 0x000fe0#24 = 0 then (let r := w.extractLsb' 0 5; .ok (.rillIn d ty r)) else .error .modifier) | none => .error .type) else
  if o = 0x69 then (match ElemType.ofCode ty with | some ty => (if w &&& 0x000fe0#24 = 0 then (let r := w.extractLsb' 0 5; .ok (.rillOut d ty r)) else .error .modifier) | none => .error .type) else
  .error .opcode

/-- An element op word (R119): destination THRU is the pass-through and nothing else, and every other word is decoded by its
fields. -/
def decodeOp (w : BitVec 24) : Except OpReject Instr :=
  let o := (w.extractLsb' 17 7).toNat
  let ty := (w.extractLsb' 14 3).toNat
  match Dest.ofCode (w.extractLsb' 12 2) with
  | some d => decodeOpFields o ty d w
  | none => if w = 0x603000 then .ok .passThru else .error .thru

/-! ### Encoders -/

/-- Opcode, header and payload of a woodward instruction, from the same tables (R114 to R117); none for an element operation or an event. -/
def wordParts : Instr → Option (BitVec 9 × Hdr × BitVec 30)
  | .add h => some (0x001#9, h, 0#30)
  | .addi h imm => some (0x002#9, h, imm)
  | .sub h => some (0x003#9, h, 0#30)
  | .mul h => some (0x004#9, h, 0#30)
  | .mulhS h => some (0x005#9, h, 0#30)
  | .mulhZ h => some (0x006#9, h, 0#30)
  | .divS h => some (0x007#9, h, 0#30)
  | .divZ h => some (0x008#9, h, 0#30)
  | .remS h => some (0x009#9, h, 0#30)
  | .remZ h => some (0x00a#9, h, 0#30)
  | .and h => some (0x00b#9, h, 0#30)
  | .or h => some (0x00c#9, h, 0#30)
  | .xor h => some (0x00d#9, h, 0#30)
  | .andn h => some (0x00e#9, h, 0#30)
  | .not h => some (0x00f#9, h, 0#30)
  | .shl h => some (0x010#9, h, 0#30)
  | .shr h => some (0x011#9, h, 0#30)
  | .sar h => some (0x012#9, h, 0#30)
  | .rol h => some (0x013#9, h, 0#30)
  | .clz h => some (0x014#9, h, 0#30)
  | .ctz h => some (0x015#9, h, 0#30)
  | .popc h => some (0x016#9, h, 0#30)
  | .minS h => some (0x017#9, h, 0#30)
  | .minZ h => some (0x018#9, h, 0#30)
  | .maxS h => some (0x019#9, h, 0#30)
  | .maxZ h => some (0x01a#9, h, 0#30)
  | .sext h w => some (0x01b#9, h, 0#28 ++ w.code)
  | .zext h w => some (0x01c#9, h, 0#28 ++ w.code)
  | .bext h pos len1 => some (0x01d#9, h, 0#18 ++ pos ++ len1)
  | .bins h pos len1 => some (0x01e#9, h, 0#18 ++ pos ++ len1)
  | .movi h imm => some (0x01f#9, h, imm)
  | .movhi h lane imm => some (0x020#9, h, 0#12 ++ lane ++ imm)
  | .sel h => some (0x021#9, h, 0#30)
  | .cmpEq h wr qi => some (0x028#9, h, 0#25 ++ BitVec.ofBool wr ++ qi)
  | .cmpNe h wr qi => some (0x029#9, h, 0#25 ++ BitVec.ofBool wr ++ qi)
  | .cmpLtS h wr qi => some (0x02a#9, h, 0#25 ++ BitVec.ofBool wr ++ qi)
  | .cmpLtZ h wr qi => some (0x02b#9, h, 0#25 ++ BitVec.ofBool wr ++ qi)
  | .cmpLeS h wr qi => some (0x02c#9, h, 0#25 ++ BitVec.ofBool wr ++ qi)
  | .cmpLeZ h wr qi => some (0x02d#9, h, 0#25 ++ BitVec.ofBool wr ++ qi)
  | .test h wr qi => some (0x02e#9, h, 0#25 ++ BitVec.ofBool wr ++ qi)
  | .qand h wr qi => some (0x02f#9, h, 0#25 ++ BitVec.ofBool wr ++ qi)
  | .qor h wr qi => some (0x030#9, h, 0#25 ++ BitVec.ofBool wr ++ qi)
  | .maddM h m => some (0x040#9, h, 0#26 ++ m)
  | .msubM h m => some (0x041#9, h, 0#26 ++ m)
  | .mmulM h m => some (0x042#9, h, 0#26 ++ m)
  | .mred h m => some (0x043#9, h, 0#26 ++ m)
  | .rdg h g => some (0x048#9, h, 0#24 ++ g)
  | .wrg h g => some (0x049#9, h, 0#24 ++ g)
  | .mov h => some (0x04a#9, h, 0#30)
  | .nullEffect h n => some (0x04b#9, h, 0#22 ++ n)
  | .nullReg h g => some (0x04b#9, h, 1#1 ++ 0#23 ++ g)
  | .land h num => some (0x04c#9, h, 0#18 ++ num)
  | .br h off => some (0x050#9, h, off)
  | .bri h off last => some (0x051#9, h, off ++ last)
  | .call h off => some (0x052#9, h, off)
  | .ret h => some (0x053#9, h, 0#30)
  | .halt h => some (0x054#9, h, 0#30)
  | .bkpt h num => some (0x055#9, h, 0#18 ++ num)
  | .cvtaTo h sp => some (0x080#9, h, 0#4 ++ sp.code ++ 0#23)
  | .cvtaFrom h sp => some (0x081#9, h, 0#4 ++ sp.code ++ 0#23)
  | .isspace h sp => some (0x082#9, h, 0#4 ++ sp.code ++ 0#23)
  | .lea h sp off => some (0x083#9, h, 0#4 ++ sp.code ++ off)
  | .aperq h sp => some (0x084#9, h, 0#4 ++ sp.code ++ 0#23)
  | .ld h ty sp off => some (0x088#9, h, ty.code ++ sp.code ++ off)
  | .st h ty sp off => some (0x089#9, h, ty.code ++ sp.code ++ off)
  | .ldT h sp off => some (0x08a#9, h, 0#4 ++ sp.code ++ off)
  | .gsave h first cnt1 sp off => some (0x08b#9, h, first ++ cnt1 ++ sp.code ++ off)
  | .gload h first cnt1 sp off => some (0x08c#9, h, first ++ cnt1 ++ sp.code ++ off)
  | .atomAdd h a => some (0x090#9, h, a.code ++ 0#23)
  | .atomMinmax h a op => some (0x091#9, h, a.code ++ op.code ++ 0#20)
  | .atomBit h a op => some (0x092#9, h, a.code ++ op.code ++ 0#20)
  | .atomXchg h a => some (0x093#9, h, a.code ++ 0#23)
  | .atomCas h a g => some (0x094#9, h, a.code ++ 0#17 ++ g)
  | .fence h order scope => some (0x095#9, h, order.code ++ scope.code ++ 0#24)
  | .tskStamp h => some (0x0c0#9, h, 0#30)
  | .tskYield h => some (0x0c1#9, h, 0#30)
  | .tskYieldPhase h => some (0x0c1#9, h, 1#30)
  | .tskQuery h sel => some (0x0c2#9, h, 0#28 ++ sel.code)
  | .ordStand h o => some (0x0c8#9, h, o.code ++ 0#24)
  | .ordStandx h o ux uy => some (0x0c9#9, h, o.code ++ 0#1 ++ ux ++ uy ++ 0#16)
  | .ordRaft h o => some (0x0ca#9, h, o.code ++ 0#24)
  | .ordRaftx h o ux uy => some (0x0cb#9, h, o.code ++ 0#1 ++ ux ++ uy ++ 0#16)
  | .ordRun h o => some (0x0cc#9, h, o.code ++ 0#24)
  | .ordRunx h o ux uy => some (0x0cd#9, h, o.code ++ 0#1 ++ ux ++ uy ++ 0#16)
  | .ordWload h o => some (0x0ce#9, h, o.code ++ 0#24)
  | .ordLink h o => some (0x0cf#9, h, o.code ++ 0#24)
  | .ordToken h o => some (0x0d0#9, h, o.code ++ 0#24)
  | .ordSteer h o entry => some (0x0d1#9, h, o.code ++ 0#16 ++ entry)
  | .ordMode h o mode => some (0x0d2#9, h, o.code ++ 0#8 ++ mode)
  | .ordBough h o b => some (0x0d3#9, h, o.code ++ 0#23 ++ BitVec.ofBool b)
  | .arm h => some (0x100#9, h, 0#30)
  | .disarm h => some (0x101#9, h, 0#30)
  | .rteSet h => some (0x102#9, h, 0#30)
  | .rillSet h => some (0x103#9, h, 0#30)
  | .rillGet h fn => some (0x104#9, h, 0#28 ++ fn.code)
  | .rillReset h => some (0x105#9, h, 0#30)
  | .tagLookLookup h => some (0x106#9, h, 0#30)
  | .tagLookRead h => some (0x106#9, h, 1#30)
  | .tagSet h => some (0x107#9, h, 0#30)
  | .tagSetSect h => some (0x107#9, h, 1#30)
  | .tagInv h => some (0x108#9, h, 0#30)
  | .slotRes h => some (0x109#9, h, 0#30)
  | .slotRelRelease h => some (0x10a#9, h, 0#30)
  | .slotRelDone h => some (0x10a#9, h, 1#30)
  | .slotQry h fn => some (0x10b#9, h, 0#27 ++ fn.code)
  | .tslotSet h => some (0x10c#9, h, 0#30)
  | .placePart h => some (0x10d#9, h, 0#30)
  | .placeHealth h => some (0x10d#9, h, 1#30)
  | .placeBusy h => some (0x10d#9, h, 2#30)
  | .placeFit h => some (0x10d#9, h, 3#30)
  | .seedOpen h => some (0x110#9, h, 0#30)
  | .seedAppend h => some (0x111#9, h, 0#30)
  | .seedDraft h lmin bmax1 dmax1 => some (0x112#9, h, 0#19 ++ dmax1 ++ bmax1 ++ lmin)
  | .seedSave h => some (0x113#9, h, 0#30)
  | .seedLoad h => some (0x114#9, h, 0#30)
  | .seedTrim h => some (0x115#9, h, 0#30)
  | .seedClose h => some (0x116#9, h, 0#30)
  | .graftFetch h => some (0x118#9, h, 0#30)
  | .graftPin h => some (0x119#9, h, 0#30)
  | .graftUnpin h => some (0x11a#9, h, 0#30)
  | .graftQryState h => some (0x11b#9, h, 0#30)
  | .graftQryFind h => some (0x11b#9, h, 1#30)
  | .tlRead h tl item => some (0x140#9, h, 0#25 ++ item.code ++ tl.code)
  | .tlWaitGe h tl => some (0x141#9, h, 0#27 ++ tl.code)
  | .tlWaitLag h tl => some (0x142#9, h, 0#27 ++ tl.code)
  | .ccRead h item => some (0x148#9, h, 0#28 ++ item.code)
  | .ccWait h => some (0x149#9, h, 0#30)
  | .ccAdd h b => some (0x14a#9, h, 0#28 ++ b)
  | .cancel h b => some (0x14b#9, h, 0#29 ++ BitVec.ofBool b)
  | .penBranch h b => some (0x150#9, h, 0#28 ++ b)
  | .penAccept h b => some (0x151#9, h, 0#28 ++ b)
  | .penDrop h mask => some (0x152#9, h, 0#26 ++ mask)
  | .useSign h => some (0x158#9, h, 0#30)
  | .perfRead h => some (0x159#9, h, 0#30)
  | .lifeRead h => some (0x15a#9, h, 0#30)
  | .trap h n => some (0x180#9, h, 0#25 ++ n)
  | .tret h => some (0x181#9, h, 0#30)
  | .srd h num => some (0x182#9, h, 0#18 ++ num)
  | .swr h num => some (0x183#9, h, 0#18 ++ num)
  | .evwait h n => some (0x184#9, h, 0#22 ++ n)
  | .evsend h n => some (0x185#9, h, 0#22 ++ n)
  | .hwCallSampleKey h svc => some (0x186#9, h, 0#18 ++ svc)
  | .hwCallEntropy h => some (0x186#9, h, 0#18 ++ 2#12)
  | .testClr h => some (0x187#9, h, 0#30)
  | _ => none

/-- Opcode, type, destination and imm of an element operation (R119, R127); none for every other instruction. -/
def opParts : Instr → Option (BitVec 7 × BitVec 3 × BitVec 2 × BitVec 12)
  | .fadd d imm => some (0x01#7, 0#3, d.code, imm)
  | .fsub d imm => some (0x02#7, 0#3, d.code, imm)
  | .fmul d imm => some (0x03#7, 0#3, d.code, imm)
  | .fma d imm => some (0x04#7, 0#3, d.code, imm)
  | .fnma d imm => some (0x05#7, 0#3, d.code, imm)
  | .fmin d imm => some (0x06#7, 0#3, d.code, imm)
  | .fmax d imm => some (0x07#7, 0#3, d.code, imm)
  | .fmod d neg abs => some (0x08#7, 0#3, d.code, 0#10 ++ BitVec.ofBool neg ++ BitVec.ofBool abs)
  | .fcmp d r => some (0x09#7, 0#3, d.code, 0#9 ++ r.code)
  | .fsel d imm => some (0x0a#7, 0#3, d.code, imm)
  | .frnd d imm => some (0x0b#7, 0#3, d.code, imm)
  | .fclamp d imm => some (0x0c#7, 0#3, d.code, imm)
  | .fscale d imm => some (0x0d#7, 0#3, d.code, imm)
  | .cvtF32Bf16 d h => some (0x10#7, 0#3, d.code, 0#11 ++ h)
  | .cvtBf16F32 d => some (0x11#7, 1#3, d.code, 0#12)
  | .cvtF32E4m3 d p => some (0x12#7, 0#3, d.code, 0#10 ++ p)
  | .cvtE4m3F32 d h => some (0x13#7, 2#3, d.code, 0#11 ++ h)
  | .cvtE2m1F32 d p => some (0x14#7, 3#3, d.code, 0#10 ++ p)
  | .cvtIf d ty dir => some (0x15#7, ty.code, d.code, 0#11 ++ BitVec.ofBool dir)
  | .iadd d ty imm => some (0x18#7, ty.code, d.code, imm)
  | .isub d ty imm => some (0x19#7, ty.code, d.code, imm)
  | .imul d ty imm => some (0x1a#7, ty.code, d.code, imm)
  | .imulh d ty imm => some (0x1b#7, ty.code, d.code, imm)
  | .iand d ty imm => some (0x1c#7, ty.code, d.code, imm)
  | .ior d ty imm => some (0x1d#7, ty.code, d.code, imm)
  | .ixor d ty imm => some (0x1e#7, ty.code, d.code, imm)
  | .ishl d ty imm => some (0x1f#7, ty.code, d.code, imm)
  | .ishr d ty imm => some (0x20#7, ty.code, d.code, imm)
  | .isar d ty imm => some (0x21#7, ty.code, d.code, imm)
  | .imin d ty imm => some (0x22#7, ty.code, d.code, imm)
  | .imax d ty imm => some (0x23#7, ty.code, d.code, imm)
  | .icmp d ty r => some (0x24#7, ty.code, d.code, 0#10 ++ r.code)
  | .isel d ty imm => some (0x25#7, ty.code, d.code, imm)
  | .mmul d m => some (0x28#7, 7#3, d.code, 0#8 ++ m)
  | .madd d m => some (0x29#7, 7#3, d.code, 0#8 ++ m)
  | .msub d m => some (0x2a#7, 7#3, d.code, 0#8 ++ m)
  | .bfly d m => some (0x2b#7, 7#3, d.code, 0#8 ++ m)
  | .ibfly d m => some (0x2c#7, 7#3, d.code, 0#8 ++ m)
  | .pass d ty imm => some (0x30#7, ty.code, d.code, imm)
  | .passThru => some (0x30#7, 0#3, 3#2, 0#12)
  | .hold d ty imm => some (0x31#7, ty.code, d.code, imm)
  | .const d ty imm => some (0x32#7, ty.code, d.code, imm)
  | .agCnt d n => some (0x38#7, 7#3, d.code, n)
  | .agLink d l n => some (0x39#7, 7#3, d.code, l ++ n)
  | .agLd d sp z => some (0x3a#7, 7#3, d.code, 0#7 ++ sp.code ++ z.code)
  | .agSt d sp z => some (0x3b#7, 7#3, d.code, 0#7 ++ sp.code ++ z.code)
  | .agGath d sp z => some (0x3c#7, 7#3, d.code, 0#7 ++ sp.code ++ z.code)
  | .agScat d sp z => some (0x3d#7, 7#3, d.code, 0#7 ++ sp.code ++ z.code)
  | .agAtom d sc op sp z => some (0x3e#7, 7#3, d.code, 0#1 ++ sc.code ++ op.code ++ sp.code ++ 1#1 ++ BitVec.ofBool z)
  | .redFadd d msk => some (0x40#7, 0#3, d.code, 0#11 ++ BitVec.ofBool msk)
  | .redFmax d msk => some (0x41#7, 0#3, d.code, 0#11 ++ BitVec.ofBool msk)
  | .redIadd d z msk => some (0x42#7, 3#2 ++ BitVec.ofBool z, d.code, 0#11 ++ BitVec.ofBool msk)
  | .redArgmax d msk => some (0x43#7, 0#3, d.code, 0#11 ++ BitVec.ofBool msk)
  | .redSmerge d msk => some (0x44#7, 0#3, d.code, 0#11 ++ BitVec.ofBool msk)
  | .joinIsect d wide lv => some (0x48#7, 1#1 ++ BitVec.ofBool wide ++ 1#1, d.code, 0#8 ++ lv)
  | .joinUnion d wide lv => some (0x49#7, 1#1 ++ BitVec.ofBool wide ++ 1#1, d.code, 0#8 ++ lv)
  | .joinMerge d wide lv => some (0x4a#7, 1#1 ++ BitVec.ofBool wide ++ 1#1, d.code, 0#8 ++ lv)
  | .sampInit d p => some (0x50#7, 7#3, d.code, 0#6 ++ p)
  | .sampStep d f => some (0x51#7, 7#3, d.code, 0#6 ++ f)
  | .sampEmit d clr => some (0x52#7, 7#3, d.code, 0#11 ++ BitVec.ofBool clr)
  | .rng d => some (0x53#7, 5#3, d.code, 0#12)
  | .exp2 d imm => some (0x58#7, 0#3, d.code, imm)
  | .log2 d imm => some (0x59#7, 0#3, d.code, imm)
  | .rcp d imm => some (0x5a#7, 0#3, d.code, imm)
  | .rsqrt d imm => some (0x5b#7, 0#3, d.code, imm)
  | .sqrt d imm => some (0x5c#7, 0#3, d.code, imm)
  | .tanh d imm => some (0x5d#7, 0#3, d.code, imm)
  | .erf d imm => some (0x5e#7, 0#3, d.code, imm)
  | .bndRel d ty => some (0x60#7, ty.code, d.code, 0#12)
  | .resChk d ty flt => some (0x61#7, ty.code, d.code, 0#11 ++ BitVec.ofBool flt)
  | .seqTag d ty => some (0x62#7, ty.code, d.code, 0#12)
  | .rillIn d ty r => some (0x68#7, ty.code, d.code, 0#7 ++ r)
  | .rillOut d ty r => some (0x69#7, ty.code, d.code, 0#7 ++ r)
  | _ => none

/-- A target as its ten bits (R114). -/
def encodeTarget : Option Target → BitVec 10
  | none => 0
  | some t => 1#1 ++ t.slot.code ++ t.index

/-- The header fields and payload as a woodward word (R114). -/
def assembleWord (op : BitVec 9) (h : Hdr) (p : BitVec 30) : BitVec 64 :=
  op ++ h.pred ++ BitVec.ofBool h.sense ++ encodeTarget h.ta ++ encodeTarget h.tb ++ p

/-- The 64-bit word of a woodward instruction; none for every other instruction. -/
def encodeWord (i : Instr) : Option (BitVec 64) :=
  (wordParts i).map fun x => assembleWord x.1 x.2.1 x.2.2

/-- The 24-bit op word of an element operation; none for every other instruction. -/
def encodeOp (i : Instr) : Option (BitVec 24) :=
  (opParts i).map fun x => x.1 ++ x.2.1 ++ x.2.2.1 ++ x.2.2.2

/-- The words of an instruction as its bits and how many there are: 64 for a woodward instruction, 24 for an element operation;
an event has no words. -/
def encode (i : Instr) : Option (Nat × Nat) :=
  match encodeWord i with
  | some w => some (64, w.toNat)
  | none => (encodeOp i).map fun w => (24, w.toNat)

/-- The instruction read from an instruction whose bits are `w`: an op word of 24 bits, a woodward word of 64 bits. -/
def decodeTableWord (nbits w : Nat) : Option Instr :=
  if nbits = 24 then (decodeOp (BitVec.ofNat 24 w)).toOption
  else if nbits = 64 then (decodeWord (BitVec.ofNat 64 w)).toOption
  else none

end Sys2Proof
end

