-- ==== Sys2Proof/Config.lean ====
section
/-! DEFINITION. What an implementation fixes and the values the spec leaves open. An `opaque` constant has no body: nothing can
evaluate it, so a statement about it holds whatever it is. -/

namespace Sys2Proof.Config

/-- The free value drawn as the `n`-th open value of a run: an ANY-VALUE word (R10), a random byte string's word, or a value of
TRAP.VALUE that no rule states. DESIGN CHOICE, log entries 1 and 2. -/
opaque freeWord : Nat → BitVec 64

/-- Secret or unpredictable byte strings the heartwood makes (signatures, nonces, wrapped keys, ephemeral public keys, the
results of key agreement), named by a purpose and the free counter (DESIGN CHOICE, log entry 3). -/
opaque secretByte : Nat → Nat → Nat → BitVec 8

/-- The length of a 32-byte grain as the controller's lossless compressor leaves it (R242): deterministic and not visible (DESIGN CHOICE, log entry 66). -/
opaque compressedLength : List (BitVec 8) → Nat

/-- The time from which a glade's reads that no acquire orders find a write: by the write's number and the glade. R10 and R275 to R277 leave each such read the
value before the write or the written one (DESIGN CHOICE, log entry 22). -/
opaque visibleAt : Nat → Nat → Nat

/-- The version of the sections of a glade record from 0x0_C000, which the device firmware sets (R419) (DESIGN CHOICE, log entry 82). -/
opaque recordLayout : BitVec 32

end Sys2Proof.Config
end

