-- ==== Sys2Proof/Machine/Flags.lean ====
section
/-! DEFINITION. The bits the compare-class instructions compute (R165), and the validity of a modulus register (R152). -/

namespace Sys2Proof.Machine

def cmpEqB (l r : Word) : Bool := decide (l = r)
def cmpNeB (l r : Word) : Bool := decide (l ≠ r)
def cmpLtSB (l r : Word) : Bool := l.slt r
def cmpLtZB (l r : Word) : Bool := l.ult r
def cmpLeSB (l r : Word) : Bool := l.sle r
def cmpLeZB (l r : Word) : Bool := l.ule r
def testB (l r : Word) : Bool := decide (l &&& r ≠ 0)
def qandB (l r : Word) : Bool := l.getLsbD 0 && r.getLsbD 0
def qorB (l r : Word) : Bool := l.getLsbD 0 || r.getLsbD 0

/-- MQSTAT's bit for a triple (q, qinv, mont_sq) (R152). -/
def modulusValid (q qinv msq : Nat) : Bool :=
  decide (q % 2 = 1) && decide (3 ≤ q) && decide (q < 2 ^ 62) && decide (q * qinv % 2 ^ 64 = 2 ^ 64 - 1)
    && decide (msq = 2 ^ 128 % q)

end Sys2Proof.Machine
end

