-- ==== Sys2Proof/Machine/EngineState.lean ====
section
/-! DEFINITION. The state of a glade's queues and engines: order queues and token FIFOs (R284 to R293, R309), rills (R329), route table
(R326), landing zones (R339, R340), the stand (R69 to R73). -/

namespace Sys2Proof.Machine

/-- An entry of an order queue (R285): the fields of the control word, the operation number and timeline, the descriptor copy, the
operand of steer, mode and bough entries, and the progress of an entry: notices, tiles or
regions done, the tiles in flight by the cy each began and the slot it is for, oldest first, the link chosen, flits not acknowledged, the bytes of the regions a weight load has read (R255), whether it holds a popped token, its number among all orders (R269, R276), and how often the oldest tile in flight has been re-injected; 5 once it is exhausted (R415). -/
structure QEntry where
  kind : Nat
  timed : Bool := false
  pop : Bool := false
  push : Bool := false
  peer : Nat := 0
  offset : Nat := 0
  remote : Bool := false
  fromPos : Nat := 0
  state : Nat := 0
  status : Nat := 0
  opnum : Nat := 0
  tl : Nat := 0
  desc : List Byte := []
  arg : Word := 0
  notices : List Nat := []
  issued : Nat := 0
  tiles : List (Nat × Nat) := []
  link : Nat := 255
  pages : List (Nat × Nat) := []
  regs : List (Nat × List Byte) := []
  held : Bool := false
  uid : Nat := 0
  tries : Nat := 0
  deriving DecidableEq, Repr

/-- An order of a committed block on its way into a queue of a glade (R286, R288): whether an X form of another glade sent it, the key
(timestamp, glade) and the instruction index of its block, and the queue it enters. -/
structure Incoming where
  remote : Bool
  ts : Nat
  glade : Nat
  idx : Nat
  queue : Nat
  entry : QEntry
  deriving DecidableEq, Repr

/-- A timed credit waiting in the credit timer (R309). -/
structure Credit where
  peer : Nat
  offset : Nat
  deriving DecidableEq, Repr

/-- An engine timeline (R386). -/
structure Timeline where
  issued : Nat := 0
  retired : Nat := 0
  badnum : Nat := 0
  nonok : Nat := 0
  badstat : Nat := 0
  deriving DecidableEq, Repr

/-- A mote on its way: with the words of its chain as its emission found them in the route table (R328), the stem that emitted it, and its place in the order
of emission, (count × 16 + row) × 16 + stem (R230), and the run that emitted it by its number among all orders. -/
structure Sent where
  mote : Mote := {}
  words : List Nat := []
  stem : Nat := 0
  ord : Nat := 0
  uid : Nat := 0
  deriving DecidableEq, Repr

/-- A stream of motes leaving a glade, from a stem's stream-out port or a rill: the motes its sinks have not yet accepted, which the
replay buffer holds (R415), and how often the first of them has been re-injected; 5 once its source has raised REPLAY_EXHAUSTED. -/
structure OutStream where
  out : List Sent := []
  tries : Nat := 0
  deriving DecidableEq, Repr

/-- A rill (R329): configuration word, counts, status, whether its event has fired in this arm, bytes of a decode unit in progress with their tags, elements
of the 32-element block in progress and the scale read for it (R153), decoded values its port has no room for yet (R192), decode port, outgoing motes. -/
structure Rill where
  cfg : Word := 0
  arrived : Nat := 0
  base : Nat := 0
  arms : Nat := 0
  status : Nat := 0
  oseq : BitVec 16 := 0
  fired : Bool := false
  part : List Byte := []
  partErr : Bool := false
  partRels : List Rel := []
  blk : Nat := 0
  blkScale : Nat := 0x7F
  wait : List Val := []
  port : Port := {}
  ostream : OutStream := {}
  deriving DecidableEq, Repr

/-- The key of a reservation (R340): package, glade, rill. -/
structure SlotKey where
  pkg : Nat
  glade : Nat
  rill : Nat
  deriving DecidableEq, Repr

/-- The states of a landing slot (R340). -/
inductive SlotState | free | reserved | filling | full
  deriving DecidableEq, Repr

/-- A landing slot: state, key, bytes landed, whether any of them was poisoned (R329), whether the reservation ended while it was FULL. -/
structure ZSlot where
  st : SlotState := .free
  key : SlotKey := ⟨0, 0, 0⟩
  fill : Nat := 0
  err : Bool := false
  ended : Bool := false
  deriving DecidableEq, Repr

/-- A landing zone (R339) and its slots by index. -/
structure Zone where
  base : Nat := 0
  ssize : Nat := 0
  slots : Nat := 0
  rill : Nat := 0
  perSlot : Bool := false
  valid : Bool := false
  slot : List (Nat × ZSlot) := []
  holders : List SlotKey := []
  deriving DecidableEq, Repr

/-- A standing operation installed in a slot (R70, R297). -/
structure StandOp where
  opnum : Nat
  uid : Nat := 0
  desc : List Byte
  fires : Nat := 0
  modulus : Nat := 0
  modulusOk : Bool := false
  readyAt : Option Nat := none
  deriving DecidableEq, Repr

/-- A fire in progress (R71): the operation, its A slot's burrow offset and rill, the tile set, the cy of its start and the cy it occupies the
array, its rows, whether it is final, whether it has released its slot and reached its set, and what the set will hold: accumulators, flagged rows and the
modulus of an MM.M64 fire. -/
structure Fire where
  opnum : Nat
  off : Nat
  rill : Nat
  set : Nat
  start : Nat
  span : Nat
  rows : Nat
  fin : Bool
  released : Bool := false
  landed : Bool := false
  acc : List (Nat × Nat)
  nanRows : List Nat
  m64 : Option Nat
  deriving DecidableEq, Repr

/-- The tags of a hollow tile set (R72). -/
inductive TileTag | empty | accum | full
  deriving DecidableEq, Repr

/-- A drain in progress (R73): the steer entry whose number it took, that number, the words of the chain, the next beat, and how often that beat has been
re-injected; 5 once it is exhausted (R415). -/
structure Drain where
  steer : Nat
  entry : Nat
  words : List Nat
  beat : Nat := 0
  tries : Nat := 0
  deriving DecidableEq, Repr

/-- A hollow tile set (R72, R104 to R107): accumulators by row × 192 + column (FP32 codes, or sums of residues for MM.M64), flagged rows,
rows in use, the modulus of MM.M64, whether a fire into it is in progress, the operations whose fires filled it, also by their numbers among all orders, and those whose last fire
did, the cy it became FULL, and the drain in progress. -/
structure TileSet where
  tag : TileTag := .empty
  acc : List (Nat × Nat) := []
  nanRows : List Nat := []
  rows : Nat := 0
  m64 : Option Nat := none
  claim : Bool := false
  filledBy : List Nat := []
  uids : List Nat := []
  owners : List Nat := []
  fullAt : Nat := 0
  drain : Option Drain := none
  deriving DecidableEq, Repr

/-- A K block of a plane's column (R102): exponent and the sign and magnitude of each element, or the residues of MM.M64. -/
structure WBlock where
  eb : Int
  el : List (Bool × Nat)
  deriving DecidableEq, Repr

/-- A plane: EMPTY 0, LOADING 1, READY 2; its format code, its columns, the macro whose parity fails (R417), and
the weight-load descriptor that filled it (R419). -/
structure Plane where
  st : Nat := 0
  fmt : Nat := 0
  cols : List (List WBlock) := []
  parity : Option Nat := none
  desc : List Byte := []
  src : Nat × Nat := (0, 0)
  deriving DecidableEq, Repr

/-- The stand of a glade. -/
structure Stand where
  ops : List (Nat × StandOp) := []
  plane0 : Plane := {}
  plane1 : Plane := {}
  active : Nat := 0
  set0 : TileSet := {}
  set1 : TileSet := {}
  fires : List Fire := []
  busyUntil : Nat := 0
  lastSlot : Nat := 3
  steering : List (Nat × Nat) := []
  reload : List (Nat × List Byte × Nat × Nat) := []
  deriving DecidableEq, Repr

/-- A reservation that a glade holds on a landing zone (R341): its key's source rill, and of a zone of another package the slots no tile has
been sent to (R340). -/
structure Resv where
  pkg : Nat
  glade : Nat
  zone : Nat
  rill : Nat
  slots : List Nat := []
  deriving DecidableEq, Repr

/-- The queues and engines of a glade: queues stand, raft0, raft1, run, weight-load by number, token FIFO counts by 6X + Y, the
tokens added in this cy and ever, credit timer, orders and credits that enter in the next cy, timelines by code, rills, route table, zones, the stand, the stream's rill each raft served last,
the reservations held, the rills that become TORN and those that become ERR once no block holds them (R319), the notices of other packages that came before the block that
asked for the slots committed (package, zone, rill, slot) (R340), and the motes sent to other packages that are not acknowledged: link, sequence number, stream (R62). -/
structure Engines where
  queues : List (Nat × List QEntry) := []
  fifos : List (Nat × Nat) := []
  fresh : List (Nat × Nat) := []
  added : List (Nat × Nat) := []
  credits : List Credit := []
  incoming : List Incoming := []
  newCredits : List (Nat × Option Nat) := []
  tls : List (Nat × Timeline) := []
  rills : List (Nat × Rill) := []
  souts : List (Nat × OutStream) := []
  routes : List (Nat × Word) := []
  zones : List (Nat × Zone) := []
  stand : Stand := {}
  rr : List (Nat × Nat) := []
  resv : List Resv := []
  late : List Nat := []
  lateErr : List Nat := []
  spare : List (Nat × Nat × Nat × Nat) := []
  away : List (Nat × Nat × Nat) := []
  deriving DecidableEq, Repr

end Sys2Proof.Machine
end

