-- ==== Sys2Proof/Machine/LaunchState.lean ====
section
/-! DEFINITION. Arm entries, launches, graph instances and saved units (R32, R39 to R56, R322, R345, R418). -/

namespace Sys2Proof.Machine

/-- The statuses an advance of a completion counter carries (R33). -/
inductive Status | ok | cancelled | faulted | peerAbort
  deriving DecidableEq, Repr

/-- The code of a status (R33). -/
def Status.code : Status → Nat
  | .ok => 0
  | .cancelled => 1
  | .faulted => 2
  | .peerAbort => 3

/-- A completion counter (R33): count, advances that were not OK, status of the latest advance (R391). -/
structure Counter where
  count : Nat := 0
  nonok : Nat := 0
  status : Status := .ok
  deriving DecidableEq, Repr

/-- Where a tagged message came from (R48), kept for its completion record: an intake ring's VF, ring number, ring index and ordinal,
or a link and the call's identifier. -/
inductive Origin
  | ring (vf ring idx ordinal tag : Nat)
  | link (n id tag : Nat)
  deriving DecidableEq, Repr

/-- The states of an arm entry (R322). -/
inductive ArmState | free | armed | disarming
  deriving DecidableEq, Repr

/-- An arm entry (R322, R323): descriptor fields, image copies, and the counters that live with it (R32). -/
structure ArmEnt where
  st : ArmState := .free
  ctx : Nat := 0
  tag : Nat := 0
  cls : Nat := 0
  kind : Nat := 0
  root : Nat := 0
  preds : List Nat := []
  args : List Word := []
  images : List (List Byte) := []
  units : List (Nat × Counter) := []
  launch : Counter := {}
  phase : Counter := {}
  graph : Counter := {}
  running : Bool := false
  waiting : List (Origin × Nat) := []
  cancelWaiting : Nat := 0
  deriving DecidableEq, Repr

/-- A unit of a launch (R32, R35): its image's size, its origin on the die, whether it has completed. -/
structure UnitPl where
  ox : Nat := 0
  oy : Nat := 0
  w : Nat := 1
  h : Nat := 1
  done : Bool := false
  deriving DecidableEq, Repr

/-- The stages of a launch: eligible (R50), placed and loading (R39), resident and running, swapped out with its state saved
(R420, R421). -/
inductive Stage | eligible | placed | running | swapped | ready
  deriving DecidableEq, Repr

/-- A launch (R32): its arm entry, context, class, queue times, units, phase, time slots (R345), payload address, message origin,
graph instance, cancel requests and statuses, holds, and while it is taken from its glades the reason of its record and since when. -/
structure Launch where
  arm : Nat
  ctx : Nat
  cls : Nat := 0
  boosted : Bool := false
  eligAt : Nat := 0
  headAt : Option Nat := none
  reserving : Bool := false
  stage : Stage := .eligible
  units : List UnitPl := []
  payload : Nat := 0
  origin : Option Origin := none
  root : Option Nat := none
  phase : Nat := 0
  phaseCy : Nat := 0
  resident : Nat := 0
  residentAt : Nat := 0
  slots : List (Nat × Word) := []
  slotsNext : List (Nat × Word) := []
  slotBy : List (Nat × Nat) := []
  slotByNext : List (Nat × Nat) := []
  slotDone : List Nat := []
  status : Status := .ok
  phaseCancel : Bool := false
  unitCancel : List (Nat × Bool) := []
  held : Bool := false
  holdTest : Bool := false
  saveDue : Bool := false
  stop : Option (Nat × Nat) := none
  deriving DecidableEq, Repr

/-- A running graph instance (R50): die and index of the root, the launches not yet completed, the entries not yet started with the
counter values of their predecessors, the first status that was not OK. -/
structure Instance where
  root : Nat
  ctx : Nat
  payload : Nat
  origin : Option Origin
  todo : List Nat
  live : List Nat
  base : List (Nat × Nat)
  bad : List Nat := []
  status : Status := .ok
  cancelled : Bool := false
  deriving DecidableEq, Repr

end Sys2Proof.Machine
end

