-- ==== Sys2Proof/Machine/WoodwardState.lean ====
section
/-! DEFINITION. The state of a woodward (R142 to R158) and of its block in flight (R110 to R115, R144 to R148, R257, R319). -/

namespace Sys2Proof.Machine

/-- What the executed branch-class instruction of a block decided (R170): a successor with the label it requires, a call, a halt, a
trap with its cause and value, or a return from the handler. -/
inductive Branch
  | goto (a : Word) (label : Option Nat)
  | call (a : Word)
  | halt
  | trap (cause value : Nat)
  | tret
  deriving DecidableEq, Repr

/-- What a read set holds (R257, R320): a 128 B sector of memory, or an entry of a table. -/
inductive Sect
  | mem (sector : Nat)
  | tbl (kind die idx : Nat)
  deriving DecidableEq, Repr

/-- A buffered write of a block (R257): the instruction, its generic and physical address, its bytes, whether it is an atomic's, and the scopes at which that
atomic's own order releases (R271). -/
structure BStore where
  idx : Nat
  gaddr : Nat
  phys : Nat
  bytes : List Byte
  atomic : Bool := false
  scopes : List Scope := []
  deriving DecidableEq, Repr

/-- An order of a block (R286): the kind of R285, its flags, the queue's peer code where it is fixed by the instruction, the
position of an X form, the L value and the start offset. -/
structure OrderReq where
  kind : Nat
  timed : Bool
  pop : Bool
  push : Bool
  peer : Nat
  pos : Option (Nat × Nat) := none
  l : Word := 0
  offset : Nat := 0
  arg : Word := 0
  deriving DecidableEq, Repr

/-- A landing-zone destination as SLOT.RES names it (R341). -/
structure ZoneRef where
  pkg : Nat
  glade : Nat
  zone : Nat
  rill : Nat
  deriving DecidableEq, Repr

/-- What an executed instruction does at its block's commit beside register and memory writes. -/
inductive Pend
  /-- SWR (R183). -/
  | swr (num : Nat) (v : Word)
  /-- SRD of a read-to-clear register (R183). -/
  | clearAborts
  /-- TSK.STAMP (R177). -/
  | floor (v : Word)
  /-- TSK.YIELD.PHASE (R178). -/
  | phaseMark
  /-- GLOAD (R261): the registers and the words loaded. -/
  | gload (ws : List (Nat × Word))
  /-- EVSEND (R184): counter and destination. -/
  | evsend (k dest : Nat)
  /-- EVWAIT (R185). -/
  | evwait (k : Nat)
  /-- An acquire at the commit (R275). -/
  | acquire
  /-- FENCE (R274): whether it releases, whether it acquires, and its scope. -/
  | fence (rel acq : Bool) (scope : Scope)
  /-- The releases whose sequences an atomic read (R271, R273). -/
  | readRel (heads : List Rel)
  /-- An order instruction (R286). -/
  | order (o : OrderReq)
  /-- ORD.TOKEN (R308): peer, and the offset of a timed credit. -/
  | credit (peer : Nat) (offset : Option Nat)
  /-- ARM (R324): die, entry index and the entry. -/
  | arm (die idx : Nat) (e : ArmEnt)
  /-- DISARM (R325). -/
  | disarm (die idx : Nat)
  /-- RTE.SET (R328). -/
  | rte (entry : Nat) (w : Word)
  /-- RILL.SET (R332). -/
  | rillSet (r : Nat) (w : Word)
  /-- RILL.RESET (R334). -/
  | rillReset (r : Nat)
  /-- TAG.SET, TAG.SET.SECT and TAG.INV (R338): slot, which of them by 0 to 2, R word. -/
  | tag (slot fn : Nat) (w : Word)
  /-- An entry that a frontier-only instruction names and does not change is held (R319). -/
  | hold (x : Sect)
  /-- SLOT.RES (R341): slots granted, of which 0 only holds the key (R319), and the lowest. -/
  | slotHeld (z : ZoneRef) (n low : Nat)
  /-- SLOT.REL.RELEASE (R342). -/
  | slotRelease (z : ZoneRef)
  /-- SLOT.REL.DONE (R342). -/
  | slotDone (zone slot : Nat)
  /-- TSLOT.SET (R346). -/
  | tslot (m : Nat) (w : Word)
  /-- A seed instruction (R364 to R370): opcode, handle and its operands. -/
  | seed (op : Nat) (args : List Nat)
  /-- A graft instruction (R378 to R380): opcode and its operands. -/
  | graft (op : Nat) (args : List Nat)
  /-- CC.ADD (R393): counter index and the value added. -/
  | ccAdd (c : Nat) (v : Nat)
  /-- CANCEL (R394): the selector. -/
  | cancel (sel : Word) (phase : Bool)
  /-- HW.CALL SAMPLE_KEY with status 0 (R186). -/
  | sampleKey (k : Word)
  /-- TEST.CLR (R187). -/
  | testReq
  deriving DecidableEq, Repr

/-- The block a woodward holds in flight (R110, R144): its words, timestamp, predicates at fetch, delivered operands, and what its
executed instructions have produced so far. -/
structure Block where
  addr : Nat
  h0 : Word := 0
  h1 : Word := 0
  words : List Word
  ts : Nat := 0
  qf : BitVec 16 := 1
  opL : List (Nat × Word) := []
  opR : List (Nat × Word) := []
  opQ : List (Nat × Word) := []
  toks : List (Nat × Nat) := []
  done : List Nat := []
  gw : List (Nat × Option Word) := []
  qw : List (Nat × Bool) := []
  effects : Nat := 0
  branch : Option Branch := none
  stores : List BStore := []
  reads : List Sect := []
  pend : List (Nat × Pend) := []
  waits : List (Nat × Nat) := []
  answers : List (Nat × Word) := []
  asked : List (Nat × Nat) := []
  stalled : List Nat := []
  signs : List (Nat × Nat × List Byte) := []
  deriving DecidableEq, Repr

/-- A cause of a glade that waits (R410, R411): code, TRAP.VALUE, whether the thicket raised it (R413), and its place in the order of R410 among the asynchronous
causes of a cy. -/
structure Cause where
  code : Nat
  value : Nat
  th : Bool := false
  rank : Nat := 0
  deriving DecidableEq, Repr

/-- The registers and control state of a woodward (R142 to R158, R181), with the scopes of the release fences that precede its atomics and the releases that its
atomics have read (R274), and the ordinals of its event counters that an EVSEND has supplied and no EVWAIT taken (R185, R271). Registers that are not listed hold their reset value. -/
structure Woodward where
  g : List (Nat × Word) := []
  q : BitVec 16 := 1
  trapCause : Word := 0
  trapBlock : Word := 0
  trapValue : Word := 0
  trapHandler : Word := 0
  mark : Bool := false
  hlt : Bool := false
  inh : Bool := false
  link : Word := 0
  waitlim : Nat := 0x1000000
  floor : Word := 0
  lastTs : Option Nat := none
  aborts : Word := 0
  mqQ : List (Nat × Word) := []
  mqInv : List (Nat × Word) := []
  mqSq : List (Nat × Word) := []
  mqstat : BitVec 16 := 0
  rsc : List (Nat × Word) := []
  seedBind : Word := 0
  seedMl : Word := 0
  seedMs : Word := 0
  seedMp : Word := 0
  seedMb : Word := 0
  keyValid : Bool := false
  keyGen : BitVec 32 := 0
  samplerKey : Option Word := none
  seqid : Word := 0
  pos : Word := 0
  evc : List (Nat × Word) := []
  evseen : List (Nat × Word) := []
  evSent : List (Nat × Nat) := []
  perf : List (Nat × Word) := []
  fetch : Nat := 0
  label : Option Nat := none
  started : Bool := false
  halted : Bool := false
  atMark : Bool := false
  markAt : List (Nat × Nat) := []
  block : Option Block := none
  pending : List Cause := []
  raised : List Cause := []
  relScopes : List Scope := []
  readRel : List Rel := []
  deliver : Bool := false
  delivered : Bool := false
  deriving DecidableEq, Repr

/-- A unit's place as the forester gave it to a glade (R35, R149, R151): die, launch and arm entry, unit position, position in the
unit, unit size, present mask, context, function, incarnation, and the other glades of its coppice's N column (R23, R470). -/
structure Place where
  die : Nat
  launch : Nat
  arm : Nat
  upos : Nat
  ux : Nat
  uy : Nat
  w : Nat
  h : Nat
  present : Nat
  ctx : Nat
  vf : Nat
  incarn : BitVec 16
  fan : List Nat := []
  deriving DecidableEq, Repr

/-- An entry of a translation cache (R250, R252): context or function, whether it is host-tagged, page base, page size, leaf word
for a device page, permissions for a host page. -/
structure Tlb where
  owner : Nat
  host : Bool
  base : Nat
  size : Nat
  leaf : Word := 0
  rd : Bool := true
  wr : Bool := false
  deriving DecidableEq, Repr

/-- A table walk in progress (R250): context, global address. -/
structure Walk where
  ctx : Nat
  va : Nat
  deriving DecidableEq, Repr

/-- One bough of a glade (R19): whose it is, woodward, engines, thicket. -/
structure Bough where
  place : Option Place := none
  ww : Woodward := {}
  eng : Engines := {}
  th : Thicket := {}
  deriving DecidableEq, Repr

end Sys2Proof.Machine
end

