-- ==== Sys2Proof/Machine/JobState.lean ====
section
/-! DEFINITION. Jobs (R433 to R439, R402), seed banks (R351 to R358), grafts (R373 to R377), saved units (R418) and the state of a crown
die. -/

namespace Sys2Proof.Machine

/-- The roles of a key-set entry (R349). -/
inductive Role | data | tables | weights | save
  deriving DecidableEq, Repr

/-- A key-set entry (R349): role and key identifier. -/
structure KeyEnt where
  role : Role
  keyid : Nat
  deriving DecidableEq, Repr

/-- A session entry (R349, R438): open or closed, generation, key, nonce prefixes, counters,
the party that opened it. -/
structure Session where
  opened : Bool := false
  gen : Nat := 0
  key : List Byte := []
  prefOpen : Nat := 1
  prefSeal : Nat := 2
  hiOpen : Nat := 0
  hiSeal : Nat := 0
  party : Nat := 0
  deriving DecidableEq, Repr

/-- A party's binding in a job (R436): its SPDM session while that is open, its seed (R438). -/
structure Party where
  spdm : Option Nat
  seed : List Byte := []
  deriving DecidableEq, Repr

/-- A SUSPECT interval (R427): the serial of the package, clearing, start and end in heartwood microseconds. -/
structure Suspect where
  serial : List Byte
  clearing : Nat
  start : Nat
  stop : Nat
  deriving DecidableEq, Repr

/-- A job and its context (R433). -/
structure Job where
  serial : Nat := 0
  vf : Nat := 0
  confidential : Bool := false
  invariantOnly : Bool := false
  collective : Option Nat := none
  abortCounter : Nat := 0
  parties : Nat := 1
  classCap : Nat := 0
  partitions : List Nat := []
  boughs : List Bool := []
  weight : Nat := 1
  gladeCap : Nat := 1
  phaseLimit : Nat := 10
  graftQuota : Nat := 0
  usageLimit : Nat := 0
  occLimit : Nat := 0
  period : Nat := 1
  periodAt : Nat := 0
  usageAt : List Nat := []
  callers : Nat := 0
  grantBase : Nat := 0
  grantSize : Nat := 0
  request : List Byte := []
  root : Nat := 0
  tableKey : Nat := 0
  keys : List (Nat × KeyEnt) := []
  sessions : List (Nat × Session) := []
  joins : List (Nat × Party) := []
  imageKey : Option (Nat × List Byte) := none
  installed : List (Nat × Nat) := []
  evicted : List (Nat × Nat) := []
  soft : List (Nat × Counter) := []
  counter : Counter := {}
  usage : List (Nat × Nat) := []
  recordSeq : Nat := 0
  suspects : List Suspect := []
  pendingSuspect : List (Nat × Suspect) := []
  received : List (Nat × Nat) := []
  ending : Bool := false
  deriving DecidableEq, Repr

/-- The states of a seed bank (R354). -/
inductive SeedSt | ready | replay | broken
  deriving DecidableEq, Repr

/-- "None" in the link, recent and prev fields of a state (R353). -/
def seedNone : Nat := 0xFFFFFFFF

/-- A state of a bank's suffix automaton (R353): its state-table record. -/
structure SeedNode where
  len : Nat := 0
  link : Nat := seedNone
  recent : Nat := seedNone
  prev : Nat := seedNone
  deriving DecidableEq, Repr

/-- A record of a bank's edge table (R353). -/
structure SeedEdge where
  src : Nat
  tok : Nat
  dst : Nat
  deriving DecidableEq, Repr

/-- A seed bank (R351 to R358): owner, capacity, storage, window, state table by state, edge table by slot, match registers, and
whether a draft has committed since its open or load (R402). -/
structure Seed where
  isOpen : Bool := false
  gen : Nat := 0
  retired : Bool := false
  ctx : Nat := 0
  lgcap : Nat := 0
  backing : Nat := 0
  rbase : Nat := 0
  rlines : Nat := 0
  lines : List (Nat × Nat) := []
  st : SeedSt := .ready
  appended : Nat := 0
  built : Nat := 0
  window : List Nat := []
  nodes : List (Nat × SeedNode) := [(0, {})]
  edges : List (Nat × SeedEdge) := []
  last : Nat := 0
  ml : Nat := 0
  ms : Nat := 0
  mp : Nat := 0
  mb : Nat := 0
  drafted : Bool := false
  clean : List Nat := []
  deriving DecidableEq, Repr

/-- The states of a graft entry (R373). -/
inductive GraftSt | free | fetching | ready | failed | evicting | evicted
  deriving DecidableEq, Repr

/-- An entry of the package-wide graft cache (R373, R374): pool run by its first page and page count, whether a fetch has its run yet, pins by launch
(2^24 × die + launch), the glade whose instruction named the source, the time its fetch was asked for, and a change that waits for the hold on the
entry to end (R319): `some false` an eviction at a boundary, `some true` one for a lowered quota, `drop` the release of the pins of launches that ended. -/
structure Graft where
  st : GraftSt := .free
  gen : Nat := 0
  retired : Bool := false
  ctx : Nat := 0
  id : Nat := 0
  ver : Nat := 0
  hash : List Byte := []
  src : Nat := 0
  glade : Nat := 0
  page : Nat := 0
  placed : Bool := false
  length : Nat := 0
  pins : List (Nat × Nat) := []
  forced : Bool := false
  pinner : Option Nat := none
  stamp : Nat := 0
  reason : Nat := 0
  startedAt : Nat := 0
  late : Option Bool := none
  drop : Bool := false
  deriving DecidableEq, Repr

/-- A saved glade of a launch (R418): unit position, position in the unit, the glade it was saved from, the record slot of the save area, its reason, the
bough as it was saved, and after a forced pre-emption the burrow bytes that differ from 0, by offset. -/
structure Saved where
  upos : Nat
  ux : Nat
  uy : Nat
  glade : Nat
  off : Nat
  reason : Nat
  bough : Bough
  cells : List Host.Cell := []
  evicted : List Nat := []
  deriving DecidableEq, Repr

/-- The state of a crown die: its clock (R454), arm table (R322), launches, graph instances, saved units, deficits and active contexts of the
forester (R54), understory tag table (R336), reserved understory lines (R237), seed handles (R351), partition map (R347). -/
structure Die where
  cy : Nat := 0
  nextEdge : Nat := 0
  clock : Nat := 0
  held : Bool := true
  arms : List (Nat × ArmEnt) := []
  launches : List (Nat × Launch) := []
  nextLaunch : Nat := 0
  instances : List Instance := []
  saved : List (Nat × List Saved) := []
  deficit : List (Nat × Nat) := []
  active : List (Nat × Nat) := []
  tags : List (Nat × Word) := []
  fill : List (Nat × Nat) := []
  reserved : List (Nat × Nat × Nat) := []
  replays : List Nat := []
  seeds : List (Nat × Seed) := []
  cancels : List (Nat × Status × Bool) := []
  deriving DecidableEq, Repr

/-- A job that had units on a clearing and has ended since (R427): its context, its VF, and its parties' sessions still open. -/
structure Exposed where
  ctx : Nat
  vf : Nat
  sessions : List Nat := []
  deriving DecidableEq, Repr

/-- A clearing's test record (R187, R426, R427), and of its cipher block the glade it served last and the cy it is free (R302, R439). -/
structure Clearing where
  seq : Nat := 0
  last : Nat := 0
  lastAt : Nat := 0
  requested : Bool := false
  reqAt : Nat := 0
  since : Nat := 0
  contexts : List Nat := []
  gone : List Exposed := []
  packages : List Nat := []
  quarantined : Bool := false
  tlb : List Tlb := []
  cipherLast : Nat := 0
  cipherFree : Nat := 0
  deriving DecidableEq, Repr

end Sys2Proof.Machine
end

