-- ==== Sys2Proof/Machine/HostState.lean ====
section
/-! DEFINITION. The state at the package's edge: intake rings, fault queues, page requests and TDI of each function (R310 to R317, R251,
R446, R447), Keliskok links (R448 to R452), SPDM responders (R431), flash (R428), and what the package sends. -/

namespace Sys2Proof.Machine

/-- An intake ring (R310 to R313): registers, fetched count, teardown mode, messages dispatched and not yet recorded. -/
structure Ring where
  base : Nat := 0
  size : Nat := 0
  widx : Nat := 0
  ridx : Nat := 0
  st : Nat := 0
  cause : Nat := 0
  unmatched : Nat := 0
  rejected : Nat := 0
  cq : Nat := 0
  fetched : Nat := 0
  teardown : Nat := 0
  pendingRecs : Nat := 0
  deriving DecidableEq, Repr

/-- What a host page waits for (R252, R253): an ATS completion, a free page request index, a page request response, or nothing any
more because it failed. -/
inductive PageWait
  | ats (retried : Bool)
  | queued
  | prq (idx : Nat)
  | failed
  deriving DecidableEq, Repr

/-- An access that waits for a host page: its agent (0 woodward, 1 engine entry, 2 AG request, 3 other, 4 LD.T), glade and index. -/
structure Waiter where
  agent : Nat
  glade : Nat
  idx : Nat
  deriving DecidableEq, Repr

/-- A host page some access needs (R317): page address, access kind, what it waits for, waiting accesses. -/
structure HostPage where
  page : Nat
  wr : Bool
  wait : PageWait
  waiters : List Waiter := []
  deriving DecidableEq, Repr

/-- An entry of the page request queue (R317): page, access kind, incarnation and time of issue. -/
structure PrqEnt where
  page : Nat
  wr : Bool
  incarn : BitVec 16
  at_ : Nat
  deriving DecidableEq, Repr

/-- TDI states (R446). -/
inductive Tdi | unlocked | locked | run | error
  deriving DecidableEq, Repr

/-- A function, PF0 (0) or a VF (1 to 63): INCARN, rings, TINV, its fault queue, page requests and the pages accesses wait for, ATS invalidations outstanding (R445), its TDI, the key of its
IDE stream, whether a reset of it is under way, interrupts. -/
structure Fn where
  incarn : BitVec 16 := 0
  rings : List (Nat × Ring) := []
  tinvAddr : Nat := 0
  tinvDone : Nat := 0
  tinvDropped : Nat := 0
  tinvIssued : Nat := 0
  tinvQ : List (Nat × Nat × Nat) := []
  fqBase : Nat := 0
  fqEnable : Bool := false
  fqEntries : Nat := 0
  wcnt : Nat := 0
  rcnt : Nat := 0
  lost : Nat := 0
  stale : Nat := 0
  prq : List (Nat × PrqEnt) := []
  pages : List HostPage := []
  invQ : List (Nat × Nat) := []
  tdi : Tdi := .unlocked
  ide : List Byte := []
  banned : Bool := false
  msixPend : List Nat := []
  msixAt : List (Nat × Nat) := []
  deriving DecidableEq, Repr

/-- An SPDM session (R431): whether its handshake has finished, its export secret, how often its keys were updated. -/
structure SpdmSes where
  secured : Bool := false
  secret : List Byte := []
  updates : Nat := 0
  deriving DecidableEq, Repr

/-- An SPDM responder (R431): how far the connection has come (0 none, 1 version, 2 capabilities, 3 algorithms), whether key exchange and encryption were agreed on, its sessions. -/
structure Spdm where
  stage : Nat := 0
  kex : Bool := false
  sessions : List (Nat × SpdmSes) := []
  deriving DecidableEq, Repr

/-- A link's stages: no partner (0), down (1), VERSION sent (2), SPDM running (3), up (4). -/
inductive LinkSt | absent | down | version | auth | up
  deriving DecidableEq, Repr

/-- A flit in the replay buffer (R451): its sequence number, kind, credit field and payload. -/
structure Flit where
  seq : Nat
  kind : Nat
  credit : Nat := 0
  payload : List Byte := []
  deriving DecidableEq, Repr

/-- A Keliskok link (R448 to R452): stage, width, failed lanes, partner and why it last went down, whether this side is the SPDM requester, the session key, the SPDM request
that waits for its answer, sequence numbers, replay buffer, flits that wait for room in it, flits that arrived ahead of their sequence by number (kind with the
operation of SLOTCTL and CTRL above it, credit, payload), the partner's and this side's tag failures by sequence number, flits to be credited by virtual channel,
rejected and dropped calls (R314, R451), the calls the front end has not taken (R314), DATA payloads that wait for a unit (R423), streams that arrive on it by destination glade and
zone, notices and reports for the partner by kind (R340, R344), and since when the partner is lost. -/
structure Link where
  st : LinkSt := .absent
  width : Nat := 0
  failed : List Nat := []
  peer : Nat := 0
  peerSerial : Nat := 0
  reason : Nat := 0
  lower : Bool := false
  key : List Byte := []
  asking : Nat := 0
  txSeq : Nat := 1
  rxSeq : Nat := 1
  replay : List Flit := []
  queue : List (Nat × List Byte) := []
  ahead : List (Nat × Nat × Nat × List Byte) := []
  nakFails : List (Nat × Nat) := []
  tagFails : List (Nat × Nat) := []
  credits : List (Nat × Nat) := []
  rejected : Nat := 0
  dropped : Nat := 0
  calls : List (List Byte) := []
  waiting : List (List Byte) := []
  streams : List (Nat × Nat × SlotKey) := []
  reports : List (Nat × List Byte) := []
  lostAt : Option Nat := none
  spdmRx : List Byte := []
  deriving DecidableEq, Repr

/-- A firmware slot of the flash (R428): image bytes, security version, signature. -/
structure FlashSlot where
  image : List Byte := []
  secver : Nat := 0
  sig : List Byte := []
  deriving DecidableEq, Repr

/-- The serial flash (R428): firmware slots, certificate chain, part record, manifest and its signature, lifetime records. -/
structure Flash where
  hwA : FlashSlot := {}
  hwB : FlashSlot := {}
  dfA : FlashSlot := {}
  dfB : FlashSlot := {}
  chain : List Byte := []
  part : List Byte := []
  manifestBytes : List Byte := []
  manifestSig : List Byte := []
  life : List (Nat × Nat) := []
  deriving DecidableEq, Repr

/-- The requests a function makes of the host. -/
inductive HostReq
  /-- An MSI-X message (R447). -/
  | msix (vec : Nat)
  /-- An ATS Translation Request (R252). -/
  | ats (page : Nat) (wr : Bool)
  /-- A Page Request (R317). -/
  | pageRequest (idx page : Nat) (wr : Bool)
  /-- Completion of an ATS Invalidate Request (R252). -/
  | atsInvDone
  deriving DecidableEq, Repr

/-- What the package sends or reports (its outputs), oldest first. -/
inductive Out
  /-- A request of a function at the host port: whether it goes out on the function's IDE stream (R446), and what it is. -/
  | request (fn : Nat) (ide : Bool) (what : HostReq)
  /-- A request that came before the host port was up: retry (R453). -/
  | retry (fn : Nat)
  /-- A flit: kind, virtual channel, sequence number, credit field, payload in clear, and the payload and tag as they go out (R449, R450). -/
  | flit (link kind vc seq credit : Nat) (payload sealed : List Byte)
  /-- A TDISP response of a TDI: 0 accepted, 4 INVALID_INTERFACE_STATE (R2, R446). -/
  | tdisp (vf code : Nat)
  /-- An SPDM response: responder, code, content (R431). -/
  | spdm (rsp code : Nat) (body : List Byte)
  /-- A message to a party in its secured session (R432, R437): session, request answered, content. -/
  | vendor (ses what : Nat) (body : List Byte)
  /-- The answer to a management request (R433, R455): request number and bytes. -/
  | mgmt (what : Nat) (body : List Byte)
  /-- An unsupported BAR request (R446). -/
  | unsupported (fn off : Nat)
  /-- The value a BAR read returns (R12). -/
  | readValue (fn off : Nat) (v : Nat)
  deriving DecidableEq, Repr

end Sys2Proof.Machine
end

