-- ==== Sys2Proof/Machine/State.lean ====
section
/-! DEFINITION. The state of one Z7 package, the reasons a step can stop, and the state after reset. -/

namespace Sys2Proof.Machine

/-- A glade: its active bough (R19), the other one, which of the two is active, its level-1 translation cache and the walks in
progress, and its hollow sets' owner marks. -/
structure Glade where
  active : Bool := false
  cur : Bough := {}
  alt : Bough := {}
  tlb : List Tlb := []
  walks : List Walk := []
  walkFaults : List (Nat × Nat × Nat) := []
  swapDue : Option Bool := none
  deriving DecidableEq, Repr

/-- A fault of an element in the context cycle being performed (R413): stem, row, cause, TRAP.VALUE. -/
structure CycFault where
  stem : Nat
  row : Nat
  cause : Nat
  value : Nat
  deriving DecidableEq, Repr

/-- The points of the happens-before order (R269 to R283) that a write may be before: the tasks of a launch to come; the end of the last block of a unit's glade; what follows an
acquiring instruction of the block in flight; the reads, and the retirement, of an order by its number; the retirements of a timeline, and the token of a FIFO by its number, of a
unit's glade; the arrival count of a rill in an arm; the advances of a completion counter; the end of an entry's launch in a graph; a release of an atomic or of BND.REL; the close
of a seed bank; the pin of a graft; the host's next message of a function, and one message of a ring. -/
inductive Point
  | launch (key : Nat)
  | task (home : Nat)
  | acq (g i : Nat)
  | op (uid : Nat)
  | out (uid : Nat)
  | retired (home tl : Nat)
  | token (home fifo n : Nat)
  | rill (home r arm : Nat)
  | counter (kind owner idx : Nat)
  | member (root k : Nat)
  | rel (id : Nat)
  | bank (die k : Nat)
  | graft (e : Nat)
  | host (vf : Nat)
  | msg (vf ring ordinal : Nat)
  deriving DecidableEq, Repr

/-- A context cycle being performed (R63 to R65): the glade, the elements that still issue, the bough and the lifetime counters as they
stood before, whether an internal hold (R196) or the hold of a tap word (R67) was met, the faults met, for the element that issues now the value of its pass lane and
whether its issue is skipped (R219), the releases and arrivals that the values read in it acquire (R280, R281), and the elements, by stem and row, whose motes this context cycle has put into rill buffers, with whether one of them found
its buffer full (R230). -/
structure Cyc where
  glade : Nat
  todo : List (Nat × Nat)
  saved : Bough
  life : List (Nat × Nat) := []
  hold : Bool := false
  tapHold : Bool := false
  faults : List CycFault := []
  pass : Val := {}
  skip : Bool := false
  got : List Point := []
  sent : List (Nat × Nat) := []
  full : Bool := false
  deriving DecidableEq, Repr

/-- Which instruction a step is running: the glade, the index in its block, or the stem and row of an element. -/
structure Focus where
  glade : Nat := 0
  idx : Nat := 0
  stem : Nat := 0
  row : Nat := 0
  deriving DecidableEq, Repr

/-- What reaches the package from outside: an event of the opcode table, the 256 bytes of a flit on a link (R449), bytes the host writes to its own memory, and what physics does: an uncorrectable
8-byte word at a place of `State.mem`, a parity failure in a macro of a stand plane (R69, R417), an error that was corrected and is only counted (R407). -/
inductive Arrival
  | event (i : Instr)
  | flit (link : Nat) (bytes : List Byte)
  | hostBytes (vf addr : Nat) (bs : List Byte)
  | damage (place : Nat)
  | parity (g plane mac : Nat)
  | corrected (item idx : Nat)
  deriving DecidableEq, Repr

/-- A store or an atomic of an AG element of a cancelled unit that an atomic's hold keeps waiting (R45, R197, R263): the context, the element's number as an agent, the request. -/
structure Orphan where
  ctx : Nat
  agent : Nat
  req : AgReq
  deriving DecidableEq, Repr

/-- An access to a place of `State.mem` of so many bytes, which may evict what another context left there (R238), and the HBM grains in mode 1 that a write covers only in part and
the controller reads for it (R243). -/
structure Touch where
  place : Nat
  len : Nat
  merge : List Nat := []
  deriving DecidableEq, Repr

/-- The moves of the device's own agents, in the order the agenda runs them; `cyOpen` begins the part of a cy that the glades of a die play. -/
inductive Move
  | cyOpen (die : Nat)
  | woodward (g : Nat)
  | causes (g : Nat)
  | input
  | walkComplete (g : Nat)
  | contextCycle (g : Nat)
  | resultLand (g : Nat)
  | fernResultLand (g : Nat)
  | agReply (g stem row : Nat)
  | agStorePerformed (g stem row : Nat)
  | entryStartTimed (g q : Nat)
  | entryStartGated (g q : Nat)
  | entryRetire (g q : Nat)
  | creditTimerFire (g : Nat)
  | standFire (g : Nat)
  | standSlotRelease (g : Nat)
  | standFireComplete (g : Nat)
  | drainBeat (g set : Nat)
  | raftNoticeServe (g raft : Nat)
  | raftTileLand (g raft : Nat)
  | wloadRegion (g : Nat)
  | moteArrival (g : Nat)
  | landingArrival (g : Nat)
  | seedReplayStep (die bank : Nat)
  | graftFetchComplete (e : Nat)
  | graftFetchTimeout (e : Nat)
  | graftSettle (e : Nat)
  | waitTimeout (g idx : Nat)
  | orderStall (g : Nat)
  | slotAnswerTimeout (g : Nat)
  | selectionPass (die : Nat)
  | launchBoost (die idx : Nat)
  | reservingTimeout (die idx : Nat)
  | launchStart (die idx : Nat)
  | unitComplete (die idx upos : Nat)
  | phaseBoundary (die idx : Nat)
  | boughSaveWrite (die idx : Nat)
  | phaseLimitExpiry (die idx : Nat)
  | cancelProcess (die : Nat)
  | timeSlotEvent (die idx slot : Nat)
  | infieldTest (c : Nat)
  | periodRollover (ctx : Nat)
  | ringFetch (vf ring : Nat)
  | ringDrainComplete (vf ring : Nat)
  | tinvComplete (vf : Nat)
  | pageRequest (vf page : Nat)
  | prgTimeout (vf idx : Nat)
  | msixMessage (fn vec : Nat)
  | peerReclaimTimeout (peer : Nat)
  | linkCall (link : Nat)
  | creditIdle (link : Nat)
  | invalidated (vf : Nat)
  | orphans
  | evictions
  | lifetimeFlush
  deriving DecidableEq, Repr

/-- What the device keeps once: the digest of the Weadric root key in the ROM (R428) (DESIGN CHOICE, log entry 99), the kernel-library key that the chain certified at bring-up, the number of
the boot's free value, how far it is powered (0 off, 1 running, 2 no heartwood verified, 3 crown dies held in reset, 4 shut down), part record, health
map, usable channels, package number and canopy, power cap, key table and its serial, granules given to weight keys, job serial, lifetime counters and their
last write, signing requests pending, sensor readings, firmware slots started, flash, SPDM responders. -/
structure Pkg where
  rom : List Byte := []
  libKey : List Byte := []
  boot : Nat := 0
  power : Nat := 0
  partOk : Bool := false
  grade : Nat := 0
  m0 : List Byte := []
  m1 : List Byte := []
  m2 : List Byte := []
  m3 : List Byte := []
  health : Nat := 0
  channels : Nat := 0
  number : Option (Nat × Nat) := none
  powerCap : Nat := 2600
  keyTable : List (Nat × Nat) := []
  keySerial : Nat := 0
  owners : List (Nat × Nat) := []
  jobSerial : Nat := 0
  life : List (Nat × Nat) := []
  lastFlush : Nat := 0
  readings : List (Nat × Nat) := []
  hwSlot : Nat := 0
  dfSlot : Nat := 0
  signing : List Nat := []
  flash : Flash := {}
  spdm : List (Nat × Spdm) := []
  deriving DecidableEq, Repr

/-- A write that some reads need not find yet (R10, R272, R275 to R277): the bytes it wrote within an aligned 8-byte word, their values before it, its number, the AG element that
made it (1 + glade × 256 + stem × 16 + row, else 0), and the points that it is before. -/
structure Unseen where
  addr : Nat
  len : Nat
  old : Word
  num : Nat
  agent : Nat := 0
  known : List Point := []
  deriving DecidableEq, Repr

/-- The state of the package. `wall` counts time since power-on in units of 1/7560 ns; `mem` holds the bytes of every memory that differ
from 0, keyed by `Sys2Proof.Machine` addresses (DESIGN CHOICE, log entry 4); `poison` lists the 8-byte words that read as uncorrectable, `unseen` the writes to
memory that a read may still be unordered with, in coherence order, and `rels` by 4-byte word the releases whose sequence its value belongs to (R273); `free` numbers the open values drawn so far; `agenda`, `inputs`, `cyc`
and `focus` say what moves next. -/
structure State where
  pk : Pkg := {}
  wall : Nat := 0
  mem : List Host.Cell := []
  poison : List Nat := []
  unseen : List Unseen := []
  rels : List (Nat × List Rel) := []
  glades : List (Nat × Glade) := []
  dies : List (Nat × Die) := []
  clearings : List (Nat × Clearing) := []
  jobs : List (Nat × Job) := []
  grafts : List (Nat × Graft) := []
  fns : List (Nat × Fn) := []
  links : List (Nat × Link) := []
  out : List Out := []
  inputs : List (Nat × Arrival) := []
  orphans : List Orphan := []
  touched : List Touch := []
  agenda : List Move := []
  cyc : Option Cyc := none
  focus : Focus := {}
  free : Nat := 0
  deriving DecidableEq, Repr

/-- The reasons a step can stop with a fault. -/
inductive Fault
  /-- Raised by `step` when a block in flight, or an op ring, holds a word that the decoder refuses. R113 refuses such a block and R128 such an
  image, so no state a program can reach holds one. Safe. -/
  | undecodable
  deriving DecidableEq, Repr

/-- The reasons a step can be refused. -/
inductive Refusal
  /-- Raised by an arm of `exec` whose instruction has no meaning yet. Safe. -/
  | notModelled (mnemonic : String)
  deriving DecidableEq, Repr

/-- The package before power is applied: no memory byte differs from 0, no job, no launch, every register at its reset value (R14, R39,
R149) (DESIGN CHOICE, log entry 25). -/
def State.reset : State := {}

end Sys2Proof.Machine
end

