-- ==== Sys2Proof/Machine/Ops.lean ====
section
/-! DEFINITION. The named operations over the state: memory, the accessors of every register, free values, fault records, and taking a
cause (R181, R409 to R412) with the return beside it (R182). -/

namespace Sys2Proof.Machine

/-- The three outcomes of a step of this machine. -/
abbrev Outcome := Host.Outcome State Fault Refusal

/-! ## Memory -/

/-- The byte at an address; an address that is not listed reads 0 (DESIGN CHOICE, log entry 4). -/
def memGet (m : List Host.Cell) (a : Nat) : Byte := nget 0 m a

/-- What memory lists for a byte: nothing for 0. -/
def memCell (a : Nat) (v : Byte) : List Host.Cell := if v = 0 then [] else [(a, v)]

/-- Memory with one byte written, in the canonical form: addresses rising, no byte 0 listed. -/
def memSet (m : List Host.Cell) (a : Nat) (v : Byte) : List Host.Cell :=
  match m with
  | [] => memCell a v
  | cell :: rest => if cell.1 < a then cell :: memSet rest a v else memCell a v ++ if cell.1 = a then rest else m

/-- The canonical form of memory: addresses strictly rising from a lower bound, no listed byte equal to 0. -/
def memWfFrom (lo : Nat) (m : List Host.Cell) : Bool :=
  match m with
  | [] => true
  | cell :: rest => decide (lo ≤ cell.1 ∧ cell.2 ≠ 0) && memWfFrom (cell.1 + 1) rest

/-- The canonical form of memory. -/
def Memory.wf (m : List Host.Cell) : Bool := memWfFrom 0 m

/-- Bytes written at consecutive addresses. -/
def memPut : List Host.Cell → Nat → List Byte → List Host.Cell
  | m, _, [] => m
  | m, a, b :: t => memPut (memSet m a b) (a + 1) t

/-- The bytes at consecutive addresses. -/
def memTake (m : List Host.Cell) : Nat → Nat → List Byte
  | 0, _ => []
  | n + 1, a => memGet m a :: memTake m n (a + 1)

/-- Memory with every byte of [lo, lo + n) zero. -/
def memZero (m : List Host.Cell) (lo n : Nat) : List Host.Cell := m.filter fun c => decide (c.1 < lo ∨ lo + n ≤ c.1)

/-- Where the burrow of a bough of a glade lies among the addresses of `State.mem` (R231). -/
def burrowAt (g : Nat) (b : Bool) : Nat := (2 * g + b2n b) * 2 ^ 20

/-- Where device physical address 0 lies (R239). -/
def hbmAt : Nat := 2 ^ 53

/-- Where the understory window of a context on a die lies: a context's lines are its own (R235, R238). -/
def shrAt (ctx die : Nat) : Nat := 2 ^ 56 + (4 * ctx + die) * 2 ^ 28

/-- Where the untranslated address space of a function lies (R252). -/
def hostAt (vf : Nat) : Nat := 2 ^ 60 + vf * 2 ^ 56

/-- Bytes read from a physical place. -/
def State.bytes (s : State) (a n : Nat) : List Byte := memTake s.mem n a

/-- The little-endian number at a physical place (R4). -/
def State.num (s : State) (a n : Nat) : Nat := ofBytes (s.bytes a n)

/-- The bytes that one codeword protects: a 32-byte grain of HBM (R242), an 8-byte word elsewhere (DEDUCED, log entry 68). -/
def codeUnit (a : Nat) : Nat := if hbmAt ≤ a ∧ a < hbmAt + 2 ^ 52 then 32 else 8

/-- Bytes written to a physical place; a codeword wholly rewritten is no longer poisoned (R242, R243), and a plain write ends a release sequence (R273). -/
def State.put (s : State) (a : Nat) (bs : List Byte) : State :=
  { s with mem := memPut s.mem a bs
           rels := s.rels.filter fun r => ¬(a < 4 * r.1 + 4 ∧ 4 * r.1 < a + bs.length)
           poison := s.poison.filter fun p => ¬(a ≤ p / codeUnit p * codeUnit p ∧ p / codeUnit p * codeUnit p + codeUnit p ≤ a + bs.length) }

/-- The codeword at a place is uncorrectable: each of its words reads as poisoned (R243, R417). -/
def State.damage (s : State) (a : Nat) : State :=
  let u := codeUnit a
  (List.range (u / 8)).foldl (fun s i => let p := a / u * u + 8 * i; { s with poison := if p ∈ s.poison then s.poison else s.poison ++ [p] }) s

/-- Whether a range holds poisoned data (R243, R417). -/
def State.bad (s : State) (a n : Nat) : Bool := s.poison.any fun p => decide (p < a + n ∧ a < p + 8)

/-! ## Accessors -/

def State.glade (s : State) (g : Nat) : Glade := nget {} s.glades g
def State.bough (s : State) (g : Nat) : Bough := (s.glade g).cur
def State.ww (s : State) (g : Nat) : Woodward := (s.bough g).ww
def State.eng (s : State) (g : Nat) : Engines := (s.bough g).eng
def State.th (s : State) (g : Nat) : Thicket := (s.bough g).th
def State.die (s : State) (d : Nat) : Die := nget {} s.dies d
def State.job (s : State) (c : Nat) : Job := nget {} s.jobs c
def State.fn (s : State) (f : Nat) : Fn := nget {} s.fns f
def State.link (s : State) (l : Nat) : Link := nget {} s.links l
def State.clearing (s : State) (c : Nat) : Clearing := nget {} s.clearings c
def State.launch (s : State) (d l : Nat) : Option Launch := nfind (s.die d).launches l
def State.place (s : State) (g : Nat) : Option Place := (s.bough g).place
def State.block (s : State) (g : Nat) : Option Block := (s.ww g).block

def State.modGlade (s : State) (g : Nat) (f : Glade → Glade) : State := { s with glades := nmod {} s.glades g f }
def State.modBough (s : State) (g : Nat) (f : Bough → Bough) : State := s.modGlade g fun x => { x with cur := f x.cur }
def State.modWw (s : State) (g : Nat) (f : Woodward → Woodward) : State := s.modBough g fun b => { b with ww := f b.ww }
def State.modEng (s : State) (g : Nat) (f : Engines → Engines) : State := s.modBough g fun b => { b with eng := f b.eng }
def State.modTh (s : State) (g : Nat) (f : Thicket → Thicket) : State := s.modBough g fun b => { b with th := f b.th }
def State.modBlock (s : State) (g : Nat) (f : Block → Block) : State := s.modWw g fun w => { w with block := w.block.map f }
def State.modDie (s : State) (d : Nat) (f : Die → Die) : State := { s with dies := nmod {} s.dies d f }
def State.modJob (s : State) (c : Nat) (f : Job → Job) : State := { s with jobs := nmod {} s.jobs c f }
def State.modFn (s : State) (n : Nat) (f : Fn → Fn) : State := { s with fns := nmod {} s.fns n f }
def State.modLink (s : State) (l : Nat) (f : Link → Link) : State := { s with links := nmod {} s.links l f }
def State.modClearing (s : State) (c : Nat) (f : Clearing → Clearing) : State := { s with clearings := nmod {} s.clearings c f }
/-- A glade activates a bough (R22, R420); the walks of the other are given up. -/
def State.activate (s : State) (g : Nat) (b : Bool) : State :=
  s.modGlade g fun x => if x.active = b then x else { x with active := b, cur := x.alt, alt := x.cur, walks := [], walkFaults := [], swapDue := none }
def State.modLaunch (s : State) (d l : Nat) (f : Launch → Launch) : State :=
  s.modDie d fun x => match nfind x.launches l with
    | some v => { x with launches := nset x.launches l (f v) }
    | none => x

/-- Something the package sends. -/
def State.emit (s : State) (o : Out) : State := { s with out := s.out ++ [o] }

/-- A request of a function goes out at the host port, of a TDI in RUN on its IDE stream (R446). -/
def State.request (s : State) (fn : Nat) (x : HostReq) : State := s.emit (.request fn (decide ((s.fn fn).tdi = .run)) x)

/-- The next free value (R10). -/
def State.freeWord (s : State) : Word := Config.freeWord s.free

/-- The state after a free value has been drawn. -/
def State.drawn (s : State) : State := { s with free := s.free + 1 }

/-- Heartwood time in microseconds since power-on (R404). -/
def State.micros (s : State) : Nat := s.wall / 7560000

/-! ## Geometry (R20, R21) -/

def dieOf (g : Nat) : Nat := g / 128
def gladeX (g : Nat) : Nat := g % 8
def gladeY (g : Nat) : Nat := g % 128 / 8
def gladeAt (d x y : Nat) : Nat := 128 * d + 8 * y + x

/-- The clearing of a glade: 16 for each die, four across (R21). -/
def clearingOf (g : Nat) : Nat := 16 * dieOf g + 4 * (gladeY g / 4) + gladeX g / 2

/-- The glades of a clearing. -/
def gladesOf (c : Nat) : List Nat :=
  (List.range 8).map fun k => gladeAt (c / 16) (2 * (c % 4) + k % 2) (4 * (c % 16 / 4) + k / 2)

/-- The glade at a position of the unit a glade belongs to (R35). -/
def Place.gladeAt (p : Place) (g ux uy : Nat) : Nat := g + 8 * uy + ux - (8 * p.uy + p.ux)

/-- Whether a position of a unit is present (R35, R57). -/
def Place.has (p : Place) (ux uy : Nat) : Bool := decide (ux < p.w) && decide (uy < p.h) && p.present.testBit (uy * p.w + ux)

/-- The positions of a unit, in ascending bit order (R57). -/
def Place.positions (p : Place) : List (Nat × Nat) := (List.range (p.w * p.h)).map fun i => (i % p.w, i / p.w)

/-- The present glades of the unit a glade belongs to. -/
def State.unitGlades (s : State) (g : Nat) : List Nat :=
  match s.place g with
  | none => [g]
  | some p => (p.positions.filter fun x => p.has x.1 x.2).map fun x => p.gladeAt g x.1 x.2

/-- The glades whose active bough holds a unit of a launch. -/
def State.launchGlades (s : State) (d l : Nat) : List Nat :=
  nkeys s.glades fun _ x => match x.cur.place with
    | some p => decide (p.die = d ∧ p.launch = l)
    | none => false

/-- The clearings of a job's partition on a die, ascending (R22, R433). -/
def Job.bands (j : Job) (d : Nat) : List Nat :=
  let p := (j.partitions[d]?).getD 0xFF
  if p = 0xFF then [] else
    (List.range 16).filter fun c =>
      decide (p % 4 ≤ c % 4 ∧ c % 4 ≤ p % 4 + bits p 5 4 ∧ bits p 3 2 ≤ c / 4 ∧ c / 4 ≤ bits p 3 2 + bits p 7 6)

/-- The bough in which a job holds its partition of a die (R22, R433). -/
def Job.bough (j : Job) (d : Nat) : Bool := (j.boughs[d]?).getD false

/-- The bough active on a clearing: that of all its glades (R22). -/
def State.clearingActive (s : State) (c : Nat) (b : Bool) : Bool := (gladesOf c).all fun g => decide ((s.glade g).active = b)

/-- The bands of a context on a die, ascending: those of the clearings of its partition where its bough is the active one (R235). -/
def State.bands (s : State) (ctx d : Nat) : List Nat :=
  ((s.job ctx).bands d).filter fun c => s.clearingActive (16 * d + c) ((s.job ctx).bough d)

/-- The line of the understory of a die, 24,576 to a band, that a line of a context's SHR window lies in (R235, R236). -/
def State.shrLine (s : State) (ctx d line : Nat) : Nat := 24576 * (((s.bands ctx d)[line / 24576]?).getD 0) + line % 24576

/-- The place of an SHR offset of a context. -/
def State.shrPlace (s : State) (ctx d off : Nat) : Nat := shrAt ctx d + 512 * s.shrLine ctx d (off / 512) + off % 512

/-! ## Registers of the woodward (R142, R143, R149) -/

/-- A general register; g0 reads as 0 (R142). -/
def Woodward.reg (w : Woodward) (i : Nat) : Word := if i = 0 then 0 else nget 0 w.g i

/-- A general register written; g0 is never written (R142). -/
def Woodward.setReg (w : Woodward) (i : Nat) (v : Word) : Woodward := if i = 0 then w else { w with g := nset w.g i v }

/-- A performance counter advanced (R405). -/
def Woodward.count (w : Woodward) (e n : Nat) : Woodward := { w with perf := nmod 0 w.perf e (satAdd · n) }

def State.perf (s : State) (g e n : Nat) : State := s.modWw g fun w => w.count e n

/-- A job's usage counter advanced; it saturates (R402). -/
def State.usage (s : State) (c i n : Nat) : State :=
  s.modJob c fun j => { j with usage := nmod 0 j.usage i fun v => min (v + n) (2 ^ 64 - 1) }

/-- A lifetime counter advanced, by item × 65536 + index; it saturates (R406, R407). -/
def State.life (s : State) (item idx n : Nat) : State :=
  { s with pk := { s.pk with life := nmod 0 s.pk.life (65536 * item + idx) fun v => min (v + n) (2 ^ 64 - 1) } }

/-- A completion counter advanced (R33, R391); it holds its largest value (R383). -/
def Counter.advance (c : Counter) (st : Status) : Counter :=
  { count := min (c.count + 1) (2 ^ 64 - 1), nonok := min (c.nonok + (if st = .ok then 0 else 1)) (2 ^ 64 - 1), status := st }

/-! ## Fault records (R315, R316, R409) -/

/-- The 32 bytes of a fault record (R316). -/
def faultBytes (cause flags fn ctx glade ordinal value aux : Nat) : List Byte :=
  toBytes 2 cause ++ toBytes 1 flags ++ toBytes 1 fn ++ toBytes 2 ctx ++ toBytes 2 glade ++ toBytes 8 ordinal ++ toBytes 8 value ++ toBytes 8 aux

/-- One record written to a function's queue, or dropped and counted (R315); vector 0 is signalled after it (R447). Nothing is written for a
function whose reset has been accepted (R424). -/
def State.fqWrite (s : State) (f cause flags fn ctx glade value aux : Nat) : State :=
  let q := s.fn f
  if q.banned then s
  else if q.fqEnable = false ∨ q.fqEntries ≤ q.wcnt - q.rcnt then s.modFn f fun x => { x with lost := x.lost + 1 }
  else
    (s.put (hostAt f + q.fqBase + 32 * (q.wcnt % q.fqEntries)) (faultBytes cause flags fn ctx glade (q.wcnt + 1) value aux)).modFn f
      fun x => { x with wcnt := x.wcnt + 1, msixPend := if 0 ∈ x.msixPend then x.msixPend else x.msixPend ++ [0] }

/-- A fault record of a function, with its redacted copy for PF0 (R316). -/
def State.faultRecord (s : State) (cause flags fn ctx glade value aux : Nat) : State :=
  if fn = 0 then s.fqWrite 0 cause flags 0 ctx glade value aux
  else (s.fqWrite fn cause flags fn ctx glade value aux).fqWrite 0 cause (flags ||| 4) fn ctx glade 0 0

/-- A record of a cause that no glade takes (R409, owner N). -/
def State.noGlade (s : State) (cause fn ctx value aux : Nat) : State := s.faultRecord cause 2 fn ctx 0xFFFF value aux

/-! ## Landing zones: ending reservations (R340, R342, R344) -/

/-- A rill's status takes its first change of the arm (R329). -/
def Rill.setStatus (r : Rill) (st : Nat) : Rill := if r.status = 0 then { r with status := st } else r

/-- The rill a slot counts into (R339). -/
def Zone.rillOf (z : Zone) (slot : Nat) : Nat := if z.perSlot then z.rill + slot else z.rill

/-- The reservation of a key on a zone ends: RESERVED and FILLING slots become FREE, a FILLING slot tears its rill, FULL slots
become FREE at their DONE (R340, R342). -/
def Engines.endKey (e : Engines) (zi : Nat) (k : SlotKey) : Engines :=
  match nfind e.zones zi with
  | none => e
  | some z =>
    let torn := (z.slot.filter fun x => decide (x.2.key = k ∧ x.2.st = .filling)).map fun x => z.rillOf x.1
    let slot := z.slot.map fun x =>
      if x.2.key = k then
        match x.2.st with
        | .reserved => (x.1, ({} : ZSlot))
        | .filling => (x.1, {})
        | .full => (x.1, { x.2 with ended := true })
        | .free => x
      else x
    { e with
      zones := nset e.zones zi { z with slot := slot, holders := z.holders.filter (· ≠ k) }
      late := e.late ++ torn }

/-- A glade's block in flight holds a rill: an executed RILL.SET names it (R319, R332). -/
def State.rillHeld (s : State) (g r : Nat) : Bool :=
  match s.block g with
  | some b => b.done.any fun i => decide (wordOpcode ((b.words[i]?).getD 0) = 0x103 ∧ bits (nget 0 b.opL i).toNat 4 0 = r)
  | none => false

/-- The rills of some engines that are to become TORN or ERR do so, but those that are held (R319, R329). -/
def Engines.settle (e : Engines) (held : Nat → Bool) : Engines :=
  if e.late = [] ∧ e.lateErr = [] then e
  else
    let set (st : Nat) (l : List Nat) (m : List (Nat × Rill)) : List (Nat × Rill) := (l.filter fun r => !held r).foldl (fun m r => nmod {} m r (·.setStatus st)) m
    { e with late := e.late.filter held, lateErr := e.lateErr.filter held, rills := set 3 e.lateErr (set 1 e.late e.rills) }

/-- Every rill that is to become TORN or ERR does so, but those held by a block (R319, R329). -/
def State.settleTears (s : State) : State :=
  { s with
    glades := s.glades.map fun x => (x.1, { x.2 with cur := { x.2.cur with eng := x.2.cur.eng.settle (s.rillHeld x.1) }
                                                     alt := { x.2.alt with eng := x.2.alt.eng.settle fun _ => false } })
    dies := s.dies.map fun d => (d.1, { d.2 with saved := d.2.saved.map fun x => (x.1, x.2.map fun v =>
      { v with bough := { v.bough with eng := v.bough.eng.settle fun _ => false } }) }) }

/-! ## Writes that are not seen at once (R10, R270 to R283) -/

/-- A launch as a number: its die and index. -/
def launchKey (d l : Nat) : Nat := 2 ^ 24 * d + l

/-- A position of a unit of a launch as a number, wherever the unit lies. -/
def Place.home (p : Place) : Nat := 2 ^ 16 * launchKey p.die p.launch + 256 * p.upos + 16 * p.uy + p.ux

/-- The number of the unit's glade that a bough holds. -/
def Bough.home (b : Bough) (g : Nat) : Nat := match b.place with
  | some p => p.home
  | none => 2 ^ 60 + g

def State.home (s : State) (g : Nat) : Nat := (s.bough g).home g

/-- The tasks of the launch that a glade's unit belongs to. -/
def State.taskPt (s : State) (g : Nat) : Point := match s.place g with
  | some p => .launch (launchKey p.die p.launch)
  | none => .launch (2 ^ 60 + g)

/-- The number of the order whose run a glade's thicket makes. -/
def State.runUid (s : State) (g : Nat) : Nat := ((s.th g).run.map (·.uid)).getD 0

/-- A byte range cut where an aligned 8-byte word ends. -/
def wordsOf (a n : Nat) : List (Nat × Nat) :=
  (List.range ((a + n + 7) / 8 - a / 8)).map fun i =>
    let lo := max a (8 * (a / 8 + i))
    (lo, min (a + n) (8 * (a / 8 + i) + 8) - lo)

/-- The words a write changes are noted with their values before it, and with the points it is before: `State.unseen` is the coherence order (R273). -/
def State.note (s : State) (a n agent : Nat) (before_ : List Point) : State :=
  let ws := wordsOf a n
  { s with unseen := s.unseen ++ ws.zipIdx.map fun w => ⟨w.1.1, w.1.2, BitVec.ofNat 64 (s.num w.1.1 w.1.2), s.free + w.2, agent, before_⟩
           free := s.free + ws.length }

/-- A write is before some of these points. -/
def Unseen.meets (e : Unseen) (l : List Point) : Bool := e.known.any fun p => decide (p ∈ l)

/-- A write is before a point too. -/
def Unseen.to (e : Unseen) (p : Point) : Unseen := if p ∈ e.known then e else { e with known := e.known ++ [p] }

/-- A write overlaps a range. -/
def Unseen.overlaps (e : Unseen) (a n : Nat) : Bool := decide (e.addr < a + n ∧ a < e.addr + e.len)

/-- The writes that meet a test are before a point. -/
def State.flowIf (s : State) (hit : Unseen → Bool) (at_ : Point) : State := { s with unseen := s.unseen.map fun e => if hit e then e.to at_ else e }

/-- What is before one of some points is before a point: they happen before it (R270). -/
def State.flow (s : State) (from_ : List Point) (at_ : Point) : State := s.flowIf (·.meets from_) at_

/-- Points that nothing names any more. -/
def State.dropPoints (s : State) (gone : Point → Bool) : State :=
  { s with unseen := s.unseen.map fun e => { e with known := e.known.filter fun p => !gone p } }

/-- The contents of a range are given anew: its initial write is the newest (R265). -/
def State.forget (s : State) (a n : Nat) : State := { s with unseen := s.unseen.filter fun e => !e.overlaps a n }

/-- The writes after the last that a reader knows. -/
def afterLast (knows : Unseen → Bool) (l : List Unseen) : List Unseen := l.foldl (fun acc e => if knows e then [] else acc ++ [e]) []

/-- The bytes a reader of a glade finds (R272, R273): of the writes to a byte the last that is before the read, or a later one: each of those is found from a time of its own, and with it
those before it (R10; DESIGN CHOICE, log entry 22). -/
def State.view (s : State) (g : Nat) (knows : Unseen → Bool) (a n : Nat) : List Byte :=
  let near := s.unseen.filter fun e => e.overlaps a n
  (s.bytes a n).zipIdx.map fun p =>
    let at_ := a + p.2
    match (afterLast knows (near.filter fun e => e.overlaps at_ 1)).find? fun e => decide (s.wall < Config.visibleAt e.num g) with
    | some e => e.old.extractLsb' (8 * (at_ - e.addr)) 8
    | none => p.1

/-- A write that some reads need not find yet. -/
def State.putNoted (s : State) (a : Nat) (bs : List Byte) (before_ : List Point) (agent : Nat := 0) : State := (s.note a bs.length agent before_).put a bs

/-- Bytes arrived in a rill (R280): the count of its arm releases them. -/
def State.releaseCount (s : State) (g r : Nat) (hit : Unseen → Bool) : State := s.flowIf hit (.rill (s.home g) r (nget {} (s.eng g).rills r).arms)

/-! ## Blocks discarded (R144, R263, R319) -/

/-- The package's own number; 0 while none is set (R448). -/
def State.self (s : State) : Nat := (s.pk.number.map (·.1)).getD 0

/-- A control message for a zone of another package: op, destination, source, count, status, lowest slot (R450 kind 3). -/
def slotCtl (op dg zone sg rill count status low : Nat) : List Byte :=
  toBytes 1 op ++ toBytes 2 dg ++ toBytes 1 zone ++ toBytes 2 sg ++ toBytes 1 rill ++ toBytes 1 count ++ toBytes 1 status ++ toBytes 1 low
    ++ List.replicate 218 0

/-- The lowest-numbered link that is up to a package. -/
def State.linkTo (s : State) (p : Nat) : Option Nat :=
  (nkeys s.links fun _ l => decide (l.st = .up ∧ l.peer = p)).head?

/-- The virtual channel of a flit's kind (R449): one for landing data, one for calls, one for the rest (DESIGN CHOICE, log entry 95). -/
def vcOf (kind : Nat) : Nat := if kind = 1 then 0 else if kind = 4 then 2 else 1

/-- The first twelve bytes of a flit (R449). -/
def flitHead (f : Flit) : List Byte := toBytes 1 f.kind ++ toBytes 1 (vcOf f.kind) ++ toBytes 2 f.credit ++ toBytes 8 f.seq

/-- The IV of a flit (R449): the prefix of the direction, from the SPDM requester or the responder, and the sequence number. -/
def flitIv (requester : Bool) (seq : Nat) : List Byte := toBytesBE 4 (if requester then 1 else 2) ++ toBytesBE 8 seq

/-- A flit's payload and tag as they go out: sealed with the link session's key, or in clear with a zero tag while there is none (R449). -/
def Link.wire (x : Link) (f : Flit) : List Byte :=
  if x.key = [] then f.payload ++ List.replicate 16 0
  else let y := gcmSeal x.key (flitIv x.lower f.seq) (flitHead f) f.payload; y.1 ++ y.2

/-- A flit of the replay buffer goes out (R449, R451). -/
def State.putFlit (s : State) (l : Nat) (f : Flit) : State :=
  s.emit (.flit l f.kind (vcOf f.kind) f.seq f.credit f.payload ((s.link l).wire f))

/-- The credit field of the next flit (R449): the flits owed on the lowest channel that owes any. -/
def Link.owed (x : Link) : Nat × Nat :=
  match x.credits.find? fun c => decide (c.2 ≠ 0) with
  | some c => (c.1, min c.2 4095)
  | none => (0, 0)

/-- A flit is numbered, takes the credit owed, and goes out; the replay buffer keeps it until it is acknowledged (R449, R451). -/
def State.transmit (s : State) (l kind : Nat) (payload : List Byte) : State :=
  let x := s.link l
  let c := x.owed
  let f : Flit := { seq := x.txSeq, kind := kind, credit := 4096 * c.1 + c.2, payload := payload }
  (s.putFlit l f).modLink l fun x =>
    { x with txSeq := x.txSeq + 1, credits := if c.2 = 0 then x.credits else nmod 0 x.credits c.1 (· - c.2), replay := x.replay ++ [f] }

/-- The replay buffer holds 128 flits that wait for their acknowledgement (R451); those of kind IDLE are not credited. -/
def Link.full (x : Link) : Bool := decide (128 ≤ (x.replay.filter fun f => decide (f.kind ≠ 0)).length)

/-- A flit sent on a link (R449, R451): it waits while the replay buffer has no room. -/
def State.sendFlit (s : State) (l kind : Nat) (payload : List Byte) : State :=
  if (s.link l).full = true ∨ (s.link l).queue ≠ [] then s.modLink l fun x => { x with queue := x.queue ++ [(kind, payload)] } else s.transmit l kind payload

/-- The sequence number of the flit sent last on a link, or that it will have. -/
def Link.lastSeq (x : Link) : Nat := x.txSeq + x.queue.length - 1

/-- Every bough of the package and every saved unit with its engines changed. -/
def State.mapEngines (s : State) (f : Nat → Engines → Engines) : State :=
  { s with
    glades := s.glades.map fun x => (x.1, { x.2 with cur := { x.2.cur with eng := f x.1 x.2.cur.eng }, alt := { x.2.alt with eng := f x.1 x.2.alt.eng } })
    dies := s.dies.map fun d => (d.1, { d.2 with saved := d.2.saved.map fun x => (x.1, x.2.map fun v =>
      { v with bough := { v.bough with eng := f v.glade v.bough.eng } }) }) }

/-- Every bough of the package and every saved unit's changed. -/
def State.mapBoughs (s : State) (f : Nat → Bough → Bough) : State :=
  { s with
    glades := s.glades.map fun x => (x.1, { x.2 with cur := f x.1 x.2.cur, alt := f x.1 x.2.alt })
    dies := s.dies.map fun d => (d.1, { d.2 with saved := d.2.saved.map fun x => (x.1, x.2.map fun v => { v with bough := f v.glade v.bough }) }) }

/-- The places and engines of the units that a glade holds or that were saved from it, the active bough first. -/
def State.homes (s : State) (g : Nat) : List (Option Place × Engines) :=
  let x := s.glade g
  [(x.cur.place, x.cur.eng), (x.alt.place, x.alt.eng)]
    ++ s.dies.flatMap fun d => d.2.saved.flatMap fun v => (v.2.filter fun y => decide (y.glade = g)).map fun y => (y.bough.place, y.bough.eng)

/-- The engines of a glade that meet a test changed: the active bough's, else the other's, else those of units saved from it. -/
def State.modHome (s : State) (g : Nat) (hit : Engines → Bool) (f : Engines → Engines) : State :=
  let x := s.glade g
  if hit x.cur.eng then s.modEng g f
  else if hit x.alt.eng then s.modGlade g fun x => { x with alt := { x.alt with eng := f x.alt.eng } }
  else { s with dies := s.dies.map fun d => (d.1, { d.2 with saved := d.2.saved.map fun v => (v.1, v.2.map fun y =>
    if y.glade = g ∧ hit y.bough.eng then { y with bough := { y.bough with eng := f y.bough.eng } } else y) }) }

/-- A glade's active unit runs. -/
def State.runs (s : State) (g : Nat) : Bool :=
  match s.place g with
  | some p => match s.launch p.die p.launch with
    | some l => decide (l.stage = .running)
    | none => false
  | none => false

/-- A glade's active unit is being taken from it: it has quiesced, and only what R421 lets complete still moves. -/
def State.frozen (s : State) (g : Nat) : Bool :=
  match s.place g with
  | some p => ((s.launch p.die p.launch).bind (·.stop)).isSome
  | none => false

/-- A block holds a key of a zone of the engines: SLOT.RES or SLOT.REL.RELEASE names it (R319, R341, R342). -/
def Engines.nameHeld (zone : Nat) (k : SlotKey) (e : Engines) : Bool :=
  match nfind e.zones zone with
  | some z => z.holders.contains k
  | none => false

/-- The engines with the hold on a key of a zone ended. -/
def Engines.unhold (zone : Nat) (k : SlotKey) (e : Engines) : Engines :=
  { e with zones := nmod {} e.zones zone fun z => { z with holders := z.holders.filter (· ≠ k) } }

/-- A block holds a reservation key of a zone of a glade (R319). -/
def State.keyHeld (s : State) (g zone : Nat) (k : SlotKey) : Bool := (s.homes g).any fun e => e.2.nameHeld zone k

/-- A key's reservation holds slots of a zone of the engines; a FULL slot of a reservation that has ended is held by none (R342). -/
def Engines.holdsKey (zone : Nat) (k : SlotKey) (e : Engines) : Bool :=
  match (nfind e.zones zone).filter (·.valid) with
  | some z => z.slot.any fun x => decide (x.2.st ≠ .free ∧ x.2.key = k) && !x.2.ended
  | none => false

/-- A notice or control message for a package goes on a link that is up, or waits with its links until one is (R340, R341, R342, R344). -/
def State.tell (s : State) (pkg kind : Nat) (m : List Byte) : State :=
  match s.linkTo pkg with
  | some l => s.sendFlit l kind m
  | none => match (s.links.find? fun l => decide (l.2.peer = pkg ∧ l.2.st ≠ .absent)) with
    | some l => s.modLink l.1 fun x => { x with reports := x.reports ++ [(kind, m)] }
    | none => s

/-- A control message for a package (R450 kind 3). -/
def State.report (s : State) (pkg : Nat) (m : List Byte) : State := s.tell pkg 3 m

/-- Whether a source's engines hold a reservation for a rill on a zone of a package. -/
def Engines.sourceOf (pkg zone rill : Nat) (e : Engines) : Bool := e.resv.any fun r => decide (r.pkg = pkg ∧ r.zone = zone ∧ r.rill = rill)

/-- The release of a reservation goes to its zone: at once on the own package, by a flit to another (R341, R342). -/
def State.releaseKey (s : State) (g : Nat) (z : ZoneRef) : State :=
  if z.pkg = s.self then (s.modHome z.glade (Engines.holdsKey z.zone ⟨s.self, g, z.rill⟩) fun e => e.endKey z.zone ⟨s.self, g, z.rill⟩).settleTears
  else s.report z.pkg (slotCtl 3 z.glade z.zone g z.rill 0 0 0)

/-- The hold on a key ends without a release (R341, R342): at once on the own package, by a flit to another. -/
def State.unhold (s : State) (g : Nat) (z : ZoneRef) : State :=
  if z.pkg = s.self then s.modHome z.glade (Engines.nameHeld z.zone ⟨s.self, g, z.rill⟩) (Engines.unhold z.zone ⟨s.self, g, z.rill⟩)
  else s.report z.pkg (slotCtl 3 z.glade z.zone g z.rill 2 0 0)

/-- The destination and zone word of SLOT.RES (R341). -/
def slotRef (l : Nat) : ZoneRef := ⟨bits l 7 0, bits l 16 8, bits l 20 17, bits l 25 21⟩

/-- The reservations an uncommitted block was granted are released (R341), and the holds on keys it named end (R342). -/
def releasePend (g : Nat) : List (Nat × Pend) → State → State
  | [], s => s
  | (_, .slotHeld z n _) :: t, s => releasePend g t (if n = 0 then s.unhold g z else s.releaseKey g z)
  | (_, .slotRelease z) :: t, s => releasePend g t (s.unhold g z)
  | _ :: t, s => releasePend g t s

/-- The same for requests that were answered and whose instruction has not executed: the grant is released, or the hold ends (R341, R342). -/
def releaseAnswers (g : Nat) (b : Block) : List (Nat × Word) → State → State
  | [], s => s
  | (i, v) :: t, s =>
    let op := wordOpcode ((b.words[i]?).getD 0)
    let z := slotRef (nget 0 b.opL i).toNat
    let st := bits v.toNat 7 0
    if (b.pend.any fun p => decide (p.1 = i)) ∨ ¬(st = 0 ∨ (op = 0x109 ∧ (st = 1 ∨ st = 2))) then releaseAnswers g b t s
    else if op = 0x109 ∧ st ≠ 0 then releaseAnswers g b t (s.unhold g z)
    else if op = 0x109 then releaseAnswers g b t (s.releaseKey g z)
    else if op = 0x10A then releaseAnswers g b t (s.unhold g z)
    else releaseAnswers g b t s

/-- Nothing of a glade's block in flight acquires any more. -/
def State.endAcquires (s : State) (g : Nat) : State := s.dropPoints fun p => match p with
  | .acq h _ => decide (h = g)
  | _ => false

/-- The block a glade holds in flight is discarded: none of its writes takes effect and its holds end (R144, R263, R319). -/
def State.discard (s : State) (g : Nat) : State :=
  match s.block g with
  | none => s
  | some b =>
    let s := ((releaseAnswers g b b.answers (releasePend g b.pend s)).modWw g fun w => { w with block := none, fetch := b.addr }).modGlade g fun x =>
      { x with walks := [], walkFaults := [] }
    let s := s.endAcquires g
    match s.place g with
    | none => s
    | some p => s.modFn p.vf fun f => { f with pages := (f.pages.map fun h =>
        { h with waiters := h.waiters.filter fun w => ¬((w.agent = 0 ∨ w.agent = 4) ∧ w.glade = g) }).filter fun h => ¬(h.wait = .failed ∧ h.waiters = []) }

/-- Whether a glade's block in flight holds a byte of a burrow range (R233). -/
def State.holdsByte (s : State) (g off n : Nat) : Bool :=
  match s.block g with
  | some b => decide (b.addr < off + n) && decide (off < b.addr + 16 + 8 * b.words.length)
  | none => false

/-- Whether a glade's key (timestamp, glade) is before the lower bound another glade of its launch sets. -/
def keyBefore (ts g lts h : Nat) : Bool := decide (ts < lts) || (decide (ts = lts) && decide (g < h))

/-- The entries of a queue: stand, raft0, raft1, run, weight-load (R284). -/
def Engines.queue (e : Engines) (q : Nat) : List QEntry := nget [] e.queues q

/-! ## HBM (R239, R240, R242, R243) -/

/-- The pseudo-channel and channel offset of a device physical address (R239); none where no pseudo-channel is usable. -/
def State.channelOf (s : State) (pa : Nat) : Option (Nat × Nat) :=
  let us := (List.range 512).filter s.pk.channels.testBit
  (us[pa / 4096 % us.length]?).map fun u => (u, pa / 4096 / us.length * 4096 + pa % 4096)

/-- The HBM stack of a device physical address: 64 pseudo-channels each (R239). -/
def State.stackOf (s : State) (pa : Nat) : Nat := ((s.channelOf pa).map fun c => c.1 / 64).getD 0

/-- A grain is stored uncompressed (R240, R242): in an OPND region, or where it does not compress to 28 bytes. -/
def State.mode1 (s : State) (grain : Nat) : Bool :=
  (s.jobs.any fun j => j.2.installed.any fun r => decide (r.1 = grain / 128))
    || decide (28 < Config.compressedLength (s.bytes (hbmAt + 32 * grain) 32))

/-- A read of physical bytes: each HBM grain of mode 1 adds to its stack's overflow-area reads (R243). -/
def State.hbmRead (s : State) (phys n : Nat) : State :=
  if hbmAt ≤ phys ∧ phys < hbmAt + 2 ^ 52 ∧ 0 < n then
    let lo := (phys - hbmAt) / 32
    ((List.range ((phys - hbmAt + n - 1) / 32 + 1 - lo)).filter fun i => s.mode1 (lo + i)).foldl (fun s i => s.life 7 (s.stackOf (32 * (lo + i))) 1) s
  else s

/-- The grains of HBM in mode 1 that a write covers only in part, which the controller reads for it (R240, R243). -/
def State.merges (s : State) (a n : Nat) : List Nat :=
  if hbmAt ≤ a ∧ a < hbmAt + 2 ^ 52 ∧ 0 < n then
    let p := a - hbmAt
    (((if p % 32 = 0 ∧ 32 ≤ n then [] else [p / 32]) ++ if (p + n) % 32 = 0 then [] else [(p + n - 1) / 32]).eraseDups).filter s.mode1
  else []

/-- An access to a place noted (R238, R243). -/
def State.touch (s : State) (a n : Nat) (merge : List Nat := []) : State := { s with touched := s.touched ++ [⟨a, n, merge⟩] }

/-! ## Performed stores (R233) -/

/-- A store performed at a physical place, which is before some points: a block in flight whose bytes it changes is discarded and fetched again, unless it is the block of
the committing glade `own` (R233). -/
def State.write (s : State) (a : Nat) (bs : List Byte) (before_ : List Point) (own : Option Nat := none) (agent : Nat := 0) : State :=
  let s := (s.touch a bs.length (s.merges a bs.length)).putNoted a bs before_ agent
  let g := a / 2 ^ 21
  if a < burrowAt 512 false ∧ own ≠ some g ∧ (s.glade g).active = decide (a / 2 ^ 20 % 2 = 1) ∧ s.holdsByte g (a % 2 ^ 20) bs.length = true
  then s.discard g
  else s

/-! ## Taking a cause (R181, R409 to R412) -/

/-- The causes that are always delivered to the forester (R408, owner S). -/
def sysOwned (c : Nat) : Bool := c = 0x04C || c = 0x086 || c = 0x100 || c = 0x101 || c = 0x102 || c = 0x1C2

/-- The stack of a device address whose data is uncorrectable, by the translation the glade or its clearing holds. -/
def State.stackSeen (s : State) (g ctx va : Nat) : Nat :=
  let hit (t : Tlb) : Bool := decide (t.owner = ctx ∧ t.host = false ∧ t.base ≤ va ∧ va < t.base + t.size)
  match ((s.glade g).tlb ++ (s.clearing (clearingOf g)).tlb).find? hit with
  | some t => s.stackOf (4096 * bits t.leaf.toNat 51 12 + va % t.size)
  | none => 0

/-- A cause delivered to the forester (R412): a fault record to the context's VF, and the launch ends as a forced cancel with status
FAULTED, which the forester processes next. The woodward and the thicket of the glade go no further. Uncorrectable data adds to the lifetime counts of the glade's
SRAM or the address's stack (DESIGN CHOICE, log entry 67). -/
def State.forester (s : State) (g cause value a : Nat) (async : Bool) : State :=
  match s.place g with
  | none => s
  | some p =>
    let s := if cause = 0x1C2 then s.life 0 g 1 else if cause = 0x04C then s.life 6 (s.stackSeen g p.ctx value) 1 else s
    let flags := b2n async + 2 * b2n (sysOwned cause)
    let s := (s.discard g).faultRecord cause flags p.vf p.ctx g value a
    let s := s.modWw g fun w => { w with started := false }
    let s := s.modTh g fun t => { t with stopped := true }
    s.modDie p.die fun d => { d with cancels := d.cancels ++ [(p.launch, .faulted, true)] }

/-- The state of the woodward in its handler: the saved cause, block and value, the inhibit bit, and the handler as the next fetch
(R181). TRAP.BLOCK keeps bits [19:6] (R149). -/
def Woodward.enter (w : Woodward) (cause value a : Nat) (async mark hlt : Bool) : Woodward :=
  { w with
    trapCause := BitVec.ofNat 64 (cause + 65536 * b2n async)
    trapBlock := BitVec.ofNat 64 (64 * bits a 19 6)
    trapValue := BitVec.ofNat 64 value
    inh := true, mark := mark, hlt := hlt
    atMark := false, halted := false
    fetch := 64 * bits w.trapHandler.toNat 19 6
    label := none
    deliver := false }

/-- Taking a cause (R181): to the forester where a handler runs already, there is none, or the system owns the cause; else into the
handler. `a` is the block address saved. A trap of a block that also reached the phase mark is taken at the mark (DESIGN CHOICE, log
entry 93). -/
def State.take (s : State) (g cause value a : Nat) (async : Bool) : State :=
  let s := s.modWw g fun w => { w with delivered := true }
  let w := s.ww g
  if w.inh = true ∨ bits w.trapHandler.toNat 19 6 = 0 ∨ sysOwned cause = true then s.forester g cause value a async
  else (s.discard g).modWw g fun w => w.enter cause value a async w.atMark w.halted

/-- A fault a block raises (R146, R181): the block's address is saved and nothing of it has committed. It adds nothing to TASK.ABORTS (DESIGN
CHOICE, log entry 90). -/
def State.blockFault (s : State) (g cause value : Nat) : State :=
  match s.block g with
  | none => s.take g cause value (s.ww g).fetch false
  | some b => s.take g cause value b.addr false

/-- Where an asynchronous cause finds the woodward (R181): the block in flight, the next fetch address, or 0 when it has halted. -/
def State.asyncAt (s : State) (g : Nat) : Nat :=
  let w := s.ww g
  if w.halted then 0 else match w.block with
    | some b => b.addr
    | none => w.fetch

/-- Every cause of a list goes to the forester (R411). -/
def foresterAll (g : Nat) : List Cause → State → State
  | [], s => s
  | c :: t, s => foresterAll g t (s.forester g c.code c.value (s.asyncAt g) true)

/-- The asynchronous causes of a cy in the order of R410, those of one place as they arise. -/
def insertCause (x : Cause) : List Cause → List Cause
  | [] => [x]
  | y :: t => if x.rank < y.rank then x :: y :: t else y :: insertCause x t

/-- A cause raised by an engine, the fabric or a table agent (R410): it is delivered or listed at the end of the cy, one that the system owns like any other (log entry 69). `rank` is its place in the order of R410: queue × 2^24 + operation number, 2^28 for a cause of no entry, 2^29 + stem × 16 + row. -/
def State.asyncFault (s : State) (g cause value : Nat) (th : Bool := false) (rank : Nat := 2 ^ 28) : State :=
  s.modWw g fun w => { w with raised := insertCause ⟨cause, value, th, rank⟩ w.raised }

/-- Causes that are not delivered enter the pending list in their order; one that finds it full goes to the forester with all of the list (R411). -/
def enlist (g : Nat) : List Cause → State → State
  | [], s => s
  | c :: t, s =>
    let l := (s.ww g).pending
    enlist g t (if l.length < 8 then s.modWw g fun w => { w with pending := l ++ [c] }
      else foresterAll g (l ++ [c]) (s.modWw g fun w => { w with pending := [] }))

/-- The end of a cy of a glade (R410, R411): the first cause raised in it is delivered, unless a cause has been in this cy, a handler runs, a TRET has just committed or causes wait;
the others enter the list. -/
def State.deliverCauses (s : State) (g : Nat) : State :=
  let w := s.ww g
  let s := s.modWw g fun w => { w with raised := [], delivered := false }
  match w.raised with
  | [] => s
  | c :: t =>
    if w.inh || w.deliver || w.delivered || decide (w.pending ≠ []) then enlist g (c :: t) s
    else (enlist g t (s.take g c.code c.value (s.asyncAt g) true)).modWw g fun w => { w with delivered := false }

/-- A block fault whose TRAP.VALUE no rule states: the value is a free value (DESIGN CHOICE, log entry 2). -/
def State.openFault (s : State) (g cause : Nat) : State := s.drawn.blockFault g cause s.freeWord.toNat

/-- An asynchronous cause whose TRAP.VALUE no rule states: the value is a free value (DESIGN CHOICE, log entry 2). -/
def State.openAsync (s : State) (g cause : Nat) (rank : Nat := 2 ^ 28) : State := s.drawn.asyncFault g cause s.freeWord.toNat false rank

/-- The return from a handler (R182): inh, mark and hlt end, and the woodward resumes at TRAP.BLOCK, at its mark or halted. The first
pending cause is delivered in the next cy (R411). -/
def Woodward.leave (w : Woodward) : Woodward :=
  { w with inh := false, mark := false, hlt := false
           atMark := w.mark || w.atMark, halted := w.hlt
           fetch := 64 * bits w.trapBlock.toNat 19 6, label := none
           deliver := true }

/-! ## Held sectors (R263) -/

/-- The executed atomics of a block hold a sector among those of `n` bytes (R263). -/
def Block.holds (b : Block) (phys n : Nat) : Bool :=
  b.stores.any fun t => t.atomic && decide (phys / 128 ≤ t.phys / 128 ∧ t.phys / 128 ≤ (phys + n - 1) / 128)

/-- Whether an atomic of another glade's block holds a sector among those of `n` bytes (R263). -/
def State.heldRange (s : State) (g phys n : Nat) : Bool :=
  s.glades.any fun x => decide (x.1 ≠ g) && (x.2.cur.ww.block.map fun b => b.holds phys n).getD false

/-- Whether another glade's atomic holds the sector of a place (R263). -/
def State.heldSector (s : State) (g phys : Nat) : Bool := s.heldRange g phys 1

end Sys2Proof.Machine
end

