-- ==== Sys2Proof/Machine/Access.lean ====
section
/-! DEFINITION. From a generic address to a place in memory: the checks of R244 in their order, translation and its caches (R246 to R252),
leaf checks (R249, R435), ownership (R241), and the walk. -/

namespace Sys2Proof.Machine

/-- What an access resolves to: a physical place, a fault with the address as its value, a translation that must be walked first, or a host
page the access must wait for. -/
inductive Xl
  | ok (phys : Nat)
  | fault (cause : Nat)
  | walk (ctx va : Nat)
  | host (page : Nat)
  deriving DecidableEq, Repr

/-- Whether a burrow range of a glade meets a reserved landing slot (R234): a slot that is not FREE (DEDUCED, log entry 44). -/
def Engines.zoneHit (e : Engines) (off n : Nat) : Bool :=
  e.zones.any fun z => z.2.valid && z.2.slot.any fun x =>
    decide (x.2.st ≠ .free) && decide (z.2.base + x.1 * z.2.ssize < off + n ∧ off < z.2.base + (x.1 + 1) * z.2.ssize)

/-- Whether a line of the understory is reserved for a seed bank of a context (R237). -/
def Die.lineReserved (d : Die) (ctx line : Nat) : Bool := d.reserved.any fun r => decide (r.1 = ctx ∧ r.2.1 ≤ line ∧ line < r.2.1 + r.2.2)

/-- The fields of a table entry (R246). -/
def leafOpnd (e : Nat) : Bool := bit e 63
def leafKey (e : Nat) : Nat := bits e 61 52
def leafPa (e : Nat) : Nat := 4096 * bits e 51 12
def leafSize (e : Nat) : Nat := 4096 * 4 ^ bits e 11 8
def leafHint (e : Nat) : Nat := bits e 7 6

/-- The index of a level of the walk (R246). -/
def walkIndex (va lvl : Nat) : Nat := va / 2 ^ (12 + 11 * lvl) % 2048

/-- The bytes of a job's save area (R434): a 64 KiB directory (DESIGN CHOICE, log entry 9), a record slot per glade, a slot per band. -/
def Job.saveSize (j : Job) : Nat := 65536 + 0x1D0000 * j.gladeCap + 12582912 * ((List.range 4).map fun d => (j.bands d).length).sum

/-- The size of a job's graft pool, which its job open sets (R375, R433, R434). -/
def Job.poolSize (j : Job) : Nat := 2 ^ 20 * leAt j.request 12 4

/-- The device physical places of a job's regions within its grant, in the order of R434: data, tables, save area, graft pool (DESIGN CHOICE, log entry 9). -/
def Job.dataSize (j : Job) : Nat := j.grantSize - 2 ^ 26 - j.saveSize - j.poolSize
def Job.tablePa (j : Job) : Nat := j.grantBase + j.dataSize
def Job.savePa (j : Job) : Nat := j.tablePa + 2 ^ 26
def Job.poolPa (j : Job) : Nat := j.savePa + j.saveSize

/-- The key identifier that owns a 64 KiB granule (R241): one that a weight install gave it, else that of the region of the job's grant it lies in (R434). -/
def State.owner (s : State) (gr : Nat) : Option Nat :=
  match nfind s.pk.owners gr with
  | some k => some k
  | none =>
    let a := 65536 * gr
    match s.jobs.find? fun j => decide (j.2.grantBase ≤ a ∧ a < j.2.grantBase + j.2.grantSize) with
    | none => none
    | some (_, j) => (nfind j.keys (if a < j.tablePa then 0 else if a < j.savePa then 1 else if a < j.poolPa then 2 else 0)).map (·.keyid)

/-- What a walk meets: a fault, or the leaf (R248). -/
inductive WalkRes
  | fault (cause : Nat)
  | leaf (e : Nat)
  deriving DecidableEq, Repr

/-- The checks of R248 on a leaf met at a level. -/
def leafOk (lvl e : Nat) : Bool :=
  let k := bits e 11 8
  ((decide (lvl = 0) && decide (k ≤ 5)) || (decide (lvl = 1) && decide (6 ≤ k) && decide (k ≤ 9)))
    && decide (leafPa e % leafSize e = 0)

/-- One level of a walk: its end, or the next table (R246, R248). -/
def walkStep (s : State) (key lvl a : Nat) : Except WalkRes Nat :=
  let e := s.num (hbmAt + a) 8
  if s.owner (a / 65536) ≠ some key then .error (.fault 0x101)
  else if s.bad (hbmAt + a) 8 then .error (.fault 0x04C)
  else if bit e 0 = false then .error (.fault 0x047)
  else if bit e 62 ∨ bits e 5 4 ≠ 0 ∨ leafHint e = 3 then .error (.fault 0x046)
  else if bit e 3 then .error (if leafOk lvl e then .leaf e else .fault 0x046)
  else if bits e 63 52 ≠ 0 ∨ bits e 11 6 ≠ 0 ∨ bits e 2 1 ≠ 0 ∨ bits e 13 12 ≠ 0 then .error (.fault 0x046)
  else .ok (leafPa e)

/-- A four-level walk from a table at a physical address, by levels left (R246, R248, R250): its end and the table entries it reads. -/
def walkFrom (s : State) (key va : Nat) : Nat → Nat → WalkRes × List Nat
  | 0, _ => (.fault 0x046, [])
  | lvl + 1, table =>
    let a := table + 8 * walkIndex va lvl
    match walkStep s key lvl a with
    | .error r => (r, [a])
    | .ok t => let r := walkFrom s key va lvl t; (r.1, a :: r.2)

/-- The walk of a context's device address (R246 to R250), and the table entries it reads. -/
def State.walkAll (s : State) (ctx va : Nat) : WalkRes × List Nat := walkFrom s (s.job ctx).tableKey va 4 (s.job ctx).root
def State.walk (s : State) (ctx va : Nat) : WalkRes := (s.walkAll ctx va).1

/-- A walk must wait for a sector that an atomic holds (R263). -/
def State.walkHeld (s : State) (ctx va : Nat) : Bool := (s.walkAll ctx va).2.any fun a => s.heldSector 512 (hbmAt + a)

/-- A cached translation that covers an address (R250). -/
def tlbFind (l : List Tlb) (owner : Nat) (host : Bool) (va : Nat) : Option Tlb :=
  l.find? fun t => decide (t.owner = owner ∧ t.host = host ∧ t.base ≤ va ∧ va < t.base + t.size)

/-- The entry of either cache that covers an address: the glade's level 1, else the clearing's level 2 (R250). -/
def State.cached (s : State) (g owner : Nat) (host : Bool) (va : Nat) : Option Tlb :=
  match tlbFind (s.glade g).tlb owner host va with
  | some t => some t
  | none => tlbFind (s.clearing (clearingOf g)).tlb owner host va

/-- A cache of so many sets of so many ways with a translation entered in the place of one for the same page; a full set, found by the page's number, drops its oldest (R250)
(DESIGN CHOICE, log entry 5). -/
def tlbEnter (sets ways : Nat) (t : Tlb) (l : List Tlb) : List Tlb :=
  let l := l.filter fun y => ¬(y.owner = t.owner ∧ y.host = t.host ∧ y.base = t.base ∧ y.size = t.size)
  let mine := l.filter fun y => decide (y.base / y.size % sets = t.base / t.size % sets)
  (if mine.length < ways then l else match mine with
    | [] => l
    | o :: _ => l.erase o) ++ [t]

/-- Both caches with a translation entered (R250). -/
def State.cacheFill (s : State) (g : Nat) (t : Tlb) : State :=
  (s.modGlade g fun x => { x with tlb := tlbEnter 1 256 t x.tlb }).modClearing (clearingOf g) fun c => { c with tlb := tlbEnter 512 8 t c.tlb }

/-- An access served: a translation that only the clearing's cache held is a miss of the glade's (R405) and enters it (R250), and the read reaches its place
(R238, R243). -/
def State.served (s : State) (g a phys n : Nat) : State :=
  let s := match s.place g with
    | none => s
    | some p =>
      let host := bit a 55
      let owner := if host then p.vf else p.ctx
      let va := a % 2 ^ 55
      if 2 ^ 56 ≤ a ∨ (tlbFind (s.glade g).tlb owner host va).isSome then s
      else match tlbFind (s.clearing (clearingOf g)).tlb owner host va with
        | some t => (s.modGlade g fun x => { x with tlb := tlbEnter 1 256 t x.tlb }).perf g 12 1
        | none => s
  (s.hbmRead phys n).touch phys n

/-- The cache entry of a leaf. -/
def leafTlb (ctx va e : Nat) : Tlb :=
  { owner := ctx, host := false, base := va / leafSize e * leafSize e, size := leafSize e, leaf := BitVec.ofNat 64 e, wr := bit e 1 }

/-- The checks of a leaf (R435, then R249) and, unless `lax`, of the granule's owner (R241); `wload` marks a weight-load read. The answer is
the cause of the first check that fails; a weight-load read finds a foreign granule before the rest (R305). -/
def leafCheck (s : State) (ctx e va : Nat) (wr wload lax : Bool) : Option Nat :=
  match (s.job ctx).keys.find? fun k => decide (k.2.keyid = leafKey e) with
  | none => some 0x101
  | some k =>
    let foreign := !lax && decide (s.owner ((leafPa e + va % leafSize e) / 65536) ≠ some (leafKey e))
    if wload && foreign then some 0x101
    else if (decide (k.2.role = .weights)) != leafOpnd e then some 0x100
    else if wload && !leafOpnd e then some 0x0C1
    else if wr ∧ k.2.role = .save then some 0x048
    else if leafOpnd e && !wload then some 0x100
    else if wr && !bit e 1 then some 0x048
    else if foreign then some 0x101
    else none

/-- The class of an access: a plain read or write, an atomic, a weight-load read, or the write of a SEAL tile (R440). -/
inductive AccKind | rd | wr | atom | wload | seal
  deriving DecidableEq, Repr

def AccKind.writes : AccKind → Bool
  | .wr => true
  | .atom => true
  | .seal => true
  | _ => false

/-- An access delivers the bytes it finds. -/
def AccKind.reads : AccKind → Bool
  | .wr => false
  | .seal => false
  | _ => true

/-- A global address (R244 steps 6 and 8): a host address by ATS (R252), where a CONFIDENTIAL job's atomic is ATOMIC_SPACE from a woodward and WRITE_DENIED from an
AG element (R263, R440); a device address through the caches, whose misses to one page share a walk (R250). `lax` leaves out the
checks of the access itself: the granule's owner and poisoned data (R214). -/
def State.xlGlobal (s : State) (g ctx vf a n : Nat) (k : AccKind) (lax : Bool := false) : Xl :=
  if bit a 55 then
    let va := a % 2 ^ 55
    if k = .atom ∧ !(lax && (s.job ctx).confidential) then .fault 0x04A
    else if k = .wload then .fault 0x0C1
    else if k.writes && decide (k ≠ .seal) && (s.job ctx).confidential then .fault 0x048
    else match s.cached g vf true va with
      | some t => if if k.writes then t.wr else t.rd then .ok (hostAt vf + va) else .host (va / 4096)
      | none => .host (va / 4096)
  else match s.cached g ctx false a with
    | none => .walk ctx (a / 4096 * 4096)
    | some t => match leafCheck s ctx t.leaf.toNat a k.writes (decide (k = .wload)) lax with
      | some c => .fault c
      | none =>
        let phys := hbmAt + leafPa t.leaf.toNat + a % t.size
        if !lax && k.reads && s.bad phys n then .fault 0x04C else .ok phys

/-- A burrow access (R244 step 7, R417). -/
def State.xlBurrow (s : State) (g off n : Nat) (k : AccKind) (lax : Bool := false) : Xl :=
  let phys := burrowAt g (s.glade g).active + off
  if k.writes && (s.eng g).zoneHit off n then .fault 0x045
  else if !lax && k.reads && s.bad phys n then .fault 0x1C2
  else .ok phys

/-- A generic address resolved (R244): `align` is the natural alignment the access needs (R245). -/
def State.resolve (s : State) (g a n align : Nat) (k : AccKind) (lax : Bool := false) : Xl :=
  match s.place g with
  | none => if inWindow (spBase .loc) (spSize .loc) a then
      if a % align ≠ 0 then .fault 0x043 else s.xlBurrow g (a - spBase .loc) n k lax
    else if canonical a then .fault 0x041 else .fault 0x040
  | some p =>
    if inWindow (spBase .loc) (spSize .loc) a then
      if a % align ≠ 0 then .fault 0x043 else s.xlBurrow g (a - spBase .loc) n k lax
    else if inWindow (spBase .shr) (spSize .shr) a then
      let off := a - spBase .shr
      if 12582912 * (s.bands p.ctx p.die).length ≤ off then .fault 0x041
      else if a % align ≠ 0 then .fault 0x043
      else if (s.die p.die).lineReserved p.ctx (s.shrLine p.ctx p.die (off / 512)) then .fault 0x044
      else if !lax && k.reads && s.bad (s.shrPlace p.ctx p.die off) n then .fault 0x1C2
      else .ok (s.shrPlace p.ctx p.die off)
    else if inWindow (spBase .clu) (spSize .clu) a then
      let off := a - spBase .clu
      let ux := off / 2 ^ 20 % 8
      let uy := off / 2 ^ 23
      if p.w ≤ ux ∨ p.h ≤ uy then .fault 0x041
      else if p.has ux uy = false then .fault 0x042
      else if a % align ≠ 0 then .fault 0x043
      else s.xlBurrow (p.gladeAt g ux uy) (off % 2 ^ 20) n k lax
    else if 2 ^ 56 ≤ a then .fault 0x040
    else if a % align ≠ 0 then .fault 0x043
    else s.xlGlobal g p.ctx p.vf a n k lax

/-- The walks of the glades of a die that a walk has ended with its own (R250), those that `hit` names: the leaf enters the caches of each glade that waits, or each finds the
fault. -/
def State.joinWalks (s : State) (g : Nat) (hit : Walk → Bool) (r : Except Nat Tlb) : State :=
  (s.glades.filter fun y => decide (dieOf y.1 = dieOf g) && y.2.walks.any hit).foldl (fun s y =>
    let s := s.modGlade y.1 fun x => { x with walks := x.walks.filter fun w => !hit w }
    match r with
    | .ok t => s.cacheFill y.1 t
    | .error c => s.modGlade y.1 fun x => { x with walkFaults := x.walkFaults ++ (y.2.walks.filter hit).map fun w => (w.ctx, w.va, c) }) s

/-- A walk carried out for a glade (R250): a leaf enters the caches, a fault does not; the misses of the die to the same page end with it. Its reads reach HBM
(R243). -/
def State.fillWalk (s : State) (g ctx va : Nat) : State × Option Nat :=
  let r := s.walkAll ctx va
  let s := r.2.foldl (fun s a => s.hbmRead (hbmAt + a) 8) (s.perf g 13 1)
  match r.1 with
  | .fault c => (s.joinWalks g (fun w => decide (w.ctx = ctx ∧ w.va = va)) (.error c), some c)
  | .leaf e =>
    let t := leafTlb ctx va e
    ((s.joinWalks g (fun w => decide (w.ctx = ctx ∧ t.base ≤ w.va ∧ w.va < t.base + t.size)) (.ok t)).cacheFill g t, none)

/-- A generic address resolved by an engine or a walker: its walk is carried out at once (R250), unless a sector it reads is held (R263). -/
def State.resolveNow (s : State) (g a n align : Nat) (k : AccKind) (lax : Bool := false) : State × Xl :=
  match s.resolve g a n align k lax with
  | .walk ctx va =>
    if s.walkHeld ctx va then (s, .walk ctx va)
    else match (s.perf g 12 1).fillWalk g ctx va with
      | (s, some c) => (s, .fault c)
      | (s, none) => (s, s.resolve g a n align k lax)
  | x => (s, x)

/-! ## Host pages (R252, R253, R317) -/

/-- The first page of a list that meets a test changed, or removed. -/
def modFirst (p : HostPage → Bool) (f : HostPage → Option HostPage) : List HostPage → List HostPage
  | [] => []
  | h :: t => if p h then (match f h with
      | some y => y :: t
      | none => t) else h :: modFirst p f t

/-- A page serves LD.T, which makes no page request (R260); the accesses of other instructions do not share it. -/
def HostPage.light (h : HostPage) : Bool := h.waiters.any fun w => decide (w.agent = 4)

/-- An access needs a host page for a read or a write: it waits already, joins the accesses whose first ATS request of that kind is on its way, or sends one
of its own (R252, R253). -/
def State.needPage (s : State) (vf page : Nat) (wr : Bool) (w : Waiter) : State :=
  let mine (h : HostPage) : Bool := decide (h.page = page ∧ h.wr = wr ∧ h.wait ≠ .failed)
  let joins (h : HostPage) : Bool := mine h && decide (h.wait = .ats false) && h.light == decide (w.agent = 4)
  let f := s.fn vf
  if f.pages.any fun h => mine h && decide (w ∈ h.waiters) then s
  else if f.pages.any joins then s.modFn vf fun f => { f with pages := modFirst joins (fun h => some { h with waiters := h.waiters ++ [w] }) f.pages }
  else (s.modFn vf fun f => { f with pages := f.pages ++ [⟨page, wr, .ats false, [w]⟩] }).request vf (.ats page wr)

/-- Whether the page an access waits for has failed (R253). -/
def State.pageFailed (s : State) (vf page : Nat) (w : Waiter) : Bool :=
  (s.fn vf).pages.any fun h => decide (h.page = page ∧ h.wait = .failed) && decide (w ∈ h.waiters)

/-- A waiter of a failed page leaves it; the page is forgotten with its last waiter (R253). -/
def State.leavePage (s : State) (vf page : Nat) (w : Waiter) : State :=
  s.modFn vf fun f => { f with pages := (f.pages.map fun h =>
    if h.page = page then { h with waiters := h.waiters.filter (· ≠ w) } else h).filter fun h => ¬(h.wait = .failed ∧ h.waiters = []) }

end Sys2Proof.Machine
end

