-- ==== Sys2Proof/Machine/Issue.lean ====
section
/-! DEFINITION. How an instruction of a block in flight issues, delivers and faults (R114, R115, R145, R146), the commit frontier (R267), and the
accesses of a block (R257, R258, R263). -/

namespace Sys2Proof.Machine

/-! ## Fields of a block (R111, R114) -/

def Block.icount (b : Block) : Nat := bits b.h1.toNat 6 0
def Block.socount (b : Block) : Nat := bits b.h1.toNat 14 7
def Block.qmask (b : Block) : Nat := bits b.h1.toNat 30 15
def Block.atomic (b : Block) : Bool := b.h1.getLsbD 39
def Block.word (b : Block) (i : Nat) : Word := (b.words[i]?).getD 0
/-- Fall-through address (R110). -/
def Block.fall (b : Block) : Nat := (b.addr + 16 + 8 * b.words.length + 63) / 64 * 64

/-- The slots L and R an opcode takes, by its word (R117); R of an order only where its timed bit is set. -/
def wordSlots (w : Word) : Bool × Bool :=
  let op := wordOpcode w
  let timed := w.getLsbD 29
  if op ∈ [0x002, 0x00F, 0x014, 0x015, 0x016, 0x01B, 0x01C, 0x01D, 0x020, 0x043, 0x049, 0x04A, 0x051, 0x053, 0x080, 0x081, 0x082, 0x083, 0x088,
      0x08A, 0x08B, 0x08C, 0x0C0, 0x101, 0x104, 0x105, 0x106, 0x108, 0x10A, 0x10B, 0x10D, 0x110, 0x115, 0x116, 0x119, 0x11A, 0x11B, 0x141, 0x142,
      0x148, 0x14B, 0x152, 0x158, 0x159, 0x15A, 0x183, 0x186] then (true, false)
  else if op ∈ [0x01F, 0x048, 0x04B, 0x04C, 0x050, 0x052, 0x054, 0x055, 0x084, 0x095, 0x0C1, 0x0C2, 0x140, 0x180, 0x181, 0x182, 0x184, 0x185, 0x187] then (false, false)
  else if 0x0C8 ≤ op ∧ op ≤ 0x0CF ∨ op = 0x0D2 then (true, timed)
  else if op = 0x0D0 ∨ op = 0x0D1 ∨ op = 0x0D3 then (false, timed)
  else (true, true)

/-- Whether an opcode's output contains a value, and a token (R117). -/
def opOut (op : Nat) : Bool × Bool :=
  if op ≤ 0x048 ∨ op = 0x04A ∨ 0x080 ≤ op ∧ op ≤ 0x084 then (op ≠ 0x049, false)
  else if op = 0x04B ∨ op = 0x089 ∨ op = 0x08A ∨ op = 0x08B ∨ op = 0x08C ∨ op = 0x095 then (false, true)
  else if op = 0x088 ∨ 0x090 ≤ op ∧ op ≤ 0x094 then (true, true)
  else if op = 0x0C2 then (true, false)
  else if 0x0C8 ≤ op ∧ op ≤ 0x0D3 then (false, true)
  else if 0x100 ≤ op ∧ op ≤ 0x11B then (true, true)
  else if 0x140 ≤ op ∧ op ≤ 0x149 then (true, false)
  else if op = 0x14A ∨ op = 0x158 ∨ op = 0x186 then (true, true)
  else if op = 0x14B ∨ 0x150 ≤ op ∧ op ≤ 0x152 ∨ op = 0x183 ∨ op = 0x185 then (false, true)
  else if op = 0x159 ∨ op = 0x15A ∨ op = 0x182 ∨ op = 0x184 ∨ op = 0x187 then (true, false)
  else (false, false)

/-- The branch-class instructions (R170). -/
def isBranch (op : Nat) : Bool := (0x050 ≤ op && op ≤ 0x055) || op = 0x180 || op = 0x181

/-- The valid targets of a word (R114). -/
def wordTargets (w : Word) : List Target :=
  ((decodeTarget (w.extractLsb' 40 10)).getD none).toList ++ ((decodeTarget (w.extractLsb' 30 10)).getD none).toList

/-- The valid targets of an instruction. -/
def hdrTargets (h : Hdr) : List Target := h.ta.toList ++ h.tb.toList

/-- How many valid targets of a word name slot `sl` of instruction `i`. -/
def namesSlot (w : Word) (sl : Slot) (i : Nat) : Nat := ((wordTargets w).filter fun t => decide (t.slot = sl ∧ t.index.toNat = i)).length

/-- How many targets of the block name a slot of an instruction (R115). -/
def Block.named (b : Block) (sl : Slot) (i : Nat) : Nat := (b.words.map fun w => namesSlot w sl i).sum

/-- The predicate operand of an instruction, once it is known (R115): bit 0 of slot Q where the block targets it, else the predicate at
fetch. -/
def Block.predicate (b : Block) (i : Nat) (pred : BitVec 4) : Option Bool :=
  if b.named .q i = 0 then some (b.qf.getLsbD pred.toNat) else (nfind b.opQ i).map (·.getLsbD 0)

/-- Predicate field and sense of a word. -/
def wordPred (w : Word) : BitVec 4 := w.extractLsb' 51 4
def wordSense (w : Word) : Bool := w.getLsbD 50

/-- The predicate operand of an instruction failed the required sense (R145). SEL is never gated (R164). -/
def Block.isOff (b : Block) (i : Nat) : Bool :=
  let w := b.word i
  if wordOpcode w = 0x021 then false else b.predicate i (wordPred w) = some (wordSense w)

/-- The states of an instruction of a block (R145). -/
inductive IStat | exec | off | dead | live
  deriving DecidableEq, Repr

/-- Whether every producer of a slot is settled without having delivered (R145): `st` are the states of the instructions before it. -/
def starved (ws : List Word) (st : List IStat) (sl : Slot) (i : Nat) : Bool :=
  (ws.zip st).all fun p => decide (namesSlot p.1 sl i = 0) || decide (p.2 ≠ .live)

/-- Whether a producer of an O token of an instruction is settled without having delivered it (R115, R145); one such producer is enough (DESIGN
CHOICE, log entry 91). -/
def tokenLost (ws : List Word) (st : List IStat) (i : Nat) : Bool :=
  (ws.zip st).any fun p => decide (namesSlot p.1 .o i ≠ 0) && (decide (p.2 = .off) || decide (p.2 = .dead))

/-- The state of one instruction, given those of the instructions before it (R145). -/
def Block.stat (b : Block) (st : List IStat) (i : Nat) : IStat :=
  let w := b.word i
  if i ∈ b.done then .exec
  else if b.isOff i then .off
  else
    let sl := wordSlots w
    let noL := sl.1 && (nfind b.opL i).isNone && starved b.words st .l i
    let noR := sl.2 && (nfind b.opR i).isNone && starved b.words st .r i
    let noQ := decide (b.named .q i ≠ 0) && (nfind b.opQ i).isNone && starved b.words st .q i
    if noL || noR || noQ || tokenLost b.words st i then .dead else .live

/-- The states of the first `n` instructions. -/
def Block.stats (b : Block) : Nat → List IStat
  | 0 => []
  | n + 1 => let st := b.stats n; st ++ [b.stat st n]

/-- A block is quiescent when every instruction is settled (R145). -/
def Block.quiescent (b : Block) : Bool := (b.stats b.words.length).all fun x => decide (x ≠ .live)

/-- The operands of an instruction of the block, if it holds all it needs to issue (R115): not executed yet, predicate operand agreeing, slots L
and R as it takes them, one token for each target that names its slot O. -/
def Block.issue (b : Block) (i : Nat) (pred : BitVec 4) (sense nl nr : Bool) : Option (Word × Word) :=
  if i ∈ b.done then none
  else if b.predicate i pred ≠ some (!sense) then none
  else if nget 0 b.toks i < b.named .o i then none
  else match nl, nfind b.opL i, nr, nfind b.opR i with
    | true, none, _, _ => none
    | _, _, true, none => none
    | _, l, _, r => some (l.getD 0, r.getD 0)

/-! ## The commit frontier (R267) -/

/-- The lower bound on the keys a woodward may still commit lets a key through (R267). -/
def Woodward.lets (w : Woodward) (h ts g : Nat) : Bool :=
  if w.halted then true
  else match w.block with
    | some b => keyBefore ts g b.ts h
    | none => if w.atMark then true else keyBefore ts g (w.lastTs.getD 0) h

/-- Whether the block of a glade is at the commit frontier of its launch (R267). -/
def State.frontier (s : State) (g : Nat) : Bool :=
  match s.place g, s.block g with
  | some p, some b => (s.launchGlades p.die p.launch).all fun h => decide (h = g) || (s.ww h).lets h b.ts g
  | _, _ => true

/-! ## Issue and delivery -/

/-- An instruction that issues: glade, index, its block, and its L and R values. -/
structure Fx where
  g : Nat
  i : Nat
  b : Block
  l : Word
  r : Word
  deriving DecidableEq, Repr

/-- The instruction in focus, if it issues (R115); a block with the atomic flag executes only at the commit frontier (R267). -/
def State.fx (s : State) (h : Hdr) (nl nr : Bool) : Option Fx :=
  match s.block s.focus.glade with
  | none => none
  | some b =>
    if b.atomic && !s.frontier s.focus.glade then none
    else (b.issue s.focus.idx h.pred h.sense nl nr).map fun o => ⟨s.focus.glade, s.focus.idx, b, o.1, o.2⟩

/-- The woodward of an issuing instruction. -/
def State.wwOf (s : State) (x : Fx) : Woodward := s.ww x.g

/-- TRAP.VALUE of OPERAND_TWICE (R147). -/
def twiceValue (t : Target) (i : Nat) : Nat := t.index.toNat + 128 * t.slot.code.toNat + 512 * i

/-- A value or token delivered to targets; the TRAP.VALUE of OPERAND_TWICE where a slot already holds a value (R115). -/
def deliverAll (i : Nat) (v : Word) : List Target → Block → Except Nat Block
  | [], b => .ok b
  | t :: ts, b =>
    let k := t.index.toNat
    match t.slot with
    | .l => if (nfind b.opL k).isSome then .error (twiceValue t i) else deliverAll i v ts { b with opL := nset b.opL k v }
    | .r => if (nfind b.opR k).isSome then .error (twiceValue t i) else deliverAll i v ts { b with opR := nset b.opR k v }
    | .q => if (nfind b.opQ k).isSome then .error (twiceValue t i) else deliverAll i v ts { b with opQ := nset b.opQ k v }
    | .o => deliverAll i v ts { b with toks := nmod 0 b.toks k (· + 1) }

/-- An instruction has executed: it counts its effects (R112, R146), and its value and token go to its targets (R114). `f` is what it
leaves in its block. -/
def State.finish (s : State) (x : Fx) (h : Hdr) (v : Word) (eff : Nat) (f : Block → Block) : Outcome :=
  let b := f { x.b with done := x.b.done ++ [x.i], effects := x.b.effects + eff }
  if b.socount < b.effects then .next (s.blockFault x.g 0x009 (b.effects + 256 * b.socount))
  else match deliverAll x.i v (hdrTargets h) b with
    | .error c => .next (s.blockFault x.g 0x006 c)
    | .ok b => .next (s.modWw x.g fun w => { w with block := some b })

/-- A commit action added to a block. -/
def Block.addPend (b : Block) (i : Nat) (p : Pend) : Block := { b with pend := b.pend ++ [(i, p)] }

/-- An instruction that only computes a value from L and R. -/
def alu2 (h : Hdr) (s : State) (f : Word → Word → Word) : Outcome :=
  match s.fx h true true with
  | none => .next s
  | some x => s.finish x h (f x.l x.r) 0 id

/-- An instruction that only computes a value from L. -/
def alu1 (h : Hdr) (s : State) (f : Word → Word) : Outcome :=
  match s.fx h true false with
  | none => .next s
  | some x => s.finish x h (f x.l) 0 id

/-- An instruction that only delivers a value, with no operand. -/
def alu0 (h : Hdr) (s : State) (f : Woodward → Word) : Outcome :=
  match s.fx h false false with
  | none => .next s
  | some x => s.finish x h (f (s.ww x.g)) 0 id

/-- An instruction that must wait keeps its operands and is tried again after the others of its block (R158). -/
def State.stall (s : State) (x : Fx) : State :=
  s.modBlock x.g fun b => { b with stalled := if x.i ∈ b.stalled then b.stalled else b.stalled ++ [x.i] }

/-- A fault of the issuing instruction's block (R146). -/
def State.stop (s : State) (x : Fx) (cause value : Nat) : Outcome := .next (s.blockFault x.g cause value)

/-- A fault of the issuing instruction's block whose TRAP.VALUE no rule states (DESIGN CHOICE, log entry 2). -/
def State.stopOpen (s : State) (x : Fx) (cause : Nat) : Outcome := .next (s.openFault x.g cause)

/-- TRAP.VALUE of FRONTIER_REQUIRED and BRANCH_TWICE (R147). -/
def Fx.opValue (x : Fx) : Nat := x.i + 128 * wordOpcode (x.b.word x.i)

/-- A frontier-only instruction executes only in a block whose atomic flag is set (R186, R262, R319). -/
def State.frontierOnly (s : State) (x : Fx) (k : Outcome) : Outcome :=
  if x.b.atomic then k else s.stop x 0x012 x.opValue

/-! ## Accesses of a block (R256 to R263) -/

/-- The instructions reachable by targets from those listed, among indices above `i`. -/
def reachFrom (ws : List Word) (n : Nat) : Nat → List Nat → List Nat
  | 0, acc => acc
  | k + 1, acc =>
    let j := n - (k + 1)
    let acc := if j ∈ acc then acc ++ ((wordTargets ((ws[j]?).getD 0)).map fun t => t.index.toNat) else acc
    reachFrom ws n k acc

/-- Access `y` is after access `x` of the block: a chain of targets leads from the completion token of `x` to the slot O of `y` (R257). -/
def Block.after (b : Block) (x y : Nat) : Bool :=
  let first := ((wordTargets (b.word x)).filter fun t => decide (t.slot = .o)).map fun t => t.index.toNat
  let mid := reachFrom b.words b.words.length b.words.length first
  decide (y ∈ first) || mid.any fun j => decide (namesSlot (b.word j) .o y ≠ 0)

/-- Instruction `y` follows `x` by edges of any kind (R275). -/
def Block.follows (b : Block) (x y : Nat) : Bool :=
  decide (y ∈ reachFrom b.words b.words.length b.words.length ((wordTargets (b.word x)).map fun t => t.index.toNat))

/-- Whether a glade is in the instance of a scope of another (R266); the glades of other packages make no access here. -/
def State.inScope (s : State) (sc : Scope) (g h : Nat) : Bool :=
  match sc with
  | .glade => decide (g = h)
  | .unit => (s.unitGlades g).contains h
  | .die => decide (dieOf g = dieOf h)
  | .pkg => true
  | .canopy => true

/-- The releases whose sequences the value at a place belongs to (R273). -/
def State.heads (s : State) (phys n : Nat) : List Rel :=
  ((List.range (n / 4)).flatMap fun i => nget [] s.rels (phys / 4 + i)).eraseDups

/-- The releases among some that a glade's read can synchronize with on the release's side (R271). -/
def State.reach (s : State) (g : Nat) (l : List Rel) : List Rel := l.filter fun r => s.inScope r.scope r.glade g

/-- A miss of a glade (R250, R405): a walk for its page, unless the same page's is already in progress; a 17th waits. -/
def State.startWalk (s : State) (g ctx va : Nat) : State :=
  if ⟨ctx, va⟩ ∈ (s.glade g).walks ∨ 16 ≤ (s.glade g).walks.length then s
  else (s.modGlade g fun x => { x with walks := x.walks ++ [⟨ctx, va⟩] }).perf g 12 1

/-- What came of an access the instruction in focus tries: a physical place, or the state in which it has faulted or still waits. -/
inductive Try
  | at_ (phys : Nat)
  | stop (s : State)

/-- One access of the issuing instruction (R244, R250, R252, R263): `a` is its generic address. -/
def State.try_ (s : State) (x : Fx) (a n align : Nat) (k : AccKind) : Try :=
  match s.resolve x.g a n align k with
  | .ok phys => if s.heldSector x.g phys then .stop (s.stall x) else .at_ phys
  | .fault c => .stop (s.blockFault x.g c a)
  | .walk ctx va => match (s.glade x.g).walkFaults.find? fun f => decide (f.1 = ctx ∧ f.2.1 = va) with
    | some f => .stop ((s.modGlade x.g fun y => { y with walkFaults := y.walkFaults.filter (· ≠ f) }).blockFault x.g f.2.2 a)
    | none => .stop ((s.startWalk x.g ctx va).stall x)
  | .host page =>
    let vf := ((s.place x.g).map (·.vf)).getD 0
    let w : Waiter := ⟨0, x.g, x.i⟩
    if s.pageFailed vf page w then .stop ((s.leavePage vf page w).blockFault x.g 0x049 a)
    else .stop ((s.needPage vf page k.writes w).stall x)

/-- Bytes a block reads at a place: memory, with the block's own stores the access is after (R257). -/
def overlay (b : Block) (i phys : Nat) : List BStore → List Byte → List Byte
  | [], bs => bs
  | t :: ts, bs =>
    overlay b i phys ts (if b.after t.idx i then
      (bs.zipIdx.map fun p => if t.phys ≤ phys + p.2 ∧ phys + p.2 < t.phys + t.bytes.length then (t.bytes[phys + p.2 - t.phys]?).getD 0 else p.1)
      else bs)

/-- What a load of a block is after: the tasks before it, and what the instructions it follows by edges have acquired (R275). -/
def State.loadPts (s : State) (x : Fx) : List Point :=
  s.taskPt x.g :: (x.b.pend.filter fun p => decide (p.2 = .acquire) && x.b.follows p.1 x.i).map fun p => .acq x.g p.1

/-- The bytes a block's load returns: memory as its task finds it (R10, R272, R275, R277), under the block's own ordered stores (R257). -/
def State.loadBytes (s : State) (x : Fx) (phys n : Nat) : List Byte :=
  overlay x.b x.i phys x.b.stores (s.view x.g (·.meets (s.loadPts x)) phys n)

/-- What the issuing instruction acquires with the value it delivers (R275). -/
def State.acquire (s : State) (x : Fx) (from_ : List Point) : State := s.flow from_ (.acq x.g x.i)

/-- The sectors of a range. -/
def sectors (phys n : Nat) : List Sect := (List.range ((phys % 128 + n + 127) / 128)).map fun k => .mem (phys / 128 + k)

/-- A block whose read set has gained sectors (R257). -/
def Block.read (b : Block) (l : List Sect) : Block := { b with reads := b.reads ++ l.filter fun x => decide (x ∉ b.reads) }

/-- The lower address of two unordered writes of the block to a common byte (R257). -/
def Block.conflict (b : Block) (i gaddr phys n : Nat) : Option Nat :=
  (b.stores.find? fun t => decide (t.idx ≠ i) && decide (t.phys < phys + n ∧ phys < t.phys + t.bytes.length)
    && !b.after t.idx i && !b.after i t.idx).map fun t => min t.gaddr gaddr

/-- A buffered write (R257). -/
def Block.store (b : Block) (t : BStore) : Block := { b with stores := b.stores ++ [t] }

end Sys2Proof.Machine
end

