-- ==== Sys2Proof/Machine/Integer.lean ====
section
/-! DEFINITION. The meanings of the integer, logic, compare, modular, dataflow and address instructions (R160 to R169, R175, R176). -/

namespace Sys2Proof.Machine

/-! ## Integer and logic (R160 to R164) -/

/-- ADD: L + R modulo 2^64 (R160). -/
def execAdd (h : Hdr) (s : State) : Outcome := alu2 h s (fun l r => l + r)

/-- SUB: L − R (R160). -/
def execSub (h : Hdr) (s : State) : Outcome := alu2 h s (fun l r => l - r)

/-- MUL: the low half of L × R (R160). -/
def execMul (h : Hdr) (s : State) : Outcome := alu2 h s (fun l r => l * r)

/-- MULH.S: the signed high half of L × R (R160). -/
def execMulhS (h : Hdr) (s : State) : Outcome := alu2 h s (mulhS)

/-- MULH.Z: the unsigned high half of L × R (R160). -/
def execMulhZ (h : Hdr) (s : State) : Outcome := alu2 h s (mulhZ)

/-- DIV.S: the quotient truncated toward zero; −1 for a zero divisor (R161). -/
def execDivS (h : Hdr) (s : State) : Outcome := alu2 h s (divS)

/-- DIV.Z: the unsigned quotient; all ones for a zero divisor (R161). -/
def execDivZ (h : Hdr) (s : State) : Outcome := alu2 h s (divZ)

/-- REM.S: the remainder with the sign of L; L for a zero divisor (R161). -/
def execRemS (h : Hdr) (s : State) : Outcome := alu2 h s (remS)

/-- REM.Z: the unsigned remainder; L for a zero divisor (R161). -/
def execRemZ (h : Hdr) (s : State) : Outcome := alu2 h s (remZ)

/-- AND (R160). -/
def execAnd (h : Hdr) (s : State) : Outcome := alu2 h s (fun l r => l &&& r)

/-- OR (R160). -/
def execOr (h : Hdr) (s : State) : Outcome := alu2 h s (fun l r => l ||| r)

/-- XOR (R160). -/
def execXor (h : Hdr) (s : State) : Outcome := alu2 h s (fun l r => l ^^^ r)

/-- ANDN: L AND NOT R (R160). -/
def execAndn (h : Hdr) (s : State) : Outcome := alu2 h s (fun l r => l &&& ~~~r)

/-- NOT (R162). -/
def execNot (h : Hdr) (s : State) : Outcome := alu1 h s (fun l => ~~~l)

/-- SHL: L shifted left by R[5:0] (R160). -/
def execShl (h : Hdr) (s : State) : Outcome := alu2 h s shlW

/-- SHR: L shifted right by R[5:0], zero fill (R160). -/
def execShr (h : Hdr) (s : State) : Outcome := alu2 h s shrW

/-- SAR: L shifted right by R[5:0], sign fill (R160). -/
def execSar (h : Hdr) (s : State) : Outcome := alu2 h s sarW

/-- ROL: L rotated left by R[5:0] (R160). -/
def execRol (h : Hdr) (s : State) : Outcome := alu2 h s rolW

/-- CLZ: leading zero bits of L, 64 for 0 (R162). -/
def execClz (h : Hdr) (s : State) : Outcome := alu1 h s clzW

/-- CTZ: trailing zero bits of L, 64 for 0 (R162). -/
def execCtz (h : Hdr) (s : State) : Outcome := alu1 h s ctzW

/-- POPC: the number of 1 bits of L (R162). -/
def execPopc (h : Hdr) (s : State) : Outcome := alu1 h s popcW

/-- MIN.S (R160). -/
def execMinS (h : Hdr) (s : State) : Outcome := alu2 h s minS

/-- MIN.Z (R160). -/
def execMinZ (h : Hdr) (s : State) : Outcome := alu2 h s minZ

/-- MAX.S (R160). -/
def execMaxS (h : Hdr) (s : State) : Outcome := alu2 h s maxS

/-- MAX.Z (R160). -/
def execMaxZ (h : Hdr) (s : State) : Outcome := alu2 h s maxZ

/-- SEXT: the low 8, 16 or 32 bits of L sign-extended (R162). -/
def execSext (h : Hdr) (w : Width) (s : State) : Outcome := alu1 h s (sextW w)

/-- ZEXT: the low 8, 16 or 32 bits of L zero-extended (R162). -/
def execZext (h : Hdr) (w : Width) (s : State) : Outcome := alu1 h s (zextW w)

/-- BEXT: the field of len bits at pos of L (R162). -/
def execBext (h : Hdr) (pos len1 : BitVec 6) (s : State) : Outcome := alu1 h s (bextW pos len1)

/-- BINS: L with the field at pos replaced by the low bits of R (R162). -/
def execBins (h : Hdr) (pos len1 : BitVec 6) (s : State) : Outcome := alu2 h s (binsW pos len1)

/-- MOVI: the sign-extended immediate (R163). -/
def execMovi (h : Hdr) (imm : BitVec 30) (s : State) : Outcome := alu0 h s fun _ => immI imm

/-- MOVHI: L with one 16-bit lane replaced (R163). -/
def execMovhi (h : Hdr) (lane : BitVec 2) (imm : BitVec 16) (s : State) : Outcome := alu1 h s (movhiW lane imm)

/-- ADDI: L plus the sign-extended immediate (R117, R160). -/
def execAddi (h : Hdr) (imm : BitVec 30) (s : State) : Outcome := alu1 h s fun l => l + immI imm

/-- The operands of SEL (R164): it is never gated; its selector is the predicate operand. -/
def State.fxSel (s : State) (h : Hdr) : Option (Fx × Bool) :=
  match s.block s.focus.glade with
  | none => none
  | some b => match b.predicate s.focus.idx h.pred with
    | none => none
    | some q => (s.fx { h with sense := !q } true true).map fun x => (x, q)

/-- SEL: L where the selector is 1, else R (R164). -/
def execSel (h : Hdr) (s : State) : Outcome :=
  match s.fxSel h with
  | none => .next s
  | some (x, q) => s.finish x h (if q then x.l else x.r) 0 id

/-! ## Compare and predicate (R165) -/

/-- A compare-class instruction (R165): its bit as a value, and as the new value of a predicate where its write bit is set. A second executed
writer of one predicate faults (R146). -/
def compare (h : Hdr) (wr : Bool) (qi : BitVec 4) (s : State) (f : Word → Word → Bool) : Outcome :=
  match s.fx h true true with
  | none => .next s
  | some x =>
    let v := f x.l x.r
    if wr = true ∧ (nfind x.b.qw qi.toNat).isSome then s.stop x 0x008 (x.i + 256 * qi.toNat + 16384)
    else s.finish x h (b2w v) 0 fun b => if wr then { b with qw := nset b.qw qi.toNat v } else b

/-- CMP.EQ: L = R (R165). -/
def execCmpEq (h : Hdr) (wr : Bool) (qi : BitVec 4) (s : State) : Outcome := compare h wr qi s cmpEqB

/-- CMP.NE: L ≠ R (R165). -/
def execCmpNe (h : Hdr) (wr : Bool) (qi : BitVec 4) (s : State) : Outcome := compare h wr qi s cmpNeB

/-- CMP.LT.S: signed L < R (R165). -/
def execCmpLtS (h : Hdr) (wr : Bool) (qi : BitVec 4) (s : State) : Outcome := compare h wr qi s cmpLtSB

/-- CMP.LT.Z: unsigned L < R (R165). -/
def execCmpLtZ (h : Hdr) (wr : Bool) (qi : BitVec 4) (s : State) : Outcome := compare h wr qi s cmpLtZB

/-- CMP.LE.S: signed L ≤ R (R165). -/
def execCmpLeS (h : Hdr) (wr : Bool) (qi : BitVec 4) (s : State) : Outcome := compare h wr qi s cmpLeSB

/-- CMP.LE.Z: unsigned L ≤ R (R165). -/
def execCmpLeZ (h : Hdr) (wr : Bool) (qi : BitVec 4) (s : State) : Outcome := compare h wr qi s cmpLeZB

/-- TEST: (L AND R) ≠ 0 (R165). -/
def execTest (h : Hdr) (wr : Bool) (qi : BitVec 4) (s : State) : Outcome := compare h wr qi s testB

/-- QAND: L[0] AND R[0] (R165). -/
def execQand (h : Hdr) (wr : Bool) (qi : BitVec 4) (s : State) : Outcome := compare h wr qi s qandB

/-- QOR: L[0] OR R[0] (R165). -/
def execQor (h : Hdr) (wr : Bool) (qi : BitVec 4) (s : State) : Outcome := compare h wr qi s qorB

/-! ## Modular (R166) -/

/-- The modulus of a register, if MQSTAT holds it valid (R152, R166). -/
def Woodward.modulus (w : Woodward) (m : Nat) : Option Nat := if w.mqstat.getLsbD m then some (nget 0 w.mqQ m).toNat else none

/-- A modular instruction (R166): exact arithmetic reduced into [0, q), or MODULUS_INVALID. -/
def modular (h : Hdr) (m : BitVec 4) (nr : Bool) (s : State) (f : Word → Word → Int) : Outcome :=
  match s.fx h true nr with
  | none => .next s
  | some x => match (s.ww x.g).modulus m.toNat with
    | none => s.stop x 0x015 m.toNat
    | some q => s.finish x h (BitVec.ofNat 64 ((f x.l x.r % (q : Int)).toNat)) 0 id

/-- MADD.M: (L + R) mod q (R166). -/
def execMaddM (h : Hdr) (m : BitVec 4) (s : State) : Outcome := modular h m true s fun l r => (l.toNat : Int) + r.toNat

/-- MSUB.M: (L − R) mod q (R166). -/
def execMsubM (h : Hdr) (m : BitVec 4) (s : State) : Outcome := modular h m true s fun l r => (l.toNat : Int) - r.toNat

/-- MMUL.M: (L × R) mod q (R166). -/
def execMmulM (h : Hdr) (m : BitVec 4) (s : State) : Outcome := modular h m true s fun l r => (l.toNat : Int) * r.toNat

/-- MRED: L mod q (R166). -/
def execMred (h : Hdr) (m : BitVec 4) (s : State) : Outcome := modular h m false s fun l _ => (l.toNat : Int)

/-! ## Dataflow plumbing (R167 to R169) -/

/-- RDG: the sequential value of a general register (R144, R167). -/
def execRdg (h : Hdr) (g : BitVec 6) (s : State) : Outcome := alu0 h s fun w => w.reg g.toNat

/-- The registers the executed GLOADs of a block write (R144, R261). -/
def Block.loaded (b : Block) : List Nat := b.pend.flatMap fun p => match p.2 with
  | .gload ws => ws.map (·.1)
  | _ => []

/-- A general register is resolved, with a value or as unchanged (R167, R168); a second writer faults (R144, R146). -/
def resolveReg (h : Hdr) (g : Nat) (x : Fx) (v : Option Word) (s : State) : Outcome :=
  if (nfind x.b.gw g).isSome then s.stop x 0x008 (x.i + 256 * g)
  else if g ∈ x.b.loaded then s.stop x 0x008 (x.i + 256 * g + 32768)
  else s.finish x h 0 0 fun b => { b with gw := nset b.gw g v }

/-- WRG: the register takes L at commit (R167). -/
def execWrg (h : Hdr) (g : BitVec 6) (s : State) : Outcome :=
  match s.fx h true false with
  | none => .next s
  | some x => resolveReg h g.toNat x (some x.l) s

/-- MOV: L unchanged (R167). -/
def execMov (h : Hdr) (s : State) : Outcome := alu1 h s id

/-- NULL n: counts as n effects (R168). -/
def execNullEffect (h : Hdr) (n : BitVec 8) (s : State) : Outcome :=
  match s.fx h false false with
  | none => .next s
  | some x => s.finish x h 0 n.toNat id

/-- NULL g: the register is resolved as unchanged (R168) (DEDUCED, log entry 51). -/
def execNullReg (h : Hdr) (g : BitVec 6) (s : State) : Outcome :=
  match s.fx h false false with
  | none => .next s
  | some x => resolveReg h g.toNat x none s

/-- LAND: no effect (R169). -/
def execLand (h : Hdr) (_num : BitVec 12) (s : State) : Outcome := alu0 h s fun _ => 0

/-! ## Address conversion (R175, R176) -/

/-- CVTA.TO (R176). -/
def execCvtaTo (h : Hdr) (sp : Space) (s : State) : Outcome := alu1 h s (cvtaTo sp)

/-- CVTA.FROM (R176). -/
def execCvtaFrom (h : Hdr) (sp : Space) (s : State) : Outcome := alu1 h s (cvtaFrom sp)

/-- ISSPACE (R176). -/
def execIsspace (h : Hdr) (sp : Space) (s : State) : Outcome := alu1 h s (isSpace sp)

/-- LEA (R176). -/
def execLea (h : Hdr) (sp : Space) (off : BitVec 23) (s : State) : Outcome := alu1 h s (leaW sp off)

/-- APERQ (R176). -/
def execAperq (h : Hdr) (sp : Space) (s : State) : Outcome := alu0 h s fun _ => aperq sp

end Sys2Proof.Machine
end

