-- ==== Sys2Proof/Machine/Memory.lean ====
section
/-! DEFINITION. The meanings of the memory instructions (R256 to R264). -/

namespace Sys2Proof.Machine

/-- The generic address of an L-class access (R256): as LEA computes it. -/
def addrL (sp : Space) (off : BitVec 23) (l : Word) : Nat := (leaW sp off l).toNat

/-- The generic address of a V-class access (R256). -/
def addrV (sp : Space) (off : BitVec 17) (l : Word) : Nat := (cvtaFrom sp (l + offV off)).toNat

/-- LD (R259). -/
def execLd (h : Hdr) (ty : MemType) (sp : Space) (off : BitVec 23) (s : State) : Outcome :=
  match s.fx h true false with
  | none => .next s
  | some x =>
    let n := mtBytes ty
    match s.try_ x (addrL sp off x.l) n n .rd with
    | .stop s => .next s
    | .at_ phys => (s.served x.g (addrL sp off x.l) phys n).finish x h (loadExt ty (ofBytes (s.loadBytes x phys n))) 1 fun b => b.read (sectors phys n)

/-- ST (R259): the bytes are buffered and written at commit. -/
def execSt (h : Hdr) (ty : MemType) (sp : Space) (off : BitVec 23) (s : State) : Outcome :=
  match s.fx h true true with
  | none => .next s
  | some x =>
    let n := mtBytes ty
    let a := addrL sp off x.l
    match s.try_ x a n n .wr with
    | .stop s => .next s
    | .at_ phys => match x.b.conflict x.i a phys n with
      | some v => s.stop x 0x04B v
      | none => (s.served x.g a phys 0).finish x h 0 1 fun b => b.store ⟨x.i, a, phys, toBytes n x.r.toNat, false, []⟩

/-- LD.T: warms the translation caches and the read set where every check of a one-byte read passes, and never faults (R260); it waits for the walk or the ATS
request that its check needs, without a page request (DEDUCED, log entry 50). -/
def execLdT (h : Hdr) (sp : Space) (off : BitVec 23) (s : State) : Outcome :=
  match s.fx h true false with
  | none => .next s
  | some x =>
    match s.resolveNow x.g (addrL sp off x.l) 1 1 .rd with
    | (s', .ok phys) =>
      if s'.heldSector x.g phys then .next (s'.stall x)
      else match s'.block x.g with
      | some b => (s'.served x.g (addrL sp off x.l) phys 1).finish { x with b := b } h 0 1 fun b => b.read (sectors phys 1)
      | none => .next s'
    | (s', .host page) =>
      let vf := ((s'.place x.g).map (·.vf)).getD 0
      let w : Waiter := ⟨4, x.g, x.i⟩
      if s'.pageFailed vf page w then (s'.leavePage vf page w).finish x h 0 1 id else .next ((s'.needPage vf page false w).stall x)
    | (s', .walk _ _) => .next (s'.stall x)
    | (s', _) => s'.finish x h 0 1 id

/-- Every word of a multi-word access checked in ascending address before any is moved (R245, R261). -/
def tryWords (s : State) (x : Fx) (k : AccKind) : Nat → Nat → List Nat → Except State (List Nat)
  | 0, _, acc => .ok acc.reverse
  | n + 1, a, acc =>
    match s.try_ x a 8 8 k with
    | .stop s => .error s
    | .at_ phys => tryWords s x k n ((a + 8) % 2 ^ 64) (phys :: acc)

/-- The lowest unordered write to a common byte among several words (R257). -/
def firstConflict (b : Block) (i : Nat) : List BStore → Option Nat
  | [] => none
  | t :: ts => match b.conflict i t.gaddr t.phys t.bytes.length with
    | some a => some a
    | none => firstConflict b i ts

/-- The buffered words of a GSAVE. -/
def saveWords (w : Woodward) (i first a : Nat) : Nat → List Nat → List BStore
  | _, [] => []
  | k, p :: ps => ⟨i, (a + 8 * k) % 2 ^ 64, p, toBytes 8 (w.reg (first + k)).toNat, false, []⟩ :: saveWords w i first a (k + 1) ps

/-- GSAVE: up to 16 registers as consecutive words (R261). -/
def execGsave (h : Hdr) (first : BitVec 6) (cnt1 : BitVec 4) (sp : Space) (off : BitVec 17) (s : State) : Outcome :=
  match s.fx h true false with
  | none => .next s
  | some x =>
    let a := addrV sp off x.l
    match tryWords s x .wr (cnt1.toNat + 1) a [] with
    | .error s => .next s
    | .ok ps =>
      let ts := saveWords (s.ww x.g) x.i first.toNat a 0 ps
      match firstConflict x.b x.i ts with
      | some v => s.stop x 0x04B v
      | none => (ps.foldl (fun s p => s.served x.g a p 0) s).finish x h 0 1 fun b => { b with stores := b.stores ++ ts }

/-- The registers and words of a GLOAD; the word for g0 is read and discarded. -/
def loadWords (s : State) (x : Fx) (first : Nat) : Nat → List Nat → List (Nat × Word)
  | _, [] => []
  | k, p :: ps =>
    let t := loadWords s x first (k + 1) ps
    if first + k = 0 then t else (first + k, BitVec.ofNat 64 (ofBytes (s.loadBytes x p 8))) :: t

/-- The words of a multi-word read served (R243, R250). -/
def servedWords (g : Nat) : Nat → List Nat → State → State
  | _, [], s => s
  | a, p :: ps, s => servedWords g ((a + 8) % 2 ^ 64) ps (s.served g a p 8)

/-- GLOAD: up to 16 registers loaded at commit (R261); a register also written by the block otherwise faults (R144). -/
def execGload (h : Hdr) (first : BitVec 6) (cnt1 : BitVec 4) (sp : Space) (off : BitVec 17) (s : State) : Outcome :=
  match s.fx h true false with
  | none => .next s
  | some x =>
    let a := addrV sp off x.l
    match tryWords s x .rd (cnt1.toNat + 1) a [] with
    | .error s => .next s
    | .ok ps =>
      let ws := loadWords s x first.toNat 0 ps
      match ws.find? fun p => (nfind x.b.gw p.1).isSome || decide (p.1 ∈ x.b.loaded) with
      | some p => s.stop x 0x008 (x.i + 256 * p.1 + 32768)
      | none => (servedWords x.g a ps s).finish x h 0 1 fun b => (b.read (ps.flatMap fun p => sectors p 8)).addPend x.i (.gload ws)

/-! ## Atomics (R262, R263) and fences (R264, R274) -/

/-- Whether an order acquires. -/
def acquires : MemOrder → Bool
  | .acq => true
  | .ar => true
  | _ => false

/-- Whether an order releases. -/
def releases : MemOrder → Bool
  | .rel => true
  | .ar => true
  | _ => false

/-- An atomic (R263): the old value is delivered, the new one is written at commit, and the sector is held until then. It acquires where it reads from a release and
each side's scope holds the other's glade (R266, R271). -/
def atomic (h : Hdr) (a : AtomHdr) (s : State) (f : Nat → Nat → Nat → Nat) : Outcome :=
  match s.fx h true true with
  | none => .next s
  | some x => s.frontierOnly x (
    let n := if a.wide then 8 else 4
    match s.try_ x x.l.toNat n n .atom with
    | .stop s => .next s
    | .at_ phys => match x.b.conflict x.i x.l.toNat phys n with
      | some v => s.stop x 0x04B v
      | none =>
        let old := ofBytes (overlay x.b x.i phys x.b.stores (s.bytes phys n))
        let heads := s.reach x.g (s.heads phys n)
        let mine := if acquires a.order then heads.filter fun r => s.inScope a.scope x.g r.glade else []
        ((s.served x.g x.l.toNat phys n).acquire x (mine.map fun r => .rel r.id)).finish x h (BitVec.ofNat 64 old) 1 fun b =>
          let b := (b.read (sectors phys n)).store ⟨x.i, x.l.toNat, phys, toBytes n (f (8 * n) old (x.r.toNat % 2 ^ (8 * n))), true,
            if releases a.order then [a.scope] else []⟩
          let b := if heads = [] then b else b.addPend x.i (.readRel heads)
          if mine = [] then b else b.addPend x.i .acquire)

/-- ATOM.ADD (R263). -/
def execAtomAdd (h : Hdr) (a : AtomHdr) (s : State) : Outcome := atomic h a s fun w old r => (old + r) % 2 ^ w

/-- The smaller or larger of two values at a width (R263). -/
def minMax (op : MinMaxOp) (w old r : Nat) : Nat :=
  match op with
  | .mins => if toS w old ≤ toS w r then old else r
  | .maxs => if toS w r ≤ toS w old then old else r
  | .minz => min old r
  | .maxz => max old r

/-- ATOM.MINMAX (R263). -/
def execAtomMinmax (h : Hdr) (a : AtomHdr) (op : MinMaxOp) (s : State) : Outcome := atomic h a s (minMax op)

/-- A bit operation (R263). -/
def bitOp (op : BitOp) (_w old r : Nat) : Nat :=
  match op with
  | .and => old &&& r
  | .or => old ||| r
  | .xor => old ^^^ r

/-- ATOM.BIT (R263). -/
def execAtomBit (h : Hdr) (a : AtomHdr) (op : BitOp) (s : State) : Outcome := atomic h a s (bitOp op)

/-- ATOM.XCHG (R263). -/
def execAtomXchg (h : Hdr) (a : AtomHdr) (s : State) : Outcome := atomic h a s fun _ _ r => r

/-- ATOM.CAS: writes the named register where the word equals R (R263). -/
def execAtomCas (h : Hdr) (a : AtomHdr) (g : BitVec 6) (s : State) : Outcome :=
  atomic h a s fun w old r => if old = r then ((s.ww s.focus.glade).reg g.toNat).toNat % 2 ^ w else old

/-- FENCE: it accesses no memory and takes effect at its block's commit (R264, R274). -/
def execFence (h : Hdr) (order : MemOrder) (scope : Scope) (s : State) : Outcome :=
  match s.fx h false false with
  | none => .next s
  | some x => s.frontierOnly x (s.finish x h 0 1 fun b => if order = .rlx then b else b.addPend x.i (.fence (releases order) (acquires order) scope))

end Sys2Proof.Machine
end

