-- ==== Sys2Proof/Machine/Image.lean ====
section
/-! DEFINITION. Unit images: their header and sections (R132, R133, R468), the checks of the configuration loader (R120, R121, R125 to R128,
R134, R135, R339, R469, R470), and how ARM reads an image (R324). -/

namespace Sys2Proof.Machine

/-! ## Header and sections (R132, R133) -/

def imgFlags (m : List Byte) : Nat := leAt m 6 2
def imgClearing (m : List Byte) : Bool := bit (imgFlags m) 0
def imgLibrary (m : List Byte) : Bool := bit (imgFlags m) 1
def imgInvariant (m : List Byte) : Bool := bit (imgFlags m) 2
def imgW (m : List Byte) : Nat := leAt m 8 1
def imgH (m : List Byte) : Nat := leAt m 9 1
def imgSections (m : List Byte) : Nat := leAt m 10 2
def imgLength (m : List Byte) : Nat := leAt m 12 4
def imgHealth (m : List Byte) : Nat := leAt m 16 16
def imgEntry (m : List Byte) : Nat := leAt m 64 4

/-- A section table entry (R133). -/
structure Sec where
  type : Nat
  pos : Nat
  off : Nat
  size : Nat
  load : Nat
  deriving DecidableEq, Repr

/-- The section table. -/
def imgSecs (m : List Byte) : List Sec :=
  (List.range (imgSections m)).map fun i =>
    let e := sliceB m (80 + 16 * i) 16
    ⟨leAt e 0 2, leAt e 2 2, leAt e 4 4, leAt e 8 4, leAt e 12 4⟩

/-- The bytes of a section. -/
def secBytes (m : List Byte) (s : Sec) : List Byte := sliceB m s.off s.size

/-- The position code of a section for one position. -/
def posCode (ux uy : Nat) : Nat := 256 * uy + ux

/-- The sections of a type that apply at a position: those for the position, else those for every position (R133). -/
def secsAt (m : List Byte) (ty ux uy : Nat) : List Sec :=
  let own := (imgSecs m).filter fun s => decide (s.type = ty ∧ s.pos = posCode ux uy)
  if own.isEmpty then (imgSecs m).filter fun s => decide (s.type = ty ∧ s.pos = 0xFFFF) else own

/-- The bytes of the one section of a type at a position; none where the image holds none, which gives the defaults of R468. -/
def secAt (m : List Byte) (ty ux uy : Nat) : Option (List Byte) := ((secsAt m ty ux uy).head?).map (secBytes m)

/-- The word at an index of a section, or the default of R468. -/
def secWord (d : Option (List Byte)) (size i dflt : Nat) : Nat :=
  match d with
  | some b => leAt b (size * i) size
  | none => dflt

/-! ## Stems (R134, R468) -/

/-- A stem record: the three rings. -/
structure StemRec where
  op : List Nat
  rt : List Nat
  tap : List Nat
  deriving DecidableEq, Repr

/-- The default stem of R140. -/
def stemDefault : StemRec := ⟨[0x602000], [0], [0]⟩

/-- The rings of a stem in a RINGS section; words past a ring's length are no part of it (R128, R134). -/
def stemRec (d : Option (List Byte)) (s : Nat) : StemRec :=
  match d with
  | none => stemDefault
  | some b =>
    let r := sliceB b (260 * s) 260
    let ring (n off size : Nat) : List Nat := (List.range (min 32 n)).map fun i => leAt r (off + size * i) size
    ⟨ring (leAt r 0 1) 4 4, ring (leAt r 1 1) 132 2, ring (leAt r 2 1) 196 2⟩

/-- R134: ring lengths 1 to 32, byte 3 zero, op words of 24 bits, words past a ring's end zero. -/
def stemRecOk (b : List Byte) (s : Nat) : Bool :=
  let r := sliceB b (260 * s) 260
  let len (k : Nat) : Nat := leAt r k 1
  let past (n off size : Nat) : Bool := (List.range 32).all fun i => decide (i < n) || decide (leAt r (off + size * i) size = 0)
  (List.range 3).all (fun k => decide (1 ≤ len k ∧ len k ≤ 32)) && decide (len 3 = 0)
    && (List.range 32).all (fun i => decide (leAt r (4 + 4 * i) 4 < 2 ^ 24))
    && past (len 0) 4 4 && past (len 1) 132 2 && past (len 2) 196 2

/-! ## Class words (R124) -/

def clsOf (c : Nat) : Nat := bits c 15 13
def clsRm (c : Nat) : Nat := bits c 12 10
def clsSat (c : Nat) : Nat := bits c 9 8
def clsFern (c : Nat) : Nat := bits c 7 6
def clsScope (c : Nat) : Nat := bits c 5 3
def clsQuiet (c : Nat) : Bool := bit c 0

/-- A class word with a reserved code (R93, R124). DESIGN CHOICE (log entry 70): nonzero bits [2:1], for which R135 names no reason, count
with them and give CODE. -/
def clsReserved (c : Nat) : Bool :=
  decide (5 < clsOf c) || decide (4 < clsRm c) || decide (clsSat c = 3) || decide (clsFern c = 3) || decide (4 < clsScope c)
    || decide (bits c 2 1 ≠ 0)

/-! ## Op words (R119, R120, R127) -/

def opCodeOf (w : Nat) : Nat := bits w 23 17
def opImm (w : Nat) : Nat := bits w 11 0
def opDest (w : Nat) : Nat := bits w 13 12

/-- Whether an opcode is permitted in a class (R127). -/
def opInClass (o c : Nat) : Bool :=
  if (0x01 ≤ o ∧ o ≤ 0x0D) then c = 0 || c = 4
  else if 0x10 ≤ o ∧ o ≤ 0x15 then c = 0
  else if 0x18 ≤ o ∧ o ≤ 0x25 then c = 0 || c = 1 || c = 4
  else if 0x28 ≤ o ∧ o ≤ 0x2C then c = 0
  else if 0x30 ≤ o ∧ o ≤ 0x32 then true
  else if 0x38 ≤ o ∧ o ≤ 0x3E then c = 1
  else if 0x40 ≤ o ∧ o ≤ 0x44 then c = 2
  else if 0x48 ≤ o ∧ o ≤ 0x4A then c = 3
  else if 0x50 ≤ o ∧ o ≤ 0x53 then c = 4
  else if 0x58 ≤ o ∧ o ≤ 0x5E then c = 0
  else if 0x60 ≤ o ∧ o ≤ 0x62 then c = 5
  else if o = 0x68 ∨ o = 0x69 then c = 0 || c = 1 || c = 5
  else false

/-- The fern operations (R224). -/
def isFern (o : Nat) : Bool := decide (0x58 ≤ o ∧ o ≤ 0x5E)

/-- Operations that assign modifier bits in imm (R120). -/
def opModifies (o : Nat) : Bool :=
  (decide (0x10 ≤ o) && decide (o ≤ 0x15)) || o = 0x08 || o = 0x09 || o = 0x24 || (decide (0x28 ≤ o) && decide (o ≤ 0x2C))
    || (decide (0x38 ≤ o) && decide (o ≤ 0x3E)) || (decide (0x40 ≤ o) && decide (o ≤ 0x44)) || (decide (0x48 ≤ o) && decide (o ≤ 0x4A))
    || (decide (0x50 ≤ o) && decide (o ≤ 0x52)) || o = 0x61 || o = 0x68 || o = 0x69

/-- The class of a conversion's target for R93: 0 none, 1 BF16 or E4M3 or FP32, 2 E2M1, 3 an integer format. -/
def convTarget (w : Nat) : Nat :=
  let o := opCodeOf w
  if o = 0x14 then 2
  else if o = 0x15 then (if bit w 0 then 3 else 1)
  else if 0x10 ≤ o ∧ o ≤ 0x13 then 1 else 0

/-- R93: WRAP on a floating-point target, NAN on E2M1 or an integer target. -/
def satBad (w c : Nat) : Bool :=
  let t := convTarget w
  (decide (clsSat c = 2) && (t = 1 || t = 2)) || (decide (clsSat c = 1) && (t = 2 || t = 3))

/-- An immediate whose format does not fill imm, with a bit set above it (R120): type E4M3 takes imm[7:0], E2M1 imm[3:0]. Of the operations
that take an immediate, PASS, HOLD and CONST have these types (R127). Such a word has reason STEM (DEDUCED, log entry 79). -/
def immTooWide (w : Nat) : Bool :=
  decide (0x30 ≤ opCodeOf w) && decide (opCodeOf w ≤ 0x32)
    && ((decide (bits w 16 14 = 2) && decide (bits w 11 8 ≠ 0)) || (decide (bits w 16 14 = 3) && decide (bits w 11 4 ≠ 0)))

/-- The sources of a route word (R121). -/
def rtSources (r : Nat) : List Nat := [bits r 15 12, bits r 11 8, bits r 7 4, bits r 3 0]

/-! ## Checks (R135): each says whether the image is refused with its code -/

/-- A reserved kind, or a field that must be zero, of a route word in image form (R326). -/
def routeReserved (v : Nat) : Bool :=
  let kind := bits v 62 60
  let sub := bits v 42 38
  decide (5 < kind) || decide (bits v 23 20 ≠ 0) || (decide (kind ≠ 5) && (decide (bits v 50 43 ≠ 0) || decide (bits v 28 24 ≠ 0) || decide (bits v 59 58 ≠ 0)))
    || (decide (kind ≠ 3) && decide (bits v 19 0 ≠ 0)) || (decide (kind = 3) && (decide (sub ≠ 0) || decide (bits v 19 0 % 128 ≠ 0)))
    || ((kind = 0 || kind = 1 || kind = 2 || kind = 5) && decide (15 < sub))

/-- A route word of a kind other than ZONE, valid or not, that names a position outside w × h (R36, R328). -/
def routeOutside (w h v : Nat) : Bool :=
  decide (bits v 62 60 ≠ 5) && (decide (w ≤ bits v 53 51) || decide (h ≤ bits v 57 54))

/-- A malformed rill configuration word (R329, R331). -/
def rillReserved (v : Nat) : Bool :=
  decide (bits v 63 61 = 7) || decide (bits v 38 32 ≠ 0) || (!bit v 39 && decide (bits v 43 40 ≠ 0))

/-- Ranges [a, b) that overlap a later one of a list. -/
def overlaps : List (Nat × Nat) → Bool
  | [] => false
  | x :: t => (t.any fun y => decide (x.1 < y.2 ∧ y.1 < x.2)) || overlaps t

/-- The span of a landing zone descriptor, or none where its limits are broken (R339). -/
def zoneSpan (e : List Byte) : Option (Nat × Nat) :=
  let base := leAt e 0 4
  let ssize := leAt e 4 4
  let n := leAt e 8 1
  if base % 128 ≠ 0 ∨ ssize % 8 ≠ 0 ∨ ssize < 8 ∨ 524288 < ssize ∨ n < 1 ∨ 64 < n ∨ 524288 < n * ssize ∨ 1 < leAt e 10 1 ∨ 31 < leAt e 9 1
      ∨ (leAt e 10 1 = 1 ∧ 32 < leAt e 9 1 + n) ∨ 2 ^ 20 < base + n * ssize then none
  else some (base, base + n * ssize)

/-- R339 over a ZONES section. -/
def zonesOk (d : List Byte) : Bool :=
  let es := (List.range 16).map fun i => sliceB d (16 * i) 16
  let valid := es.filter fun e => decide (leAt e 11 1 = 1)
  es.all (fun e => decide (leAt e 11 1 ≤ 1) && decide (leAt e 12 4 = 0))
    && valid.all (fun e => (zoneSpan e).isSome) && !overlaps (valid.filterMap zoneSpan)

/-- The size a section of a type must have; none where any size may stand. -/
def secSizeOk (ty n : Nat) : Bool :=
  if ty = 2 then n = 512 else if ty = 3 then n = 4160 else if ty = 4 then n = 256 else if ty = 5 then n = 2048
  else if ty = 6 then decide (n % 64 = 0 ∧ n ≤ 256) else if ty = 7 then n = 256 else if ty = 9 then n = 512
  else if ty = 10 then decide (0 < n ∧ n % 8 = 0 ∧ n ≤ 512) else if ty = 11 then n = 128 else true

/-- One section table entry against R133, R470 and the burrow's bounds. DESIGN CHOICE (log entry 73): a size its type does not have, a nonzero
load of a type without one, a load range past the burrow and a nonzero value for g0, which R135 lists under no reason, give SECTION. -/
def secOk (m : List Byte) (s : Sec) : Bool :=
  decide (1 ≤ s.type ∧ s.type ≤ 11) && (decide (s.pos = 0xFFFF) || (decide (s.pos % 256 < imgW m) && decide (s.pos / 256 < imgH m)))
    && decide (80 + 16 * imgSections m ≤ s.off) && decide (s.off + s.size + 64 ≤ imgLength m) && secSizeOk s.type s.size
    && (if s.type = 1 ∨ s.type = 8 then decide (s.load + s.size ≤ 2 ^ 20) else decide (s.load = 0))
    && (decide (s.type ≠ 9) || decide (leAt (secBytes m s) 0 8 = 0)) && (decide (s.type ≠ 10) || decide (s.pos = 0xFFFF))
    && (decide (s.type ≠ 7) || zonesOk (secBytes m s))

/-- Reason SECTION: no two sections of one type for one position, and no BLOCKS and DATA of one position on the same bytes (R133). DESIGN
CHOICE (log entry 74): a section for one position and one for every position are not compared. -/
def secsBad (m : List Byte) : Bool :=
  let ss := imgSecs m
  let loads (p : Nat) : List (Nat × Nat) :=
    (ss.filter fun s => decide ((s.type = 1 ∨ s.type = 8) ∧ s.pos = p ∧ 0 < s.size)).map fun s => (s.load, s.load + s.size)
  ss.any (fun s => !secOk m s) || overlaps ((ss.filter fun s => decide (0 < s.size)).map fun s => (s.off, s.off + s.size))
    || !decide (List.Nodup (ss.map fun s : Sec => (65536 * s.type + s.pos : Nat))) || (ss.map (·.pos)).any fun p => overlaps (loads p)

/-- Reason HEADER. DESIGN CHOICE (log entry 72): a nonzero library identity in a user-written image, for which R135 names no reason, gives it. -/
def headerBad (m : List Byte) : Bool :=
  decide (leAt m 0 4 ≠ 0x49554E5A) || decide (imgW m < 1) || decide (8 < imgW m) || decide (imgH m < 1) || decide (16 < imgH m)
    || decide (imgSections m < 1) || decide (64 < imgSections m) || decide (imgLength m ≠ m.length)
    || decide (imgLength m < 144 + 16 * imgSections m) || decide (imgEntry m % 64 ≠ 0) || decide (2 ^ 20 ≤ imgEntry m)
    || decide (bits (imgFlags m) 15 3 ≠ 0) || decide (leAt m 68 12 ≠ 0) || decide (2 ^ (imgW m * imgH m) ≤ imgHealth m)
    || (imgInvariant m && !imgLibrary m) || (!imgLibrary m && decide (leAt m 32 32 ≠ 0))

/-- Reason SIGNATURE: `libKey` verifies library images, `userKey` the others (R132, R443). PRESUMED (log entry 71): r and s stand with their
most significant byte first, though the image is little-endian. -/
def signatureBad (libKey : List Byte) (userKey : Option (List Byte)) (m : List Byte) : Bool :=
  let body := m.take (m.length - 64)
  let sig := m.drop (m.length - 64)
  match if imgLibrary m then some libKey else userKey with
  | none => true
  | some k => !ecdsaVerify k body sig

/-- What a position holds: class words, stems, route words, rill words. -/
structure PosCfg where
  cls : List Nat
  stems : List StemRec
  routes : List Nat
  rills : List Nat
  deriving DecidableEq, Repr

/-- The configuration of a position, with the defaults of R468. -/
def posCfg (m : List Byte) (ux uy : Nat) : PosCfg :=
  let c := secAt m 2 ux uy
  let r := secAt m 3 ux uy
  let t := secAt m 5 ux uy
  let l := secAt m 4 ux uy
  ⟨(List.range 256).map (secWord c 2 · 0), (List.range 16).map (stemRec r), (List.range 256).map (secWord t 8 · 0),
    (List.range 32).map (secWord l 8 · 0)⟩

def PosCfg.stem (p : PosCfg) (s : Nat) : StemRec := (p.stems[s]?).getD stemDefault
def PosCfg.stemCls (p : PosCfg) (s : Nat) : List Nat := (p.cls.drop (16 * s)).take 16
def PosCfg.cw (p : PosCfg) (s k : Nat) : Nat := (p.cls[16 * s + k]?).getD 0

/-- Whether the chain from an entry reaches a ZONE entry (R327, R469). -/
def chainZone (routes : List Nat) : Nat → Nat → Bool
  | 0, _ => false
  | n + 1, e =>
    let v := (routes[e]?).getD 0
    if !bit v 63 then false else if bits v 62 60 = 5 then true
    else if !bit v 29 then false else chainZone routes n (bits v 37 30)

/-- Reason OPCODE of one stem (R119, R127, R128). DESIGN CHOICE (log entry 75): where the elements hold different classes, which is a case of
reason STEM, row 0's is the stem's. -/
def stemOpcodeBad (p : PosCfg) (s : Nat) : Bool :=
  let c := clsOf (p.cw s 0)
  (p.stem s).op.any fun w =>
    let bad : Bool := match decodeOp (BitVec.ofNat 24 w) with
      | .error .opcode => true
      | .error .type => true
      | .error .thru => true
      | _ => false
    bad || !opInClass (opCodeOf w) c

/-- Reason CODE of one stem (R93, R121, R124, R198). -/
def stemCodeBad (p : PosCfg) (s : Nat) : Bool :=
  (p.stemCls s).any clsReserved || (p.stem s).rt.any (fun r => (rtSources r).any fun x => decide (12 < x))
    || (p.stem s).op.any fun w => match decodeOp (BitVec.ofNat 24 w) with
      | .error .modifier => true
      | _ => false

/-- Reason BOUNDARY of one stem (R469). -/
def stemBoundaryBad (p : PosCfg) (s : Nat) : Bool :=
  decide (clsOf (p.cw s 0) ≠ 5) && (chainZone p.routes 4 (240 + s) || (p.stem s).op.any fun w =>
    decide (opCodeOf w = 0x69) && chainZone p.routes 4 (bits ((p.rills[opImm w % 32]?).getD 0) 51 44))

/-- Reason STEM of one stem, but for requests meeting in a fern unit (R93, R120, R121, R125). -/
def stemBad (p : PosCfg) (s : Nat) : Bool :=
  let cs := p.stemCls s
  let st := p.stem s
  let g := Nat.gcd st.op.length st.rt.length
  let immAt := (List.range st.rt.length).filter fun j => (rtSources ((st.rt[j]?).getD 0)).contains 7
  cs.any (fun c => decide (clsOf c ≠ clsOf (p.cw s 0)))
    || cs.any (fun c => (decide (clsScope c ≠ 0) && decide (clsOf c ≠ 5)) || (decide (clsFern c = 2) && decide (s = 15)))
    || st.rt.any (fun r => (rtSources r).any fun x => (decide (x = 4) && decide (s = 0)) || (decide (x = 3) && decide (s = 15)))
    || (List.range st.op.length).any fun i =>
      let w := (st.op[i]?).getD 0
      immTooWide w || (opModifies (opCodeOf w) && immAt.any fun j => decide ((i + g * j - j) % g = 0))
        || cs.any fun c => (isFern (opCodeOf w) && decide (clsFern c = 0) && !clsQuiet c) || satBad w c

/-- How many requests of a stem's rows bound with a fern code reach the fern unit in context cycle `t` of the steady state (R64, R125). -/
def fernRequests (p : PosCfg) (s code t : Nat) : Nat :=
  let ops := (p.stem s).op
  ((List.range 16).filter fun k =>
    decide (clsFern (p.cw s k) = code) && !clsQuiet (p.cw s k)
      && isFern (opCodeOf ((ops[(t + 16 * ops.length - k) % ops.length]?).getD 0))).length

/-- Two requests reach fern unit `u` in one context cycle (R125). -/
def fernClash (p : PosCfg) (u : Nat) : Bool :=
  let l := if u = 0 then (p.stem u).op.length else Nat.lcm (p.stem u).op.length (p.stem (u - 1)).op.length
  (List.range l).any fun t => decide (1 < fernRequests p u 1 t + (if u = 0 then 0 else fernRequests p (u - 1) 2 t))

/-- The positions of an image. -/
def imgPositions (m : List Byte) : List (Nat × Nat) := (List.range (imgW m * imgH m)).map fun i => (i % imgW m, i / imgW m)

/-- Some position, some stem. -/
def anyStem (m : List Byte) (f : PosCfg → Nat → Bool) : Bool :=
  (imgPositions m).any fun x => let p := posCfg m x.1 x.2; (List.range 16).any (f p)

/-- The positions of a coppice record (R470). -/
def coppicePos (r : List Byte) : List (Nat × Nat) :=
  (List.range (leAt r 0 1 * leAt r 1 1)).map fun i => (leAt r 2 1 + i % leAt r 1 1, leAt r 3 1 + i / leAt r 1 1)

/-- Reason COPPICE (R23, R34, R470). -/
def coppiceBad (m : List Byte) : Bool :=
  match (imgSecs m).find? fun s => decide (s.type = 10) with
  | none => false
  | some sec =>
    let d := secBytes m sec
    let rs := (List.range (sec.size / 8)).map fun i => sliceB d (8 * i) 8
    let bad (r : List Byte) : Bool :=
      let mm := leAt r 0 1
      let nn := leAt r 1 1
      let ps := coppicePos r
      decide (mm < 1) || decide (4 < mm) || decide (nn < 1) || decide (2 < nn) || decide (mm * nn < 2) || decide (4 < mm * nn)
        || decide (leAt r 4 4 ≠ 0) || decide (imgW m < leAt r 2 1 + nn) || decide (imgH m < leAt r 3 1 + mm)
        || ps.any (fun x => decide (x.1 / 2 ≠ leAt r 2 1 / 2) || decide (x.2 / 4 ≠ leAt r 3 1 / 4)
          || !(imgHealth m).testBit (x.2 * imgW m + x.1))
    !imgClearing m || rs.any bad || !decide ((rs.flatMap coppicePos).Nodup)

/-- The reason code of the loader's refusal, the lowest that applies; none where the image is accepted (R135). `ids` are the library
identities of the measured manifest. -/
def imageRefused (libKey : List Byte) (userKey : Option (List Byte)) (ids : List (List Byte)) (m : List Byte) : Option Nat :=
  let words (ty size : Nat) (f : Nat → Bool) : Bool :=
    (imgSecs m).any fun s => decide (s.type = ty) && (let d := secBytes m s; (List.range (s.size / size)).any fun i => f (leAt d (size * i) size))
  if signatureBad libKey userKey m then some 1
  else if leAt m 4 2 ≠ 1 then some 2
  else if headerBad m then some 3
  else if secsBad m then some 4
  else if anyStem m stemOpcodeBad then some 5
  else if anyStem m stemCodeBad || words 5 8 routeReserved || words 4 8 rillReserved then some 6
  else if anyStem m stemBoundaryBad then some 7
  else if ((imgSecs m).any fun s => decide (s.type = 3) && (let d := secBytes m s; !(List.range 16).all (stemRecOk d)))
      || anyStem m stemBad || anyStem m fernClash then some 8
  else if coppiceBad m then some 9
  else if words 5 8 (routeOutside (imgW m) (imgH m)) then some 10
  else if imgLibrary m && !ids.contains (sliceB m 32 32) then some 11
  else none

/-! ## How ARM reads an image (R324) -/

/-- A piece of an image within one page: its physical place, where the page is a device page with x = 1 and opnd = 0; nothing while an atomic holds a sector that the
read needs (R263). -/
def State.imagePiece (s : State) (g ctx va n : Nat) : State × Option (Option Nat) :=
  if 2 ^ 55 ≤ va then (s, some none)
  else match s.resolveNow g va n 1 .rd with
    | (s, .ok phys) => match s.cached g ctx false va with
      | some t => (s, if s.heldRange g phys n then none else some (if t.leaf.getLsbD 2 && !leafOpnd t.leaf.toNat then some phys else none))
      | none => (s, some none)
    | (s, .walk _ _) => (s, none)
    | (s, _) => (s, some none)

/-- `n` bytes of an image from an address, page by page: none where it must wait, and no bytes where it cannot be read. -/
def State.imageBytes (s : State) (g ctx : Nat) : Nat → Nat → Nat → State × Option (Option (List Byte))
  | 0, _, _ => (s, some (some []))
  | fuel + 1, va, n =>
    if n = 0 then (s, some (some []))
    else
      let k := min n (4096 - va % 4096)
      match s.imagePiece g ctx va k with
      | (s, none) => (s, none)
      | (s, some none) => (s, some none)
      | (s, some (some phys)) => match State.imageBytes s g ctx fuel (va + k) (n - k) with
        | (s', some (some rest)) => (s', some (some (s.bytes phys k ++ rest)))
        | r => r

/-- A whole image; its length stands in its header. -/
def State.readImage (s : State) (g ctx va : Nat) : State × Option (Option (List Byte)) :=
  match s.imageBytes g ctx 2 va 16 with
  | (s, some (some hd)) => s.imageBytes g ctx (max 16 (leAt hd 12 4) / 4096 + 2) va (max 16 (leAt hd 12 4))
  | r => r

end Sys2Proof.Machine
end

