-- ==== Sys2Proof/Machine/Trust.lean ====
section
/-! DEFINITION. What the heartwood proves itself by (R428 to R430, R443): the certificates of the flash, the manifest, the keys derived from the root die's secret,
and its signatures. -/

namespace Sys2Proof.Machine

/-! ## Certificates (R428) (DESIGN CHOICE, log entry 99) -/

/-- A certificate of a role that an issuer's key has signed: the certified key in bytes 0 to 63, the role in byte 64, the package serial in bytes 65 to 80, the signature in
the last 64 bytes. -/
def certBy (issuer : List Byte) (role : Nat) (c : List Byte) : Bool :=
  decide (leAt c 64 1 = role) && ecdsaVerify issuer (c.take (c.length - 64)) (c.drop (c.length - 64))

/-- The public key a chain begins with, if it is the Weadric root's, whose digest the ROM holds (R428); no key else. -/
def chainRoot (rom chain : List Byte) : List Byte := if sha256 (chain.take 64) = rom then chain.take 64 else []

/-- Certificate i of the flash: the root's, then those of the roles device 1, firmware 2, part record 3 and kernel library 4. -/
def Flash.cert (f : Flash) (i : Nat) : List Byte := sliceB f.chain (160 * i) 160

/-- The key that the flash's chain certifies for a role (R428); no key where the chain does not end at the Weadric root. -/
def Pkg.keyFor (p : Pkg) (role : Nat) : List Byte :=
  let c := p.flash.cert role
  if certBy (chainRoot p.rom p.flash.chain) role c then c.take 64 else []

/-- The entries of the manifest, 65 bytes each: image digest, name padded to 32 bytes, invariant flag (R443) (DESIGN CHOICE, log entry 7). -/
def Flash.entries (f : Flash) : List (List Byte) := (List.range (f.manifestBytes.length / 65)).map fun i => sliceB f.manifestBytes (65 * i) 65

/-! ## Keys (R429, R430) -/

/-- MD: the digest of the measurements M0 to M2 (R429). -/
def Pkg.md (p : Pkg) : List Byte := sha256 (p.m0 ++ p.m1 ++ p.m2)

/-- The secret of the root die's physically unclonable function (R430): a free value (DESIGN CHOICE, log entry 3). -/
def pufSecret : List Byte := (List.range 32).map (Config.secretByte 1 0)

/-- A private scalar by HKDF-SHA-256 of the PUF secret: the first within [1, n − 1], the counter incremented (R430). -/
def deriveScalar (salt : List Byte) : Nat :=
  let prk := hkdfExtract salt pufSecret
  (((List.range 255).map fun i => ofBytesBE (hmac prk [BitVec.ofNat 8 (i + 1)])).find? fun k => decide (1 ≤ k ∧ k < p256N)).getD 1

/-- The affine coordinates of a point. -/
def EcPoint.affine (p : EcPoint) : Nat × Nat :=
  let zi := invMod p256P p.z
  (p.x * (zi * zi % p256P) % p256P, p.y * (zi * zi % p256P * zi % p256P) % p256P)

/-- A multiple of the base point. -/
def basePoint (k : Nat) : Nat × Nat := (ecMul ⟨p256Gx, p256Gy, 1⟩ 256 k).affine

/-- The public key of a private scalar, x then y. -/
def publicKey (k : Nat) : List Byte := let a := basePoint k; toBytesBE 32 a.1 ++ toBytesBE 32 a.2

/-- The identity key, the same at every power-on (R430). No rule gives its derivation (DESIGN CHOICE, log entry 99). -/
def identityScalar : Nat := deriveScalar []

/-- The attestation key (R430). -/
def Pkg.attestScalar (p : Pkg) : Nat := deriveScalar p.md

/-- The weight key (R430). -/
def Pkg.weightScalar (p : Pkg) : Nat := deriveScalar (p.md ++ ascii "weights")

/-- The public point of the weight key, x then y (R436). -/
def Pkg.weightPoint (p : Pkg) : List Byte := publicKey p.weightScalar

/-- The key that unwraps a weight bundle (R442): HKDF of the x of ECDH(weight key, Q), salt MD; none where Q is no point of the curve. -/
def Pkg.kek (p : Pkg) (q : List Byte) : Option (List Byte) :=
  let x := ofBytesBE (q.take 32)
  let y := ofBytesBE (q.drop 32)
  if q.length ≠ 64 ∨ p256P ≤ x ∨ p256P ≤ y ∨ y * y % p256P ≠ (x * x * x + (p256P - 3) * x + p256B) % p256P then none
  else some (hkdfExpand (hkdfExtract p.md (toBytesBE 32 (ecMul ⟨x, y, 1⟩ 256 p.weightScalar).affine.1)) (ascii "ZX7 weights") 32)

/-! ## Signatures (R403, R430, R431, R436) -/

/-- The one-time number of an ECDSA signature: a free value, named by the signature's purpose (DESIGN CHOICE, log entry 3). -/
def freeScalar (purpose n : Nat) : Nat := ofBytesBE ((List.range 32).map (Config.secretByte purpose n)) % (p256N - 1) + 1

/-- ECDSA P-256 over the SHA-256 of a message by a private key, with the one-time number k: r then s. -/
def ecdsaSign (key k : Nat) (msg : List Byte) : List Byte :=
  let r := (basePoint k).1 % p256N
  toBytesBE 32 r ++ toBytesBE 32 (invMod p256N k * ((ofBytesBE (sha256 msg) + r * key) % p256N) % p256N)

/-- A signature by the attestation key, for a purpose, with the next free value. -/
def State.sign (s : State) (purpose : Nat) (msg : List Byte) : List Byte := ecdsaSign s.pk.attestScalar (freeScalar purpose s.free) msg

/-! ## The device's own chain (R430, R431) -/

/-- The serial number of the part record (R26). -/
def State.serial (s : State) : List Byte := sliceB s.pk.flash.part 16 16

/-- What the alias certificate of a boot certifies: the attestation key, the package serial, M0 to M3 (R430). -/
def Pkg.aliasBody (p : Pkg) : List Byte :=
  publicKey p.attestScalar ++ [5] ++ sliceB p.flash.part 16 16 ++ List.replicate 15 0 ++ sliceB p.m0 0 32 ++ sliceB p.m1 0 32 ++ sliceB p.m2 0 32 ++ sliceB p.m3 0 32

/-- The alias certificate, which the identity key issues at each boot (R430). -/
def Pkg.aliasCert (p : Pkg) : List Byte := p.aliasBody ++ ecdsaSign identityScalar (freeScalar 8 p.boot) p.aliasBody

/-- Certificate slot 0: root, device, alias (R431). -/
def Pkg.slotZero (p : Pkg) : List Byte := p.flash.chain.take 320 ++ p.aliasCert

/-! ## A partner's chain (R452) -/

/-- A partner's chain root, device, alias ends at the Weadric root (R452). -/
def partnerOk (rom chain : List Byte) : Bool :=
  let dev := sliceB chain 160 160
  decide (chain.length = 608) && certBy (chainRoot rom chain) 1 dev && certBy (dev.take 64) 5 (chain.drop 320)

/-- The package serial that a partner's chain certifies, and its M0 to M2. -/
def partnerSerial (chain : List Byte) : Nat := leAt chain 225 16
def partnerFirmware (chain : List Byte) : List Byte := sliceB chain 416 96

end Sys2Proof.Machine
end

