-- ==== Sys2Proof/Machine/Counters.lean ====
section
/-! DEFINITION. The meanings of the counter instructions (R384 to R394), the penalty counts (R395 to R400), the signed usage record (R403,
R404), and the performance and lifetime counters (R405 to R407). -/

namespace Sys2Proof.Machine

/-! ## Waits and reads (R385, R387 to R389) -/

/-- The waiting instructions (R158). -/
def isWait (op : Nat) : Bool := op = 0x184 || op = 0x141 || op = 0x142 || op = 0x149

/-- Whether a waiting instruction of the block has neither returned nor been settled without executing (R385). -/
def Block.waitOpen (b : Block) : Bool :=
  let st := b.stats b.words.length
  ((b.words.zip st).any fun p => isWait (wordOpcode p.1) && decide (p.2 = .live))

def Engines.tl (e : Engines) (k : Nat) : Timeline := nget {} e.tls k

/-- TL.READ: an item of an engine timeline, after the waits of its block (R385, R388). -/
def execTlRead (h : Hdr) (tl : Peer) (item : TlItem) (s : State) : Outcome :=
  match s.fx h false false with
  | none => .next s
  | some x =>
    if x.b.waitOpen then .next (s.stall x)
    else
      let t := (s.eng x.g).tl tl.code.toNat
      s.finish x h (BitVec.ofNat 64 (match item with
        | .issued => t.issued
        | .retired => t.retired
        | .badnum => t.badnum
        | .badstat => t.badstat + 65536 * (t.nonok % 2 ^ 48))) 0 id

/-- TL.WAIT.GE: waits until retired ≥ L, and acquires (R389). -/
def execTlWaitGe (h : Hdr) (tl : Peer) (s : State) : Outcome :=
  match s.fx h true false with
  | none => .next s
  | some x =>
    let t := (s.eng x.g).tl tl.code.toNat
    if t.retired < x.l.toNat then .next (s.stall x)
    else (s.acquire x [.retired (s.home x.g) tl.code.toNat]).finish x h (BitVec.ofNat 64 t.retired) 0 fun b => b.addPend x.i .acquire

/-- TL.WAIT.LAG: waits until issued − retired ≤ L, and acquires (R389). -/
def execTlWaitLag (h : Hdr) (tl : Peer) (s : State) : Outcome :=
  match s.fx h true false with
  | none => .next s
  | some x =>
    let t := (s.eng x.g).tl tl.code.toNat
    if x.l.toNat < t.issued - t.retired then .next (s.stall x)
    else (s.acquire x [.retired (s.home x.g) tl.code.toNat]).finish x h (BitVec.ofNat 64 (t.issued - t.retired)) 0 fun b => b.addPend x.i .acquire

/-! ## Completion counters (R390 to R393) -/

/-- The counter a name word names for a context (R390); none where the name is refused. -/
def State.counter (s : State) (ctx : Nat) (name : Nat) : Option Counter :=
  let kind := bits name 63 61
  let upos := bits name 19 14
  let die := bits name 13 12
  let idx := bits name 11 0
  let e := nget {} (s.die die).arms idx
  if bits name 60 20 ≠ 0 then none
  else if kind ≤ 3 then
    if e.st = .free ∨ e.ctx ≠ ctx then none
    else if kind = 0 then if e.images.length ≤ upos then none else some (nget {} e.units upos)
    else if upos ≠ 0 then none
    else if kind = 1 then some e.launch
    else if kind = 2 then some e.phase
    else if e.kind = 1 then some e.graph else none
  else if kind = 4 then if bits name 19 0 = 0 then some (s.job ctx).counter else none
  else if kind = 5 then if upos ≠ 0 ∨ die ≠ 0 ∨ 256 ≤ idx then none else some (nget {} (s.job ctx).soft idx)
  else none

/-- The context of a glade's unit; 0 where no unit is placed. -/
def State.ctxOf (s : State) (g : Nat) : Nat := ((s.place g).map (·.ctx)).getD 0

/-- CC.READ (R392). -/
def execCcRead (h : Hdr) (item : CcItem) (s : State) : Outcome :=
  match s.fx h true false with
  | none => .next s
  | some x =>
    if x.b.waitOpen then .next (s.stall x)
    else match s.counter (s.ctxOf x.g) x.l.toNat with
      | none => s.stop x 0x018 x.l.toNat
      | some c => s.finish x h (BitVec.ofNat 64 (match item with
          | .count => c.count
          | .status => c.status.code
          | .nonok => c.nonok)) 0 id

/-- The advances of the counter a name word names (R390, R391): of a unit, launch, phase or graph by its entry, of the job, or of a soft counter. -/
def counterPt (ctx name : Nat) : Point :=
  let kind := bits name 63 61
  if kind = 0 then .counter 0 (bits name 13 0) (bits name 19 14) else if kind ≤ 3 then .counter kind (bits name 13 0) 0 else .counter kind ctx (bits name 7 0)

/-- CC.WAIT: waits until count ≥ R, and acquires (R392); a name that is or becomes refused faults (R390). -/
def execCcWait (h : Hdr) (s : State) : Outcome :=
  match s.fx h true true with
  | none => .next s
  | some x => match s.counter (s.ctxOf x.g) x.l.toNat with
    | none => s.stop x 0x018 x.l.toNat
    | some c =>
      if c.count < x.r.toNat then .next (s.stall x)
      else (s.acquire x [counterPt (s.ctxOf x.g) x.l.toNat]).finish x h (BitVec.ofNat 64 c.count) 0 fun b => b.addPend x.i .acquire

/-- The entries a block reads or changes, for R320: the soft counters of a context. -/
def softSect (ctx c : Nat) : Sect := .tbl 6 ctx c

/-- Whether an instruction of the block that is not ordered with `i` has a commit action that `same` accepts (R257, R320). -/
def Block.unordered (b : Block) (i : Nat) (same : Pend → Bool) : Bool :=
  b.pend.any fun p => same p.2 && decide (p.1 ≠ i) && !b.after p.1 i && !b.after i p.1

/-- What a CC.ADD of the block that `i` is after has already added to a counter. -/
def Block.added (b : Block) (c i : Nat) : Nat :=
  (b.pend.map fun p => match p.2 with
    | .ccAdd k v => if k % 256 = c ∧ b.after p.1 i then v else 0
    | _ => 0).sum

/-- CC.ADD: adds R to a soft counter at commit (R393); R's limits are checked at issue (R384). -/
def execCcAdd (h : Hdr) (st : BitVec 2) (s : State) : Outcome :=
  match s.fx h true true with
  | none => .next s
  | some x =>
    if x.r = 0 ∨ 2 ^ 32 ≤ x.r.toNat then s.stopOpen x 0x004
    else s.frontierOnly x (
    let ctx := s.ctxOf x.g
    match s.counter ctx x.l.toNat with
    | none => s.stop x 0x018 x.l.toNat
    | some c =>
      if bits x.l.toNat 63 61 ≠ 5 then s.stop x 0x018 x.l.toNat
      else
        let k := bits x.l.toNat 7 0
        let n := c.count + x.b.added k x.i
        if 2 ^ 64 - 1 < n + x.r.toNat then s.stopOpen x 0x019
        else s.finish x h (BitVec.ofNat 64 n) 1 fun b =>
          b.addPend x.i (.ccAdd (k + 256 * st.toNat) x.r.toNat))

/-- CANCEL: notes the objects its name selects, cancelled at the commit (R394). -/
def execCancel (h : Hdr) (boundary : Bool) (s : State) : Outcome :=
  match s.fx h true false with
  | none => .next s
  | some x => s.frontierOnly x (
    let k := bits x.l.toNat 63 61
    if k = 2 ∨ k = 5 ∨ (s.counter (s.ctxOf x.g) x.l.toNat).isNone then s.stop x 0x018 x.l.toNat
    else s.finish x h 0 1 fun b => b.addPend x.i (.cancel x.l boundary))

/-! ## Penalty counts (R395 to R400) -/

/-- Reads a range as a block's loads of 8-byte words: the bytes and their places, or the state in which an access faulted or waits. -/
def readRange (s : State) (x : Fx) (a n : Nat) (k : AccKind) : Except State (List Byte × List Nat) :=
  match tryWords s x k ((n + 7) / 8) a [] with
  | .error s => .error s
  | .ok ps => .ok (((ps.flatMap fun p => s.loadBytes x p 8).take n), ps)

/-- The offset of the first of `n` words of `size` bytes, the first of them at `at_`, whose byte 3 is not 0. -/
def firstHigh (size : Nat) : Nat → Nat → List Byte → Option Nat
  | 0, _, _ => none
  | n + 1, at_, l => if (l[3]?).getD 0 = 0 then firstHigh size n (at_ + size) (l.drop size) else some at_

/-- The offset of the first word of a table, from `off` on, of which a bit above 23 and below 32 is set: the zero field beside a token (R395). -/
def penZero (t : List Byte) (off size n : Nat) : Option Nat := firstHigh size n off (t.drop off)

/-- The offset of the first malformed field of a penalty table, in the order of R397: magic, lgcap, zero fields, distinct, overlay lengths. A zero field
beside a token is named by the token's offset (DEDUCED, log entry 78). -/
def penBad (t : List Byte) : Option Nat :=
  if leAt t 0 4 ≠ 0x50454E54 then some 0
  else if leAt t 4 1 < 8 ∨ 16 < leAt t 4 1 then some 4
  else if leAt t 5 3 ≠ 0 then some 5
  else if leAt t 24 40 ≠ 0 then some 24
  else match penZero t 64 4 64 with
    | some o => some o
    | none => match penZero t 320 8 (2 ^ leAt t 4 1) with
      | some o => some o
      | none =>
        if 2 ^ leAt t 4 1 < leAt t 8 4 then some 8
        else ((List.range 4).find? fun b => decide (17 ≤ leAt t (12 + b) 1 ∧ leAt t (12 + b) 1 ≤ 0xFE)).map fun b => 12 + b

/-- A range read and to be written by a block (R244, R397): its bytes and their places. -/
def rangeBoth (s : State) (x : Fx) (a n : Nat) : Except State (List Byte × List Nat) :=
  match readRange s x a n .rd with
  | .error s => .error s
  | .ok r => match tryWords s x .wr ((n + 7) / 8) a [] with
    | .error s => .error s
    | .ok _ => .ok r

/-- The table a PEN instruction names, checked (R397): the first words say how long it is. -/
def penRead (s : State) (x : Fx) : Except State (List Byte × List Nat) :=
  let a := x.l.toNat
  match rangeBoth s x a 8 with
  | .error s => .error s
  | .ok (hd, _) =>
    if leAt hd 0 4 ≠ 0x50454E54 then .error (s.blockFault x.g 0x148 0)
    else if leAt hd 4 1 < 8 ∨ 16 < leAt hd 4 1 then .error (s.blockFault x.g 0x148 4)
    else match rangeBoth s x a (320 + 8 * 2 ^ leAt hd 4 1) with
      | .error s => .error s
      | .ok (t, ps) => match penBad t with
        | some o => .error (s.blockFault x.g 0x148 o)
        | none => if bit a 55 ∧ a < 2 ^ 56 then .error (s.blockFault x.g 0x04A a) else .ok (t, ps)

/-- A PEN instruction: the table's address, which is no CLU address (R395), is checked at issue (R384) (DEDUCED, log entry 53), and the instruction is frontier-only. -/
def penOp (s : State) (x : Fx) (k : List Byte → List Nat → Outcome) : Outcome :=
  if x.l.toNat % 64 ≠ 0 ∨ inWindow (spBase .clu) (spSize .clu) x.l.toNat = true then s.stopOpen x 0x004
  else s.frontierOnly x (match penRead s x with
    | .error s => .next s
    | .ok (old, ps) => k old ps)

/-- The words of a table that differ, as buffered stores (R397). -/
def penStores (i a : Nat) : List Nat → List (List Byte) → List (List Byte) → Nat → List BStore
  | p :: ps, o :: os, n :: ns, k =>
    if o = n then penStores i a ps os ns (k + 1) else ⟨i, a + 8 * k, p, n, false, []⟩ :: penStores i a ps os ns (k + 1)
  | _, _, _, _ => []

/-- A byte string with a field replaced. -/
def putAt (l : List Byte) (off : Nat) (b : List Byte) : List Byte := l.take off ++ b ++ l.drop (off + b.length)

/-- A PEN instruction that changed the table's bytes: its reads and its buffered writes. PEN instructions on one table must be ordered (R397). -/
def penFinish (s : State) (x : Fx) (h : Hdr) (old new : List Byte) (ps : List Nat) : Outcome :=
  let ts := penStores x.i x.l.toNat ps (chunks 8 old.length old) (chunks 8 new.length new) 0
  let mark : BStore := ⟨x.i, x.l.toNat, (ps[0]?).getD 0, old.take 4, false, []⟩
  match firstConflict x.b x.i (mark :: ts) with
  | some v => s.stop x 0x04B v
  | none => s.finish x h 0 1 fun b => { b.read (ps.flatMap fun p => sectors p 8) with stores := b.stores ++ (mark :: ts) }

/-- PEN.BRANCH: opens an overlay from a draft record (R398). -/
def execPenBranch (h : Hdr) (b : BitVec 2) (s : State) : Outcome :=
  match s.fx h true true with
  | none => .next s
  | some x =>
    let b := b.toNat
    if x.r.toNat % 64 ≠ 0 ∨ inWindow (spBase .loc) (spSize .loc) x.r.toNat = false then s.stopOpen x 0x004
    else penOp s x fun old ps => match readRange s x x.r.toNat 832 .rd with
      | .error s => .next s
      | .ok (dr, rp) =>
        let len := leAt dr (1 + b) 1
        let toks := (List.range len).map fun i => leAt dr (64 + 4 * (16 * b + i)) 4
        if 4 < leAt dr 0 1 then s.stop x 0x148 0
        else if 16 < len then s.stop x 0x148 (1 + b)
        else match (toks.zipIdx.find? fun t => decide (2 ^ 24 ≤ t.1)) with
          | some t => s.stop x 0x148 (64 + 4 * (16 * b + t.2))
          | none =>
            let new := putAt (putAt old (12 + b) [BitVec.ofNat 8 len]) (64 + 64 * b) (toks.flatMap (toBytes 4))
            match penFinish s x h old new ps with
            | .next t => .next (t.modBlock x.g fun k => k.read (rp.flatMap fun p => sectors p 8))
            | o => o

/-- The slot of a token: the first from its start that holds it or is empty (R395). -/
def penSlot (t : List Byte) (cap tok : Nat) : Nat → Nat → Option Nat
  | 0, _ => none
  | n + 1, i =>
    let w := leAt t (320 + 8 * i) 8
    if bits w 63 32 = 0 ∨ bits w 23 0 = tok then some i else penSlot t cap tok n ((i + 1) % cap)

/-- A token counted (R399); none where the table is full. -/
def penAdd (t : List Byte) (tok : Nat) : Option (List Byte) :=
  let cap := 2 ^ leAt t 4 1
  let t' := putAt t 16 (toBytes 8 (leAt t 16 8 + 1))
  match penSlot t cap tok cap ((tok * 0x9E3779B1) % 2 ^ 32 % cap) with
  | none => none
  | some i =>
    let n := bits (leAt t (320 + 8 * i) 8) 63 32
    if n = 0 then
      if leAt t 8 4 = cap then none
      else some (putAt (putAt t' 8 (toBytes 4 (leAt t 8 4 + 1))) (320 + 8 * i) (toBytes 8 (tok + 2 ^ 32)))
    else some (putAt t' (320 + 8 * i) (toBytes 8 (tok + 2 ^ 32 * min (n + 1) (2 ^ 32 - 1))))

/-- Tokens counted in order. -/
def penAddAll : List Nat → List Byte → Option (List Byte)
  | [], t => some t
  | x :: xs, t => match penAdd t x with
    | none => none
    | some t => penAddAll xs t

/-- PEN.ACCEPT: merges the accepted path into the base counts and closes the overlay (R399). -/
def execPenAccept (h : Hdr) (b : BitVec 2) (s : State) : Outcome :=
  match s.fx h true true with
  | none => .next s
  | some x =>
    let b := b.toNat
    let r := x.r.toNat
    let k := bits r 4 0
    if 16 < k ∨ bits r 7 5 ≠ 0 ∨ bits r 31 9 ≠ 0 ∨ bits r 63 56 ≠ 0 then s.stopOpen x 0x004
    else penOp s x fun old ps =>
      let len := leAt old (12 + b) 1
      if 0 < k ∧ (len = 0xFF ∨ len < k) then s.stop x 0x148 (12 + b)
      else
        let toks := ((List.range k).map fun j => leAt old (64 + 64 * b + 4 * j) 3) ++ (if bit r 8 then [bits r 55 32] else [])
        match penAddAll toks old with
        | none => s.stopOpen x 0x149
        | some t => penFinish s x h old (putAt t (12 + b) [0xFF]) ps

/-- PEN.DROP: closes the overlays of its mask (R400). -/
def execPenDrop (h : Hdr) (mask : BitVec 4) (s : State) : Outcome :=
  match s.fx h true false with
  | none => .next s
  | some x => penOp s x fun old ps =>
      penFinish s x h old (putAt old 12 ((List.range 4).map fun b => if mask.getLsbD b then 0xFF else (old[12 + b]?).getD 0)) ps

/-! ## Usage, performance and lifetime counters (R402 to R407) -/

/-- The first 448 bytes of a usage record (R404). -/
def usageBytes (s : State) (ctx seq : Nat) (nonce : List Byte) : List Byte :=
  let j := s.job ctx
  let ivs := (j.suspects.drop (j.suspects.length - 8)).flatMap fun v => toBytes 8 v.start ++ toBytes 8 v.stop
  toBytes 4 0x55534552 ++ toBytes 2 1 ++ toBytes 2 24 ++ toBytes 8 seq ++ nonce ++ toBytes 2 ctx ++ toBytes 6 0 ++ toBytes 8 s.micros
    ++ (List.range 24).flatMap (fun i => toBytes 8 (nget 0 j.usage i))
    ++ ivs ++ List.replicate (128 - ivs.length) 0
    ++ sliceB s.pk.flash.part 16 16 ++ List.replicate 48 0

/-- How long a signing request takes: its value comes 200 µs after execution (R403, DESIGN CHOICE, log entry 14). -/
def signTime : Nat := 1512000000

/-- The signing requests of the package that are still pending (R403). -/
def State.signing (s : State) : List Nat := s.pk.signing.filter fun t => decide (s.wall < t)

/-- A usage record of a job, counters as they stand, with its signature by the attestation key; the job's sequence number advances (R403, R404, R436). -/
def State.signUsage (s : State) (ctx : Nat) (nonce : List Byte) : State × List Byte :=
  let seq := (s.job ctx).recordSeq + 1
  let body := usageBytes s ctx seq nonce
  (s.drawn.modJob ctx fun j => { j with recordSeq := seq }, body ++ s.sign 0 body)

/-- The buffered words of a usage record. -/
def signStores (x : Fx) (a : Nat) (ps : List Nat) (out : List Byte) : List BStore := penStores x.i a ps (List.replicate 64 []) (chunks 8 512 out) 0

/-- USE.SIGN: a signed usage record written by the block (R403): the request, the record's place and its conflicts are checked and the counters are taken at
execution, where its bytes enter the block as buffered stores; the value comes when the record is signed. -/
def execUseSign (h : Hdr) (s : State) : Outcome :=
  match s.fx h true false with
  | none => .next s
  | some x =>
    if x.l.toNat % 64 ≠ 0 ∨ inWindow (spBase .loc) (spSize .loc) x.l.toNat = false then s.stopOpen x 0x004
    else s.frontierOnly x (match nfind x.b.signs x.i with
      | some (ready, out) =>
        if s.wall < ready then .next (s.stall x)
        else s.finish x h (BitVec.ofNat 64 (65536 * leAt out 8 6)) 1 id
      | none => match readRange s x x.l.toNat 64 .rd with
        | .error s => .next s
        | .ok (req, rp) =>
          let a := leAt req 32 8
          let read (b : Block) : Block := b.read (rp.flatMap fun p => sectors p 8)
          if leAt req 40 24 ≠ 0 ∨ a % 64 ≠ 0 ∨ (bit a 55 ∧ a < 2 ^ 56) then s.stopOpen x 0x004
          else match tryWords s x .wr 64 a [] with
            | .error s => .next s
            | .ok ps => match firstConflict x.b x.i (signStores x a ps (List.replicate 512 0)) with
              | some v => s.stop x 0x04B v
              | none =>
                if 4 ≤ s.signing.length then s.finish x h 5 1 read
                else match s.signUsage (s.ctxOf x.g) (req.take 32) with
                  | (t, out) => .next ((({ t with pk := { t.pk with signing := s.signing ++ [s.wall + signTime] } } : State).modBlock x.g fun b =>
                      { read b with signs := b.signs ++ [(x.i, s.wall + signTime, out)], stores := b.stores ++ signStores x a ps out }).stall x))

/-- PERF.READ (R405). -/
def execPerfRead (h : Hdr) (s : State) : Outcome :=
  match s.fx h true false with
  | none => .next s
  | some x =>
    if x.b.waitOpen then .next (s.stall x)
    else if 15 < x.l.toNat then s.stop x 0x018 x.l.toNat
    else s.finish x h (nget 0 (s.ww x.g).perf x.l.toNat) 0 id

/-- Whether LIFE.READ admits an item and index for a glade's context (R407). -/
def lifeOk (s : State) (g item idx : Nat) : Bool :=
  let mine (c : Nat) : Bool := match s.place g with
    | some p => decide (c < 64) && decide (c % 16 ∈ (s.job p.ctx).bands (c / 16))
    | none => false
  if item ≤ 3 then decide (idx < 512) && mine (clearingOf idx)
  else if item = 4 then mine idx
  else if item = 5 then decide (idx < 128)
  else if item ≤ 7 then decide (idx < 8)
  else if item ≤ 9 then decide (idx < 64)
  else false

/-- LIFE.READ (R407). -/
def execLifeRead (h : Hdr) (s : State) : Outcome :=
  match s.fx h true false with
  | none => .next s
  | some x =>
    let l := x.l.toNat
    if x.b.waitOpen then .next (s.stall x)
    else if bits l 63 32 ≠ 0 ∨ lifeOk s x.g (bits l 15 0) (bits l 31 16) = false then s.stop x 0x018 l
    else s.finish x h (BitVec.ofNat 64 (nget 0 s.pk.life (65536 * bits l 15 0 + bits l 31 16))) 0 id

end Sys2Proof.Machine
end

