-- ==== Sys2Proof/Machine/Fit.lean ====
section
/-! DEFINITION. Which bough a context holds, which origins of its partition a unit fits (R22, R38, R56), and the position a route word names
(R36). -/

namespace Sys2Proof.Machine

/-- One of the two boughs of a glade. -/
def Glade.pick (x : Glade) (b : Bool) : Bough := if x.active = b then x.cur else x.alt

/-- A glade with one of its boughs changed. -/
def Glade.put (x : Glade) (b : Bool) (v : Bough) : Glade := if x.active = b then { x with cur := v } else { x with alt := v }

/-- The runtime health bit of a glade (R29). -/
def State.healthy (s : State) (g : Nat) : Bool := s.pk.health.testBit g

/-- The partition of a context on a die: its northwest glade's (x, y) and its width and height in glades; none where it holds none. -/
def Job.rect (j : Job) (d : Nat) : Option (Nat × Nat × Nat × Nat) :=
  let p := (j.partitions[d]?).getD 0xFF
  if p = 0xFF then none else some (2 * bits p 1 0, 4 * bits p 3 2, 2 * (bits p 5 4 + 1), 4 * (bits p 7 6 + 1))

/-- The unit of a place held by glade `g` occupies glade `h` of its die: its rectangle covers it, also where the position is absent (R35, R38). -/
def Place.covers (p : Place) (g h : Nat) : Bool :=
  let x := g % 8 - p.ux
  let y := g % 128 / 8 - p.uy
  decide (dieOf g = dieOf h ∧ x ≤ h % 8 ∧ h % 8 < x + p.w ∧ y ≤ h % 128 / 8 ∧ h % 128 / 8 < y + p.h)

/-- A unit in the boughs `b` occupies a glade (R38). -/
def State.occupies (s : State) (b : Bool) (h : Nat) : Bool := s.glades.any fun x => ((x.2.pick b).place.map fun p => p.covers x.1 h).getD false

/-- A candidate origin (R56): the alignment holds, the rectangle is inside the partition, its glades are free of units of the context's
bough and are not taken already, and required positions are usable. -/
def State.fitsAt (s : State) (ctx d w h : Nat) (clearing : Bool) (req : Nat) (taken : List Nat) (r : Nat × Nat × Nat × Nat) (ox oy : Nat) : Bool :=
  let x0 := r.1 + ox
  let y0 := r.2.1 + oy
  (!clearing || (decide (x0 % 2 = 0) && decide (y0 % 4 = 0))) && decide (ox + w ≤ r.2.2.1) && decide (oy + h ≤ r.2.2.2)
    && (List.range (w * h)).all fun i =>
      let g := gladeAt d (x0 + i % w) (y0 + i / w)
      !s.occupies ((s.job ctx).bough d) g && !taken.contains g && (!req.testBit i || s.healthy g)

/-- The first origin that fits, relative to the partition, in ascending (oy, ox) (R56). -/
def State.fit (s : State) (ctx d w h : Nat) (clearing : Bool) (req : Nat) (taken : List Nat) : Option (Nat × Nat) :=
  match (s.job ctx).rect d with
  | none => none
  | some r => ((List.range 128).map fun i => (i % 8, i / 8)).find? fun o => s.fitsAt ctx d w h clearing req taken r o.1 o.2

/-- A route word in image form as placement rewrites it (R36, R326): a word of a kind other than ZONE holds the absolute glade index, and is invalid
where its position is absent. -/
def Place.routed (p : Place) (g v : Nat) : Nat :=
  if bits v 62 60 = 5 then v
  else
    let w := v % 2 ^ 51 + 2 ^ 51 * (p.gladeAt g (bits v 53 51) (bits v 57 54) % 512) + 2 ^ 60 * (v / 2 ^ 60)
    if p.has (bits v 53 51) (bits v 57 54) && decide (bits v 59 58 = 0) then w else w % 2 ^ 63

/-- A route word in image form as an agent of a glade finds it (R36, R326). -/
def State.routeOf (s : State) (g v : Nat) : Nat :=
  match s.place g with
  | none => v
  | some p => p.routed g v

/-- The word an agent of a glade finds in an entry of its route table (R326). -/
def State.route (s : State) (g e : Nat) : Nat := s.routeOf g (nget 0 (s.eng g).routes e).toNat

/-- The glade whose burrow and rills a stream of a glade with this generic destination uses (R76): the glade of a CLU address, else its own. -/
def State.consumer (s : State) (g a : Nat) : Nat :=
  if inWindow (spBase .clu) (spSize .clu) a then
    match s.place g with
    | some p => p.gladeAt g ((a - spBase .clu) / 2 ^ 20 % 8) ((a - spBase .clu) / 2 ^ 23)
    | none => g
  else g

/-- The burrow offset of a generic address of the glade's own burrow: LOC, or CLU of its own position (R130, R295, R323). -/
def State.ownOffset (s : State) (g a : Nat) : Option Nat :=
  if inWindow (spBase .loc) (spSize .loc) a then some (a - spBase .loc)
  else if inWindow (spBase .clu) (spSize .clu) a then
    match s.place g with
    | some p => if (a - spBase .clu) / 2 ^ 20 % 8 = p.ux ∧ (a - spBase .clu) / 2 ^ 23 = p.uy then some ((a - spBase .clu) % 2 ^ 20) else none
    | none => none
  else none

end Sys2Proof.Machine
end

