-- ==== Sys2Proof/Machine/Tables.lean ====
section
/-! DEFINITION. The meanings of the table instructions (R318 to R348): arm table, route table, rills, understory tag table, landing zones,
time slots, PLACE. A changed entry is noted in the block and written at its commit. -/

namespace Sys2Proof.Machine

/-! ## Common rules (R319 to R321) -/

/-- TABLE_FORMAT with a word or an offset (R321). -/
def tableFormat (s : State) (x : Fx) (v : Nat) : Outcome := s.stop x 0x140 v

/-- TABLE_RANGE with an index (R321). -/
def tableRange (s : State) (x : Fx) (v : Nat) : Outcome := s.stop x 0x141 v

/-- The value of STORE_CONFLICT for a change that is not ordered with an earlier one of the block to the same entry: the L operand of the
instruction with the higher index (R320). -/
def Block.clash (b : Block) (i : Nat) (l : Word) (same : Pend → Bool) : Option Nat :=
  (b.pend.find? fun p => same p.2 && decide (p.1 ≠ i) && !b.after p.1 i && !b.after i p.1).map fun p =>
    if p.1 < i then l.toNat else ((nfind b.opL p.1).getD 0).toNat

def State.seed (s : State) (d k : Nat) : Seed := nget {} (s.die d).seeds k
def State.graft (s : State) (e : Nat) : Graft := nget {} s.grafts e

/-- The bank a handle word names for a glade (R351). -/
def State.seedOf (s : State) (g w : Nat) : Option Nat :=
  let k := bits w 11 0
  let b := s.seed (dieOf g) k
  if b.isOpen ∧ b.ctx = s.ctxOf g ∧ b.gen = bits w 43 12 then some k else none

/-- The entry a handle names for a context (R373). -/
def State.graftOf (s : State) (ctx w : Nat) : Option Nat :=
  let e := bits w 15 0
  let x := s.graft e
  if x.st ≠ .free ∧ x.ctx = ctx ∧ x.gen = bits w 31 16 then some e else none

/-- Read-set entries of an arm entry, a (ctx, tag) pair, a rill, a tag-table set, a seed bank, a die's handle table, a graft entry,
the graft of an (id, version) of a context (R319, R320, R363, R377). -/
def armSect (d k : Nat) : Sect := .tbl 1 d k
def pairSect (ctx tag : Nat) : Sect := .tbl 10 ctx tag
def rillSect (g r : Nat) : Sect := .tbl 3 g r
def tagSect (d ctx set : Nat) : Sect := .tbl 4 (1024 * d + ctx) set
def seedSect (d k : Nat) : Sect := .tbl 8 d k
def openSect (d : Nat) : Sect := .tbl 11 d 0
def graftSect (e : Nat) : Sect := .tbl 9 0 e
def findSect (ctx id ver : Nat) : Sect := .tbl 12 ctx (65536 * id + ver)

/-- The entry that an executed frontier-only instruction of a glade's block names by its L operand (R319, R363, R377). -/
def State.namedBy (s : State) (g op l : Nat) : List Sect :=
  if op = 0x101 then [armSect (bits l 13 12) (bits l 11 0)]
  else if op = 0x103 then [rillSect g l]
  else if op = 0x107 ∨ op = 0x108 then [tagSect (dieOf g) (s.ctxOf g) (l / 16)]
  else if op = 0x110 then [openSect (dieOf g)]
  else if op ∈ [0x111, 0x113, 0x114, 0x115, 0x116] then ((s.seedOf g l).map (seedSect (dieOf g))).toList
  else if op = 0x119 ∨ op = 0x11A then ((s.graftOf (s.ctxOf g) l).map graftSect).toList
  else []

/-- The entries a commit action of a frontier-only instruction holds beside what its L operand names (R319). -/
def State.heldBy (s : State) (g : Nat) : Pend → List Sect
  | .arm d k e => armSect d k :: if e.kind = 2 then [] else [pairSect (s.ctxOf g) e.tag]
  | .graft op args => if op = 0x118 then [graftSect ((args[0]?).getD 0)] else []
  | .hold x => [x]
  | _ => []

/-- Another glade's block in flight holds an entry, from the execution of the instruction that names it to its commit (R319). -/
def State.held (s : State) (g : Nat) (x : Sect) : Bool :=
  s.glades.any fun y => decide (y.1 ≠ g) && match y.2.cur.ww.block with
    | some b => (b.done.any fun i => decide (x ∈ s.namedBy y.1 (wordOpcode (b.word i)) (nget 0 b.opL i).toNat))
        || b.pend.any fun p => decide (x ∈ s.heldBy y.1 p.2)
    | none => false

/-- A frontier-only instruction that changes nothing has executed: its value, and the hold on the entry it names (R319, R321). -/
def holdOp (h : Hdr) (x : Fx) (v : Nat) (reads : List Sect) (e : Option Sect) (s : State) : Outcome :=
  s.finish x h (BitVec.ofNat 64 v) 1 fun b => match e with
    | some e => (b.read reads).addPend x.i (.hold e)
    | none => b.read reads

/-- A table instruction has executed: its value, and its commit action unless the entry is changed twice out of order (R320, R321). -/
def tableOp (h : Hdr) (x : Fx) (v : Nat) (reads : List Sect) (act : Option Pend) (same : Pend → Bool) (s : State) : Outcome :=
  match act with
  | none => s.finish x h (BitVec.ofNat 64 v) 1 fun b => b.read reads
  | some p => match x.b.clash x.i x.l same with
    | some c => s.stop x 0x04B c
    | none => s.finish x h (BitVec.ofNat 64 v) 1 fun b => (b.read reads).addPend x.i p

/-! ## The tables and their changes (R320, R322, R329, R336, R340) -/

/-- pending of a rill (R329). -/
def Rill.pending (r : Rill) : Nat := r.arrived - r.base

/-- Declared count (R329). -/
def Rill.declared (r : Rill) : Nat := bits r.cfg.toNat 31 0

/-- The rill has reached its declared count (R329). -/
def Rill.reached (r : Rill) : Bool := decide (r.declared ≠ 0) && decide (r.declared ≤ r.pending)

/-- What a read of a rill's arrival acquires (R280): the bytes counted, once the declared count is reached, unless it is TORN. -/
def State.arrivalPts (s : State) (g r : Nat) : List Point :=
  let x := nget {} (s.eng g).rills r
  if x.reached && decide (x.status ≠ 1) then [.rill (s.home g) r x.arms] else []

/-- Re-arming a rill (R329, R334). -/
def Rill.rearm (r : Rill) : Rill := { r with base := r.arrived, arms := min (r.arms + 1) (2 ^ 64 - 1), status := 0, fired := false }

/-- The STATE value of RILL.GET (R333). -/
def Rill.stateWord (r : Rill) : Nat := 2 ^ 62 * r.status + 2 ^ 32 * (r.arms % 2 ^ 30) + min r.pending (2 ^ 32 - 1)

def Engines.rill (e : Engines) (k : Nat) : Rill := nget {} e.rills k

/-- NS, the number of sets of a context's tag table on a die (R336). -/
def State.tagSets (s : State) (ctx d : Nat) : Nat := 1536 * (s.bands ctx d).length

/-- The key of a slot of a context's tag table: the line it names, which keeps its slot with its band (R236, R336). -/
def State.tagKey (s : State) (d ctx slot : Nat) : Nat := 2 ^ 19 * ctx + s.shrLine ctx d slot

/-- The word of a slot. -/
def State.tagWord (s : State) (d ctx slot : Nat) : Nat := (nget 0 (s.die d).tags (s.tagKey d ctx slot)).toNat

/-- The fill pointer of a set. -/
def State.tagFill (s : State) (d ctx set : Nat) : Nat := nget 0 (s.die d).fill (s.tagKey d ctx (16 * set) / 16)

/-- The die and context of a glade's unit. -/
def State.dieCtx (s : State) (g : Nat) : Nat × Nat := (dieOf g, s.ctxOf g)

/-- A zone of a glade, if it is valid. -/
def Engines.zone (e : Engines) (k : Nat) : Option Zone := (nfind e.zones k).bind fun z => if z.valid then some z else none

def Zone.slotOf (z : Zone) (k : Nat) : ZSlot := nget {} z.slot k

/-- The new word of a tag slot, and whether the fill pointer advances (R338): TAG.SET 0, SECT 1, TAG.INV 2. -/
def State.tagNext (s : State) (d ctx slot fn r : Nat) : Nat × Bool :=
  let old := s.tagWord d ctx slot
  if fn = 0 then (256 * (r / 256), decide (slot % 16 = s.tagFill d ctx (slot / 16)))
  else if fn = 1 then (2 ^ 16 * (old / 2 ^ 16) + 256 * bits r 15 8, false)
  else (2 ^ 16 * bits old 62 16, false)

/-- What a commit action of a block of a glade does to the tables (R320, R324, R325, R328, R332, R334, R338); others are done where the block commits. -/
def State.tableChange (s : State) (g : Nat) : Pend → State
  | .arm d idx e => s.modDie d fun x => { x with arms := nset x.arms idx e }
  | .disarm d idx => s.modDie d fun x => { x with arms := nmod {} x.arms idx fun a => { a with st := .disarming } }
  | .rte e w => s.modEng g fun x => { x with routes := nset x.routes e w }
  | .rillSet r w => s.modEng g fun e => { e with rills := nmod {} e.rills r fun x => { x with cfg := w, blk := 0 }.rearm }
  | .rillReset r => s.modEng g fun e => { e with rills := nmod {} e.rills r Rill.rearm }
  | .tag slot fn w =>
    let (d, ctx) := s.dieCtx g
    let n := s.tagNext d ctx slot fn w.toNat
    s.modDie d fun x => { x with
      tags := nset x.tags (s.tagKey d ctx slot) (BitVec.ofNat 64 n.1)
      fill := if n.2 then nmod 0 x.fill (s.tagKey d ctx slot / 16) fun k => (k + 1) % 16 else x.fill }
  | _ => s

/-- A FULL slot that SLOT.REL.DONE gives back, as later instructions of its block find it (R340). -/
def State.slotGiven (s : State) (g zone slot : Nat) : State :=
  s.modEng g fun e => { e with zones := nmod {} e.zones zone fun z =>
    { z with slot := nmod {} z.slot slot fun y => if y.ended then {} else { y with st := .reserved, fill := 0 } } }

/-- The tables as an instruction of a block finds them: with the changes of the block's instructions it is after, as a load finds stores (R257, R320). -/
def State.seen (s : State) (x : Fx) : State :=
  x.b.pend.foldl (fun s p => if x.b.after p.1 x.i then (match p.2 with
    | .slotDone zone slot => s.slotGiven x.g zone slot
    | q => s.tableChange x.g q) else s) s

/-! ## The arm table (R322 to R325) -/

/-- The offset of the first offending field of an arm descriptor (R323). -/
def armBad (d : List Byte) : Option Nat :=
  let kind := leAt d 5 1
  let np := leAt d 10 1
  if kind = 2 ∧ leAt d 0 4 ≠ 0 then some 0
  else if 3 < leAt d 4 1 then some 4
  else if 2 < kind then some 5
  else if 3 < leAt d 6 1 then some 6
  else if leAt d 7 1 < 1 ∨ 64 < leAt d 7 1 then some 7
  else if (if kind = 2 then leAt d 8 2 ≥ 2 ^ 14 else leAt d 8 2 ≠ 0) then some 8
  else if (if kind = 2 then np < 1 ∨ 8 < np else np ≠ 0) then some 10
  else if leAt d 11 1 ≠ 0 then some 11
  else match (List.range 8).find? fun i => if i < np then decide (2 ^ 14 ≤ leAt d (12 + 2 * i) 2) else decide (leAt d (12 + 2 * i) 2 ≠ 0) with
    | some i => some (12 + 2 * i)
    | none => if leAt d 28 36 ≠ 0 then some 28 else if leAt d 112 16 ≠ 0 then some 112 else none

/-- The arm entry an index word names: [13:12] die, [11:0] index. -/
def State.arm (s : State) (w : Nat) : ArmEnt := nget {} (s.die (bits w 13 12)).arms (bits w 11 0)

/-- Whether (ctx, tag) is ARMED or DISARMING on any die (R324). -/
def State.tagHeld (s : State) (ctx tag : Nat) : Bool :=
  (List.range 4).any fun d => (s.die d).arms.any fun e => decide (e.2.st ≠ .free ∧ e.2.ctx = ctx ∧ e.2.kind ≠ 2 ∧ e.2.tag = tag)

/-- The ARMED NONROOT entries of the graph of a root. -/
def State.members (s : State) (root : Nat) : List ArmEnt :=
  (List.range 4).flatMap fun d =>
    ((s.die d).arms.filter fun e => decide (e.2.st = .armed ∧ e.2.kind = 2 ∧ e.2.root = root)).map fun e => e.2

/-- Whether a NONROOT descriptor joins a graph of the context that has room for it (R324). -/
def State.graphOk (s : State) (ctx root : Nat) (preds : List Nat) : Bool :=
  let r := s.arm root
  decide (r.st = .armed ∧ r.kind = 1 ∧ r.ctx = ctx)
    && preds.all (fun p => let e := s.arm p
      decide (e.st = .armed ∧ e.ctx = ctx) && (decide (p = root) || decide (e.kind = 2 ∧ e.root = root)))
    && decide ((s.members root).length + 1 < 64)

/-- What the loader makes of the images of a list of addresses (R324): the copies, or the status and reason that refuse them; status 0 is a wait
for a sector an atomic holds (R263). -/
def State.armImages (s : State) (g ctx : Nat) : List Nat → State × Except (Nat × Nat) (List (List Byte))
  | [] => (s, .ok [])
  | a :: t =>
    match s.readImage g ctx a with
    | (s, none) => (s, .error (0, 0))
    | (s, some none) => (s, .error (7, 0))
    | (s, some (some m)) =>
      let j := s.job ctx
      match imageRefused s.pk.libKey (j.imageKey.map (·.2)) (s.pk.flash.entries.map sha256) m with
      | some c => (s, .error (6, c))
      | none =>
        if j.invariantOnly && !(imgLibrary m && imgInvariant m) then (s, .error (4, 0))
        else match State.armImages s g ctx t with
          | (s, .ok l) => (s, .ok (m :: l))
          | r => r

/-- The value of ARM (R324). -/
def armValue (st reason e die : Nat) : Nat := st + 256 * reason + 65536 * e + 2 ^ 28 * die

/-- The lowest FREE entry of a die. -/
def State.freeArm (s : State) (die : Nat) : Option Nat :=
  (List.range 4096).find? fun k => decide ((nget ({} : ArmEnt) (s.die die).arms k).st = .free)

/-- The commit actions that change an arm entry or take a (ctx, tag) pair. -/
def sameArm (die e : Nat) (tag : Option Nat) : Pend → Bool
  | .arm d k a => decide (d = die ∧ k = e) || (decide (a.kind ≠ 2) && tag = some a.tag)
  | .disarm d k => decide (d = die ∧ k = e)
  | _ => false

/-- ARM (R324). -/
def execArm (h : Hdr) (s : State) : Outcome :=
  match s.fx h true true with
  | none => .next s
  | some x => s.frontierOnly x (
    if (s.ownOffset x.g x.l.toNat).isNone ∨ x.l.toNat % 64 ≠ 0 then tableFormat s x x.l.toNat
    else match readRange s x x.l.toNat 128 .rd with
      | .error s => .next s
      | .ok (d, dp) => match armBad d with
        | some o => tableFormat s x o
        | none =>
          let ctx := s.ctxOf x.g
          let kind := leAt d 5 1
          let die := leAt d 6 1
          let tag := if kind = 2 then none else some (leAt d 0 4)
          let preds := (List.range (leAt d 10 1)).map fun i => leAt d (12 + 2 * i) 2
          let reads := dp.flatMap fun p => sectors p 8
          let t := s.seen x
          let done (s : State) (v : Nat) : Outcome := holdOp h x v reads (tag.map (pairSect ctx)) s
          if kind ≠ 2 ∧ t.tagHeld ctx (leAt d 0 4) then done s 2
          else if (s.job ctx).classCap < leAt d 4 1 then done s 4
          else if kind = 2 ∧ t.graphOk ctx (leAt d 8 2) preds = false then done s 4
          else match t.freeArm die with
            | none => done s 1
            | some e =>
              if s.held x.g (armSect die e) || (tag.map fun k => s.held x.g (pairSect ctx k)).getD false then .next (s.stall x)
              else match readRange s x x.r.toNat (8 * leAt d 7 1) .rd with
                | .error s => .next s
                | .ok (lst, lp) =>
                  match s.armImages x.g ctx ((chunks 8 (leAt d 7 1) lst).map ofBytes) with
                  | (s, .error (0, _)) => .next (s.stall x)
                  | (s, .error (st, reason)) => done s (armValue st reason 0 0)
                  | (s, .ok images) =>
                    let ent : ArmEnt := { st := .armed, ctx := ctx, tag := leAt d 0 4, cls := leAt d 4 1, kind := kind, root := leAt d 8 2
                                          preds := preds, args := (List.range 6).map fun i => BitVec.ofNat 64 (leAt d (64 + 8 * i) 8)
                                          images := images }
                    tableOp h x (armValue 0 0 e die) (reads ++ lp.flatMap fun p => sectors p 8) (some (.arm die e ent)) (sameArm die e tag) s)

/-- The status of DISARM (R325). -/
def State.disarmStatus (s : State) (ctx w : Nat) : Nat :=
  let e := s.arm w
  if e.st ≠ .armed ∨ e.ctx ≠ ctx then 3
  else if e.kind = 1 ∧ (s.members w).isEmpty = false then 5
  else if (List.range 4).any (fun d => (s.die d).arms.any fun m => decide (m.2.st = .armed ∧ m.2.kind = 2) && m.2.preds.contains w) then 5
  else 0

/-- DISARM (R325). -/
def execDisarm (h : Hdr) (s : State) : Outcome :=
  match s.fx h true false with
  | none => .next s
  | some x => s.frontierOnly x (
    let l := x.l.toNat
    if bits l 63 14 ≠ 0 then tableFormat s x l
    else
      let same := sameArm (bits l 13 12) (bits l 11 0) none
      if s.held x.g (armSect (bits l 13 12) (bits l 11 0)) then .next (s.stall x)
      else
        let st := (s.seen x).disarmStatus (s.ctxOf x.g) l
        tableOp h x st [armSect (bits l 13 12) (bits l 11 0)] (if st = 0 then some (.disarm (bits l 13 12) (bits l 11 0)) else none) same s)

/-! ## The route table and rills (R326 to R334) -/

/-- RTE.SET (R328): the position of every kind but ZONE is checked, whether the word is valid or not. -/
def execRteSet (h : Hdr) (s : State) : Outcome :=
  match s.fx h true true with
  | none => .next s
  | some x =>
    let l := x.l.toNat
    let r := x.r.toNat
    if bits l 63 8 ≠ 0 then tableFormat s x l
    else if routeReserved r then tableFormat s x r
    else
      let same : Pend → Bool := fun p => match p with
        | .rte e _ => decide (e = l)
        | _ => false
      let put (st : Nat) (w : Nat) : Outcome :=
        tableOp h x st [.tbl 2 x.g l] (some (.rte l (BitVec.ofNat 64 w))) same s
      match s.place x.g with
      | none => put 0 r
      | some p =>
        if bits r 62 60 = 5 then put 0 r
        else if routeOutside p.w p.h r then tableOp h x 4 [.tbl 2 x.g l] none same s
        else if p.has (bits r 53 51) (bits r 57 54) then put 0 r
        else put 9 (r % 2 ^ 63)

/-- Whether an entry uses a rill of its glade: a stand entry as an A-slot rill, a raft or link entry counting into it (R332). -/
def QEntry.uses (s : State) (g : Nat) (q : QEntry) (r : Nat) : Bool :=
  if q.kind = 1 then decide (leAt q.desc 31 1 ≤ r) && decide (r < leAt q.desc 31 1 + leAt q.desc 30 1)
  else if q.kind = 2 then
    let k := leAt q.desc 41 1
    decide (k ≠ 0xFF) && decide (s.consumer g (leAt q.desc 24 8) = g)
      && (if leAt q.desc 42 1 = 1 then decide (k ≤ r) && decide (r < k + leAt q.desc 40 1) else decide (k = r))
  else if q.kind = 5 then decide (leAt q.desc 36 1 = r)
  else false

/-- A rill is bound by a started entry of its glade (R332). -/
def State.rillBound (s : State) (g r : Nat) : Bool :=
  ((s.eng g).queues.any fun q => q.2.any fun e => decide (e.state = 1) && e.uses s g r)

def sameRill (k : Nat) : Pend → Bool
  | .rillSet r _ => decide (r = k)
  | .rillReset r => decide (r = k)
  | _ => false

/-- RILL.SET (R332). -/
def execRillSet (h : Hdr) (s : State) : Outcome :=
  match s.fx h true true with
  | none => .next s
  | some x => s.frontierOnly x (
    let l := x.l.toNat
    if bits l 63 5 ≠ 0 then tableFormat s x l
    else if rillReserved x.r.toNat then tableFormat s x x.r.toNat
    else if s.rillBound x.g l then tableOp h x 5 [.tbl 3 x.g l] none (sameRill l) s
    else tableOp h x 0 [.tbl 3 x.g l] (some (.rillSet l x.r)) (sameRill l) s)

/-- RILL.GET (R333); STATE acquires the bytes counted where the rill has reached its count with status OK or ERR (R280). -/
def execRillGet (h : Hdr) (f : RillFn) (s : State) : Outcome :=
  match s.fx h true false with
  | none => .next s
  | some x =>
    let l := x.l.toNat
    if bits l 63 5 ≠ 0 then tableFormat s x l
    else
      let r := ((s.seen x).eng x.g).rill l
      match f with
      | .arrived => tableOp h x r.arrived [.tbl 3 x.g l] none (sameRill l) s
      | .config => tableOp h x r.cfg.toNat [.tbl 3 x.g l] none (sameRill l) s
      | .state =>
        let got := r.reached && (decide (r.status = 0) || decide (r.status = 3))
        let from_ : List Point := if got then [.rill (s.home x.g) l r.arms] else []
        (s.acquire x from_).finish x h (BitVec.ofNat 64 r.stateWord) 1 fun b =>
          let b := b.read [.tbl 3 x.g l]
          if got then b.addPend x.i .acquire else b

/-- RILL.RESET (R334). -/
def execRillReset (h : Hdr) (s : State) : Outcome :=
  match s.fx h true false with
  | none => .next s
  | some x =>
    let l := x.l.toNat
    if bits l 63 5 ≠ 0 then tableFormat s x l
    else tableOp h x (((s.seen x).eng x.g).rill l).stateWord [.tbl 3 x.g l] (some (.rillReset l)) (sameRill l) s

/-! ## The understory tag table (R336 to R338) -/

/-- The value of TAG.LOOK.LOOKUP (R337) from the leaf hint its translation found. -/
def State.tagLookup (s : State) (d ctx va : Nat) (hint : Option Nat) : Nat :=
  let ns := s.tagSets ctx d
  let set := bits va 55 9 % ns
  let w (way : Nat) : Nat := s.tagWord d ctx (16 * set + way)
  match (List.range 16).find? fun k => bit (w k) 63 && decide (bits (w k) 62 16 = bits va 55 9) with
  | some k => 2 ^ 23 * bits (w k) 11 8 + 2 ^ 19 * bits (w k) 15 12 + (16 * set + k)
  | none =>
    let v := match (List.range 16).find? fun k => !bit (w k) 63 with
      | some k => k
      | none => s.tagFill d ctx set
    2 ^ 63 + 2 ^ 31 * b2n (bit (w v) 63) + 2 ^ 30 * b2n hint.isNone + 2 ^ 28 * hint.getD 0 + 2 ^ 23 * bits (w v) 11 8
      + 2 ^ 19 * bits (w v) 15 12 + (16 * set + v)

/-- TAG.LOOK.LOOKUP: translates as LD.T does, without a page request, and never faults (R260, R337). -/
def execTagLookLookup (h : Hdr) (s : State) : Outcome :=
  match s.fx h true false with
  | none => .next s
  | some x =>
    let l := x.l.toNat
    if bits l 63 56 ≠ 0 then tableFormat s x l
    else
      let (d, ctx) := s.dieCtx x.g
      if s.tagSets ctx d = 0 then tableRange s x 0
      else
        match s.resolveNow x.g l 1 1 .rd with
        | (t, r) =>
        let vf := ((t.place x.g).map (·.vf)).getD 0
        let w : Waiter := ⟨4, x.g, x.i⟩
        let page := l % 2 ^ 55 / 4096
        if decide (r = .walk ctx (l / 4096 * 4096)) then .next (t.stall x)
        else if r = .host page ∧ t.pageFailed vf page w = false then .next ((t.needPage vf page false w).stall x)
        else
        let t := if r = .host page then t.leavePage vf page w else t
        let v := t.seen x
        let hint := match r with
          | .ok _ => some (if bit l 55 then 0 else match t.cached x.g ctx false l with
            | some e => leafHint e.leaf.toNat
            | none => 0)
          | _ => none
        tableOp h x (v.tagLookup d ctx l hint) [tagSect d ctx (bits l 55 9 % t.tagSets ctx d)] none (fun _ => false) t

/-- TAG.LOOK.READ (R337). -/
def execTagLookRead (h : Hdr) (s : State) : Outcome :=
  match s.fx h true false with
  | none => .next s
  | some x =>
    let l := x.l.toNat
    let (d, ctx) := s.dieCtx x.g
    if 16 * s.tagSets ctx d ≤ l then tableRange s x l
    else tableOp h x ((s.seen x).tagWord d ctx l) [tagSect d ctx (l / 16)] none (fun _ => false) s

/-- The commit actions that change a tag-table set of a context. -/
def sameTag (set : Nat) : Pend → Bool
  | .tag k _ _ => decide (k / 16 = set)
  | _ => false

/-- TAG.SET, and TAG.SET.SECT of a slot (R338). -/
def tagSetOp (h : Hdr) (sect : Bool) (s : State) : Outcome :=
  match s.fx h true true with
  | none => .next s
  | some x => s.frontierOnly x (
    let l := x.l.toNat
    let r := x.r.toNat
    let (d, ctx) := s.dieCtx x.g
    let ns := s.tagSets ctx d
    let set := l / 16
    let t := s.seen x
    let same := sameTag set
    if 16 * ns ≤ l then tableRange s x l
    else if s.held x.g (tagSect d ctx set) then .next (s.stall x)
    else if sect then
      if bit (t.tagWord d ctx l) 63 = false then tableOp h x 3 [tagSect d ctx set] none same s
      else tableOp h x 0 [tagSect d ctx set] (some (.tag l 1 x.r)) same s
    else if bit r 63 = false ∨ bits r 11 8 &&& (15 - bits r 15 12) ≠ 0 then tableFormat s x r
    else if bits r 62 16 % ns ≠ set then tableOp h x 10 [tagSect d ctx set] none same s
    else if (List.range 16).any fun k => decide (k ≠ l % 16) && (let w := t.tagWord d ctx (16 * set + k); bit w 63 && decide (bits w 62 16 = bits r 62 16)) then
      tableOp h x 2 [tagSect d ctx set] none same s
    else tableOp h x 0 [tagSect d ctx set] (some (.tag l 0 x.r)) same s)

/-- TAG.SET (R338). -/
def execTagSet (h : Hdr) (s : State) : Outcome := tagSetOp h false s

/-- TAG.SET.SECT (R338). -/
def execTagSetSect (h : Hdr) (s : State) : Outcome := tagSetOp h true s

/-- TAG.INV (R338). -/
def execTagInv (h : Hdr) (s : State) : Outcome :=
  match s.fx h true false with
  | none => .next s
  | some x => s.frontierOnly x (
    let l := x.l.toNat
    let (d, ctx) := s.dieCtx x.g
    if 16 * s.tagSets ctx d ≤ l then tableRange s x l
    else if s.held x.g (tagSect d ctx (l / 16)) then .next (s.stall x)
    else tableOp h x ((s.seen x).tagWord d ctx l) [tagSect d ctx (l / 16)] (some (.tag l 2 0)) (sameTag (l / 16)) s)

/-! ## Landing zones (R339 to R343) -/

/-- The slots of a zone that a key's continuing reservation holds. -/
def Zone.keySlots (z : Zone) (k : SlotKey) : List Nat := nkeys z.slot fun _ v => decide (v.st ≠ .free ∧ v.key = k ∧ v.ended = false)

/-- The engines with a key of a zone held (R319). -/
def Engines.hold (zone : Nat) (k : SlotKey) (e : Engines) : Engines :=
  { e with zones := nmod {} e.zones zone fun z => { z with holders := if k ∈ z.holders then z.holders else z.holders ++ [k] } }

/-- The answer of a destination to SLOT.RES (R341): status, granted, lowest, and the state with the slots reserved; the key is held until the block that asked
commits, whatever the answer (R319). -/
def State.reserve (s : State) (g zone : Nat) (k : SlotKey) (n : Nat) : State × Nat × Nat × Nat :=
  match s.place g, (s.eng g).zone zone with
  | some p, some z =>
    let admitted : Bool :=
      if k.pkg = s.self then decide ((s.place k.glade).map (·.ctx) = some p.ctx) else (s.job p.ctx).callers.testBit k.pkg
    if admitted = false then (s, 4, 0, 0)
    else if (z.keySlots k).isEmpty = false then (s.modEng g (Engines.hold zone k), 2, 0, 0)
    else
      let free := (List.range z.slots).filter fun i => decide ((z.slotOf i).st = .free)
      if free.length < n then (s.modEng g (Engines.hold zone k), 1, 0, 0)
      else
        let slot := (free.take n).foldl (fun m i => nset m i ({ st := .reserved, key := k } : ZSlot)) z.slot
        (s.modEng g fun e => { e with zones := nset e.zones zone { z with slot := slot, holders := if k ∈ z.holders then z.holders else z.holders ++ [k] } }, 0, n, free.headD 0)
  | _, _ => (s, 4, 0, 0)

/-- The two boughs of a glade change places; what waits for either stays as it is. -/
def Glade.turned (x : Glade) : Glade := { x with active := !x.active, cur := x.alt, alt := x.cur }

/-- A reservation asked for in a glade's boughs (R341): in the active one, else in the other, whose unit is that of the context the source runs. -/
def State.reserveHome (s : State) (g zone : Nat) (k : SlotKey) (n : Nat) : State × Nat × Nat × Nat :=
  if ((s.eng g).zone zone).isSome ∨ (s.glade g).alt.place.isNone then s.reserve g zone k n
  else if k.pkg = s.self ∧ (s.place k.glade).map (·.ctx) ≠ (s.glade g).alt.place.map (·.ctx) then (s, 4, 0, 0)
  else
    match (s.modGlade g Glade.turned).reserve g zone k n with
    | (t, r) => (t.modGlade g Glade.turned, r)

/-- The value of SLOT.RES (R341). -/
def slotValue (st n low : Nat) : Nat := st + 256 * n + 65536 * low

/-- The state in which an instruction of a block has asked another package (R341): the request goes out on a link that is up. -/
def State.ask (s : State) (x : Fx) (z : ZoneRef) (op count : Nat) : State :=
  let s := match s.linkTo z.pkg with
    | some l => s.sendFlit l 3 (slotCtl op z.glade z.zone x.g z.rill count 0 0)
    | none => s
  (s.modBlock x.g fun b => { b with asked := b.asked ++ [(x.i, s.wall)] }).stall x

def sameKey (z : ZoneRef) : Pend → Bool
  | .slotHeld y n _ => decide (y = z ∧ n ≠ 0)
  | .slotRelease y => decide (y = z)
  | _ => false

/-- SLOT.RES (R341). -/
def execSlotRes (h : Hdr) (s : State) : Outcome :=
  match s.fx h true true with
  | none => .next s
  | some x => s.frontierOnly x (
    let l := x.l.toNat
    let z := slotRef l
    if bits l 63 26 ≠ 0 then tableFormat s x l
    else if x.r.toNat < 1 ∨ 64 < x.r.toNat then tableFormat s x x.r.toNat
    else match nfind x.b.answers x.i with
      | some v => tableOp h x v.toNat [] (if v.toNat % 256 ≤ 2 then some (.slotHeld z (bits v.toNat 14 8) (bits v.toNat 21 16)) else none)
          (if v.toNat % 256 = 0 then sameKey z else fun _ => false) s
      | none =>
        if z.pkg = s.self then
          match x.b.clash x.i x.l (sameKey z) with
          | some c => s.stop x 0x04B c
          | none => match s.reserveHome z.glade z.zone ⟨s.self, x.g, z.rill⟩ x.r.toNat with
            | (s, st, n, low) =>
              let v := slotValue st n low
              let s := s.modBlock x.g fun b => { b with answers := nset b.answers x.i (BitVec.ofNat 64 v) }
              match s.block x.g with
              | some b => tableOp h { x with b := b } v [] (if st ≤ 2 then some (.slotHeld z n low) else none) (fun _ => false) s
              | none => .next s
        else if (nfind x.b.asked x.i).isSome then .next (s.stall x)
        else .next (s.ask x z 1 x.r.toNat))

/-- The destination holds a key for a block that is about to release it (R342). -/
def State.holdKey (s : State) (g zone : Nat) (k : SlotKey) : State := s.modHome g (Engines.holdsKey zone k) (Engines.hold zone k)

/-- SLOT.REL.RELEASE (R342). -/
def execSlotRelRelease (h : Hdr) (s : State) : Outcome :=
  match s.fx h true false with
  | none => .next s
  | some x => s.frontierOnly x (
    let l := x.l.toNat
    let z := slotRef l
    if bits l 63 26 ≠ 0 then tableFormat s x l
    else match nfind x.b.answers x.i with
      | some v => tableOp h x v.toNat [] (if v.toNat % 256 = 3 then none else some (.slotRelease z)) (sameKey z) s
      | none =>
        if z.pkg = s.self then
          let k : SlotKey := ⟨s.self, x.g, z.rill⟩
          if ((s.homes z.glade).any fun e => e.2.holdsKey z.zone k) = false then tableOp h x 3 [] none (sameKey z) s
          else match x.b.clash x.i x.l (sameKey z) with
            | some c => s.stop x 0x04B c
            | none =>
              let t := (s.holdKey z.glade z.zone k).modBlock x.g fun b => { b with answers := nset b.answers x.i 0 }
              match t.block x.g with
              | some b => tableOp h { x with b := b } 0 [] (some (.slotRelease z)) (fun _ => false) t
              | none => .next t
        else if (nfind x.b.asked x.i).isSome then .next (s.stall x)
        else .next (s.ask x z 3 1))

/-- The zone and slot word of SLOT.REL.DONE and SLOT.QRY: [3:0] zone, [21:16] slot, every other bit zero. -/
def zoneSlotBad (l : Nat) : Bool := decide (bits l 15 4 ≠ 0) || decide (bits l 63 22 ≠ 0)

/-- The read-set entry of a landing slot. -/
def slotSect (g zone slot : Nat) : Sect := .tbl 7 g (64 * zone + slot)

/-- SLOT.REL.DONE (R342). -/
def execSlotRelDone (h : Hdr) (s : State) : Outcome :=
  match s.fx h true false with
  | none => .next s
  | some x =>
    let l := x.l.toNat
    if zoneSlotBad l then tableFormat s x l
    else
      let zi := bits l 3 0
      let k := bits l 21 16
      let same : Pend → Bool := fun p => match p with
        | .slotDone a b => decide (a = zi ∧ b = k)
        | _ => false
      let z := ((s.seen x).eng x.g).zone zi
      let full := (z.map fun z => decide ((z.slotOf k).st = .full)).getD false
      if (z.map fun z => z.holders.contains (z.slotOf k).key && decide ((z.slotOf k).key.pkg ≠ s.self ∨ (z.slotOf k).key.glade ≠ x.g)).getD false && full then .next (s.stall x)
      else if full then tableOp h x 0 [slotSect x.g zi k] (some (.slotDone zi k)) same s
      else tableOp h x 3 [slotSect x.g zi k] none same s

/-- The slots of a zone in a state, as a mask (R343). -/
def Zone.mask (z : Zone) (st : SlotState) : Nat :=
  (List.range z.slots).foldl (fun n i => if (z.slotOf i).st = st then n + 2 ^ i else n) 0

/-- SLOT.QRY (R343). -/
def execSlotQry (h : Hdr) (f : SlotFn) (s : State) : Outcome :=
  match s.fx h true false with
  | none => .next s
  | some x =>
    let l := x.l.toNat
    if zoneSlotBad l then tableFormat s x l
    else
      let zi := bits l 3 0
      let k := bits l 21 16
      let z := ((s.seen x).eng x.g).zone zi
      let m (st : SlotState) : Nat := (z.map (·.mask st)).getD 0
      let v := match f with
        | .free => m .free
        | .reserved => m .reserved
        | .filling => m .filling
        | .full => m .full
        | .key => match z.map (·.slotOf k) with
          | some y => if y.st = .free then 2 ^ 64 - 1 else y.key.pkg + 256 * y.key.glade + 2 ^ 17 * y.key.rill
          | none => 2 ^ 64 - 1
      let reads := match f with
        | .key => [slotSect x.g zi k]
        | _ => (List.range ((z.map (·.slots)).getD 0)).map (slotSect x.g zi)
      tableOp h x v reads none (fun _ => false) s

/-! ## Time slots and PLACE (R345 to R348) -/

/-- TSLOT.SET (R346). -/
def execTslotSet (h : Hdr) (s : State) : Outcome :=
  match s.fx h true true with
  | none => .next s
  | some x =>
    let l := x.l.toNat
    let r := x.r.toNat
    if bits l 63 6 ≠ 0 then tableFormat s x l
    else if bits r 45 44 = 3 ∨ bits r 62 46 ≠ 0 then tableFormat s x r
    else tableOp h x 0 [] (some (.tslot l x.r)) (fun p => match p with
      | .tslot m _ => decide (m = l)
      | _ => false) s

/-- PLACE.PART (R348). -/
def execPlacePart (h : Hdr) (s : State) : Outcome :=
  match s.fx h true false with
  | none => .next s
  | some x =>
    if x.l ≠ 0 then tableFormat s x x.l.toNat
    else
      let p := ((s.job (s.ctxOf x.g)).partitions[dieOf x.g]?).getD 0xFF
      tableOp h x (if p = 0xFF then 0 else 256 + p) [] none (fun _ => false) s

/-- A bit for each glade of a half of the die of a glade. -/
def halfMask (g half : Nat) (f : Nat → Bool) : Nat :=
  (List.range 64).foldl (fun n b => if f (128 * dieOf g + 64 * half + b) then n + 2 ^ b else n) 0

/-- PLACE.HEALTH (R348). -/
def execPlaceHealth (h : Hdr) (s : State) : Outcome :=
  match s.fx h true false with
  | none => .next s
  | some x =>
    if 1 < x.l.toNat then tableFormat s x x.l.toNat
    else
      let bands := (s.job (s.ctxOf x.g)).bands (dieOf x.g)
      tableOp h x (halfMask x.g x.l.toNat fun g => s.healthy g && decide (clearingOf g % 16 ∈ bands)) [] none (fun _ => false) s

/-- PLACE.BUSY (R348). -/
def execPlaceBusy (h : Hdr) (s : State) : Outcome :=
  match s.fx h true false with
  | none => .next s
  | some x =>
    if 1 < x.l.toNat then tableFormat s x x.l.toNat
    else tableOp h x (halfMask x.g x.l.toNat fun g => (s.place g).isSome) [] none (fun _ => false) s

/-- The offset of the first field of a FIT query that is out of range (R348). -/
def fitBad (q : List Byte) : Option Nat :=
  let w := leAt q 0 1
  let h := leAt q 1 1
  if w < 1 ∨ 8 < w then some 0
  else if h < 1 ∨ 16 < h then some 1
  else if 1 < leAt q 2 1 then some 2
  else if leAt q 3 13 ≠ 0 then some 3
  else if 2 ^ (w * h) ≤ leAt q 16 16 then some 16
  else none

/-- PLACE.FIT (R348). -/
def execPlaceFit (h : Hdr) (s : State) : Outcome :=
  match s.fx h true false with
  | none => .next s
  | some x =>
    let l := x.l.toNat
    if l % 64 ≠ 0 ∨ inWindow (spBase .loc) (spSize .loc) l = false then tableFormat s x l
    else match readRange s x l 32 .rd with
      | .error s => .next s
      | .ok (q, ps) => match fitBad q with
        | some o => tableFormat s x o
        | none =>
          let v := match s.fit (s.ctxOf x.g) (dieOf x.g) (leAt q 0 1) (leAt q 1 1) (decide (leAt q 2 1 = 1)) (leAt q 16 16) [] with
            | none => 2 ^ 63
            | some o => 16 * o.2 + o.1
          tableOp h x v (ps.flatMap fun p => sectors p 8) none (fun _ => false) s

end Sys2Proof.Machine
end

