-- ==== Sys2Proof/Machine/Queues.lean ====
section
/-! DEFINITION. The order queues of a glade (R284 to R293): depths and room, token FIFOs, descriptors and their checks (R130, R131, R295 to R307),
entering, finishing and retiring, and the counting of rills (R329). -/

namespace Sys2Proof.Machine

/-! ## Queues and token FIFOs (R284, R287, R292, R293) -/

/-- The depth of a queue: stand, raft0, raft1, run, weight-load (R284). -/
def queueDepth (q : Nat) : Nat := if q ≤ 2 then 32 else if q = 3 then 8 else 16

/-- The entries of a queue that wait, and the orders on their way to it: entries leave a queue by starting (R287). -/
def Engines.waiting (e : Engines) (q : Nat) : Nat :=
  ((e.queue q).filter fun x => decide (x.state = 0)).length + (e.incoming.filter fun x => decide (x.queue = q)).length

/-- The FIFO of endpoints X and Y (R292). -/
def fifoKey (x y : Nat) : Nat := 6 * x + y

def Engines.tokens (e : Engines) (k : Nat) : Nat := nget 0 e.fifos k

/-- The tokens that can be taken: those added before this cy (R293). -/
def Engines.ready (e : Engines) (k : Nat) : Nat := e.tokens k - nget 0 e.fresh k

/-- A token added, which can be taken from the next cy on (R293). -/
def Engines.addToken (e : Engines) (k : Nat) : Engines :=
  { e with fifos := nmod 0 e.fifos k (· + 1), fresh := nmod 0 e.fresh k (· + 1), added := nmod 0 e.added k (· + 1) }

/-- The number of the oldest token of a FIFO (R292). -/
def Engines.oldest (e : Engines) (k : Nat) : Nat := nget 0 e.added k + 1 - e.tokens k

/-- A token taken. -/
def Engines.takeToken (e : Engines) (k : Nat) : Engines := { e with fifos := nmod 0 e.fifos k (· - 1) }

/-! ## Descriptors (R130, R131, R295) -/

/-- The first of a list of checks that fails, with its offset. -/
def firstBad : List (Bool × Nat) → Option Nat
  | [] => none
  | (b, o) :: t => if b then some o else firstBad t

/-- Bytes per K block of a row or column by mode (R296, R304). -/
def kBytes (mode : Nat) : Nat := if mode = 0 then 17 else if mode = 1 then 32 else if mode = 2 then 64 else 256

/-- The span of an A slot (R296). -/
def slotSpan (d : List Byte) : Nat := (leAt d 26 1 - 1) * leAt d 24 2 + kBytes (leAt d 4 4 % 8) * leAt d 27 1

/-- The body of a stand descriptor (R296). -/
def standBad (d : List Byte) : Option Nat :=
  let mode := leAt d 4 4 % 8
  let rs := kBytes mode * leAt d 27 1
  firstBad [
    (decide (leAt d 16 4 % 128 ≠ 0 ∨ 2 ^ 20 < leAt d 16 4 + (leAt d 30 1 - 1) * leAt d 20 4 + slotSpan d), 16),
    (decide (leAt d 20 4 % 128 ≠ 0 ∨ (2 ≤ leAt d 30 1 ∧ leAt d 20 4 < slotSpan d)), 20),
    (decide (leAt d 24 2 < rs), 24),
    (decide (leAt d 26 1 < 1 ∨ 96 < leAt d 26 1), 26),
    (decide (leAt d 27 1 < 1 ∨ (if mode = 3 then 32 else 64) < leAt d 27 1), 27),
    (decide (leAt d 28 2 = 0), 28),
    (decide (leAt d 30 1 < 1 ∨ 4 < leAt d 30 1), 30),
    (decide (32 < leAt d 31 1 + leAt d 30 1), 31),
    (decide ((if mode = 3 then 15 else 0) < leAt d 32 1), 32),
    (decide (leAt d 33 31 ≠ 0), 33)]

/-- The count of a level of a raft pattern (R300). -/
def levelCount (d : List Byte) (l : Nat) : Nat := leAt d (64 + 8 * l) 2

/-- The body of a raft descriptor (R300, R349, R440); `session` says that its session handle names an open entry. A product that
disagrees is named by the first level's offset (DESIGN CHOICE, log entry 87). -/
def raftBad (confidential session : Bool) (d : List Byte) : Option Nat :=
  let mode := leAt d 4 4
  let esize := leAt d 45 1
  let levels := leAt d 44 1
  let dst := leAt d 24 8
  let host := bit dst 55 && decide (dst < 2 ^ 56)
  let goodE := decide (esize ∈ [8, 16, 32, 64, 128])
  firstBad ([
    (host && (decide (mode = 1) || (decide (mode = 0) && confidential)), 24),
    (decide (leAt d 32 4 < 8 ∨ 524288 < leAt d 32 4) || (goodE && decide (leAt d 32 4 % esize ≠ 0)), 32),
    (decide (leAt d 36 4 = 0), 36),
    (decide (leAt d 40 1 < 1 ∨ 64 < leAt d 40 1), 40),
    (decide (31 < leAt d 41 1 ∧ leAt d 41 1 ≠ 0xFF), 41),
    (decide (1 < leAt d 42 1 ∨ (leAt d 42 1 = 1 ∧ 32 < leAt d 41 1 + leAt d 40 1)), 42),
    (decide (1 < leAt d 43 1), 43),
    (decide (8 < levels ∨ (levels ≠ 0 ∧ (leAt d 2 2 = 64 ∨ mode ≠ 0))), 44),
    (!goodE, 45),
    (decide (leAt d 46 2 ≠ 0), 46),
    (decide (if mode = 0 then leAt d 48 4 ≠ 0 else session = false), 48),
    (decide (leAt d 52 4 ≠ 0), 52),
    (decide (mode = 0 ∧ leAt d 56 8 ≠ 0), 56)]
    ++ ((List.range levels).map fun l => (decide (levelCount d l = 0), 64 + 8 * l))
    ++ [(decide (levels ≠ 0 ∧ esize * ((List.range levels).map (levelCount d)).prod ≠ leAt d 32 4 * leAt d 36 4), 64),
        (decide (leAt d 2 2 = 128 ∧ leAt d (64 + 8 * levels) (64 - 8 * levels) ≠ 0), 64 + 8 * levels)])

/-- The body of a run descriptor (R307). -/
def runBad (d : List Byte) : Option Nat :=
  firstBad [(decide (leAt d 16 8 < 1 ∨ 2 ^ 40 ≤ leAt d 16 8), 16), (decide (leAt d 24 40 ≠ 0), 24)]

/-- The body of a weight-load descriptor (R304). -/
def wloadBad (d : List Byte) : Option Nat :=
  let fmt := leAt d 32 1
  firstBad [
    (decide (2 ^ 55 ≤ leAt d 16 8), 16),
    (decide (fmt ≤ 3 ∧ leAt d 24 8 < leAt d 33 1 * kBytes fmt), 24),
    (decide (3 < fmt), 32),
    (decide (leAt d 33 1 < 1 ∨ (if fmt = 3 then 32 else 64) < leAt d 33 1), 33),
    (decide (leAt d 34 2 < 1 ∨ (if fmt = 3 then 48 else 192) < leAt d 34 2), 34),
    (decide ((if fmt = 3 then 15 else 0) < leAt d 36 1), 36),
    (decide (1 < leAt d 37 1), 37),
    (decide (leAt d 38 26 ≠ 0), 38)]

/-- The body of a link descriptor (R306). -/
def linkBad (d : List Byte) : Option Nat :=
  firstBad [
    (decide (leAt d 24 4 % 8 ≠ 0 ∨ leAt d 24 4 = 0 ∨ 524288 < leAt d 24 4), 24),
    (decide (leAt d 28 4 = 0), 28),
    (decide (15 < leAt d 33 1), 33),
    (decide (511 < leAt d 34 2), 34),
    (decide (31 < leAt d 36 1), 36),
    (decide (1 < leAt d 37 1), 37),
    (decide (15 < leAt d 38 1 ∧ leAt d 38 1 ≠ 0xFF), 38),
    (decide (leAt d 39 25 ≠ 0), 39)]

/-- Whether a mode word is one that a descriptor kind allows (R131). -/
def modeOk (kind mw : Nat) : Bool :=
  if kind = 1 then decide (mw % 8 ≤ 3 ∧ bits mw 7 6 ≠ 3 ∧ mw < 256)
  else if kind = 2 then decide (mw ≤ 2)
  else decide (mw = if kind = 3 then 0 else if kind = 4 then 3 else 4)

/-- The offset of the first offending field of a descriptor (R130, R131, R295); `fits` says that its length ends within the burrow. -/
def descBad (kind : Nat) (confidential fits session : Bool) (d : List Byte) : Option Nat :=
  match firstBad [
    (decide (leAt d 0 1 ≠ kind), 0),
    (decide (leAt d 1 1 ≠ 1), 1),
    (decide (leAt d 2 2 ≠ 64 ∧ (kind ≠ 2 ∨ leAt d 2 2 ≠ 128)) || !fits, 2),
    (!modeOk kind (leAt d 4 4), 4),
    (decide (leAt d 8 8 ≠ 0), 8)] with
  | some o => some o
  | none =>
    if kind = 1 then standBad d
    else if kind = 2 then raftBad confidential session d
    else if kind = 3 then runBad d
    else if kind = 4 then wloadBad d
    else linkBad d

/-- A session handle names an open entry of its generation (R349). -/
def Job.sessionOk (j : Job) (handle : Nat) : Bool :=
  match nfind j.sessions (handle % 64) with
  | some x => x.opened && decide (x.gen % 2 ^ 26 = handle / 64)
  | none => false

/-! ## The orders of a block (R286, R287, R294) -/

/-- An order with a descriptor. -/
def hasDesc (kind : Nat) : Bool := decide (kind ≤ 5)

/-- The raft the descriptor at an address names, as it is read for the room check (R286). -/
def State.raftOf (s : State) (g : Nat) (o : OrderReq) : Nat :=
  match s.ownOffset g o.l.toNat with
  | some off => s.num (burrowAt g (s.glade g).active + off + (if o.kind = 5 then 37 else 43)) 1 % 2
  | none => 0

/-- The queue an order enters (R284). -/
def State.orderQueue (s : State) (g : Nat) (o : OrderReq) : Nat :=
  if o.kind = 1 ∨ o.kind = 6 then 0
  else if o.kind = 2 ∨ o.kind = 5 then 1 + s.raftOf g o
  else if o.kind = 4 then 4
  else 3

/-- The glade whose queue an order enters: a position of the unit for an X form; none where the position is outside the unit or absent
(R294). -/
def State.orderGlade (s : State) (g : Nat) (o : OrderReq) : Option Nat :=
  match o.pos with
  | none => some g
  | some (ux, uy) => match s.place g with
    | some p => if p.has ux uy then some (p.gladeAt g ux uy) else none
    | none => none

/-- The commit actions of a block in ascending instruction index. -/
def insertPend (x : Nat × Pend) : List (Nat × Pend) → List (Nat × Pend)
  | [] => [x]
  | y :: t => if x.1 < y.1 then x :: y :: t else y :: insertPend x t

def Block.actions (b : Block) : List (Nat × Pend) := b.pend.foldl (fun l x => insertPend x l) []

/-- The first order of a block whose queue, FIFO or credit timer lacks room: peer code and instruction index (R286, R287); `used` counts the block's own
earlier orders by glade × 16 + queue, with 8 + peer for credits and 15 for the timer. -/
def State.lackFrom (s : State) (g : Nat) : List (Nat × Pend) → List (Nat × Nat) → Option (Nat × Nat)
  | [], _ => none
  | (i, .order o) :: t, used =>
    match s.orderGlade g o with
    | none => s.lackFrom g t used
    | some h =>
      let q := s.orderQueue g o
      let k := 16 * h + q
      if queueDepth q < (s.eng h).waiting q + nget 0 used k + 1 then some (q, i)
      else s.lackFrom g t (nmod 0 used k (· + 1))
  | (i, .credit peer off) :: t, used =>
    let e := s.eng g
    let timed := off.isSome
    let k := 16 * g + (if timed then 15 else 8 + peer)
    let have_ := if timed then e.credits.length + (e.newCredits.filter fun x => x.2.isSome).length
      else e.tokens (fifoKey peer peer) + (e.newCredits.filter fun x => decide (x = (peer, none))).length
    if (if timed then 8 else 16) < have_ + nget 0 used k + 1 then some (peer, i)
    else s.lackFrom g t (nmod 0 used k (· + 1))
  | _ :: t, used => s.lackFrom g t used

/-- Whether a glade's block lacks room for an order (R287). -/
def State.lack (s : State) (g : Nat) : Option (Nat × Nat) :=
  match s.block g with
  | some b => s.lackFrom g b.actions []
  | none => none

/-- The descriptor of an order read and checked at the commit (R286, R294, R295): the bytes, or cause and value. One that starts in the burrow and whose length
runs past its end is refused for its length, offset 2 (DESIGN CHOICE, log entry 62). -/
def State.orderDesc (s : State) (g : Nat) (o : OrderReq) : Except (Nat × Nat) (List Byte) :=
  let a := o.l.toNat
  match s.ownOffset g a with
  | none => .error (0x0C0, a)
  | some off =>
    if off % 64 ≠ 0 then .error (0x0C0, a)
    else
      let at_ := burrowAt g (s.glade g).active + off
      let len := s.num (at_ + 2) 2
      if s.bad at_ (min len 192) then .error (0x1C2, a)
      else
        let d := s.bytes at_ 192
        let j := s.job (s.ctxOf g)
        match descBad o.kind j.confidential (decide (off + len ≤ 2 ^ 20)) (j.sessionOk (leAt d 48 4)) d with
        | some v => .error (0x0C0, v)
        | none => .ok (d.take len)

/-- An order checked at its block's commit: the glade and queue it enters and its entry (R286, R294). -/
def State.orderEntry (s : State) (g : Nat) (o : OrderReq) : Except (Nat × Nat) (Nat × Nat × QEntry) :=
  let from_ := match s.place g with
    | some p => 8 * p.uy + p.ux
    | none => 0
  let mk (h : Nat) (d : List Byte) : Except (Nat × Nat) (Nat × Nat × QEntry) :=
    let q := s.orderQueue g o
    .ok (h, q, { kind := o.kind, timed := o.timed, pop := o.pop, push := o.push, peer := o.peer, offset := o.offset
                 remote := decide (h ≠ g), fromPos := if h ≠ g then from_ else 0
                 tl := if o.kind = 5 then 5 else q, desc := d
                 arg := if o.kind = 7 then o.l + (o.arg <<< 32) else o.arg })
  let body (h : Nat) : Except (Nat × Nat) (Nat × Nat × QEntry) :=
    if hasDesc o.kind then
      match s.orderDesc g o with
      | .error e => .error e
      | .ok d => mk h d
    else mk h []
  match o.pos with
  | none => body g
  | some (ux, uy) => match s.place g with
    | none => .error (0x041, 8 * uy + ux)
    | some p =>
      if p.w ≤ ux ∨ p.h ≤ uy then .error (0x041, 8 * uy + ux)
      else if p.has ux uy then body (p.gladeAt g ux uy)
      else .error (0x042, 8 * uy + ux)

/-- The orders of a block, checked in index order: cause and value of the first that fails, else the entries. -/
def State.orderEntries (s : State) (g : Nat) : List (Nat × Pend) → Except (Nat × Nat) (List (Nat × Nat × Nat × QEntry))
  | [] => .ok []
  | (i, .order o) :: t => match s.orderEntry g o with
    | .error e => .error e
    | .ok (h, q, e) => match s.orderEntries g t with
      | .error e => .error e
      | .ok l => .ok ((i, h, q, e) :: l)
  | _ :: t => s.orderEntries g t

/-- The orders of a committed block on their way (R286, R288): the operations are after its block and those before it (R269). -/
def State.sendOrders (s : State) (g ts : Nat) : List (Nat × Nat × Nat × QEntry) → State
  | [] => s
  | (i, h, q, e) :: t =>
    let e := { e with uid := s.free }
    (((s.flow [s.taskPt g] (.op s.free)).drawn).modEng h fun x =>
      { x with incoming := x.incoming ++ [{ remote := decide (h ≠ g), ts := ts, glade := g, idx := i, queue := q, entry := e }] }).sendOrders g ts t

/-! ## Entering (R286, R288, R308, R309) -/

/-- The order of entries that enter in one cy (R288): own entries by index, then X forms by key and index. -/
def Incoming.before (a b : Incoming) : Bool :=
  if a.remote != b.remote then b.remote
  else if a.remote && decide ((a.ts, a.glade) ≠ (b.ts, b.glade)) then keyBefore a.ts a.glade b.ts b.glade
  else decide (a.idx < b.idx)

def insertIncoming (x : Incoming) : List Incoming → List Incoming
  | [] => [x]
  | y :: t => if x.before y then x :: y :: t else y :: insertIncoming x t

/-- An entry enters its queue and is numbered in its timeline (R286, R386). -/
def Engines.enter (e : Engines) (x : Incoming) : Engines :=
  let n := min ((nget {} e.tls x.entry.tl).issued + 1) (2 ^ 64 - 1)
  { e with queues := nset e.queues x.queue (e.queue x.queue ++ [{ x.entry with opnum := n }])
           tls := nmod {} e.tls x.entry.tl fun t => { t with issued := n } }

/-- What a cy begins with in a glade: tokens of the last cy can be taken, and the orders and credits of the blocks that committed in it enter (R286,
R293, R308). -/
def Engines.flush (e : Engines) : Engines :=
  let e' := (e.incoming.foldl (fun l x => insertIncoming x l) []).foldl Engines.enter { e with fresh := [], incoming := [], newCredits := [] }
  e.newCredits.foldl (fun e c => match c.2 with
    | none => e.addToken (fifoKey c.1 c.1)
    | some off => { e with credits := e.credits ++ [⟨c.1, off⟩] }) e'

/-! ## Finishing and retiring (R61, R277, R290, R386) -/

/-- An entry of a timeline changed. -/
def Engines.modEntry (e : Engines) (tl n : Nat) (f : QEntry → QEntry) : Engines :=
  { e with queues := e.queues.map fun q => (q.1, q.2.map fun x => if x.tl = tl ∧ x.opnum = n then f x else x) }

/-- The entry of a number of a timeline. -/
def Engines.entry (e : Engines) (tl n : Nat) : Option QEntry :=
  (e.queues.flatMap (·.2)).find? fun x => decide (x.tl = tl ∧ x.opnum = n)

/-- An entry finishes with a status of R386, and waits for the lower numbers (R277); it issues nothing further, so that its queue continues (R290). A
finished entry keeps its status. -/
def Engines.finish (e : Engines) (tl n status : Nat) : Engines :=
  e.modEntry tl n fun x => if x.state = 2 then x else { x with state := 2, status := status, tiles := [] }

def State.finishEntry (s : State) (g tl n status : Nat) : State := s.modEng g fun e => e.finish tl n status

/-- The place of an operation's causes in the order of R410: by queue, and within a queue by operation number. -/
def Engines.rankOf (e : Engines) (tl n : Nat) : Nat :=
  let q := if tl ≠ 5 then tl else if (e.queue 2).any fun x => decide (x.tl = 5 ∧ x.opnum = n) then 2 else 1
  2 ^ 24 * q + n % 2 ^ 24

/-- The run in progress ends with a status: it issues nothing further, and what it has not delivered is never delivered (R277, R290, R344). -/
def Bough.stopRun (b : Bough) (status : Nat) : Bough :=
  match b.th.run with
  | none => b
  | some r => { b with
      th := { b.th with run := none, sent := [], stems := b.th.stems.map fun x => (x.1, { x.2 with so := [] }) }
      eng := { b.eng.finish 3 r.opnum status with
        souts := b.eng.souts.map fun o => (o.1, {})
        rills := b.eng.rills.map fun x => (x.1, { x.2 with ostream := {} })
        away := b.eng.away.filter fun a => decide (48 ≤ a.2.2) } }

/-- An entry that faults finishes FAULTED and issues nothing further (R290). -/
def State.faulted (s : State) (g tl n : Nat) : State :=
  if tl = 3 ∧ (s.th g).run.any (fun r => decide (r.opnum = n)) = true then s.modBough g (·.stopRun 2) else s.finishEntry g tl n 2

/-- A fault of an entry (R290): the cause goes to the glade, and the entry finishes FAULTED. -/
def State.entryFault (s : State) (g tl n cause value : Nat) : State := (s.faulted g tl n).asyncFault g cause value false ((s.eng g).rankOf tl n)

/-- A fault of an entry whose TRAP.VALUE no rule states (DESIGN CHOICE, log entry 2). -/
def State.entryOpen (s : State) (g tl n cause : Nat) : State := (s.faulted g tl n).openAsync g cause ((s.eng g).rankOf tl n)

/-- The next entry of a timeline to retire, if it has finished and its push token has room (R61, R277, R293). -/
def Engines.retirable (e : Engines) (tl : Nat) : Option QEntry :=
  match e.entry tl ((nget {} e.tls tl).retired + 1) with
  | some x => if x.state = 2 && !(x.push && decide (x.status = 0) && decide (16 ≤ e.tokens (fifoKey tl x.peer))) then some x else none
  | none => none

/-- A timeline after an operation with a status has retired (R386). -/
def Timeline.retire (t : Timeline) (n status : Nat) : Timeline :=
  if status = 0 then { t with retired := n } else { t with retired := n, badnum := n, nonok := t.nonok + 1, badstat := status }

/-- An entry retires: it leaves its queue, its push token is added if its status is OK, and retired advances (R61, R290). -/
def Engines.retire (e : Engines) (x : QEntry) : Engines :=
  let e := { e with queues := e.queues.map fun q => (q.1, q.2.filter fun y => ¬(y.tl = x.tl ∧ y.opnum = x.opnum))
                    tls := nmod {} e.tls x.tl fun t => t.retire x.opnum x.status }
  if x.push ∧ x.status = 0 then e.addToken (fifoKey x.tl x.peer) else e

/-- The retirement of an entry releases what it was after and its writes, to the readers of its timeline, and to the operation that takes its push token (R271, R277). -/
def State.releaseEntry (s : State) (g : Nat) (x : QEntry) : State :=
  let s := s.flow [.op x.uid, .out x.uid] (.retired (s.home g) x.tl)
  let k := fifoKey x.tl x.peer
  if x.push ∧ x.status = 0 then s.flow [.retired (s.home g) x.tl] (.token (s.home g) k (nget 0 (s.eng g).added k + 1)) else s

/-- CREDIT_TIMER_FIRE: the first credit whose offset the context counter has reached goes into its FIFO, or finds it full (R309). -/
def execCreditTimerFire (g : Nat) (s : State) : Outcome :=
  let e := s.eng g
  match e.credits.find? fun c => decide (c.offset ≤ (s.th g).cnt) with
  | none => .next s
  | some c =>
    let k := fifoKey c.peer c.peer
    let s := s.modEng g fun e => { e with credits := e.credits.erase c }
    if 16 ≤ e.tokens k then .next (s.asyncFault g 0x081 (c.offset % 2 ^ 40 + 2 ^ 40 * 6 + 2 ^ 48 * k + 2 ^ 56 * 12))
    else .next (s.modEng g fun e => e.addToken k)

/-! ## Rills (R329, R330) -/

/-- A rill counts an arrival of so many bytes (R329): its event fires when pending first reaches declared. -/
def State.countRill (s : State) (g r bytes : Nat) (err : Bool) : State :=
  let old := (s.eng g).rill r
  let n := if bit old.cfg.toNat 60 then bytes / 8 else bytes
  let x := { old with arrived := min (old.arrived + n) (2 ^ 64 - 1) }
  let x := if err then x.setStatus 3 else x
  let fire := bit old.cfg.toNat 56 && x.reached && !x.fired
  let x := if x.reached then { x with fired := true } else x
  let s := (s.modEng g fun e => { e with rills := nset e.rills r x }).perf g 11 bytes
  if fire then s.modWw g fun w => { w with evc := nmod 0 w.evc (bits old.cfg.toNat 55 52) (satAdd · 1) } else s

/-- RILL_ARRIVAL: bytes whose writes are performed are counted into a rill of a glade (R329). -/
def execRillArrival (g r bytes : Nat) (s : State) : Outcome := .next (s.countRill g r bytes false)

/-- A rill's status set by the device (R329). -/
def State.rillStatus (s : State) (g r st : Nat) : State := s.modEng g fun e => { e with rills := nmod {} e.rills r (·.setStatus st) }

/-- A rill re-armed, as by RILL.RESET (R334). -/
def State.rearm (s : State) (g r : Nat) : State := s.modEng g fun e => { e with rills := nmod {} e.rills r Rill.rearm }

/-! ## Freed-slot notices across zones (R340, R342) -/

/-- A notice that names a slot of a zone of a package reaches the source of a rill (R76, R340): its started link entry, else the reservation, for the
entry that starts next; one that comes before the block that asked for the slot has committed is kept for it. -/
def Engines.zoneSlot (e : Engines) (pkg zone rill slot : Nat) : Engines :=
  let mine (x : QEntry) : Bool := decide (x.kind = 5 ∧ x.state = 1 ∧ leAt x.desc 32 1 = pkg ∧ leAt x.desc 33 1 = zone ∧ leAt x.desc 36 1 = rill)
  match (e.queue 1 ++ e.queue 2).find? mine with
  | some x => e.modEntry x.tl x.opnum fun y => if slot ∈ y.notices ∨ (y.tiles.any fun t => decide (t.2 = slot)) = true then y else { y with notices := y.notices ++ [slot] }
  | none => match e.resv.find? fun r => decide (r.pkg = pkg ∧ r.zone = zone ∧ r.rill = rill) with
    | some r => { e with resv := e.resv.map fun q => if q = r ∧ slot ∉ q.slots then { q with slots := q.slots ++ [slot] } else q }
    | none => { e with spare := e.spare ++ [(pkg, zone, rill, slot)] }

/-- One notice of a NOTICE flit (R450 kind 2). -/
def noticeBytes (slot zone : Nat) (k : SlotKey) : List Byte := toBytes 2 k.glade ++ toBytes 1 k.rill ++ toBytes 1 zone ++ toBytes 1 slot ++ toBytes 3 0

/-- A notice that names a slot of a zone goes to the stream of the slot's key (R76, R340), to another package by a flit (R450 kind 2) once a link is up. -/
def State.zoneNotice (s : State) (slot : Nat) (zone : Nat) (k : SlotKey) : State :=
  if k.pkg = s.self then s.modEng k.glade fun e => e.zoneSlot k.pkg zone k.rill slot
  else s.tell k.pkg 2 (noticeBytes slot zone k ++ List.replicate 220 0)

/-- A package that has received something from a glade, noted for its clearing (R427). -/
def State.noteSent (s : State) (g pkg : Nat) : State :=
  s.modClearing (clearingOf g) fun c => if pkg ∈ c.packages then c else { c with packages := c.packages ++ [pkg] }

/-- A FULL slot of a zone is released (R340): RESERVED again with a notice to its key's stream, or FREE where the reservation has ended. -/
def State.slotReleased (s : State) (g zone slot : Nat) : State :=
  match (s.eng g).zone zone with
  | none => s
  | some z =>
    let y := z.slotOf slot
    if y.st ≠ .full then s
    else
      let put (v : ZSlot) : State := s.modEng g fun e => { e with zones := nset e.zones zone { z with slot := nset z.slot slot v } }
      if y.ended then put {} else (put { y with st := .reserved, fill := 0 }).zoneNotice slot zone y.key

end Sys2Proof.Machine
end

