-- ==== Sys2Proof/Machine/ThicketOps.lean ====
section
/-! DEFINITION. The shared operations of the thicket: ring words, ports (R192, R193), route sources and result registers in flight (R66, R121, R191),
entering the delay lines (R65, R219), delivering results (R191, R195), random draws (R206), AG requests (R212 to R214) and route chains (R327). -/

namespace Sys2Proof.Machine

/-! ## Stems, elements and ring words (R64) -/

def Thicket.stem (t : Thicket) (s : Nat) : Stem := nget {} t.stems s
def Thicket.elem (t : Thicket) (s k : Nat) : Elem := nget {} t.elems (16 * s + k)
def Thicket.modStem (t : Thicket) (s : Nat) (f : Stem → Stem) : Thicket := { t with stems := nmod {} t.stems s f }
def Thicket.modElem (t : Thicket) (s k : Nat) (f : Elem → Elem) : Thicket := { t with elems := nmod {} t.elems (16 * s + k) f }

/-- The word of a ring for a count (R64). -/
def ringAt {α : Type} (l : List α) (d : α) (c : Nat) : α := (l[c % l.length]?).getD d

def Stem.opAt (x : Stem) (c : Nat) : BitVec 24 := ringAt x.op 0x602000 c
def Stem.rtAt (x : Stem) (c : Nat) : Nat := (ringAt x.rt 0 c).toNat
def Stem.tapAt (x : Stem) (c : Nat) : Nat := (ringAt x.tap 0 c).toNat
/-- The class word of an element (R124). -/
def Stem.clsAt (x : Stem) (k : Nat) : Nat := (nget 0 x.cls k).toNat

/-- Whether a row of the thicket issues in this context cycle (R64). -/
def Thicket.issues (t : Thicket) (k : Nat) : Bool :=
  match t.run with
  | some r => decide (r.first + k ≤ t.cnt) && decide (t.cnt < r.first + r.len + k)
  | none => false

/-- An element converts: its rings hold a conversion or FRND (R98). -/
def Stem.converts (x : Stem) : Bool := x.op.any fun w => let o := opCodeOf w.toNat; decide (o = 0x0B) || (decide (0x10 ≤ o) && decide (o ≤ 0x15))

/-! ## Ports (R192, R193) -/

/-- The position of the next value of a lane. -/
def Port.next (p : Port) (k : Nat) : Nat := 16 * nget 0 p.taken k + k
/-- The value at the head of a lane. -/
def Port.head (p : Port) (k : Nat) : Option Val := nfind p.vals (p.next k)
/-- A port after its lane has handed out its head. -/
def Port.take (p : Port) (k : Nat) : Port := { p with vals := ndel p.vals (p.next k), taken := nmod 0 p.taken k (· + 1) }
/-- The head vector is present (R193). -/
def Port.present (p : Port) : Bool := decide (16 * (nget 0 p.taken 0 + 1) ≤ p.put)
/-- How many values the port can still buffer: four vectors, of which row 0 has not taken its lane (R192). -/
def Port.room (p : Port) : Nat := 16 * (nget 0 p.taken 0 + 4) - p.put
/-- A value put into the next lane. -/
def Port.push (p : Port) (v : Val) : Port := { p with put := p.put + 1, vals := nset p.vals p.put v }
/-- The vector in progress closed with idle values (R192). -/
def Port.close (p : Port) : Nat → Port
  | 0 => p
  | n + 1 => if p.put % 16 = 0 then p else (p.push (Val.idle 0 false)).close n

/-- A stream source: STRM, HOLW, AGR, SIDE, RILD or RIL2 (R67). -/
def isStream (code : Nat) : Bool := code = 5 || code = 6 || code = 8 || code = 9 || code = 11 || code = 12

/-- The rill a decode-port source names (R121, R122). -/
def rillSrc (st code : Nat) : Nat := if code = 12 then st + 16 else st

/-- The port of a source of a stem other than AGR. -/
def Bough.port (b : Bough) (st code : Nat) : Port :=
  let x := b.th.stem st
  if code = 5 then x.strm else if code = 6 then x.holw else if code = 9 then x.side else (b.eng.rill (rillSrc st code)).port

/-- The bough with a port changed. -/
def Bough.modPort (b : Bough) (st code : Nat) (f : Port → Port) : Bough :=
  if code = 5 then { b with th := b.th.modStem st fun x => { x with strm := f x.strm } }
  else if code = 6 then { b with th := b.th.modStem st fun x => { x with holw := f x.holw } }
  else if code = 9 then { b with th := b.th.modStem st fun x => { x with side := f x.side } }
  else { b with eng := { b.eng with rills := nmod {} b.eng.rills (rillSrc st code) fun x => { x with port := f x.port } } }

/-- The stem whose AG elements fill the AGR lanes of a stem (R192). -/
def Thicket.agStem (t : Thicket) (st : Nat) : Option Nat :=
  if clsOf ((t.stem st).clsAt 0) = 1 then some st
  else if 1 ≤ st ∧ clsOf ((t.stem (st - 1)).clsAt 0) = 1 then some (st - 1) else none

/-- The head of lane `k` of a stream source. -/
def Bough.peek (b : Bough) (st k code : Nat) : Option Val :=
  if code = 8 then match b.th.agStem st with
    | some a => (b.th.elem a k).agRep.head?
    | none => none
  else (b.port st code).head k

/-- The bough after lane `k` of a stream source has handed out its head. -/
def Bough.takeLane (b : Bough) (st k code : Nat) : Bough :=
  if code = 8 then match b.th.agStem st with
    | some a => { b with th := b.th.modElem a k fun e => { e with agRep := e.agRep.drop 1 } }
    | none => b
  else b.modPort st code fun p => p.take k

/-- Row 0 finds what it reads: the head vector, or for AGR the head of lane 0 (R193). -/
def Bough.ready (b : Bough) (st code : Nat) : Bool :=
  if code = 8 then (b.peek st 0 8).isSome else (b.port st code).present

/-! ## Result registers and the fern return (R66, R191, R195) -/

/-- The type code of an op word's immediate. -/
def opImmWord (w : BitVec 24) : Word :=
  immWord ((Sys2Proof.ElemType.ofCode (bits w.toNat 16 14)).getD .f32) (w.extractLsb' 0 12)

/-- What the FERN source of row `k` delivers (R195); none where it is ANY-VALUE. `now` says that the row issues a fern request in this
context cycle. -/
def Stem.fernPeek (x : Stem) (k cnt : Nat) (now : Bool) : Option Val :=
  let mine := x.fern.filter fun e => decide (e.row = k)
  match mine.find? fun e => e.landed && decide (e.land = cnt) with
  | some e => some e.val
  | none =>
    if mine.any (fun e => !e.landed) || now then none
    else match mine.find? (·.landed) with
      | some e => some e.val
      | none => some Val.zero

/-- The neighbour a route code names (R121); none off the grid. -/
def neighbour (st k code : Nat) : Option (Nat × Nat) :=
  if code = 0 then some (st, k)
  else if code = 1 then (if k = 0 then none else some (st, k - 1))
  else if code = 2 then (if k = 15 then none else some (st, k + 1))
  else if code = 3 then (if st = 15 then none else some (st + 1, k))
  else (if st = 0 then none else some (st - 1, k))

/-- Whether a row of a stem is about to issue a fern request in this context cycle. -/
def Thicket.fernNow (t : Thicket) (todo : List (Nat × Nat)) (st k : Nat) : Bool :=
  let w := (t.stem st).opAt (t.cnt - k)
  decide ((st, k) ∈ todo) && isFern (opCodeOf w.toNat) && !clsQuiet ((t.stem st).clsAt k)

/-- What a read of an element's result register enters (R66, R191); none where it is ANY-VALUE. An element of `todo` issues later in
this context cycle: its result is in flight already, unless its HOLD finds bit 0 of line C clear (R210) (DEDUCED, log entry 46). -/
def Bough.regPeek (b : Bough) (todo : List (Nat × Nat)) : Nat → Nat → Nat → Option Val
  | 0, _, _ => none
  | f + 1, st, k =>
    let t := b.th
    let e := t.elem st k
    let x := t.stem st
    if e.landed = some t.cnt then some e.res
    else if e.flight ≠ [] ∨ (x.fern.any fun y => decide (y.row = k) && y.res && !y.landed) = true then none
    else if (st, k) ∈ todo ∧ clsQuiet (x.clsAt k) = false then
      let c := t.cnt - k
      let w := x.opAt c
      let o := opCodeOf w.toNat
      let holdC : Option Word :=
        let age := bits (x.tapAt c) 4 0
        if 0 < age then some ((e.lc[age - 1]?).getD Val.zero).data
        else
          let code := bits (x.rtAt c) 7 4
          if code ≤ 4 then match neighbour st k code with
            | some (st', k') => (b.regPeek todo f st' k').map (·.data)
            | none => some 0
          else if code = 7 then some (opImmWord w)
          else if code = 10 then (x.fernPeek k t.cnt (t.fernNow todo st k)).map (·.data)
          else (b.peek st k code).map (·.data)
      let writes : Bool :=
        if opDest w.toNat = 3 then true
        else if opDest w.toNat = 2 then false
        else if 0x40 ≤ o ∧ o ≤ 0x44 then decide (k = 15)
        else if o = 0x31 then (match holdC with | some d => d.getLsbD 0 | none => true)
        else true
      if writes then none else some e.res
    else some e.res

/-! ## The issuing element -/

/-- An ANY-VALUE as it enters a line (R190). -/
def State.anyVal (s : State) : State × Val := (s.drawn, Val.ofWord s.freeWord)

def State.stemF (s : State) : Stem := (s.th s.focus.glade).stem s.focus.stem
def State.elemF (s : State) : Elem := (s.th s.focus.glade).elem s.focus.stem s.focus.row
def State.cntF (s : State) : Nat := (s.th s.focus.glade).cnt
/-- The count the focused row issues (R64). -/
def State.countF (s : State) : Nat := s.cntF - s.focus.row
def State.modElemF (s : State) (f : Elem → Elem) : State := s.modTh s.focus.glade fun t => t.modElem s.focus.stem s.focus.row f
def State.modStemF (s : State) (f : Stem → Stem) : State := s.modTh s.focus.glade fun t => t.modStem s.focus.stem f
def State.modCyc (s : State) (f : Cyc → Cyc) : State := { s with cyc := s.cyc.map f }

/-- An internal hold met in this context cycle (R196). -/
def State.holdCyc (s : State) : State := s.modCyc fun c => { c with hold := true }

/-- A fault of the issuing element (R413). -/
def State.faultCyc (s : State) (cause value : Nat) : State :=
  s.modCyc fun c => { c with faults := c.faults ++ [⟨s.focus.stem, s.focus.row, cause, value⟩] }

/-- A fault of the issuing element whose TRAP.VALUE no rule states (DESIGN CHOICE, log entry 2). -/
def State.faultCycOpen (s : State) (cause : Nat) : State := s.drawn.faultCyc cause s.freeWord.toNat

/-- A lane of a decode port that another reader has emptied (R229): with the hold bit of the count's tap word the glade holds (R67), else PORT_EMPTY (R194). -/
def State.laneEmpty (s : State) (value : Nat) : State := if bit (s.stemF.tapAt s.countF) 15 then s.modCyc fun c => { c with tapHold := true } else s.faultCyc 0x082 value

/-- A read of values in a glade acquires the releases that they derive from, where the glade is in their scope, and what the arrivals of the rills read release (R280, R281): it takes
effect with the next context cycle. -/
def State.receive_ (s : State) (vs : List Val) (rills : List Nat) : State :=
  let g := s.focus.glade
  let pts := (((relsOf vs).filter fun r => s.inScope r.scope r.glade g).map fun r => Point.rel r.id) ++ rills.flatMap (s.arrivalPts g)
  if pts = [] then s else s.modCyc fun c => { c with got := c.got ++ pts }

/-- One source of the route word read by the issuing element (R121, R190 to R195): the value, and whether it is a lane's head, which is
taken. `join` says that the line is line A or B of a JOIN element, with whether its queue has room (R219). -/
def State.source (s : State) (w : BitVec 24) (code : Nat) (join : Option Bool) : State × Val × Bool :=
  let g := s.focus.glade
  let st := s.focus.stem
  let k := s.focus.row
  let b := s.bough g
  let todo := (s.cyc.map (·.todo)).getD []
  let ofOpt : Option Val → State × Val × Bool
    | some v => (s, v, false)
    | none => let r := s.anyVal; (r.1, r.2, false)
  if code ≤ 4 then match neighbour st k code with
    | some (st', k') => ofOpt (b.regPeek todo 256 st' k')
    | none => (s, Val.zero, false)
  else if code = 7 then (s, Val.ofWord (opImmWord w), false)
  else if code = 10 then ofOpt ((b.th.stem st).fernPeek k b.th.cnt (b.th.fernNow todo st k))
  else match b.peek st k code with
    | some v =>
      if join = some false then (s, Val.idle 0 false, false)
      else (s.modBough g fun b => b.takeLane st k code, v, true)
    | none =>
      if join.isSome then (s, Val.idle 0 false, false)
      else if code = 8 then (s.holdCyc, Val.idle 0 false, false)
      else if code = 11 ∨ code = 12 then (s.laneEmpty (st + 16 * code), Val.idle 0 false, false)
      else let r := s.anyVal; (r.1, r.2, false)

/-- The sources of several lines, each with its JOIN condition: a lane handed out once serves every line that names it (R192), but a line of a JOIN element whose
queue is full (R219). -/
def State.sources (s : State) (w : BitVec 24) : List (Nat × Option Bool) → List (Nat × Val) → State × List Val
  | [], _ => (s, [])
  | (code, j) :: t, got =>
    match nfind got code with
    | some v => let r := s.sources w t got; (r.1, (if j = some false then Val.idle 0 false else v) :: r.2)
    | none =>
      let r := s.source w code j
      let r' := r.1.sources w t (if r.2.2 then nset got code r.2.1 else got)
      (r'.1, r.2.1 :: r'.2)

/-- A mode-switch mote read from the side port (R98): the modes of later context cycles, or CONV_MODE. -/
def State.modeSwitch (s : State) (v : Val) : State :=
  let n := v.data.toNat
  if !v.valid || decide (bits n 63 60 ≠ 5) || !s.stemF.converts then s
  else
    let rm := bits n 6 4
    let sat := bits n 1 0
    let bad := decide (bits n 59 7 ≠ 0) || decide (bits n 3 2 ≠ 0) || decide (4 < rm) || decide (sat = 3)
      || s.stemF.op.any fun w => satBad w.toNat (2 ^ 10 * rm + 2 ^ 8 * sat)
    if bad then s.faultCyc 0x087 (s.focus.stem + 16 * s.focus.row + 256 * bits n 6 0)
    else s.modElemF fun e => { e with rm := BitVec.ofNat 3 rm, sat := BitVec.ofNat 2 sat }

def Elem.enter (e : Elem) (a b c : Val) : Elem := { e with la := (a :: e.la).take 32, lb := (b :: e.lb).take 32, lc := (c :: e.lc).take 32 }

/-! ## Route chains (R327) -/

/-- The entries a chain visits with their words, or why and where it is invalid (R327, R471). -/
def State.chainFrom (s : State) (g : Nat) : Nat → Nat → List (Nat × Nat) → Except Nat (List (Nat × Nat))
  | 0, _, seen => .ok seen
  | f + 1, e, seen =>
    let w := s.route g e
    if seen.any fun x => decide (x.1 = e) then .error (e + 2 * 256)
    else if seen.length = 4 then .error (e + 1 * 256)
    else if bit w 63 = false then .error e
    else
      let seen := seen ++ [(e, w)]
      if bit w 29 then s.chainFrom g f (bits w 37 30) seen else .ok seen

def State.chain (s : State) (g e : Nat) : Except Nat (List (Nat × Nat)) := s.chainFrom g 6 e []

/-- A mote as it is emitted toward the chain of an entry: it takes the words of the entries with it (R327, R328). -/
def State.sentBy (s : State) (g st ord e : Nat) (m : Mote) : Sent :=
  { mote := m, stem := st, ord := ord, uid := s.runUid g
    words := match s.chain g e with
      | .ok l => l.map fun x => (nget 0 (s.eng g).routes x.1).toNat
      | .error _ => [] }

/-- The decoded values that one mote can give (R330). -/
def Rill.perMote (r : Rill) : Nat :=
  let fmt := bits r.cfg.toNat 63 61
  if fmt = 2 then 2 else if fmt = 3 then 4 else if fmt = 4 ∨ fmt = 5 then 16 else 1

/-- The lanes one decoded value fills: with lone decode a vector of its own (R331). -/
def Rill.perValue (r : Rill) : Nat := if bit r.cfg.toNat 39 then 16 else 1

/-- How many motes a rill's decode port can take one after another (R192, R331): none while values wait for room or no room is left, else those whose values find room, and at
least one. -/
def Rill.takes (r : Rill) : Nat :=
  if r.wait ≠ [] ∨ r.port.room < r.perValue then 0 else max 1 (r.port.room / (r.perMote * r.perValue))

/-- How many motes it can take of what a sender hands over: of a drain's beat an empty port takes the whole, and the last values wait (DESIGN CHOICE, log entry 59). -/
def Rill.takesOf (r : Rill) (beat : Bool) : Nat := if beat = true ∧ r.wait = [] ∧ r.port.room = 64 then max 16 r.takes else r.takes

/-- The slot that the next mote of a ZONE delivery fills: the one being filled, else the lowest RESERVED one (R469). -/
def Zone.nextSlot (z : Zone) (k : SlotKey) : Option Nat :=
  match z.slot.find? fun x => decide (x.2.key = k ∧ x.2.st = .filling) && !x.2.ended with
  | some x => some x.1
  | none => (z.slot.find? fun x => decide (x.2.key = k ∧ x.2.st = .reserved) && !x.2.ended).map (·.1)

/-- How many motes the RESERVED and FILLING slots of a key can take (R469). -/
def Zone.moteRoom (z : Zone) (k : SlotKey) : Nat :=
  z.slot.foldl (fun n x => if x.2.key = k ∧ x.2.ended = false then
    (match x.2.st with
      | .reserved => n + z.ssize / 8
      | .filling => n + (z.ssize - x.2.fill) / 8
      | _ => n) else n) 0

/-- How many motes the tile that a slot receives still lacks; none where its first byte has not landed (R421). -/
def Zone.tileRest (z : Zone) (i : Nat) : Nat := let y : ZSlot := nget {} z.slot i; if y.st = .filling then (z.ssize - y.fill) / 8 else 0

/-- How many motes of a key a glade's zone can take (R340, R469): of a quiesced one the rest of the tile that has begun (R421), else those its slots have room for and the decode port of the counted rill takes; none while the key or the rill is
held (R319), or an atomic holds a sector of the slot (R263). -/
def State.zoneTakes (s : State) (g zi : Nat) (k : SlotKey) (beat : Bool) : Nat :=
  match (nfind (s.eng g).zones zi).filter (·.valid) with
  | none => 0
  | some z => match z.nextSlot k with
    | none => 0
    | some i =>
      if s.keyHeld g zi k || s.rillHeld g (z.rillOf i) || s.heldRange 512 (burrowAt g (s.glade g).active + z.base + i * z.ssize) z.ssize then 0
      else min (if s.frozen g then z.tileRest i else z.moteRoom k) ((nget {} (s.eng g).rills (z.rillOf i)).takesOf beat)

/-- How many motes a sink named by a route word can take (R192, R319, R469): a burrow every one, while no sector from the entry's offset on is held (R263). -/
def State.sinkRoom (s : State) (g w : Nat) (beat : Bool := false) : Nat :=
  let d := bits w 59 51
  let b := s.bough d
  let kind := bits w 62 60
  if kind = 0 then (b.port (bits w 41 38) 5).room
  else if kind = 1 then (b.port (bits w 41 38) 6).room
  else if kind = 2 then (b.port (bits w 41 38) 9).room
  else if kind = 4 then (if s.rillHeld d (bits w 42 38) then 0 else (b.eng.rill (bits w 42 38)).takesOf beat)
  else if kind = 3 then (if s.heldRange 512 (burrowAt d (s.glade d).active + bits w 19 0) (2 ^ 20 - bits w 19 0) then 0 else 2 ^ 20)
  else if kind = 5 ∧ bits w 50 43 = s.self then (if s.runs d then s.zoneTakes d (bits w 41 38) ⟨s.self, g, bits w 28 24⟩ beat else 0)
  else 2 ^ 20

/-- A glade holds a reservation on the zone a ZONE word names (R341, R469): on the own package as the zone shows it, on another as the glade knows it. -/
def State.reserved (s : State) (g w : Nat) : Bool :=
  if bits w 50 43 = s.self then (s.homes (bits w 59 51)).any fun e => e.2.holdsKey (bits w 41 38) ⟨s.self, g, bits w 28 24⟩
  else (s.eng g).resv.any fun r => decide (r.pkg = bits w 50 43 ∧ r.glade = bits w 59 51 ∧ r.zone = bits w 41 38 ∧ r.rill = bits w 28 24)

/-- The cause with which an emission toward a chain is refused (R327, R469): ROUTE_INVALID, or SLOT_NONE where a ZONE key holds no reservation. -/
def State.emitBad (s : State) (g st e : Nat) : Option (Nat × Nat) :=
  match s.chain g e with
  | .error v => some (0x085, v + 2 ^ 12 * st + 2 ^ 16)
  | .ok l => (l.find? fun x => decide (bits x.2 62 60 = 5) && !s.reserved g x.2).map fun x => (0x0C5, bits x.2 50 43 + 2 ^ 8 * bits x.2 59 51 + 2 ^ 17 * bits x.2 41 38 + 2 ^ 21 * bits x.2 28 24)

/-- The motes of a stem on their way to its stream-out port or in it (R219); an idle value is none. -/
def Bough.soPending (b : Bough) (st : Nat) : Nat :=
  let x := b.th.stem st
  let fl := (List.range 16).map fun k => ((b.th.elem st k).flight.filter fun f => f.rso && f.val.valid).length
  fl.sum + (x.so.filter fun p => p.2.valid).length + (nget {} b.eng.souts st).out.length
    + (x.fern.filter fun y => y.rso && y.val.valid && !y.landed).length

/-- The stream-out port holds 16 motes (R193, R230). -/
def outRoom : Nat := 16

/-- The stream-out port of a stem and every sink of its binding can take one more mote, counting those in flight toward them (R219). -/
def State.joinRoom (s : State) (g st : Nat) : Bool :=
  let n := (s.bough g).soPending st
  decide (n < outRoom) && (match s.chain g (240 + st) with
    | .ok l => l.all fun x => decide (n < s.sinkRoom g x.2)
    | .error _ => true)

/-! ## Entering the lines (R65, R126, R219) -/

/-- A quiet element takes its lane of every port its route word names for lines A, B and C (R126). -/
def takeQuiet (g st k : Nat) : List Nat → State → State
  | [], s => s
  | c :: t, s =>
    if isStream c ∧ c ∉ t ∧ ((s.bough g).peek st k c).isSome then takeQuiet g st k t (s.modBough g fun b => b.takeLane st k c) else takeQuiet g st k t s

/-- What the focused element does before its operation: its lines shift and take their sources, with dest THRU the pass lane is read, a
mode-switch mote switches its modes, and a JOIN element that cannot emit enters idle values. -/
def State.enterLines (s : State) : State :=
  let g := s.focus.glade
  let x := s.stemF
  let c := s.countF
  let w := x.opAt c
  let rt := x.rtAt c
  let join := decide (clsOf (x.clsAt s.focus.row) = 3)
  let o := opCodeOf w.toNat
  if join && decide (0x48 ≤ o ∧ o ≤ 0x4A ∧ opDest w.toNat = 1) && !s.joinRoom g s.focus.stem then
    (s.modElemF fun e => e.enter (Val.idle 0 false) (Val.idle 0 false) (Val.idle 0 false)).modCyc fun y => { y with skip := true }
  else
    let e := s.elemF
    let j (q : List Val) : Option Bool := if join then some (decide (q.length < 16)) else none
    let ca := bits rt 15 12
    let cb := bits rt 11 8
    let cc := bits rt 7 4
    let cp := bits rt 3 0
    let thru := decide (opDest w.toNat = 3)
    let r := s.sources w ([(ca, j e.qa), (cb, j e.qb), (cc, none)] ++ if thru then [(cp, none)] else []) []
    let at_ (i : Nat) : Val := (r.2[i]?).getD Val.zero
    let ports := ([ca, cb, cc] ++ if thru then [cp] else []).filter fun c => decide (c = 11 ∨ c = 12)
    let s := ((r.1.modElemF fun e => e.enter (at_ 0) (at_ 1) (at_ 2)).modCyc fun y => { y with skip := false, pass := at_ 3 }).receive_ r.2 (ports.map (rillSrc s.focus.stem))
    if ca = 9 then s.modeSwitch (at_ 0)
    else if cb = 9 then s.modeSwitch (at_ 1)
    else if cc = 9 then s.modeSwitch (at_ 2)
    else if thru && decide (cp = 9) then s.modeSwitch (at_ 3) else s

/-- A line of the focused element at its tap age (R65, R123). -/
def State.lineA (s : State) : Val := (s.elemF.la[bits (s.stemF.tapAt s.countF) 14 10]?).getD Val.zero
def State.lineB (s : State) : Val := (s.elemF.lb[bits (s.stemF.tapAt s.countF) 9 5]?).getD Val.zero
def State.lineC (s : State) : Val := (s.elemF.lc[bits (s.stemF.tapAt s.countF) 4 0]?).getD Val.zero

/-! ## Results (R191, R195, R198, R199) -/

/-- Residue mismatches counted for a glade (R199, R407 item 1). -/
def State.mism (s : State) (n : Nat) : State := if n = 0 then s else s.life 1 s.focus.glade n

/-- A value as an operation produces it: port 0 and seq 0 (R189). -/
def Val.made (v : Val) : Val := { v with port := false, seq := 0 }

/-- A result on its way (R66, R191): with dest DIS nothing is in flight. -/
def State.result (s : State) (lam : Nat) (d : Dest) (v : Val) : State :=
  match d with
  | .dis => s
  | d => s.modElemF fun e => { e with flight := e.flight ++ [{ land := s.cntF + lam, issued := s.cntF, val := v.made, rso := decide (d = .rso) }] }

/-- A result with generated residue from the values read (mark G). -/
def State.resultG (s : State) (lam : Nat) (d : Dest) (reads : List Val) (w : Word) : State :=
  (s.result lam d (mkG reads w)).mism (mismG reads)

/-- A result with predicted residue (mark P). -/
def State.resultP (s : State) (lam : Nat) (d : Dest) (reads : List Val) (w : Word) (r : BitVec 4) : State :=
  (s.result lam d (mkP reads w r)).mism (mismP reads w r)

/-- A value passed on with its tags, err by R199 over the values read (mark P: residue of A). -/
def State.resultA (s : State) (lam : Nat) (d : Dest) (a : Val) (reads : List Val) : State :=
  (s.result lam d { a with err := errOf (a :: reads) || decide (a.residue ≠ mod15 a.data), rels := relsOf (a :: reads) }).mism (mismP reads a.data a.residue)

/-- A fern result on its way (R195): it lands in the stem's age queue, and, unless dest is DIS, in the result register. -/
def State.fernResult (s : State) (lam : Nat) (d : Dest) (f : Nat → Nat) : State :=
  let a := s.lineA
  let v := (mkG [a] (map1 f a.data)).made
  ((s.modStemF fun x => { x with fern := x.fern ++ [{ row := s.focus.row, land := s.cntF + lam, issued := s.cntF, val := v, res := decide (d ≠ .dis), rso := decide (d = .rso) }] }).perf
    s.focus.glade 15 1).mism (mismG [a])

/-! ## Random draws (R206, R401) -/

/-- The path index of the focused element's random stream (R206). -/
def State.pathF (s : State) : Nat :=
  if clsOf (s.stemF.clsAt s.focus.row) = 4 then s.elemF.path else 64 + 16 * s.focus.stem + s.focus.row

/-- The key and the sequence words the run entry latched (R201). -/
def State.runF (s : State) : Run := ((s.th s.focus.glade).run).getD ⟨0, 0, 0, 0, [], 0, 0, none⟩

/-- The element with its stream moved on by one word. -/
def Elem.drawn (e : Elem) : Elem := if e.rword = 3 then { e with rblk := e.rblk + 1, rword := 0 } else { e with rword := e.rword + 1 }

/-- The next words of the focused element's stream: none, with its fault, where no key is latched (R201) or the stream is exhausted (R401). -/
def State.draw (s : State) : Nat → State × Option (List Nat)
  | 0 => (s, some [])
  | n + 1 =>
    match s.runF.key with
    | none => (s.faultCycOpen 0x088, none)
    | some key =>
      let e := s.elemF
      if 2 ^ 32 ≤ e.rblk then (s.faultCycOpen 0x08A, none)
      else
        let v := philoxWord key s.runF.seqid.toNat s.runF.pos.toNat s.pathF e.rblk e.rword
        match (s.modElemF Elem.drawn).draw n with
        | (s, some l) => (s, some (v :: l))
        | (s, none) => (s, none)

/-- The modes a conversion of this context cycle works in: those before any switch of the same cycle (R98). -/
def State.modesF (s : State) : Rm × Sat :=
  let e := match s.cyc with
    | some c => c.saved.th.elem s.focus.stem s.focus.row
    | none => s.elemF
  (rmOfCode e.rm, satOfCode e.sat)

/-- A conversion of `n` values from the values read: under RSTO one word is drawn for each (R97, R203). -/
def State.convert (s : State) (lam : Nat) (d : Dest) (reads : List Val) (n : Nat) (f : Rm → Sat → List Nat → Word) : State :=
  let m := s.modesF
  match s.draw (if m.1 = .rsto then n else 0) with
  | (s, some ws) => s.resultG lam d reads (f m.1 m.2 ws)
  | (s, none) => s

/-- The latched value of a modulus register (R201). -/
def State.modulusF (s : State) (i : Nat) : Nat := nget 1 s.runF.mods i

/-! ## AG requests (R212 to R214) -/

def agBytes : AgSize → Nat
  | .b1 => 1
  | .b2 => 2
  | .b4 => 4
  | .b8 => 8

/-- The key of the device page that a cached translation gives an address, for the owner check at the access (R241). -/
def State.pageKey (s : State) (g a : Nat) : Option Nat :=
  match s.place g with
  | some p => if a < 2 ^ 55 then (s.cached g p.ctx false a).map fun t => leafKey t.leaf.toNat else none
  | none => none

/-- An AG element by number, as `Unseen.agent` names it. -/
def agAgent (g st k : Nat) : Nat := 1 + 256 * g + 16 * st + k

/-- The writes so far to a range that a request of the focused AG element is not after (R213, R270). -/
def State.agBlind (s : State) (phys n : Nat) : List Nat :=
  let g := s.focus.glade
  (s.unseen.filter fun e => e.overlaps phys n && !e.meets [.op (s.runUid g)] && decide (e.agent ≠ agAgent g s.focus.stem s.focus.row)).map (·.num)

/-- A request of the focused AG element (R213, R214): it is checked before its issue takes effect; a full window, a walk or a host page holds the
glade, a fault withholds the context cycle. -/
def State.agRequest (s : State) (a n : Nat) (kind : AgKind) (operand : Word) (tag : Val) : State :=
  let g := s.focus.glade
  let e := s.elemF
  let k : AccKind := match kind with
    | .load => .rd
    | .store => .wr
    | .atom _ _ => .atom
  let replies := (e.agOut.filter fun r => decide (r.kind ≠ .store)).length
  if 32 ≤ e.agOut.length ∨ (kind ≠ .store ∧ 32 ≤ e.agRep.length + replies) then s.holdCyc
  else match s.resolve g a n n k true with
    | .ok phys =>
      let r : AgReq := { issued := s.wall, uid := s.runUid g, kind := kind, gaddr := a, phys := phys, key := s.pageKey g a, size := n,
                         operand := operand, edm := tag.edm, last := tag.last, asOf := s.free, blind := s.agBlind phys n }
      (s.served g a phys 0).modElemF fun e => { e with agOut := e.agOut ++ [r] }
    | .fault c => s.faultCyc c a
    | .walk ctx va => match (s.glade g).walkFaults.find? fun f => decide (f.1 = ctx ∧ f.2.1 = va) with
      | some f => (s.modGlade g fun y => { y with walkFaults := y.walkFaults.filter (· ≠ f) }).faultCyc f.2.2 a
      | none => (s.startWalk g ctx va).holdCyc
    | .host page =>
      let vf := ((s.place g).map (·.vf)).getD 0
      let w : Waiter := ⟨2, g, 16 * s.focus.stem + s.focus.row⟩
      if s.pageFailed vf page w then (s.leavePage vf page w).faultCyc 0x049 a
      else (s.needPage vf page k.writes w).holdCyc

end Sys2Proof.Machine
end

