-- ==== Sys2Proof/Machine/Element.lean ====
section
/-! DEFINITION. The element operations (R202 to R230): FP32 pairs, conversions, integers, modular operations, plumbing, address generators,
reducers, joins, sampling, fern functions, boundary and rill operations. Each acts for the focused element, whose lines have been
entered, at the values its tap word reads (R198). -/

namespace Sys2Proof.Machine

/-! ## FP32 pairs (R202) -/

/-- FADD (R202). -/
def execFadd (d : Dest) (_imm : BitVec 12) (s : State) : Outcome :=
  .next (s.resultG 4 d [s.lineA, s.lineB] (map2 f32add s.lineA.data s.lineB.data))

/-- FSUB (R202). -/
def execFsub (d : Dest) (_imm : BitVec 12) (s : State) : Outcome :=
  .next (s.resultG 4 d [s.lineA, s.lineB] (map2 f32sub s.lineA.data s.lineB.data))

/-- FMUL (R202). -/
def execFmul (d : Dest) (_imm : BitVec 12) (s : State) : Outcome :=
  .next (s.resultG 4 d [s.lineA, s.lineB] (map2 f32mul s.lineA.data s.lineB.data))

/-- FMA (R202). -/
def execFma (d : Dest) (_imm : BitVec 12) (s : State) : Outcome :=
  .next (s.resultG 4 d [s.lineA, s.lineB, s.lineC] (map3 f32fma s.lineA.data s.lineB.data s.lineC.data))

/-- FNMA (R202). -/
def execFnma (d : Dest) (_imm : BitVec 12) (s : State) : Outcome :=
  .next (s.resultG 4 d [s.lineA, s.lineB, s.lineC] (map3 f32fnma s.lineA.data s.lineB.data s.lineC.data))

/-- FMIN (R202). -/
def execFmin (d : Dest) (_imm : BitVec 12) (s : State) : Outcome :=
  .next (s.resultG 2 d [s.lineA, s.lineB] (map2 f32min s.lineA.data s.lineB.data))

/-- FMAX (R202). -/
def execFmax (d : Dest) (_imm : BitVec 12) (s : State) : Outcome :=
  .next (s.resultG 2 d [s.lineA, s.lineB] (map2 f32max s.lineA.data s.lineB.data))

/-- FMOD (R202). -/
def execFmod (d : Dest) (neg abs : Bool) (s : State) : Outcome :=
  .next (s.resultG 2 d [s.lineA] (map1 (fmodL neg abs) s.lineA.data))

/-- FCMP (R202). -/
def execFcmp (d : Dest) (r : FRel) (s : State) : Outcome :=
  .next (s.resultG 2 d [s.lineA, s.lineB] (map2 (fcmpL r) s.lineA.data s.lineB.data))

/-- FSEL (R202). -/
def execFsel (d : Dest) (_imm : BitVec 12) (s : State) : Outcome :=
  .next (s.resultG 2 d [s.lineA, s.lineB, s.lineC] (map3 fselL s.lineA.data s.lineB.data s.lineC.data))

/-- FRND (R202): one word is drawn per lane under RSTO, lane 0 first. -/
def execFrnd (d : Dest) (_imm : BitVec 12) (s : State) : Outcome :=
  .next (s.convert 2 d [s.lineA] 2 fun rm _ ws => frndW rm ws s.lineA.data)

/-- FCLAMP (R202). -/
def execFclamp (d : Dest) (_imm : BitVec 12) (s : State) : Outcome :=
  .next (s.resultG 2 d [s.lineA, s.lineB, s.lineC] (map3 fclampL s.lineA.data s.lineB.data s.lineC.data))

/-- FSCALE (R202). -/
def execFscale (d : Dest) (_imm : BitVec 12) (s : State) : Outcome :=
  .next (s.resultG 2 d [s.lineA, s.lineB] (map2 f32scale s.lineA.data s.lineB.data))

/-! ## Conversions (R203, R204) -/

/-- CVT.F32.BF16 (R203): exact, and like every conversion it consumes a word for each value under RSTO (R97). -/
def execCvtF32Bf16 (d : Dest) (h : BitVec 1) (s : State) : Outcome :=
  .next (s.convert 3 d [s.lineA] 2 fun _ _ _ => cvtF32Bf16W h.toNat s.lineA.data)

/-- CVT.BF16.F32 (R203). -/
def execCvtBf16F32 (d : Dest) (s : State) : Outcome :=
  .next (s.convert 3 d [s.lineA, s.lineB] 4 fun rm sm ws => cvtBf16F32W rm sm ws s.lineA.data s.lineB.data)

/-- CVT.F32.E4M3 (R203): exact, as CVT.F32.BF16. -/
def execCvtF32E4m3 (d : Dest) (p : BitVec 2) (s : State) : Outcome :=
  .next (s.convert 3 d [s.lineA] 2 fun _ _ _ => cvtF32E4m3W p.toNat s.lineA.data)

/-- CVT.E4M3.F32 (R203). -/
def execCvtE4m3F32 (d : Dest) (h : BitVec 1) (s : State) : Outcome :=
  .next (s.convert 3 d [s.lineA, s.lineB, s.lineC] 4 fun rm sm ws => cvtE4m3F32W rm sm ws h.toNat s.lineA.data s.lineB.data s.lineC.data)

/-- CVT.E2M1.F32 (R203). -/
def execCvtE2m1F32 (d : Dest) (p : BitVec 2) (s : State) : Outcome :=
  .next (s.convert 3 d [s.lineA, s.lineB, s.lineC] 4 fun rm sm ws => cvtE2m1F32W rm sm ws p.toNat s.lineA.data s.lineB.data s.lineC.data)

/-- CVT.IF (R204): one value per lane of a 32-bit type, one value of a 64-bit type. -/
def execCvtIf (d : Dest) (ty : IntType) (dir : Bool) (s : State) : Outcome :=
  .next (s.convert 3 d [s.lineA] (if tBits ty = 32 then 2 else 1) fun rm sm ws => cvtIfW rm sm ws ty dir s.lineA.data)

/-! ## Integers (R207, R208) -/

/-- IADD (R207, R208). -/
def execIadd (d : Dest) (ty : IntType) (_imm : BitVec 12) (s : State) : Outcome :=
  .next (s.resultP 1 d [s.lineA, s.lineB] (iaddW ty s.lineA.data s.lineB.data) (iaddRes ty s.lineA s.lineB))

/-- ISUB (R207, R208). -/
def execIsub (d : Dest) (ty : IntType) (_imm : BitVec 12) (s : State) : Outcome :=
  .next (s.resultP 1 d [s.lineA, s.lineB] (isubW ty s.lineA.data s.lineB.data) (isubRes ty s.lineA s.lineB))

/-- IMUL (R207, R208): the residue is predicted for the 64-bit types only (R200). -/
def execImul (d : Dest) (ty : IntType) (_imm : BitVec 12) (s : State) : Outcome :=
  .next (if tBits ty = 64 then s.resultP 3 d [s.lineA, s.lineB] (imulW ty s.lineA.data s.lineB.data) (imulRes s.lineA s.lineB)
    else s.resultG 3 d [s.lineA, s.lineB] (imulW ty s.lineA.data s.lineB.data))

/-- IMULH (R207). -/
def execImulh (d : Dest) (ty : IntType) (_imm : BitVec 12) (s : State) : Outcome :=
  .next (s.resultG 3 d [s.lineA, s.lineB] (imulhW ty s.lineA.data s.lineB.data))

/-- IAND (R207). -/
def execIand (d : Dest) (_ty : IntType) (_imm : BitVec 12) (s : State) : Outcome :=
  .next (s.resultG 1 d [s.lineA, s.lineB] (s.lineA.data &&& s.lineB.data))

/-- IOR (R207). -/
def execIor (d : Dest) (_ty : IntType) (_imm : BitVec 12) (s : State) : Outcome :=
  .next (s.resultG 1 d [s.lineA, s.lineB] (s.lineA.data ||| s.lineB.data))

/-- IXOR (R207). -/
def execIxor (d : Dest) (_ty : IntType) (_imm : BitVec 12) (s : State) : Outcome :=
  .next (s.resultG 1 d [s.lineA, s.lineB] (s.lineA.data ^^^ s.lineB.data))

/-- ISHL (R207). -/
def execIshl (d : Dest) (ty : IntType) (_imm : BitVec 12) (s : State) : Outcome :=
  .next (s.resultG 1 d [s.lineA, s.lineB] (ishlW ty s.lineA.data s.lineB.data))

/-- ISHR (R207). -/
def execIshr (d : Dest) (ty : IntType) (_imm : BitVec 12) (s : State) : Outcome :=
  .next (s.resultG 1 d [s.lineA, s.lineB] (ishrW ty s.lineA.data s.lineB.data))

/-- ISAR (R207). -/
def execIsar (d : Dest) (ty : IntType) (_imm : BitVec 12) (s : State) : Outcome :=
  .next (s.resultG 1 d [s.lineA, s.lineB] (isarW ty s.lineA.data s.lineB.data))

/-- IMIN (R207). -/
def execImin (d : Dest) (ty : IntType) (_imm : BitVec 12) (s : State) : Outcome :=
  .next (s.resultG 1 d [s.lineA, s.lineB] (iminW ty s.lineA.data s.lineB.data))

/-- IMAX (R207). -/
def execImax (d : Dest) (ty : IntType) (_imm : BitVec 12) (s : State) : Outcome :=
  .next (s.resultG 1 d [s.lineA, s.lineB] (imaxW ty s.lineA.data s.lineB.data))

/-- ICMP (R207). -/
def execIcmp (d : Dest) (ty : IntType) (r : IRel) (s : State) : Outcome :=
  .next (s.resultG 1 d [s.lineA, s.lineB] (icmpW ty r s.lineA.data s.lineB.data))

/-- ISEL (R207). -/
def execIsel (d : Dest) (ty : IntType) (_imm : BitVec 12) (s : State) : Outcome :=
  .next (s.resultG 1 d [s.lineA, s.lineB, s.lineC] (iselW ty s.lineA.data s.lineB.data s.lineC.data))

/-! ## Modular operations (R209) -/

/-- MMUL (R209). -/
def execMmul (d : Dest) (m : BitVec 4) (s : State) : Outcome :=
  .next (s.resultG 6 d [s.lineA, s.lineB] (BitVec.ofNat 64 (mmulQ (s.modulusF m.toNat) s.lineA.data.toNat s.lineB.data.toNat)))

/-- MADD (R209). -/
def execMadd (d : Dest) (m : BitVec 4) (s : State) : Outcome :=
  .next (s.resultG 2 d [s.lineA, s.lineB] (BitVec.ofNat 64 (maddQ (s.modulusF m.toNat) s.lineA.data.toNat s.lineB.data.toNat)))

/-- MSUB (R209). -/
def execMsub (d : Dest) (m : BitVec 4) (s : State) : Outcome :=
  .next (s.resultG 2 d [s.lineA, s.lineB] (BitVec.ofNat 64 (msubQ (s.modulusF m.toNat) s.lineA.data.toNat s.lineB.data.toNat)))

/-- BFLY (R209): (A + C × B) mod q, and one context cycle later (A − C × B) mod q. -/
def execBfly (d : Dest) (m : BitVec 4) (s : State) : Outcome :=
  let q := s.modulusF m.toNat
  let a := s.lineA.data.toNat
  let p := mmulQ q s.lineC.data.toNat s.lineB.data.toNat
  let reads := [s.lineA, s.lineB, s.lineC]
  .next ((s.resultG 6 d reads (BitVec.ofNat 64 (maddQ q a p))).result 7 d (mkG reads (BitVec.ofNat 64 (msubQ q a p))))

/-- IBFLY (R209): (A + B) mod q, and one context cycle later ((A − B) × C) mod q. -/
def execIbfly (d : Dest) (m : BitVec 4) (s : State) : Outcome :=
  let q := s.modulusF m.toNat
  let a := s.lineA.data.toNat
  let b := s.lineB.data.toNat
  let reads := [s.lineA, s.lineB, s.lineC]
  .next ((s.resultG 6 d reads (BitVec.ofNat 64 (maddQ q a b))).result 7 d
    (mkG reads (BitVec.ofNat 64 (mmulQ q (msubQ q a b) s.lineC.data.toNat))))

/-! ## Plumbing (R210) -/

/-- PASS (R210): A with all its tags. -/
def execPass (d : Dest) (_ty : ElemType) (_imm : BitVec 12) (s : State) : Outcome := .next (s.resultA 1 d s.lineA [s.lineA])

/-- PASS with dest THRU (R65, R210): the pass-lane source with its tags. -/
def execPassThru (s : State) : Outcome :=
  match s.cyc with
  | some c => .next (s.resultA 1 .res c.pass [c.pass])
  | none => .next s

/-- HOLD (R210): A where bit 0 of C is 1; otherwise nothing is written and nothing is in flight. -/
def execHold (d : Dest) (_ty : ElemType) (_imm : BitVec 12) (s : State) : Outcome :=
  .next (if s.lineC.data.getLsbD 0 then s.resultA 1 d s.lineA [s.lineA, s.lineC] else s.mism (mismG [s.lineA, s.lineC]))

/-- CONST (R210): the widened immediate. -/
def execConst (d : Dest) (ty : ElemType) (imm : BitVec 12) (s : State) : Outcome := .next (s.result 1 d (Val.ofWord (immWord ty imm)))

/-! ## Address generators (R211, R212) -/

/-- AG.CNT (R211): i × B; the n-th value ends level 1 and the counter wraps. The valid bit of B is ignored. -/
def execAgCnt (d : Dest) (n : BitVec 12) (s : State) : Outcome :=
  let i := s.elemF.level
  let b := s.lineB
  let wrap := decide (i = n.toNat)
  let v := { mkG [b] (BitVec.ofNat 64 i * b.data) with edm := if wrap then 1 else 0, valid := true }
  .next (((s.result 1 d v).modElemF fun e => { e with level := if wrap then 0 else i + 1 }).mism (mismG [b]))

/-- AG.LINK (R211): A + j × B; j counts once every lower level has wrapped. An idle A passes, with last and err over the lines read and a residue of its own (R190, R200),
and counts nothing. -/
def execAgLink (d : Dest) (l : BitVec 4) (n : BitVec 8) (s : State) : Outcome :=
  let a := s.lineA
  let b := s.lineB
  let j := s.elemF.level
  if a.valid = false then .next ((s.result 1 d { mkG [a, b] a.data with edm := a.edm }).mism (mismG [a, b]))
  else
    let low := decide (l.toNat ≤ a.edm.toNat + 1)
    let wrap := low && decide (j = n.toNat)
    let v := { mkG [a, b] (a.data + BitVec.ofNat 64 j * b.data) with edm := if wrap then l else a.edm }
    .next (((s.result 1 d v).modElemF fun e => { e with level := if wrap then 0 else if low then j + 1 else j }).mism (mismG [a, b]))

/-- The address of a memory request with the tags of A (R212). -/
def State.agAddress (s : State) (d : Dest) (w : Word) (reads : List Val) : State :=
  (s.result 1 d { mkG reads w with valid := s.lineA.valid, edm := s.lineA.edm, last := s.lineA.last }).mism (mismG reads)

/-- AG.LD (R212). -/
def execAgLd (d : Dest) (sp : Space) (z : AgSize) (s : State) : Outcome :=
  let w := s.lineB.data + s.lineA.data
  let s' := s.agAddress d w [s.lineA, s.lineB]
  .next (if s.lineA.valid then s'.agRequest (cvtaFrom sp w).toNat (agBytes z) .load 0 s.lineA else s')

/-- AG.ST (R212). -/
def execAgSt (d : Dest) (sp : Space) (z : AgSize) (s : State) : Outcome :=
  let w := s.lineB.data + s.lineA.data
  let s' := s.agAddress d w [s.lineA, s.lineB, s.lineC]
  .next (if s.lineA.valid && s.lineC.valid then s'.agRequest (cvtaFrom sp w).toNat (agBytes z) .store s.lineC.data s.lineA else s')

/-- AG.GATH (R212): the index is scaled by the size. -/
def execAgGath (d : Dest) (sp : Space) (z : AgSize) (s : State) : Outcome :=
  let w := s.lineB.data + s.lineA.data * BitVec.ofNat 64 (agBytes z)
  let s' := s.agAddress d w [s.lineA, s.lineB]
  .next (if s.lineA.valid then s'.agRequest (cvtaFrom sp w).toNat (agBytes z) .load 0 s.lineA else s')

/-- AG.SCAT (R212): the index is scaled by the size. -/
def execAgScat (d : Dest) (sp : Space) (z : AgSize) (s : State) : Outcome :=
  let w := s.lineB.data + s.lineA.data * BitVec.ofNat 64 (agBytes z)
  let s' := s.agAddress d w [s.lineA, s.lineB, s.lineC]
  .next (if s.lineA.valid && s.lineC.valid then s'.agRequest (cvtaFrom sp w).toNat (agBytes z) .store s.lineC.data s.lineA else s')

/-- AG.ATOM (R212): a relaxed atomic of 4 or 8 bytes with operand C. -/
def execAgAtom (d : Dest) (sc : Scope) (op : AgOp) (sp : Space) (z : Bool) (s : State) : Outcome :=
  let w := s.lineB.data + s.lineA.data
  let s' := s.agAddress d w [s.lineA, s.lineB, s.lineC]
  .next (if s.lineA.valid then s'.agRequest (cvtaFrom sp w).toNat (if z then 8 else 4) (.atom op sc) s.lineC.data s.lineA else s')

/-! ## Reducers (R215 to R217) -/

/-- One row's issue of a reducing operation (R215): its leaf is kept, and row 15's issue combines the leaves of its count and delivers one or
two results. -/
def State.reduce (s : State) (op : RedOp) (lam : Nat) (d : Dest) (msk : Bool) : State :=
  let c := s.countF
  let k := s.focus.row
  let a := s.lineA
  let b := s.lineB
  let m := s.lineC
  let here := !msk || m.data.getLsbD 0
  let leaf : RedLeaf := { present := here, a := a, b := b, cbad := msk && (m.err || m.mismatch) }
  let own := if op = .smerge then [a, b] else [a]
  let n := mismG ((if here then own else []) ++ if msk then [m] else [])
  let s := (s.modStemF fun x => { x with leaves := nset (x.leaves.filter fun l => decide (c < l.1 / 16 + 16)) (16 * c + k) leaf }).mism n
  if k = 15 then
    let ls := (List.range 16).map fun i => nget ⟨false, {}, {}, false⟩ s.stemF.leaves (16 * c + i)
    let r := reduceW op ls
    let s := s.result lam d (redVal op ls r.1)
    match r.2 with
    | some w => s.result (lam + 1) d (redVal op ls w)
    | none => s
  else s

/-- RED.FADD (R216). -/
def execRedFadd (d : Dest) (msk : Bool) (s : State) : Outcome := .next (s.reduce .fadd 8 d msk)
/-- RED.FMAX (R216). -/
def execRedFmax (d : Dest) (msk : Bool) (s : State) : Outcome := .next (s.reduce .fmax 4 d msk)
/-- RED.IADD (R216): the sum modulo 2^64 is the same for both types. -/
def execRedIadd (d : Dest) (_z msk : Bool) (s : State) : Outcome := .next (s.reduce .iadd 4 d msk)
/-- RED.ARGMAX (R216). -/
def execRedArgmax (d : Dest) (msk : Bool) (s : State) : Outcome := .next (s.reduce .argmax 4 d msk)
/-- RED.SMERGE (R217). -/
def execRedSmerge (d : Dest) (msk : Bool) (s : State) : Outcome := .next (s.reduce .smerge 12 d msk)

/-! ## Joins (R218 to R221) -/

/-- One issue of a JOIN operation (R218 to R220): the appends, then at most one comparison and one result. An append past 16 values holds the
glade; a skipped issue delivers an idle value and changes nothing. -/
def State.join (s : State) (op : JoinOp) (wide : Bool) (lv : BitVec 4) (d : Dest) : State :=
  match s.cyc.map (·.skip) with
  | some true => s.result 2 d (Val.idle 0 false)
  | _ =>
    let e := s.elemF
    let qa := joinAppend lv.toNat e.qa s.lineA
    let qb := joinAppend lv.toNat e.qb s.lineB
    if 16 < qa.length ∨ 16 < qb.length then s.holdCyc
    else
      let r := joinIssue op wide lv.toNat { e with qa := qa, qb := qb }
      ((s.modElemF fun _ => r.1).result 2 d r.2).mism (mismP [s.lineA, s.lineB] r.2.data r.2.residue)

/-- JOIN.ISECT (R220, R221). -/
def execJoinIsect (d : Dest) (wide : Bool) (lv : BitVec 4) (s : State) : Outcome := .next (s.join .isect wide lv d)
/-- JOIN.UNION (R220, R221). -/
def execJoinUnion (d : Dest) (wide : Bool) (lv : BitVec 4) (s : State) : Outcome := .next (s.join .union wide lv d)
/-- JOIN.MERGE (R220, R221). -/
def execJoinMerge (d : Dest) (wide : Bool) (lv : BitVec 4) (s : State) : Outcome := .next (s.join .merge wide lv d)

/-! ## Sampling (R222, R223) -/

/-- SAMP.INIT (R222). -/
def execSampInit (d : Dest) (p : BitVec 6) (s : State) : Outcome :=
  .next ((s.modElemF fun e => { e with cand := 0xFFFFFFFF, mass := 0, bad := false, path := p.toNat, rblk := 0, rword := 0 }).result 1 d (Val.ofWord 0))

/-- SAMP.STEP (R223). -/
def execSampStep (d : Dest) (f : BitVec 6) (s : State) : Outcome :=
  let a := s.lineA
  let e := s.elemF
  if a.valid = false then .next (s.resultG 4 d [a] (e.cand.setWidth 64))
  else
    let w := sampWeight f.toNat (lane0 a.data)
    let mass := e.mass + w.1
    if 2 ^ 64 ≤ mass then .next (s.faultCycOpen 0x089)
    else match s.draw 2 with
      | (s, some [w0, w1]) =>
        let u := w1 % 2 ^ 16 * 2 ^ 32 + w0
        let cand : BitVec 32 := if u * mass < w.1 * 2 ^ 48 then BitVec.ofNat 32 (lane1 a.data) else e.cand
        .next ((s.modElemF fun e => { e with cand := cand, mass := mass, bad := e.bad || w.2 }).resultG 4 d [a] (cand.setWidth 64))
      | (s, _) => .next s

/-- SAMP.EMIT (R222): the values before any clear. -/
def execSampEmit (d : Dest) (clr : Bool) (s : State) : Outcome :=
  let e := s.elemF
  let s := if clr then s.modElemF fun e => { e with cand := 0xFFFFFFFF, mass := 0, bad := false } else s
  .next (s.result 1 d (Val.ofWord (sampEmitW e)))

/-- RNG (R222): two words, lane 0 first. -/
def execRng (d : Dest) (s : State) : Outcome :=
  match s.draw 2 with
  | (s, some [w0, w1]) => .next (s.result 2 d (Val.ofWord (ofLanes w0 w1)))
  | (s, _) => .next s

/-! ## Fern functions (R224, R225) -/

/-- EXP2 (R225). -/
def execExp2 (d : Dest) (_imm : BitVec 12) (s : State) : Outcome := .next (s.fernResult 18 d f32exp2)

/-- LOG2 (R225). -/
def execLog2 (d : Dest) (_imm : BitVec 12) (s : State) : Outcome := .next (s.fernResult 18 d f32log2)

/-- RCP (R225). -/
def execRcp (d : Dest) (_imm : BitVec 12) (s : State) : Outcome := .next (s.fernResult 12 d f32rcp)

/-- RSQRT (R225). -/
def execRsqrt (d : Dest) (_imm : BitVec 12) (s : State) : Outcome := .next (s.fernResult 14 d f32rsqrt)

/-- SQRT (R225). -/
def execSqrt (d : Dest) (_imm : BitVec 12) (s : State) : Outcome := .next (s.fernResult 16 d f32sqrt)

/-- TANH (R225). -/
def execTanh (d : Dest) (_imm : BitVec 12) (s : State) : Outcome := .next (s.fernResult 24 d f32tanh)

/-- ERF (R225). -/
def execErf (d : Dest) (_imm : BitVec 12) (s : State) : Outcome := .next (s.fernResult 24 d f32erf)

/-! ## Boundary and check operations (R226 to R228) -/

/-- BND.REL in a glade releases what its run is after, and every AG store and atomic so far of the unit's glades: those that are not performed yet take the release's number
(R226, R281). -/
def State.bndRelease (s : State) (g id : Nat) : State :=
  let from_ := Point.op (s.runUid g) :: (s.unitGlades g).flatMap fun h => [.op (s.runUid h), .out (s.runUid h), .retired (s.home h) 3]
  (s.unitGlades g).foldl (fun s h => s.modTh h fun t => { t with elems := t.elems.map fun e =>
    (e.1, { e.2 with agOut := e.2.agOut.map fun r => if r.kind = .load then r else { r with rels := r.rels ++ [id] } }) }) (s.flow from_ (.rel id))

/-- BND.REL (R226): A, landing only once the stores issued before it are performed; what derives from it carries its release at the scope of the class word (R281). -/
def execBndRel (d : Dest) (_ty : ElemType) (s : State) : Outcome :=
  let a := s.lineA
  let sc := (Sys2Proof.Scope.ofCode (clsScope (s.stemF.clsAt s.focus.row))).getD .glade
  let v := { a with err := errOf [a] || decide (a.residue ≠ mod15 a.data), rels := a.rels ++ [(⟨sc, s.focus.glade, s.free⟩ : Rel)] }.made
  let s := s.mism (mismP [a] a.data a.residue)
  .next (if d = .dis then s
    else (s.drawn.bndRelease s.focus.glade s.free).modElemF fun e => { e with flight := e.flight ++ [{ land := s.cntF + 2, issued := s.cntF, val := v, rso := decide (d = .rso), rel := some s.wall }] })

/-- RES.CHK (R227). -/
def execResChk (d : Dest) (_ty : ElemType) (flt : Bool) (s : State) : Outcome :=
  let a := s.lineA
  let bad := a.err || decide (a.residue ≠ mod15 a.data)
  let s := s.mism (b2n bad)
  .next (if flt && bad then s.faultCyc 0x083 (s.focus.stem + 16 * s.focus.row) else s.result 1 d { a with err := bad })

/-- SEQ.TAG (R228). -/
def execSeqTag (d : Dest) (_ty : ElemType) (s : State) : Outcome :=
  let a := s.lineA
  let e := s.elemF.expect
  if a.valid = false ∨ a.port = false then .next (s.resultA 1 d a [a])
  else if a.err then .next ((s.result 1 d (Val.idle 0 false)).mism (mismG [a]))
  else if a.seq = e then .next ((s.resultA 1 d a [a]).modElemF fun x => { x with expect := e + 1 })
  else if 1 ≤ (e - a.seq).toNat ∧ (e - a.seq).toNat ≤ 2 ^ 15 then .next ((s.result 1 d (Val.idle 0 false)).mism (mismG [a]))
  else .next (s.faultCyc 0x084 (e.toNat + 2 ^ 16 * a.seq.toNat))

/-! ## Rill ports (R229, R230) -/

/-- RILL.IN (R229): the head of the row's lane of the rill's decode port; a TORN rill raises RILL_TORN, and an empty lane holds or raises PORT_EMPTY. -/
def execRillIn (d : Dest) (_ty : ElemType) (r : BitVec 5) (s : State) : Outcome :=
  let g := s.focus.glade
  let x := (s.eng g).rill r.toNat
  if x.status = 1 then .next (s.faultCyc 0x0C6 r.toNat)
  else match x.port.head s.focus.row with
    | some v =>
      let s := s.modEng g fun e => { e with rills := nmod {} e.rills r.toNat fun x => { x with port := x.port.take s.focus.row } }
      .next (((s.receive_ [v] [r.toNat]).result 2 d { v with residue := mod15 v.data, err := v.err || v.mismatch }).mism (mismG [v]))
    | none => .next (s.laneEmpty (s.focus.stem + 2 ^ 8 + 2 ^ 9 * r.toNat))

/-- Whether the motes of the focused element's count that this context cycle may not send again are in the buffers already (R196, R230). -/
def State.sentF (s : State) : Bool := decide ((s.focus.stem, s.focus.row) ∈ (s.th s.focus.glade).sent)

/-- RILL.OUT (R230): a valid A leaves as one mote of the rill; a full buffer holds the glade. The motes of the context cycle that were put into the buffers before it stay
there, and the context cycle is made again without them (DEDUCED, log entry 60). -/
def execRillOut (d : Dest) (_ty : ElemType) (r : BitVec 5) (s : State) : Outcome :=
  let g := s.focus.glade
  let a := s.lineA
  let x := (s.eng g).rill r.toNat
  let e := bits x.cfg.toNat 51 44
  let here (l : List (Nat × Nat)) : List (Nat × Nat) := l ++ [(s.focus.stem, s.focus.row)]
  if a.valid = false then .next (s.resultA 1 d a [a])
  else if s.sentF then .next ((s.modCyc fun c => { c with sent := here c.sent }).resultA 1 d a [a])
  else match s.emitBad g s.focus.stem e with
    | some (c, v) => .next (s.faultCyc c v)
    | none =>
      if outRoom ≤ x.ostream.out.length ∨ s.cyc.any (·.full) = true then .next (s.holdCyc.modCyc fun c => { c with full := true })
      else
        let m : Mote := { data := a.data, rill := r, edm := a.edm, residue := a.residue, route := BitVec.ofNat 8 e, seq := x.oseq, err := a.err, last := a.last, rels := a.rels }
        let y := s.sentBy g s.focus.stem (256 * s.countF + 16 * s.focus.row + s.focus.stem) e m
        let x' := { x with oseq := x.oseq + 1, ostream := { x.ostream with out := x.ostream.out ++ [y] } }
        .next (((s.modEng g fun y => { y with rills := nset y.rills r.toNat x' }).modCyc fun c => { c with sent := here c.sent }).resultA 1 d a [a])

end Sys2Proof.Machine
end

