-- ==== Sys2Proof/Machine/Control.lean ====
section
/-! DEFINITION. The meanings of the branch-class, task, trap and system instructions (R170 to R187), and the system-register space (R149 to
R158). -/

namespace Sys2Proof.Machine

/-! ## Control transfer (R170 to R173, R180, R182) -/

/-- A branch-class instruction has executed (R170); a second one faults (R146). -/
def branchOp (h : Hdr) (x : Fx) (br : Branch) (s : State) : Outcome :=
  if x.b.branch.isSome then s.stop x 0x00A x.opValue
  else s.finish x h 0 0 fun b => { b with branch := some br }

/-- A branch-class instruction with no slots. -/
def branch0 (h : Hdr) (s : State) (f : Block → Branch) : Outcome :=
  match s.fx h false false with
  | none => .next s
  | some x => branchOp h x (f x.b) s

/-- An address as a 64-bit value. -/
def addrWord (a : Int) : Word := BitVec.ofNat 64 (ofS 64 a)

/-- BR: the successor is block address + 64 × offset (R171). -/
def execBr (h : Hdr) (off : BitVec 30) (s : State) : Outcome :=
  branch0 h s fun b => .goto (addrWord (branchTo b.addr off.toInt)) none

/-- CALL: as BR, and LINK takes the fall-through address at commit (R171). -/
def execCall (h : Hdr) (off : BitVec 30) (s : State) : Outcome :=
  branch0 h s fun b => .call (addrWord (branchTo b.addr off.toInt))

/-- RET: the successor is L, which must begin with LAND 0 (R173). -/
def execRet (h : Hdr) (s : State) : Outcome :=
  match s.fx h true false with
  | none => .next s
  | some x => branchOp h x (.goto x.l (some 0)) s

/-- HALT (R171) (DEDUCED, log entry 40). -/
def execHalt (h : Hdr) (s : State) : Outcome := branch0 h s fun _ => .halt

/-- BKPT: the trap BREAKPOINT with its code (R180). -/
def execBkpt (h : Hdr) (num : BitVec 12) (s : State) : Outcome := branch0 h s fun _ => .trap 0x016 num.toNat

/-- TRAP n: a software cause (R180). -/
def execTrap (h : Hdr) (n : BitVec 5) (s : State) : Outcome := branch0 h s fun _ => .trap (0x1E0 + n.toNat) 0

/-- TRET: the return from the handler; outside a handler it faults (R182). -/
def execTret (h : Hdr) (s : State) : Outcome :=
  match s.fx h false false with
  | none => .next s
  | some x => if (s.ww x.g).inh then branchOp h x .tret s else s.stopOpen x 0x00E

/-- BRI: the successor and its label from an entry of a jump table in the burrow (R172, R335). -/
def execBri (h : Hdr) (off : BitVec 18) (last : BitVec 12) (s : State) : Outcome :=
  match s.fx h true false with
  | none => .next s
  | some x =>
    if last.toNat < x.l.toNat then s.stop x 0x142 x.l.toNat
    else
      let a := branchTo x.b.addr off.toInt + 8 * (x.l.toNat : Int)
      if a < 0 ∨ (2 ^ 20 : Int) < a + 8 then s.stop x 0x143 x.l.toNat
      else match s.try_ x (spBase .loc + a.toNat) 8 8 .rd with
        | .stop s => .next s
        | .at_ phys =>
          let e := ofBytes (s.loadBytes x phys 8)
          if bits e 63 32 ≠ 0 ∨ bits e 5 0 ≠ 0 then s.stop x 0x143 x.l.toNat
          else if x.b.branch.isSome then s.stop x 0x00A x.opValue
          else s.finish x h 0 0 fun b =>
            { b.read (sectors phys 8) with branch := some (.goto (BitVec.ofNat 64 (64 * bits e 19 6)) (some (bits e 31 20))) }

/-! ## Tasks (R177 to R179) -/

/-- TSK.STAMP: TASK.FLOOR := L at commit (R177). -/
def execTskStamp (h : Hdr) (s : State) : Outcome :=
  match s.fx h true false with
  | none => .next s
  | some x => s.finish x h 0 0 fun b => b.addPend x.i (.floor x.l)

/-- TSK.YIELD: it bounds prediction only, and this model holds one block in flight (R178, DESIGN CHOICE, log entry 6). -/
def execTskYield (h : Hdr) (s : State) : Outcome := alu0 h s fun _ => 0

/-- TSK.YIELD.PHASE: the phase mark at commit (R178). -/
def execTskYieldPhase (h : Hdr) (s : State) : Outcome :=
  match s.fx h false false with
  | none => .next s
  | some x => s.finish x h 0 0 fun b => b.addPend x.i .phaseMark

/-- TSK.QUERY (R179). -/
def execTskQuery (h : Hdr) (sel : QuerySel) (s : State) : Outcome :=
  match s.fx h false false with
  | none => .next s
  | some x =>
    let w := s.ww x.g
    s.finish x h (match sel with
      | .ts => BitVec.ofNat 64 x.b.ts
      | .floor => w.floor
      | .aborts => w.aborts) 0 id

/-! ## System registers (R149 to R158) -/

/-- The tag code of a tile set (R154). -/
def TileTag.code : TileTag → Nat
  | .empty => 0
  | .accum => 1
  | .full => 2

/-- STAND.STAT (R154). -/
def Stand.stat (t : Stand) : Word :=
  BitVec.ofNat 64 (8 * t.active + 16 * t.plane0.st + 64 * t.plane1.st + 256 * t.set0.tag.code + 1024 * t.set1.tag.code
    + (List.range 4).foldl (fun n k => if (nfind t.ops k).isSome then n + 4096 * 2 ^ k else n) 0)

/-- STAND.FMT: the low byte of each installed operation's mode word (R154). -/
def Stand.fmtWord (t : Stand) : Word :=
  BitVec.ofNat 64 ((List.range 4).foldl (fun n k => match nfind t.ops k with
    | some o => n + leAt o.desc 4 1 * 256 ^ k
    | none => n) 0)

/-- UNIT, PRESENT, PRESENT.HI, CTX, INCARN and LAUNCH, the placement registers (R149, R151). -/
def placeReg (s : State) (p : Place) : Nat → Nat
  | 1 => p.upos + 64 * p.die + 256 * p.ux + 4096 * p.uy + 65536 * (p.w - 1) + 1048576 * (p.h - 1)
  | 2 => p.present % 2 ^ 64
  | 3 => p.present / 2 ^ 64
  | 4 => p.ctx + 2 ^ 24 * p.vf
  | 5 => (s.fn p.vf).incarn.toNat
  | 6 => p.arm + 4096 * p.die
  | _ => 0

/-- The value of a system register of a glade, for a block with timestamp `ts`; none for an unassigned number (R149). -/
def sysRead (s : State) (g ts n : Nat) : Option Word :=
  let b := s.bough g
  let w := b.ww
  if n = 0 then some (BitVec.ofNat 64 g)
  else if n ≤ 6 then some (BitVec.ofNat 64 ((b.place.map fun p => placeReg s p n).getD 0))
  else if n = 7 then some (BitVec.ofNat 64 b.th.cnt)
  else if n = 8 then some (w.q.setWidth 64)
  else if n = 0x10 then some w.trapCause
  else if n = 0x11 then some w.trapBlock
  else if n = 0x12 then some w.trapValue
  else if n = 0x13 then some w.trapHandler
  else if n = 0x14 then some (BitVec.ofNat 64 (b2n w.inh + 2 * b2n w.hlt + 4 * b2n w.mark))
  else if n = 0x15 then some w.link
  else if n = 0x16 then some (BitVec.ofNat 64 w.waitlim)
  else if n = 0x20 then some (BitVec.ofNat 64 ts)
  else if n = 0x21 then some w.floor
  else if n = 0x22 then some w.aborts
  else if n = 0x30 then some (aperq .loc)
  else if n = 0x31 then some (aperq .shr)
  else if n = 0x32 then some (aperq .clu)
  else if 0x40 ≤ n ∧ n ≤ 0x7E ∧ n % 4 ≠ 3 then
    some (nget 0 (if n % 4 = 0 then w.mqQ else if n % 4 = 1 then w.mqInv else w.mqSq) ((n - 0x40) / 4))
  else if n = 0x80 then some (w.mqstat.setWidth 64)
  else if 0x88 ≤ n ∧ n ≤ 0x8F then some (nget 0x7F w.rsc (n - 0x88))
  else if n = 0x90 then some b.eng.stand.stat
  else if n = 0x91 then some b.eng.stand.fmtWord
  else if n = 0x98 then some w.seedBind
  else if n = 0x99 then some w.seedMl
  else if n = 0x9A then some w.seedMs
  else if n = 0x9B then some w.seedMp
  else if n = 0x9C then some w.seedMb
  else if n = 0xA0 then some (BitVec.ofNat 64 (w.keyGen.toNat + 2 ^ 63 * b2n w.keyValid))
  else if n = 0xA1 then some w.seqid
  else if n = 0xA2 then some w.pos
  else if 0xB0 ≤ n ∧ n ≤ 0xBF then some (nget 0 w.evc (n - 0xB0))
  else if 0xC0 ≤ n ∧ n ≤ 0xCF then some (nget 0 w.evseen (n - 0xC0))
  else none

/-- Whether a number names a register (R149). -/
def sysAssigned (n : Nat) : Bool :=
  decide (n ≤ 8) || (decide (0x10 ≤ n) && decide (n ≤ 0x16)) || (decide (0x20 ≤ n) && decide (n ≤ 0x22))
    || (decide (0x30 ≤ n) && decide (n ≤ 0x32)) || (decide (0x40 ≤ n) && decide (n ≤ 0x7E) && decide (n % 4 ≠ 3)) || decide (n = 0x80)
    || (decide (0x88 ≤ n) && decide (n ≤ 0x91)) || (decide (0x98 ≤ n) && decide (n ≤ 0x9C)) || (decide (0xA0 ≤ n) && decide (n ≤ 0xA2))
    || (decide (0xB0 ≤ n) && decide (n ≤ 0xCF))

/-- MQSTAT's bit of a register computed anew (R152). -/
def Woodward.restat (w : Woodward) (i : Nat) : Woodward :=
  let ok := modulusValid (nget 0 w.mqQ i).toNat (nget 0 w.mqInv i).toNat (nget 0 w.mqSq i).toNat
  let m : BitVec 16 := 1#16 <<< i
  { w with mqstat := if ok then w.mqstat ||| m else w.mqstat &&& ~~~m }

/-- A system register written at commit: reserved bits and read-only registers ignore the write (R12, R13, R149, R152, R158). -/
def Woodward.sysWrite (w : Woodward) (n : Nat) (v : Word) : Woodward :=
  let x := v.toNat
  if n = 0x10 then { w with trapCause := BitVec.ofNat 64 (bits x 8 0 + 65536 * bits x 16 16) }
  else if n = 0x11 then { w with trapBlock := BitVec.ofNat 64 (64 * bits x 19 6) }
  else if n = 0x12 then { w with trapValue := v }
  else if n = 0x13 then { w with trapHandler := BitVec.ofNat 64 (64 * bits x 19 6) }
  else if n = 0x15 then { w with link := BitVec.ofNat 64 (64 * bits x 19 6) }
  else if n = 0x16 then { w with waitlim := max 1024 (bits x 39 0) }
  else if 0x40 ≤ n ∧ n ≤ 0x7E ∧ n % 4 ≠ 3 then
    let i := (n - 0x40) / 4
    (if n % 4 = 0 then { w with mqQ := nset w.mqQ i v } else if n % 4 = 1 then { w with mqInv := nset w.mqInv i v }
      else { w with mqSq := nset w.mqSq i v }).restat i
  else if 0x88 ≤ n ∧ n ≤ 0x8F then { w with rsc := nset w.rsc (n - 0x88) (BitVec.ofNat 64 (bits x 7 0)) }
  else if n = 0xA1 then { w with seqid := BitVec.ofNat 64 (bits x 31 0) }
  else if n = 0xA2 then { w with pos := BitVec.ofNat 64 (bits x 31 0) }
  else w

/-- A value of the range of a register that changes without a woodward write, from a free word (R183): TASK.ABORTS, STAND.STAT with its two-bit codes
0 to 2, STAND.FMT, EVC0 to EVC15; none for the others, and none for CTXCNT, whose range at that moment is the count itself (DEDUCED, log entry 98). -/
def srdRange (n : Nat) (w : Word) : Option Word :=
  if n = 0x90 then
    let v := w.toNat
    some (BitVec.ofNat 64 (2 ^ 12 * bits v 15 12 + 2 ^ 10 * (bits v 11 10 % 3) + 2 ^ 8 * (bits v 9 8 % 3) + 2 ^ 6 * (bits v 7 6 % 3) + 2 ^ 4 * (bits v 5 4 % 3) + 8 * bits v 3 3))
  else if n = 0x91 then some (w &&& 0xFFFFFFFF)
  else if n = 0x22 ∨ (0xB0 ≤ n ∧ n ≤ 0xBF) then some w
  else none

/-- SRD: the register's value at execution, ANY-VALUE of its range where other agents change it (R10); reading TASK.ABORTS clears it at commit (R183). -/
def execSrd (h : Hdr) (num : BitVec 12) (s : State) : Outcome :=
  match s.fx h false false with
  | none => .next s
  | some x => match sysRead s x.g x.b.ts num.toNat with
    | none => s.stop x 0x00F num.toNat
    | some v => match srdRange num.toNat s.freeWord with
      | some u => s.drawn.finish x h u 0 fun b => if num = 0x22 then b.addPend x.i .clearAborts else b
      | none => s.finish x h v 0 id

/-- SWR: writes L at commit under the register's access code (R183). -/
def execSwr (h : Hdr) (num : BitVec 12) (s : State) : Outcome :=
  match s.fx h true false with
  | none => .next s
  | some x =>
    if sysAssigned num.toNat then s.finish x h 0 1 fun b => b.addPend x.i (.swr num.toNat x.l)
    else s.stop x 0x00F num.toNat

/-! ## Events (R184, R185) -/

/-- TRAP.VALUE of EVENT_INVALID (R184). -/
def eventValue (n i : Nat) : Nat := n + 256 * i

/-- EVSEND: adds 1 to an event count of its destinations at commit (R184). -/
def execEvsend (h : Hdr) (n : BitVec 8) (s : State) : Outcome :=
  match s.fx h false false with
  | none => .next s
  | some x =>
    let n := n.toNat
    if bits n 5 4 = 3 ∨ bits n 7 6 ≠ 0 then s.stop x 0x010 (eventValue n x.i)
    else s.finish x h 0 1 fun b => b.addPend x.i (.evsend (bits n 3 0) (bits n 5 4))

/-- Whether an EVWAIT of counter `k` at a lower index has neither executed nor had its predicate operand fail (R185). -/
def Block.evwaitOpen (b : Block) (k i : Nat) : Bool :=
  (List.range i).any fun j => decide (wordOpcode (b.word j) = 0x184) && decide (bits (b.word j).toNat 3 0 = k)
    && decide (j ∉ b.done) && !b.isOff j

/-- How many EVWAITs of a counter with a lower index have executed. -/
def Block.evwaits (b : Block) (k i : Nat) : Nat := (b.pend.filter fun p => decide (p.1 < i ∧ p.2 = .evwait k)).length

/-- EVWAIT: waits until the event count passes the ordinal it consumes, and delivers that ordinal (R185); it acquires where an EVSEND supplied it (R271). -/
def execEvwait (h : Hdr) (n : BitVec 8) (s : State) : Outcome :=
  match s.fx h false false with
  | none => .next s
  | some x =>
    let n := n.toNat
    if bits n 7 4 ≠ 0 then s.stop x 0x010 (eventValue n x.i)
    else
      let w := s.ww x.g
      let t := (nget 0 w.evseen n).toNat + x.b.evwaits n x.i
      if x.b.evwaitOpen n x.i ∨ (nget 0 w.evc n).toNat ≤ t then .next (s.stall x)
      else s.finish x h (BitVec.ofNat 64 (t + 1)) 0 fun b =>
        let b := b.addPend x.i (.evwait n)
        if (n, t + 1) ∈ w.evSent then b.addPend x.i .acquire else b

/-! ## Heartwood services and the in-field test (R186, R187, R441) -/

/-- The sampler key of a party (R441): the first 8 bytes of a SHA-256. -/
def sampleKeyOf (seed : List Byte) (ctx : Nat) : Word :=
  BitVec.ofNat 64 (ofBytes ((sha256 (ascii "ZX7 SAMPLE" ++ seed ++ toBytes 2 ctx)).take 8))

/-- HW.CALL with a service number other than ENTROPY: SAMPLE_KEY derives the glade's sampler key from a party's seed; any other number
is undefined (R186) (DEDUCED, log entry 49). -/
def execHwCallSampleKey (h : Hdr) (svc : BitVec 12) (s : State) : Outcome :=
  match s.fx h true false with
  | none => .next s
  | some x => s.frontierOnly x (
    if svc ≠ 1 then s.stopOpen x 0x013
    else if bits x.l.toNat 63 4 ≠ 0 then s.stopOpen x 0x014
    else match (s.place x.g).bind fun p => (nfind (s.job p.ctx).joins x.l.toNat).map fun q => sampleKeyOf q.seed p.ctx with
      | none => s.finish x h 1 1 id
      | some k => s.finish x h 0 1 fun b => b.addPend x.i (.sampleKey k))

/-- The four free words of 32 random bytes. -/
def entropyBytes (n : Nat) : List Byte := (List.range 4).flatMap fun k => toBytes 8 (Config.freeWord (n + k)).toNat

/-- HW.CALL ENTROPY: 32 random bytes into the burrow at commit (R186). -/
def execHwCallEntropy (h : Hdr) (s : State) : Outcome :=
  match s.fx h true false with
  | none => .next s
  | some x => s.frontierOnly x (
    if x.l.toNat % 32 ≠ 0 ∨ 2 ^ 20 ≤ x.l.toNat then s.stopOpen x 0x014
    else match s.try_ x (spBase .loc + x.l.toNat) 32 32 .wr with
      | .stop s => .next s
      | .at_ phys =>
        let t : BStore := ⟨x.i, spBase .loc + x.l.toNat, phys, entropyBytes s.free, false, []⟩
        match x.b.conflict x.i t.gaddr phys 32 with
        | some a => s.stop x 0x04B a
        | none => { s with free := s.free + 4 }.finish x h 0 1 fun b => b.store t)

/-- TEST.CLR: the status of the clearing's last in-field test; a new test is requested at commit (R187). -/
def execTestClr (h : Hdr) (s : State) : Outcome :=
  match s.fx h false false with
  | none => .next s
  | some x =>
    let c := s.clearing (clearingOf x.g)
    s.finish x h (BitVec.ofNat 64 (c.last + 2 ^ 32 * (if c.last = 0 then 0 else c.seq))) 0 fun b => b.addPend x.i .testReq

end Sys2Proof.Machine
end

