-- ==== Sys2Proof/Machine/Seeds.lean ====
section
/-! DEFINITION. Seed banks: the automaton of R357, match registers (R358), drafts (R359, R360), trims and replay (R361), the backing (R353, R355),
and the meanings of the seed instructions (R363 to R370). -/

namespace Sys2Proof.Machine

/-! ## The automaton (R353, R357) -/

/-- Capacity C (R352). -/
def Seed.cap (b : Seed) : Nat := 2 ^ b.lgcap

def Seed.node (b : Seed) (k : Nat) : SeedNode := nget {} b.nodes k
def Seed.setNode (b : Seed) (k : Nat) (v : SeedNode) : Seed := { b with nodes := nset b.nodes k v }

/-- The slot of an edge: the first from its hash that holds it or is empty (R353). -/
def seedSlot (edges : List (Nat × SeedEdge)) (cap4 f x : Nat) : Nat → Nat → Nat
  | 0, i => i
  | n + 1, i =>
    match nfind edges i with
    | none => i
    | some e => if e.src = f ∧ e.tok = x then i else seedSlot edges cap4 f x n ((i + 1) % cap4)

/-- The slot of edge (f, x). -/
def Seed.slot (b : Seed) (f x : Nat) : Nat :=
  let c4 := 4 * b.cap
  seedSlot b.edges c4 f x c4 ((f * 0x9E3779B1 % 2 ^ 32 ^^^ x) % c4)

/-- to(f, x), if the edge exists. -/
def Seed.edge (b : Seed) (f x : Nat) : Option Nat := (nfind b.edges (b.slot f x)).map (·.dst)

/-- The edge (f, x) added, or its target rewritten. -/
def Seed.setEdge (b : Seed) (f x t : Nat) : Seed := { b with edges := nset b.edges (b.slot f x) ⟨f, x, t⟩ }

/-- The first loop of R357: edges on `x` added along the suffix links until one exists. -/
def Seed.addChain (x cur : Nat) : Nat → Nat → Seed → Seed × Nat
  | 0, s, b => (b, s)
  | n + 1, s, b =>
    if s = seedNone then (b, s)
    else match b.edge s x with
      | some _ => (b, s)
      | none => Seed.addChain x cur n (b.node s).link (b.setEdge s x cur)

/-- The redirecting loop of R357. -/
def Seed.redirect (x q cl : Nat) : Nat → Nat → Seed → Seed
  | 0, _, b => b
  | n + 1, s, b => if s ≠ seedNone ∧ b.edge s x = some q then Seed.redirect x q cl n (b.node s).link (b.setEdge s x cl) else b

/-- The last loop of R357: every earlier suffix gains end position `p`. -/
def Seed.endAt (p : Nat) : Nat → Nat → Seed → Seed
  | 0, _, b => b
  | n + 1, t, b =>
    if t = seedNone then b
    else let v := b.node t; Seed.endAt p n v.link (b.setNode t { v with prev := v.recent, recent := p })

/-- One token indexed at a position (R357); the window is the caller's. -/
def Seed.index (b : Seed) (x p : Nat) : Seed :=
  let n := b.nodes.length + 2
  let cur := b.nodes.length
  let ls := b.last
  let b := b.setNode cur { len := (b.node ls).len + 1, recent := p }
  let (b, s) := Seed.addChain x cur n ls b
  let link (b : Seed) (k v : Nat) : Seed := b.setNode k { b.node k with link := v }
  let b :=
    if s = seedNone then link b cur 0
    else
      let q := (b.edge s x).getD 0
      if (b.node s).len + 1 = (b.node q).len then link b cur q
      else
        let cl := b.nodes.length
        let b := b.setNode cl { b.node q with len := (b.node s).len + 1 }
        let b := ((b.edges.filter fun e => decide (e.2.src = q)).map (·.2)).foldl (fun b e => b.setEdge cl e.tok e.dst) b
        let b := Seed.redirect x q cl n s b
        link (link b q cl) cur cl
  Seed.endAt p (b.nodes.length + 1) (b.node cur).link { b with last := cur }

/-! ## Drafts and match registers (R358, R359) -/

/-- The walk of R359: the branches chosen so far, each with its tokens and match length. -/
def Seed.walk (b : Seed) (lmin bmax dmax : Nat) : Nat → Nat → List (List Nat × Nat) → List (List Nat × Nat)
  | 0, _, acc => acc
  | k + 1, s, acc =>
    if s = 0 ∨ s = seedNone ∨ bmax ≤ acc.length then acc
    else
      let v := b.node s
      let first := (b.window[v.prev + 1]?).getD 0
      let acc := if lmin ≤ v.len ∧ (acc.all fun a => decide (a.1.head? ≠ some first)) then
          acc ++ [((b.window.drop (v.prev + 1)).take dmax, v.len)] else acc
      Seed.walk b lmin bmax dmax k v.link acc

/-- The draft of a bank (R359). -/
def Seed.draft (b : Seed) (lmin bmax dmax : Nat) : List (List Nat × Nat) :=
  if b.st ≠ .ready ∨ b.window = [] then []
  else b.walk lmin bmax dmax (b.nodes.length + 1) (b.node b.last).link []

/-- The match registers after an append (R358); all 0 outside READY. -/
def Seed.match (b : Seed) : Seed :=
  if b.st ≠ .ready ∨ b.window = [] then { b with ml := 0, ms := 0, mp := 0, mb := 0 }
  else
    let ms := (b.node b.last).link
    let ml := (b.node ms).len
    { b with ms := ms, ml := ml, mp := if 0 < ml then (b.node ms).prev else 0, mb := (b.draft 1 4 16).length }

/-! ## Append, trim, replay (R361, R365, R367) -/

/-- The tables emptied and a replay started (R361). -/
def Seed.restart (b : Seed) : Seed :=
  { b with st := .replay, built := 0, nodes := [(0, {})], edges := [], last := 0, ml := 0, ms := 0, mp := 0, mb := 0 }

/-- A trim (R361): the last C/2 tokens stay. -/
def Seed.trim (b : Seed) : Seed := { b.restart with window := b.window.drop (b.window.length - b.cap / 2) }

/-- SEED.APPEND's change of a bank (R357, R361, R365). -/
def Seed.append (b : Seed) (x : Nat) : Seed :=
  let b := if b.window.length = b.cap then b.trim else b
  let p := b.window.length
  let b := { b with window := b.window ++ [x], appended := b.appended + 1 }
  if b.st = .ready then { b.index x p with built := p + 1 }.match else b

/-- One token replayed (R361); a bank whose window is indexed becomes READY. -/
def Seed.replay (b : Seed) : Seed :=
  let b := if b.built < b.window.length then { b.index ((b.window[b.built]?).getD 0) b.built with built := b.built + 1 } else b
  if b.window.length ≤ b.built then { b with st := .ready }.match else b

/-- What a SEED.LOAD puts into a bank (R369). -/
def Seed.load (b : Seed) (appended : Nat) (toks : List Nat) : Seed := { b.restart with window := toks, appended := appended }

/-- The change a seed commit action makes to its bank. -/
def Seed.apply (b : Seed) (op : Nat) (args : List Nat) : Seed :=
  if op = 0x111 then b.append ((args[1]?).getD 0)
  else if op = 0x114 then b.load ((args[1]?).getD 0) (args.drop 6)
  else if op = 0x115 then (if (args[1]?).getD 0 = 1 then b.trim else b)
  else b

/-! ## The backing (R352, R353, R355) -/

/-- The header of the backing (R353). -/
def Seed.header (b : Seed) : List Byte :=
  toBytes 4 0x53454442 ++ toBytes 1 b.lgcap ++ toBytes 3 0 ++ toBytes 8 b.appended ++ toBytes 4 b.window.length ++ toBytes 4 b.built
    ++ toBytes 4 b.nodes.length ++ toBytes 4 b.edges.length ++ toBytes 4 b.last ++ toBytes 4 b.ml ++ toBytes 4 b.ms ++ toBytes 4 b.mp
    ++ toBytes 4 b.mb ++ List.replicate 4044 0

/-- Backing bytes (R353); records past the last hold 0, and empty edge records hold `from` = none and 0 (DESIGN CHOICE, log entry 8). -/
def Seed.backingBytes (b : Seed) : List Byte :=
  b.header
    ++ (List.range b.cap).flatMap (fun p => toBytes 4 ((b.window[p]?).getD 0))
    ++ (List.range (2 * b.cap)).flatMap (fun k => match nfind b.nodes k with
      | some v => toBytes 4 v.len ++ toBytes 4 v.link ++ toBytes 4 v.recent ++ toBytes 4 v.prev
      | none => List.replicate 16 0)
    ++ (List.range (4 * b.cap)).flatMap (fun k => match nfind b.edges k with
      | some e => toBytes 4 e.src ++ toBytes 4 e.tok ++ toBytes 4 e.dst ++ toBytes 4 0
      | none => toBytes 4 seedNone ++ List.replicate 12 0)

/-- A page of a backing at SEED.OPEN: it translates with v = 1, w = 1 and opnd = 0 under a key of the context (R352). -/
def State.pageFits (s : State) (ctx va : Nat) : Bool :=
  match s.walk ctx va with
  | .fault _ => false
  | .leaf e => bit e 1 && !leafOpnd e && (s.job ctx).keys.any fun k => decide (k.2.keyid = leafKey e)

/-- The physical place of a device address of a context for a walker or a fetcher, where its translation and access checks succeed (R249, R355). -/
def State.ctxPhys (s : State) (ctx va : Nat) (wr : Bool) : Option Nat :=
  match s.walk ctx va with
  | .fault _ => none
  | .leaf e => match leafCheck s ctx e va wr false false with
    | some _ => none
    | none => some (hbmAt + leafPa e + va % leafSize e)

/-- The bytes of the backing of a bank of a capacity (R352). -/
def backingSize (cap : Nat) : Nat := 4096 + 100 * cap

/-- Every page of a backing answers as R352 asks. -/
def State.backingOk (s : State) (ctx backing cap : Nat) : Bool :=
  (List.range ((backingSize cap + 4095) / 4096)).all fun k => s.pageFits ctx (backing + 4096 * k)

/-- A walker can reach every page of a bank's backing, and none of its bytes is poisoned (R355). -/
def State.backingLive (s : State) (b : Seed) : Bool :=
  let n := backingSize b.cap
  (List.range ((n + 4095) / 4096)).all fun k => match s.ctxPhys b.ctx (b.backing + 4096 * k) true with
    | some p => !s.bad p (min 4096 (n - 4096 * k))
    | none => false

def State.modSeed (s : State) (d k : Nat) (f : Seed → Seed) : State := s.modDie d fun x => { x with seeds := nmod {} x.seeds k f }

/-- Lines of 512 bytes of a bank's backing, and the bytes one holds as the walker has them. -/
def Seed.lineCount (b : Seed) : Nat := backingSize b.cap / 512
def Seed.line (b : Seed) (l : Nat) : List Byte := sliceB b.backingBytes (512 * l) 512

/-- Where a line of a bank's backing lies, where its translation and access checks succeed. -/
def State.linePlace (s : State) (b : Seed) (l : Nat) : Option Nat := s.ctxPhys b.ctx (b.backing + 512 * l) true

/-- A line of a bank's backing lies in a sector that an atomic of a glade other than `g` holds (R263). -/
def State.lineHeld (s : State) (g : Nat) (b : Seed) (l : Nat) : Bool := match s.linePlace b l with
  | some p => s.heldRange g p 512
  | none => false

/-- A bank's walker must wait: an atomic of a glade other than `g` holds a sector of the backing (R263). -/
def State.backingHeld (s : State) (g : Nat) (b : Seed) : Bool := (List.range b.lineCount).any (s.lineHeld g b)

/-- The bank's context does not hold each band that contains reserve lines (R354). -/
def State.bandAway (s : State) (d : Nat) (b : Seed) : Bool :=
  b.lines.any fun y => !(s.bands b.ctx d).any fun c => decide (24576 * c ≤ y.1 ∧ y.1 + y.2 ≤ 24576 * (c + 1))

/-- Chosen dirty lines of a bank written back in order; at an access that fails the bank is BROKEN and the lines before it stay written (R354, R355, R370). A
line whose sector an atomic holds stays dirty (R263). -/
def State.putDirty (s : State) (d k : Nat) (pick : Nat → Bool) : State :=
  let b := s.seed d k
  ((List.range b.lineCount).filter fun l => !b.clean.contains l && pick l && !s.lineHeld 512 b l).foldl (fun s l =>
    if (s.seed d k).st = .broken then s
    else match s.linePlace b l with
      | none => s.modSeed d k fun b => { b with st := .broken }
      | some p => (s.putNoted p (b.line l) [.bank d k]).modSeed d k fun b => { b with clean := l :: b.clean }) s

/-- A bank's dirty lines written back (R354); an access that fails breaks the bank (R355). -/
def State.writeBack (s : State) (d k : Nat) : State := if (s.seed d k).st = .broken then s else s.putDirty d k fun _ => true

/-- A bank of whose lines the walker reads these bytes: every field stays within its range (R355). -/
def Seed.ofBacking (b : Seed) (bs : List Byte) : Seed :=
  let n := min (leAt bs 16 4) b.cap
  let ns := max 1 (min (leAt bs 24 4) (2 * n - 1))
  let below (m v : Nat) : Nat := if v < m then v else seedNone
  let at_ (k : Nat) : Nat := 4096 + 4 * b.cap + 16 * k
  let rec_ (k : Nat) : Nat := 4096 + 36 * b.cap + 16 * k
  { b with
    appended := leAt bs 8 8, built := if b.st = .ready then n else min (leAt bs 20 4) n, last := leAt bs 32 4 % ns
    ml := leAt bs 36 4 % 2 ^ 22, ms := leAt bs 40 4 % 2 ^ 23, mp := leAt bs 44 4 % 2 ^ 22, mb := min (leAt bs 48 4) 4
    window := (List.range n).map fun p => leAt bs (4096 + 4 * p) 3
    nodes := (List.range ns).map fun k => (k, { len := min (leAt bs (at_ k) 4) n, link := below ns (leAt bs (at_ k + 4) 4), recent := below n (leAt bs (at_ k + 8) 4)
                                                prev := below n (leAt bs (at_ k + 12) 4) })
    edges := (List.range (4 * b.cap)).filterMap fun k =>
      if leAt bs (rec_ k) 4 < ns then some (k, ⟨leAt bs (rec_ k) 4, leAt bs (rec_ k + 4) 3, leAt bs (rec_ k + 8) 4 % ns⟩) else none }

/-- The walker goes to a bank's lines (R354, R355). Where software has written a line of the backing since the walker last did, a free value says whether the
walker has the line in the reserve or reads the bytes in memory (DESIGN CHOICE, log entry 81); without its band it reads the backing alone. -/
def State.bankIn (s : State) (d k : Nat) : State :=
  let b := s.seed d k
  let found (l : Nat) : List Byte := match s.linePlace b l with
    | some p => s.bytes p 512
    | none => b.line l
  let moved := b.clean.filter fun l => decide (found l ≠ b.line l)
  if b.isOpen = false ∨ b.st = .broken ∨ moved = [] then s
  else
    let read := moved.filter fun l => s.bandAway d b || (Config.freeWord (s.free + l / 64)).getLsbD (l % 64)
    { s.modSeed d k fun b => b.ofBacking ((List.range b.lineCount).flatMap fun l => if l ∈ read then found l else b.line l) with
      free := s.free + b.lineCount / 64 + 1 }

/-- A bank has changed from `b0`: the lines that changed are dirty, and the walker writes back those it must: all of them without its band, else those whose
place it needs for another line, which a free value tells (R354) (DESIGN CHOICE, log entry 81). -/
def State.bankOut (s : State) (d k : Nat) (b0 : Seed) : State :=
  let s := s.modSeed d k fun b => { b with clean := b.clean.filter fun l => decide (b0.line l = b.line l) }
  let b := s.seed d k
  if b.isOpen = false ∨ b.st = .broken then s
  else if s.bandAway d b then s.putDirty d k fun _ => true
  else { s.putDirty d k fun l => (Config.freeWord (s.free + l / 64)).getLsbD (l % 64) with free := s.free + b.lineCount / 64 + 1 }

/-- The die's replays in request order (R363): a bank whose replay starts joins the end, and one that has no replay left leaves. -/
def State.noteReplay (s : State) (d k : Nat) : State :=
  let b := s.seed d k
  s.modDie d fun x => { x with replays :=
    if b.isOpen ∧ b.st = .replay then if k ∈ x.replays then x.replays else x.replays ++ [k] else x.replays.filter (· ≠ k) }

/-- A walker access to the backing at a moment the spec leaves open: where the backing can no longer be reached, a free value says whether the
walker met it now (R354, R355) (DESIGN CHOICE, log entry 52). -/
def State.touchBank (s : State) (d k : Nat) : State :=
  let b := s.seed d k
  if b.isOpen = false ∨ b.st = .broken ∨ s.backingLive b then s
  else if s.freeWord.getLsbD 0 then s.drawn.modSeed d k fun b => { b with st := .broken } else s.drawn

/-! ## The instructions (R363 to R370) -/

/-- The commit actions that change a bank. -/
def sameSeed (k : Nat) : Pend → Bool
  | .seed op args => decide (op ≠ 0x110 ∧ op ≠ 0x112 ∧ op ≠ 0x113 ∧ args.head? = some k)
  | _ => false

/-- A bank as SEED.OPEN makes it (R364), from the arguments of its commit action. -/
def Seed.opened (ctx : Nat) (lines : List (Nat × Nat)) (args : List Nat) : Seed :=
  let a (i : Nat) : Nat := (args[i]?).getD 0
  { isOpen := true, gen := a 1, ctx := ctx, lgcap := a 2, rbase := a 3, rlines := a 4, backing := a 5, lines := lines }

/-- The lines of the understory that lines of a context's SHR window lie in, in runs (R235). -/
def State.shrRuns (s : State) (ctx d first n : Nat) : List (Nat × Nat) :=
  (List.range (s.bands ctx d).length).filterMap fun k =>
    let lo := max first (24576 * k)
    let hi := min (first + n) (24576 * (k + 1))
    if lo < hi then some (s.shrLine ctx d lo, hi - lo) else none

/-- The bank as an instruction of a block finds it: with the changes of those it is after (R320, R365). -/
def State.bankSeen (s : State) (x : Fx) (k : Nat) : Seed :=
  x.b.pend.foldl (fun b p => match p.2 with
    | .seed op args =>
      if args.head? ≠ some k ∨ x.b.after p.1 x.i = false then b
      else if op = 0x110 then Seed.opened (s.ctxOf x.g) [] args
      else if op = 0x116 then { b with isOpen := false }
      else b.apply op args
    | _ => b) (s.seed (dieOf x.g) k)

/-- A frontier-only seed instruction on the bank its L names: the malformed handle, NOTFOUND with its value, the hold, and BROKEN come
first; the walker then goes to the bank's lines. -/
def seedOp (h : Hdr) (x : Fx) (s : State) (onBroken : Bool) (none_ : Nat) (k : Nat → Seed → State → Outcome) : Outcome :=
  s.frontierOnly x (
    let l := x.l.toNat
    if bits l 63 44 ≠ 0 then tableFormat s x l
    else
      let i := bits l 11 0
      let b := s.bankSeen x i
      if ¬(b.isOpen = true ∧ b.ctx = s.ctxOf x.g ∧ b.gen = bits l 43 12) then tableOp h x none_ [seedSect (dieOf x.g) i] none (fun _ => false) s
      else if s.held x.g (seedSect (dieOf x.g) i) then .next (s.stall x)
      else if b.st = .broken ∧ onBroken = false then s.stop x 0x144 l
      else if s.backingHeld x.g b then .next (s.stall x)
      else let s := s.bankIn (dieOf x.g) i
        k i (s.bankSeen x i) s)

/-- The offset of the first field of an open descriptor that breaks R352. -/
def seedDescBad (d : List Byte) : Option Nat :=
  if leAt d 0 1 < 10 ∨ 22 < leAt d 0 1 then some 0
  else if leAt d 1 3 ≠ 0 then some 1
  else if leAt d 4 4 % 512 ≠ 0 then some 4
  else if leAt d 8 4 < 64 ∨ 65536 < leAt d 8 4 then some 8
  else if leAt d 12 4 ≠ 0 then some 12
  else if leAt d 16 8 % 4096 ≠ 0 ∨ 2 ^ 55 ≤ leAt d 16 8 then some 16
  else if leAt d 24 40 ≠ 0 then some 24
  else none

/-- Handles of the die that SEED.OPENs of the block before an instruction have taken, and their reserve lines. -/
def Block.opened (b : Block) (i : Nat) : List (Nat × Nat × Nat) :=
  b.pend.filterMap fun p => match p.2 with
    | .seed 0x110 args => if b.after p.1 i then some ((args[0]?).getD 0, (args[3]?).getD 0 / 512, (args[4]?).getD 0) else none
    | _ => none

def sameOpen : Pend → Bool
  | .seed op _ => decide (op = 0x110)
  | _ => false

/-- Two ranges of lines meet. -/
def linesMeet (a n b m : Nat) : Bool := decide (a < b + m ∧ b < a + n)

/-- SEED.OPEN (R364). -/
def execSeedOpen (h : Hdr) (s : State) : Outcome :=
  match s.fx h true false with
  | none => .next s
  | some x => s.frontierOnly x (
    if (s.ownOffset x.g x.l.toNat).isNone ∨ x.l.toNat % 64 ≠ 0 then tableFormat s x x.l.toNat
    else match readRange s x x.l.toNat 64 .rd with
      | .error s => .next s
      | .ok (d, ps) => match seedDescBad d with
        | some o => tableFormat s x o
        | none =>
          let ctx := s.ctxOf x.g
          let die := dieOf x.g
          let rb := leAt d 4 4
          let rl := leAt d 8 4
          let cap := 2 ^ leAt d 0 1
          let mine := x.b.opened x.i
          let reads := ps.flatMap fun p => sectors p 8
          let out (st : Nat) : Outcome := s.finish x h (BitVec.ofNat 64 st) 1 fun b => b.read reads
          let runs := s.shrRuns ctx die (rb / 512) rl
          if s.held x.g (openSect die) then .next (s.stall x)
          else if 12582912 * (s.bands ctx die).length < rb + 512 * rl
              ∨ ((s.die die).reserved.any fun r => decide (r.1 = ctx) && runs.any fun y => linesMeet r.2.1 r.2.2 y.1 y.2)
              ∨ (mine.any fun m => linesMeet m.2.1 m.2.2 (rb / 512) rl) then out 4
          else if s.backingOk ctx (leAt d 16 8) cap = false then out 4
          else match (List.range 4096).find? fun k => let b := s.seed die k
              !b.isOpen && !b.retired && !mine.any fun m => decide (m.1 = k) with
            | none => out 1
            | some k =>
              let gen := (s.seed die k).gen + 1
              tableOp h x (256 * k + 2 ^ 20 * gen) reads (some (.seed 0x110 [k, gen, leAt d 0 1, rb, rl, leAt d 16 8])) sameOpen s)

/-- SEED.APPEND (R365). -/
def execSeedAppend (h : Hdr) (s : State) : Outcome :=
  match s.fx h true true with
  | none => .next s
  | some x =>
    if x.b.atomic ∧ x.r.toNat ≥ 2 ^ 24 then tableFormat s x x.r.toNat
    else seedOp h x s false 3 fun k b s =>
      let b := b.append x.r.toNat
      tableOp h x (256 * b.mb + 2 ^ 11 * b.ml + 2 ^ 63 * b2n (decide (b.st = .replay))) [seedSect (dieOf x.g) k]
        (some (.seed 0x111 [k, x.r.toNat])) (sameSeed k) s

/-- The ancestor mask of node 16 b + i (R360). -/
def ancestors (b i : Nat) : Nat := (2 ^ (i + 1) - 1) * 2 ^ (16 * b)

/-- The 832 bytes of a draft record (R360). -/
def draftRecord (br : List (List Nat × Nat)) : List Byte :=
  let at_ (b : Nat) : List Nat × Nat := (br[b]?).getD ([], 0)
  toBytes 1 br.length ++ (List.range 4).flatMap (fun b => toBytes 1 (at_ b).1.length) ++ List.replicate 11 0
    ++ (List.range 4).flatMap (fun b => toBytes 4 (at_ b).2) ++ List.replicate 32 0
    ++ (List.range 64).flatMap (fun m => toBytes 4 (((at_ (m / 16)).1[m % 16]?).getD 0xFFFFFFFF))
    ++ (List.range 64).flatMap (fun m => toBytes 8 (if m % 16 < (at_ (m / 16)).1.length then ancestors (m / 16) (m % 16) else 0))

/-- Bytes as buffered stores of consecutive words. -/
def wordStores (i a : Nat) : List Nat → List (List Byte) → Nat → List BStore
  | p :: ps, b :: bs, k => ⟨i, (a + 8 * k) % 2 ^ 64, p, b, false, []⟩ :: wordStores i a ps bs (k + 1)
  | _, _, _ => []

/-- A byte string written by the block at a generic address as buffered stores, with a value and a commit action (R366, R368). -/
def storeBytes (s : State) (x : Fx) (h : Hdr) (a : Nat) (bs : List Byte) (v : Nat) (f : Block → Block) : Outcome :=
  match tryWords s x .wr ((bs.length + 7) / 8) a [] with
  | .error s => .next s
  | .ok ps =>
    let ts := wordStores x.i a ps (chunks 8 (bs.length + 1) bs) 0
    match firstConflict x.b x.i ts with
    | some c => s.stop x 0x04B c
    | none => s.finish x h (BitVec.ofNat 64 v) 1 fun b => f { b with stores := b.stores ++ ts }

/-- SEED.DRAFT (R366): `lmin`, branches − 1 and tokens − 1 of its function field. -/
def execSeedDraft (h : Hdr) (lmin : BitVec 5) (bmax1 : BitVec 2) (dmax1 : BitVec 4) (s : State) : Outcome :=
  match s.fx h true true with
  | none => .next s
  | some x =>
    let l := x.l.toNat
    let r := x.r.toNat
    if bits l 63 44 ≠ 0 then tableFormat s x l
    else if r % 64 ≠ 0 ∨ inWindow (spBase .loc) (spSize .loc) r = false then tableFormat s x r
    else match s.seedOf x.g l with
      | none => tableOp h x 3 [seedSect (dieOf x.g) (bits l 11 0)] none (fun _ => false) s
      | some k =>
        if (s.seed (dieOf x.g) k).st = .broken then s.stop x 0x144 l
        else if s.backingHeld x.g (s.seed (dieOf x.g) k) then .next (s.stall x)
        else
          let s := s.bankIn (dieOf x.g) k
          let b := s.seed (dieOf x.g) k
          let br := b.draft lmin.toNat (bmax1.toNat + 1) (dmax1.toNat + 1)
          let nodes := (br.map fun a => a.1.length).sum
          storeBytes (s.touchBank (dieOf x.g) k) x h r (draftRecord br) (256 * br.length + 2 ^ 12 * nodes + 2 ^ 63 * b2n (decide (b.st = .replay)))
            fun b => (b.read [seedSect (dieOf x.g) k]).addPend x.i (.seed 0x112 [k, nodes])

/-- The image SEED.SAVE writes (R368). -/
def seedImage (b : Seed) : List Byte :=
  toBytes 4 0x53454449 ++ toBytes 2 1 ++ toBytes 1 b.lgcap ++ toBytes 1 0 ++ toBytes 8 b.appended ++ toBytes 4 b.window.length
    ++ toBytes 4 b.ml ++ toBytes 4 b.ms ++ toBytes 4 b.mp ++ toBytes 4 b.mb ++ List.replicate 28 0 ++ b.window.flatMap (toBytes 4)

/-- SEED.SAVE (R368). -/
def execSeedSave (h : Hdr) (s : State) : Outcome :=
  match s.fx h true true with
  | none => .next s
  | some x =>
    if x.b.atomic ∧ x.r.toNat % 64 ≠ 0 then tableFormat s x x.r.toNat
    else seedOp h x s false 3 fun k b s =>
      storeBytes s x h x.r.toNat (seedImage b) (2 ^ 32 * (64 + 4 * b.window.length))
        fun y => (y.read [seedSect (dieOf x.g) k]).addPend x.i (.seed 0x113 [k])

/-- The offset of the first offending field of the header of a seed image (R369). -/
def seedHeadBad (m : List Byte) : Option Nat :=
  if leAt m 0 4 ≠ 0x53454449 then some 0
  else if leAt m 4 2 ≠ 1 then some 4
  else if leAt m 7 1 ≠ 0 then some 7
  else if leAt m 8 8 < leAt m 16 4 then some 16
  else if leAt m 36 28 ≠ 0 then some 36
  else none

/-- The offset of the first token of a seed image that is not one (R369). -/
def seedTokenBad (m : List Byte) (n : Nat) : Option Nat :=
  ((List.range n).find? fun p => decide (leAt m (64 + 4 * p + 3) 1 ≠ 0)).map fun p => 64 + 4 * p

/-- SEED.LOAD (R369). -/
def execSeedLoad (h : Hdr) (s : State) : Outcome :=
  match s.fx h true true with
  | none => .next s
  | some x =>
    if x.b.atomic ∧ x.r.toNat % 64 ≠ 0 then tableFormat s x x.r.toNat
    else seedOp h x s false (3 + 2 ^ 63) fun k b s =>
      match readRange s x x.r.toNat 64 .rd with
      | .error s => .next s
      | .ok (hd, _) =>
        let n := leAt hd 16 4
        match seedHeadBad hd with
        | some o => s.stop x 0x145 o
        | none => match readRange s x x.r.toNat (64 + 4 * n) .rd with
          | .error s => .next s
          | .ok (m, ps) => match seedTokenBad m n with
            | some o => s.stop x 0x145 o
            | none =>
              let reads := seedSect (dieOf x.g) k :: ps.flatMap fun p => sectors p 8
              if b.st = .replay then tableOp h x (5 + 2 ^ 63) reads none (sameSeed k) s
              else if b.cap < n then tableOp h x (1 + 2 ^ 63) reads none (sameSeed k) s
              else
                let f (i : Nat) : Nat := leAt m (20 + 4 * i) 4
                tableOp h x (2 ^ 63) reads
                  (some (.seed 0x114 ([k, leAt m 8 8, f 0, f 1, f 2, f 3] ++ (List.range n).map fun p => leAt m (64 + 4 * p) 3)))
                  (sameSeed k) s

/-- SEED.TRIM (R367). -/
def execSeedTrim (h : Hdr) (s : State) : Outcome :=
  match s.fx h true false with
  | none => .next s
  | some x => seedOp h x s false 3 fun k b s =>
      let reads := [seedSect (dieOf x.g) k]
      if b.st = .replay then tableOp h x 5 reads none (sameSeed k) s
      else
        let go := decide (b.cap / 2 < b.window.length)
        tableOp h x (2 ^ 63 * b2n go) reads (if go then some (.seed 0x115 [k, 1]) else none) (sameSeed k) s

/-- SEED.CLOSE (R370); it is allowed on a BROKEN bank. -/
def execSeedClose (h : Hdr) (s : State) : Outcome :=
  match s.fx h true false with
  | none => .next s
  | some x => seedOp h x s true 3 fun k _ s =>
      tableOp h x 0 [seedSect (dieOf x.g) k] (some (.seed 0x116 [k])) (sameSeed k) s

/-! ## What a commit does to a bank (R363 to R370) -/

/-- A bank is closed: it is written back unless it is BROKEN or `back` is false, its lines cease to be reserved, and its handle becomes free
(R370, R371, R374). -/
def State.closeBank (s : State) (d k : Nat) (back : Bool) : State :=
  let b := s.seed d k
  let s := if back then s.writeBack d k else s
  let s := (s.modSeed d k fun b => { gen := b.gen, retired := b.retired || decide (b.gen = 0xFFFFFFFF) }).noteReplay d k
  s.modDie d fun x => { x with reserved := x.reserved.filter fun r => !(decide (r.1 = b.ctx) && b.lines.contains r.2) }

/-- Lines that cease to be reserved read as their last contents, copies of backing lines that no rule tells: free values (R354, R370) (DESIGN CHOICE, log entry 81). -/
def State.leaveLines (s : State) (ctx d : Nat) (runs : List (Nat × Nat)) : State :=
  runs.foldl (fun s r => { s.put (shrAt ctx d + 512 * r.1) ((List.range (64 * r.2)).flatMap fun i => toBytes 8 (Config.freeWord (s.free + i)).toNat) with
    free := s.free + 64 * r.2 }) s

/-- The glade's SEED.BIND and match registers take a bank's values, each as wide as its register (R155). -/
def Woodward.bindSeed (w : Woodward) (k : Nat) (ml ms mp mb : Nat) : Woodward :=
  { w with seedBind := BitVec.ofNat 64 (2 ^ 63 + k), seedMl := BitVec.ofNat 64 (ml % 2 ^ 23), seedMs := BitVec.ofNat 64 (ms % 2 ^ 23)
           seedMp := BitVec.ofNat 64 (mp % 2 ^ 22), seedMb := BitVec.ofNat 64 (mb % 2 ^ 3) }

/-- A walker's change of a bank (R354, R355, R363). -/
def State.seedChange (s : State) (d k : Nat) (f : Seed → Seed) : State :=
  (((s.modSeed d k f).touchBank d k).bankOut d k (s.seed d k)).noteReplay d k

/-- The commit of a seed instruction of a glade. -/
def State.seedCommit (s : State) (g op : Nat) (args : List Nat) : State :=
  let d := dieOf g
  let a (i : Nat) : Nat := (args[i]?).getD 0
  let k := a 0
  if op = 0x110 then
    let ctx := s.ctxOf g
    let b := Seed.opened ctx (s.shrRuns ctx d (a 3 / 512) (a 4)) args
    let s := (s.modSeed d k fun _ => b).modDie d fun x => { x with reserved := x.reserved ++ b.lines.map fun y => (ctx, y) }
    (s.putDirty d k fun l => decide (l < 8)).modWw g fun w => w.bindSeed k 0 0 0 0
  else if op = 0x111 then
    let s := (s.seedChange d k fun b => b.append (a 1)).usage (s.ctxOf g) (b2n (s.seed d k).drafted) 1
    let b := s.seed d k
    s.modWw g fun w => w.bindSeed k b.ml b.ms b.mp b.mb
  else if op = 0x112 then (s.modSeed d k fun b => { b with drafted := true }).usage (s.ctxOf g) 2 (a 1)
  else if op = 0x113 then s.writeBack d k
  else if op = 0x114 then
    (s.seedChange d k fun b => { b.apply op args with drafted := false }).modWw g fun w => w.bindSeed k (a 2) (a 3) (a 4) (a 5)
  else if op = 0x115 then
    if a 1 = 1 then (s.seedChange d k fun b => b.trim).modWw g fun w => w.bindSeed k 0 0 0 0
    else s
  else
    let b := s.seed d k
    (((s.closeBank d k true).flow [.bank d k] (s.taskPt g)).leaveLines b.ctx d b.lines).modWw g fun w =>
      if w.seedBind = BitVec.ofNat 64 (2 ^ 63 + k) then { w with seedBind := 0, seedMl := 0, seedMs := 0, seedMp := 0, seedMb := 0 } else w

/-- The banks with reserve lines in the band of a clearing are written back, before the clearing goes to another context (R354). -/
def State.yieldBand (s : State) (c : Nat) : State :=
  let d := c / 16
  (nkeys (s.die d).seeds fun _ b => b.isOpen && b.lines.any fun y => linesMeet y.1 y.2 (24576 * (c % 16)) 24576).foldl (fun s k => s.writeBack d k) s

/-- A bank's replay has one of the die's 8 walkers for replays, which are taken in request order (R363). -/
def State.replayTurn (s : State) (d k : Nat) : Bool := ((s.die d).replays.take 8).contains k

/-- SEED_REPLAY_STEP: a bank in REPLAY that has a walker indexes its next token (R361), unless a block holds the bank (R319, R363) or an atomic a sector of its
backing (R263). -/
def execSeedReplayStep (die bank : Nat) (s : State) : Outcome :=
  let b := s.seed die bank
  if b.isOpen ∧ b.st = .replay ∧ s.replayTurn die bank ∧ s.held 512 (seedSect die bank) = false ∧ s.backingHeld 512 b = false then
    .next ((s.bankIn die bank).seedChange die bank Seed.replay)
  else .next s

end Sys2Proof.Machine
end

