-- ==== Sys2Proof/Machine/Grafts.lean ====
section
/-! DEFINITION. The graft cache (R372 to R376) and the meanings of the graft instructions (R377 to R381) and of a fetch's end (R375). -/

namespace Sys2Proof.Machine

/-! ## Entries and the pool (R373, R375, R376) -/

def State.modGraft (s : State) (e : Nat) (f : Graft → Graft) : State := { s with grafts := nmod {} s.grafts e f }

/-- The state codes of R381. -/
def graftCode : GraftSt → Nat
  | .free => 0
  | .fetching => 1
  | .ready => 2
  | .evicting => 3
  | .evicted => 4
  | .failed => 5

def Graft.pages (x : Graft) : Nat := (x.length + 4095) / 4096
def Graft.pinCount (x : Graft) : Nat := (x.pins.map (·.2)).sum
def Graft.handle (x : Graft) (e : Nat) : Nat := e + 65536 * x.gen

/-- Device address of pool page 0 (R434). -/
def poolBase : Nat := 0x0048000000000000

/-- Where the image of an entry lies (R375). -/
def Graft.addr (x : Graft) : Nat := poolBase + 4096 * x.page

/-- The launch of a glade's unit. -/
def State.launchKeyOf (s : State) (g : Nat) : Nat := match s.place g with
  | some p => launchKey p.die p.launch
  | none => 0

/-- The lowest run of `n` pages below `total` that meets none of the blocked ranges. -/
def freeRun (total n : Nat) (blocked : List (Nat × Nat)) : Option Nat :=
  if total < n then none
  else (List.range (total - n + 1)).find? fun p => blocked.all fun r => decide (r.1 + r.2 ≤ p) || decide (p + n ≤ r.1)

/-- The page runs of a context's entries that meet a test. -/
def State.graftRuns (s : State) (ctx : Nat) (t : Nat → Graft → Bool) : List (Nat × Nat) :=
  (s.grafts.filter fun x => decide (x.2.ctx = ctx) && t x.1 x.2).map fun x => (x.2.page, x.2.pages)

/-- Pool pages of a context (R375). -/
def State.poolPages (s : State) (ctx : Nat) : Nat := 256 * (s.job ctx).graftQuota

/-- An entry occupies its pages of the pool (R375). -/
def Graft.occupies (x : Graft) : Bool := decide (x.st = .ready ∨ x.st = .evicting) || (decide (x.st = .fetching) && x.placed)

/-- The lowest run of `n` pages that no entry occupies (R376). -/
def State.emptyRun (s : State) (ctx n : Nat) : Option Nat := freeRun (s.poolPages ctx) n (s.graftRuns ctx fun _ x => x.occupies)

/-- The run for `n` pages when `victims` are marked (R376): pages of FETCHING entries and of READY entries that are not victims are not free. -/
def State.runWith (s : State) (ctx n : Nat) (victims : List Nat) : Option Nat :=
  freeRun (s.poolPages ctx) n (s.graftRuns ctx fun e x => x.occupies && decide (x.st ≠ .evicting) && !victims.contains e)

/-- Whether a glade other than `g` holds an entry (R319, R363, R377). -/
def State.graftHeld (s : State) (g e : Nat) : Bool := s.held g (graftSect e)

/-- Insertion by use stamp, then entry. -/
def insertByStamp (x : Nat × Nat) : List (Nat × Nat) → List (Nat × Nat)
  | [] => [x]
  | y :: t => if x.2 < y.2 ∨ (x.2 = y.2 ∧ x.1 < y.1) then x :: y :: t else y :: insertByStamp x t

/-- Entries by use stamp, oldest first, ties by entry. -/
def byStamp (l : List (Nat × Nat)) : List Nat := (l.foldr insertByStamp []).map (·.1)

/-- The unpinned entries of a context in given states, least recent use first. -/
def State.unpinned (s : State) (ctx : Nat) (t : GraftSt → Bool) : List Nat :=
  byStamp ((s.grafts.filter fun x => decide (x.2.ctx = ctx ∧ x.2.pins = []) && t x.2.st).map fun x => (x.1, x.2.stamp))

/-- Victims marked one by one until a run is found (R376). -/
def State.pickRun (s : State) (ctx n : Nat) : List Nat → List Nat → Option (Nat × List Nat)
  | [], v => (s.runWith ctx n v).map fun p => (p, v)
  | e :: es, v => match s.runWith ctx n v with
    | some p => some (p, v)
    | none => State.pickRun s ctx n es (v ++ [e])

/-- The run of a fetch and the entries it marks EVICTING: a free run where there is one (R376). An entry that another glade than `g` holds is not marked before
its hold ends (R319), and the fetch waits. -/
def State.graftRun (s : State) (g ctx length : Nat) : Option (Nat × List Nat) :=
  let n := (length + 4095) / 4096
  match s.emptyRun ctx n with
  | some p => some (p, [])
  | none => (s.pickRun ctx n (s.unpinned ctx fun t => decide (t = .ready)) []).bind fun r => if r.2.any (s.graftHeld g) then none else some r

/-- The free pages and those of the job's unpinned READY and EVICTING entries cover a length (R378). -/
def State.coverable (s : State) (ctx length : Nat) : Bool :=
  (s.runWith ctx ((length + 4095) / 4096) (s.unpinned ctx fun t => decide (t = .ready))).isSome

/-- An entry loses its pool bytes (R376). -/
def Graft.evict (x : Graft) : Graft := { x with st := .evicted, forced := false }

/-- Whether the launch that last pinned an entry is still there (R376). -/
def State.pinnerLives (s : State) (x : Graft) : Bool := match x.pinner with
  | none => false
  | some k => (s.launch (k / 2 ^ 24) (k % 2 ^ 24)).isSome

/-- Entries marked EVICTING; those whose last pinner has completed are EVICTED at once (R376). -/
def State.markVictims (s : State) (v : List Nat) : State :=
  v.foldl (fun s e => s.modGraft e fun x => if s.pinnerLives x then { x with st := .evicting } else x.evict) s

/-- No fetch of the job that was asked for earlier still lacks its run (R376). -/
def State.fetchTurn (s : State) (e : Nat) : Bool :=
  let x := s.graft e
  !s.grafts.any fun y => decide (y.2.ctx = x.ctx ∧ y.2.st = .fetching ∧ y.2.placed = false)
    && (decide (y.2.startedAt < x.startedAt) || (decide (y.2.startedAt = x.startedAt) && decide (y.1 < e)))

/-- A fetch is assigned its run in its turn, and the entries in it are marked (R376). -/
def State.placeFetch (s : State) (g e : Nat) : State :=
  let x := s.graft e
  if x.placed ∨ s.fetchTurn e = false then s
  else match s.graftRun g x.ctx x.length with
    | none => s
    | some run => (s.markVictims run.2).modGraft e fun x => { x with placed := true, page := run.1 }

/-- The entry becomes FETCHING; it is assigned its run at once where there is one (R376, R378). -/
def State.startFetch (s : State) (g e : Nat) (f : Graft → Graft) : State :=
  State.placeFetch (s.modGraft e fun x => { f x with st := .fetching, placed := false, forced := false, late := none, reason := 0, startedAt := s.wall }) g e

/-- An entry is released and becomes FREE (R373, R374). -/
def Graft.free (x : Graft) : Graft := { gen := x.gen, retired := x.retired || decide (x.gen = 0xFFFF) }

/-- The release of one pin of a launch (R380). -/
def Graft.unpin (x : Graft) (k : Nat) : Graft :=
  let n := nget 0 x.pins k
  let x := { x with pins := if n ≤ 1 then ndel x.pins k else nset x.pins k (n - 1) }
  if x.forced ∧ x.pins = [] then x.evict else x

/-- A change of an entry by the forester: at once, or when the hold on the entry ends (R319, R363). -/
def State.evictOr (s : State) (quota : Bool) (e : Nat) (x y : Graft) : Graft := if s.graftHeld 512 e then { x with late := some quota } else y

/-- EVICTING entries that a launch last pinned become EVICTED: at its phase boundary or its completion (R376). -/
def State.graftBoundary (s : State) (k : Nat) : State :=
  { s with grafts := s.grafts.map fun x => if x.2.st = .evicting ∧ x.2.pinner = some k then (x.1, s.evictOr false x.1 x.2 x.2.evict) else x }

/-- The pins of launches that meet a test are released (R376, R377). -/
def Graft.dropPins (x : Graft) (t : Nat → Bool) : Graft :=
  let y := { x with pins := x.pins.filter fun p => !t p.1 }
  if x.pins ≠ [] ∧ y.forced ∧ y.pins = [] then y.evict else y

/-- A launch ends: its pins are released and its EVICTING entries evicted (R376, R377); an entry that a block holds keeps its pins until the hold ends (R319). -/
def State.graftRelease (s : State) (k : Nat) : State :=
  State.graftBoundary { s with grafts := s.grafts.map fun x =>
    (x.1, if (nfind x.2.pins k).isNone then x.2 else if s.graftHeld 512 x.1 then { x.2 with drop := true } else x.2.dropPins (· == k)) } k

/-- A change that waited for the hold on an entry to end: the release of the pins of launches that are
gone, and an eviction where the entry is still without a pin, else its forced flag (R319, R376, R377). -/
def Graft.settle (quota : Nat) (gone : Nat → Bool) (x : Graft) : Graft :=
  let x := if x.drop then { x.dropPins gone with drop := false } else x
  let y := { x with late := none }
  match x.late with
  | none => x
  | some false => if x.st = .evicting then y.evict else y
  | some true =>
    if x.st = .fetching then if quota < x.length then { y with st := .failed, reason := 6 } else y
    else if x.st = .ready ∨ x.st = .evicting then if x.pins = [] then y.evict else { y with forced := true }
    else y

/-! ## Commits (R378, R380) -/

/-- The commit of a graft instruction of a glade. -/
def State.graftCommit (s : State) (g op : Nat) (args : List Nat) : State :=
  let a (i : Nat) : Nat := (args[i]?).getD 0
  let e := a 0
  let ctx := s.ctxOf g
  let k := s.launchKeyOf g
  if op = 0x118 then
    s.startFetch g e fun x =>
      { gen := a 1, retired := x.retired, ctx := ctx, id := a 2, ver := a 3, hash := toBytes 32 (a 4), src := a 6, glade := g, length := a 5
        stamp := if x.gen = a 1 then x.stamp else 0, pinner := if x.gen = a 1 then x.pinner else none }
  else if op = 0x119 then
    s.modGraft e fun x => { x with pins := nmod 0 x.pins k (· + 1), st := .ready, stamp := s.wall, pinner := some k }
  else s.modGraft e fun x => x.unpin k

/-- The cache as an instruction of a block finds it: with the commits of those it is after. -/
def State.graftsAt (s : State) (x : Fx) : State :=
  x.b.pend.foldl (fun s p => match p.2 with
    | .graft op args => if x.b.after p.1 x.i then s.graftCommit x.g op args else s
    | _ => s) s

/-- What a QRY or a handle that names nothing puts into the read set: the entry of the handle (R363, R377). -/
def handleSect (l : Nat) : Sect := graftSect (l % 65536)

/-- The commit actions that change an entry. -/
def sameGraft (e : Nat) : Pend → Bool
  | .graft _ args => decide (args.head? = some e)
  | _ => false

/-! ## The instructions (R377 to R381) -/

/-- The length of an image by the mask and the vector length of its header (R372). -/
def graftLength (mask v : Nat) : Nat := 64 + ((List.range 64).map fun l => b2n (bit mask l)).sum * 128 * ((v + 63) / 64)

/-- A length R372 can give: some 1 to 64 vectors of 1 to 512 rows of 128 bytes. -/
def graftLengthOk (n : Nat) : Bool :=
  let rows := (n - 64) / 128
  decide (192 ≤ n ∧ n % 128 = 64) && (List.range 64).any fun p => decide (rows % (p + 1) = 0 ∧ rows / (p + 1) ≤ 512)

/-- The offset of the first offending field of a fetch descriptor (R372, R377). -/
def graftDescBad (d : List Byte) : Option Nat :=
  if graftLengthOk (leAt d 8 4) = false then some 8
  else if leAt d 12 4 ≠ 0 then some 12
  else if leAt d 48 16 ≠ 0 then some 48
  else none

/-- An entry of a context with (id, version) that is not FREE. -/
def State.graftFind (s : State) (ctx id ver : Nat) : Option Nat :=
  (nkeys s.grafts fun _ x => decide (x.st ≠ .free ∧ x.ctx = ctx ∧ x.id = id ∧ x.ver = ver)).head?

/-- The entry GRAFT.FETCH takes where (id, version) has none: the lowest FREE one, else the context's least recent EVICTED one (R374, R378). -/
def State.graftTake (s : State) (ctx : Nat) : Option (Nat × Nat) :=
  match (List.range 65536).find? fun e => decide ((s.graft e).st = .free) && !(s.graft e).retired with
  | some e => some (e, (s.graft e).gen + 1)
  | none => ((s.unpinned ctx fun t => t == GraftSt.evicted).find? fun e => decide ((s.graft e).gen < 0xFFFF)).map fun e => (e, (s.graft e).gen + 1)

/-- Status, and entry and generation where there is an entry, of GRAFT.FETCH (R378). -/
def State.graftFetch (s : State) (ctx id ver : Nat) (hash : List Byte) (length : Nat) : Nat × Option (Nat × Nat) :=
  let e := s.graftFind ctx id ver
  let x := s.graft (e.getD 0)
  let k := e.map fun k => (k, x.gen)
  if e.isSome ∧ x.hash ≠ hash then (10, k)
  else if e.isSome ∧ (x.st = .fetching ∨ x.st = .ready ∨ x.st = .evicting) then (2, k)
  else if 2 ^ 20 * (s.job ctx).graftQuota < length then (4, k)
  else match k with
    | some k => (if s.coverable ctx length then 0 else 1, some k)
    | none => match s.graftTake ctx with
      | none => (1, none)
      | some k => if s.coverable ctx length then (0, some k) else (1, none)

/-- GRAFT.FETCH (R378). -/
def execGraftFetch (h : Hdr) (s : State) : Outcome :=
  match s.fx h true true with
  | none => .next s
  | some x => s.frontierOnly x (
    let l := x.l.toNat
    if l % 64 ≠ 0 ∨ inWindow (spBase .loc) (spSize .loc) l = false then tableFormat s x l
    else if x.r.toNat % 64 ≠ 0 then tableFormat s x x.r.toNat
    else match readRange s x l 64 .rd with
      | .error s => .next s
      | .ok (d, ps) => match graftDescBad d with
        | some o => tableFormat s x o
        | none =>
          let reads := findSect (s.ctxOf x.g) (leAt d 0 6) (leAt d 6 2) :: ps.flatMap fun p => sectors p 8
          let (st, k) := (s.graftsAt x).graftFetch (s.ctxOf x.g) (leAt d 0 6) (leAt d 6 2) (sliceB d 16 32) (leAt d 8 4)
          match k with
          | none => tableOp h x st reads none (fun _ => false) s
          | some (e, gen) =>
            if s.held x.g (graftSect e) then .next (s.stall x)
            else if st = 0 then tableOp h x (65536 * (e + 65536 * gen)) reads
              (some (.graft 0x118 [e, gen, leAt d 0 6, leAt d 6 2, ofBytes (sliceB d 16 32), leAt d 8 4, x.r.toNat])) (sameGraft e) s
            else holdOp h x (st + if st = 2 then 65536 * (e + 65536 * gen) else 0) (graftSect e :: reads) (some (graftSect e)) s)

/-- Pins a launch holds over all entries (R377). -/
def State.launchPins (s : State) (k : Nat) : Nat := (s.grafts.map fun x => nget 0 x.2.pins k).sum

/-- GRAFT.PIN (R378). -/
def execGraftPin (h : Hdr) (s : State) : Outcome :=
  match s.fx h true false with
  | none => .next s
  | some x => s.frontierOnly x (
    let l := x.l.toNat
    if bits l 63 32 ≠ 0 then tableFormat s x l
    else
      let t := s.graftsAt x
      match t.graftOf (s.ctxOf x.g) l with
      | none => tableOp h x 3 [handleSect l] none (fun _ => false) s
      | some e =>
        if s.held x.g (graftSect e) then .next (s.stall x)
        else
          let y := t.graft e
          match y.st with
          | .fetching => tableOp h x 5 [graftSect e] none (sameGraft e) s
          | .evicted =>
            let s := if (s.graft e).st = GraftSt.evicted then s.startFetch x.g e id else s
            s.stop x 0x146 l
          | .failed => s.stop x 0x147 (l + 2 ^ 32 * y.reason)
          | _ =>
            if y.pinCount = 65535 ∨ t.launchPins (s.launchKeyOf x.g) = 256 then tableOp h x 1 [graftSect e] none (sameGraft e) s
            else tableOp h { x with b := x.b.addPend x.i .acquire } y.addr [graftSect e] (some (.graft 0x119 [e])) (sameGraft e) (s.acquire x [.graft e]))

/-- GRAFT.UNPIN (R380). -/
def execGraftUnpin (h : Hdr) (s : State) : Outcome :=
  match s.fx h true false with
  | none => .next s
  | some x => s.frontierOnly x (
    let l := x.l.toNat
    if bits l 63 32 ≠ 0 then tableFormat s x l
    else
      let t := s.graftsAt x
      match t.graftOf (s.ctxOf x.g) l with
      | none => tableOp h x 3 [handleSect l] none (fun _ => false) s
      | some e =>
        if s.held x.g (graftSect e) then .next (s.stall x)
        else if nget 0 (t.graft e).pins (s.launchKeyOf x.g) = 0 then tableOp h x 3 [graftSect e] none (sameGraft e) s
        else tableOp h x (65536 * ((t.graft e).pinCount - 1)) [graftSect e] (some (.graft 0x11A [e])) (sameGraft e) s)

/-- The map GRAFT.QRY.STATE delivers (R381). -/
def Graft.word (x : Graft) : Nat :=
  2 ^ 32 * x.ver + 65536 * x.pinCount + 4096 * (if x.st = .failed then x.reason else 0) + 2048 * b2n x.forced + 256 * graftCode x.st

/-- GRAFT.QRY.STATE (R381). -/
def execGraftQryState (h : Hdr) (s : State) : Outcome :=
  match s.fx h true false with
  | none => .next s
  | some x =>
    let l := x.l.toNat
    if bits l 63 32 ≠ 0 then tableFormat s x l
    else match (s.graftsAt x).graftOf (s.ctxOf x.g) l with
      | none => tableOp h x 3 [handleSect l] none (fun _ => false) s
      | some e => tableOp h x ((s.graftsAt x).graft e).word [graftSect e] none (fun _ => false) s

/-- GRAFT.QRY.FIND (R381). -/
def execGraftQryFind (h : Hdr) (s : State) : Outcome :=
  match s.fx h true false with
  | none => .next s
  | some x =>
    if inWindow (spBase .loc) (spSize .loc) x.l.toNat = false then tableFormat s x x.l.toNat
    else match readRange s x x.l.toNat 8 .rd with
      | .error s => .next s
      | .ok (q, ps) =>
        let reads := findSect (s.ctxOf x.g) (leAt q 0 6) (leAt q 6 2) :: ps.flatMap fun p => sectors p 8
        match (s.graftsAt x).graftFind (s.ctxOf x.g) (leAt q 0 6) (leAt q 6 2) with
        | none => tableOp h x 3 reads none (fun _ => false) s
        | some e => tableOp h x (65536 * ((s.graftsAt x).graft e).handle e) (graftSect e :: reads) none (fun _ => false) s

/-! ## The fetcher (R375) -/

/-- What reading a graft's source came to. -/
inductive SrcRes
  | bytes (bs : List Byte)
  | fail (reason : Nat)
  | wait
  deriving DecidableEq, Repr

/-- The place of source bytes of a fetch within a page, through the context's translation (R231, R246, R252): device or host memory. -/
def State.graftPlace (s : State) (g ctx a n : Nat) : Xl :=
  if 2 ^ 56 ≤ a then .fault 0x041
  else if bit a 55 then s.xlGlobal g ctx (s.job ctx).vf a n .rd
  else match s.ctxPhys ctx a false with
    | none => .fault 0x047
    | some p => if s.bad p n then .fault 0x04C else .ok p

/-- The source bytes of a fetch, read page by page; a sector that an atomic holds is waited for (R263). -/
def State.graftSource (e g ctx : Nat) : Nat → Nat → Nat → State → State × SrcRes
  | 0, _, _, s => (s, .bytes [])
  | fuel + 1, a, n, s =>
    if n = 0 then (s, .bytes [])
    else
      let k := min n (4096 - a % 4096)
      match s.graftPlace g ctx a k with
      | .ok p =>
        if s.heldRange 512 p k then (s, .wait)
        else match State.graftSource e g ctx fuel (a + k) (n - k) (s.hbmRead p k) with
        | (t, .bytes bs) => (t, .bytes (s.bytes p k ++ bs))
        | r => r
      | .host page =>
        let vf := (s.job ctx).vf
        let w : Waiter := ⟨3, 0, e⟩
        if s.pageFailed vf page w then (s.leavePage vf page w, .fail 3) else (s.needPage vf page false w, .wait)
      | .fault c => (s, .fail (if c = 0x04C then 5 else 3))
      | .walk _ _ => (s, .fail 3)

/-- An image written into a context's pool by the fetcher; false where a page does not translate. -/
def State.putPool (e ctx : Nat) : List (List Byte) → Nat → State → State × Bool
  | [], _, s => (s, true)
  | l :: t, va, s =>
    match s.ctxPhys ctx va false with
    | none => (s, false)
    | some p => State.putPool e ctx t (va + 4096) (s.putNoted p l [.graft e])

/-- The header of an image disagrees with its entry (R372, R375): its id, its version, or the length its mask and vector length give (DEDUCED, log entry 80). -/
def Graft.headBad (x : Graft) (bs : List Byte) : Bool :=
  let v := leAt bs 16 4
  decide (leAt bs 0 6 ≠ x.id ∨ leAt bs 6 2 ≠ x.ver) || decide (leAt bs 8 8 = 0 ∨ v = 0 ∨ 32768 < v ∨ graftLength (leAt bs 8 8) v ≠ x.length)
    || decide (leAt bs 20 44 ≠ 0)

/-- The pages of a fetch's run are all free (R376). -/
def State.runFree (s : State) (e : Nat) : Bool :=
  let x := s.graft e
  (s.graftRuns x.ctx fun k y => decide (k ≠ e) && y.occupies).all fun r =>
    decide (r.1 + r.2 ≤ x.page) || decide (x.page + x.pages ≤ r.1)

def State.graftFail (s : State) (e reason : Nat) : State := s.modGraft e fun x => { x with st := .failed, reason := reason }

/-- GRAFT_FETCH_COMPLETE: the image is read, written to the pool and checked (R375). It waits for a run and for its pages (R376), for a hold on its entry
(R319) and for a host page. -/
def execGraftFetchComplete (e : Nat) (s : State) : Outcome :=
  let x := s.graft e
  if x.st ≠ .fetching ∨ s.graftHeld 512 e = true then .next s
  else if x.placed = false then .next (s.placeFetch 512 e)
  else if s.runFree e = false then .next s
  else match State.graftSource e x.glade x.ctx (x.length / 4096 + 3) x.src x.length s with
    | (s, .wait) => .next s
    | (s, .fail r) => .next (s.graftFail e r)
    | (s, .bytes bs) => match State.putPool e x.ctx (chunks 4096 (x.pages + 1) bs) x.addr s with
      | (s, false) => .next (s.graftFail e 3)
      | (s, true) =>
        if sha256 bs ≠ x.hash then .next (s.graftFail e 1)
        else if x.headBad bs then .next (s.graftFail e 2)
        else .next (s.modGraft e fun x => { x with st := .ready })

/-- GRAFT_FETCH_TIMEOUT: no completion within 100 ms (R375). -/
def execGraftFetchTimeout (e : Nat) (s : State) : Outcome :=
  let x := s.graft e
  if x.st = .fetching ∧ x.startedAt + 756000000000 ≤ s.wall ∧ s.graftHeld 512 e = false then .next (s.graftFail e 4) else .next s

/-! ## A lowered quota (R376) -/

/-- Pool pages that a job's entries occupy, those whose eviction waits for a hold apart, and with `forced` those to be evicted with their last pin. -/
def State.poolUse (s : State) (ctx : Nat) (forced : Bool) : Nat :=
  ((s.graftRuns ctx fun _ x => x.occupies && x.late.isNone && (forced || !x.forced)).map (·.2)).sum

/-- Entries changed in an order until what the job keeps fits its quota. -/
def State.fitPool (ctx : Nat) (forced : Bool) (f : Graft → Graft) : List Nat → State → State
  | [], s => s
  | e :: es, s => if s.poolUse ctx forced ≤ s.poolPages ctx then s else State.fitPool ctx forced f es (s.modGraft e fun x => s.evictOr true e x (f x))

/-- A lowered graft quota (R376): unpinned READY and EVICTING entries are evicted, least recent first, until the job fits; then pinned ones are marked forced, in
the same order; FETCHING entries longer than the quota fail with reason 6. A held entry is changed when its hold ends. -/
def State.shrinkPool (s : State) (ctx : Nat) : State :=
  let s : State := { s with grafts := s.grafts.map fun (x : Nat × Graft) =>
    if x.2.ctx = ctx ∧ x.2.st = .fetching ∧ 2 ^ 20 * (s.job ctx).graftQuota < x.2.length then (x.1, s.evictOr true x.1 x.2 { x.2 with st := .failed, reason := 6 }) else x }
  let s := State.fitPool ctx true Graft.evict (s.unpinned ctx fun t => decide (t = .ready ∨ t = .evicting)) s
  State.fitPool ctx false (fun x => { x with forced := true }) (byStamp ((s.grafts.filter fun x => decide (x.2.ctx = ctx ∧ x.2.pins ≠ [])).map fun x => (x.1, x.2.stamp))) s

/-- GRAFT_SETTLE: the hold on an entry has ended, and a change that waited for it takes effect (R319, R376). -/
def execGraftSettle (e : Nat) (s : State) : Outcome :=
  if s.graftHeld 512 e then .next s else .next (s.modGraft e (Graft.settle (2 ^ 20 * (s.job (s.graft e).ctx).graftQuota) fun k => (s.launch (k / 2 ^ 24) (k % 2 ^ 24)).isNone))

end Sys2Proof.Machine
end

