-- ==== Sys2Proof/Machine/Commit.lean ====
section
/-! DEFINITION. Blocks from fetch to commit: block decode (R113), timestamps (R148), the fetch checks (R174), the resolution of outputs and
the commit (R144, R145, R267, R268, R275, R286), and the bounded waits (R158, R287). -/

namespace Sys2Proof.Machine

/-! ## Block decode (R112, R113) -/

/-- Whether a target of instruction `i` is legal in a block of these words (R114). -/
def targetOk (ws : List Word) (i : Nat) (t : Target) : Bool :=
  let j := t.index.toNat
  let c := (ws[j]?).getD 0
  let out := opOut (wordOpcode ((ws[i]?).getD 0))
  decide (i < j ∧ j < ws.length) && (match t.slot with
    | .l => (wordSlots c).1 && out.1
    | .r => (wordSlots c).2 && out.1
    | .q => out.1
    | .o => (opOut (wordOpcode c)).2 && out.2)

/-- The first failure of R113 in the words of a block from index `i` on: cause and TRAP.VALUE. -/
def wordsBad (ws : List Word) : List Word → Nat → Option (Nat × Nat)
  | [], _ => none
  | w :: t, i =>
    let v := i + 256 * wordOpcode w
    match Sys2Proof.decodeWord w with
    | .error .opcodeUndef => some (0x003, v)
    | .error .blockFormat => some (0x002, v)
    | .error .payloadReserved => some (0x004, v)
    | .error .targetInvalid => some (0x005, v)
    | .ok _ => if (wordTargets w).all (targetOk ws i) then wordsBad ws t (i + 1) else some (0x005, v)

/-- The general registers that WRG and register-kind NULL instructions name, as a mask (R112). -/
def namedRegs (ws : List Word) : Nat :=
  ws.foldl (fun m w =>
    let op := wordOpcode w
    if op = 0x049 ∨ (op = 0x04B ∧ w.getLsbD 29 = true) then m ||| 2 ^ bits w.toNat 5 0 else m) 0

/-- The predicates that compare-class instructions with their write bit set name, as a mask (R112). -/
def namedPreds (ws : List Word) : Nat :=
  ws.foldl (fun m w => if 0x028 ≤ wordOpcode w ∧ wordOpcode w ≤ 0x030 ∧ w.getLsbD 4 = true then m ||| 2 ^ bits w.toNat 3 0 else m) 0

/-- The header checks of R113. -/
def headerBadWw (h0 h1 : Word) : Bool :=
  let x := h1.toNat
  let mode := bits x 32 31
  decide (bits x 63 40 ≠ 0) || h0.getLsbD 0 || h1.getLsbD 15 || decide (mode = 3) || decide (111 < bits x 6 0)
    || decide (mode ≠ 1 ∧ bits x 38 33 ≠ 0) || decide (bits x 6 0 + 1 < bits x 14 7)

/-- The first failure of block decode (R113). -/
def blockBad (h0 h1 : Word) (ws : List Word) : Option (Nat × Nat) :=
  if headerBadWw h0 h1 then some (0x002, 128)
  else match wordsBad ws ws 0 with
    | some e => some e
    | none => if namedRegs ws ≠ h0.toNat ∨ namedPreds ws ≠ bits h1.toNat 30 15 then some (0x002, 128) else none

/-! ## Timestamps and fetch (R148, R174) -/

/-- The timestamp of the next block, or TRAP.VALUE of TS_ORDER (R148). -/
def Woodward.stamp (w : Woodward) (h1 : Word) : Except Nat Nat :=
  let mode := bits h1.toNat 32 31
  if mode = 0 then
    match w.lastTs with
    | none => .ok 0
    | some p => if 2 ^ 64 ≤ p + 1 then .error (2 ^ 64 - 1) else .ok (max (p + 1) w.floor.toNat)
  else if mode = 1 then
    let v := (w.reg (bits h1.toNat 38 33)).toNat
    if v < w.lastTs.getD 0 then .error v else .ok v
  else .ok (w.lastTs.getD 0)

/-- The words of a block in the burrow of a glade. -/
def State.blockWords (s : State) (g a n : Nat) : List Word :=
  (List.range n).map fun i => BitVec.ofNat 64 (s.num (burrowAt g (s.glade g).active + a + 16 + 8 * i) 8)

/-- The block at the fetch address, or the cause and TRAP.VALUE that its fetch raises (R174, R113, R148, R417). FETCH_RANGE has
no stated value (DESIGN CHOICE, log entry 2) (DEDUCED, log entry 29). The label is checked before the timestamp (DESIGN CHOICE, log entry 88). -/
def State.fetchBlock (s : State) (g : Nat) : Except (Nat × Nat) Block :=
  let w := s.ww g
  let a := w.fetch
  let base := burrowAt g (s.glade g).active
  let h0 : Word := BitVec.ofNat 64 (s.num (base + a) 8)
  let h1 : Word := BitVec.ofNat 64 (s.num (base + a + 8) 8)
  let n := bits h1.toNat 6 0 + 1
  if 2 ^ 20 < a + 16 ∨ 2 ^ 20 < a + 16 + 8 * n then .error (0x00C, s.freeWord.toNat)
  else if a % 64 ≠ 0 then .error (0x001, 128)
  else
    if s.bad (base + a) (16 + 8 * n) then .error (0x1C2, spBase .loc + a)
    else
      let ws := s.blockWords g a n
      match blockBad h0 h1 ws with
      | some e => .error e
      | none =>
        let first := (ws[0]?).getD 0
        match w.label with
        | some l =>
          if wordOpcode first = 0x04C ∧ bits first.toNat 11 0 = l then
            match w.stamp h1 with
            | .error v => .error (0x00B, v)
            | .ok ts => .ok { addr := a, h0 := h0, h1 := h1, words := ws, ts := ts, qf := w.q ||| 1 }
          else .error (0x00D, l)
        | none =>
          match w.stamp h1 with
          | .error v => .error (0x00B, v)
          | .ok ts => .ok { addr := a, h0 := h0, h1 := h1, words := ws, ts := ts, qf := w.q ||| 1 }

/-- Whether a woodward may fetch: its unit runs, and it neither holds a block nor is halted or held at its mark (R41, R43, R144). -/
def Woodward.fetches (w : Woodward) : Bool := w.started && !w.halted && !w.atMark && w.block.isNone

/-- BLOCK_FETCH: the woodward fetches its next block (R174). The first pending cause is delivered instead in the cy after a TRET (R411). -/
def execBlockFetch (g : Nat) (s : State) : Outcome :=
  let w := s.ww g
  if w.deliver ∧ w.pending ≠ [] then
    let s := s.modWw g fun w => { w with deliver := false, pending := w.pending.drop 1 }
    match w.pending with
    | c :: _ => .next (s.take g c.code c.value (s.asyncAt g) true)
    | [] => .next s
  else
  let s := s.modWw g fun w => { w with deliver := false }
  let at_ := burrowAt g (s.glade g).active + w.fetch
  if w.fetches ∧ s.heldRange g at_ (24 + 8 * bits (s.num (at_ + 8) 8) 6 0) = false then
    match s.fetchBlock g with
    | .error (c, v) => .next ((if c = 0x00C then s.drawn else s).take g c v w.fetch false)
    | .ok b => .next ((s.modWw g fun w => { w with block := some b }).touch at_ (16 + 8 * b.words.length))
  else .next s

/-! ## Commit actions -/

/-- A counter change of a soft counter by CC.ADD (R393); it holds its largest value (R383). -/
def Counter.soft (c : Counter) (st n : Nat) : Counter :=
  { count := min (c.count + n) (2 ^ 64 - 1), nonok := min (c.nonok + (if st = 0 then 0 else 1)) (2 ^ 64 - 1)
    status := if st = 0 then .ok else if st = 1 then .cancelled else if st = 2 then .faulted else .peerAbort }

/-- An arm entry that is DISARMING becomes FREE once nothing of it is eligible, running or queued, and no instance has it still to decide (R322, R325). -/
def State.settleArm (s : State) (d e : Nat) : State :=
  let x := s.die d
  let a : ArmEnt := nget {} x.arms e
  let mine := 4096 * d + e
  let inst := (List.range 4).any fun k => (s.die k).instances.any fun i => decide (i.root = mine ∨ mine ∈ i.todo)
  if a.st = .disarming ∧ a.waiting = [] ∧ inst = false ∧ (x.launches.any fun l => decide (l.2.arm = e)) = false
  then (s.modDie d fun x => { x with arms := ndel x.arms e }).dropPoints fun p => match p with
    | .counter k o _ => decide (k < 4 ∧ o = mine)
    | _ => false
  else s

/-- Counts added to an event counter of several glades (R184, R345). -/
def addEvents (k : Nat) : List Nat → State → State
  | [], s => s
  | h :: t, s => addEvents k t (s.modWw h fun w => { w with evc := nmod 0 w.evc k (satAdd · 1) })

/-- The same by an EVSEND, which supplies the ordinal it makes (R185, R271). -/
def sendEvents (k : Nat) : List Nat → State → State
  | [], s => s
  | h :: t, s => sendEvents k t (addEvents k [h] (s.modWw h fun w => { w with evSent := w.evSent ++ [(k, (nget 0 w.evc k).toNat + 1)] }))

/-- The destinations of EVSEND and of a time slot (R184, R345). -/
def State.eventGlades (s : State) (g dest : Nat) : List Nat :=
  if dest = 0 then [g] else if dest = 1 then s.unitGlades g
  else match s.place g with
    | some p => s.launchGlades p.die p.launch
    | none => [g]

/-- The launches of an arm entry that are eligible or running: die × 2^24 + launch number. -/
def State.launchesOf (s : State) (d e : Nat) : List (Nat × Nat) :=
  (nkeys (s.die d).launches fun _ l => decide (l.arm = e)).map fun l => (d, l)

/-- Launches noted for cancelling, which the forester does next (R394): forced, or at the next phase boundary. -/
def noteCancels (phase : Bool) : List (Nat × Nat) → State → State
  | [], s => s
  | (d, l) :: t, s =>
    noteCancels phase t (if phase then s.modLaunch d l fun x => { x with phaseCancel := true }
      else s.modDie d fun x => { x with cancels := x.cancels ++ [(l, .cancelled, true)] })

/-- CANCEL at its commit (R394): UNIT cancels a position's units of the entry's launches; LAUNCH the launches and queued matches; GRAPH the instance with
its launches and the queued matches; JOB the job. -/
def State.cancelName (s : State) (ctx : Nat) (w : Nat) (phase : Bool) : State :=
  let kind := bits w 63 61
  let d := bits w 13 12
  let e := bits w 11 0
  if kind = 0 then
    let ls := s.launchesOf d e
    if phase then ls.foldl (fun s l => s.modLaunch l.1 l.2 fun x => { x with unitCancel := x.unitCancel ++ [(bits w 19 14, true)] }) s
    else ls.foldl (fun s l => s.modLaunch l.1 l.2 fun x => { x with unitCancel := x.unitCancel ++ [(bits w 19 14, false)] }) s
  else if kind = 1 then
    (noteCancels phase (s.launchesOf d e) s).modDie d fun x => { x with arms := nmod {} x.arms e fun a => { a with cancelWaiting := a.waiting.length } }
  else if kind = 3 then
    let root := 4096 * d + e
    let members := (List.range 4).flatMap fun k =>
      (nkeys (s.die k).launches fun _ l => decide (l.root = some root)).map fun l => (k, l)
    let s := noteCancels phase members s
    (s.modDie d fun x => { x with arms := nmod {} x.arms e fun a => { a with cancelWaiting := a.waiting.length } }).modDie d fun x =>
      { x with instances := x.instances.map fun i => if i.root = root then { i with cancelled := true } else i }
  else s.modJob ctx fun j => { j with ending := true }

/-- One commit action of instruction `i` of a block of glade `g` (R144, R183 to R187, R324 to R346, R364 to R394). -/
def State.applyPend (s : State) (g : Nat) : Pend → State
  | .swr n v => s.modWw g fun w => w.sysWrite n v
  | .clearAborts => s.modWw g fun w => { w with aborts := 0 }
  | .floor v => s.modWw g fun w => { w with floor := v }
  | .phaseMark => s.modWw g fun w => { w with atMark := true }
  | .gload ws => s.modWw g fun w => ws.foldl (fun w p => w.setReg p.1 p.2) w
  | .evsend k dest => sendEvents k (s.eventGlades g dest) s
  | .evwait k => s.modWw g fun w => { w with evseen := nmod 0 w.evseen k (· + 1), evSent := w.evSent.filter fun e => decide (e ≠ (k, (nget 0 w.evseen k).toNat + 1)) }
  | .acquire => s
  | .fence rel _ sc => if rel then s.modWw g fun w => { w with relScopes := (w.relScopes ++ [sc]).eraseDups } else s
  | .readRel l => s.modWw g fun w => { w with readRel := (w.readRel ++ l).eraseDups }
  | .order _ => s
  | .credit peer off => s.modEng g fun e => { e with newCredits := e.newCredits ++ [(peer, off)] }
  | .arm d idx e => s.tableChange g (.arm d idx e)
  | .disarm d idx => (s.tableChange g (.disarm d idx)).settleArm d idx
  | .rte e w => s.tableChange g (.rte e w)
  | .rillSet r w => s.tableChange g (.rillSet r w)
  | .rillReset r => s.tableChange g (.rillReset r)
  | .tag slot fn w => s.tableChange g (.tag slot fn w)
  | .hold _ => s
  | .slotHeld z n _ =>
    let mine (x : Nat × Nat × Nat × Nat) : Bool := decide (x.1 = z.pkg ∧ x.2.1 = z.zone ∧ x.2.2.1 = z.rill)
    if n = 0 then s.unhold g z
    else (s.unhold g z).modEng g fun e =>
      { e with resv := e.resv ++ [⟨z.pkg, z.glade, z.zone, z.rill, ((e.spare.filter mine).map (·.2.2.2)).eraseDups⟩], spare := e.spare.filter fun x => !mine x }
  | .slotRelease z => (s.releaseKey g z).modEng g fun e =>
      { e with resv := e.resv.filter fun r => ¬(r.pkg = z.pkg ∧ r.glade = z.glade ∧ r.zone = z.zone ∧ r.rill = z.rill) }
  | .slotDone zone slot => s.slotReleased g zone slot
  | .tslot m w => match s.place g with
    | some p => s.modLaunch p.die p.launch fun l => { l with slotsNext := nset l.slotsNext m w, slotByNext := nset l.slotByNext m g }
    | none => s
  | .seed op args => s.seedCommit g op args
  | .graft op args => s.graftCommit g op args
  | .ccAdd k v => (s.flow [s.taskPt g] (.counter 5 (s.ctxOf g) (k % 256))).modJob (s.ctxOf g) fun j => { j with soft := nmod {} j.soft (k % 256) fun c => c.soft (k / 256) v }
  | .cancel sel phase => s.cancelName (s.ctxOf g) sel.toNat phase
  | .sampleKey k => s.modWw g fun w => { w with samplerKey := some k, keyValid := true, keyGen := w.keyGen + 1 }
  | .testReq => s.modClearing (clearingOf g) fun c => if c.requested then c else { c with requested := true, reqAt := s.wall }

def applyPends (g : Nat) : List (Nat × Pend) → State → State
  | [], s => s
  | (_, p) :: t, s => applyPends g t (s.applyPend g p)

/-- The table entries a commit action changes (R320). -/
def State.changes (s : State) (g : Nat) : Pend → List Sect
  | .arm d idx _ => [.tbl 1 d idx]
  | .disarm d idx => [.tbl 1 d idx]
  | .rte e _ => [.tbl 2 g e]
  | .rillSet r _ => [.tbl 3 g r]
  | .rillReset r => [.tbl 3 g r]
  | .tag slot _ _ => [tagSect (s.dieCtx g).1 (s.dieCtx g).2 (slot / 16)]
  | .slotDone zone slot => [slotSect g zone slot]
  | .slotHeld z n _ => if z.pkg = s.self ∧ n ≠ 0 then (List.range 64).map (slotSect z.glade z.zone) else []
  | .slotRelease z => if z.pkg = s.self then (List.range 64).map (slotSect z.glade z.zone) else []
  | .tslot m _ => [.tbl 5 g m]
  | .ccAdd k _ => [softSect (s.ctxOf g) (k % 256)]
  | .seed op args => if op = 0x112 ∨ op = 0x113 then [] else [seedSect (dieOf g) ((args[0]?).getD 0)]
  | .graft op args =>
    let e := (args[0]?).getD 0
    let x := s.graft e
    graftSect e :: if op = 0x118 then [findSect (s.ctxOf g) ((args[2]?).getD 0) ((args[3]?).getD 0), findSect x.ctx x.id x.ver] else []
  | _ => []

/-! ## Aborts (R268, R275, R320) -/

/-- A block is aborted: discarded, counted in TASK.ABORTS, and fetched again (R268). -/
def State.abort (s : State) (h : Nat) : State := ((s.discard h).modWw h fun w => { w with aborts := satAdd w.aborts 1 }).perf h 4 1

/-- The larger-key blocks among the glades of a launch whose read set meets a test are aborted (R268, R275). -/
def abortReaders (ts g : Nat) (hit : List Sect → Bool) : List Nat → State → State
  | [], s => s
  | h :: t, s =>
    match s.block h with
    | some b => if h ≠ g ∧ keyBefore ts g b.ts h ∧ hit b.reads then abortReaders ts g hit t (s.abort h) else abortReaders ts g hit t s
    | none => abortReaders ts g hit t s

/-- The glades of the launch a glade's unit belongs to. -/
def State.peers (s : State) (g : Nat) : List Nat := match s.place g with
  | some p => s.launchGlades p.die p.launch
  | none => []

/-! ## Commit (R145, R267, R286) -/

/-- The buffered stores of a block in ascending instruction index (R257). -/
def insertStore (x : BStore) : List BStore → List BStore
  | [] => [x]
  | y :: t => if x.idx < y.idx then x :: y :: t else y :: insertStore x t

/-- The release scopes of a block's fences (R274). -/
def Block.relScopes (b : Block) : List Scope := b.pend.filterMap fun p => match p.2 with
  | .fence true _ sc => some sc
  | _ => none

/-- The releases of a block's atomics (R271, R274), numbered from `n` on: an atomic with the scopes of its own order and of the release fences it follows. -/
def Block.releases (b : Block) (fences : List Scope) (n : Nat) : List (Nat × List Scope × Nat) :=
  (b.stores.filter fun t => t.atomic && decide (t.scopes ++ fences ≠ [])).zipIdx.map fun t => (t.1.idx, (t.1.scopes ++ fences).eraseDups, n + t.2)

/-- What a store of a block is before: the tasks after it, and the releases of its own instruction and of those that follow it by edges (R257, R270). -/
def State.storePts (s : State) (g : Nat) (b : Block) (rels : List (Nat × List Scope × Nat)) (i : Nat) : List Point :=
  s.taskPt g :: (rels.filter fun r => decide (r.1 = i) || b.after i r.1).map fun r => .rel r.2.2

/-- A write of an atomic: it continues the release sequence its word belongs to, and heads its own (R271, R273). -/
def State.writeAtomic (s : State) (g : Nat) (t : BStore) (before_ : List Point) (mine : List Rel) : State :=
  let heads := (s.heads t.phys t.bytes.length ++ mine).eraseDups
  let s := s.write t.phys t.bytes before_ (some g)
  if heads = [] then s else { s with rels := (List.range (t.bytes.length / 4)).foldl (fun m i => nset m (t.phys / 4 + i) heads) s.rels }

/-- Buffered stores of a block of glade `g` performed (R268). -/
def putStores (g : Nat) (b : Block) (rels : List (Nat × List Scope × Nat)) : List BStore → State → State
  | [], s => s
  | t :: ts, s => putStores g b rels ts (
    let pts := s.storePts g b rels t.idx
    if t.atomic then s.writeAtomic g t pts ((rels.filter fun r => decide (r.1 = t.idx)).flatMap fun r => r.2.1.map fun sc => ⟨sc, g, r.2.2⟩)
    else s.write t.phys t.bytes pts (some g))

/-- The stores of a block performed in instruction order, its atomics' releases after all that happened before its block (R268, R270, R271). -/
def State.performStores (s : State) (g : Nat) (b : Block) : State :=
  let rels := b.releases ((s.ww g).relScopes ++ b.relScopes) s.free
  let s := rels.foldl (fun s r => s.flow [s.taskPt g] (.rel r.2.2)) { s with free := s.free + rels.length }
  putStores g b rels (b.stores.foldl (fun l x => insertStore x l) []) s

/-- The registers and predicates of a block written (R144, R145). -/
def Woodward.outputs (w : Woodward) (b : Block) : Woodward :=
  let w := b.gw.foldl (fun w p => match p.2 with
    | some v => w.setReg p.1 v
    | none => w) w
  { w with q := b.qw.foldl (fun q p => if p.2 then q ||| (1#16 <<< p.1) else q &&& ~~~(1#16 <<< p.1)) w.q }

/-- The lowest register of the write mask that no executed instruction resolved (R145). -/
def Block.missing (b : Block) : Option Nat :=
  (List.range 64).find? fun k => b.h0.getLsbD k && (nfind b.gw k).isNone

/-- The woodward once its block has committed, with the successor of R170 to R173, R180 and R182. A CALL's LINK stands over an SWR of the
block (DESIGN CHOICE, log entry 89), and a TRET takes the TRAP.BLOCK its own block writes (DESIGN CHOICE, log entry 94). -/
def Woodward.next (w : Woodward) (b : Block) : Woodward :=
  let w := { w with block := none, lastTs := some b.ts, label := none, fetch := b.fall }
  match b.branch with
  | none => w
  | some (.goto a l) => { w with fetch := a.toNat, label := l }
  | some (.call a) => { w with fetch := a.toNat, link := BitVec.ofNat 64 (64 * bits b.fall 19 6) }
  | some .halt => { w with halted := true }
  | some (.trap _ _) => w
  | some .tret => w.leave

/-- The releases that the atomics before an acquire fence of a block have read, in the fence's scope (R271, R274). -/
def State.fenced (s : State) (g : Nat) (b : Block) : List Rel :=
  let read := (s.ww g).readRel ++ b.pend.flatMap fun p => match p.2 with
    | .readRel l => l
    | _ => []
  b.pend.flatMap fun p => match p.2 with
    | .fence _ true sc => read.filter fun r => s.inScope sc g r.glade
    | _ => []

/-- Whether a commit of the block acquires (R274, R275). -/
def State.acquires (s : State) (g : Nat) (b : Block) : Bool := (b.pend.any fun p => decide (p.2 = .acquire)) || decide (s.fenced g b ≠ [])

/-- The acquires of a block take effect: what they are after is before the tasks that come (R274, R275). -/
def State.takeAcquires (s : State) (g : Nat) (b : Block) : State :=
  s.flow (((b.pend.filter fun p => decide (p.2 = .acquire)).map fun p => .acq g p.1) ++ (s.fenced g b).map fun r => .rel r.id) (s.taskPt g)

/-- The issued counts of the timelines of a glade (R43). -/
def Engines.issuedAt (e : Engines) : List (Nat × Nat) := e.tls.map fun t => (t.1, t.2.issued)

/-- The block of a glade commits with its checked orders: stores, registers, tables, orders on their way, aborts, successor, trap
(R144, R180, R268, R275, R286). -/
def State.commitBlock (s : State) (g : Nat) (b : Block) (orders : List (Nat × Nat × Nat × QEntry)) : State :=
  let mark := (s.eng g).issuedAt
  let peers := s.peers g
  let changed := (b.stores.flatMap fun t => sectors t.phys t.bytes.length) ++ b.actions.flatMap fun p => s.changes g p.2
  let acq := s.acquires g b
  let hit (r : List Sect) : Bool := if acq then !r.isEmpty else r.any fun x => decide (x ∈ changed)
  let s := b.reads.foldl (fun s r => match r with
    | .mem k => s.touch (128 * k) 128
    | .tbl .. => s) s
  let s := ((((s.takeAcquires g b).endAcquires g).performStores g b).flow [s.taskPt g] (.task (s.home g)))
  let s := s.modWw g fun w => { w with markAt := mark }.outputs b
  let s := (applyPends g b.actions s).modWw g fun w => w.next b
  let s := s.sendOrders g b.ts orders
  let s := (abortReaders b.ts g hit peers s).perf g 3 1
  match b.branch with
  | some (.trap c v) => s.take g c v b.fall false
  | some .tret => s.modTh g fun t => { t with stopped := ((s.ww g).pending ++ (s.ww g).raised).any (·.th) }
  | _ => s

/-- A commit of a seed instruction whose walker must write to the backing waits for the sectors that another glade's atomic holds (R263, R354, R364). -/
def State.walkerWaits (s : State) (g : Nat) (b : Block) : Bool := b.pend.any fun p => match p.2 with
  | .seed op args =>
    let k := (args[0]?).getD 0
    if op = 0x110 then s.backingHeld g (Seed.opened (s.ctxOf g) [] args) else op ≠ 0x112 && s.backingHeld g (s.seed (dieOf g) k)
  | _ => false

/-- A forced cancel that names a glade's launch, its unit or its job has committed: no block of it commits any more (R394). -/
def State.cancelDue (s : State) (g : Nat) : Bool := match s.place g with
  | none => false
  | some p => ((s.die p.die).cancels.any fun c => decide (c.1 = p.launch)) || (s.job p.ctx).ending
    || ((s.launch p.die p.launch).map fun l => l.unitCancel.contains (p.upos, false)).getD false

/-- BLOCK_COMMIT: a quiescent block resolves its outputs, waits for the frontier, for room and for the sectors it stores to that another block's atomic holds, has its
descriptors checked, and commits (R145, R263, R267, R286, R287). -/
def execBlockCommit (g : Nat) (s : State) : Outcome :=
  match s.block g with
  | none => .next s
  | some b =>
    if b.quiescent = false then .next s
    else match b.missing with
      | some k => .next (s.blockFault g 0x007 k)
      | none =>
        if b.effects ≠ b.socount then .next (s.blockFault g 0x009 (b.effects + 256 * b.socount))
        else if s.frontier g = false ∨ s.cancelDue g = true ∨ (s.lack g).isSome ∨ (b.stores.any fun t => s.heldRange g t.phys t.bytes.length) = true ∨ s.walkerWaits g b = true then .next s
        else match s.orderEntries g b.actions with
          | .error (c, v) => .next (s.blockFault g c v)
          | .ok os => .next (s.commitBlock g b os)

/-! ## Bounded waits (R158, R287, R341) -/

/-- The key under which a block's `waits` count the cy it waits for room (R287). -/
def roomWait : Nat := 256

/-- One more cy of waiting for the instructions of a glade's block that wait (R158), and for its orders (R287). -/
def State.countWaits (s : State) (g : Nat) : State :=
  match s.block g with
  | none => s
  | some b =>
    let ws := (b.stalled ++ b.waits.map (·.1)).eraseDups.filter fun i => decide (i ∉ b.done) && isWait (wordOpcode (b.word i))
    let room : List Nat := if b.quiescent && (s.lack g).isSome then [roomWait] else []
    s.modBlock g fun b => { b with waits := (ws ++ room).foldl (fun m i => nmod 0 m i (· + 1)) b.waits }

/-- WAIT_TIMEOUT: a waiting instruction has waited WAITLIM cy (R158). -/
def execWaitTimeout (g idx : Nat) (s : State) : Outcome :=
  match s.block g with
  | none => .next s
  | some b => if (s.ww g).waitlim ≤ nget 0 b.waits idx ∧ isWait (wordOpcode (b.word idx)) ∧ idx ∉ b.done then .next (s.blockFault g 0x011 idx) else .next s

/-- ORDER_STALL: a block has waited WAITLIM cy for room in a queue (R287). -/
def execOrderStall (g : Nat) (s : State) : Outcome :=
  match s.block g, s.lack g with
  | some b, some (q, i) => if (s.ww g).waitlim ≤ nget 0 b.waits roomWait then .next (s.blockFault g 0x017 (q + 8 * i)) else .next s
  | _, _ => .next s

/-- WALK_COMPLETE: the oldest walk of a glade ends with its leaf in the caches, or with a fault for the access that waits (R250); it waits for a sector that
an atomic holds (R263). -/
def execWalkComplete (g : Nat) (s : State) : Outcome :=
  match (s.glade g).walks with
  | [] => .next s
  | w :: _ =>
    if s.walkHeld w.ctx w.va then .next s
    else
    let s := s.modGlade g fun x => { x with walks := x.walks.drop 1 }
    match s.fillWalk g w.ctx w.va with
    | (s, none) => .next s
    | (s, some c) => .next (s.modGlade g fun x => { x with walkFaults := x.walkFaults ++ [(w.ctx, w.va, c)] })

/-- SLOT_ANSWER_TIMEOUT: the requests of a glade's block to other packages that have had no answer for 100 µs are answered NOLINK
(R341, R342). -/
def execSlotAnswerTimeout (g : Nat) (s : State) : Outcome :=
  .next (s.modBlock g fun b =>
    let late := b.asked.filter fun x => decide (x.2 + 756000000 ≤ s.wall) && (nfind b.answers x.1).isNone
    { b with answers := late.foldl (fun m x => nset m x.1 8) b.answers })

end Sys2Proof.Machine
end

