-- ==== Sys2Proof/Machine/Thicket.lean ====
section
/-! DEFINITION. The thicket at work: landings and stream-out (R66, R191, R193, R195, R226, R456), the context cycle from its holds to its end (R63 to R67,
R194, R196, R413), AG requests at memory (R213), and the end of a run entry (R62). -/

namespace Sys2Proof.Machine

/-! ## Landings -/

/-- The stores and atomics that AG elements of a unit's glades issued before a time have been performed (R226). -/
def State.releasedAt (s : State) (g t : Nat) : Bool :=
  (s.unitGlades g).all fun h => (s.th h).elems.all fun e => e.2.agOut.all fun r => decide (r.kind = .load) || decide (t ≤ r.issued)

/-- A flight lands in this context cycle (R66, R226). -/
def Flight.lands (f : Flight) (cnt : Nat) (ok : Nat → Bool) : Bool :=
  decide (f.land ≤ cnt) && (match f.rel with
    | some t => ok t
    | none => true)

/-- A result lands in the register of an element at a counter value (R191): it goes to the stream-out port too with dest RSO; it is lost where the result of a
later issue has landed there in the same context cycle. -/
def Thicket.land (t : Thicket) (cnt i issued : Nat) (v : Val) (rso : Bool) : Thicket :=
  let e := nget {} t.elems i
  if e.landed = some cnt ∧ issued < e.resAt then t
  else
    let key := 16 * (cnt - i % 16) + i % 16
    { t with elems := nset t.elems i { e with res := v, landed := some cnt, resAt := issued }
             stems := nmod {} t.stems (i / 16) fun x => { x with so := if rso then nset x.so key v else ndel x.so key } }

/-- The landings of one element (R66, R191, R193, R226). -/
def landElem (cnt : Nat) (ok : Nat → Bool) (t : Thicket) (i : Nat) : Thicket :=
  let e := nget {} t.elems i
  let t := (e.flight.filter fun f => f.lands cnt ok).foldl (fun t f => t.land cnt i f.issued f.val f.rso) t
  { t with elems := nmod {} t.elems i fun y => { y with flight := e.flight.filter fun f => !f.lands cnt ok } }

/-- The staged values of a stem whose count is complete (R193). -/
def Stem.staged (x : Stem) (cnt : Nat) : List (Nat × Val) := x.so.filter fun p => decide (p.1 / 16 + 15 ≤ cnt)

/-- The stream-out port of a stem takes the landings of every complete count in row order: idle values are dropped, a chain that is refused raises
its cause and stops the thicket, a full port leaves the rest (R193, R196, R327, R456). -/
def emitStaged (g st : Nat) : List (Nat × Val) → State → State
  | [], s => s
  | (key, v) :: t, s =>
    let drop (s : State) : State := s.modTh g fun t => t.modStem st fun x => { x with so := ndel x.so key }
    if v.valid = false then emitStaged g st t (drop s)
    else match s.emitBad g st (240 + st) with
      | some (c, w) => (s.modTh g fun t => { t with stopped := true }).asyncFault g c w true (2 ^ 29 + 16 * st)
      | none =>
        if outRoom ≤ (nget {} (s.eng g).souts st).out.length then s
        else
          let n := ((s.th g).stem st).soCnt
          let m : Mote := { data := v.data, rill := BitVec.ofNat 5 st, edm := v.edm, residue := v.residue, route := BitVec.ofNat 8 (240 + st)
                            seq := BitVec.ofNat 16 n, err := v.err, last := v.last, rels := v.rels }
          let s := (drop s).modTh g fun t => t.modStem st fun x => { x with soCnt := n + 1 }
          let x := s.sentBy g st (16 * key + st) (240 + st) m
          emitStaged g st t (s.modEng g fun e => { e with souts := nmod {} e.souts st fun o => { o with out := o.out ++ [x] } })

def emitAll (g : Nat) : List Nat → State → State
  | [], s => s
  | st :: t, s =>
    let x := (s.th g).stem st
    emitAll g t (if (s.th g).stopped then s else emitStaged g st (x.staged (s.th g).cnt) s)

/-- RESULT_LAND: every result of a glade that lands in this context cycle reaches its register (R66, R191), and the stream-out ports emit
(R193, R456). -/
def execResultLand (g : Nat) (s : State) : Outcome :=
  let t := s.th g
  if t.stopped then .next s
  else
    let ok := s.releasedAt g
    .next (emitAll g (List.range 16) (s.modTh g fun t => (t.elems.map (·.1)).foldl (landElem t.cnt ok) t))

/-- A fern result of a stem lands (R195): it takes the place of the row's older ones, and the requester's register unless its dest is DIS. -/
def Thicket.landFern (t : Thicket) (cnt st : Nat) (y : FernEnt) : Thicket :=
  let t := t.modStem st fun x => { x with fern := (x.fern.filter fun e => !(e.landed && decide (e.row = y.row)) && decide (e ≠ y)) ++ [{ y with landed := true }] }
  if y.res then t.land cnt (16 * st + y.row) y.issued y.val y.rso else t

/-- The fern results of a stem that land in this context cycle, in the order of their issue (R195). -/
def landFerns (cnt : Nat) (t : Thicket) (st : Nat) : Thicket :=
  ((t.stem st).fern.filter fun e => !e.landed && decide (e.land ≤ cnt)).foldl (fun t y => t.landFern cnt st y) t

/-- FERN_RESULT_LAND: the fern results of a glade that land in this context cycle (R68, R195). -/
def execFernResultLand (g : Nat) (s : State) : Outcome :=
  if (s.th g).stopped then .next s
  else .next (s.modTh g fun t => (List.range 16).foldl (landFerns t.cnt) t)

/-! ## The context cycle -/

/-- What a landing due in this context cycle still waits for: a release, or room in a stream-out port (R196). -/
def Thicket.overdue (t : Thicket) : Bool :=
  (t.elems.any fun e => e.2.flight.any fun f => decide (f.land ≤ t.cnt)) || t.stems.any fun x => x.2.staged t.cnt ≠ []

/-- What row 0 of a stem misses in this context cycle (R67, R126, R194): whether its hold bit is met, and TRAP.VALUE of PORT_EMPTY where the bit is 0. A RILL.IN of a TORN rill
waits for no mote: it faults (R229). -/
def Bough.row0 (b : Bough) (st : Nat) : Bool × Option Nat :=
  let t := b.th
  let x := t.stem st
  let c := t.cnt
  let w := (x.opAt c).toNat
  let rt := x.rtAt c
  let quiet := clsQuiet (x.clsAt 0)
  let join := decide (clsOf (x.clsAt 0) = 3)
  let lines := [bits rt 15 12, bits rt 11 8, bits rt 7 4]
  let miss (code : Nat) : Bool := isStream code && !(quiet && decide (code = 8)) && !b.ready st code
  let rillIn := decide (opCodeOf w = 0x68) && decide (opDest w ≠ 3)
  let r := w % 32
  let noRill := rillIn && !(b.eng.rill r).port.present && decide ((b.eng.rill r).status ≠ 1)
  if bit (x.tapAt c) 15 then
    (!join && (lines ++ [bits rt 3 0]).any miss || noRill, none)
  else
    let read := (if join then [bits rt 7 4] else lines) ++ if opDest w = 3 ∧ quiet = false then [bits rt 3 0] else []
    match read.find? miss with
    | some code => (false, some (st + 16 * code))
    | none => (false, if noRill && !quiet then some (st + 2 ^ 8 + 2 ^ 9 * r) else none)

/-- The elements that issue in a context cycle: rows in order, and stems ascending in a row (R229, R230). -/
def Thicket.issuing (t : Thicket) : List (Nat × Nat) :=
  ((List.range 16).filter fun k => t.issues k).flatMap fun k => (List.range 16).map fun st => (st, k)

/-- The counter advances by 1 (R63). -/
def State.advance (s : State) (g : Nat) : State := (s.modTh g fun t => { t with cnt := t.cnt + 1, sent := [] }).perf g 0 1

/-- CONTEXT_CYCLE: the counter of a glade stays where a hold is in force (R63, R67, R196), advances where nothing issues, and otherwise the elements
of this context cycle begin to issue, row 0 of each stem with PORT_EMPTY where what it reads is not there (R194). The counter of 40 bits does not pass its
largest value (R382, R383) (DESIGN CHOICE, log entry 77). -/
def execContextCycle (g : Nat) (s : State) : Outcome :=
  let b := s.bough g
  let t := b.th
  if s.cyc.isSome || !b.ww.started || t.stopped || decide (2 ^ 40 - 1 ≤ t.cnt) then .next s
  else if t.overdue then .next (s.perf g 2 1)
  else if t.issuing = [] then .next (s.advance g)
  else
    let row0 := if t.issues 0 then (List.range 16).map fun st => (st, b.row0 st) else []
    if row0.any fun x => x.2.1 then .next (s.perf g 1 1)
    else
      let faults := row0.filterMap fun x => x.2.2.map fun v => (⟨x.1, 0, 0x082, v⟩ : CycFault)
      .next { s with cyc := some { glade := g, todo := t.issuing, saved := b, life := s.pk.life, faults := faults } }

/-- The element that issues next: its focus, its lines entered or, where it is quiet, its lanes taken; and the op word it issues, none where it is
quiet (R64, R65, R126), and none for a row 0 that found a port empty: it does not issue (R194). -/
def State.nextElement (s : State) (c : Cyc) (st k : Nat) : State × Option (BitVec 24) :=
  let s := { s with focus := { glade := c.glade, stem := st, row := k } }
  let x := s.stemF
  let pop (s : State) : State := s.modCyc fun y => { y with todo := y.todo.drop 1 }
  if k = 0 ∧ (c.faults.any fun f => decide (f.stem = st ∧ f.row = 0 ∧ f.cause = 0x082)) = true then (pop s, none)
  else if clsQuiet (x.clsAt k) then
    let rt := x.rtAt s.countF
    (pop (takeQuiet c.glade st k [bits rt 15 12, bits rt 11 8, bits rt 7 4] s), none)
  else (pop s.enterLines, some (x.opAt s.countF))

/-- The faults of a context cycle by ascending stem and row (R410). -/
def insertFault (x : CycFault) : List CycFault → List CycFault
  | [] => [x]
  | y :: t => if 16 * x.stem + x.row < 16 * y.stem + y.row then x :: y :: t else y :: insertFault x t

/-- Thicket faults delivered in order (R410, R411, R413). A missing sampler key ends the run entry FAULTED (R201, R290). -/
def raiseFaults (g : Nat) : List CycFault → State → State
  | [], s => s
  | f :: t, s =>
    let s := if f.cause = 0x088 then s.modBough g (·.stopRun 2) else s
    let s := if f.cause = 0x083 then s.life 1 g 1 else s
    raiseFaults g t (s.asyncFault g f.cause f.value true (2 ^ 29 + 16 * f.stem + f.row))

/-- The glade after a context cycle that a full rill buffer held: the motes that went into the buffers before stay there, and their elements will not send them again
(R196, R230). -/
def State.keepSent (s : State) (c : Cyc) (now : Bough) : State :=
  s.modBough c.glade fun b => { b with
    th := { b.th with sent := c.sent }
    eng := { b.eng with rills := now.eng.rills.map fun r => (r.1, { b.eng.rill r.1 with oseq := r.2.oseq, ostream := r.2.ostream }) } }

/-- The glade as it stood before a context cycle that took no effect (R196, R413). Walks that began go on. -/
def State.withhold (s : State) (c : Cyc) : State :=
  let s := s.modBough c.glade fun b => { b with
    eng := c.saved.eng, th := c.saved.th, ww := { b.ww with perf := nset b.ww.perf 15 (nget 0 c.saved.ww.perf 15) } }
  { s with pk := { s.pk with life := c.life } }

/-- The end of a context cycle (R63, R67, R196, R413): an internal hold, or the hold of a tap word, undoes it and it is made again; a fault other than CONV_MODE withholds it and
stops the counter; otherwise the counter advances, and CONV_MODE stops it then. -/
def State.endCycle (s : State) (c : Cyc) : State :=
  let g := c.glade
  let s := { s with cyc := none }
  let fs := c.faults.foldl (fun l x => insertFault x l) []
  if c.hold then
    let u := (s.withhold c).perf g 2 1
    if c.full && decide (fs = []) then u.keepSent c (s.bough g) else u
  else if c.tapHold then (s.withhold c).perf g 1 1
  else if fs.any fun f => decide (f.cause ≠ 0x087) then
    raiseFaults g (fs.filter fun f => decide (f.cause ≠ 0x087))
      (((s.withhold c).modTh g fun t => { t with stopped := true }).modGlade g fun x => { x with walkFaults := [] })
  else
  let s := s.flow c.got (.op (s.runUid g))
  if fs = [] then s.advance g
  else raiseFaults g fs ((s.advance g).modTh g fun t => { t with stopped := true })

/-! ## AG requests at memory (R213, R241, R243, R263) -/

/-- An element's requests changed. -/
def State.modAg (s : State) (g st k : Nat) (f : Elem → Elem) : State := s.modTh g fun t => t.modElem st k f

/-- The owner check of a request at its access (R214, R241). -/
def State.agOwned (s : State) (r : AgReq) : Bool :=
  match r.key with
  | some k => decide (s.owner ((r.phys - hbmAt) / 65536) = some k)
  | none => true

/-- A load of an AG element is after a write (R213, R270): its own, or one before its issue. -/
def AgReq.after (r : AgReq) (agent : Nat) (e : Unseen) : Bool := decide (e.agent = agent) || decide (e.num < r.asOf ∧ e.num ∉ r.blind)

/-- What a store or an atomic of an AG element is before (R226, R277): the retirement of its run, and the releases of BND.REL that wait for it. -/
def AgReq.before_ (r : AgReq) : List Point := .out r.uid :: r.rels.map .rel

/-- AG_REPLY: the oldest request of an AG element, a load or a performed atomic, puts its reply into the element's reply queue (R212, R213). -/
def execAgReply (g st k : Nat) (s : State) : Outcome :=
  match ((s.th g).elem st k).agOut with
  | [] => .next s
  | r :: _ =>
    let reply (w : Word) (err : Bool) : State := s.modAg g st k fun e =>
      { e with agOut := e.agOut.drop 1, agRep := e.agRep ++ [{ Val.ofWord w with edm := r.edm, last := r.last, err := err }] }
    match r.kind with
    | .store => .next s
    | .atom _ _ => match r.old with
      | some w => .next (reply w r.bad)
      | none => .next s
    | .load =>
      if s.heldSector 512 r.phys then .next s
      else if s.agOwned r = false then .next ((s.modAg g st k fun e => { e with agOut := e.agOut.drop 1 }).asyncFault g 0x101 r.gaddr true)
      else .next ((reply (BitVec.ofNat 64 (ofBytes (s.view g (r.after (agAgent g st k)) r.phys r.size))) (s.bad r.phys r.size)).hbmRead r.phys r.size |>.touch r.phys r.size)

/-- The function of AG.ATOM on values of `w` bits (R212). -/
def agFn (op : AgOp) (w old r : Nat) : Nat :=
  match op with
  | .add => (old + r) % 2 ^ w
  | .mins => minMax .mins w old r
  | .maxs => minMax .maxs w old r
  | .minz => minMax .minz w old r
  | .maxz => minMax .maxz w old r
  | .and => old &&& r
  | .or => old ||| r
  | .xchg => r

/-- AG_STORE_PERFORMED: the oldest request of an AG element, a store or an atomic, is performed (R212, R213). -/
def execAgStorePerformed (g st k : Nat) (s : State) : Outcome :=
  match ((s.th g).elem st k).agOut with
  | [] => .next s
  | r :: t =>
    if s.heldSector 512 r.phys then .next s
    else if r.kind ≠ .load ∧ s.agOwned r = false then
      .next ((s.modAg g st k fun e => { e with agOut := e.agOut.drop 1 }).asyncFault g 0x101 r.gaddr true)
    else match r.kind with
      | .load => .next s
      | .store => .next ((s.write r.phys (toBytes r.size r.operand.toNat) r.before_ none (agAgent g st k)).modAg g st k fun e => { e with agOut := t })
      | .atom op _ => match r.old with
        | some _ => .next s
        | none =>
          let old := s.num r.phys r.size
          let new := agFn op (8 * r.size) old (r.operand.toNat % 2 ^ (8 * r.size))
          let heads := s.rels
          let t' := s.served g r.gaddr r.phys r.size
          .next (({ t'.write r.phys (toBytes r.size new) r.before_ none (agAgent g st k) with rels := heads }).modAg g st k fun e => { e with agOut := { r with old := some (BitVec.ofNat 64 old), bad := s.bad r.phys r.size } :: t })

/-! ## The end of a run entry (R62) -/

/-- A run is over: row 15 has issued its last count, every result has landed, every request has been performed and every mote delivered,
those of another package accepted there. -/
def Bough.runOver (b : Bough) (r : Run) : Bool :=
  decide (r.first + r.len + 15 ≤ b.th.cnt)
    && (b.th.elems.all fun e => e.2.flight.isEmpty && e.2.agOut.isEmpty)
    && (b.th.stems.all fun x => x.2.so.isEmpty && x.2.fern.all (·.landed))
    && (b.eng.souts.all fun o => o.2.out.isEmpty) && (b.eng.rills.all fun x => x.2.ostream.out.isEmpty)
    && b.eng.away.all fun a => decide (48 ≤ a.2.2)

/-- A run entry that is over finishes OK. -/
def State.settleRun (s : State) (g : Nat) : State :=
  match (s.th g).run with
  | some r => if (s.bough g).runOver r then (s.finishEntry g 3 r.opnum 0).modTh g fun t => { t with run := none } else s
  | none => s

/-- ENTRY_RETIRE: the lowest unretired operation of a timeline retires once it has finished, and releases what it wrote (R61, R62, R271, R277). -/
def execEntryRetire (g q : Nat) (s : State) : Outcome :=
  let s := if q = 3 then s.settleRun g else s
  match (s.eng g).retirable q with
  | some x => .next ((s.releaseEntry g x).modEng g fun e => e.retire x)
  | none => .next s

end Sys2Proof.Machine
end

