-- ==== Sys2Proof/Machine/Motes.lean ====
section
/-! DEFINITION. Motes on their way (R129, R192, R327, R414 to R416, R456, R469): the rill decode port (R86 to R89, R329 to R331), what each sink does
with a mote, and the landing of bytes in zones (R340). -/

namespace Sys2Proof.Machine

/-! ## ZF8 blocks (R87, R88) -/

/-- The code lengths of the exponents under a table (R88). -/
def zfLens (t : Nat) : List Nat :=
  if t = 0 then [4, 4, 4, 4, 4, 4, 4, 4, 4, 4, 4, 4, 4, 4, 4, 4]
  else if t = 1 then [7, 7, 6, 5, 4, 3, 2, 2, 3, 5, 6, 6, 6, 6, 6, 6]
  else if t = 2 then [5, 4, 3, 2, 2, 3, 5, 6, 6, 6, 6, 6, 6, 6, 7, 7]
  else [1, 5, 5, 5, 5, 5, 4, 4, 5, 5, 5, 5, 5, 5, 6, 6]

/-- The exponents in ascending (length, exponent), with their lengths. -/
def zfOrder (t : Nat) : List (Nat × Nat) :=
  (List.range 8).flatMap fun n => (List.range 16).filterMap fun e => if (zfLens t)[e]? = some n then some (n, e) else none

/-- Canonical codes: each the one before plus 1, shifted to its own length (R88): length, code, exponent. -/
def zfAssign : List (Nat × Nat) → Nat → Nat → List (Nat × Nat × Nat)
  | [], _, _ => []
  | (n, e) :: t, len, code => let c := code * 2 ^ (n - len); (n, c, e) :: zfAssign t n (c + 1)

def zfCodes (t : Nat) : List (Nat × Nat × Nat) := zfAssign (zfOrder t) 0 0

/-- Stream bit j of a block (R87). -/
def zfBit (b : List Byte) (j : Nat) : Nat := b2n (((b[16 + j / 8]?).getD 0).getLsbD (j % 8))

/-- One code from stream bit j, of a block whose stream has `lim` bits so far: its exponent and the next bit. -/
def zfOne (cs : List (Nat × Nat × Nat)) (b : List Byte) (lim : Nat) : Nat → Nat → Nat → Nat → Option (Nat × Nat)
  | 0, _, _, _ => none
  | f + 1, j, n, c =>
    if lim ≤ j then none
    else
      let c := 2 * c + zfBit b j
      match cs.find? fun x => decide (x.1 = n + 1 ∧ x.2.1 = c) with
      | some x => some (x.2.2, j + 1)
      | none => zfOne cs b lim f (j + 1) (n + 1) c

/-- The exponents of n elements from stream bit j. -/
def zfRun (cs : List (Nat × Nat × Nat)) (b : List Byte) (lim : Nat) : Nat → Nat → Option (List Nat × Nat)
  | 0, j => some ([], j)
  | n + 1, j => match zfOne cs b lim 7 j 0 0 with
    | some (e, j) => match zfRun cs b lim n j with
      | some (l, j) => some (e :: l, j)
      | none => none
    | none => none

/-- The nibble of element i of a block (R86, R87). -/
def nibble (b : List Byte) (i : Nat) : Nat := let x := ((b[i / 2]?).getD 0).toNat; if i % 2 = 0 then x % 16 else x / 16

/-- The first ZF8 block of a byte string, if it is complete: its length, whether its padding is zero, and its E4M3 elements (R87, R89). -/
def zfBlock (b : List Byte) : Option (Nat × Bool × List Nat) :=
  if b.length < 24 then none
  else
    let lim := 8 * (b.length - 16)
    match zfRun (zfCodes (zfBit b 0 + 2 * zfBit b 1)) b lim 32 2 with
    | none => none
    | some (es, j) =>
      let len := (16 + (j + 7) / 8 + 3) / 4 * 4
      if b.length < len then none
      else
        let ok := (List.range (8 * (len - 16) - j)).all fun i => decide (zfBit b (j + i) = 0)
        some (len, ok, (es.zip (List.range 32)).map fun x =>
          let s := nibble b x.2
          if ok then s / 8 * 128 + x.1 * 8 + s % 8 else 0x7F)

/-! ## The rill decode port (R89, R153, R192, R330, R331) -/

/-- The unit of a decode format at the front of a byte string, if it is complete: bytes used, whether it is well formed, and the decoded words; k is the scale
code of RSC (R330). -/
def decodeUnit (fmt k : Nat) (b : List Byte) : Option (Nat × Bool × List Word) :=
  let sc (x : Nat) : Nat := if k = 255 then nan32 else enc32 ((dec32 x).scale ((k : Int) - 127))
  let pairs (l : List Nat) : List Word := (List.range 16).map fun i => ofLanes (sc (l.getD (2 * i) 0)) (sc (l.getD (2 * i + 1) 0))
  if fmt = 4 then (zfBlock b).map fun z => (z.1, z.2.1, pairs (z.2.2.map fun c => enc32 (decE4 c)))
  else if fmt = 5 then
    if b.length < 17 then none
    else
      let e := ((b[16]?).getD 0).toNat
      some (17, true, pairs ((List.range 32).map fun i => if e = 255 then nan32 else enc32 ((decE2 (nibble b i)).scale ((e : Int) - 127))))
  else
    let n := if fmt = 2 then 4 else if fmt = 3 then 2 else 8
    if b.length < n then none
    else
      let x := leAt b 0 n
      some (n, true, [if fmt = 1 then ofLanes (sc (x % 2 ^ 32)) (sc (x / 2 ^ 32))
        else if fmt = 2 then ofLanes (sc (enc32 (decBf (x % 65536)))) (sc (enc32 (decBf (x / 65536))))
        else if fmt = 3 then ofLanes (sc (enc32 (decE4 (x % 256)))) (sc (enc32 (decE4 (x / 256))))
        else BitVec.ofNat 64 x])

/-- A decoded value enters the port: in the next lane, or with lone decode as a vector of its own (R192, R331). -/
def Rill.pushVal (r : Rill) (v : Val) : Rill :=
  let c := r.cfg.toNat
  if bit c 39 then { r with port := (List.range 16).foldl (fun p i => p.push (if i = bits c 43 40 then v else Val.idle 0 false)) r.port }
  else { r with port := r.port.push v }

/-- The values that wait enter the port in order, as far as it has room (R192, R331). -/
def Rill.pour (r : Rill) : Nat → Rill
  | 0 => r
  | n + 1 => match r.wait with
    | [] => r
    | v :: t => if r.perValue ≤ r.port.room then (({ r with wait := t } : Rill).pushVal v).pour n else r

/-- The scale of the unit that begins now, and the block after it (R153): a format that decodes two elements at a time reads RSC once for each 32. -/
def Rill.scaleFor (r : Rill) (k : Nat) : Nat × Rill :=
  let fmt := bits r.cfg.toNat 63 61
  if fmt = 1 ∨ fmt = 2 ∨ fmt = 3 then
    let c := if r.blk = 0 then k else r.blkScale
    (c, { r with blk := (r.blk + 2) % 32, blkScale := c })
  else (k, r)

/-- The units complete in the bytes that wait are decoded; the answer says whether one was badly formed (R89). -/
def Rill.decode (r : Rill) (k : Nat) (m : Mote) : Nat → Rill × Bool
  | 0 => (r, false)
  | f + 1 =>
    let fmt := bits r.cfg.toNat 63 61
    let sc := r.scaleFor k
    match decodeUnit fmt sc.1 r.part with
    | none => (r, false)
    | some (n, ok, ws) =>
      let r := sc.2
      let mk (w : Word) : Val := { data := w, residue := if fmt = 0 ∨ fmt = 6 then m.residue else mod15 w, edm := m.edm
                                   err := r.partErr || !ok, last := m.last, port := true, seq := m.seq, rels := r.partRels }
      let left := r.part.drop n
      let r : Rill := { r with part := left, partErr := if left = [] then false else m.err, partRels := if left = [] then [] else m.rels, wait := r.wait ++ ws.map mk }
      let x := r.decode k m f
      (x.1, x.2 || !ok)

/-- A mote handed to the decode port of a rill (R330, R469). -/
def State.feedRill (s : State) (d r : Nat) (m : Mote) : State :=
  let x := (s.eng d).rill r
  let k := (nget 0x7F (s.ww d).rsc (bits x.cfg.toNat 59 57)).toNat % 256
  let y := ({ x with part := x.part ++ toBytes 8 m.data.toNat, partErr := x.partErr || m.err, partRels := (x.partRels ++ m.rels).eraseDups } : Rill).decode k m 5
  let s := s.modEng d fun e => { e with rills := nset e.rills r (y.1.pour y.1.wait.length) }
  if y.2 then s.openAsync d 0x0C7 else s

/-! ## Landing zones (R340, R469) -/

/-- Bytes land in a slot of a zone for a key (R340): RESERVED becomes FILLING, and with its last byte FULL, counted into the zone's rill, poisoned if any of its bytes was (R329); the count releases them (R280). Bytes
for a slot whose reservation has ended or whose key differs are discarded. -/
def State.landBytes (s : State) (d zi slot : Nat) (k : SlotKey) (off : Nat) (bs : List Byte) (err : Bool) (before_ : List Point) : State :=
  match (s.eng d).zone zi with
  | none => s
  | some z =>
    let y := z.slotOf slot
    if y.key ≠ k ∨ y.ended = true ∨ ¬(y.st = .reserved ∨ y.st = .filling) ∨ z.ssize < off + bs.length then s
    else
      let fill := y.fill + bs.length
      let full := decide (z.ssize ≤ fill)
      let bad := y.err || err
      let y := { y with st := if full then .full else .filling, fill := fill, err := bad }
      let at_ := burrowAt d (s.glade d).active + z.base + slot * z.ssize
      let s := (s.write (at_ + off) bs before_).modEng d fun e => { e with zones := nset e.zones zi { z with slot := nset z.slot slot y } }
      if full then (s.releaseCount d (z.rillOf slot) fun e => e.overlaps at_ z.ssize).countRill d (z.rillOf slot) z.ssize bad else s

/-- A mote of a ZONE delivery lands: 8 bytes of the slot in progress, and the mote goes to the decode port of the counted rill (R469). -/
def State.landMote (s : State) (d zi : Nat) (k : SlotKey) (m : Mote) (before_ : List Point) : State :=
  match (s.eng d).zone zi with
  | none => s
  | some z => match z.nextSlot k with
    | none => s
    | some i => (s.landBytes d zi i k (z.slotOf i).fill (toBytes 8 m.data.toNat) m.err before_).feedRill d (z.rillOf i) m

/-! ## Sinks (R192, R327) -/

/-- A mote as a port's value (R189). -/
def Mote.val (m : Mote) : Val :=
  { data := m.data, residue := m.residue, edm := m.edm, err := m.err, last := m.last, port := true, seq := m.seq, rels := m.rels }

/-- A mote that enters a stream or side port: the last of a stream closes its vector (R192). -/
def Port.accept (p : Port) (m : Mote) : Port :=
  let p := p.push m.val
  if m.last then p.close 15 else p

/-- The sideband of a mote that goes to another package as data, in the place of its flit's offset (DESIGN CHOICE, log entry 31). -/
def Mote.side (m : Mote) : Nat := b2n m.err + 2 * b2n m.last + 16 * m.edm.toNat + 256 * m.residue.toNat + 65536 * m.seq.toNat

/-- The mote that such a flit carries. -/
def moteOf (rill side : Nat) (w : Word) : Mote :=
  { data := w, rill := BitVec.ofNat 5 rill, residue := BitVec.ofNat 4 (bits side 11 8), edm := BitVec.ofNat 4 (bits side 7 4), err := bit side 0, last := bit side 1
    seq := BitVec.ofNat 16 (bits side 31 16) }

/-- A sink takes one mote of glade `g` (R192, R327, R330, R456, R469): `n` is its number in its stream, `tl` and `op` the entry that sent it, `c` its stream, and its write
is before some points. -/
def State.sink (s : State) (g w : Nat) (m : Mote) (n tl op c : Nat) (before_ : List Point) : State :=
  let d := bits w 59 51
  let kind := bits w 62 60
  let st := bits w 41 38
  if kind = 0 then s.modBough d fun b => b.modPort st 5 fun p => p.accept m
  else if kind = 1 then s.modBough d fun b => b.modPort st 6 fun p => p.push { m.val with port := false }
  else if kind = 2 then s.modBough d fun b => b.modPort st 9 fun p => p.accept m
  else if kind = 3 then
    let off := bits w 19 0 + 8 * n
    if 2 ^ 20 < off + 8 then s.entryFault g tl op 0x041 (spBase .loc + off)
    else if (s.eng d).zoneHit off 8 then s.entryFault g tl op 0x045 (spBase .loc + off)
    else s.write (burrowAt d (s.glade d).active + off) (toBytes 8 m.data.toNat) before_
  else if kind = 4 then (s.countRill d (bits w 42 38) 8 m.err).feedRill d (bits w 42 38) m
  else if bits w 50 43 = s.self then s.landMote d st ⟨s.self, g, bits w 28 24⟩ m before_
  else match s.linkTo (bits w 50 43) with
    | some l =>
      let s := (s.noteSent g (bits w 50 43)).sendFlit l 1 (toBytes 2 g ++ toBytes 1 (bits w 28 24) ++ toBytes 1 st ++ [0xFF, 0] ++ toBytes 2 8 ++ toBytes 4 m.side
        ++ List.replicate 16 0 ++ toBytes 8 m.data.toNat ++ List.replicate 192 0)
      s.modEng g fun e => { e with away := e.away ++ [(l, (s.link l).lastSeq, c)] }
    | none => s

/-- Whether bytes for a slot of a zone, or a mote of a ZONE delivery (slot 0xFF), can land now: neither the key nor the counted rill is held (R319), and a mote finds a RESERVED
slot and room in the decode port (R469); in a quiesced glade only a tile that has begun lands (R421). -/
def State.canLand (s : State) (g zi slot : Nat) (k : SlotKey) : Bool :=
  if slot = 0xFF then decide (0 < s.zoneTakes g zi k false)
  else !s.keyHeld g zi k && (match (s.eng g).zone zi with
    | some z => (!s.frozen g || decide ((z.slotOf slot).st = .filling)) && !s.rillHeld g (z.rillOf slot) && !s.heldRange 512 (burrowAt g (s.glade g).active + z.base + slot * z.ssize) z.ssize
    | none => true)

/-- Whether a link to a package is up and can take a flit now: the partner withholds the credit of what finds no RESERVED slot there, and the flits behind wait here (R451, R469). -/
def State.linkRoom (s : State) (pkg : Nat) : Bool :=
  match s.linkTo pkg with
  | some l => decide ((s.link l).queue = []) && !(s.link l).full
  | none => false

/-- Whether a sink can take one more mote of stream `c` (R192, R415, R469): a ZONE entry of another package while the link has room, and less than 256 motes of the stream are on
their way. -/
def State.canTake (s : State) (g w c : Nat) : Bool :=
  if bits w 62 60 = 5 ∧ bits w 50 43 ≠ s.self then
    s.linkRoom (bits w 50 43) && decide (((s.eng g).away.filter fun a => decide (a.2.2 = c)).length < 256)
  else decide (0 < s.sinkRoom g w)

def sinkAll (g : Nat) (m : Mote) (n tl op c : Nat) (before_ : List Point) : List Nat → State → State
  | [], s => s
  | w :: t, s => sinkAll g m n tl op c before_ t (s.sink g w m n tl op c before_)

/-! ## Streams (R193, R230, R414, R415) -/

/-- The outgoing stream of a glade by its code: 0 to 15 the stream-out ports, 16 + r the rills. -/
def Engines.ostream (e : Engines) (c : Nat) : OutStream := if c < 16 then nget {} e.souts c else (e.rill (c - 16)).ostream

def Engines.modOstream (e : Engines) (c : Nat) (f : OutStream → OutStream) : Engines :=
  if c < 16 then { e with souts := nmod {} e.souts c f } else { e with rills := nmod {} e.rills (c - 16) fun r => { r with ostream := f r.ostream } }

/-- The number of the first waiting mote in its stream: the stream-out port counts from the start pulse (R456). -/
def State.firstNum (s : State) (g c : Nat) : Nat :=
  let o := (s.eng g).ostream c
  if c < 16 then ((s.th g).stem c).soCnt - o.out.length else (((s.eng g).rill (c - 16)).oseq - BitVec.ofNat 16 o.out.length).toNat

/-- A mote fails a check of what it passes through (R129, R414): its residue field, or an edm above 8. -/
def Mote.wrong (m : Mote) : Bool := m.valid && (decide (m.residue ≠ mod15 m.data) || decide (8 < m.edm.toNat))

/-- A mote that leaves its source with err 0 and fails a check: it is damaged in transit (R415). -/
def Mote.damaged (m : Mote) : Bool := !m.err && m.wrong

/-- The glades of this package among the sinks of a mote's words. -/
def State.sinkGlades (s : State) (ws : List Nat) : List Nat :=
  (ws.filter fun w => decide (bits w 62 60 ≠ 5 ∨ bits w 50 43 = s.self)).map fun w => bits w 59 51

/-- A sink's rill becomes ERR once a mote has been re-injected four times (R415); a rill that a block holds does so after the hold (R319). -/
def State.sinkErr (s : State) (g w : Nat) : State :=
  let d := bits w 59 51
  let late (r : Nat) : State := (s.modEng d fun e => { e with lateErr := e.lateErr ++ [r] }).settleTears
  if bits w 62 60 = 4 then late (bits w 42 38)
  else if bits w 62 60 = 5 ∧ bits w 50 43 = s.self then
    match ((s.eng d).zone (bits w 41 38)).bind fun z => (z.nextSlot ⟨s.self, g, bits w 28 24⟩).map z.rillOf with
    | some r => late r
    | none => s
  else s

/-- A failure of a mote's check, counted at the glades of its sinks: 1 residue mismatches, 2 route mismatches (R407, R414). -/
def State.failed (s : State) (ws : List Nat) (item : Nat) : State := (s.sinkGlades ws).foldl (fun s d => s.life item d 1) s

/-- Motes for some sinks were damaged in transit (R414, R415): the failure is counted, and they are sent again, or after four re-injections without acceptance the source raises
REPLAY_EXHAUSTED and the sinks' rills become ERR. `tries` counts the re-injections, and `put` sets the count. -/
def State.resend (s : State) (g item rill seq tries rank : Nat) (ws : List Nat) (put : Nat → State → State) : State :=
  let s := s.failed ws item
  if tries < 4 then (put (tries + 1) s).life 3 g 1
  else (put 5 (ws.foldl (fun s w => s.sinkErr g w) s)).asyncFault g 0x086 (rill + 2 ^ 16 * seq) false rank

/-- The first mote of a stream has failed a check in transit (R414, R415). -/
def State.reinject (s : State) (g c item : Nat) : State :=
  let o := (s.eng g).ostream c
  match o.out with
  | [] => s
  | m :: _ =>
    s.resend g item m.mote.rill.toNat m.mote.seq.toNat o.tries (2 ^ 28) (m.words.map (s.routeOf g)) fun n s =>
      s.modEng g fun e => e.modOstream c fun o => { o with tries := n }

/-- The first mote of a stream reaches its sinks, once every entry of its chain can take it (R327), unless it fails a check on its way (R414, R415). One that left its source
with err 1 is delivered all the same (R416). -/
def State.sendHead (s : State) (g c : Nat) : State :=
  let o := (s.eng g).ostream c
  match o.out with
  | [] => s
  | m :: _ =>
    let ws := m.words.map (s.routeOf g)
    if 4 < o.tries ∨ (ws.all fun w => s.canTake g w c) = false then s
    else if m.mote.damaged then s.reinject g c 1
    else
      let op := (((s.th g).run).map (·.opnum)).getD 0
      let s' := if m.mote.wrong then s.failed ws 1 else s
      sinkAll g m.mote (s.firstNum g c) 3 op c [.out m.uid] ws (s'.modEng g fun e => e.modOstream c fun o => { out := o.out.drop 1, tries := 0 })

/-- Whether another rill still has a mote of the same count that was issued before the first of this rill (R230). -/
def Engines.laterThan (e : Engines) (c : Nat) : Bool :=
  decide (16 ≤ c) && match (e.ostream c).out with
    | [] => false
    | m :: _ => e.rills.any fun r => decide (r.1 + 16 ≠ c ∧ r.2.ostream.tries ≤ 4) && r.2.ostream.out.any fun x => decide (x.ord / 256 = m.ord / 256 ∧ x.ord < m.ord)

def sendHeads (g : Nat) : List Nat → State → State
  | [], s => s
  | c :: t, s => sendHeads g t (if (s.eng g).laterThan c then s else s.sendHead g c)

def insertByOrd (x : Nat × Nat) : List (Nat × Nat) → List (Nat × Nat)
  | [] => [x]
  | y :: t => if x.2 < y.2 then x :: y :: t else y :: insertByOrd x t

/-- The streams of a glade with a waiting mote, by the order in which their first motes were emitted (R230). -/
def Engines.heads (e : Engines) : List Nat :=
  (((List.range 48).filterMap fun c => (e.ostream c).out.head?.map fun m => (c, m.ord)).foldr insertByOrd []).map (·.1)

/-- MOTE_ARRIVAL: the values that wait enter the decode ports of a glade as room allows (R192), and the first mote of each stream that leaves it reaches its sinks,
those of one count in the order of their issue (R192, R230, R327, R456, R469). -/
def execMoteArrival (g : Nat) (s : State) : Outcome :=
  let s := s.modEng g fun e => { e with rills := e.rills.map fun x => (x.1, x.2.pour x.2.wait.length) }
  .next (sendHeads g (s.eng g).heads s)

end Sys2Proof.Machine
end

