-- ==== Sys2Proof/Machine/Stand.lean ====
section
/-! DEFINITION. The stand (R69 to R75, R101 to R107, R296 to R299, R344, R417): alignment, fires and their sums, A-slot release and freed-slot notices,
and the drains of the hollow tile sets. -/

namespace Sys2Proof.Machine

/-! ## Descriptor fields (R131, R296) -/

def sdMode (d : List Byte) : Nat := leAt d 4 1 % 8
def sdAcc (d : List Byte) : Bool := bit (leAt d 4 1) 3
def sdFinal (d : List Byte) : Bool := bit (leAt d 4 1) 4
def sdSwap (d : List Byte) : Bool := bit (leAt d 4 1) 5
def sdDest (d : List Byte) : Nat := bits (leAt d 4 1) 7 6
def sdRows (d : List Byte) : Nat := leAt d 26 1
def sdKb (d : List Byte) : Nat := leAt d 27 1
def sdFires (d : List Byte) : Nat := leAt d 28 2
def sdSlots (d : List Byte) : Nat := leAt d 30 1
def sdRbase (d : List Byte) : Nat := leAt d 31 1
/-- The burrow offset of A slot i (R296). -/
def sdSlot (d : List Byte) (i : Nat) : Nat := leAt d 16 4 + i * leAt d 20 4

/-- The cy a row occupies the array (R71), which is also the width of an A magnitude (R101, R107). -/
def modeW (mode : Nat) : Nat := if mode = 0 then 4 else if mode = 1 then 16 else if mode = 2 then 32 else 64
/-- Columns of a mode (R69, R106). -/
def modeCols (mode : Nat) : Nat := if mode = 3 then 48 else 192

/-! ## Alignment and sums (R101 to R104, R107) -/

/-- The floor of the base-2 logarithm of a nonzero finite value. -/
def fpLog (m : Nat) (e : Int) : Int := (m.log2 : Int) + e

/-- Element j of a block of 32 in a mode's format (R86, R296). -/
def blockEl (mode : Nat) (b : List Byte) (j : Nat) : Fp :=
  if mode = 0 then
    let k := ((b[16]?).getD 0).toNat
    if k = 255 then .nan else (decE2 (nibble b j)).scale ((k : Int) - 127)
  else if mode = 1 then decE4 (leAt b j 1)
  else decBf (leAt b (2 * j) 2)

/-- An A element that is NaN or infinite (R106). -/
def Fp.special : Fp → Bool
  | .nan => true
  | .inf _ => true
  | .fin _ _ _ => false

/-- The block exponent of A (R101): the largest logarithm of the nonzero elements, 0 if there is none. -/
def blockEA : List Fp → Option Int
  | [] => none
  | .fin _ m e :: t => if m = 0 then blockEA t else match blockEA t with
    | some x => some (max x (fpLog m e))
    | none => some (fpLog m e)
  | _ :: t => blockEA t

/-- |x| × 2^s rounded RNE to an integer. -/
def scaleRound (m : Nat) (e s : Int) : Nat := if 0 ≤ e + s then m * 2 ^ (e + s).toNat else roundShift .rne false 0 m (-(e + s)).toNat

/-- A block of A aligned (R101): EA, the signs and magnitudes, and whether an element is special. -/
def alignA (w : Nat) (xs : List Fp) : Int × List (Bool × Nat) × Bool :=
  let ea := (blockEA xs).getD 0
  (ea, xs.map fun x => match x with
    | .fin n m e => (n, scaleRound m e ((w : Int) - 1 - ea))
    | _ => (false, 0), xs.any Fp.special)

/-- The exact sum of a block (R103, R107). -/
def blockSum : List (Bool × Nat) → List (Bool × Nat) → Int
  | (na, a) :: s, (nb, b) :: t => (if na != nb then -(((a * b : Nat) : Int)) else ((a * b : Nat) : Int)) + blockSum s t
  | _, _ => 0

/-- An accumulator after one block (R103, R104): the exact value is added with one rounding; the stand never produces −0. -/
def accStep (w : Nat) (acc : Nat) (ea eb p : Int) : Nat :=
  let r := enc32 ((dec32 acc).add (.fin (decide (p < 0)) p.natAbs (ea - ((w : Int) - 1) + eb - 7)))
  if r = 0x80000000 then 0 else r

/-- An accumulator after every block of a row and a column, in ascending K (R104, R107). -/
def accBlocks (mode q : Nat) : List (Int × List (Bool × Nat)) → List WBlock → Nat → Nat
  | (ea, a) :: s, b :: t, acc =>
    let p := blockSum a b.el
    accBlocks mode q s t (if mode = 3 then (acc + (p.toNat % q)) % 2 ^ 128 else accStep (modeW mode) acc ea b.eb p)
  | _, _, acc => acc

/-- Row m of an A slot as an operation of the stand fetches it (R101, R106, R153, R276): its aligned blocks and whether it is flagged. -/
def State.standRow (s : State) (g uid : Nat) (d : List Byte) (slot m scale : Nat) : List (Int × List (Bool × Nat)) × Bool :=
  let mode := sdMode d
  let n := kBytes mode
  let at_ := burrowAt g (s.glade g).active + sdSlot d slot + m * leAt d 24 2
  let blocks := (List.range (sdKb d)).map fun kb =>
    let b := s.view g (·.meets [.op uid]) (at_ + n * kb) n
    let poisoned := s.bad (at_ + n * kb) n
    let hit (off len : Nat) : Bool := poisoned && s.bad (at_ + n * kb + off) len
    if mode = 3 then
      ((0 : Int), (List.range 32).map (fun j => (false, if hit (8 * j) 8 then 0 else leAt b (8 * j) 8)), poisoned)
    else
      let xs : List Fp := (List.range 32).map fun j =>
        let bad := if mode = 0 then hit (j / 2) 1 || hit 16 1 else if mode = 1 then hit j 1 else hit (2 * j) 2
        if bad || decide (scale = 255) then .nan else blockEl mode b j
      let r := alignA (modeW mode) xs
      (r.1 + (scale : Int) - 127, r.2.1, r.2.2 || poisoned)
  (blocks.map fun x => (x.1, x.2.1), blocks.any fun x => x.2.2)

/-! ## Tile sets, planes and operations -/

def Stand.set (x : Stand) (i : Nat) : TileSet := if i = 0 then x.set0 else x.set1
def Stand.modSet (x : Stand) (i : Nat) (f : TileSet → TileSet) : Stand := if i = 0 then { x with set0 := f x.set0 } else { x with set1 := f x.set1 }
def Stand.plane (x : Stand) (i : Nat) : Plane := if i = 0 then x.plane0 else x.plane1
def Stand.setPlane (x : Stand) (i : Nat) (p : Plane) : Stand := if i = 0 then { x with plane0 := p } else { x with plane1 := p }
/-- The idle plane (R69). -/
def Stand.idle (x : Stand) : Nat := 1 - x.active

def State.stand (s : State) (g : Nat) : Stand := (s.eng g).stand
def State.modStand (s : State) (g : Nat) (f : Stand → Stand) : State := s.modEng g fun e => { e with stand := f e.stand }

/-- The clock of a glade's die in cy (R454). -/
def State.cyAt (s : State) (g : Nat) : Nat := (s.die (dieOf g)).cy

/-- The set an operation's next fire goes to (R70, R72): the lower-numbered ready one for ANY; a set into which a fire is in progress is not ready, an ACCUM set
too, whose earlier fire must first have completed (DESIGN CHOICE, log entry 64). -/
def Stand.target (x : Stand) (d : List Byte) : Option Nat :=
  let want : TileTag := if sdAcc d then .accum else .empty
  let ok (i : Nat) : Bool := decide ((x.set i).tag = want) && !(x.set i).claim
  if sdDest d = 2 then (if ok 0 then some 0 else if ok 1 then some 1 else none)
  else if ok (sdDest d) then some (sdDest d) else none

/-- The rill of the A slot that fire f of an operation reads (R296, R297). -/
def fireRill (d : List Byte) (f : Nat) : Nat := sdRbase d + f % sdSlots d

/-- The first of the resources 3 to 6 of R74 that a fire of an operation misses. -/
def State.fireLack (s : State) (g : Nat) (d : List Byte) (f : Nat) : Option Nat :=
  let e := s.eng g
  let x := e.stand
  if !(e.rill (fireRill d f)).reached then some 3
  else if (x.target d).isNone then some 4
  else if (x.plane (if sdSwap d ∧ f = 0 then x.idle else x.active)).st ≠ 2 then some 5
  else if s.cyAt g < x.busyUntil then some 6
  else none

/-- An operation leaves its slot and its entry finishes (R297, R290). -/
def State.endOp (s : State) (g opnum status : Nat) : State :=
  (s.modStand g fun x => { x with ops := x.ops.filter fun o => decide (o.2.opnum ≠ opnum) }).finishEntry g 0 opnum status

/-! ## The 128-bit lanes of MM.M64 (R107) -/

/-- Lane n of row m: four adjacent accumulator words, the least significant first (DEDUCED, log entry 63). -/
def laneOf (acc : List (Nat × Nat)) (m n : Nat) : Nat :=
  let at_ (i : Nat) : Nat := nget 0 acc (192 * m + 4 * n + i)
  at_ 0 + 2 ^ 32 * at_ 1 + 2 ^ 64 * at_ 2 + 2 ^ 96 * at_ 3

/-- The accumulators with a lane replaced. -/
def setLane (acc : List (Nat × Nat)) (m n v : Nat) : List (Nat × Nat) :=
  (List.range 4).foldl (fun l i => nset l (192 * m + 4 * n + i) (v / 2 ^ (32 * i) % 2 ^ 32)) acc

/-! ## Fires (R71, R297) -/

/-- The sums of a fire (R101 to R107): the accumulators of its set and the rows it flags. -/
def State.fireSums (s : State) (g uid : Nat) (d : List Byte) (slot q : Nat) (old : TileSet) (p : Plane) : List (Nat × Nat) × List Nat :=
  let mode := sdMode d
  let scale := if mode = 3 then 127 else
    (nget 0x7F (s.ww g).rsc (bits ((s.eng g).rill (sdRbase d + slot)).cfg.toNat 59 57)).toNat % 256
  let base := if sdAcc d then old.acc else []
  let rows := (List.range (sdRows d)).map fun m => (m, s.standRow g uid d slot m scale)
  let acc := rows.foldl (fun l r => ((List.range (modeCols mode)).zip p.cols).foldl (fun l c =>
    if mode = 3 then setLane l r.1 c.1 (accBlocks mode q r.2.1 c.2 (laneOf l r.1 c.1))
    else nmod 0 l (192 * r.1 + c.1) fun a => accBlocks mode q r.2.1 c.2 a) l) base
  (acc, (rows.filter fun r => r.2.2).map (·.1))

/-- Freed-slot notices to the raft streams whose consumer is a glade and whose slots count into one of its rills (R76, R303): the first such stream
that has tiles to start takes it. -/
def State.noticeRaft (s : State) (g r : Nat) : State :=
  let takes (h : Nat) (x : QEntry) : Bool :=
    decide (x.kind = 2 ∧ x.state = 1 ∧ x.issued + x.tiles.length < leAt x.desc 36 4 ∧ leAt x.desc 41 1 ≠ 0xFF ∧ s.consumer h (leAt x.desc 24 8) = g)
      && (if leAt x.desc 42 1 = 1 then decide (leAt x.desc 41 1 ≤ r ∧ r < leAt x.desc 41 1 + leAt x.desc 40 1) else decide (leAt x.desc 41 1 = r))
  let found := (s.unitGlades g).findSome? fun h =>
    (((s.eng h).queue 1 ++ (s.eng h).queue 2).find? (takes h)).map fun x => (h, x)
  match found with
  | some (h, x) => s.modEng h fun e => e.modEntry x.tl x.opnum fun y => { y with notices := y.notices ++ [if leAt x.desc 42 1 = 1 then r - leAt x.desc 41 1 else 0] }
  | none => s

/-- A landing slot with the same base and rill as an A slot is released with it (R340). -/
def State.noticeZone (s : State) (g off r : Nat) : State :=
  match (s.eng g).zones.findSome? fun z =>
    if z.2.valid then (z.2.slot.find? fun x => decide (z.2.base + x.1 * z.2.ssize = off ∧ z.2.rillOf x.1 = r)).map fun x => (z.1, x.1) else none with
  | some (zi, i) => s.slotReleased g zi i
  | none => s

/-- An operation's next fire starts (R71, R297): planes exchange at fire 0 of a plane-swap form, an invalid modulus raises MODULUS_INVALID instead, an active
plane of bad parity flags every row and becomes EMPTY (R417). The fire is after the arrivals that its slot counted (R280). -/
def State.fire (s : State) (g slotNo : Nat) (o : StandOp) : State :=
  let d := o.desc
  let mode := sdMode d
  if mode = 3 ∧ o.modulusOk = false then
    ((s.endOp g o.opnum 2).modStand g fun x => { x with lastSlot := slotNo }).openAsync g 0x015 o.opnum
  else
    let now := s.cyAt g
    let swap := decide (sdSwap d ∧ o.fires = 0)
    let s := if swap then s.modStand g fun x => { x.setPlane x.active {} with active := x.idle } else s
    let x := s.stand g
    let p := x.plane x.active
    match x.target d with
    | none => s
    | some t =>
      let i := o.fires % sdSlots d
      let rows := sdRows d
      let s := (s.flow (s.arrivalPts g (sdRbase d + i)) (.op o.uid)).touch (burrowAt g (s.glade g).active + sdSlot d i) (rows * leAt d 24 2)
      let sums := s.fireSums g o.uid d i o.modulus (x.set t) p
      let span := rows * modeW mode
      let f : Fire := { opnum := o.opnum, off := sdSlot d i, rill := sdRbase d + i, set := t, start := now, span := span, rows := rows
                        fin := sdFinal d, acc := sums.1, nanRows := if p.parity.isSome then List.range 96 else sums.2
                        m64 := if mode = 3 then some o.modulus else none }
      let last := decide (o.fires + 1 = sdFires d)
      let s := s.modStand g fun x => { x.modSet t fun y => { y with
          claim := true, filledBy := if o.opnum ∈ y.filledBy then y.filledBy else y.filledBy ++ [o.opnum]
          uids := if o.uid ∈ y.uids then y.uids else y.uids ++ [o.uid]
          owners := if last then y.owners ++ [o.opnum] else y.owners } with
        ops := nset x.ops slotNo { o with fires := o.fires + 1, readyAt := none }
        fires := x.fires ++ [f], busyUntil := now + span, lastSlot := slotNo }
      let s := match p.parity with
        | none => s
        | some m => (s.modStand g fun x => { x.setPlane x.active {} with
            reload := if p.desc = [] then x.reload else x.reload ++ [(x.active, p.desc, p.src)] }).faultRecord 0x1C3 2 0 (s.ctxOf g) g m x.active
      (s.usage (s.ctxOf g) (3 + mode) (rows * 32 * sdKb d * modeCols mode)).perf g 6 1

/-- When each installed operation became ready (R58). -/
def State.markReady (s : State) (g : Nat) : State :=
  s.modStand g fun x => { x with ops := x.ops.map fun o =>
    let ready := decide (o.2.fires < sdFires o.2.desc) && (match s.fireLack g o.2.desc o.2.fires with
      | none => true
      | some c => decide (c = 6))
    (o.1, { o.2 with readyAt := if ready then some (o.2.readyAt.getD (s.cyAt g)) else none }) }

/-- The slots of the operations that are ready, oldest-ready first, ties round robin after the slot last fired (R58). -/
def Stand.pick (x : Stand) : Option (Nat × StandOp) :=
  let cand := (List.range 4).filterMap fun i =>
    let k := (x.lastSlot + 1 + i) % 4
    match nfind x.ops k with
    | some o => o.readyAt.map fun t => (t, k, o)
    | none => none
  match cand with
  | [] => none
  | c :: t => some (t.foldl (fun b y => if y.1 < b.1 then y else b) c).2

/-- The array would still be busy at the start offset of the timed entry at the head of the stand queue (R75). -/
def State.blocksTimed (s : State) (g : Nat) (d : List Byte) : Bool :=
  match (s.eng g).queue 0 |>.find? fun x => decide (x.state = 0) with
  | some x => x.timed && decide ((s.th g).cnt ≤ x.offset) && decide (x.offset < (s.th g).cnt + sdRows d * modeW (sdMode d))
  | none => false

/-- Operations with a fire to come whose A-slot rill is TORN raise RILL_TORN and finish FAULTED (R344). -/
def tornOps (g : Nat) : List (Nat × StandOp) → State → State
  | [], s => s
  | o :: t, s =>
    let d := o.2.desc
    if o.2.fires < sdFires d ∧ ((List.range (sdSlots d)).any fun i => ((s.eng g).rill (sdRbase d + i)).status = 1) = true
    then tornOps g t ((s.endOp g o.2.opnum 2).openAsync g 0x0C6 o.2.opnum)
    else tornOps g t s

/-- STAND_FIRE: the array is free and the oldest ready operation fires (R58, R70, R71, R75, R344). Where that operation is kept back for the timed entry at the
head of the queue, no other fires in its place (DESIGN CHOICE, log entry 65). A slot whose sectors an atomic holds waits (R263). -/
def execStandFire (g : Nat) (s : State) : Outcome :=
  let s := (tornOps g (s.stand g).ops s).markReady g
  if s.cyAt g < (s.stand g).busyUntil then .next s
  else match (s.stand g).pick with
    | some (k, o) => if s.blocksTimed g o.desc || s.heldRange 512 (burrowAt g (s.glade g).active + sdSlot o.desc (o.fires % sdSlots o.desc)) (slotSpan o.desc) then .next s else .next (s.fire g k o)
    | none => .next s

/-- The release of a fire's A slot waits for a hold on its rill, or on the key of a landing slot that it releases too (R319). -/
def State.releaseHeld (s : State) (g : Nat) (f : Fire) : Bool :=
  s.rillHeld g f.rill || (s.eng g).zones.any fun z => z.2.valid && z.2.slot.any fun x =>
    decide (z.2.base + x.1 * z.2.ssize = f.off ∧ z.2.rillOf x.1 = f.rill) && z.2.holders.contains x.2.key

/-- The fires of a glade that reach a point, one after another. -/
def releaseFires (g : Nat) : List Fire → State → State
  | [], s => s
  | f :: t, s => releaseFires g t (((s.rearm g f.rill).noticeRaft g f.rill).noticeZone g f.off f.rill)

/-- STAND_SLOT_RELEASE: the last A bit-plane of a fire has entered the array; its slot is EMPTY, its rill re-armed, and one notice goes upstream
(R71, R279, R297, R340). -/
def execStandSlotRelease (g : Nat) (s : State) : Outcome :=
  let due (f : Fire) : Bool := !f.released && decide (f.start + f.span ≤ s.cyAt g + 1) && !s.releaseHeld g f
  let fs := (s.stand g).fires.filter due
  .next (releaseFires g fs (s.modStand g fun x => { x with fires := x.fires.map fun f => if due f then { f with released := true } else f }))

/-- A fire reaches its set: sums, flags and tag (R72, R104, R106). -/
def Stand.land (x : Stand) (now : Nat) (f : Fire) : Stand :=
  x.modSet f.set fun y => { y with
    tag := if f.fin then .full else .accum, acc := f.acc, rows := max y.rows f.rows, m64 := f.m64, claim := false
    nanRows := y.nanRows ++ f.nanRows.filter fun m => decide (m ∉ y.nanRows), fullAt := if f.fin then now else y.fullAt }

/-- STAND_FIRE_COMPLETE: the destination's tag changes (R71, R72). -/
def execStandFireComplete (g : Nat) (s : State) : Outcome :=
  let now := s.cyAt g
  let due (f : Fire) : Bool := !f.landed && decide (f.start + f.span + 10 ≤ now)
  .next (s.modStand g fun x => { (x.fires.filter due).foldl (fun x f => x.land now f) x with
    fires := (x.fires.map fun f => if due f then { f with landed := true } else f).filter fun f => !(f.landed && f.released) })

/-! ## Drains (R73, R106, R107, R299, R327) -/

/-- A word of 8 bytes of a tile as it is delivered (R73, R106, R107): two FP32 accumulators of a row, or one residue; of a flagged row two quiet NaNs
whatever the mode. -/
def TileSet.word (y : TileSet) (m i : Nat) : Nat :=
  if m ∈ y.nanRows then nan32 + 2 ^ 32 * nan32
  else match y.m64 with
    | some q => laneOf y.acc m i % q
    | none => nget 0 y.acc (192 * m + 2 * i) + 2 ^ 32 * nget 0 y.acc (192 * m + 2 * i + 1)

/-- Beats of a row. -/
def TileSet.perRow (y : TileSet) : Nat := if y.m64.isSome then 3 else 6

/-- The 16 words of beat b, row-major (R73). -/
def TileSet.beatWords (y : TileSet) (b : Nat) : List Nat := (List.range 16).map fun i => y.word (b / y.perRow) (16 * (b % y.perRow) + i)

/-- The entries of a set that has been emptied finish: the steer entry, and the operations whose last fire filled it (R62, R289); on a route fault every
operation that filled it (R327). -/
def State.drained (s : State) (g t steer : Nat) (fault : Bool) : State :=
  let y := (s.stand g).set t
  let s := s.modStand g fun x => x.modSet t fun _ => {}
  let s := (if fault then y.filledBy else y.owners).foldl (fun s op => s.endOp g op (if fault then 2 else 0)) s
  s.finishEntry g 0 steer (if fault then 2 else 0)

/-- One beat handed to one entry of the chain (R73, R192). -/
def State.beatTo (s : State) (g w b steer t : Nat) (ws : List Nat) (entry : Nat) : State :=
  let before_ := ((s.stand g).set t).uids.map Point.out
  if bits w 62 60 = 3 then
    let d := bits w 59 51
    let off := bits w 19 0 + 128 * b
    if 2 ^ 20 < off + 128 then s.entryFault g 0 steer 0x041 (spBase .loc + off)
    else if (s.eng d).zoneHit off 128 then s.entryFault g 0 steer 0x045 (spBase .loc + off)
    else s.write (burrowAt d (s.glade d).active + off) (ws.flatMap (toBytes 8)) before_
  else (ws.zip (List.range 16)).foldl (fun s x =>
    let v : Word := BitVec.ofNat 64 x.1
    s.sink g w { data := v, residue := mod15 v, route := BitVec.ofNat 8 entry, seq := BitVec.ofNat 16 (16 * b + x.2) } 0 0 steer (48 + t) before_) s

/-- Whether an entry can take beat b of 16 words (R73): the burrow unless a sector it writes is held (R263). -/
def State.beatRoom (s : State) (g w b : Nat) : Bool :=
  if bits w 62 60 = 3 then !s.heldRange 512 (burrowAt (bits w 59 51) (s.glade (bits w 59 51)).active + bits w 19 0 + 128 * b) 128
  else if bits w 62 60 = 5 ∧ bits w 50 43 ≠ s.self then s.linkRoom (bits w 50 43)
  else decide (16 ≤ s.sinkRoom g w true)

def beatAll (g b steer set entry : Nat) (ws : List Nat) : List Nat → State → State
  | [], s => s
  | w :: t, s => beatAll g b steer set entry ws t (s.beatTo g w b steer set ws entry)

/-- DRAIN_BEAT: a FULL set takes the next steering number, or sends its next beat to every entry of the chain when all can take it (R73, R299, R327); it is drained
once every consumer, those of other packages too, has accepted the last byte (R62). -/
def execDrainBeat (g t : Nat) (s : State) : Outcome :=
  let x := s.stand g
  let y := x.set t
  if y.tag ≠ .full ∨ s.cyAt g ≤ y.fullAt then .next s
  else
    let start : State := match y.drain, x.steering with
      | none, (entry, op) :: rest =>
        let s := s.modStand g fun x => { x with steering := rest }
        match s.chain g entry with
        | .error v => (s.drained g t op true).asyncFault g 0x085 v false op
        | .ok l => s.modStand g fun x => x.modSet t fun y => { y with drain := some { steer := op, entry := entry, words := l.map (·.2) } }
      | _, _ => s
    match (start.stand g).set t |>.drain with
    | none => .next start
    | some dr =>
      let last := y.rows * y.perRow
      let done (s : State) : State := if ((s.eng g).away.any fun a => decide (a.2.2 = 48 + t)) then s else (s.drained g t dr.steer false).perf g 8 1
      if dr.beat = last then .next (done start)
      else if dr.tries ≤ 4 ∧ (dr.words.all fun w => start.beatRoom g w dr.beat) = true then
        let s := beatAll g dr.beat dr.steer t dr.entry (y.beatWords dr.beat) dr.words start
        let s := s.modStand g fun x => x.modSet t fun y => { y with drain := some { dr with beat := dr.beat + 1, tries := 0 } }
        .next (if dr.beat + 1 = last then done s else s)
      else .next start

/-- A beat of a drain was damaged in transit (R415): its motes are numbered 16 for each beat. -/
def State.reinjectBeat (s : State) (g t item : Nat) : State :=
  match ((s.stand g).set t).drain with
  | none => s
  | some dr =>
    if 4 < dr.tries then s
    else s.drawn.resend g item 0 ((16 * dr.beat + s.freeWord.toNat % 16) % 2 ^ 16) dr.tries dr.steer dr.words fun n s =>
      s.modStand g fun x => x.modSet t fun y => { y with drain := some { dr with tries := n } }

end Sys2Proof.Machine
end

