-- ==== Sys2Proof/Machine/Rafts.lean ====
section
/-! DEFINITION. The rafts, link orders and the weight-load engine (R76, R102, R106, R107, R254, R300 to R306, R438, R439, R462, R464): arming, tiles,
regions. -/

namespace Sys2Proof.Machine

/-! ## Engine accesses (R244, R250, R252) -/

/-- A byte range cut where a 128 B sector ends. -/
def pieces : Nat → Nat → Nat → List (Nat × Nat)
  | 0, _, _ => []
  | f + 1, a, n => if n = 0 then [] else let k := min n (128 - a % 128); (a, k) :: pieces f (a + k) (n - k)

/-- What an engine's access resolves to: its physical pieces, a fault with its address, a host page it waits for, or a sector an atomic holds (R263). -/
inductive EngRes
  | ok (l : List (Nat × Nat))
  | fault (cause a : Nat)
  | host (page : Nat)
  | held
  deriving DecidableEq, Repr

/-- One piece of an engine's access: its walk is carried out at once; poisoned data is delivered with err (R243, R417). -/
def State.engPiece (s : State) (g a n : Nat) (k : AccKind) : State × Xl :=
  let at_ (s : State) : Xl := ({ s with poison := [] } : State).resolve g a n 1 k
  match at_ s with
  | .walk ctx va =>
    if s.walkHeld ctx va then (s, .walk ctx va)
    else match (s.perf g 12 1).fillWalk g ctx va with
      | (s, some c) => (s, .fault c)
      | (s, none) => (s, at_ s)
  | .ok p => (s.served g a p 0, .ok p)
  | x => (s, x)

/-- The pieces of an engine's access resolved in order. -/
def State.engAccess (s : State) (g : Nat) (k : AccKind) : List (Nat × Nat) → State × EngRes
  | [] => (s, .ok [])
  | (a, n) :: t =>
    match s.engPiece g a n k with
    | (s, .ok p) =>
      if s.heldSector 512 p then (s, .held)
      else match s.engAccess g k t with
        | (s, .ok l) => (s.touch p n, .ok ((p, n) :: l))
        | r => r
    | (s, .fault c) => (s, .fault c a)
    | (s, .walk _ _) => (s, .held)
    | (s, .host p) => (s, .host p)

/-- The bytes that an engine operation finds at physical pieces (R276), and whether any is poisoned. -/
def State.gather (s : State) (g : Nat) (x : QEntry) : List (Nat × Nat) → List Byte × Bool
  | [] => ([], false)
  | (p, n) :: t =>
    let r := s.gather g x t
    (s.view g (·.meets [.op x.uid]) p n ++ r.1, s.bad p n || r.2)

/-- Bytes written over physical pieces, which is before some points. -/
def scatter (before_ : List Point) : List (Nat × Nat) → List Byte → State → State
  | [], _, s => s
  | (p, n) :: t, bs, s => scatter before_ t (bs.drop n) (s.write p (bs.take n) before_)

/-! ## Raft descriptor fields (R300) -/

def rdMode (d : List Byte) : Nat := leAt d 4 1 % 8
def rdSrc (d : List Byte) : Nat := leAt d 16 8
def rdDst (d : List Byte) : Nat := leAt d 24 8
def rdTile (d : List Byte) : Nat := leAt d 32 4
def rdTiles (d : List Byte) : Nat := leAt d 36 4
def rdSlots (d : List Byte) : Nat := leAt d 40 1
def rdDrill (d : List Byte) : Nat := leAt d 41 1
def rdNbase (d : List Byte) : Nat := leAt d 56 8
/-- The slot size (R300). -/
def rdSlotSize (d : List Byte) : Nat := if rdMode d = 2 then rdTile d + 16 else rdTile d
/-- The rill that slot i counts into (R300). -/
def rdRill (d : List Byte) (i : Nat) : Nat := if leAt d 42 1 = 1 then rdDrill d + i else rdDrill d

/-- The offset of source element e (R301): its digits, level 0 innermost, times the strides. -/
def patternOff (d : List Byte) : Nat → Nat → Nat → Int
  | 0, _, _ => 0
  | f + 1, l, e =>
    let c := leAt d (64 + 8 * l) 2
    ((e % c : Nat) : Int) * toS 48 (leAt d (64 + 8 * l + 2) 6) + patternOff d f (l + 1) (e / c)

/-- The source bytes of tile t as address ranges (R301, R302, R464). -/
def rdSource (d : List Byte) (t : Nat) : List (Nat × Nat) :=
  let levels := leAt d 44 1
  let esize := leAt d 45 1
  if levels = 0 then
    let n := if rdMode d = 1 then rdTile d + 16 else rdTile d
    [((rdSrc d + t * n) % 2 ^ 64, n)]
  else
    let per := rdTile d / esize
    (List.range per).map fun i => (ofS 64 ((rdSrc d : Int) + patternOff d levels 0 (t * per + i)), esize)

/-! ## Arming and notices (R76, R302, R303, R462) -/

/-- The rill of the A slot of an installed operation that a burrow offset lies in (R462). -/
def Stand.consumerRill (x : Stand) (off : Nat) : Option Nat :=
  x.ops.findSome? fun o => ((List.range (sdSlots o.2.desc)).find? fun i =>
    decide (sdSlot o.2.desc i ≤ off ∧ off < sdSlot o.2.desc i + slotSpan o.2.desc)).map fun i => sdRbase o.2.desc + i

/-- The slot of a landing zone that a burrow offset lies in (R462). -/
def Zone.slotAt (z : Zone) (off : Nat) : Option Nat :=
  if z.valid = true ∧ z.base ≤ off ∧ off < z.base + z.slots * z.ssize then some ((off - z.base) / z.ssize) else none

/-- The consumer of destination slot i of a stream of glade g: none, or whether the slot is EMPTY now (R76, R462). -/
def State.slotConsumer (s : State) (g : Nat) (d : List Byte) (i : Nat) : Option Bool :=
  let a := (rdDst d + i * rdSlotSize d) % 2 ^ 64
  if rdDrill d = 0xFF then none
  else
    let h := s.consumer g a
    let off := if inWindow (spBase .loc) (spSize .loc) a then some (a - spBase .loc)
      else if inWindow (spBase .clu) (spSize .clu) a then some ((a - spBase .clu) % 2 ^ 20) else none
    match off with
    | none => none
    | some off =>
      let e := s.eng h
      match e.stand.consumerRill off with
      | some r => some (!(e.rill r).reached)
      | none => e.zones.findSome? fun z => (z.2.slotAt off).map fun i => decide ((z.2.slotOf i).st ≠ .full)

/-- The destination slots of a stream that are free (R76, R302, R462). -/
def State.freeSlots (s : State) (g : Nat) (d : List Byte) : List Nat :=
  (List.range (rdSlots d)).filter fun i => (s.slotConsumer g d i).getD true

/-- The open session entry a handle names (R349). -/
def Job.session (j : Job) (h : Nat) : Option Session :=
  match nfind j.sessions (h % 64) with
  | some x => if x.opened && decide (x.gen % 2 ^ 26 = h / 64) then some x else none
  | none => none

def State.modSession (s : State) (c h : Nat) (f : Session → Session) : State :=
  s.modJob c fun j => { j with sessions := nmod {} j.sessions (h % 64) f }

/-- A started raft entry arms its stream (R76, R302, R439): a SEAL entry first takes its counters, or raises CIPHER_NONCE. -/
def State.startRaft (s : State) (g : Nat) (x : QEntry) : State :=
  let d := x.desc
  let arm (s : State) : State := s.modEng g fun e => e.modEntry x.tl x.opnum fun y => { y with notices := s.freeSlots g d }
  if rdMode d = 2 then
    let c := s.ctxOf g
    let h := leAt d 48 4
    match (s.job c).session h with
    | some k =>
      if k.hiSeal < rdNbase d ∧ rdNbase d + rdTiles d ≤ 2 ^ 64 then arm (s.modSession c h fun k => { k with hiSeal := rdNbase d + rdTiles d - 1 })
      else s.entryFault g x.tl x.opnum 0x102 (rdNbase d)
    | none => s.entryFault g x.tl x.opnum 0x102 (rdNbase d)
  else arm s

/-! ## Link orders at their source (R306, R340, R344) -/

def ldTile (d : List Byte) : Nat := leAt d 24 4
def ldTiles (d : List Byte) : Nat := leAt d 28 4

/-- A reservation is the one a link descriptor names. -/
def Resv.isOf (r : Resv) (d : List Byte) : Bool :=
  decide (r.pkg = leAt d 32 1 ∧ r.glade = leAt d 34 2 ∧ r.zone = leAt d 33 1 ∧ r.rill = leAt d 36 1)

/-- Numbers in ascending order. -/
def insertNat (x : Nat) : List Nat → List Nat
  | [] => [x]
  | y :: t => if x < y then x :: y :: t else y :: insertNat x t

def ascending (l : List Nat) : List Nat := l.foldr insertNat []

/-- A started link entry (R306, R340): its reservation and no other unretired entry of the key, its link, its notices by slot; with no link up it finishes TORN (DEDUCED, log entry 30). -/
def State.startLink (s : State) (g : Nat) (x : QEntry) : State :=
  let d := x.desc
  let e := s.eng g
  let other := (e.queue 1 ++ e.queue 2).any fun y => decide (y.kind = 5 ∧ y.state ≠ 0 ∧ y.opnum ≠ x.opnum)
    && decide ((leAt y.desc 32 1, leAt y.desc 33 1, leAt y.desc 34 2, leAt y.desc 36 1) = (leAt d 32 1, leAt d 33 1, leAt d 34 2, leAt d 36 1))
  match e.resv.find? fun r => r.isOf d with
  | none => s.entryFault g x.tl x.opnum 0x0C5 (leAt d 32 1 + 2 ^ 8 * leAt d 34 2 + 2 ^ 17 * leAt d 33 1 + 2 ^ 21 * leAt d 36 1)
  | some r =>
    if other then s.entryFault g x.tl x.opnum 0x0C5 (leAt d 32 1 + 2 ^ 8 * leAt d 34 2 + 2 ^ 17 * leAt d 33 1 + 2 ^ 21 * leAt d 36 1)
    else
      let link : Option Nat := if leAt d 38 1 = 0xFF then s.linkTo (leAt d 32 1)
        else if (s.link (leAt d 38 1)).st = .up ∧ (s.link (leAt d 38 1)).peer = leAt d 32 1 then some (leAt d 38 1) else none
      match link with
      | none => s.finishEntry g x.tl x.opnum 4
      | some l => s.modEng g fun e => { e.modEntry x.tl x.opnum fun y => { y with link := l, notices := ascending r.slots } with
          resv := e.resv.map fun r => if r.isOf d then { r with slots := [] } else r }

/-- The DATA flits of one tile (R450): up to 200 bytes each, in offset order; byte 5 is 1 in those of a tile with poisoned data (R417) (DESIGN CHOICE, log entry 96). -/
def sendTile (l g rill zone slot : Nat) (err : Bool) : Nat → Nat → List Byte → State → State
  | 0, _, _, s => s
  | f + 1, off, bs, s =>
    if bs = [] then s
    else
      let b := bs.take 200
      let payload := toBytes 2 g ++ toBytes 1 rill ++ toBytes 1 zone ++ toBytes 1 slot ++ toBytes 1 (b2n err) ++ toBytes 2 b.length ++ toBytes 4 off
        ++ List.replicate 16 0 ++ b ++ List.replicate (200 - b.length) 0
      sendTile l g rill zone slot err f (off + 200) (bs.drop 200) (s.sendFlit l 1 payload)

/-! ## Tiles (R76, R301 to R303, R439, R462, R464) -/

/-- The tiles of a stream. -/
def QEntry.tileCount (x : QEntry) : Nat := if x.kind = 2 then rdTiles x.desc else if x.kind = 5 then ldTiles x.desc else 0

/-- The bytes a tile moves, which take a raft one cy for each 128 (R76). -/
def QEntry.tileBytes (x : QEntry) : Nat := if x.kind = 5 then ldTile x.desc else rdTile x.desc

/-- The cy by which a tile that began in a cy has been issued whole. -/
def QEntry.issuedBy (x : QEntry) (t : Nat) : Nat := t + (x.tileBytes + 127) / 128

/-- An entry that can start a tile now: a started stream with a pending notice and a tile to come. -/
def QEntry.canServe (x : QEntry) : Bool := decide (x.state = 1 ∧ x.notices ≠ [] ∧ x.issued + x.tiles.length < x.tileCount)

/-- The rill of a stream's next notice among those a raft serves in turn (R76): that of the slot it names, of the stream's consumer glade; of a link order its reservation. -/
def State.serveRill (s : State) (g : Nat) (x : QEntry) : Nat :=
  if x.kind = 5 then 2 ^ 40 + leAt x.desc 32 5 else 2 ^ 8 * s.consumer g (rdDst x.desc) + rdRill x.desc (x.notices.headD 0)

/-- The entry a raft serves next: round robin across rills from the one after the last served (R58, R76), queue order within a rill. -/
def State.nextServe (s : State) (g raft : Nat) : Option QEntry :=
  let e := s.eng g
  let last := nget (2 ^ 41 - 1) e.rr raft
  let dist (x : QEntry) : Nat := (s.serveRill g x + 2 ^ 42 - last - 1) % 2 ^ 41
  match (e.queue (1 + raft)).filter QEntry.canServe with
  | [] => none
  | x :: t => some (t.foldl (fun b y => if dist y < dist b then y else b) x)

/-- A raft still issues a tile. -/
def State.raftBusy (s : State) (g raft : Nat) : Bool := ((s.eng g).queue (1 + raft)).any fun x => x.tiles.any fun t => decide (s.cyAt g < x.issuedBy t.1)

/-- RAFT_NOTICE_SERVE: a raft that has issued its last tile whole takes its next pending notice and starts that tile (R58, R76). -/
def execRaftNoticeServe (g raft : Nat) (s : State) : Outcome :=
  if s.raftBusy g raft then .next s
  else match s.nextServe g raft with
    | none => .next s
    | some x => .next (s.modEng g fun e =>
        { e.modEntry x.tl x.opnum fun y => { y with tiles := y.tiles ++ [(s.cyAt g, y.notices.headD 0)], notices := y.notices.drop 1 } with
          rr := nset e.rr raft (s.serveRill g x) })

/-- A tile that passes a cipher block (R302). -/
def QEntry.cipher (x : QEntry) : Bool := decide (x.kind = 2 ∧ rdMode x.desc ≠ 0)

/-- The stream of an entry after its oldest tile in flight: the next tile, and where the slot has no consumer its notice at once (R302, R462). A cipher block that the tile passed is busy
one cy for each 64 bytes (R302). -/
def State.tileDone (s : State) (g : Nat) (x : QEntry) (count : Bool) (err : Bool) : State :=
  let d := x.desc
  let i := x.issued % rdSlots d
  let h := s.consumer g (rdDst d)
  let again := (s.slotConsumer g d i).isNone
  let s := if count ∧ rdDrill d ≠ 0xFF then s.countRill h (rdRill d i) (rdSlotSize d) err else s
  let n := x.issued + 1
  let s := (s.modEng g fun e => e.modEntry x.tl x.opnum fun y =>
    { y with tiles := y.tiles.drop 1, tries := 0, issued := n, notices := y.notices ++ if again ∧ n + (y.tiles.drop 1).length < rdTiles d then [i] else [] }).perf g (9 + leAt d 43 1) (rdTile d)
  let s := if x.cipher then s.modClearing (clearingOf g) fun c => { c with cipherLast := g, cipherFree := s.cyAt g + (rdTile d + 63) / 64 } else s
  if n = rdTiles d then s.finishEntry g x.tl x.opnum 0 else s

/-- An engine's access that did not resolve: its fault, or a wait (R253, R303). -/
def State.engStop (s : State) (g : Nat) (x : QEntry) (wr : Bool) : EngRes → State
  | .fault c a => s.entryFault g x.tl x.opnum c a
  | .host page =>
    let vf := ((s.place g).map (·.vf)).getD 0
    let w : Waiter := ⟨1, g, 4096 * x.tl + x.opnum % 4096⟩
    if s.pageFailed vf page w then (s.leavePage vf page w).entryFault g x.tl x.opnum 0x049 (2 ^ 55 + 4096 * page)
    else s.needPage vf page wr w
  | _ => s

/-- The nonce of tile t (R302, R438): prefix and counter, most significant byte first. -/
def tileIv (pre ctr : Nat) : List Byte := toBytesBE 4 pre ++ toBytesBE 8 ctr

/-- The bytes of a tile written (R277), and released by the count of its slot's rill (R280). -/
def State.placeTile (s : State) (g : Nat) (x : QEntry) (pd : List (Nat × Nat)) (bs : List Byte) : State :=
  let d := x.desc
  let t := scatter [.out x.uid] pd bs s
  if rdDrill d = 0xFF then t else t.releaseCount (s.consumer g (rdDst d)) (rdRill d (x.issued % rdSlots d)) fun e => decide (s.free ≤ e.num)

/-- A raft tile lands (R301, R302, R439, R464) (DESIGN CHOICE, log entry 41). -/
def State.landTile (s : State) (g : Nat) (x : QEntry) : State :=
  let d := x.desc
  let t := x.issued
  let src := (rdSource d t).flatMap fun p => pieces p.2 p.1 p.2
  let dst := (rdDst d + (t % rdSlots d) * rdSlotSize d) % 2 ^ 64
  match s.engAccess g .rd src with
  | (s, .ok ps) =>
    match s.engAccess g (if rdMode d = 2 then .seal else .wr) (pieces (rdSlotSize d) dst (rdSlotSize d)) with
    | (s, .ok pd) =>
      let r := s.gather g x ps
      let s := ps.foldl (fun s p => s.hbmRead p.1 p.2) s
      let c := s.ctxOf g
      let h := leAt d 48 4
      if rdMode d = 0 then (s.placeTile g x pd r.1).tileDone g x true r.2
      else match (s.job c).session h with
        | none =>
          if rdMode d = 2 then s.entryFault g x.tl x.opnum 0x102 (rdNbase d)
          else (s.rillStatus (s.consumer g (rdDst d)) (rdRill d (t % rdSlots d)) 2).tileDone g x false false
        | some k =>
          if rdMode d = 2 then
            let y := gcmSeal k.key (tileIv k.prefSeal (rdNbase d + t)) [] r.1
            ((s.placeTile g x pd (y.1 ++ y.2)).usage c 9 (rdTile d)).tileDone g x true r.2
          else
            let ctr := rdNbase d + t
            match gcmOpen k.key (tileIv k.prefOpen ctr) [] (r.1.take (rdTile d)) (r.1.drop (rdTile d)) with
            | some pt =>
              if k.hiOpen < ctr ∧ ctr < 2 ^ 64 then
                (((s.placeTile g x pd pt).modSession c h fun k => { k with hiOpen := ctr }).usage c 8 (rdTile d)).tileDone g x true r.2
              else (s.rillStatus (s.consumer g (rdDst d)) (rdRill d (t % rdSlots d)) 2).tileDone g x false false
            | none => (s.rillStatus (s.consumer g (rdDst d)) (rdRill d (t % rdSlots d)) 2).tileDone g x false false
    | (s, r) => s.engStop g x true r
  | (s, r) => s.engStop g x false r

/-- A link entry's tile is sent to the slot its notice names (R306, R340, R450). -/
def State.landLink (s : State) (g : Nat) (x : QEntry) : State :=
  let d := x.desc
  let n := ldTile d
  match s.engAccess g .rd (pieces n ((leAt d 16 8 + x.issued * n) % 2 ^ 64) n) with
  | (s, .ok ps) =>
    let slot := (x.tiles.map (·.2)).headD 0
    let r := s.gather g x ps
    let s := sendTile x.link g (leAt d 36 1) (leAt d 33 1) slot r.2 (n / 200 + 1) 0 r.1 (ps.foldl (fun s p => s.hbmRead p.1 p.2) s)
    let s := s.modEng g fun e => e.modEntry x.tl x.opnum fun y =>
      { y with tiles := y.tiles.drop 1, issued := x.issued + 1, pages := y.pages ++ [((s.link x.link).lastSeq, slot)] }
    ((s.noteSent g (leAt d 32 1)).usage (s.ctxOf g) 10 n).perf g (9 + leAt d 37 1) n
  | (s, r) => s.engStop g x false r

/-- The rill that a raft tile would count into is held (R319). -/
def State.tileHeld (s : State) (g : Nat) (x : QEntry) : Bool :=
  decide (x.kind = 2 ∧ rdDrill x.desc ≠ 0xFF) && s.rillHeld (s.consumer g (rdDst x.desc)) (rdRill x.desc (x.issued % rdSlots x.desc))

/-- The oldest tile in flight of an entry lands. -/
def State.landOne (s : State) (g : Nat) (x : QEntry) : State := if x.kind = 5 then s.landLink g x else s.landTile g x

/-- The oldest tile in flight of an entry can land: the cy after it has been issued whole (DESIGN CHOICE, log entry 97), unless it has been damaged too often (R415), its rill is held, or
the cipher block it passes is busy (R302). -/
def State.tileDue (s : State) (g : Nat) (x : QEntry) : Bool :=
  match x.tiles with
  | [] => false
  | t :: _ => decide (x.state = 1 ∧ x.tries ≤ 4 ∧ x.issuedBy t.1 < s.cyAt g) && !s.tileHeld g x
      && !(x.cipher && decide (s.cyAt g < (s.clearing (clearingOf g)).cipherFree))

/-- RAFT_TILE_LAND: of each entry of a raft the oldest tile lands that has been issued whole (R62, R76, R302, R306, R439). -/
def execRaftTileLand (g raft : Nat) (s : State) : Outcome :=
  .next (((s.eng g).queue (1 + raft)).foldl (fun s x => if s.tileDue g x then s.landOne g x else s) s)

/-- The tile in flight of a raft was damaged in transit (R415): its transfer begins again; which of its motes was hit is a free value. -/
def State.reinjectTile (s : State) (g raft item : Nat) : State :=
  match ((s.eng g).queue (1 + raft)).find? fun x => decide (x.tiles ≠ [] ∧ x.kind = 2) with
  | none => s
  | some x =>
    let r := leAt x.desc 41 1
    if 4 < x.tries then s
    else
      let h := s.consumer g (leAt x.desc 24 8)
      let sink : List Nat := if r = 0xFF then [2 ^ 51 * h] else [2 ^ 62 + 2 ^ 51 * h + 2 ^ 38 * (if leAt x.desc 42 1 = 1 then r + x.issued % leAt x.desc 40 1 else r)]
      s.drawn.resend g item (r % 32) (s.freeWord.toNat % 2 ^ 16) x.tries ((s.eng g).rankOf x.tl x.opnum) sink fun n s =>
        s.modEng g fun e => e.modEntry x.tl x.opnum fun y => { y with tries := n, tiles := (y.tiles.take 1).map (fun t => (s.cyAt g, t.2)) ++ y.tiles.drop 1 }

/-- MOTE_REINJECTION: motes were damaged in transit (R414, R415): the first of a stream 0 to 47, the beat of a drain (48, 49), or the tile in flight of a raft (50, 51); a free value
says whether in a residue or an edm, or in the input they arrived on (DESIGN CHOICE, log entry 61). -/
def execMoteReinjection (g c : Nat) (s : State) : Outcome :=
  let o := (s.eng g).ostream c
  let item := if s.freeWord.getLsbD 0 then 1 else 2
  if 50 ≤ c then .next (s.drawn.reinjectTile g (c - 50) item)
  else if 48 ≤ c then .next (s.drawn.reinjectBeat g (c - 48) item)
  else if o.out = [] ∨ 4 < o.tries then .next s
  else .next (s.drawn.reinject g c item)

/-! ## Weight loads (R102, R106, R107, R254, R304, R305, R442) -/

def wdFmt (d : List Byte) : Nat := leAt d 32 1
def wdKb (d : List Byte) : Nat := leAt d 33 1
def wdCols (d : List Byte) : Nat := leAt d 34 2
/-- The address of block kb of column n. -/
def wdBlock (d : List Byte) (n kb : Nat) : Nat := leAt d 16 8 + n * leAt d 24 8 + kb * kBytes (wdFmt d)

/-- The 4 KiB regions that hold source bytes, in the order their columns name them (R305). -/
def wdRegions (d : List Byte) : List Nat :=
  ((List.range (wdCols d)).flatMap fun n =>
    let a := wdBlock d n 0
    let z := a + wdKb d * kBytes (wdFmt d) - 1
    (List.range (z / 4096 + 1 - a / 4096)).map fun i => a / 4096 + i).eraseDups

/-- The glades whose planes a weight load fills (R304): the issuer's, and with fan those of its coppice's N column. -/
def State.wloadGlades (s : State) (g : Nat) (d : List Byte) : List Nat :=
  g :: if leAt d 37 1 = 1 then ((s.place g).map (·.fan)).getD [] else []

/-- A plane of every receiving glade set; `i` names the plane, or none the idle one of each. -/
def setPlanes (i : Option Nat) (p : Plane) : List Nat → State → State
  | [], s => s
  | h :: t, s => setPlanes i p t (s.modStand h fun x => x.setPlane (i.getD x.idle) p)

/-- The bytes at a device address of a load, from the regions read. -/
def wdBytes (regs : List (Nat × List Byte)) (a n : Nat) : List Byte :=
  (List.range n).map fun i => ((nget [] regs ((a + i) / 4096))[(a + i) % 4096]?).getD 0

/-- A K block of B aligned (R102), or the cause of its refusal (R106, R107). -/
def alignB (fmt q : Nat) (b : List Byte) : Except Nat WBlock :=
  if fmt = 3 then
    let rs := (List.range 32).map fun j => leAt b (8 * j) 8
    if rs.any fun r => decide (q ≤ r) then .error 0x0C4 else .ok ⟨0, rs.map fun r => (false, r)⟩
  else if fmt = 0 then
    let k := leAt b 16 1
    if k = 255 then .error 0x0C3
    else .ok ⟨(k : Int) - 121, (List.range 32).map fun j => match decE2 (nibble b j) with
      | .fin n m e => let v := scaleRound m e 1; (n && decide (v ≠ 0), v)
      | _ => (false, 0)⟩
  else
    let xs := (List.range 32).map (blockEl fmt b)
    if xs.any Fp.special then .error 0x0C3
    else
      let eb := max (-127) ((blockEA xs).getD (-127))
      .ok ⟨eb, xs.map fun x => match x with
        | .fin n m e => let v := scaleRound m e (7 - eb); (n && decide (v ≠ 0), v)
        | _ => (false, 0)⟩

/-- The blocks of a load whose last byte lies in a region, as (column, block). -/
def wdBlocksIn (d : List Byte) (region : Nat) : List (Nat × Nat) :=
  ((List.range (wdCols d)).flatMap fun n => (List.range (wdKb d)).map fun k => (n, k)).filter fun x =>
    decide ((wdBlock d x.1 x.2 + kBytes (wdFmt d) - 1) / 4096 = region)

/-- A region read for a weight load (R241, R248, R249, R254, R305, R435): its bytes as they stand with the tag that is checked (R255), or cause and
value, which no rule states for WEIGHT_TAG and WEIGHT_SOURCE (DESIGN CHOICE, log entry 2). -/
def State.wdRegion (s : State) (g region : Nat) : State × Except (Nat × Nat) (List Byte) :=
  let a := 4096 * region
  match s.resolveNow g a 4096 1 .wload with
  | (s, .ok p) =>
    let c := s.ctxOf g
    let key := (s.owner ((p - hbmAt) / 65536)).getD 0
    if ((p - hbmAt) / 4096, key) ∈ (s.job c).installed then (s.served g a p 4096, .ok (s.bytes p 4096)) else (s.drawn, .error (0x0C2, s.freeWord.toNat))
  | (s, .fault c) => if c = 0x0C1 then (s.drawn, .error (c, s.freeWord.toNat)) else (s, .error (c, a))
  | (s, _) => (s, .error (0x047, a))

/-- The columns of a load once every region has been read. -/
def wdColumns (d : List Byte) (q : Nat) (regs : List (Nat × List Byte)) : List (List WBlock) :=
  (List.range (wdCols d)).map fun n => (List.range (wdKb d)).map fun k =>
    match alignB (wdFmt d) q (wdBytes regs (wdBlock d n k) (kBytes (wdFmt d))) with
    | .ok b => b
    | .error _ => ⟨0, []⟩

/-- The next step of a weight load with these regions read: a fault, the regions with one more, or the load's end (R305). -/
def State.wdStep (s : State) (g : Nat) (d : List Byte) (q : Nat) (regs : List (Nat × List Byte)) : State × Except (Nat × Nat) (List (Nat × List Byte)) :=
  match (wdRegions d).find? fun r => (nfind regs r).isNone with
  | none => (s, .ok regs)
  | some r => match s.wdRegion g r with
    | (s, .error e) => (s, .error e)
    | (s, .ok p) =>
      let regs := nset regs r p
      let s := s.usage (s.ctxOf g) 11 4096
      match (wdBlocksIn d r).findSome? fun x =>
          match alignB (wdFmt d) q (wdBytes regs (wdBlock d x.1 x.2) (kBytes (wdFmt d))) with
          | .ok _ => none
          | .error c => some c with
      | some c => (s.drawn, .error (c, s.freeWord.toNat))
      | none => (s, .ok regs)

/-- A started weight-load entry (R150, R305): the idle planes are LOADING; an invalid modulus register raises MODULUS_INVALID before any region is
read. -/
def State.startWload (s : State) (g : Nat) (x : QEntry) : State :=
  let d := x.desc
  let gs := s.wloadGlades g d
  match if wdFmt d = 3 then (s.ww g).modulus (leAt d 36 1) else some 0 with
  | none => (setPlanes none {} gs s).entryOpen g 4 x.opnum 0x015
  | some q => (setPlanes none { st := 1 } gs s).modEng g fun e => e.modEntry 4 x.opnum fun y => { y with issued := q }

/-- The position of a glade in its unit. -/
def State.posOf (s : State) (g : Nat) : Nat × Nat := ((s.place g).map fun p => (p.ux, p.uy)).getD (0, 0)

/-- The walk of a region's page waits for a sector that an atomic holds (R263). -/
def State.wdHeld (s : State) (g region : Nat) : Bool := match s.resolve g (4096 * region) 4096 1 .wload with
  | .walk ctx va => s.walkHeld ctx va
  | _ => false

/-- WLOAD_REGION: the weight-load engine of a glade reads its next region, or with the last of them writes the planes (R62, R305); a repeated load comes
first (R417, R420), with the modulus that the register of the glade whose entry filled the plane names. -/
def execWloadRegion (g : Nat) (s : State) : Outcome :=
  match (s.stand g).reload with
  | (i, d, src) :: rest =>
    let by_ := ((s.place g).map fun p => p.gladeAt g src.1 src.2).getD g
    match if wdFmt d = 3 then (s.ww by_).modulus (leAt d 36 1) else some 0 with
    | none => .next ((s.modStand g fun x => { x.setPlane i {} with reload := rest }).openAsync g 0x015 (2 ^ 26))
    | some q =>
    if (wdRegions d).any (s.wdHeld g) then .next s
    else
    let all := (wdRegions d).foldl (fun (r : State × Except (Nat × Nat) (List (Nat × List Byte))) _ => match r with
      | (s, .ok regs) => s.wdStep g d q regs
      | r => r) (s, .ok [])
    match all with
    | (s, .ok regs) => .next (s.modStand g fun x => { x.setPlane i { st := 2, fmt := wdFmt d, cols := wdColumns d q regs, desc := d, src := src } with reload := rest })
    | (s, .error (c, a)) => .next ((s.modStand g fun x => { x.setPlane i {} with reload := rest }).asyncFault g c a false (2 ^ 26))
  | [] =>
    match ((s.eng g).queue 4).find? fun x => decide (x.state = 1) with
    | none => .next s
    | some x =>
      let d := x.desc
      let gs := s.wloadGlades g d
      if (((wdRegions d).find? fun r => (nfind x.regs r).isNone).map (s.wdHeld g)).getD false then .next s
      else match s.wdStep g d x.issued x.regs with
      | (s, .error (c, a)) => .next ((setPlanes none {} gs s).entryFault g 4 x.opnum c a)
      | (s, .ok regs) =>
        if (wdRegions d).all fun r => (nfind regs r).isSome then
          .next ((setPlanes none { st := 2, fmt := wdFmt d, cols := wdColumns d x.issued regs, desc := d, src := s.posOf g } gs s).finishEntry g 4 x.opnum 0)
        else .next (s.modEng g fun e => e.modEntry 4 x.opnum fun y => { y with regs := regs })

end Sys2Proof.Machine
end

