-- ==== Sys2Proof/Machine/Entries.lean ====
section
/-! DEFINITION. The start of queue entries (R61, R74, R201, R289, R290, R297, R299, R305 to R307, R332): what each kind needs, the timing faults, and
what starting it does. -/

namespace Sys2Proof.Machine

/-! ## Resources (R74) -/

/-- The rills of its glade that an entry would bind when it starts (R332). -/
def QEntry.binds (s : State) (g : Nat) (x : QEntry) : List Nat := (List.range 32).filter fun r => x.uses s g r

/-- The first missing resource of an entry with its code, in the order of R74; a token-gated entry waits for those that start it at all. -/
def State.entryLack (s : State) (g : Nat) (x : QEntry) : Option Nat :=
  let e := s.eng g
  let own : Option Nat :=
    if x.kind = 1 then
      if 4 ≤ e.stand.ops.length then some 2 else if x.timed then s.fireLack g x.desc 0 else none
    else if x.kind = 6 then (if 8 ≤ e.stand.steering.length then some 7 else none)
    else if x.kind = 2 then (if x.timed ∧ s.freeSlots g x.desc = [] then some 8 else none)
    else if x.kind = 5 then
      if x.timed ∧ (e.resv.any fun r => r.isOf x.desc && decide (r.slots = [])) = true then some 8 else none
    else if x.kind = 3 then (if (s.th g).run.isSome then some 9 else none)
    else if x.kind = 4 then
      if (s.wloadGlades g x.desc).all fun h => let y := s.stand h; decide ((y.plane y.idle).st = 0) && y.reload.isEmpty then none else some 10
    else none
  if x.pop && !x.held && decide (e.ready (fifoKey x.peer x.tl) = 0) then some 1
  else match own with
    | some c => some c
    | none => if (x.binds s g).any (s.rillHeld g) then some 11 else none

/-- TRAP.VALUE of TIME_LATE and TIME_STARVE (R74): start offset, queue, low bits of the operation number, code. -/
def timeValue (q : Nat) (x : QEntry) (code : Nat) : Nat :=
  x.offset % 2 ^ 40 + 2 ^ 40 * (if x.kind = 5 then 5 else q) + 2 ^ 48 * (x.opnum % 256) + 2 ^ 56 * code

/-! ## What starting does -/

/-- The op words of every ring of a glade that can issue. -/
def Thicket.words (t : Thicket) : List (Nat × Stem) := (List.range 16).map fun i => (i, t.stem i)

/-- The modulus registers that the modular op words of the rings name (R201, R209). -/
def Thicket.moduli (t : Thicket) : List Nat :=
  (List.range 16).filter fun m => t.words.any fun x => x.2.op.any fun w =>
    let o := opCodeOf w.toNat
    decide (0x28 ≤ o ∧ o ≤ 0x2C) && decide (w.toNat % 16 = m)

/-- The rings hold an operation that draws words whatever its data: SAMP.STEP, RNG, or a conversion or FRND in an element whose class word names RSTO
(R201). -/
def Thicket.needsKey (t : Thicket) : Bool :=
  t.words.any fun x => x.2.op.any fun w =>
    let o := opCodeOf w.toNat
    o = 0x51 || o = 0x53 || ((decide (o = 0x0B) || (decide (0x10 ≤ o) && decide (o ≤ 0x15))) && (List.range 16).any fun k => clsRm (x.2.clsAt k) = 4)

/-- A run entry starts (R64, R201, R206, R211, R307): its checks, what it latches, and the element state that a run clears. -/
def State.startRun (s : State) (g : Nat) (x : QEntry) : State :=
  let w := s.ww g
  let t := s.th g
  match t.moduli.find? fun m => (w.modulus m).isNone with
  | some m => s.entryFault g 3 x.opnum 0x015 m
  | none =>
    if t.needsKey ∧ w.keyValid = false then s.entryOpen g 3 x.opnum 0x088
    else s.modTh g fun t => { t with
      run := some { opnum := x.opnum, uid := x.uid, first := t.cnt, len := leAt x.desc 16 8, mods := t.moduli.map fun m => (m, (w.modulus m).getD 0)
                    seqid := w.seqid.setWidth 32, pos := w.pos.setWidth 32, key := if w.keyValid then w.samplerKey else none }
      elems := t.elems.map fun e => (e.1, { e.2 with level := 0, rblk := 0, rword := 0 }) }

/-- A stand entry starts (R150, R297): its operation takes the lowest free slot; a timed one fires at once (R75). -/
def State.startStand (s : State) (g : Nat) (x : QEntry) : State :=
  let m := if sdMode x.desc = 3 then (s.ww g).modulus (leAt x.desc 32 1) else none
  let o : StandOp := { opnum := x.opnum, uid := x.uid, desc := x.desc, modulus := m.getD 0, modulusOk := m.isSome }
  match (List.range 4).find? fun k => (nfind (s.stand g).ops k).isNone with
  | none => s
  | some k =>
    let s := s.modStand g fun y => { y with ops := nset y.ops k o }
    if x.timed then s.fire g k o else s

/-- The mode-switch vector of a mode entry in one stem's side port (R98, R307), behind the vector in progress, which is closed. -/
def modeVector (p : Port) (rows word : Nat) : Port :=
  (List.range 16).foldl (fun p k => p.push (if rows.testBit k then
    { Val.ofWord (BitVec.ofNat 64 (5 * 2 ^ 60 + word % 128)) with port := true } else Val.idle 0 false)) (p.close 16)

/-- A started mode entry places its vector in every stem of its mask whose side port has room, and finishes with the last (R289, R307). -/
def State.placeMode (s : State) (g : Nat) (x : QEntry) : State :=
  let a := x.arg.toNat
  let stems := (List.range 16).filter fun st => a.testBit st && !x.issued.testBit st && decide (16 ≤ (((s.bough g).port st 9).close 16).room)
  let s := s.modBough g fun b => stems.foldl (fun b st => b.modPort st 9 fun p => modeVector p (bits a 31 16) (bits a 38 32)) b
  let mask := stems.foldl (fun n st => n ||| 2 ^ st) x.issued
  let s := s.modEng g fun e => e.modEntry x.tl x.opnum fun y => { y with issued := mask }
  if (List.range 16).all fun st => !a.testBit st || mask.testBit st then s.finishEntry g x.tl x.opnum 0 else s

/-- The started mode entries of a glade go on. -/
def placeModes (g : Nat) : List QEntry → State → State
  | [], s => s
  | x :: t, s => placeModes g t (if x.kind = 7 ∧ x.state = 1 then s.placeMode g x else s)

/-- A bough entry starts (R289, R307): the request for the next phase boundary, or BOUGH_INVALID. -/
def State.startBough (s : State) (g : Nat) (x : QEntry) : State :=
  let want := x.arg.getLsbD 0
  let y := s.glade g
  if want = y.active then s.finishEntry g x.tl x.opnum 0
  else match y.alt.place, y.cur.place with
    | some p, some q =>
      if p.ctx = q.ctx then (s.modGlade g fun z => { z with swapDue := some want }).finishEntry g x.tl x.opnum 0
      else s.entryOpen g x.tl x.opnum 0x0C8
    | _, _ => s.entryOpen g x.tl x.opnum 0x0C8

/-- An entry starts (R61): it takes its token, whose push it is after (R271), and begins. -/
def State.startEntry (s : State) (g : Nat) (x : QEntry) : State :=
  let k := fifoKey x.peer x.tl
  let s := if x.pop ∧ x.held = false then s.flow [.token (s.home g) k ((s.eng g).oldest k)] (.op x.uid) else s
  let s := s.modEng g fun e =>
    (if x.pop ∧ x.held = false then e.takeToken k else e).modEntry x.tl x.opnum fun y => { y with state := 1, held := false }
  if x.kind = 1 then s.startStand g x
  else if x.kind = 2 then s.startRaft g x
  else if x.kind = 3 then s.startRun g x
  else if x.kind = 4 then s.startWload g x
  else if x.kind = 5 then s.startLink g x
  else if x.kind = 6 then s.modStand g fun y => { y with steering := y.steering ++ [(x.arg.toNat % 256, x.opnum)] }
  else if x.kind = 7 then s.placeMode g x
  else s.startBough g x

/-- The head of a queue: its first entry that waits (R61). -/
def Engines.head (e : Engines) (q : Nat) : Option QEntry := (e.queue q).find? fun x => decide (x.state = 0)

/-- ENTRY_START_TIMED: the timed entry at the head of a queue starts on the cy at which the context counter equals its start offset, or raises
TIME_LATE or TIME_STARVE (R61, R74). -/
def execEntryStartTimed (g q : Nat) (s : State) : Outcome :=
  let s := placeModes g ((s.eng g).queue q) s
  match (s.eng g).head q with
  | none => .next s
  | some x =>
    let cnt := (s.th g).cnt
    if x.timed = false then .next s
    else if cnt < x.offset then .next s
    else if x.offset < cnt then .next (s.entryFault g x.tl x.opnum 0x080 (timeValue q x 0))
    else match s.entryLack g x with
      | some c => .next (s.entryFault g x.tl x.opnum 0x081 (timeValue q x c))
      | none => .next (s.startEntry g x)

/-- ENTRY_START_GATED: the token-gated entry at the head of a queue starts once what it needs is there (R61). -/
def execEntryStartGated (g q : Nat) (s : State) : Outcome :=
  match (s.eng g).head q with
  | none => .next s
  | some x =>
    if x.timed then .next s
    else match s.entryLack g x with
      | some _ => .next s
      | none => .next (s.startEntry g x)

end Sys2Proof.Machine
end

