-- ==== Sys2Proof/Machine/Save.lean ====
section
/-! DEFINITION. Quiescing a glade (R197, R421), the glade record (R418, R419), and the restore of a saved bough (R420, R422, R463). -/

namespace Sys2Proof.Machine

/-- The state after an outcome; the state before it where the outcome is not a next state. -/
def nextOr (s : State) : Outcome → State
  | .next t => t
  | _ => s

/-- A bough of a glade changed. -/
def State.modSide (s : State) (g : Nat) (b : Bool) (f : Bough → Bough) : State := s.modGlade g fun x => x.put b (f (x.pick b))

/-- A glade and bough whose unit belongs to a launch. -/
def Place.of (d l : Nat) : Option Place → Bool
  | some p => decide (p.die = d ∧ p.launch = l)
  | none => false

/-- The glades and boughs that hold units of a launch, active or not. -/
def State.sides (s : State) (d l : Nat) : List (Nat × Bool) :=
  s.glades.flatMap fun x =>
    (if Place.of d l x.2.cur.place then [(x.1, x.2.active)] else []) ++ if Place.of d l x.2.alt.place then [(x.1, !x.2.active)] else []

/-! ## Quiesce (R197, R421) -/

/-- Results in flight by where they land, the earlier issued first. -/
def byLand (f : Flight) : List Flight → List Flight
  | [] => [f]
  | x :: t => if f.land < x.land then f :: x :: t else x :: byLand f t

/-- The non-fern results of an element in flight land at once, each for the counter value at which it would have landed, but those that wait for a release
(R197). -/
def quiesceElem (ok : Nat → Bool) (t : Thicket) (i : Nat) : Thicket :=
  let e := nget {} t.elems i
  let due := (e.flight.filter fun f => f.lands f.land ok).foldl (fun l f => byLand f l) []
  let t := due.foldl (fun t f => t.land f.land i f.issued f.val f.rso) t
  { t with elems := nmod {} t.elems i fun y => { y with flight := e.flight.filter fun f => !f.lands f.land ok } }

/-- The outstanding requests of one AG element performed, as many as a count says (R197). -/
def quiesceAg (g i : Nat) : Nat → State → State
  | 0, s => s
  | n + 1, s =>
    let s := nextOr s (execAgStorePerformed g (i / 16) (i % 16) s)
    quiesceAg g i n (nextOr s (execAgReply g (i / 16) (i % 16) s))

/-- The tiles in flight of an entry complete (R421). -/
def quiesceTiles (g q tl n : Nat) : Nat → State → State
  | 0, s => s
  | f + 1, s => quiesceTiles g q tl n f (match ((s.eng g).queue q).find? fun x => decide (x.tl = tl ∧ x.opnum = n ∧ x.state = 1 ∧ x.tiles ≠ []) with
    | some x => s.landOne g x
    | none => s)

/-- The tiles in flight of a raft complete (R421). -/
def quiesceRaft (s : State) (g raft : Nat) : State :=
  ((s.eng g).queue (1 + raft)).foldl (fun s x => quiesceTiles g (1 + raft) x.tl x.opnum x.tiles.length s) s

/-- The operations of a timeline that have finished retire (R277, R421). -/
def quiesceRetire (g q : Nat) : Nat → State → State
  | 0, s => s
  | n + 1, s => quiesceRetire g q n (nextOr s (execEntryRetire g q s))

/-- A drain goes on while its ports accept (R421). -/
def quiesceDrain (g t : Nat) : Nat → State → State
  | 0, s => s
  | n + 1, s =>
    match ((s.stand g).set t).drain with
    | none => s
    | some d =>
      let s' := nextOr s (execDrainBeat g t s)
      if (((s'.stand g).set t).drain.map (·.beat)) = some d.beat then s' else quiesceDrain g t n s'

/-- An entry as a quiesce leaves it (R421): rafts keep their progress without notices, a weight load waits again with its token. -/
def QEntry.quiesce (x : QEntry) : QEntry :=
  if x.state ≠ 1 then x
  else if x.kind = 4 then { x with state := 0, held := x.pop, regs := [], issued := 0 }
  else if x.kind = 2 ∨ x.kind = 5 then { x with tiles := [], notices := [], pages := [] }
  else x

/-- The slots that the unused notices of a link entry name are again those no tile has been sent to (R340, R421). -/
def Engines.keepSlots (e : Engines) (x : QEntry) : Engines :=
  if x.kind = 5 ∧ x.state = 1 then
    { e with resv := e.resv.map fun r => if r.isOf x.desc then { r with slots := r.slots ++ x.tiles.map (·.2) ++ x.notices } else r }
  else e

/-- The queues of a glade as a quiesce leaves them. -/
def Engines.quiesce (e : Engines) : Engines :=
  let e := (e.queue 1 ++ e.queue 2).foldl Engines.keepSlots e
  { e with queues := e.queues.map fun q => (q.1, q.2.map QEntry.quiesce) }

/-- A glade of a launch is quiesced: woodward, thicket, rafts, stand, weight-load, in the order of R421. -/
def State.quiesce (s : State) (g : Nat) : State :=
  let s := (s.discard g).modEng g Engines.flush
  let ok := s.releasedAt g
  let is := (s.th g).elems.map (·.1)
  let s := is.foldl (fun s i => quiesceAg g i ((s.th g).elem (i / 16) (i % 16)).agOut.length s) s
  let s := s.modTh g fun t => is.foldl (quiesceElem ok) t
  let s := quiesceRaft (quiesceRaft s g 0) g 1
  let s := releaseFires g ((s.stand g).fires.filter fun f => !f.released) s
  let s := s.modStand g fun x => { x.fires.foldl (fun x f => x.land (s.cyAt g) f) x with fires := [] }
  let s := quiesceDrain g 1 600 (quiesceDrain g 0 600 s)
  let s := match ((s.eng g).queue 4).find? fun x => decide (x.state = 1) with
    | some x => setPlanes none {} (s.wloadGlades g x.desc) s
    | none => s
  let s := ((s.eng g).queues.flatMap (·.2)).foldl (fun s x => quiesceRetire g x.tl 1 s) s
  s.modEng g Engines.quiesce

/-- Glades of a launch are quiesced: first their blocks are discarded, with every hold of them (R421). -/
def State.quiesceGlades (s : State) (gs : List Nat) : State := gs.foldl State.quiesce (gs.foldl State.discard s)

/-- An AG request of a launch waits for a sector that a block of another launch's glade holds (R263). -/
def State.agHeld (s : State) (d n : Nat) : Bool :=
  let gs := (s.sides d n).map (·.1)
  let others := s.glades.filter fun x => !gs.contains x.1
  gs.any fun g => (s.th g).elems.any fun e => e.2.agOut.any fun r => others.any fun x => (x.2.cur.ww.block.map fun b => b.holds r.phys r.size).getD false

/-- The AG requests of one bough of a glade performed as far as no sector is held (R197): in the inactive bough as if it were the active one. -/
def State.settleAg (s : State) (g : Nat) (b : Bool) : State :=
  let perform (s : State) : State :=
    ((s.th g).elems.map (·.1)).foldl (fun s i => quiesceAg g i ((s.th g).elem (i / 16) (i % 16)).agOut.length s) s
  if (s.glade g).active = b then perform s else (perform (s.modGlade g Glade.turned)).modGlade g Glade.turned

/-- A bough has AG requests outstanding. -/
def Bough.asking (b : Bough) : Bool := b.th.elems.any fun e => decide (e.2.agOut ≠ [])

/-- The stores and atomics that a cancelled bough leaves outstanding because an atomic holds their sector: they are performed all the same (R45, R197, R263)
(DEDUCED, log entry 105). -/
def Bough.orphans (ctx g : Nat) (b : Bough) : List Orphan :=
  b.th.elems.flatMap fun e => ((e.2.agOut.filter fun r => decide (r.kind ≠ .load) && r.old.isNone).map fun r => ⟨ctx, agAgent g (e.1 / 16) (e.1 % 16), r⟩)

/-- An outstanding request of a cancelled unit is performed (R212, R213). -/
def State.performOrphan (s : State) (o : Orphan) : State :=
  let r := o.req
  if s.agOwned r = false then s
  else match r.kind with
    | .load => s
    | .store => s.write r.phys (toBytes r.size r.operand.toNat) r.before_ none o.agent
    | .atom op _ =>
      let heads := s.rels
      { s.write r.phys (toBytes r.size (agFn op (8 * r.size) (s.num r.phys r.size) (r.operand.toNat % 2 ^ (8 * r.size)))) r.before_ none o.agent with rels := heads }

/-- The outstanding requests of cancelled units, those of one element in order; one whose sector is held waits (R263). -/
def runOrphans : List Orphan → State → State
  | [], s => s
  | o :: t, s =>
    if s.heldRange 512 o.req.phys o.req.size ∨ (s.orphans.any fun x => decide (x.agent = o.agent)) = true then runOrphans t { s with orphans := s.orphans ++ [o] }
    else runOrphans t (s.performOrphan o)

def State.settleOrphans (s : State) : State := runOrphans s.orphans { s with orphans := [] }

/-! ## The glade record (R418, R419) -/

/-- The 64 RW system registers in ascending number (R149, R418). -/
def Woodward.saved (w : Woodward) : List Word :=
  [w.trapCause, w.trapBlock, w.trapValue, w.trapHandler, w.link, BitVec.ofNat 64 w.waitlim]
    ++ ((List.range 16).flatMap fun i => [nget 0 w.mqQ i, nget 0 w.mqInv i, nget 0 w.mqSq i])
    ++ ((List.range 8).map fun j => nget 0x7F w.rsc j) ++ [w.seqid, w.pos]

/-- Words of 8 bytes, least significant byte first (R4). -/
def words8 (l : List Nat) : List Byte := l.flatMap (toBytes 8)

/-- The control word of an entry (R285). -/
def QEntry.control (x : QEntry) : Nat :=
  2 ^ 24 * (x.offset % 2 ^ 40) + 2 ^ 21 * x.peer + 2 ^ 20 * b2n x.push + 2 ^ 19 * b2n x.pop + 2 ^ 18 * b2n x.timed + 2 ^ 16 * x.state
    + 2 ^ 12 * x.kind + 2 ^ 11 * b2n x.remote + 16 * x.fromPos

/-- The record of an entry (R419); `fires` are those its standing operation has completed. -/
def QEntry.saved (fires : Nat) (x : QEntry) : List Byte :=
  let progress := if x.kind = 2 ∨ x.kind = 5 then x.issued else if x.kind = 1 then fires else 0
  words8 [x.control, x.opnum, progress, b2n x.held] ++ List.replicate 32 0 ++ sliceB x.desc 0 192

/-- The rill record (R419). -/
def Rill.saved (r : Rill) : List Byte :=
  words8 [r.cfg.toNat, r.arrived, r.base, r.arms, r.pending] ++ toBytes 1 r.status ++ [0] ++ toBytes 2 r.oseq.toNat ++ toBytes 4 0

/-- The code of a slot state (R418). -/
def SlotState.code : SlotState → Nat
  | .free => 0
  | .reserved => 1
  | .filling => 2
  | .full => 3

/-- A zone descriptor in the layout of R339. -/
def Zone.saved (z : Zone) : List Byte :=
  toBytes 4 z.base ++ toBytes 4 z.ssize ++ toBytes 1 z.slots ++ toBytes 1 z.rill ++ toBytes 1 (b2n z.perSlot) ++ toBytes 1 (b2n z.valid) ++ toBytes 4 0

/-- A slot word (R418). -/
def ZSlot.saved (x : ZSlot) : Nat := x.st.code + 4 * x.key.pkg + 2 ^ 10 * x.key.glade + 2 ^ 19 * x.key.rill

/-- The stand part of a record (R419). -/
def Stand.saved (x : Stand) : List Byte :=
  let op (k : Nat) : Option StandOp := nfind x.ops k
  let nan (y : TileSet) : List Byte := toBytes 12 (y.nanRows.foldl (fun n r => n ||| 2 ^ r) 0)
  let beat (y : TileSet) : Nat := (y.drain.map (·.beat)).getD 0
  ((List.range 4).flatMap fun k => sliceB ((op k).map (·.desc) |>.getD []) 0 64)
    ++ words8 ((List.range 4).map fun k => (op k).map (·.fires) |>.getD 0) ++ words8 [x.stat.toNat] ++ List.replicate 24 0
    ++ sliceB x.plane0.desc 0 64 ++ sliceB x.plane1.desc 0 64 ++ nan x.set0 ++ nan x.set1 ++ words8 [beat x.set0, beat x.set1]

/-- The header of a record (R419). -/
def recordHeader (g : Nat) (b : Bough) (p : Place) (phase reason us : Nat) : List Byte :=
  let w := b.ww
  let run := b.th.run
  toBytes 4 0x53415645 ++ toBytes 2 1 ++ toBytes 1 reason ++ toBytes 1 (2 * b2n w.inh) ++ toBytes 2 p.ctx ++ toBytes 2 (4096 * p.die + p.arm)
    ++ toBytes 2 (p.upos + 256 * p.uy + 4096 * p.ux) ++ toBytes 2 g
    ++ words8 [phase, b.th.cnt, if w.halted then 2 ^ 64 - 1 else w.fetch, (run.map (·.opnum)).getD 0, (run.map fun r => b.th.cnt - r.first).getD 0, us]
    ++ toBytes 4 Config.recordLayout.toNat

/-- The route table as rewritten at placement (R36, R326) (DEDUCED, log entry 54). -/
def Place.routes (p : Place) (g : Nat) (e : Engines) : List Nat :=
  (List.range 256).map fun i => p.routed g (nget 0 e.routes i).toNat

/-- Bytes 0 to 0xBFFF of a glade record (R418): the parts software interprets. -/
def gladeRecord (g : Nat) (b : Bough) (p : Place) (phase reason us : Nat) : List Byte :=
  let w := b.ww
  let e := b.eng
  let queue (q : Nat) : List Byte :=
    sliceB ((e.queue q).flatMap fun x => x.saved (((e.stand.ops.find? fun o => decide (o.2.opnum = x.opnum)).map (·.2.fires)).getD 0)) 0 (256 * queueDepth q)
  let tl (k : Nat) : List Nat := let t := nget ({} : Timeline) e.tls k; [t.issued, t.retired, t.badnum, t.nonok]
  let state := b2n w.inh + 2 * b2n w.hlt + 4 * b2n w.mark
  sliceB (recordHeader g b p phase reason us) 0 256
    ++ words8 ((List.range 64).map fun i => (w.reg i).toNat) ++ words8 [w.q.toNat] ++ words8 (w.saved.map BitVec.toNat) ++ words8 [0]
    ++ words8 [w.floor.toNat, w.lastTs.getD 0, state]
    ++ words8 ((List.range 16).map fun k => (nget 0 w.evc k).toNat) ++ words8 ((List.range 16).map fun k => (nget 0 w.evseen k).toNat)
    ++ words8 ((List.range 6).flatMap tl) ++ words8 ((List.range 16).map fun k => (nget 0 w.perf k).toNat) ++ List.replicate 152 0
    ++ (List.range 5).flatMap queue
    ++ sliceB ((List.range 36).map fun k => BitVec.ofNat 8 (e.tokens k)) 0 64
    ++ sliceB (words8 (e.credits.map fun c => c.offset % 2 ^ 40 + 2 ^ 40 * fifoKey c.peer c.peer + 2 ^ 63)) 0 64
    ++ sliceB (sliceB (e.stand.steering.map fun x => BitVec.ofNat 8 x.1) 0 8 ++ [BitVec.ofNat 8 e.stand.steering.length]) 0 16
    ++ (List.range 32).flatMap (fun r => (e.rill r).saved) ++ List.replicate 368 0
    ++ words8 (p.routes g e)
    ++ (List.range 16).flatMap (fun z => (nget {} e.zones z).saved)
    ++ words8 ((List.range 1024).map fun i => (nget {} (nget ({} : Zone) e.zones (i / 64)).slot (i % 64)).saved)
    ++ sliceB e.stand.saved 0 0xF00

/-- The number of 8-byte words of the sections from 0x0_C000 to 0xC_FFFF, which software does not interpret (R418). -/
def layoutWords : Nat := 0x18800

/-- Those sections, laid out as the header's layout field names: free values, the bough itself is kept for the restore (DESIGN CHOICE, log entry 82). -/
def State.layoutBytes (s : State) : List Byte := (List.range layoutWords).flatMap fun i => toBytes 8 (Config.freeWord (s.free + i)).toNat

/-! ## The save area (R418, R434) -/

/-- The offset of a record slot, and past the slots that of a band slot, in a save area: the bands of the dies in order (R418, R434) (DESIGN CHOICE, log entry 9). -/
def recordOff (slot : Nat) : Nat := 65536 + 0x1D0000 * slot
def Job.bandOff (j : Job) (d c : Nat) : Nat :=
  recordOff j.gladeCap + 12582912 * (((List.range d).map fun e => (j.bands e).length).sum + ((j.bands d).filter fun b => decide (b < c)).length)

/-- The record slots of a job in use. -/
def State.usedSlots (s : State) (ctx : Nat) : List Nat :=
  s.dies.flatMap fun d => d.2.saved.flatMap fun x => match nfind d.2.launches x.1 with
    | some l => if l.ctx = ctx then x.2.map (·.off) else []
    | none => []

/-- The directory entry of a saved glade (R418). -/
def directoryEntry (p : Place) (slot : Nat) : List Byte :=
  words8 [2 ^ 63 + 2 ^ 28 * p.ux + 2 ^ 24 * p.uy + 2 ^ 16 * p.upos + 4096 * p.die + p.arm, recordOff slot]

/-- A bough of a glade written to its record (R418, R420, R421): the lowest free slot, the record, the directory entry, and the whole bough kept for the
restore. -/
def State.writeRecord (s : State) (d l g : Nat) (b : Bool) (reason : Nat) (cells : List Host.Cell) : State :=
  let x := (s.glade g).pick b
  match x.place with
  | none => s
  | some p =>
    let j := s.job p.ctx
    let used := s.usedSlots p.ctx
    let slot := ((List.range (used.length + 1)).find? fun k => !used.contains k).getD 0
    let phase := ((s.launch d l).map (·.phase)).getD 0
    let s := if slot < j.gladeCap ∧ (s.fn p.vf).banned = false then
        let s := s.putNoted (hbmAt + j.savePa + recordOff slot) (gladeRecord g x p phase reason s.micros ++ s.layoutBytes) []
        { s with free := s.free + layoutWords }.putNoted (hbmAt + j.savePa + 16 * slot) (directoryEntry p slot) []
      else s
    s.modDie d fun y => { y with saved := nmod [] y.saved l fun v => v ++ [⟨p.upos, p.ux, p.uy, g, slot, reason, x, cells, []⟩] }

/-- The records of a launch are no longer valid: their directory entries are cleared. -/
def State.dropRecords (s : State) (d l ctx : Nat) : State :=
  let j := s.job ctx
  let s := (nget [] (s.die d).saved l).foldl (fun s v =>
    if v.off < j.gladeCap then { s.forget (hbmAt + j.savePa + 16 * v.off) 16 with mem := memZero s.mem (hbmAt + j.savePa + 16 * v.off) 16 } else s) s
  s.modDie d fun y => { y with saved := ndel y.saved l }

/-! ## Evictions (R235, R238) -/

/-- A burrow row that a saved unit left in a glade, as it stands there: in the other bough, or taken from the glade by a forced pre-emption. -/
def State.rowLeft (s : State) (d l : Nat) (v : Saved) (b : Bool) (row : Nat) : List Byte :=
  if Place.of d l ((s.glade v.glade).pick (!b)).place then s.bytes (burrowAt v.glade (!b) + 128 * row) 128
  else (List.range 128).map fun i => nget 0 v.cells (128 * row + i)

/-- A row of a saved unit is written to its record, with bit 0 of the header's byte 7, at the first access to it by the unit of a bough of the glade (R238, R418, R419). -/
def State.evictRow (s : State) (d l : Nat) (v : Saved) (b : Bool) (row : Nat) : State :=
  match v.bough.place with
  | none => s
  | some p =>
    if row ∈ v.evicted then s
    else
      let j := s.job p.ctx
      let at_ := hbmAt + j.savePa + recordOff v.off
      let s := if v.off < j.gladeCap ∧ (s.fn p.vf).banned = false then
          (s.putNoted (at_ + 0xD0000 + 128 * row) (s.rowLeft d l v b row) []).putNoted (at_ + 7) (toBytes 1 (1 + 2 * b2n v.bough.ww.inh)) []
        else s
      s.modDie d fun y => { y with saved := nmod [] y.saved l fun vs => vs.map fun w => if w.glade = v.glade ∧ w.off = v.off then { w with evicted := w.evicted ++ [row] } else w }

/-- The rows of a glade's burrow that an access of its unit in a bough meets, as every saved unit left them there (R238) (rows of 128 bytes: DESIGN CHOICE, log
entry 82). -/
def State.evictRows (s : State) (g : Nat) (b : Bool) (lo hi : Nat) : State :=
  let d := dieOf g
  (s.die d).saved.foldl (fun s x => if Place.of d x.1 ((s.glade g).pick b).place then s else
    (x.2.filter fun v => decide (v.glade = g)).foldl (fun s v => (List.range (hi + 1 - lo)).foldl (fun s i => s.evictRow d x.1 v b (lo + i)) s) s) s

/-- A line of an understory as every other context that holds its band in the inactive bough left it is written to that context's band slot, at the first access to it
(R235, R238); reserved lines take no part (R354). -/
def State.evictLine (s : State) (ctx d line : Nat) : State :=
  let c := line / 24576
  (nkeys s.jobs fun k j => decide (k ≠ ctx) && (j.bands d).contains c && !s.clearingActive (16 * d + c) (j.bough d) && !(s.die d).lineReserved k line
      && !j.evicted.contains (d, line)).foldl (fun s k =>
    let j := s.job k
    (if (s.fn j.vf).banned then s
      else s.putNoted (hbmAt + j.savePa + j.bandOff d c + 512 * (line % 24576)) (s.bytes (shrAt k d + 512 * line) 512) []).modJob k fun j =>
        { j with evicted := j.evicted ++ [(d, line)] }) s

/-- A noted access takes effect: what it evicts (R238), and the overflow-area reads of a write (R243). -/
def State.settleTouch (s : State) (t : Touch) : State :=
  let s := t.merge.foldl (fun s n => s.life 7 (s.stackOf (32 * n)) 1) s
  if t.len = 0 then s
  else if t.place < burrowAt 512 false then
    s.evictRows (t.place / 2 ^ 21) (decide (t.place / 2 ^ 20 % 2 = 1)) (t.place % 2 ^ 20 / 128) ((t.place % 2 ^ 20 + t.len - 1) / 128)
  else if shrAt 0 0 ≤ t.place ∧ t.place < 2 ^ 60 then
    let a := t.place - shrAt 0 0
    (List.range ((a % 2 ^ 28 + t.len - 1) / 512 + 1 - a % 2 ^ 28 / 512)).foldl (fun s i => s.evictLine (a / 2 ^ 30) (a / 2 ^ 28 % 4) (a % 2 ^ 28 / 512 + i)) s
  else s

/-- The accesses of a cy take effect on what other contexts left in place. -/
def State.settleTouches (s : State) : State := s.touched.foldl State.settleTouch { s with touched := [] }

/-! ## Restore (R420, R422, R463) -/

/-- A stand as a restore finds it (R420): planes that a weight load filled are LOADING again, the active one first; the others are EMPTY. -/
def Stand.restore (x : Stand) : Stand :=
  let load (i : Nat) : List Byte × Nat × Nat :=
    if (x.plane i).desc ≠ [] then ((x.plane i).desc, (x.plane i).src) else ((x.reload.find? fun r => decide (r.1 = i)).map (·.2)).getD ([], 0, 0)
  let plane (i : Nat) : Plane := if (load i).1 = [] then {} else { st := 1, desc := (load i).1, src := (load i).2 }
  { x with plane0 := plane 0, plane1 := plane 1, reload := ([x.active, x.idle].filter fun i => (load i).1 ≠ []).map fun i => (i, load i) }

/-- The STARTED streams of a resident glade re-arm (R76, R422): one notice for each EMPTY slot of a raft stream, the slots of its reservation for a
link entry. -/
def State.rearmStreams (s : State) (g : Nat) : State :=
  let e := s.eng g
  (e.queue 1 ++ e.queue 2).foldl (fun s x =>
    if x.state ≠ 1 then s
    else if x.kind = 2 then s.modEng g fun e => e.modEntry x.tl x.opnum fun y => { y with notices := s.freeSlots g x.desc }
    else if x.kind = 5 then
      match e.resv.find? fun r => r.isOf x.desc with
      | some r =>
        let s := s.modEng g fun e => { e.modEntry x.tl x.opnum fun y => { y with notices := ascending r.slots } with
          resv := e.resv.map fun r => if r.isOf x.desc then { r with slots := [] } else r }
        if x.issued = ldTiles x.desc then s.finishEntry g x.tl x.opnum 0
        else if (s.link x.link).st = .up then s else s.finishEntry g x.tl x.opnum 4
      | none => s.finishEntry g x.tl x.opnum 4
    else s) s

/-- The burrow bytes of a bough that differ from 0, by offset. -/
def State.burrowCells (s : State) (g : Nat) (b : Bool) : List Host.Cell :=
  (s.mem.filter fun c => decide (burrowAt g b ≤ c.1 ∧ c.1 < burrowAt g b + 2 ^ 20)).map fun c => (c.1 - burrowAt g b, c.2)

/-- A burrow that holds these bytes and zeros elsewhere, as its initial writes (R265). -/
def State.fillBurrow (s : State) (g : Nat) (b : Bool) (cells : List Host.Cell) : State :=
  { s.forget (burrowAt g b) (2 ^ 20) with mem := cells.foldl (fun m c => memSet m (burrowAt g b + c.1) c.2) (memZero s.mem (burrowAt g b) (2 ^ 20)) }

/-- A saved glade placed again (R422, R463): its bough with a new place, its planes to be loaded, its burrow's bytes. -/
def State.restoreGlade (s : State) (g : Nat) (b : Bool) (p : Place) (v : Saved) : State :=
  (s.fillBurrow g b v.cells).modSide g b fun _ => { v.bough with place := some p, eng := { v.bough.eng with stand := v.bough.eng.stand.restore } }

end Sys2Proof.Machine
end

