-- ==== Sys2Proof/Machine/Launches.lean ====
section
/-! DEFINITION. Tagged messages (R47 to R50, R283, R313), completion counters and records (R33, R391), graph instances (R50), the end of a launch (R42) and
cancel (R45, R46, R394, R425). -/

namespace Sys2Proof.Machine

/-- One microsecond and one millisecond of the wall clock. -/
def usWall : Nat := 7560000
def msWall : Nat := 7560000000

/-! ## Counters (R33, R391) -/

/-- An arm entry changed, where it is not FREE. -/
def State.modArm (s : State) (d e : Nat) (f : ArmEnt → ArmEnt) : State :=
  s.modDie d fun x => match nfind x.arms e with
    | some a => { x with arms := nset x.arms e (f a) }
    | none => x

def State.advUnit (s : State) (d e upos : Nat) (st : Status) : State := s.modArm d e fun a => { a with units := nmod {} a.units upos (·.advance st) }
def State.advPhase (s : State) (d e : Nat) (st : Status) : State := s.modArm d e fun a => { a with phase := a.phase.advance st }
def State.advLaunch (s : State) (d e : Nat) (st : Status) : State := s.modArm d e fun a => { a with launch := a.launch.advance st }
def State.advGraph (s : State) (d e : Nat) (st : Status) : State := s.modArm d e fun a => { a with graph := a.graph.advance st }
def State.advJob (s : State) (ctx : Nat) (st : Status) : State := s.modJob ctx fun j => { j with counter := j.counter.advance st }

/-! ## Completion records (R313, R314, R447, R451) -/

def Fn.ring (f : Fn) (i : Nat) : Ring := nget {} f.rings i
def Fn.modRing (f : Fn) (i : Nat) (h : Ring → Ring) : Fn := { f with rings := nmod {} f.rings i h }

/-- A vector of a function waits to be sent (R447). -/
def Fn.signal (f : Fn) (v : Nat) : Fn := { f with msixPend := if v ∈ f.msixPend then f.msixPend else f.msixPend ++ [v] }

/-- The 16 bytes of a completion record (R313). -/
def recordBytes (tag status ordinal : Nat) : List Byte := toBytes 4 tag ++ toBytes 1 status ++ toBytes 3 0 ++ toBytes 8 ordinal

/-- A completion record of a ring written; nothing is written for a function whose reset has been accepted (R313, R424). -/
def State.ringRecord (s : State) (vf ring idx tag status ordinal : Nat) : State :=
  let f := s.fn vf
  if f.banned then s
  else (s.write (hostAt vf + (f.ring ring).cq + 16 * idx) (recordBytes tag status ordinal) []).modFn vf fun f => f.signal (ring + 1)

/-- The completion record of a message goes where the message came from: its ring's record area, or its link or another link to the sender; with no
such link it is dropped and counted (R313, R314, R451). -/
def State.record (s : State) (o : Origin) (status : Nat) : State :=
  match o with
  | .ring vf ring idx ordinal tag =>
    (s.ringRecord vf ring idx tag status ordinal).modFn vf fun f => f.modRing ring fun r => { r with pendingRecs := r.pendingRecs - 1 }
  | .link n id tag =>
    let l : Option Nat := if (s.link n).st = .up then some n else s.linkTo (s.link n).peer
    match l with
    | some l => s.sendFlit l 5 (recordBytes tag status id ++ toBytes 8 id ++ List.replicate 204 0)
    | none => s.modLink n fun l => { l with dropped := l.dropped + 1 }

/-- The record of an origin, if there is one. -/
def State.recordFor (s : State) (o : Option Origin) (status : Nat) : State :=
  match o with
  | some o => s.record o status
  | none => s

/-! ## Launches and graph instances (R50) -/

/-- The ring's message that a launch is fired by (R283). -/
def originPts (o : Option Origin) : List Point :=
  match o with
  | some (.ring vf r _ ordinal _) => [.msg vf r ordinal]
  | _ => []

/-- The launches that an entry's launch becomes eligible through in the graph of a root (R50, R282). -/
def State.predPts (s : State) (d e : Nat) (root : Option Nat) : List Point :=
  match root with
  | some r => (s.arm (4096 * d + e)).preds.map (.member r)
  | none => []

/-- A launch fired from an entry: eligible at once (R50), one unit for each image (R32), its tasks after the launches it becomes eligible through and after what the fetch of its
message acquired (R282, R283). -/
def State.fireLaunch (s : State) (d e payload : Nat) (origin : Option Origin) (root : Option Nat) : State × Nat :=
  let a := nget {} (s.die d).arms e
  let n := (s.die d).nextLaunch
  let l : Launch := { arm := e, ctx := a.ctx, cls := a.cls, eligAt := s.wall, payload := payload, origin := origin, root := root
                      units := a.images.map fun m => { w := imgW m, h := imgH m } }
  ((s.flow (originPts origin ++ s.predPts d e root) (.launch (launchKey d n))).modDie d fun x => { x with launches := nset x.launches n l, nextLaunch := n + 1 }, n)

/-- The keys (4096 × die + index) of the NONROOT entries ARMED in the graph of a root. -/
def State.memberKeys (s : State) (root : Nat) : List Nat :=
  (List.range 4).flatMap fun d =>
    (nkeys (s.die d).arms fun _ e => decide (e.st = .armed ∧ e.kind = 2 ∧ e.root = root)).map fun i => 4096 * d + i

def State.modInstance (s : State) (root : Nat) (f : Instance → Instance) : State :=
  s.modDie (root / 4096) fun x => { x with instances := x.instances.map fun i => if i.root = root then f i else i }

def State.instance? (s : State) (root : Nat) : Option Instance := (s.die (root / 4096)).instances.find? fun i => decide (i.root = root)

/-- A graph instance of a root entry begins with the root's launch (R50). -/
def State.startInstance (s : State) (d e payload : Nat) (origin : Option Origin) : State :=
  let root := 4096 * d + e
  let keys := s.memberKeys root
  let ctx := (s.arm root).ctx
  let base := (root :: keys).map fun k => (k, (s.arm k).launch.count)
  match s.fireLaunch d e payload origin (some root) with
  | (s, n) => (s.modArm d e fun a => { a with running := true }).modDie d fun x => { x with
      instances := x.instances ++ [{ root := root, ctx := ctx, payload := payload, origin := origin, todo := keys, live := [launchKey d n], base := base }] }

/-- An entry of an instance whose predecessors have all advanced since the instance began (R50). -/
def State.predsDone (s : State) (i : Instance) (k : Nat) : Bool :=
  (s.arm k).preds.all fun p => decide (nget 0 i.base p + 1 ≤ (s.arm p).launch.count) || (s.arm p).st = .free

/-- The launch of an entry of an instance is not started: its counter advances CANCELLED (R45, R50, R325). -/
def State.skipEntry (s : State) (root k : Nat) : State :=
  (s.advLaunch (k / 4096) (k % 4096) .cancelled).modInstance root fun i =>
    { i with todo := i.todo.filter (· ≠ k), bad := i.bad ++ [k], status := if i.status = .ok then .cancelled else i.status }

/-- The entries of an instance that can be decided now, one after another: eligible where every predecessor's advance was OK, else not started; an entry
no longer ARMED, or any entry of a cancelled instance, is not started (R45, R50, R325). -/
def stepInstance (root : Nat) : Nat → State → State
  | 0, s => s
  | n + 1, s =>
    match s.instance? root with
    | none => s
    | some i =>
      match i.todo.find? fun k => i.cancelled || s.predsDone i k with
      | none => s
      | some k =>
        if i.cancelled ∨ ((s.arm k).preds.any fun p => decide (p ∈ i.bad)) = true ∨ (s.arm k).st ≠ .armed then stepInstance root n (s.skipEntry root k)
        else match s.fireLaunch (k / 4096) (k % 4096) i.payload none (some root) with
          | (s, l) => stepInstance root n (s.modInstance root fun i => { i with todo := i.todo.filter (· ≠ k), live := i.live ++ [launchKey (k / 4096) l] })

/-- The queued matches of a root entry, as many as a count says, are cancelled (R394): their launches are not started, and the launch counter of each entry of the graph advances (R45). -/
def cancelMatches (d e : Nat) : Nat → State → State
  | 0, s => s
  | n + 1, s =>
    match (s.arm (4096 * d + e)).waiting with
    | [] => s
    | (o, _) :: rest =>
      let s := ((4096 * d + e) :: s.memberKeys (4096 * d + e)).foldl (fun s k => s.advLaunch (k / 4096) (k % 4096) .cancelled) s
      cancelMatches d e n ((((s.modArm d e fun a => { a with waiting := rest }).advGraph d e .cancelled).record o 1).advJob (s.arm (4096 * d + e)).ctx .cancelled)

/-- The queued matches that a cancel of a root entry has named are cancelled, before its running instance goes on (R394). -/
def State.cancelNamed (s : State) (d e : Nat) : State :=
  let n := (s.arm (4096 * d + e)).cancelWaiting
  if n = 0 then s else (cancelMatches d e n s).modArm d e fun a => { a with cancelWaiting := 0 }

/-- The advances of the graph and job counters of an instance release what its launches did (R282, R391). -/
def State.endMembers (s : State) (root : Nat) (i : Instance) : State :=
  let members := i.base.map fun k => Point.member root k.1
  ((s.flow members (.counter 3 root 0)).flow members (.counter 4 i.ctx 0)).dropPoints fun p => match p with
    | .member r _ => decide (r = root)
    | _ => false

/-- An instance with nothing left completes: graph and job counter advance, its record is written, and the next queued match begins (R33, R50, R313). -/
def State.settleInstance (s : State) (root : Nat) : State :=
  let s := stepInstance root 64 s
  match s.instance? root with
  | none => s
  | some i =>
    if i.todo ≠ [] ∨ i.live ≠ [] then s
    else
      let d := root / 4096
      let e := root % 4096
      let s := s.modDie d fun x => { x with instances := x.instances.filter fun j => decide (j.root ≠ root) }
      let s := s.endMembers root i
      let s := ((s.advGraph d e i.status).recordFor i.origin i.status.code).advJob i.ctx i.status
      let s := (i.base.foldl (fun s k => s.settleArm (k.1 / 4096) (k.1 % 4096)) s).cancelNamed d e
      match (s.arm root).waiting with
      | [] => (s.modArm d e fun a => { a with running := false }).settleArm d e
      | (o, p) :: rest => (s.modArm d e fun a => { a with waiting := rest }).startInstance d e p (some o)

/-! ## Zones and reservations of a unit that leaves (R45, R340, R344) -/

/-- The keys of reservations on the zones of a glade. -/
def Engines.zoneKeys (e : Engines) : List (Nat × SlotKey) :=
  e.zones.flatMap fun z => ((z.2.slot.filter fun x => decide (x.2.st ≠ .free)).map fun x => (z.1, x.2.key)).eraseDups

/-- A reservation a zone has ended is reported to its source (R344): to another package by ENDED, on the own package at once. -/
def State.reportEnded (s : State) (g zone : Nat) (k : SlotKey) : State :=
  if k.pkg = s.self then s.modHome k.glade (Engines.sourceOf s.self zone k.rill) fun e =>
    { e with resv := e.resv.filter fun r => ¬(r.pkg = s.self ∧ r.glade = g ∧ r.zone = zone ∧ r.rill = k.rill) }
  else s.report k.pkg (slotCtl 6 g zone k.glade k.rill 0 0 0)

/-- The reservations a cancelled unit holds are given up (R45): by a reclaim message to another package, at once on the own. -/
def State.reclaim (s : State) (g : Nat) (r : Resv) : State :=
  if r.pkg = s.self then (s.modHome r.glade (Engines.holdsKey r.zone ⟨s.self, g, r.rill⟩) fun e => e.endKey r.zone ⟨s.self, g, r.rill⟩).settleTears
  else s.report r.pkg (slotCtl 5 r.glade r.zone g r.rill 0 0 0)

/-- The engines of a unit are no more: reservations on its zones end (R344), and those it holds are reclaimed where it was cancelled (R45). -/
def State.endKeys (s : State) (g : Nat) (e : Engines) (cancelled : Bool) : State :=
  let s := e.zoneKeys.foldl (fun s k => s.reportEnded g k.1 k.2) s
  if cancelled then e.resv.foldl (fun s r => s.reclaim g r) s else s

/-- The entries of a timeline that a cancel discards retire CANCELLED in number order (R291, R386). -/
def Timeline.discard (t : Timeline) : Timeline :=
  if t.retired < t.issued then { t with retired := t.issued, badnum := t.issued, nonok := t.nonok + (t.issued - t.retired), badstat := 1 } else t

/-- The engines of a cancelled unit: their entries, tokens and timers are discarded, their counts stay (R291, R386). -/
def Engines.cancel (e : Engines) : Engines := { tls := e.tls.map fun t => (t.1, t.2.discard) }

/-- A unit leaves a glade: its reservations end (R45, R344), and the bough is free. -/
def State.vacate (s : State) (g : Nat) (b : Bool) (cancelled : Bool) : State :=
  let x := (s.glade g).pick b
  let s : State := if cancelled then { s with orphans := s.orphans ++ x.orphans ((x.place.map (·.ctx)).getD 0) g } else s
  ((s.endKeys g ((s.glade g).pick b).eng cancelled).modSide g b fun _ => {}).modGlade g fun x => { x with walks := [], walkFaults := [], swapDue := none }

/-- The same of a unit that is saved: its reservations end, and what it had outstanding is performed. -/
def State.endSaved (s : State) (ctx : Nat) (cancelled : Bool) (v : Saved) : State :=
  (if cancelled then { s with orphans := s.orphans ++ v.bough.orphans ctx v.glade } else s).endKeys v.glade v.bough.eng cancelled

/-! ## The end of a launch (R33, R42, R45, R50, R402) -/

/-- The index of a status among the usage counters (R402). -/
def Status.usageAt : Status → Option Nat
  | .ok => none
  | .cancelled => some 13
  | .faulted => some 14
  | .peerAbort => none

/-- The engines of a unit's glade by its number: the retirements of each timeline. -/
def retiredPts (home : Nat) : List Point := (List.range 6).map (.retired home)

/-- The numbers of a launch's glades, with their unit positions: those it holds, or its records where it holds none. -/
def State.homesOf (s : State) (d n : Nat) : List (Nat × Nat) :=
  let of (b : Bough) (g : Nat) : Nat × Nat := ((b.place.map (·.upos)).getD 0, b.home g)
  if s.sides d n = [] then (nget [] (s.die d).saved n).map fun v => of v.bough v.glade
  else (s.sides d n).map fun x => of ((s.glade x.1).pick x.2) x.1

/-- What the completion of a launch releases (R42, R282): every write of its tasks and engine operations. -/
def State.launchPts (s : State) (d n : Nat) : List Point := .launch (launchKey d n) :: (s.homesOf d n).flatMap fun h => retiredPts h.2

/-- What the completion of a unit releases (R391): the commits and engine operations of its glades. -/
def State.unitPts (s : State) (d n u : Nat) : List Point :=
  ((s.homesOf d n).filter fun h => decide (h.1 = u)).flatMap fun h => .task h.2 :: retiredPts h.2

/-- The end of a launch releases its writes to the waits on its counter, and of its graph or job (R282, R391). -/
def State.releaseLaunch (s : State) (d n : Nat) (l : Launch) : State :=
  let pts := s.launchPts d n
  let k := 4096 * d + l.arm
  let s := s.flow pts (.counter 1 k 0)
  match l.root with
  | some root => s.flow pts (.member root k)
  | none => s.flow pts (.counter 4 l.ctx 0)

/-- A launch ends with a status: its glades, or the records of a launch that holds none, are free, its pins released, its launch counter advances, and its record is written or its graph goes on
(R33, R42, R50, R282, R313, R377, R402). -/
def State.endLaunch (s : State) (d n : Nat) (st : Status) : State :=
  match s.launch d n with
  | none => s
  | some l =>
    let s := s.releaseLaunch d n l
    let s := if s.sides d n = [] then (nget [] (s.die d).saved n).foldl (fun s v => s.endSaved l.ctx (decide (st ≠ .ok)) v) s
      else (s.sides d n).foldl (fun s x => s.vacate x.1 x.2 (decide (st ≠ .ok))) s
    let s := ((s.graftRelease (launchKey d n)).dropRecords d n l.ctx).modDie d fun x => { x with
      launches := ndel x.launches n, cancels := x.cancels.filter fun c => decide (c.1 ≠ n) }
    let s := (s.advLaunch d l.arm st).usage l.ctx 12 1
    let s := match st.usageAt with
      | some i => s.usage l.ctx i 1
      | none => s
    let s := match l.root with
      | none => (s.recordFor l.origin st.code).advJob l.ctx st
      | some root => (s.modInstance root fun i =>
          let bad := if st = Status.ok then i.bad else i.bad ++ [4096 * d + l.arm]
          let status := if i.status = Status.ok then st else i.status
          { i with live := i.live.filter (· ≠ launchKey d n), bad := bad, status := status }).settleInstance root
    s.settleArm d l.arm

/-! ## Cancel (R45, R46, R394, R412) -/

/-- The first status of a launch that is not OK (R33). -/
def Launch.first (l : Launch) (st : Status) : Status := if l.status = .ok then st else l.status

/-- Whether a launch's glades run now. -/
def Launch.resides (l : Launch) : Bool := decide (l.stage = .running)

/-- Whether the start pulse of a launch has been given. -/
def Launch.begun (l : Launch) : Bool := decide (l.stage ≠ .eligible ∧ l.stage ≠ .placed)

/-- A launch is cancelled with a status (R45, R412): its engines quiesce, every counter of it advances with the status, and it ends. -/
def State.cancelLaunch (s : State) (d n : Nat) (st : Status) : State :=
  match s.launch d n with
  | none => s
  | some l =>
    let s := if l.resides then s.quiesceGlades ((s.sides d n).map (·.1)) else s
    let ups := (List.range l.units.length).filter fun u => !((l.units[u]?).map (·.done)).getD true
    let s := if l.stage = .eligible then s else ups.foldl (fun s u => (s.flow (s.unitPts d n u) (.counter 0 (4096 * d + l.arm) u)).advUnit d l.arm u st) s
    let s := if l.begun then (s.flow (s.launchPts d n) (.counter 2 (4096 * d + l.arm) 0)).advPhase d l.arm st else s
    s.endLaunch d n (l.first st)

/-- A bough whose unit was cancelled (R45): it stands halted until its launch ends. -/
def Bough.stopped (b : Bough) : Bough := { place := b.place, ww := { halted := true }, eng := b.eng.cancel }

/-- One unit of a launch is cancelled (R45, R394): its glades stop, its counter advances, and with the last unit the launch ends. A unit of a launch
that has not been placed makes no advance (DESIGN CHOICE, log entry 84). -/
def State.cancelUnit (s : State) (d n u : Nat) (st : Status) : State :=
  match s.launch d n with
  | none => s
  | some l =>
    match l.units[u]? with
    | none => s
    | some x =>
      if x.done then s
      else
        let mine := (s.sides d n).filter fun y => decide (((((s.glade y.1).pick y.2).place).map (·.upos)) = some u)
        let s := if l.resides then s.quiesceGlades (mine.map (·.1)) else s
        let s := s.flow (s.unitPts d n u) (.counter 0 (4096 * d + l.arm) u)
        let s := mine.foldl (fun s y =>
          let b := (s.glade y.1).pick y.2
          (s.vacate y.1 y.2 true).modSide y.1 y.2 fun _ => b.stopped) s
        let kept := if mine = [] then nget [] (s.die d).saved n else []
        let s := (kept.filter fun v => decide (v.upos = u)).foldl (fun s v => s.endSaved l.ctx true v) s
        let s := if kept = [] then s else s.modDie d fun y => { y with saved := nset y.saved n (kept.map fun v => if v.upos = u then { v with bough := v.bough.stopped } else v) }
        let s := if l.stage = .eligible then s else s.advUnit d l.arm u st
        let us := lset l.units u { x with done := true }
        let s := s.modLaunch d n fun l => { l with units := us, status := l.first st }
        if us.all (·.done) then (if l.begun then (s.flow (s.launchPts d n) (.counter 2 (4096 * d + l.arm) 0)).advPhase d l.arm (l.first st) else s).endLaunch d n (l.first st) else s

/-! ## Tagged messages (R47 to R50) -/

/-- Where a message came from: the counts of its source, and the fault queue its rejection is written to (R49, R409). -/
def State.reject (s : State) (o : Origin) (cause tag ctx : Nat) : State :=
  let v := tag + 2 ^ 32 * (ctx % 1024)
  let un := b2n (decide (cause = 0x14B))
  match o with
  | .ring vf ring _ _ _ =>
    ((s.modFn vf fun f => f.modRing ring fun r => { r with rejected := r.rejected + 1, unmatched := r.unmatched + un }).noGlade cause vf ctx v ring).record o 0x10
  | .link n _ _ =>
    ((((s.modLink n fun l => { l with rejected := l.rejected + 1 }).noGlade cause 0 ctx v n).noGlade 0x185 0 ctx tag n)).record o 0x10

/-- The open job of a context. -/
def State.openJob (s : State) (ctx : Nat) : Option Job := (nfind s.jobs ctx).bind fun j => if j.ending then none else some j

/-- Whether a context belongs to a job of the sending VF, or to a job that admits calls of the sending package (R49, R314). -/
def State.admits (s : State) (o : Origin) (ctx : Nat) : Bool :=
  match s.openJob ctx, o with
  | some j, .ring vf _ _ _ _ => decide (j.vf = vf)
  | some j, .link n _ _ => j.callers.testBit (s.link n).peer
  | none, _ => false

/-- A message at the arm-table front end (R47 to R50): rejected, or its standalone launch or graph instance fired, or queued behind a running instance. -/
def State.message (s : State) (o : Origin) (m : List Byte) : State :=
  let tag := leAt m 0 4
  let c := leAt m 4 2
  let ctx := c % 1024
  let payload := leAt m 8 8
  if 1024 ≤ c ∨ leAt m 6 2 ≠ 0 ∨ 2 ^ 56 ≤ payload ∨ leAt m 16 48 ≠ 0 then s.reject o 0x180 tag c
  else if s.admits o ctx = false then s.reject o 0x180 tag ctx
  else
    let found := (List.range 4).flatMap fun d =>
      (nkeys (s.die d).arms fun _ e => decide (e.st = .armed ∧ e.kind ≠ 2 ∧ e.ctx = ctx ∧ e.tag = tag)).map fun e => (d, e)
    match found with
    | [] => s.reject o 0x14B tag ctx
    | (d, e) :: _ =>
      let a := s.arm (4096 * d + e)
      if a.kind = 0 then (s.fireLaunch d e payload (some o) none).1
      else if a.running = false then s.startInstance d e payload (some o)
      else if a.waiting.length < 16 then s.modArm d e fun a => { a with waiting := a.waiting ++ [(o, payload)] }
      else s.reject o 0x14A tag ctx

/-! ## Collectives (R344, R425) -/

/-- The streams of some keys into a zone are torn (R344): FILLING slots are RESERVED again, and the rills of RESERVED and FILLING slots become TORN. -/
def Zone.tear (z : Zone) (of : SlotKey → Bool) : Zone × List Nat :=
  let hit := z.slot.filter fun x => of x.2.key && decide (x.2.st = .reserved ∨ x.2.st = .filling)
  ({ z with slot := z.slot.map fun x => if of x.2.key ∧ x.2.st = .filling then (x.1, { x.2 with st := .reserved, fill := 0 }) else x }, hit.map fun x => z.rillOf x.1)

/-- The streams into one zone of a glade of one key are torn (R340, R344). -/
def Engines.tearZone (e : Engines) (zone : Nat) (k : SlotKey) : Engines :=
  match nfind e.zones zone with
  | none => e
  | some z =>
    let r := z.tear fun y => decide (y = k)
    { e with zones := nset e.zones zone r.1, late := e.late ++ r.2 }

/-- A stream of an ended job (R425): source glade and rill, destination glade and zone. -/
structure DeadStream where
  glade : Nat
  rill : Nat
  dest : Nat
  zone : Nat
  deriving DecidableEq, Repr

/-- The streams of a package into the zones of a unit of a context are torn, as R344 does. -/
def Bough.tearDead (c pkg : Nat) (ks : List DeadStream) (g : Nat) (b : Bough) : Bough :=
  if b.place.map (·.ctx) = some c then
    { b with eng := ks.foldl (fun e k => if k.dest = g then e.tearZone k.zone ⟨pkg, k.glade, k.rill⟩ else e) b.eng }
  else b

/-- Streams of an ended member job into the units, running or saved, of the other members of its collective on this package are torn (R425). -/
def State.tearDead (s : State) (coll pkg ctx : Nat) (ks : List DeadStream) : State :=
  let members := nkeys s.jobs fun c j => decide (j.collective = some coll ∧ ¬(pkg = s.self ∧ c = ctx) ∧ j.ending = false)
  (members.foldl (fun s c => s.mapBoughs (Bough.tearDead c pkg ks)) s).settleTears

/-- The end of a member job reaches the other members of its collective on this package (R425): abort counter, rills, record. -/
def State.peerAbort (s : State) (coll pkg ctx : Nat) (ks : List DeadStream) : State :=
  let members := nkeys s.jobs fun c j => decide (j.collective = some coll ∧ ¬(pkg = s.self ∧ c = ctx) ∧ j.ending = false)
  members.foldl (fun s c =>
    (s.modJob c fun j => { j with soft := nmod {} j.soft j.abortCounter fun k => { count := 2 ^ 64 - 1, nonok := min (k.nonok + 1) (2 ^ 64 - 1), status := .peerAbort } }).noGlade
      0x187 (s.job c).vf c pkg ctx) (s.tearDead coll pkg ctx ks)

/-- The packages that links of this package reach or have reached. -/
def State.peerPkgs (s : State) : List Nat := ((s.links.filter fun l => decide (l.2.st ≠ .absent ∧ l.2.peerSerial ≠ 0)).map fun l => l.2.peer).eraseDups

/-- The streams of a job's units toward a package: those of the reservations they hold. -/
def State.deadStreams (s : State) (ctx pkg : Nat) : List DeadStream :=
  let of (g : Nat) (b : Bough) : List DeadStream := if b.place.map (·.ctx) = some ctx then
    (b.eng.resv.filter fun r => decide (r.pkg = pkg)).map fun r => ⟨g, r.rill, r.glade, r.zone⟩ else []
  (s.glades.flatMap fun x => of x.1 x.2.cur ++ of x.1 x.2.alt) ++ s.dies.flatMap fun d => d.2.saved.flatMap fun v => v.2.flatMap fun y => of y.glade y.bough

/-- The PEER_ABORT notices to a package (R425, R450 kind 7): collective and context, and the streams of the ended job, 33 to a flit; byte 1 marks those after the first (DESIGN
CHOICE, log entry 11). -/
def abortFlits (pkg coll ctx : Nat) : Nat → Bool → List DeadStream → State → State
  | 0, _, _, s => s
  | n + 1, more, ks, s =>
    let l := ks.take 33
    abortFlits pkg coll ctx n true (ks.drop 33) (s.tell pkg 7 ([4, BitVec.ofNat 8 (b2n more)] ++ toBytes 2 l.length ++ toBytes 4 0 ++ toBytes 8 coll ++ toBytes 2 ctx ++ toBytes 6 0
      ++ l.flatMap (fun k => toBytes 2 k.glade ++ toBytes 1 k.rill ++ toBytes 1 k.zone ++ toBytes 2 k.dest) ++ List.replicate (204 - 6 * l.length) 0))

/-- A member job that has ended other than by its close is made known to every member package and the members here, with the streams its units had (R425). -/
def State.abortCollective (s : State) (ctx : Nat) (dead : Nat → List DeadStream) : State :=
  match (s.job ctx).collective with
  | none => s
  | some coll => (s.peerPkgs.foldl (fun s p => abortFlits p coll ctx ((dead p).length / 33 + 1) false (dead p) s) s).peerAbort coll s.self ctx (dead s.self)

/-! ## The end of a job (R45, R371, R374, R437) -/

/-- Every launch, instance and queued match of a context is cancelled. -/
def State.cancelWork (s : State) (ctx : Nat) (st : Status) : State :=
  let s := (List.range 4).foldl (fun s d => (nkeys (s.die d).arms fun _ a => decide (a.ctx = ctx)).foldl (fun s e =>
    cancelMatches d e 16 s) s) s
  let s := (List.range 4).foldl (fun s d => s.modDie d fun x => { x with
    instances := x.instances.map fun i => if i.ctx = ctx then { i with cancelled := true } else i }) s
  let s := (List.range 4).foldl (fun s d => (s.die d).instances.foldl (fun s i => if i.ctx = ctx then s.settleInstance i.root else s) s) s
  (List.range 4).foldl (fun s d => (nkeys (s.die d).launches fun _ l => decide (l.ctx = ctx)).foldl (fun s n => s.cancelLaunch d n st) s) s

/-- The launches of a context. -/
def State.launchCount (s : State) (ctx : Nat) : Nat := ((List.range 4).map fun d => ((s.die d).launches.filter fun l => decide (l.2.ctx = ctx)).length).sum

/-- The test record of a clearing when a job ends: its context may go to another job, so what a later FAIL tells of it is kept apart (R427). -/
def Job.leaves (j : Job) (ctx : Nat) (c : Clearing) : Clearing :=
  if ctx ∈ c.contexts then { c with contexts := c.contexts.filter (· ≠ ctx), gone := c.gone ++ [⟨ctx, j.vf, j.joins.filterMap fun p => p.2.spdm⟩] } else c

/-- What a job held is returned (R45, R371, R374, R437): arm entries, banks, grafts, lines, tags, keys, granules, cached translations, the job. -/
def State.releaseJob (s : State) (ctx : Nat) : State :=
  let s := (List.range 4).foldl (fun s d => (nkeys (s.die d).seeds fun _ b => b.isOpen && decide (b.ctx = ctx)).foldl (fun s k => s.closeBank d k false) s) s
  let keys := (s.job ctx).keys.map fun k => k.2.keyid
  let s := (List.range 4).foldl (fun s d => s.modDie d fun x => { x with
    arms := x.arms.filter fun a => decide (a.2.ctx ≠ ctx)
    tags := x.tags.filter fun t => decide (t.1 / 2 ^ 19 ≠ ctx)
    fill := x.fill.filter fun t => decide (t.1 / 2 ^ 15 ≠ ctx)
    reserved := x.reserved.filter fun r => decide (r.1 ≠ ctx)
    deficit := x.deficit.filter fun r => decide (r.1 / 4 ≠ ctx)
    active := x.active.filter fun r => decide (r.2 ≠ ctx) }) s
  let s := ((List.range 4).foldl (fun s d => s.forget (shrAt ctx d) (2 ^ 28)) s).dropPoints fun p => match p with
    | .counter k o _ => decide (4 ≤ k ∧ o = ctx)
    | _ => false
  { s with
    mem := (List.range 4).foldl (fun m d => memZero m (shrAt ctx d) (2 ^ 28)) s.mem
    grafts := s.grafts.map fun x => if x.2.st ≠ .free ∧ x.2.ctx = ctx then (x.1, x.2.free) else x
    glades := s.glades.map fun x => (x.1, { x.2 with tlb := x.2.tlb.filter fun t => t.host || decide (t.owner ≠ ctx) })
    clearings := s.clearings.map fun x => (x.1, (s.job ctx).leaves ctx { x.2 with tlb := x.2.tlb.filter fun t => t.host || decide (t.owner ≠ ctx) })
    pk := { s.pk with
      owners := s.pk.owners.filter fun o => !keys.contains o.2
      keyTable := s.pk.keyTable.filter fun k => !keys.contains k.1 }
    orphans := s.orphans.filter fun o => decide (o.ctx ≠ ctx)
    jobs := ndel s.jobs ctx }

/-- A job ends (R45, R425, R437): its work is cancelled, its job counter advances one further time, and it is released; `abort` makes its end known to its
collective. The last advance carries CANCELLED for a close by PF0 as for a cancel; R33 states no status for it (DESIGN CHOICE, log entry 55). -/
def State.endJob (s : State) (ctx : Nat) (abort : Bool) : State :=
  let dead := s.deadStreams ctx
  let s := s.modJob ctx fun j => { j with ending := true }
  let s := (s.cancelWork ctx .cancelled).advJob ctx .cancelled
  (if abort then s.abortCollective ctx dead else s).releaseJob ctx

/-! ## CANCEL_PROCESS (R45, R46, R394) -/

/-- Whether a unit's glade is done (R42). -/
def Bough.done (b : Bough) : Bool :=
  b.ww.halted && b.ww.block.isNone && b.eng.incoming.isEmpty && (b.eng.queues.all fun q => q.2.isEmpty)
    && (b.eng.tls.all fun t => decide (t.2.issued = t.2.retired)) && decide (b.eng.stand.set0.tag ≠ .full ∧ b.eng.stand.set1.tag ≠ .full)
    && b.th.run.isNone

/-- Whether every present glade of a unit of a launch is done (R42). -/
def State.unitDone (s : State) (d n u : Nat) : Bool :=
  ((s.sides d n).filter fun y => decide (((((s.glade y.1).pick y.2).place).map (·.upos)) = some u)).all fun y => ((s.glade y.1).pick y.2).done

/-- Whether a launch has completed in this cy (R46). -/
def State.launchDone (s : State) (d n : Nat) : Bool :=
  match s.launch d n with
  | some l => l.resides && (List.range l.units.length).all fun u => ((l.units[u]?).map (·.done)).getD true || s.unitDone d n u
  | none => false

/-- The launches a die has been asked to cancel, in order; one that has just completed completes instead (R46). -/
def cancelListed (d : Nat) : List (Nat × Status × Bool) → State → State
  | [], s => s
  | (n, st, _) :: t, s => cancelListed d t (if s.launchDone d n && decide (st = .cancelled) then s else s.cancelLaunch d n st)

/-- The units of a launch that are to be cancelled now or, with `boundary`, at its phase boundary (DEDUCED, log entry 28). -/
def State.cancelUnits (s : State) (d n : Nat) (boundary : Bool) : State :=
  match s.launch d n with
  | none => s
  | some l =>
    let us := l.unitCancel.filter fun u => decide (u.2 = boundary)
    let s := s.modLaunch d n fun l => { l with unitCancel := l.unitCancel.filter fun u => decide (u.2 ≠ boundary) }
    us.foldl (fun s u => if s.unitDone d n u.1 && l.resides then s else s.cancelUnit d n u.1 .cancelled) s

/-- CANCEL_PROCESS: the forester of a die applies the cancels it has been asked for (R45, R46, R394, R412). -/
def execCancelProcess (d : Nat) (s : State) : Outcome :=
  let s := ((s.die d).arms.map (·.1)).foldl (fun s e => s.cancelNamed d e) s
  let list := (s.die d).cancels
  let s := cancelListed d list (s.modDie d fun x => { x with cancels := [] })
  let s := ((s.die d).launches.map (·.1)).foldl (fun s n => s.cancelUnits d n false) s
  let s := (s.die d).instances.foldl (fun s i => if i.cancelled then s.settleInstance i.root else s) s
  .next ((nkeys s.jobs fun _ j => j.ending).foldl (fun s c => s.endJob c true) s)

end Sys2Proof.Machine
end

