-- ==== Sys2Proof/Machine/Placement.lean ====
section
/-! DEFINITION. Placement (R35, R36, R38, R53 to R57), the loading of a unit image (R39, R133, R468, R470), the restore of saved units (R422, R463), and the
selection pass (R51, R52, R54, R55). -/

namespace Sys2Proof.Machine

/-! ## Loading (R39, R133, R188, R339, R468) -/

/-- A landing zone as its descriptor gives it (R339). -/
def zoneOf (e : List Byte) : Zone :=
  { base := leAt e 0 4, ssize := leAt e 4 4, slots := leAt e 8 1, rill := leAt e 9 1, perSlot := decide (leAt e 10 1 = 1), valid := decide (leAt e 11 1 = 1) }

/-- The number of an initial standing operation: no queue entry bears it, so no entry retires with it (R133, DESIGN CHOICE, log entry 10). -/
def initialOp (k : Nat) : Nat := 2 ^ 64 + k

/-- The stems of a position: rings and class words (R124, R134). -/
def loadStems (c : PosCfg) : List (Nat × Stem) :=
  (List.range 16).map fun s => (s, { op := (c.stem s).op.map (BitVec.ofNat 24), rt := (c.stem s).rt.map (BitVec.ofNat 16), tap := (c.stem s).tap.map (BitVec.ofNat 16)
                                     cls := ((List.range 16).filter fun k => decide (c.cw s k ≠ 0)).map fun k => (k, BitVec.ofNat 16 (c.cw s k)) })

/-- The elements of a position whose modes the class word sets (R124, R188). -/
def loadElems (c : PosCfg) : List (Nat × Elem) :=
  ((List.range 256).filter fun i => decide (clsRm (c.cw (i / 16) (i % 16)) ≠ 0 ∨ clsSat (c.cw (i / 16) (i % 16)) ≠ 0)).map fun i =>
    (i, { rm := BitVec.ofNat 3 (clsRm (c.cw (i / 16) (i % 16))), sat := BitVec.ofNat 2 (clsSat (c.cw (i / 16) (i % 16))) })

/-- A bough loaded from a unit image for a place (R39, R133, R468). -/
def loadBough (m : List Byte) (p : Place) : Bough :=
  let c := posCfg m p.ux p.uy
  let regs := secAt m 9 p.ux p.uy
  let ops := (secAt m 6 p.ux p.uy).getD []
  let zs := (secAt m 7 p.ux p.uy).getD []
  let words (l : List Nat) : List (Nat × Word) := ((List.range l.length).zip l |>.filter fun x => decide (x.2 ≠ 0)).map fun x => (x.1, BitVec.ofNat 64 x.2)
  { place := some p
    ww := { g := ((List.range 63).filter fun i => decide (secWord regs 8 (i + 1) 0 ≠ 0)).map fun i => (i + 1, BitVec.ofNat 64 (secWord regs 8 (i + 1) 0))
            fetch := imgEntry m }
    eng := { rills := (words c.rills).map fun x => (x.1, { cfg := x.2 })
             routes := words c.routes
             zones := ((List.range (zs.length / 16)).map fun i => (i, zoneOf (sliceB zs (16 * i) 16))).filter fun z => z.2.valid
             stand := { ops := (List.range (ops.length / 64)).map fun k => (k, { opnum := initialOp k, uid := 2 ^ 90 + 4 * p.home + k, desc := sliceB ops (64 * k) 64 }) } }
    th := { stems := loadStems c, elems := loadElems c } }

/-- The burrow bytes that an image loads at a position, by offset (R133). -/
def loadCells (m : List Byte) (ux uy : Nat) : List Host.Cell :=
  (secsAt m 1 ux uy ++ secsAt m 8 ux uy).flatMap fun x =>
    (((List.range x.size).zip (secBytes m x)).filter fun y => decide (y.2 ≠ 0)).map fun y => (x.load + y.1, y.2)

/-- The other present glades of a position's coppice column (R23, R470). -/
def coppiceFan (m : List Byte) (p : Place) (g : Nat) : List Nat :=
  match (imgSecs m).find? fun s => decide (s.type = 10) with
  | none => []
  | some sec =>
    let d := secBytes m sec
    let rs := (List.range (sec.size / 8)).map fun i => sliceB d (8 * i) 8
    match rs.find? fun r => decide ((p.ux, p.uy) ∈ coppicePos r) with
    | none => []
    | some r => ((coppicePos r).filter fun x => decide (x.1 = p.ux ∧ x.2 ≠ p.uy) && p.has x.1 x.2).map fun x => p.gladeAt g x.1 x.2

/-! ## Fit (R53, R56, R422) -/

/-- What a unit of a launch needs: its image's size, alignment and required positions; a saved unit needs the positions it held, and its saved origin
where a slot of its zones is not FREE (R422). -/
structure Need where
  upos : Nat
  w : Nat
  h : Nat
  clearing : Bool
  req : Nat
  origin : Option (Nat × Nat)
  deriving DecidableEq, Repr

/-- The saved glades of a unit. -/
def State.savedOf (s : State) (d n u : Nat) : List Saved := (nget [] (s.die d).saved n).filter fun v => decide (v.upos = u)

/-- The needs of the units of a launch that are not done, in ascending position (R56). -/
def State.needs (s : State) (d n : Nat) (l : Launch) : List Need :=
  let a := s.arm (4096 * d + l.arm)
  ((List.range l.units.length).filter fun u => !((l.units[u]?).map (·.done)).getD true).map fun u =>
    let m := (a.images[u]?).getD []
    let vs := s.savedOf d n u
    let x := (l.units[u]?).getD {}
    let held := vs.any fun v => v.bough.eng.zones.any fun z => z.2.slot.any fun y => decide (y.2.st ≠ .free)
    { upos := u, w := imgW m, h := imgH m, clearing := imgClearing m
      req := vs.foldl (fun r v => r ||| 2 ^ (v.uy * imgW m + v.ux)) (imgHealth m)
      origin := if held then some (x.ox, x.oy) else none }

/-- Origins for units in order (R56): position, absolute x and y. -/
def State.origins (s : State) (ctx d : Nat) (r : Nat × Nat × Nat × Nat) : List Need → List Nat → Option (List (Nat × Nat × Nat))
  | [], _ => some []
  | u :: t, taken =>
    let o : Option (Nat × Nat) := match u.origin with
      | none => s.fit ctx d u.w u.h u.clearing u.req taken
      | some (x, y) => if r.1 ≤ x ∧ r.2.1 ≤ y ∧ s.fitsAt ctx d u.w u.h u.clearing u.req taken r (x - r.1) (y - r.2.1) = true then some (x - r.1, y - r.2.1) else none
    match o with
    | none => none
    | some o =>
      let ox := r.1 + o.1
      let oy := r.2.1 + o.2
      let gs := (List.range (u.w * u.h)).map fun i => gladeAt d (ox + i % u.w) (oy + i / u.w)
      match s.origins ctx d r t (taken ++ gs) with
      | none => none
      | some rest => some ((u.upos, ox, oy) :: rest)

/-- Where the units of a launch would be placed now (R56). -/
def State.fitLaunch (s : State) (d n : Nat) (l : Launch) : Option (List (Nat × Nat × Nat)) :=
  match (s.job l.ctx).rect d with
  | none => none
  | some r => s.origins l.ctx d r (s.needs d n l) []

/-- The number of glades in a launch's unit rectangles (R54). -/
def Launch.cost (l : Launch) : Nat := (l.units.map fun u => u.w * u.h).sum

/-- Whether a launch holds glades. -/
def Launch.placed (l : Launch) : Bool := decide (l.stage ≠ .eligible ∧ l.stage ≠ .swapped)

/-- The glades that a job's launches occupy on a die (R52). -/
def State.occupied (s : State) (ctx d : Nat) : Nat := (((s.die d).launches.filter fun l => decide (l.2.ctx = ctx) && l.2.placed).map fun l => l.2.cost).sum

/-- A launch that can never be placed (R53): more glades than the cap, or no fit even in an empty partition. -/
def State.hopeless (s : State) (d n : Nat) (l : Launch) : Bool :=
  decide ((s.job l.ctx).gladeCap < l.cost) || (({ s with glades := [] } : State).fitLaunch d n l).isNone

/-! ## Placing (R35, R36, R39, R57, R149, R422) -/

/-- The mask of positions present at an origin (R35). -/
def State.presentMask (s : State) (d ox oy w h : Nat) : Nat :=
  (List.range (w * h)).foldl (fun m i => if s.healthy (gladeAt d (ox + i % w) (oy + i / w)) then m + 2 ^ i else m) 0

/-- One position of a unit loaded, from its image or its saved glade. -/
def State.loadGlade (s : State) (b : Bool) (m : List Byte) (saved : List Saved) (p : Place) (g : Nat) : State :=
  let p := { p with fan := coppiceFan m p g }
  match saved.find? fun v => decide (v.ux = p.ux ∧ v.uy = p.uy) with
  | some v => s.restoreGlade g b p v
  | none => (s.fillBurrow g b (loadCells m p.ux p.uy)).modSide g b fun _ => loadBough m p

/-- A unit placed at an origin: every present glade is loaded (R35, R39, R422). A restored unit has the positions that were saved and no other
(DESIGN CHOICE, log entry 85). -/
def State.placeUnit (s : State) (d n : Nat) (l : Launch) (u ox oy : Nat) : State :=
  let j := s.job l.ctx
  let a := s.arm (4096 * d + l.arm)
  let m := (a.images[u]?).getD []
  let vs := s.savedOf d n u
  let w := imgW m
  let present := if vs = [] then s.presentMask d ox oy w (imgH m) else vs.foldl (fun r v => r ||| 2 ^ (v.uy * w + v.ux)) 0
  let s := ((List.range (w * imgH m)).filter present.testBit).foldl (fun s i =>
    s.loadGlade (j.bough d) m vs { die := d, launch := n, arm := l.arm, upos := u, ux := i % w, uy := i / w, w := w, h := imgH m, present := present
                                   ctx := l.ctx, vf := j.vf, incarn := (s.fn j.vf).incarn } (gladeAt d (ox + i % w) (oy + i / w))) s
  s.modLaunch d n fun l => { l with units := lset l.units u { ((l.units[u]?).getD {}) with ox := ox, oy := oy } }

/-- A launch placed whole (R56): it waits for its start pulse or, restored, for residence. -/
def State.placeLaunch (s : State) (d n : Nat) (l : Launch) (os : List (Nat × Nat × Nat)) : State :=
  let back := decide (l.stage = .swapped)
  let s := os.foldl (fun s o => s.placeUnit d n l o.1 o.2.1 o.2.2) s
  let s := if back then s.dropRecords d n l.ctx else s
  s.modLaunch d n fun l => { l with stage := if back then .ready else .placed, reserving := false, headAt := none }

/-! ## Queues of the forester (R51, R54) -/

/-- The effective class of a launch (R51). -/
def Launch.eff (l : Launch) : Nat := if l.boosted then l.cls - 1 else l.cls

/-- Whether a launch waits to be placed. -/
def Launch.waits (l : Launch) : Bool := decide (l.stage = .eligible ∨ l.stage = .swapped)

/-- Launches by eligibility time, then arm-entry index, then age (R54). -/
def olderLaunch (a b : Nat × Launch) : Bool :=
  decide (a.2.eligAt < b.2.eligAt) || (decide (a.2.eligAt = b.2.eligAt) && (decide (a.2.arm < b.2.arm) || (decide (a.2.arm = b.2.arm) && decide (a.1 < b.1))))

def insertLaunch (x : Nat × Launch) : List (Nat × Launch) → List (Nat × Launch)
  | [] => [x]
  | y :: t => if olderLaunch x y then x :: y :: t else y :: insertLaunch x t

/-- The launches of a die that wait, oldest first. -/
def Die.queue (d : Die) : List (Nat × Launch) := (d.launches.filter fun l => l.2.waits).foldl (fun q x => insertLaunch x q) []

/-- The queue of a context in a class (R54). -/
def Die.ctxQueue (d : Die) (c k : Nat) : List (Nat × Launch) := d.queue.filter fun l => decide (l.2.ctx = c ∧ l.2.eff = k)

/-- When a launch entered the queue of its class: when it became eligible, or was boosted (R51, R54). -/
def Launch.enteredAt (l : Launch) : Nat := if l.boosted then l.eligAt + msWall else l.eligAt

/-- Contexts by the time their queue became non-empty, ties by ascending context (R54). -/
def insertCtx (x : Nat × Nat) : List (Nat × Nat) → List (Nat × Nat)
  | [] => [x]
  | y :: t => if x.1 < y.1 ∨ (x.1 = y.1 ∧ x.2 < y.2) then x :: y :: t else y :: insertCtx x t

/-- The active contexts of every class brought up to date: those whose queue has emptied leave with their deficit, new ones join at the tail (R54). -/
def Die.refresh (d : Die) : Die :=
  let live := d.active.filter fun x => !(d.ctxQueue x.2 x.1).isEmpty
  let gone := d.active.filter fun x => (d.ctxQueue x.2 x.1).isEmpty
  let news (k : Nat) : List (Nat × Nat) :=
    let cs := (((d.queue.filter fun l => decide (l.2.eff = k)).map fun l => l.2.ctx).eraseDups).filter fun c => !live.contains (k, c)
    (cs.foldl (fun l c => insertCtx (((d.ctxQueue c k).map fun x => x.2.enteredAt).foldl min (2 ^ 200), c) l) []).map fun x => (k, x.2)
  { d with active := live ++ (List.range 4).flatMap news
           deficit := gone.foldl (fun m x => ndel m (4 * x.2 + x.1)) d.deficit }

/-! ## Quota and reservation (R52, R55) -/

/-- The operations (two for each multiply-accumulate) and glade-cy that a job has used (R402). -/
def Job.used (j : Job) : Nat × Nat := (2 * (nget 0 j.usage 3 + nget 0 j.usage 4 + nget 0 j.usage 5 + nget 0 j.usage 6), nget 0 j.usage 7)

/-- A job that has reached a limit of its accounting period (R52, R402) (DESIGN CHOICE, log entry 27). -/
def Job.overQuota (j : Job) : Bool :=
  decide (j.usageLimit ≤ j.used.1 - (j.usageAt[0]?).getD 0) || decide (j.occLimit ≤ j.used.2 - (j.usageAt[1]?).getD 0)

/-- Two contexts hold one partition of a die (R22). -/
def State.sharePartition (s : State) (d a b : Nat) : Bool := (s.job a).rect d = (s.job b).rect d && ((s.job a).rect d).isSome

/-- A reserving launch of the own context keeps a launch of equal or lower class from its partition (R55). -/
def State.reservedFrom (s : State) (d n : Nat) (l : Launch) : Bool :=
  (s.die d).launches.any fun r => r.2.reserving && decide (r.1 ≠ n ∧ r.2.ctx = l.ctx ∧ r.2.eff ≤ l.eff)

/-- Whether a launch may and can be placed now (R52, R54 to R56). -/
def State.placeable (s : State) (d n : Nat) (l : Launch) : Option (List (Nat × Nat × Nat)) :=
  if (s.job l.ctx).overQuota ∨ s.reservedFrom d n l = true ∨ (s.job l.ctx).gladeCap < s.occupied l.ctx d + l.cost then none else s.fitLaunch d n l

/-! ## SELECTION_PASS (R53, R54) -/

/-- A launch that can never be placed completes FAULTED, with PLACE_QUOTA for its VF (R53, R409). -/
def failHopeless (d : Nat) : List (Nat × Launch) → State → State
  | [], s => s
  | (n, l) :: t, s =>
    if s.hopeless d n l then
      failHopeless d t ((if l.begun then s.advPhase d l.arm .faulted else s).noGlade 0x14C (s.job l.ctx).vf l.ctx (4096 * d + l.arm) 0 |>.endLaunch d n .faulted)
    else failHopeless d t s

/-- Occupied glades alone keep a waiting launch from being placed: quota, cap and reservations allow it, and it does not fit (R52, R55, R56). -/
def State.keptOut (s : State) (d n : Nat) (l : Launch) : Bool :=
  !((s.job l.ctx).overQuota || s.reservedFrom d n l || decide ((s.job l.ctx).gladeCap < s.occupied l.ctx d + l.cost)) && (s.fitLaunch d n l).isNone

/-- The heads of the queues note since when occupied glades have kept them out (R55), as each selection pass finds them (R54). -/
def State.noteHeads (s : State) (d : Nat) : State :=
  let heads := (s.die d).active.filterMap fun x => (((s.die d).ctxQueue x.2 x.1).head?).map (·.1)
  s.modDie d fun x => { x with launches := x.launches.map fun l =>
    (l.1, if l.1 ∈ heads then { l.2 with headAt := if s.keptOut d l.1 l.2 then some (l.2.headAt.getD s.wall) else none }
      else { l.2 with headAt := none, reserving := false }) }

/-- One context of a class is served (R54). -/
def State.serve (s : State) (d k c : Nat) : State :=
  let key := 4 * c + k
  let s := s.modDie d fun x => { x with deficit := nmod 0 x.deficit key (· + 64 * (s.job c).weight) }
  let s := match (s.die d).ctxQueue c k with
    | (n, l) :: _ =>
      if l.cost ≤ nget 0 (s.die d).deficit key then
        match s.placeable d n l with
        | some os => (s.placeLaunch d n l os).modDie d fun x => { x with deficit := nmod 0 x.deficit key (· - l.cost) }
        | none => s
      else s
    | [] => s
  s.modDie d fun x =>
    if (x.ctxQueue c k).isEmpty then { x with deficit := ndel x.deficit key, active := x.active.filter (· ≠ (k, c)) }
    else { x with active := x.active.filter (· ≠ (k, c)) ++ [(k, c)] }

/-- SELECTION_PASS: the forester of a die serves one context of the lowest class that holds a placeable launch (R53 to R56). -/
def execSelectionPass (d : Nat) (s : State) : Outcome :=
  if (s.die d).held then .next s
  else
    let s := ((failHopeless d (s.die d).queue s).modDie d Die.refresh).noteHeads d
    match (List.range 4).find? fun k => (s.die d).queue.any fun x => decide (x.2.eff = k) && (s.placeable d x.1 x.2).isSome with
    | none => .next s
    | some k => match (s.die d).active.find? fun x => decide (x.1 = k) with
      | some x => .next ((s.serve d k x.2).noteHeads d)
      | none => .next s

/-- LAUNCH_BOOST: a batch or background launch eligible for 1 ms without being placed is raised by one class, once (R51). -/
def execLaunchBoost (d n : Nat) (s : State) : Outcome :=
  .next (s.modLaunch d n fun l =>
    if l.stage = .eligible ∧ 2 ≤ l.cls ∧ l.boosted = false ∧ l.eligAt + msWall ≤ s.wall then { l with boosted := true, headAt := none } else l)

/-- RESERVING_TIMEOUT: the head of a queue that occupied glades have kept from being placed for 1 ms becomes reserving, where its partition has no
reserving launch (R55). Where it has one, that launch stays the one, also if this launch became eligible earlier (DESIGN CHOICE, log entry 56). -/
def execReservingTimeout (d n : Nat) (s : State) : Outcome :=
  match s.launch d n with
  | none => .next s
  | some l =>
    let taken := (s.die d).launches.any fun r => r.2.reserving && s.sharePartition d r.2.ctx l.ctx
    let due : Bool := match l.headAt with
      | some t => decide (t + msWall ≤ s.wall)
      | none => false
    if due && l.waits && !taken && s.keptOut d n l && !s.hopeless d n l then .next (s.modLaunch d n fun l => { l with reserving := true })
    else .next s

end Sys2Proof.Machine
end

