-- ==== Sys2Proof/Machine/Forester.lean ====
section
/-! DEFINITION. The start of a launch (R39, R420, R422), phases and units (R42 to R44, R345), forced pre-emption (R421), bough swaps (R420) and the
quota of a job (R52, R376). -/

namespace Sys2Proof.Machine

/-! ## Residence (R22, R38, R420) -/

/-- Two launches in the order in which they take glades that neither runs on: effective class, eligibility, arm entry, number (R51, R54). -/
def startsBefore (a b : Nat × Launch) : Bool := decide (a.2.eff < b.2.eff) || (decide (a.2.eff = b.2.eff) && olderLaunch a b)

/-- The launches that hold the other bough in the glades of a clearing (R22). -/
def State.rivals (s : State) (c : Nat) (b : Bool) : List (Nat × Launch) :=
  ((gladesOf c).flatMap fun g => match ((s.glade g).pick (!b)).place with
    | none => []
    | some p => ((s.launch p.die p.launch).map fun l => (p.launch, l)).toList).eraseDups

/-- A launch of the other bough that waits for a clearing keeps a launch from going on there: it is loaded, saved, and of strictly higher class (R44, R51). -/
def keepsBack (l : Launch) (o : Nat × Launch) : Bool :=
  decide (o.2.stage = .placed ∨ o.2.stage = .ready) && !o.2.saveDue && decide (o.2.eff < l.eff)

/-- Whether a launch can take a clearing for its bough: none of the other bough runs there or is being saved (R22, R420), and of those that wait none of
strictly higher class, nor where the other bough is the active one any that is before it. -/
def State.canTakeGlade (s : State) (n : Nat) (l : Launch) (x : Nat × Bool) : Bool :=
  let c := clearingOf x.1
  !l.saveDue && (s.rivals c x.2).all fun o =>
    decide (o.2.stage ≠ .running) && !o.2.saveDue && !keepsBack l o && (s.clearingActive c x.2 || startsBefore (n, l) o)

/-- Every glade of a clearing activates a bough (R22, R420), with it the band goes to the other context (R235, R354), whose evicted lines come back (R238). -/
def State.activateClearing (s : State) (c : Nat) (b : Bool) : State :=
  if s.clearingActive c b then s
  else
    let d := c / 16
    let s := (gladesOf c).foldl (fun s g => s.activate g b) (s.yieldBand c)
    { s with jobs := s.jobs.map fun j => (j.1, if j.2.bough d = b then { j.2 with evicted := j.2.evicted.filter fun e => decide (¬(e.1 = d ∧ e.2 / 24576 = c % 16)) } else j.2) }

/-- The start pulse in one glade (R39): context counter and timelines 0, g1 the payload address, g2 to g7 the arguments, the woodward at its entry. -/
def Bough.pulse (b : Bough) (payload : Nat) (args : List Word) : Bough :=
  let w := b.ww.setReg 1 (BitVec.ofNat 64 payload)
  let w := (List.range 6).foldl (fun w i => w.setReg (i + 2) ((args[i]?).getD 0)) w
  { b with ww := { w with started := true, lastTs := none, floor := 0 }, eng := { b.eng with tls := [] }, th := { b.th with cnt := 0 } }

/-- A context noted for the clearing it is resident on, up to the first past 64 (R427). -/
def State.noteResident (s : State) (g ctx : Nat) : State :=
  s.modClearing (clearingOf g) fun c => if ctx ∈ c.contexts ∨ 64 < c.contexts.length + c.gone.length then c else { c with contexts := c.contexts ++ [ctx] }

/-- LAUNCH_START: a placed launch that can take all its clearings starts with the pulse of R39; one restored or swapped out resumes as it was (R420,
R422), its planes to be loaded again and its streams armed again. -/
def execLaunchStart (d n : Nat) (s : State) : Outcome :=
  match s.launch d n with
  | none => .next s
  | some l =>
    let ys := s.sides d n
    if ¬(l.stage = .placed ∨ l.stage = .ready) ∨ (ys.all fun x => s.canTakeGlade n l x) = false then .next s
    else
      let s := ys.foldl (fun s x => (s.activateClearing (clearingOf x.1) x.2).noteResident x.1 l.ctx) s
      let cy := (s.die d).cy
      if l.stage = .placed then
        let args := (s.arm (4096 * d + l.arm)).args
        let s := ys.foldl (fun s x => s.modBough x.1 fun b => b.pulse l.payload args) s
        let s := ys.foldl (fun s x => ((s.stand x.1).ops.map (·.2.uid)).foldl (fun s u => s.flow [.launch (launchKey d n)] (.op u)) s) s
        .next (s.modLaunch d n fun l =>
          { l with
            stage := .running, phase := 0, phaseCy := cy, resident := 0, residentAt := s.wall
            slots := [], slotsNext := [], slotBy := [], slotByNext := [], slotDone := [] })
      else
        let s := ys.foldl (fun s x => (s.modStand x.1 Stand.restore).rearmStreams x.1) (s.dropRecords d n l.ctx)
        .next (s.modLaunch d n fun l => { l with stage := .running, phaseCy := cy - l.phaseCy, residentAt := s.wall, saveDue := false })

/-! ## Leaving the glades (R197, R420, R421) -/

/-- A launch that ceases to run: the time of its phase counts no further (R44), and its time slots keep their offset. -/
def State.leave (s : State) (d n : Nat) (st : Stage) : State :=
  let cy := (s.die d).cy
  s.modLaunch d n fun l => { l with stage := st, resident := l.resident + (s.wall - l.residentAt), phaseCy := cy - l.phaseCy }

/-- A bough of a glade is free; nothing of it ends (R421, R422). -/
def State.clearSide (s : State) (g : Nat) (b : Bool) : State :=
  (s.modSide g b fun _ => {}).modGlade g fun x => { x with walks := [], walkFaults := [], swapDue := none }

/-- A woodward taken off its mark, also while a handler entered at the mark runs (DESIGN CHOICE, log entry 92). -/
def Bough.unmark (b : Bough) : Bough := { b with ww := { b.ww with atMark := false, mark := false } }

/-- The woodwards of a launch held at their marks go on at their next blocks (R43), those of saved units when they are restored. -/
def State.resume (s : State) (d n : Nat) : State :=
  ((s.sides d n).foldl (fun s x => s.modSide x.1 x.2 Bough.unmark) s).modDie d fun y =>
    { y with saved := y.saved.map fun v => if v.1 = n then (n, v.2.map fun x => { x with bough := x.bough.unmark }) else v }

/-- What a quiesced launch's glades still let complete (R421): a landing tile whose first byte has landed, an AG request that waits for a sector (R197), and for 10 µs after
the quiesce a drain. -/
def State.unsettled (s : State) (d n at_ : Nat) : Bool :=
  s.agHeld d n || (s.sides d n).any fun x =>
    ((s.eng x.1).zones.any fun z => z.2.slot.any fun y => decide (y.2.st = .filling))
      || (decide (s.wall < at_ + 10 * usWall) && ((s.stand x.1).set0.drain.isSome || (s.stand x.1).set1.drain.isSome))

/-- A quiesced launch's records are written once nothing of it is to complete any more, or after 50 µs, and its glades are free (R421) (DEDUCED, log entry 105). -/
def State.endStop (s : State) (d n : Nat) : State :=
  match (s.launch d n).bind (·.stop) with
  | none => s
  | some (reason, at_) =>
    if s.wall < at_ + 50 * usWall ∧ s.unsettled d n at_ = true then s
    else
      let ys := s.sides d n
      let s := ys.foldl (fun s x => s.writeRecord d n x.1 x.2 reason (s.burrowCells x.1 x.2)) (s.quiesceGlades (ys.map (·.1)))
      ((ys.foldl (fun s x => s.clearSide x.1 x.2) s).leave d n .swapped).modLaunch d n fun l => { l with stop := none }

/-- A forced pre-emption (R421): every glade quiesces, its record is written with the reason, and the glades are free; a launch not yet started is
eligible again. One that only a test held is held no more (R43, R426). -/
def State.preempt (s : State) (d n reason : Nat) : State :=
  match s.launch d n with
  | none => s
  | some l =>
    let ys := s.sides d n
    let free (s : State) : State := ys.foldl (fun s x => s.clearSide x.1 x.2) s
    let record (s : State) : State := free (ys.foldl (fun s x => s.writeRecord d n x.1 x.2 reason (s.burrowCells x.1 x.2)) s)
    match l.stage with
    | .running =>
      let s := if l.holdTest ∧ l.held = false then s.resume d n else s
      ((s.quiesceGlades (ys.map (·.1))).modLaunch d n fun l => { l with holdTest := false, stop := l.stop.orElse fun _ => some (reason, s.wall) }).endStop d n
    | .ready => (record (s.dropRecords d n l.ctx)).modLaunch d n fun l => { l with stage := .swapped, saveDue := false }
    | .placed => (free s).modLaunch d n fun l => { l with stage := .eligible }
    | _ => s

/-- A bough swap takes a launch from its glades, its record to be written (R420): a clearing activates the other bough where no launch of the outgoing
context runs on it any more (R22). -/
def State.swapOut (s : State) (d n : Nat) : State :=
  let ys := s.sides d n
  let s := (s.quiesceGlades (ys.map (·.1))).leave d n .ready
  let s := ys.foldl (fun s x =>
    if (s.rivals (clearingOf x.1) (!x.2)).any fun o => decide (o.2.stage = .running) then s else s.activateClearing (clearingOf x.1) (!x.2)) s
  s.modLaunch d n fun l => { l with saveDue := true, stop := some (1, s.wall) }

/-- BOUGH_SAVE_WRITE: the outgoing state of a swap, now in the inactive boughs, is written to its records once its AG requests
have been performed, or after 20 µs (R197, R418 to R420). -/
def execBoughSaveWrite (d n : Nat) (s : State) : Outcome :=
  match s.launch d n with
  | none => .next s
  | some l =>
    if l.saveDue then
      let s := (s.sides d n).foldl (fun s x => s.settleAg x.1 x.2) s
      if s.wall < ((l.stop.map (·.2)).getD 0) + 20 * usWall ∧ ((s.sides d n).any fun x => ((s.glade x.1).pick x.2).asking) = true then .next s
      else .next (((s.sides d n).foldl (fun s x => s.writeRecord d n x.1 x.2 1 []) s).modLaunch d n fun l => { l with saveDue := false, stop := none })
    else .next s

/-- Whether a launch waits for a partition that another occupies (R22, R44): occupied glades keep it out, or the other bough runs where it is placed. -/
def State.waitsFor (s : State) (d : Nat) (l : Launch) (m : Nat × Launch) : Bool :=
  (m.2.waits && (decide (m.2.ctx = l.ctx) || s.sharePartition d m.2.ctx l.ctx) && s.keptOut d m.1 m.2)
    || (decide (m.2.stage = .placed ∨ m.2.stage = .ready) && decide (m.2.ctx ≠ l.ctx) && s.sharePartition d m.2.ctx l.ctx
      && !(s.sides d m.1).all fun x => s.canTakeGlade m.1 m.2 x)

/-- PHASE_LIMIT_EXPIRY: a phase that has run longer than its job's limit while a launch of higher effective class waits for its partition is pre-empted
(R44, R421); a pre-emption that waits for what R421 lets complete goes on. -/
def execPhaseLimitExpiry (d n : Nat) (s : State) : Outcome :=
  match s.launch d n with
  | none => .next s
  | some l =>
    let ran := l.resident + (s.wall - l.residentAt)
    if l.stage = .running ∧ l.stop.isSome then .next (s.endStop d n)
    else if l.stage = .running ∧ msWall * (s.job l.ctx).phaseLimit < ran
        ∧ ((s.die d).launches.any fun m => decide (m.1 ≠ n ∧ m.2.eff < l.eff) && s.waitsFor d l m) = true
    then .next (s.preempt d n 2) else .next s

/-! ## Units and phases (R42 to R44, R307, R345, R346, R376, R426) -/

/-- UNIT_COMPLETE: a unit all of whose present glades are done completes, and with the last unit the launch (R42, R43). The phase counter's
last advance carries the launch's own status (DESIGN CHOICE, log entry 83). -/
def execUnitComplete (d n u : Nat) (s : State) : Outcome :=
  match s.launch d n with
  | none => .next s
  | some l => match l.units[u]? with
    | none => .next s
    | some x =>
      if x.done = true ∨ l.stage ≠ .running ∨ l.stop.isSome = true ∨ s.unitDone d n u = false then .next s
      else
        let us := lset l.units u { x with done := true }
        let s := ((s.flow (s.unitPts d n u) (.counter 0 (4096 * d + l.arm) u)).advUnit d l.arm u .ok).modLaunch d n fun l => { l with units := us }
        .next (if us.all (·.done) then ((s.flow (s.launchPts d n) (.counter 2 (4096 * d + l.arm) 0)).advPhase d l.arm l.status).endLaunch d n l.status else s)

/-- A glade at a phase boundary (R43): at its mark or halted, the orders issued before the mark retired, no tile in flight, no set FULL. For a glade that
halted without a mark the orders are those issued before its last committed block's own (DESIGN CHOICE, log entry 57). -/
def Bough.atBoundary (b : Bough) : Bool :=
  let w := b.ww
  let e := b.eng
  (w.halted || w.atMark) && (w.markAt.all fun m => decide (m.2 ≤ (e.tl m.1).retired))
    && ((e.queue 1 ++ e.queue 2).all fun x => x.tiles.isEmpty) && decide (e.stand.set0.tag ≠ .full ∧ e.stand.set1.tag ≠ .full)

/-- The clearings a launch occupies. -/
def State.clearingsOf (s : State) (d n : Nat) : List Nat := ((s.sides d n).map fun x => clearingOf x.1).eraseDups

/-- Whether a loaded launch of the inactive boughs is to be swapped in for one at its boundary (R44, R55, R420): of strictly higher class, or of a
context that has a reserving launch of strictly higher class, and whatever runs on its clearings yields too. -/
def State.swapsIn (s : State) (d n : Nat) (l : Launch) (m : Nat × Launch) : Bool :=
  let k := if (s.die d).launches.any (fun r => r.2.reserving && decide (r.2.ctx = m.2.ctx ∧ r.2.eff < l.eff)) then min m.2.eff (l.eff - 1) else m.2.eff
  let ys := s.sides d m.1
  decide (m.1 ≠ n ∧ (m.2.stage = .placed ∨ m.2.stage = .ready) ∧ k < l.eff) && !m.2.saveDue
    && (ys.any fun y => (s.rivals (clearingOf y.1) y.2).any fun o => decide (o.1 = n))
    && ys.all fun y => (s.rivals (clearingOf y.1) y.2).all fun o => !o.2.saveDue && (decide (o.2.stage ≠ .running) || decide (k < o.2.eff))

/-- Whether a swap is due at the boundary of a launch: one the forester applies, or one that an ORD.BOUGH asked for (R44, R307). -/
def State.swapDueAt (s : State) (d n : Nat) (l : Launch) : Bool :=
  ((s.die d).launches.any fun m => s.swapsIn d n l m) || (s.sides d n).any fun x => (s.glade x.1).swapDue.isSome

/-- A requested test of a clearing may run: each is tested at most once in 100 ms (R187). -/
def State.wantsTest (s : State) (c : Nat) : Bool := (s.clearing c).requested && decide ((s.clearing c).lastAt + 100 * msWall ≤ s.wall)

/-- Actions 3 to 5 of a boundary (R44) and the hold for a requested test (R426): the launch goes on, is held, or is swapped out. -/
def State.boundaryActions (s : State) (d n : Nat) (l : Launch) : State :=
  let swap := s.swapDueAt d n l
  let s := if (s.job l.ctx).overQuota then s.modLaunch d n fun l => { l with held := true }
    else if !swap && (s.clearingsOf d n).any s.wantsTest then s.modLaunch d n fun l => { l with holdTest := true }
    else s.resume d n
  (if swap then s.swapOut d n else s).graftBoundary (launchKey d n)

/-- PHASE_BOUNDARY: every present glade of a running launch is at its boundary and one of them is not halted (R43): the phase counter advances, the time
slots set meanwhile take effect, and the actions of R44 follow in their order. -/
def execPhaseBoundary (d n : Nat) (s : State) : Outcome :=
  match s.launch d n with
  | none => .next s
  | some l =>
    let bs := (s.sides d n).map fun x => s.bough x.1
    if l.stage ≠ .running ∨ l.stop.isSome = true ∨ l.held = true ∨ l.holdTest = true ∨ (bs.all Bough.atBoundary) = false ∨ (bs.all fun b => b.ww.halted) = true then .next s
    else
      let cy := (s.die d).cy
      let s := ((s.flow (s.launchPts d n) (.counter 2 (4096 * d + l.arm) 0)).advPhase d l.arm .ok).modLaunch d n fun l =>
        { l with phase := l.phase + 1, phaseCy := cy, resident := 0, residentAt := s.wall
                 slots := l.slotsNext.foldl (fun m x => nset m x.1 x.2) l.slots, slotBy := l.slotByNext.foldl (fun m x => nset m x.1 x.2) l.slotBy
                 slotsNext := [], slotByNext := [], slotDone := [] }
      let s := s.cancelUnits d n true
      if l.phaseCancel then .next ((s.cancelLaunch d n .cancelled).graftBoundary (launchKey d n))
      else if (s.launch d n).isNone then .next s
      else if (s.sides d n).any fun x => !s.healthy x.1 then .next ((s.resume d n).preempt d n 3 |>.graftBoundary (launchKey d n))
      else .next (s.boundaryActions d n l)

/-- TIME_SLOT_EVENT: a valid time slot at its offset in the phase adds 1 to an event counter of its destinations (R345) (DEDUCED, log entry 35). -/
def execTimeSlotEvent (d n m : Nat) (s : State) : Outcome :=
  match s.launch d n with
  | none => .next s
  | some l =>
    let w := (nget 0 l.slots m).toNat
    if l.stage ≠ .running ∨ bit w 63 = false ∨ (s.die d).cy - l.phaseCy ≠ bits w 39 0 ∨ m ∈ l.slotDone then .next s
    else
      let s := addEvents (bits w 43 40) (s.eventGlades (nget 0 l.slotBy m) (bits w 45 44)) s
      .next (s.modLaunch d n fun l => { l with slotDone := l.slotDone ++ [m] })

/-! ## Quota (R52, R376, R402) -/

/-- The launches of a job that its quota held go on (R52). -/
def State.release (s : State) (ctx : Nat) : State :=
  (List.range 4).foldl (fun s d => (nkeys (s.die d).launches fun _ l => decide (l.ctx = ctx) && l.held).foldl (fun s n =>
    let l := ((s.launch d n).map (·.holdTest)).getD false
    let test := (s.clearingsOf d n).any s.wantsTest
    if l || test then s.modLaunch d n fun l => { l with held := false, holdTest := true }
    else (s.modLaunch d n fun l => { l with held := false }).resume d n) s) s

/-- PERIOD_ROLLOVER: a job's accounting period ends, and a hold for its quota with it (R52, R402). -/
def execPeriodRollover (ctx : Nat) (s : State) : Outcome :=
  match s.openJob ctx with
  | none => .next s
  | some j =>
    if s.wall < j.periodAt + msWall * j.period then .next s
    else
      let s := s.modJob ctx fun j => { j with periodAt := j.periodAt + msWall * j.period, usageAt := [j.used.1, j.used.2] }
      .next (if (s.job ctx).overQuota then s else s.release ctx)

/-- QUOTA_CHANGE: the operator sets a job's graft quota, up to the pool its open set, and its limits; a hold ends where they are no longer reached
(R52, R375, R376) (DEDUCED, log entry 39). -/
def execQuotaChange (ctx graft usage occ : Nat) (s : State) : Outcome :=
  match s.openJob ctx with
  | none => .next s
  | some _ =>
    let s := (s.modJob ctx fun j => { j with graftQuota := min graft (leAt j.request 12 4), usageLimit := usage, occLimit := occ }).shrinkPool ctx
    .next (if (s.job ctx).overQuota then s else s.release ctx)

end Sys2Proof.Machine
end

