-- ==== Sys2Proof/Machine/HostPort.lean ====
section
/-! DEFINITION. The registers of each function and the host's writes to them (R12, R13, R251, R310, R315, R446), intake rings (R311 to R313), invalidation
(R251, R252), host pages (R253, R317), interrupts (R447), VF reset (R424) and TDISP (R446). -/

namespace Sys2Proof.Machine

/-! ## Registers (R251, R310, R315) -/

/-- A page address field: bits [54:12] (R310, R315). -/
def pageField (v : Nat) : Nat := 4096 * bits v 54 12

/-- A power of two. -/
def powTwo (n : Nat) : Bool := decide (0 < n ∧ n &&& (n - 1) = 0)

/-- An FQ.CFG entries value that keeps the queue enabled (R315). -/
def fqSizeOk (n : Nat) : Bool := powTwo n && decide (16 ≤ n ∧ n ≤ 4096)

/-- The value a BAR register reads as (R251, R310, R315): `v` of a VF's ring by its offset in the ring, else the function's own registers. -/
def Fn.register (f : Fn) (vf : Bool) (off : Nat) : Nat :=
  let r := f.ring (off / 64)
  if off < 0x200 then
    if vf = false then 0
    else if off % 64 = 0 then r.base
    else if off % 64 = 8 then r.size
    else if off % 64 = 0x18 then r.widx
    else if off % 64 = 0x20 then r.ridx
    else if off % 64 = 0x28 then r.st + 256 * r.cause
    else if off % 64 = 0x30 then r.rejected % 2 ^ 32 + 2 ^ 32 * (r.unmatched % 2 ^ 32)
    else if off % 64 = 0x38 then r.cq
    else 0
  else if off = 0x10000 ∧ vf = true then f.tinvAddr
  else if off = 0x10010 ∧ vf = true then f.tinvDone
  else if off = 0x10018 ∧ vf = true then f.tinvIssued % 2 ^ 32 + 2 ^ 32 * (f.tinvDropped % 2 ^ 32)
  else if off = 0x20000 then f.fqBase
  else if off = 0x20008 then f.fqEntries + 2 ^ 31 * b2n f.fqEnable
  else if off = 0x20010 then f.wcnt
  else if off = 0x20018 then f.rcnt
  else if off = 0x20020 then f.lost
  else if off = 0x20028 then f.stale
  else 0

/-- A BAR access that a VF refuses: in RUN, one without the IDE T bit (R446). -/
def Fn.refuses (f : Fn) (t : Bool) : Bool := decide (f.tdi = .run) && !t

/-- Whether the host port enumerates a function: once it is up PF0 (R453), and the VFs once the part record is accepted (R27, R429). -/
def State.enumerates (s : State) (fn : Nat) : Bool := decide (s.pk.power ≠ 0) && (decide (fn = 0) || s.pk.partOk)

/-- A BAR access of the host: answered with retry before the host port is up (R453), refused as an unsupported request by a function that is not there (R27) or by a TDI in
RUN (R446), or carried out. -/
def State.bar (s : State) (fn off : Nat) (t : Bool) (k : State → State) : Outcome :=
  if s.pk.power = 0 then .next (s.emit (.retry fn))
  else if !s.enumerates fn || (s.fn fn).refuses t then .next (s.emit (.unsupported fn off)) else .next (k s)

/-! ## Intake rings (R311 to R313) -/

/-- A ring of a VF; PF0 has none, and a VF has eight (R310). -/
def ringOk (vf ring : Nat) : Bool := decide (1 ≤ vf ∧ vf ≤ 63 ∧ ring < 8)

/-- A ring in ERROR with its record (R311, R409). -/
def State.ringError (s : State) (vf ring cause : Nat) : State :=
  (s.modFn vf fun f => f.modRing ring fun r => { r with st := 3, cause := cause }).noGlade 0x182 vf 0 cause ring

/-- A ring enabled, or its enable refused (R311); `granted` says whether every page of the ring and of the record area translates. -/
def State.enableRing (s : State) (vf ring : Nat) (granted : Bool) : State :=
  let r := (s.fn vf).ring ring
  if ringOk vf ring = false ∨ r.st ≠ 0 then s
  else
    let bad : Option Nat := if ¬(powTwo r.size = true ∧ 64 ≤ r.size ∧ r.size ≤ 65536) then some 1 else if r.size ≤ r.widx then some 2
      else if granted = false then some 3 else none
    match bad with
    | some c => (s.modFn vf fun f => f.modRing ring fun r => { r with cause := c }).noGlade 0x181 vf 0 c ring
    | none => s.modFn vf fun f => f.modRing ring fun r => { r with st := 1, ridx := 0, fetched := 0, cause := 0, teardown := 0 }

/-- RING_ENABLE: a write of enable to RING.CTL (R310, R311). -/
def execRingEnable (vf ring : Nat) (granted t : Bool) (s : State) : Outcome := s.bar vf (64 * ring + 0x10) t fun s => s.enableRing vf ring granted

/-- The messages of a ring published and not fetched are taken in ring order without being fired: the next ordinal, a CANCELLED record (R313). -/
def cancelUnfetched (vf ring : Nat) : Nat → State → State
  | 0, s => s
  | n + 1, s =>
    let r := (s.fn vf).ring ring
    if r.ridx = r.widx then s
    else
      let tag := s.num (hostAt vf + r.base + 64 * r.ridx) 4
      let s := s.ringRecord vf ring r.ridx tag 1 (r.fetched + 1)
      cancelUnfetched vf ring n (s.modFn vf fun f => f.modRing ring fun r => { r with ridx := (r.ridx + 1) % r.size, fetched := r.fetched + 1 })

/-- A message came through a ring. -/
def Origin.ofRing (o : Option Origin) (vf ring : Nat) : Bool :=
  match o with
  | some (.ring v r _ _ _) => decide (v = vf ∧ r = ring)
  | _ => false

/-- The queued matches of a root entry that came through a ring are cancelled (R313). -/
def State.cancelQueued (s : State) (vf ring d e : Nat) : State :=
  let a := s.arm (4096 * d + e)
  let gone := a.waiting.filter fun x => Origin.ofRing (some x.1) vf ring
  let s := s.modArm d e fun a => { a with waiting := a.waiting.filter fun x => !Origin.ofRing (some x.1) vf ring }
  gone.foldl (fun s x => ((s.advGraph d e .cancelled).record x.1 1).advJob a.ctx .cancelled) s

/-- The launches and graph instances of the dispatched messages of a ring are asked to be cancelled (R45, R313). -/
def State.cancelDispatched (s : State) (vf ring : Nat) : State :=
  let s := (List.range 4).foldl (fun s d => ((s.die d).arms.map (·.1)).foldl (fun s e => s.cancelQueued vf ring d e) s) s
  let roots := (List.range 4).flatMap fun d => ((s.die d).instances.filter fun i => Origin.ofRing i.origin vf ring).map (·.root)
  (List.range 4).foldl (fun s d => s.modDie d fun x => { x with
    cancels := x.cancels ++ (nkeys x.launches fun _ l => Origin.ofRing l.origin vf ring || (match l.root with
      | some r => roots.contains r
      | none => false)).map fun n => (n, .cancelled, true)
    instances := x.instances.map fun i => if Origin.ofRing i.origin vf ring then { i with cancelled := true } else i }) s

/-- A teardown of a ring begins (R311, R313). -/
def State.teardown (s : State) (vf ring mode : Nat) : State :=
  let r := (s.fn vf).ring ring
  if ringOk vf ring = false ∨ ¬(r.st = 1 ∨ r.st = 3) then s
  else
    let s := s.modFn vf fun f => f.modRing ring fun r => { r with st := 2, teardown := mode }
    let s := if mode = 2 then s.cancelDispatched vf ring else s
    cancelUnfetched vf ring r.size s

/-- RING_TEARDOWN_DRAIN: dispatched launches run to completion (R313). -/
def execRingTeardownDrain (vf ring : Nat) (t : Bool) (s : State) : Outcome := s.bar vf (64 * ring + 0x10) t fun s => s.teardown vf ring 1

/-- RING_TEARDOWN_CANCEL: dispatched launches and instances are cancelled (R313). -/
def execRingTeardownCancel (vf ring : Nat) (t : Bool) (s : State) : Outcome := s.bar vf (64 * ring + 0x10) t fun s => s.teardown vf ring 2

/-- The host writes before a write-index update are before the messages it publishes (R283); those of a ring that is not enabled are its first. -/
def State.publish (s : State) (vf ring w : Nat) : State :=
  let r := (s.fn vf).ring ring
  let first := if r.st = 1 then r.fetched + (r.widx + r.size - r.ridx) % r.size else 0
  let n := if r.st = 1 then (w + r.size - r.widx) % r.size else w
  let msgs := (List.range n).map fun i => Point.msg vf ring (first + i + 1)
  { s with unseen := s.unseen.map fun e => if e.meets [.host vf] then msgs.foldl Unseen.to e else e }

/-- A write of RING.WIDX (R310, R311): ignored in DRAINING and ERROR; in ACTIVE an index outside the ring enters ERROR. -/
def State.setWidx (s : State) (vf ring v : Nat) : State :=
  let r := (s.fn vf).ring ring
  let w := v % 2 ^ 17
  if ringOk vf ring = false ∨ ¬(r.st = 0 ∨ r.st = 1) then s
  else if r.st = 1 ∧ r.size ≤ w then s.ringError vf ring 4
  else (s.publish vf ring w).modFn vf fun f => f.modRing ring fun r => { r with widx := w }

/-- RING_WIDX_WRITE (R311). -/
def execRingWidxWrite (vf ring : Nat) (v : Word) (t : Bool) (s : State) : Outcome := s.bar vf (64 * ring + 0x18) t fun s => s.setWidx vf ring v.toNat

/-- RING_DRAIN_COMPLETE: every record of a teardown has been written (R311). -/
def execRingDrainComplete (vf ring : Nat) (s : State) : Outcome :=
  let r := (s.fn vf).ring ring
  if r.st = 2 ∧ r.pendingRecs = 0 then .next (s.modFn vf fun f => f.modRing ring fun r => { r with st := 0, ridx := r.widx, teardown := 0 }) else .next s

/-- RING_FETCH: an ACTIVE ring fetches its next message, which the front end processes (R48, R312); a fetch that fails translation (`ok` false) or
returns poisoned data enters ERROR (R311) (DESIGN CHOICE, log entry 23). -/
def execRingFetch (vf ring : Nat) (ok : Bool) (s : State) : Outcome :=
  let r := (s.fn vf).ring ring
  if r.st ≠ 1 ∨ r.ridx = r.widx then .next s
  else
    let a := hostAt vf + r.base + 64 * r.ridx
    if ok = false ∨ s.bad a 64 = true then .next (s.ringError vf ring 5)
    else
      let m := s.bytes a 64
      let s := s.modFn vf fun f => f.modRing ring fun r =>
        { r with ridx := (r.ridx + 1) % r.size, fetched := r.fetched + 1, pendingRecs := r.pendingRecs + 1 }
      .next (s.message (.ring vf ring r.ridx (r.fetched + 1) (leAt m 0 4)) m)

/-! ## Invalidation (R251, R252) -/

/-- A TINV command of a VF (R251): accepted, or dropped where its context is not the VF's, 64 commands are pending, or its kind is reserved. -/
def State.tinv (s : State) (vf kind cmd : Nat) : State :=
  let ctx := cmd % 1024
  let f := s.fn vf
  let mine : Bool := match s.openJob ctx with
    | some j => decide (j.vf = vf)
    | none => false
  if mine = false ∨ ¬(kind = 1 ∨ kind = 2) ∨ 64 ≤ f.tinvQ.length then s.modFn vf fun f => { f with tinvDropped := f.tinvDropped + 1 }
  else s.modFn vf fun f => { f with tinvIssued := f.tinvIssued + 1, tinvQ := f.tinvQ ++ [(kind, ctx, f.tinvAddr)] }

/-- TINV_PAGE: a TINV.CMD write of kind 1 (R251). -/
def execTinvPage (vf : Nat) (cmd : Word) (t : Bool) (s : State) : Outcome := s.bar vf 0x10008 t fun s => if 1 ≤ vf ∧ vf ≤ 63 then s.tinv vf 1 cmd.toNat else s

/-- TINV_CONTEXT: a TINV.CMD write of kind 2 (R251). -/
def execTinvContext (vf : Nat) (cmd : Word) (t : Bool) (s : State) : Outcome := s.bar vf 0x10008 t fun s => if 1 ≤ vf ∧ vf ≤ 63 then s.tinv vf 2 cmd.toNat else s

/-- The device addresses a command covers (R251). -/
def tinvRange (kind addr : Nat) : Nat × Nat :=
  if kind = 2 then (0, 2 ^ 64) else
    let n := 4096 * 4 ^ bits addr 3 0
    (4096 * bits addr 55 12 / n * n, n)

/-- Whether an access of a context translated in a range has not been performed yet: a buffered store, or an AG request (R251). -/
def State.translating (s : State) (ctx lo n : Nat) : Bool :=
  s.glades.any fun x => x.2.cur.place.any (fun p => decide (p.ctx = ctx))
    && ((x.2.cur.ww.block.any fun b => b.stores.any fun t => decide (lo ≤ t.gaddr ∧ t.gaddr < lo + n))
      || x.2.cur.th.elems.any fun e => e.2.agOut.any fun r => decide (lo ≤ r.gaddr ∧ r.gaddr < lo + n))

/-- The entries of the translation caches that a test does not name. -/
def State.dropTlb (s : State) (p : Tlb → Bool) : State :=
  { s with glades := s.glades.map fun x => (x.1, { x.2 with tlb := x.2.tlb.filter fun t => !p t })
           clearings := s.clearings.map fun x => (x.1, { x.2 with tlb := x.2.tlb.filter fun t => !p t }) }

/-- TINV_COMPLETE: the oldest command of a VF completes once every access translated through a covered entry has been performed; an access that starts then walks
afresh (R251). -/
def execTinvComplete (vf : Nat) (s : State) : Outcome :=
  match (s.fn vf).tinvQ with
  | [] => .next s
  | (kind, ctx, addr) :: rest =>
    let r := tinvRange kind addr
    if s.translating ctx r.1 r.2 then .next s
    else
      let s := s.dropTlb fun t => decide (t.owner = ctx ∧ t.host = false ∧ t.base < r.1 + r.2 ∧ r.1 < t.base + t.size)
      let s : State := { s with glades := s.glades.map fun x => (x.1, { x.2 with walkFaults := x.2.walkFaults.filter fun f => decide (f.1 ≠ ctx) }) }
      .next (s.modFn vf fun f => { f with tinvQ := rest, tinvDone := f.tinvDone + 1 })

/-- What a glade does with accesses through an entry that the host invalidates (R252): outstanding AG requests are performed, and a block with buffered
stores there is fetched again (DEDUCED, log entry 37). -/
def State.settleHost (s : State) (g lo n : Nat) : State :=
  let hit (a : Nat) : Bool := decide (2 ^ 55 + lo ≤ a ∧ a < 2 ^ 55 + lo + n)
  let s := if (s.block g).any fun b => b.stores.any fun t => hit t.gaddr then s.discard g else s
  (s.th g).elems.foldl (fun s e => if e.2.agOut.any fun r => hit r.gaddr then quiesceAg g e.1 e.2.agOut.length s else s) s

/-- ATS_INVALIDATE: the host invalidates translations of a VF (R252). With 32 outstanding none is taken (R445) (DESIGN CHOICE, log entry 101). -/
def execAtsInvalidate (vf addr size : Nat) (s : State) : Outcome :=
  if s.enumerates vf = false ∨ vf = 0 ∨ 63 < vf ∨ 32 ≤ (s.fn vf).invQ.length then .next s
  else .next (s.modFn vf fun f => { f with invQ := f.invQ ++ [(addr, size)] })

/-- The oldest invalidation of a VF completes: the covered entries are gone and every access through them has been performed (R252). -/
def State.invalidated (s : State) (vf : Nat) : State :=
  match (s.fn vf).invQ with
  | [] => s
  | (addr, size) :: rest =>
    let gs := nkeys s.glades fun _ x => x.cur.place.any fun p => decide (p.vf = vf)
    let s := gs.foldl (fun s g => s.settleHost g addr size) (s.modFn vf fun f => { f with invQ := rest })
    (s.dropTlb fun t => t.host && decide (t.owner = vf ∧ t.base < addr + size ∧ addr < t.base + t.size)).request vf .atsInvDone

/-! ## Host pages (R252, R253, R317) -/

/-- The glade in whose caches the translation for a waiter goes. -/
def State.waiterGlade (s : State) (w : Waiter) : Nat := if w.agent = 3 then (s.graft w.idx).glade else w.glade

/-- ATS_TRANSLATION_COMPLETION: the oldest request for a page is granted reads or writes, or not (R252): a grant enters the caches for the waiters; a first refusal
asks for the page, but for LD.T (R260), and one after a retry fails it (R253). -/
def execAtsTranslationCompletion (vf page : Nat) (rd wr : Bool) (s : State) : Outcome :=
  let asks (h : HostPage) : Bool := decide (h.page = page) && (match h.wait with
    | .ats _ => true
    | _ => false)
  match (s.fn vf).pages.find? asks with
  | none => .next s
  | some h =>
      if if h.wr then wr else rd then
        let gs := (h.waiters.map s.waiterGlade).eraseDups
        let s := gs.foldl (fun s g => s.cacheFill g { owner := vf, host := true, base := 4096 * page, size := 4096, rd := rd, wr := wr }) s
        .next (s.modFn vf fun f => { f with pages := modFirst asks (fun _ => none) f.pages })
      else .next (s.modFn vf fun f => { f with pages := modFirst asks (fun x =>
        if x.waiters = [] then none else some { x with wait := if x.wait = .ats true ∨ x.light = true then .failed else .queued }) f.pages })

/-- The lowest page request index that is free (R317). -/
def Fn.freePrg (f : Fn) : Option Nat := (List.range 64).find? fun k => (nfind f.prq k).isNone

/-- The entry of the page request queue that a page has already: one of this incarnation (R317). -/
def Fn.entryOf (f : Fn) (page : Nat) : Option Nat := (f.prq.find? fun e => decide (e.2.page = page ∧ e.2.incarn = f.incarn)).map (·.1)

/-- What waits for a page to be requested waits for the answer to a group. -/
def State.waitPrg (s : State) (vf page k : Nat) : State := s.modFn vf fun f =>
  { f with pages := modFirst (fun x => decide (x.page = page ∧ x.wait = .queued)) (fun x => some { x with wait := .prq k }) f.pages }

/-- PAGE_REQUEST: a page that needs one joins the entry it has already, or sends its Page Request when an index is free (R253, R317). -/
def execPageRequest (vf page : Nat) (s : State) : Outcome :=
  let f := s.fn vf
  match f.pages.find? fun h => decide (h.page = page ∧ h.wait = .queued) with
  | none => .next s
  | some h => match f.entryOf page, f.freePrg with
    | some k, _ => .next (s.waitPrg vf page k)
    | none, some k => .next (((s.modFn vf fun f => { f with prq := nset f.prq k ⟨page, h.wr, f.incarn, s.wall⟩ }).waitPrg vf page k).request vf (.pageRequest k page h.wr))
    | none, none => .next s

/-- The accesses that wait for a page request: they retry their translation, or fail (R253). -/
def State.answerPrg (s : State) (vf k : Nat) (ok : Bool) : State :=
  let hs := (s.fn vf).pages.filter fun h => decide (h.wait = .prq k)
  let s := s.modFn vf fun f => { f with pages := (f.pages.map fun h =>
    if h.wait = .prq k then { h with wait := if ok then .ats true else .failed } else h).filter fun h => ¬(h.wait = .failed ∧ h.waiters = []) }
  if ok then hs.foldl (fun s h => s.request vf (.ats h.page h.wr)) s else s

/-- PRG_RESPONSE: the host answers a page request group (R253): success, or not; one issued under another incarnation is stale. -/
def execPrgResponse (vf idx : Nat) (ok : Bool) (s : State) : Outcome :=
  let f := s.fn vf
  match nfind f.prq idx with
  | none => .next s
  | some e =>
    let s := s.modFn vf fun f => { f with prq := ndel f.prq idx }
    if e.incarn ≠ f.incarn then .next (s.modFn vf fun f => { f with stale := f.stale + 1 }) else .next (s.answerPrg vf idx ok)

/-- PRG_TIMEOUT: no response within 100 ms (R253); the entry is freed (R317). -/
def execPrgTimeout (vf idx : Nat) (s : State) : Outcome :=
  let f := s.fn vf
  match nfind f.prq idx with
  | none => .next s
  | some e =>
    if s.wall < e.at_ + 100 * msWall then .next s
    else
      let s := s.modFn vf fun f => { f with prq := ndel f.prq idx }
      .next (if e.incarn ≠ f.incarn then s else s.answerPrg vf idx false)

/-! ## Fault queue and interrupts (R315, R447) -/

/-- A write of FQ.RCNT below its value or above wcnt is ignored (R315). -/
def State.setRcnt (s : State) (fn v : Nat) : State := s.modFn fn fun f => if f.rcnt ≤ v ∧ v ≤ f.wcnt then { f with rcnt := v } else f

/-- FQ_RCNT_WRITE (R315). -/
def execFqRcntWrite (fn : Nat) (v : Word) (t : Bool) (s : State) : Outcome := s.bar fn 0x20018 t fun s => s.setRcnt fn v.toNat

/-- FQ_LOST_READ: a read of FQ.LOST returns the count and clears it (R12, R315). -/
def execFqLostRead (fn : Nat) (t : Bool) (s : State) : Outcome :=
  s.bar fn 0x20020 t fun s => (s.emit (.readValue fn 0x20020 (s.fn fn).lost)).modFn fn fun f => { f with lost := 0 }

/-- MSIX_MESSAGE: a signalled vector sends its message, at most one each µs (R447). -/
def execMsixMessage (fn vec : Nat) (s : State) : Outcome :=
  let f := s.fn fn
  let early : Bool := match nfind f.msixAt vec with
    | some w => decide (s.wall < w + usWall)
    | none => false
  if vec ∉ f.msixPend ∨ early = true then .next s
  else .next ((s.modFn fn fun f => { f with msixPend := f.msixPend.filter (· ≠ vec), msixAt := nset f.msixAt vec s.wall }).request fn (.msix vec))

/-- A write to a register of a function (R12, R13, R251, R310, R315): reserved fields and RO registers ignore it; BASE, CFG and CQ of a ring ignore it outside
DISABLED. `granted` is what ATS answers for an enable. -/
def State.setReg (s : State) (fn off v : Nat) (granted : Bool) : State :=
  let i := off / 64
  let idle (f : Ring → Ring) : State := s.modFn fn fun x => x.modRing i fun r => if r.st = 0 then f r else r
  if off < 0x200 then
    if ringOk fn i = false then s
    else if off % 64 = 0 then idle fun r => { r with base := pageField v }
    else if off % 64 = 8 then idle fun r => { r with size := v % 2 ^ 17 }
    else if off % 64 = 0x10 then
      if ((s.fn fn).ring i).st = 0 then if bit v 0 then s.enableRing fn i granted else s
      else if bits v 2 1 = 1 ∨ bits v 2 1 = 2 then s.teardown fn i (bits v 2 1) else s
    else if off % 64 = 0x18 then s.setWidx fn i v
    else if off % 64 = 0x38 then idle fun r => { r with cq := pageField v }
    else s
  else if off = 0x10000 ∧ 1 ≤ fn then s.modFn fn fun f => { f with tinvAddr := 4096 * bits v 55 12 + bits v 3 0 }
  else if off = 0x10008 ∧ 1 ≤ fn then s.tinv fn (bits v 11 10) v
  else if off = 0x20000 then s.modFn fn fun f => { f with fqBase := pageField v }
  else if off = 0x20008 then s.modFn fn fun f => { f with fqEntries := v % 2 ^ 13, fqEnable := bit v 31 && fqSizeOk (v % 2 ^ 13) }
  else if off = 0x20018 then s.setRcnt fn v
  else s

/-- REGISTER_WRITE: the host writes a BAR register (R12). -/
def execRegisterWrite (fn off : Nat) (v : Word) (granted t : Bool) (s : State) : Outcome :=
  s.bar fn off t fun s => if fn ≤ 63 then s.setReg fn off v.toNat granted else s

/-! ## VF reset (R424) -/

/-- The bytes of a function's memory put back as they stood: the device writes nothing there (R424). -/
def State.keepHost (s : State) (vf : Nat) (old : List Host.Cell) : State :=
  let mine (c : Host.Cell) : Bool := decide (hostAt vf ≤ c.1 ∧ c.1 < hostAt (vf + 1))
  { s with mem := (old.filter mine).foldl (fun m c => memSet m c.1 c.2) (memZero s.mem (hostAt vf) (2 ^ 56)) }

/-- Every job of a VF ends, and the device writes nothing to the VF's memory meanwhile (R424). -/
def State.dropJobs (s : State) (vf : Nat) : State :=
  let s' := (nkeys s.jobs fun _ j => decide (j.vf = vf)).foldl (fun s c => s.endJob c true) (s.modFn vf fun f => { f with banned := true })
  (s'.modFn vf fun f => { f with banned := false }).keepHost vf s.mem

/-- A VF reset accepted (R424): INCARN, registers, rings, translations, jobs, reservations, and VF_RESET to PF0. -/
def State.resetVf (s : State) (vf : Nat) : State :=
  let clean (f : Fn) : Fn := { prq := f.prq, invQ := f.invQ, tdi := f.tdi, ide := f.ide, incarn := f.incarn }
  let n := ((nkeys s.jobs fun _ j => decide (j.vf = vf)).map s.launchCount).sum
  let s := (s.modFn vf fun f => { clean f with incarn := f.incarn + 1 }).dropTlb fun t => t.host && decide (t.owner = vf)
  ((s.dropJobs vf).modFn vf clean).noGlade 0x183 0 0 vf n

/-- VF_RESET (R424), of a VF that is there (R27). -/
def execVfReset (vf : Nat) (s : State) : Outcome := if 1 ≤ vf ∧ vf ≤ 63 ∧ s.enumerates vf = true then .next (s.resetVf vf) else .next s

/-! ## TDISP and IDE (R445, R446) -/

/-- A TDISP request that takes a TDI from one state to another; in any other state it is answered INVALID_INTERFACE_STATE and changes nothing, and a VF that is
not there has no TDI (R2, R27, R446) (PRESUMED, log entry 76). -/
def State.tdisp (s : State) (vf : Nat) (old new : Tdi) : Outcome :=
  if s.enumerates vf = false then .next s
  else if (s.fn vf).tdi = old then .next ((s.modFn vf fun f => { f with tdi := new }).emit (.tdisp vf 0))
  else .next (s.emit (.tdisp vf 4))

/-- TDISP_LOCK_INTERFACE: CONFIG_UNLOCKED becomes CONFIG_LOCKED (R446); without keys for the VF's IDE stream it is an INVALID_REQUEST (R2, R445) (PRESUMED, log entry 76). -/
def execTdispLockInterface (vf : Nat) (s : State) : Outcome :=
  if s.enumerates vf = true ∧ (s.fn vf).tdi = .unlocked ∧ (s.fn vf).ide = [] then .next (s.emit (.tdisp vf 1)) else s.tdisp vf .unlocked .locked

/-- TDISP_START_INTERFACE: CONFIG_LOCKED becomes RUN (R446). -/
def execTdispStartInterface (vf : Nat) (s : State) : Outcome := s.tdisp vf .locked .run

/-- TDI_STOP: the TDI becomes CONFIG_UNLOCKED by STOP_INTERFACE, which is answered (R2), or ERROR; one that leaves RUN while the VF holds a CONFIDENTIAL job is a VF
reset (R446). -/
def execTdiStop (vf : Nat) (error : Bool) (s : State) : Outcome :=
  if s.enumerates vf = false ∨ vf = 0 ∨ 63 < vf then .next s
  else
    let conf := decide ((s.fn vf).tdi = .run) && s.jobs.any fun j => decide (j.2.vf = vf) && j.2.confidential
    let s := s.modFn vf fun f => { f with tdi := if error then .error else .unlocked }
    let s := if conf then s.resetVf vf else s
    .next (if error then s else s.emit (.tdisp vf 0))

/-- IDE_KM_KEY_PROG: the key of a VF's selective IDE stream is set (R445). -/
def execIdeKmKeyProg (req : IdeKey) (s : State) : Outcome :=
  .next (if s.enumerates req.vf = true ∧ 1 ≤ req.vf ∧ req.vf ≤ 63 then s.modFn req.vf fun f => { f with ide := sliceB req.key 0 32 } else s)

end Sys2Proof.Machine
end

