-- ==== Sys2Proof/Machine/Spdm.lean ====
section
/-! DEFINITION. The SPDM responders (R431): at the functions 0 to 63, at the links (64 to 79), at the party relay (80); what they answer, their sessions, and the messages of
a link (R450). -/

namespace Sys2Proof.Machine

/-! ## Sessions and parties (R432, R436, R438) -/

def State.responder (s : State) (r : Nat) : Spdm := nget {} s.pk.spdm r
def State.modSpdm (s : State) (r : Nat) (f : Spdm → Spdm) : State := { s with pk := { s.pk with spdm := nmod {} s.pk.spdm r f } }

/-- The party relay (R431), where the sessions of parties are. -/
def relay : Nat := 80

/-- The job and party index that a session of the relay is bound to (R436). -/
def State.partyOf (s : State) (ses : Nat) : Option (Nat × Nat) :=
  s.jobs.findSome? fun j => (j.2.joins.find? fun p => decide (p.2.spdm = some ses)).map fun p => (j.1, p.1)

/-- The open session entries of a party that meet a test are closed (R438). -/
def State.closeSessions (s : State) (ctx party : Nat) (hit : Nat → Session → Bool) : State :=
  s.modJob ctx fun j => { j with sessions := j.sessions.map fun x => if x.2.party = party ∧ x.2.opened = true ∧ hit x.1 x.2 = true then (x.1, { x.2 with opened := false, key := [] }) else x }

/-- A session ends, with one of the relay the session entries of its party and the party's binding to it (R431, R436, R438). -/
def State.endSpdm (s : State) (rsp ses : Nat) : State :=
  let s := match if rsp = relay then s.partyOf ses else none with
    | some (c, i) => (s.closeSessions c i fun _ _ => true).modJob c fun j => { j with joins := nmod { spdm := none } j.joins i fun p => { p with spdm := none } }
    | none => s
  let s : State := if rsp = relay then { s with clearings := s.clearings.map fun c => (c.1, { c.2 with gone := c.2.gone.map fun x => { x with sessions := x.sessions.filter (· ≠ ses) } }) } else s
  s.modSpdm rsp fun x => { x with sessions := ndel x.sessions ses }

/-! ## Answers (R431, R450) -/

/-- The SPDM flits of a message: up to 224 bytes each, the last marked (R450). -/
def sendSpdm (l : Nat) : Nat → List Byte → State → State
  | 0, _, s => s
  | n + 1, m, s =>
    let b := m.take 224
    sendSpdm l n (m.drop 224) (s.sendFlit l 6 (toBytes 2 b.length ++ toBytes 1 (b2n (decide (m.length ≤ 224))) ++ [0] ++ b ++ List.replicate (224 - b.length) 0))

/-- An SPDM message on a link. -/
def State.spdmTo (s : State) (l : Nat) (m : List Byte) : State := sendSpdm l ((m.length + 223) / 224) m s

/-- A responder's answer: on a link as a message of version 1.3, else as an output (R431). -/
def State.answer (s : State) (rsp code : Nat) (body : List Byte) : State :=
  if 64 ≤ rsp ∧ rsp < relay then s.spdmTo (rsp - 64) ([if code = 4 then 0x10 else 0x13, BitVec.ofNat 8 code, 0, 0] ++ body) else s.emit (.spdm rsp code body)

/-- The heartwood runs, so that the management plane accepts more than a firmware update (R429). -/
def State.manages (s : State) : Bool := decide (s.pk.power ≠ 0 ∧ s.pk.power ≠ 2)

/-- A responder that is there: the heartwood runs (R429), and the function is enumerated (R27) or the link has a partner. -/
def State.responds (s : State) (rsp : Nat) : Bool :=
  s.manages && (if rsp < 64 then s.enumerates rsp else if rsp < relay then decide ((s.link (rsp - 64)).st ≠ .absent) else decide (rsp = relay))

/-- ERROR with a code (R2, R431). -/
def State.spdmError (s : State) (rsp code : Nat) : State := s.answer rsp 0x7F [BitVec.ofNat 8 code, 0]

/-- A response, or ERROR UnexpectedRequest where the connection has not come to a stage, InvalidRequest where the request is not `ok` (R431) (DESIGN CHOICE, log entry
17). -/
def State.spdmAt (s : State) (r stage code : Nat) (ok : Bool) (body : List Byte) (k : State → State) : Outcome :=
  if s.responds r = false then .next s
  else if (s.responder r).stage < stage then .next (s.spdmError r 4)
  else if ok = false then .next (s.spdmError r 1)
  else .next ((k s).answer r code body)

/-- SPDM_GET_VERSION: the connection starts anew and its sessions end (R2); 1.3 only, and with no version in common the exchange ends (R431) (PRESUMED, log
entry 76). -/
def execSpdmGetVersion (rsp : Nat) (common : Bool) (s : State) : Outcome :=
  if s.responds rsp = false then .next s
  else
    let s := ((s.responder rsp).sessions.map (·.1)).foldl (fun s ses => s.endSpdm rsp ses) s
    if common then .next ((s.modSpdm rsp fun x => { x with stage := 1, kex := false }).answer rsp 0x04 [0x00, 0x13])
    else .next ((s.modSpdm rsp fun x => { x with stage := 0, kex := false }).spdmError rsp 0x41)

/-- The capability flags of a responder (R431): certificates, challenge, signed measurements, encryption and MAC, key exchange, heartbeat, key update, alias
certificate; at the links also mutual authentication (PRESUMED, log entry 76). -/
def spdmFlags (rsp : Nat) : Nat := 0x462D6 + if 64 ≤ rsp ∧ rsp < relay then 0x100 else 0

/-- SPDM_GET_CAPABILITIES: the flags (R431); the timeout exponent and the sizes, which no rule gives, are free. -/
def execSpdmGetCapabilities (rsp : Nat) (s : State) : Outcome :=
  let free := toBytes 8 (Config.freeWord s.free).toNat
  s.spdmAt rsp 1 0x61 true ([0] ++ free.take 1 ++ [0, 0] ++ toBytes 4 (spdmFlags rsp) ++ toBytes 8 (Config.freeWord (s.free + 1)).toNat) fun s =>
    s.drawn.drawn.modSpdm rsp fun x => { x with stage := max x.stage 2 }

/-- SPDM_NEGOTIATE_ALGORITHMS: of what the requester offers the device takes ECDSA P-256 and SHA-256, without which the request is refused, and secp256r1 with AES-256-GCM,
without which no session can follow (R2, R431) (PRESUMED, log entry 76). -/
def execSpdmNegotiateAlgorithms (req : SpdmOffer) (s : State) : Outcome :=
  let dhe := bit req.dhe 3
  let aead := bit req.aead 1
  let kex := dhe && aead
  s.spdmAt req.rsp 2 0x63 (bit req.asym 4 && bit req.hash 0)
    (toBytes 4 2 ++ toBytes 4 0x10 ++ toBytes 4 1 ++ [2, 0x20, BitVec.ofNat 8 (8 * b2n dhe), 0] ++ [3, 0x20, BitVec.ofNat 8 (2 * b2n aead), 0]) fun s =>
      s.modSpdm req.rsp fun x => { x with stage := max x.stage 3, kex := kex }

/-- SPDM_GET_DIGESTS: the digest of slot 0's chain (R431). -/
def execSpdmGetDigests (rsp : Nat) (s : State) : Outcome := s.spdmAt rsp 3 0x01 true (sha256 s.pk.slotZero) id

/-- SPDM_GET_CERTIFICATE: a portion of slot 0's chain, root to device to alias, with its length and what remains; the other slots hold none (R430, R431). -/
def execSpdmGetCertificate (req : SpdmPortion) (s : State) : Outcome :=
  let chain := s.pk.slotZero
  let b := (chain.drop req.off).take req.len
  s.spdmAt req.rsp 3 0x02 (decide (req.slot = 0 ∧ req.off < chain.length)) (toBytes 2 b.length ++ toBytes 2 (chain.length - req.off - b.length) ++ b) id

/-- SPDM_CHALLENGE: a signed answer to the nonce (R431). -/
def execSpdmChallenge (req : SpdmParam) (nonce : List Byte) (s : State) : Outcome :=
  let body := sha256 s.pk.slotZero ++ sliceB nonce 0 32
  s.spdmAt req.rsp 3 0x03 (decide (req.param = 0)) (body ++ s.sign 4 body) State.drawn

/-- The measurement blocks an operation of GET_MEASUREMENTS names: their number for 0, M0 to M3 for 1 to 4, all for 255 (R431). -/
def Pkg.blocks (p : Pkg) (op : Nat) : Option (List Byte) :=
  if op = 0 then some [4] else if op = 1 then some p.m0 else if op = 2 then some p.m1 else if op = 3 then some p.m2 else if op = 4 then some p.m3
  else if op = 255 then some (p.m0 ++ p.m1 ++ p.m2 ++ p.m3) else none

/-- SPDM_GET_MEASUREMENTS: blocks 1 to 4 hold M0 to M3, signed (R431). -/
def execSpdmGetMeasurements (req : SpdmParam) (nonce : List Byte) (s : State) : Outcome :=
  let body := (s.pk.blocks req.param).getD [] ++ sliceB nonce 0 32
  s.spdmAt req.rsp 3 0x60 (s.pk.blocks req.param).isSome (body ++ s.sign 5 body) State.drawn

/-- The sessions a responder admits (R431): a function four, a link two, the party relay one for each party of each job. -/
def State.sessionLimit (s : State) (rsp : Nat) : Nat := if rsp < 64 then 4 else if rsp < relay then 2 else (s.jobs.map fun j => j.2.parties).sum

/-- SPDM_KEY_EXCHANGE: a session begins its handshake; `secret` is the export master secret that the key agreement yields (R431) (DESIGN CHOICE, log entry 17). -/
def execSpdmKeyExchange (rsp ses : Nat) (secret : List Byte) (s : State) : Outcome :=
  let x := s.responder rsp
  if s.responds rsp = true ∧ 3 ≤ x.stage ∧ x.kex = false then .next (s.spdmError rsp 7)
  else if s.responds rsp = true ∧ 3 ≤ x.stage ∧ (s.sessionLimit rsp ≤ x.sessions.length ∨ (nfind x.sessions ses).isSome = true) then .next (s.spdmError rsp 0x0A)
  else s.spdmAt rsp 3 0x64 true (s.sign 6 secret) fun s => s.drawn.modSpdm rsp fun x => { x with sessions := nset x.sessions ses { secret := secret } }

/-- A request that belongs to a session of a responder in its handshake, or to a secured one; else ERROR (R431). -/
def State.spdmIn (s : State) (rsp ses code : Nat) (secured : Bool) (k : State → State) : Outcome :=
  if s.responds rsp = false then .next s
  else match nfind (s.responder rsp).sessions ses with
    | some x => if x.secured = secured then .next ((k s).answer rsp code []) else .next (s.spdmError rsp 4)
    | none => .next (s.spdmError rsp 2)

/-- SPDM_FINISH: the handshake has finished; the session is secured (R431). -/
def execSpdmFinish (rsp ses : Nat) (s : State) : Outcome :=
  s.spdmIn rsp ses 0x65 false fun s => s.modSpdm rsp fun x => { x with sessions := nmod {} x.sessions ses fun y => { y with secured := true } }

/-- SPDM_KEY_UPDATE: the session's own keys change; no session entry's key does (R431, R438). -/
def execSpdmKeyUpdate (rsp ses : Nat) (s : State) : Outcome :=
  s.spdmIn rsp ses 0x69 true fun s => s.modSpdm rsp fun x => { x with sessions := nmod {} x.sessions ses fun y => { y with updates := y.updates + 1 } }

/-- SPDM_HEARTBEAT (R431). -/
def execSpdmHeartbeat (rsp ses : Nat) (s : State) : Outcome := s.spdmIn rsp ses 0x68 true id

/-- SPDM_END_SESSION: the session ends, and the party's session entries close (R431, R438). -/
def execSpdmEndSession (rsp ses : Nat) (s : State) : Outcome := s.spdmIn rsp ses 0x6C true fun s => s.endSpdm rsp ses

/-- SPDM_UNSUPPORTED: any other request is answered with ERROR UnsupportedRequest (R431, R432). -/
def execSpdmUnsupported (rsp : Nat) (s : State) : Outcome := .next (if s.responds rsp then s.spdmError rsp 7 else s)

/-! ## SPDM on a link (R431, R452) (PRESUMED, log entry 76: codes and layouts of SPDM 1.3) -/

/-- A request that came over a link goes to the link's responder; those of a session to the one it has. -/
def State.spdmRequest (s : State) (l : Nat) (m : List Byte) : Outcome :=
  let rsp := 64 + l
  let code := leAt m 1 1
  let ses := ((s.responder rsp).sessions.map (·.1)).headD 0
  if code = 0x84 then execSpdmGetVersion rsp true s
  else if code = 0xE1 then execSpdmGetCapabilities rsp s
  else if code = 0xE3 then execSpdmNegotiateAlgorithms ⟨rsp, leAt m 8 4, leAt m 12 4, leAt m 34 2, leAt m 38 2⟩ s
  else if code = 0x81 then execSpdmGetDigests rsp s
  else if code = 0x82 then execSpdmGetCertificate ⟨rsp, leAt m 2 1, leAt m 4 2, leAt m 6 2⟩ s
  else if code = 0x83 then execSpdmChallenge ⟨rsp, leAt m 2 1⟩ (sliceB m 4 32) s
  else if code = 0xE0 then execSpdmGetMeasurements ⟨rsp, leAt m 3 1⟩ (sliceB m 4 32) s
  else if code = 0xE4 then execSpdmKeyExchange rsp (leAt m 4 2) ((List.range 32).map (Config.secretByte 9 s.free)) s
  else if code = 0xE5 then execSpdmFinish rsp ses s
  else if code = 0xE8 then execSpdmHeartbeat rsp ses s
  else if code = 0xE9 then execSpdmKeyUpdate rsp ses s
  else if code = 0xEC then execSpdmEndSession rsp ses s
  else execSpdmUnsupported rsp s

/-- The request that follows one when the device is the requester on a link; 0 after the last. -/
def nextRequest (code : Nat) : Nat :=
  if code = 0x84 then 0xE1 else if code = 0xE1 then 0xE3 else if code = 0xE3 then 0x81 else if code = 0x81 then 0x82 else if code = 0x82 then 0x83 else if code = 0x83 then 0xE0
  else if code = 0xE0 then 0xE4 else if code = 0xE4 then 0xE5 else 0

/-- Bytes of a request that the requester chooses freely: nonces and its share of the key agreement (DESIGN CHOICE, log entry 3). -/
def freeBytes (n free : Nat) : List Byte := (List.range n).map (Config.secretByte 10 free)

/-- The device sends a request on a link as requester (R452). -/
def State.askSpdm (s : State) (l code : Nat) : State :=
  let body : List Byte :=
    if code = 0x84 ∨ code = 0x81 then [0, 0]
    else if code = 0xE1 then [0, 0] ++ toBytes 4 0 ++ toBytes 4 (spdmFlags 64) ++ freeBytes 8 s.free
    else if code = 0xE3 then [2, 0] ++ toBytes 2 40 ++ [1, 0] ++ toBytes 4 0x10 ++ toBytes 4 1 ++ List.replicate 16 0 ++ [2, 0x20, 8, 0, 3, 0x20, 2, 0]
    else if code = 0x82 then [0, 0] ++ toBytes 2 0 ++ toBytes 2 0xFFFF
    else if code = 0x83 then [0, 0] ++ freeBytes 32 s.free
    else if code = 0xE0 then [1, 255] ++ freeBytes 32 s.free ++ [0]
    else if code = 0xE4 then [0, 0] ++ toBytes 2 l ++ [0, 0] ++ freeBytes 96 s.free
    else [0, 0] ++ freeBytes 32 s.free
  ((s.drawn.modLink l fun x => { x with asking := code }).spdmTo l ([if code = 0x84 then 0x10 else 0x13, BitVec.ofNat 8 code] ++ body))

end Sys2Proof.Machine
end

