-- ==== Sys2Proof/Machine/Links.lean ====
section
/-! DEFINITION. Keliskok links (R448 to R452): flits as they arrive (R449, R450), reservations and landings at the destination (R340 to R342), tears and lost
peers (R306, R344), authentication (R452), SUSPECT and PEER_ABORT notices (R425, R427). -/

namespace Sys2Proof.Machine

/-! ## Credits (R449, R451) -/

/-- One more flit of a kind to be credited to the partner. -/
def State.credit (s : State) (l kind : Nat) : State := s.modLink l fun x => { x with credits := nmod 0 x.credits (vcOf kind) (· + 1) }

/-- The next flit that waits goes out as soon as the replay buffer has room. -/
def pumpFlits (l : Nat) : Nat → State → State
  | 0, s => s
  | n + 1, s =>
    let x := s.link l
    match x.queue with
    | [] => s
    | (kind, p) :: t => if x.full then s else pumpFlits l n ((s.modLink l fun x => { x with queue := t }).transmit l kind p)

/-- The credits owed to a partner that no flit has carried go out with flits of kind IDLE (R449, R450). -/
def State.sendCredits (s : State) (l : Nat) : State := ((s.link l).credits.filter fun c => decide (c.2 ≠ 0)).foldl (fun s _ => s.transmit l 0 (List.replicate 228 0)) s

/-- Link entries whose tiles have been acknowledged; one whose last tile is retires OK (R289). Motes that were are accepted (R62). -/
def Engines.acked (e : Engines) (l : Nat) (qs : List Nat) : Engines :=
  let hit (x : QEntry) : Bool := decide (x.kind = 5 ∧ x.state = 1 ∧ x.link = l)
  (e.queue 1 ++ e.queue 2).foldl (fun e x =>
    if hit x then
      let left := x.pages.filter fun p => !qs.contains p.1
      let e := e.modEntry x.tl x.opnum fun y => { y with pages := left }
      if left = [] ∧ x.issued = ldTiles x.desc then e.finish x.tl x.opnum 0 else e
    else e) { e with away := e.away.filter fun a => !(decide (a.1 = l) && qs.contains a.2.1) }

/-- The partner credits flits of a virtual channel (R449): as many of its oldest leave the replay buffer, with the flits of kind IDLE, which are not credited, before
them; what waited for room goes out (R451). -/
def State.ack (s : State) (l credit : Nat) : State :=
  let r := (s.link l).replay
  let qs := ((r.filter fun f => decide (f.kind ≠ 0 ∧ vcOf f.kind = credit / 4096)).take (credit % 4096)).map (·.seq)
  if qs = [] then s
  else
    let top := qs.foldl max 0
    let s := s.modLink l fun x => { x with replay := r.filter (fun f => !qs.contains f.seq && decide (f.kind ≠ 0 ∨ top < f.seq)), nakFails := x.nakFails.filter fun f => !qs.contains f.1 }
    let s := s.mapEngines fun _ e => e.acked l qs
    pumpFlits l (s.link l).queue.length s

/-! ## Link state (R344, R448, R451, R452) -/

/-- The streams of a started link entry over a link are torn: it retires TORN, and its unacknowledged and unused slots are the reservation's again (R306,
R344). -/
def Engines.tearLink (e : Engines) (l : Nat) : Engines :=
  (e.queue 1 ++ e.queue 2).foldl (fun e x =>
    if x.kind = 5 ∧ x.state = 1 ∧ x.link = l then
      { e.finish x.tl x.opnum 4 with resv := e.resv.map fun r => if r.isOf x.desc then { r with slots := r.slots ++ x.pages.map (·.2) ++ x.tiles.map (·.2) ++ x.notices } else r }
    else e) e

/-- The (glade, zone, key) of the reservations of a package on the zones of units here. -/
def State.keysFrom (s : State) (pkg : Nat) : List (Nat × Nat × SlotKey) :=
  (((s.glades.map (·.1)) ++ s.dies.flatMap fun d => d.2.saved.flatMap fun v => v.2.map (·.glade)).eraseDups.flatMap fun g =>
    (s.homes g).flatMap fun e => (e.2.zoneKeys.filter fun k => decide (k.2.pkg = pkg)).map fun k => (g, k.1, k.2)).eraseDups

/-- Whether a stream of a key was carried by a link that has gone down, among the link's streams `on` (R344). The destination sees it of a stream whose bytes have arrived there; where such a
stream has RESERVED slots only, a free value says whether it was still under way (DESIGN CHOICE, log entry 58). -/
def State.wasCarried (s : State) (on : List (Nat × Nat × SlotKey)) (y : Nat × Nat × SlotKey) : State × Bool :=
  let zs := (s.homes y.1).filterMap fun e => nfind e.2.zones y.2.1
  let has (st : SlotState) : Bool := zs.any fun z => z.slot.any fun x => decide (x.2.key = y.2.2 ∧ x.2.st = st)
  if y ∉ on then (s, false) else if has .filling then (s, true) else if has .reserved then (s.drawn, s.freeWord.getLsbD 0) else (s, false)

/-- The streams of some keys that a link carried are torn (R344). -/
def tearCarried (on : List (Nat × Nat × SlotKey)) : List (Nat × Nat × SlotKey) → State → State
  | [], s => s
  | y :: t, s =>
    let r := s.wasCarried on y
    tearCarried on t (if r.2 then r.1.mapEngines fun g e => if g = y.1 then e.tearZone y.2.1 y.2.2 else e else r.1)

/-- A drain of a tile set ends as a torn stream does: its steer entry and the operations that filled the set last retire TORN (DESIGN CHOICE, log entry 100). -/
def Engines.tearSet (e : Engines) (t : Nat) : Engines :=
  let y := e.stand.set t
  match y.drain with
  | none => e
  | some d => (d.steer :: y.owners).foldl (fun e n => e.finish 0 n 4)
      { e with stand := { e.stand.modSet t (fun _ => {}) with ops := e.stand.ops.filter fun o => !y.owners.contains o.2.opnum } }

/-- Motes on their way over a link that goes down are dropped (R451): the run or the drain that sent them ends TORN (DESIGN CHOICE, log entry 100). -/
def Bough.dropAway (b : Bough) (l : Nat) : Bough :=
  let gone := b.eng.away.filter fun a => decide (a.1 = l)
  let b := if gone.any fun a => decide (a.2.2 < 48) then b.stopRun 4 else b
  let b := (List.range 2).foldl (fun b t => if gone.any fun a => decide (a.2.2 = 48 + t) then { b with eng := b.eng.tearSet t } else b) b
  { b with eng := { b.eng with away := b.eng.away.filter fun a => decide (a.1 ≠ l) } }

/-- A link leaves the up state or fails to reach it (R451, R452): LINK_DOWN for PF0 with the partner and above it the reason (DESIGN CHOICE, log entry 102), unacknowledged flits dropped,
streams torn, and the partner lost where no other link reaches it (DEDUCED, log entry 33). -/
def State.dropLink (s : State) (l reason : Nat) : State :=
  let x := s.link l
  let up := decide (x.st = .up)
  let s := s.modLink l fun y =>
    { st := .down, width := y.width, failed := y.failed, peer := y.peer, peerSerial := y.peerSerial, reason := reason, rejected := y.rejected, dropped := y.dropped, calls := y.calls
      reports := y.reports, lostAt := y.lostAt }
  let s := s.modSpdm (64 + l) fun _ => {}
  let s := if up then (tearCarried x.streams (s.keysFrom x.peer) (s.mapBoughs fun _ b => Bough.dropAway { b with eng := b.eng.tearLink l } l)).settleTears else s
  let s := if up ∧ (s.linkTo x.peer).isNone then s.modLink l fun y => { y with lostAt := some s.wall } else s
  s.noGlade 0x184 0 0 l (x.peer + 256 * reason)

/-- LINK_DOWN (R451). -/
def execLinkDown (l : Nat) (s : State) : Outcome := if (s.link l).st = .up then .next (s.dropLink l 0) else .next s

/-- A link retrains at the next lower width, which it tells the partner; one that would reach 0 goes down (R448, R450 kind 7 op 5) (DESIGN CHOICE, log entry 102). -/
def State.retrain (s : State) (l : Nat) : State :=
  let w := (s.link l).width / 2
  if w = 0 then (s.dropLink l 6).modLink l fun x => { x with width := 0 }
  else (s.modLink l fun x => { x with width := w, nakFails := [], tagFails := [] }).sendFlit l 7 ([5, BitVec.ofNat 8 w] ++ List.replicate 226 0)

/-- LANE_FAILURE: a lane in use fails while the link is up (R448); it counts as a lane error (R407) (DEDUCED, log entry 34). -/
def execLaneFailure (l lane : Nat) (s : State) : Outcome :=
  let x := s.link l
  let s := (s.life 5 (8 * l + lane) 1).modLink l fun y => if lane ∈ y.failed then y else { y with failed := y.failed ++ [lane] }
  .next (if x.st = .up ∧ lane < x.width then s.retrain l else s)

/-! ## Landings (R340, R423, R450, R469) -/

/-- The glade whose zone holds slots for the key of a DATA flit (DESIGN CHOICE, log entry 13), among those with units here or saved from here. -/
def State.zoneGlade (s : State) (zone : Nat) (k : SlotKey) : Option Nat :=
  ((s.glades.map (·.1)) ++ s.dies.flatMap fun d => d.2.saved.flatMap fun v => v.2.map (·.glade)).find? fun g => (s.homes g).any fun e => e.2.holdsKey zone k

/-- The key of a DATA flit from a partner. -/
def dataKey (peer : Nat) (p : List Byte) : SlotKey := ⟨peer, leAt p 0 2, leAt p 2 1⟩

/-- The bytes of a DATA flit land in a resident glade (R340); slot 0xFF marks a mote of a ZONE delivery (R469) (DESIGN CHOICE, log entry 31). -/
def State.landData (s : State) (g peer : Nat) (p : List Byte) : State :=
  let k := dataKey peer p
  let zone := leAt p 3 1
  let bs := (p.drop 28).take (leAt p 6 2)
  let s := match s.place g with
    | some q => s.modJob q.ctx fun j => let c := (peer, clearingOf k.glade); if c ∈ j.received then j else { j with received := j.received ++ [c] }
    | none => s
  if leAt p 4 1 = 0xFF then s.landMote g zone k (moteOf k.rill (leAt p 8 4) (BitVec.ofNat 64 (leAt bs 0 8))) []
  else s.landBytes g zone (leAt p 4 1) k (leAt p 8 4) bs (decide (leAt p 5 1 = 1)) []

/-- A stream is carried by the link on which its bytes arrive, and by no other (R306). -/
def State.carries (s : State) (l : Nat) (y : Nat × Nat × SlotKey) : State :=
  { s with links := s.links.map fun x => (x.1, { x.2 with streams := x.2.streams.filter (· ≠ y) ++ if x.1 = l then [y] else [] }) }

/-- A DATA payload that has arrived: it lands, waits for its unit to be resident or for what it needs to land, or is discarded where no reservation has its key (R319, R340, R423, R469). -/
def State.arrive (s : State) (l : Nat) (p : List Byte) : State :=
  let k := dataKey (s.link l).peer p
  let zone := leAt p 3 1
  match s.zoneGlade zone k with
  | none => s.credit l 1
  | some g =>
    let s := s.carries l (g, zone, k)
    if s.runs g ∧ (s.eng g).holdsKey zone k ∧ s.canLand g zone (leAt p 4 1) k then (s.landData g (s.link l).peer p).credit l 1
    else s.modLink l fun x => { x with waiting := x.waiting ++ [p] }

/-- The bytes of a landing tile (R450 kind 1). Behind a payload that waits for the same unit they wait too. -/
def State.takeData (s : State) (l : Nat) (p : List Byte) : State :=
  if (s.link l).waiting.any fun q => decide (dataKey 0 q = dataKey 0 p ∧ leAt q 3 1 = leAt p 3 1) then s.modLink l fun x => { x with waiting := x.waiting ++ [p] } else s.arrive l p

/-- The payloads that wait at a link and can land in a glade now do so, those of one key in order (R319, R423, R469); one whose key no reservation has any more is discarded. -/
def landWaiting (l g : Nat) : List (List Byte) → State → State
  | [], s => s
  | p :: t, s =>
    let k := dataKey (s.link l).peer p
    let zone := leAt p 3 1
    if (s.zoneGlade zone k).isNone then landWaiting l g t (s.credit l 1)
    else if (s.eng g).holdsKey zone k ∧ s.canLand g zone (leAt p 4 1) k
        ∧ ((s.link l).waiting.any fun q => decide (dataKey 0 q = dataKey 0 p ∧ leAt q 3 1 = zone)) = false then
      landWaiting l g t ((s.landData g (s.link l).peer p).credit l 1)
    else landWaiting l g t (s.modLink l fun x => { x with waiting := x.waiting ++ [p] })

/-- LANDING_ARRIVAL: what waited at the link endpoints for a glade lands once its unit is resident again (R423). -/
def execLandingArrival (g : Nat) (s : State) : Outcome :=
  if s.runs g = false then .next s
  else .next (s.links.foldl (fun s l =>
    if l.2.waiting = [] then s else landWaiting l.1 g l.2.waiting (s.modLink l.1 fun x => { x with waiting := [] })) s)

/-- The notices of a NOTICE flit (R450 kind 2): the first always, the others unless zero (DEDUCED, log entry 32). -/
def noticesOf (p : List Byte) : List (List Byte) :=
  let l := (List.range 28).map fun i => sliceB p (8 * i) 8
  l.take 1 ++ (l.drop 1).filter fun x => x.any (· ≠ 0)

/-- Freed-slot notices for streams of this package (R76, R340, R450 kind 2). -/
def State.takeNotices (s : State) (l : Nat) (p : List Byte) : State :=
  let pkg := (s.link l).peer
  ((noticesOf p).foldl (fun s p => s.modHome (leAt p 0 2) (Engines.sourceOf pkg (leAt p 3 1) (leAt p 2 1)) fun e =>
    e.zoneSlot pkg (leAt p 3 1) (leAt p 2 1) (leAt p 4 1)) s).credit l 2

/-! ## Reservations across packages (R341, R342, R344) -/

/-- The fields of a SLOTCTL payload (R450 kind 3). -/
def ctlDest (p : List Byte) : Nat := leAt p 1 2
def ctlZone (p : List Byte) : Nat := leAt p 3 1
def ctlSrc (p : List Byte) : Nat := leAt p 4 2
def ctlRill (p : List Byte) : Nat := leAt p 6 1

/-- The key a SLOTCTL request names: its sender's package, glade and rill. -/
def ctlKey (peer : Nat) (p : List Byte) : SlotKey := ⟨peer, ctlSrc p, ctlRill p⟩

/-- The RESERVED slots of a key in a zone of a glade. -/
def State.keySlots (s : State) (g zone : Nat) (k : SlotKey) : List Nat :=
  (s.homes g).flatMap fun e => match nfind e.2.zones zone with
    | some z => (z.slot.filter fun x => decide (x.2.key = k ∧ x.2.st = .reserved)).map (·.1)
    | none => []

/-- A partner asks for slots and is answered, and what it is granted is named in NOTICE flits (R341, R450 kind 3 op 1) (DESIGN CHOICE, log entry 103). -/
def State.takeRes (s : State) (l : Nat) (p : List Byte) : State :=
  let k := ctlKey (s.link l).peer p
  let g := ctlDest p
  let z := ctlZone p
  match s.reserveHome g z k (leAt p 7 1) with
  | (t, st, c, low) =>
    let t := t.sendFlit l 3 (slotCtl 2 g z k.glade k.rill c st low)
    let ns := if st = 0 then ((t.keySlots g z k).filter fun i => !(s.keySlots g z k).contains i).map fun i => noticeBytes i z k else []
    let t := (List.range 3).foldl (fun t i =>
      let part := (ns.drop (28 * i)).take 28
      if part = [] then t else t.sendFlit l 2 (part.flatten ++ List.replicate (228 - 8 * part.length) 0)) t
    t.credit l 3

/-- The instruction of a glade's block that waits for an answer about a zone and rill (R341, R342). -/
def State.asker (s : State) (g op : Nat) (z : ZoneRef) : Option Nat :=
  match s.block g with
  | none => none
  | some b => (b.asked.map (·.1)).find? fun i =>
      decide (wordOpcode (b.word i) = op ∧ slotRef (nget 0 b.opL i).toNat = z ∧ i ∉ b.done) && (nfind b.answers i).isNone

/-- The answer to a request reaches the instruction that asked; a grant that nothing waits for is released, and a hold ended (R341, R342, R450 kind 3 ops 2 and 4). -/
def State.takeAnswer (s : State) (l : Nat) (p : List Byte) : State :=
  let z : ZoneRef := ⟨(s.link l).peer, ctlDest p, ctlZone p, ctlRill p⟩
  let g := ctlSrc p
  let res := decide (leAt p 0 1 = 2)
  let st := leAt p 8 1
  let v : Word := BitVec.ofNat 64 (if res then slotValue st (leAt p 7 1) (leAt p 9 1) else st)
  (match s.asker g (if res then 0x109 else 0x10A) z with
  | some i => s.modBlock g fun b => { b with answers := nset b.answers i v }
  | none => if res ∧ st = 0 then s.releaseKey g z else if st = 0 ∨ (res ∧ (st = 1 ∨ st = 2)) then s.unhold g z else s).credit l 3

/-- Count 1 asks for a key's state and holds it, count 0 releases it, count 2 ends a hold (R342, R450 kind 3 op 3) (DESIGN CHOICE, log entry 13). -/
def State.takeRelease (s : State) (l : Nat) (p : List Byte) : State :=
  let k := ctlKey (s.link l).peer p
  let g := ctlDest p
  let zone := ctlZone p
  let op := leAt p 7 1
  let held := (s.homes g).any fun e => e.2.holdsKey zone k
  (if op = 1 then
    let s := s.holdKey g zone k
    s.sendFlit l 3 (slotCtl 4 g zone k.glade k.rill 0 (if held then 0 else 3) 0)
  else if op = 2 then s.modHome g (Engines.nameHeld zone k) (Engines.unhold zone k)
  else (s.modHome g (Engines.holdsKey zone k) fun e => e.endKey zone k).settleTears).credit l 3

/-- A partner reclaims its reservation, or reports that one of this package's has ended (R45, R344, R450 kind 3 ops 5 and 6). -/
def State.takeReclaim (s : State) (l : Nat) (p : List Byte) : State :=
  let peer := (s.link l).peer
  (if leAt p 0 1 = 5 then (s.modHome (ctlDest p) (Engines.holdsKey (ctlZone p) (ctlKey peer p)) fun e => e.endKey (ctlZone p) (ctlKey peer p)).settleTears
  else s.modHome (ctlSrc p) (Engines.sourceOf peer (ctlZone p) (ctlRill p)) fun e =>
    { e with resv := e.resv.filter fun r => ¬(r.pkg = peer ∧ r.glade = ctlDest p ∧ r.zone = ctlZone p ∧ r.rill = ctlRill p) }).credit l 3

/-! ## Calls and SPDM (R314, R431, R450, R452) -/

/-- A partner's tagged message enters the link's arrival queue, which its credit has kept room in (R48, R314, R450 kind 4). -/
def State.enqueueCall (s : State) (l : Nat) (p : List Byte) : State := s.modLink l fun x => { x with calls := x.calls ++ [p] }

/-- The front end takes the oldest call of a link's arrival queue, and its credit goes back (R314). -/
def State.takeCall (s : State) (l : Nat) : State :=
  match (s.link l).calls with
  | [] => s
  | p :: t => ((s.modLink l fun x => { x with calls := t }).credit l 4).message (.link l (leAt p 64 8) (leAt p 0 4)) (sliceB p 0 64)

/-- The state after an SPDM message of a link is complete: a request goes to the link's responder, the answer that the requester waits for lets the next request go out, and any other ends the
exchange (R431, R452). -/
def State.spdmMessage (s : State) (l : Nat) (m : List Byte) : State :=
  let code := leAt m 1 1
  if 0x80 ≤ code then nextOr s (s.spdmRequest l m)
  else if code + 0x80 = (s.link l).asking then
    let n := nextRequest (code + 0x80)
    if n = 0 then s.modLink l fun x => { x with asking := 0 } else s.askSpdm l n
  else s.dropLink l 2

/-- A fragment of an SPDM message; the last one completes it (R431, R450 kind 6). -/
def State.takeSpdm (s : State) (l : Nat) (p : List Byte) : State :=
  let m := (s.link l).spdmRx ++ (p.drop 4).take (leAt p 0 2)
  let s := s.credit l 6
  if leAt p 2 1 = 1 then (s.modLink l fun x => { x with spdmRx := [] }).spdmMessage l m else s.modLink l fun x => { x with spdmRx := m }

/-- This device's VERSION notice (R450 kind 7 op 1, R452): it supports version 0x01 only; byte 3 is its package number (DESIGN CHOICE, log entry 102). -/
def State.sendVersion (s : State) (l : Nat) : State := s.sendFlit l 7 ([1, 1, 1, BitVec.ofNat 8 s.self] ++ List.replicate 224 0)

/-- A partner's VERSION (R450 kind 7 op 1, R452): without 0x01 in common the link stays down; the side of the lower number then runs SPDM as requester. -/
def State.takeVersion (s : State) (l : Nat) (p : List Byte) : State :=
  let s := s.credit l 7
  let st := (s.link l).st
  if st = .up ∨ st = .auth then s
  else if leAt p 1 1 ≤ 1 ∧ 1 ≤ leAt p 2 1 then
    let low := decide (s.self < leAt p 3 1)
    let s := (if st = .down then s.sendVersion l else s).modLink l fun x => { x with st := .auth, lower := low }
    if low then s.askSpdm l 0x84 else s
  else s.dropLink l 1

/-- A NAK (R450 kind 7 op 2, R451): the flit is sent again as it was, with its number; the eighth failure of one number retrains the link. -/
def State.takeNak (s : State) (l : Nat) (p : List Byte) : State :=
  let q := leAt p 8 8
  let s := s.credit l 7
  match (s.link l).replay.find? fun f => decide (f.seq = q) with
  | none => s
  | some f =>
    let s := s.modLink l fun x => { x with nakFails := nmod 0 x.nakFails q (· + 1) }
    let s := if 8 ≤ nget 0 (s.link l).nakFails q then s.retrain l else s
    if (s.link l).st = .down then s else s.putFlit l f

/-- The partner has retrained at a lower width (R448, R450 kind 7 op 5). -/
def State.takeWidth (s : State) (l : Nat) (p : List Byte) : State :=
  let w := leAt p 1 1
  (s.modLink l fun x => if 0 < w ∧ w < x.width then { x with width := w } else x).credit l 7

/-! ## Notices of other packages (R425, R427) -/

/-- A vendor message for a party (R437). -/
def suspectMessage (x : Suspect) : List Byte := x.serial ++ toBytes 2 x.clearing ++ toBytes 8 x.start ++ toBytes 8 x.stop

/-- The open secured session of a party (R437). -/
def State.liveSession (s : State) (p : Party) : Option Nat := p.spdm.filter fun n => (nfind (s.responder relay).sessions n).any (·.secured)

/-- SUSPECT for a job (R427, R437): its usage counter and intervals, its parties, its VF. -/
def State.suspect (s : State) (ctx : Nat) (x : Suspect) : State :=
  let j := s.job ctx
  let s' := (s.usage ctx 15 1).modJob ctx fun j => { j with
    suspects := (j.suspects ++ [x]).drop (j.suspects.length + 1 - 8)
    pendingSuspect := j.pendingSuspect ++ (((j.joins.filter fun p => (s.liveSession p.2).isNone).map fun p => (p.1, x)).take (8 - j.pendingSuspect.length)) }
  ((j.joins.filterMap fun p => s.liveSession p.2).foldl (fun s n => s.emit (.vendor n 437 (suspectMessage x))) s').noGlade 0x1C1 j.vf ctx x.start x.stop

/-- A partner's clearing failed its test; the jobs that received from its glades are SUSPECT (R427, R450 kind 7 op 3). The clearing is at payload
bytes 2 and 3, start and end at 8 and 16 (DESIGN CHOICE, log entry 11). -/
def State.takeSuspect (s : State) (l : Nat) (p : List Byte) : State :=
  let peer := (s.link l).peer
  let x : Suspect := ⟨toBytes 16 (s.link l).peerSerial, leAt p 2 2, leAt p 8 8, leAt p 16 8⟩
  let js := nkeys s.jobs fun _ j => j.received.contains (peer, x.clearing)
  (js.foldl (fun s c => s.suspect c x) (s.noGlade 0x1C1 0 0 x.start x.stop)).credit l 7

/-- A member job of a collective has ended on the partner (R425, R450 kind 7 op 4). -/
def State.takeAbort (s : State) (l : Nat) (p : List Byte) : State :=
  let peer := (s.link l).peer
  let ks : List DeadStream := (List.range (min (leAt p 2 2) 33)).map fun i => ⟨leAt p (24 + 6 * i) 2, leAt p (26 + 6 * i) 1, leAt p (28 + 6 * i) 2, leAt p (27 + 6 * i) 1⟩
  (if leAt p 1 1 = 1 then s.tearDead (leAt p 8 8) peer (leAt p 16 2) ks else s.peerAbort (leAt p 8 8) peer (leAt p 16 2) ks).credit l 7

/-! ## Flits as they arrive (R449 to R451) -/

/-- A flit is delivered (R450): other kinds and operations are discarded and counted as lane errors of the link's first lane (R407, R450). -/
def State.deliver (s : State) (l kind : Nat) (p : List Byte) : State :=
  let op := leAt p 0 1
  let other : State := (s.life 5 (8 * l) 1).credit l kind
  if kind = 0 then s
  else if kind = 1 then s.takeData l p
  else if kind = 2 then s.takeNotices l p
  else if kind = 3 then
    if op = 1 then s.takeRes l p else if op = 2 ∨ op = 4 then s.takeAnswer l p else if op = 3 then s.takeRelease l p else if op = 5 ∨ op = 6 then s.takeReclaim l p else other
  else if kind = 4 then s.enqueueCall l p
  else if kind = 5 then s.credit l 5
  else if kind = 6 then s.takeSpdm l p
  else if kind = 7 then
    if op = 1 then s.takeVersion l p else if op = 2 then s.takeNak l p else if op = 3 then s.takeSuspect l p else if op = 4 then s.takeAbort l p
    else if op = 5 then s.takeWidth l p else other
  else other

/-- The flits that came ahead of their sequence are delivered once it is their turn (R451). -/
def drainAhead (l : Nat) : Nat → State → State
  | 0, s => s
  | n + 1, s =>
    let x := s.link l
    match x.ahead.find? fun f => decide (f.1 = x.rxSeq) with
    | none => s
    | some f => drainAhead l n (((s.modLink l fun x => { x with rxSeq := x.rxSeq + 1, ahead := x.ahead.filter fun y => decide (y.1 ≠ f.1) }).ack l f.2.2.1).deliver l f.2.1 f.2.2.2)

/-- A flit arrives: one whose tag fails is answered by a NAK, and the eighth failure of a number retrains the link; one already delivered is dropped; one ahead of its sequence waits; the next
is delivered, with the flits it credits, and those that waited for it (R449, R451). Kinds CTRL and SPDM come also before the session exists (DEDUCED, log entry 24). -/
def State.receive (s : State) (l seq : Nat) (ok : Bool) (credit kind : Nat) (p : List Byte) : Outcome :=
  let x := s.link l
  if ¬(x.st = .up ∨ ((kind = 6 ∨ kind = 7) ∧ x.st ≠ .absent)) then .next s
  else if ok = false then
    let s := (s.modLink l fun x => { x with tagFails := nmod 0 x.tagFails seq (· + 1) }).sendFlit l 7 (toBytes 8 2 ++ toBytes 8 seq ++ List.replicate 212 0)
    .next (if 8 ≤ nget 0 (s.link l).tagFails seq then s.retrain l else s)
  else if seq < x.rxSeq then .next s
  else if x.rxSeq < seq then .next (if x.ahead.any fun f => decide (f.1 = seq) then s else s.modLink l fun x => { x with ahead := x.ahead ++ [(seq, kind, credit, p)] })
  else
    let s := (s.modLink l fun x => { x with rxSeq := x.rxSeq + 1, tagFails := x.tagFails.filter fun f => decide (f.1 ≠ seq) }).ack l credit
    .next (drainAhead l x.ahead.length (s.deliver l kind p))

/-- The 256 bytes of a flit arrive on a link (R449): the tag is checked with the session's key and the partner's direction, or while there is none the flit is in clear with a zero tag. -/
def State.rawFlit (s : State) (l : Nat) (b : List Byte) : Outcome :=
  let x := s.link l
  let body := sliceB b 12 228
  let tag := sliceB b 240 16
  let seq := leAt b 4 8
  let pt : Option (List Byte) :=
    if x.key = [] then (if tag = List.replicate 16 0 ∧ (leAt b 0 1 = 6 ∨ leAt b 0 1 = 7) then some body else none)
    else gcmOpen x.key (flitIv (!x.lower) seq) (sliceB b 0 12) body tag
  s.receive l seq pt.isSome (leAt b 2 2) (leAt b 0 1) (pt.getD [])

/-- FLIT_IDLE: it only credits (R449, R450). -/
def execFlitIdle (l seq : Nat) (ok : Bool) (n : Nat) (s : State) : Outcome := s.receive l seq ok n 0 (List.replicate 228 0)

/-- FLIT_DATA (R450 kind 1): bytes of a landing tile. -/
def execFlitData (l seq : Nat) (ok : Bool) (n : Nat) (payload : List Byte) (s : State) : Outcome := s.receive l seq ok n 1 payload

/-- FLIT_NOTICE (R450 kind 2): freed-slot notices. -/
def execFlitNotice (l seq : Nat) (ok : Bool) (n : Nat) (payload : List Byte) (s : State) : Outcome := s.receive l seq ok n 2 payload

/-- A flit of kind 3 or 7 is one of the operations that an event names; any other is no such event. -/
def State.receiveOp (s : State) (l seq : Nat) (ok : Bool) (n kind : Nat) (ops : List Nat) (p : List Byte) : Outcome :=
  if leAt p 0 1 ∈ ops then s.receive l seq ok n kind p else .next s

/-- FLIT_SLOT_RES (R341, R450 kind 3 op 1). -/
def execFlitSlotRes (l seq : Nat) (ok : Bool) (n : Nat) (payload : List Byte) (s : State) : Outcome := s.receiveOp l seq ok n 3 [1] payload

/-- FLIT_SLOT_ANSWER (R341, R342, R450 kind 3 ops 2 and 4). -/
def execFlitSlotAnswer (l seq : Nat) (ok : Bool) (n : Nat) (payload : List Byte) (s : State) : Outcome := s.receiveOp l seq ok n 3 [2, 4] payload

/-- FLIT_SLOT_RELEASE (R342, R450 kind 3 op 3). -/
def execFlitSlotRelease (l seq : Nat) (ok : Bool) (n : Nat) (payload : List Byte) (s : State) : Outcome := s.receiveOp l seq ok n 3 [3] payload

/-- FLIT_SLOT_RECLAIM (R45, R344, R450 kind 3 ops 5 and 6). -/
def execFlitSlotReclaim (l seq : Nat) (ok : Bool) (n : Nat) (payload : List Byte) (s : State) : Outcome := s.receiveOp l seq ok n 3 [5, 6] payload

/-- FLIT_CALL (R48, R314, R450 kind 4). -/
def execFlitCall (l seq : Nat) (ok : Bool) (n : Nat) (payload : List Byte) (s : State) : Outcome := s.receive l seq ok n 4 payload

/-- FLIT_CALL_DONE (R314, R450 kind 5): the record of a call. No agent of this package sends calls, so nothing waits for it. -/
def execFlitCallDone (l seq : Nat) (ok : Bool) (n : Nat) (payload : List Byte) (s : State) : Outcome := s.receive l seq ok n 5 payload

/-- FLIT_SPDM (R431, R450 kind 6): a fragment of an SPDM message. -/
def execFlitSpdm (l seq : Nat) (ok : Bool) (n : Nat) (payload : List Byte) (s : State) : Outcome := s.receive l seq ok n 6 payload

/-- FLIT_VERSION (R450 kind 7 op 1, R452). -/
def execFlitVersion (l seq : Nat) (ok : Bool) (n : Nat) (payload : List Byte) (s : State) : Outcome := s.receiveOp l seq ok n 7 [1] payload

/-- FLIT_NAK (R450 kind 7 op 2, R451). -/
def execFlitNak (l seq : Nat) (ok : Bool) (n : Nat) (payload : List Byte) (s : State) : Outcome := s.receiveOp l seq ok n 7 [2] payload

/-- FLIT_SUSPECT (R427, R450 kind 7 op 3). -/
def execFlitSuspect (l seq : Nat) (ok : Bool) (n : Nat) (payload : List Byte) (s : State) : Outcome := s.receiveOp l seq ok n 7 [3] payload

/-- FLIT_PEER_ABORT (R425, R450 kind 7 op 4). -/
def execFlitPeerAbort (l seq : Nat) (ok : Bool) (n : Nat) (payload : List Byte) (s : State) : Outcome := s.receiveOp l seq ok n 7 [4] payload

/-! ## Link-up and lost peers (R344, R452) -/

/-- The authentication of a link's partners has come to its end: as requester the device has every answer, as responder a secured session (R452). -/
def State.authDone (s : State) (l : Nat) : Bool :=
  let x := s.link l
  decide (x.st = .auth) && (if x.lower then decide (x.asking = 0) else (s.responder (64 + l)).sessions.any fun y => y.2.secured)

/-- LINK_UP: what the mutual authentication of a link's partners has brought (R452): the partner's package number and canopy, its certificates from root to device, its alias certificate, and the session key. The link joins the
canopy where the chain ends at the Weadric root, the partner's M0, M1 and M2 are this package's, its canopy is, and its number is no other package's; reports that waited go out (R344). -/
def execLinkUp (l number canopy : Nat) (chain aliasCert key : List Byte) (s : State) : Outcome :=
  let chain := chain ++ aliasCert
  let serial := partnerSerial chain
  if s.authDone l = false then .next s
  else
    let clash := decide (number = s.self) || s.links.any fun y => decide (y.2.st = .up ∧ y.2.peer = number ∧ y.2.peerSerial ≠ serial)
    let bad := if partnerOk s.pk.rom chain = false then 2
      else if partnerFirmware chain ≠ sliceB s.pk.m0 0 32 ++ sliceB s.pk.m1 0 32 ++ sliceB s.pk.m2 0 32 then 3
      else if s.pk.number.map (·.2) ≠ some canopy then 4 else if clash then 5 else 0
    let s := s.modLink l fun y => { y with peer := number, peerSerial := serial }
    if bad ≠ 0 then .next (s.dropLink l bad)
    else
      let ms := (s.links.filter fun y => decide (y.2.peer = number)).flatMap fun y => y.2.reports
      let s : State := { s with links := s.links.map fun y => if y.2.peer = number then (y.1, { y.2 with reports := [], lostAt := none }) else y }
      let s := s.modLink l fun y => { y with st := .up, reason := 0, streams := [], waiting := [], key := sliceB key 0 32 }
      .next (ms.foldl (fun s m => s.sendFlit l m.1 m.2) s)

/-- The keys of a package on the zones of some engines. -/
def Engines.keysOf (e : Engines) (pkg : Nat) : List (Nat × SlotKey) := e.zoneKeys.filter fun k => decide (k.2.pkg = pkg)

/-- PEER_RECLAIM_TIMEOUT: a peer has been lost for 100 µs (R344): its reservations end, its own holdings are known to have ended, PEER_LOST goes to PF0 and to
each VF concerned (R409). -/
def execPeerReclaimTimeout (peer : Nat) (s : State) : Outcome :=
  let due := s.links.any fun l => decide (l.2.peer = peer) && match l.2.lostAt with
    | some w => decide (w + 100 * usWall ≤ s.wall)
    | none => false
  if due = false ∨ (s.linkTo peer).isSome then .next s
  else
    let gs := ((s.glades.map (·.1)) ++ s.dies.flatMap fun d => d.2.saved.flatMap fun v => v.2.map (·.glade)).eraseDups
    let lost := gs.flatMap fun g => (s.homes g).flatMap fun e => ((e.2.keysOf peer).map fun k => (g, (e.1.map (·.vf)).getD 0, k))
    let s := (s.mapEngines fun _ e =>
      let e := (e.keysOf peer).foldl (fun e k => e.endKey k.1 k.2) e
      { e with resv := e.resv.filter (fun r => decide (r.pkg ≠ peer)), spare := e.spare.filter fun n => decide (n.1 ≠ peer) }).settleTears
    let s : State := { s with links := s.links.map fun l => if l.2.peer = peer then (l.1, { l.2 with lostAt := none }) else l }
    let s := lost.foldl (fun s x => s.report peer (slotCtl 6 x.1 x.2.2.1 x.2.2.2.glade x.2.2.2.rill 0 0 0)) s
    let vfs := (lost.map fun x => x.2.1).eraseDups
    let s := s.noGlade 0x186 0 0 peer lost.length
    .next (vfs.foldl (fun s v => s.noGlade 0x186 v 0 peer (lost.filter fun x => decide (x.2.1 = v)).length) s)

end Sys2Proof.Machine
end

