-- ==== Sys2Proof/Machine/Jobs.lean ====
section
/-! DEFINITION. Jobs (R433, R434, R437), parties and quotes (R432, R436), sessions (R438), weight install (R442), image keys (R443), usage records for the
operator (R404, R455). -/

namespace Sys2Proof.Machine

/-! ## Job open (R22, R241, R433, R434) -/

/-- A partition byte that stays on its die (R433). -/
def partOk (p : Nat) : Bool := p = 0xFF || (decide (p % 4 + bits p 5 4 < 4) && decide (bits p 3 2 + bits p 7 6 < 4))

/-- Two partition bytes share a clearing. -/
def partsMeet (p q : Nat) : Bool :=
  decide (p ≠ 0xFF ∧ q ≠ 0xFF ∧ p % 4 ≤ q % 4 + bits q 5 4 ∧ q % 4 ≤ p % 4 + bits p 5 4 ∧ bits p 3 2 ≤ bits q 3 2 + bits q 7 6 ∧ bits q 3 2 ≤ bits p 3 2 + bits p 7 6)

/-- The open jobs that hold a partition of a die equal to a byte. -/
def State.holders (s : State) (d p : Nat) : List Job := (s.jobs.map (·.2)).filter fun j => decide (j.partitions[d]? = some p)

/-- A partition of the request refused: it leaves its die, meets another job's without being equal to it, or two jobs hold it already (R433). -/
def State.partBad (s : State) (d p : Nat) : Bool :=
  if p = 0xFF then false
  else !partOk p || (s.jobs.any fun j => let q := (j.2.partitions[d]?).getD 0xFF; decide (q ≠ p) && partsMeet p q) || decide (2 ≤ (s.holders d p).length)

/-- The usable HBM in bytes (R28, R239). -/
def State.hbmSize (s : State) : Nat := 805306368 * (popcount 512 s.pk.channels)

/-- The job a request describes (R52, R433). -/
def jobOf (r : List Byte) : Job :=
  let flags := leAt r 1 1
  { vf := leAt r 0 1, confidential := bit flags 0, invariantOnly := bit flags 1
    collective := if bit flags 2 then some (leAt r 40 8) else none
    abortCounter := leAt r 36 1, parties := leAt r 2 1, classCap := leAt r 3 1
    partitions := (List.range 4).map fun d => leAt r (4 + d) 1
    weight := leAt r 8 1, gladeCap := leAt r 9 1, phaseLimit := if leAt r 10 2 = 0 then 10 else leAt r 10 2, graftQuota := leAt r 12 4
    usageLimit := leAt r 16 8, occLimit := leAt r 24 8, period := leAt r 32 4, callers := leAt r 48 32
    grantBase := leAt r 80 8, grantSize := leAt r 88 8, request := sliceB r 0 128 }

/-- The key identifiers that are free, lowest first (R434). -/
def State.freeKeys (s : State) : List Nat := (List.range 1024).filter fun k => (nfind s.pk.keyTable k).isNone

/-- The offset of the first field of a request that is refused (R433); 128 where only key identifiers are lacking. -/
def State.openBad (s : State) (r : List Byte) : Option Nat :=
  let j := jobOf r
  let flags := leAt r 1 1
  firstBad [
    (decide (j.vf < 1 ∨ 63 < j.vf) || !s.pk.partOk, 0),
    (decide (8 ≤ flags) || (j.confidential && decide ((s.fn j.vf).tdi ≠ .run)), 1),
    (decide (j.parties < 1 ∨ 16 < j.parties), 2),
    (decide (3 < j.classCap), 3),
    ((List.range 4).any fun d => s.partBad d (leAt r (4 + d) 1), 4),
    (decide (j.weight < 1), 8),
    (decide (j.gladeCap < 1 ∨ 128 < j.gladeCap), 9),
    (decide (1000 < j.phaseLimit), 10),
    (decide (j.period < 1), 32),
    (decide (leAt r 37 3 ≠ 0), 37),
    (!bit flags 2 && decide (leAt r 40 8 ≠ 0), 40),
    (decide (j.grantBase % 65536 ≠ 0) || (s.jobs.any fun k => decide (j.grantBase < k.2.grantBase + k.2.grantSize ∧ k.2.grantBase < j.grantBase + j.grantSize)), 80),
    (decide (j.grantSize % 65536 ≠ 0 ∨ j.grantSize < 2 ^ 26 + j.saveSize + j.poolSize ∨ s.hbmSize < j.grantBase + j.grantSize), 88),
    (decide (leAt r 96 32 ≠ 0), 96),
    (decide (s.freeKeys.length < 4), 128)]

/-- The next table of a walk: the one an entry names, or a new one at the next place of the table area (R246, R434). -/
def childTable (base : Nat) (r : State × Nat) (a : Nat) : (State × Nat) × Nat :=
  let e := r.1.num (hbmAt + a) 8
  if bit e 0 then (r, leafPa e)
  else
    let pa := base + 16384 * r.2
    ((r.1.put (hbmAt + a) (toBytes 8 (pa + 1)), r.2 + 1), pa)

/-- A leaf of size code `k` with its replicas written into the tables of a root (R246, R247). -/
def mapLeaf (base : Nat) (r : State × Nat) (va k e : Nat) : State × Nat :=
  let lvl := if k ≤ 5 then 0 else 1
  match childTable base r (base + 8 * walkIndex va 3) with
  | (r, t2) => match childTable base r (t2 + 8 * walkIndex va 2) with
    | (r, t1) =>
      match if lvl = 1 then (r, t1) else childTable base r (t1 + 8 * walkIndex va 1) with
      | (r, t) => (r.1.put (hbmAt + t + 8 * walkIndex va lvl) ((List.replicate (4 ^ k / 2048 ^ lvl) (toBytes 8 e)).flatten), r.2)

/-- The largest page size code that alignment and length allow (R434). -/
def pageCode (va pa n : Nat) : Nat :=
  ((List.range 10).reverse.find? fun k => decide (va % (4096 * 4 ^ k) = 0 ∧ pa % (4096 * 4 ^ k) = 0 ∧ 4096 * 4 ^ k ≤ n)).getD 0

/-- A range mapped with the largest pages its alignment allows (R434). -/
def mapRange (base keyid : Nat) (w : Bool) : Nat → Nat → Nat → Nat → State × Nat → State × Nat
  | 0, _, _, _, r => r
  | f + 1, va, pa, n, r =>
    if n < 4096 then r
    else
      let k := pageCode va pa n
      let z := 4096 * 4 ^ k
      mapRange base keyid w f (va + z) (pa + z) (n - z) (mapLeaf base r va k (2 ^ 52 * keyid + pa + 256 * k + 8 + 2 * b2n w + 1))

/-- The initial page tables of a job (R434): its state, and how many tables they take. -/
def State.buildTables (s : State) (j : Job) (kd kt ks : Nat) : State × Nat :=
  let b := j.tablePa
  let f := j.grantSize / 4096 + 1
  let r := mapRange b kd true f 0 j.grantBase j.dataSize (s, 1)
  let r := mapRange b kt true f 0x40000000000000 j.tablePa (2 ^ 26) r
  let r := mapRange b ks false f 0x44000000000000 j.savePa j.saveSize r
  mapRange b kd false f 0x48000000000000 j.poolPa j.poolSize r

/-- The lowest context identifier that no job holds (DESIGN CHOICE, log entry 36). -/
def State.freeCtx (s : State) : Nat := ((List.range 1024).find? fun c => (nfind s.jobs c).isNone).getD 1024

/-- The bough of each die in which a request's partition is held: the one that no other job holds it in (R22, R433). -/
def State.boughsOf (s : State) (r : List Byte) : List Bool :=
  (List.range 4).map fun d => (s.holders d (leAt r (4 + d) 1)).any fun k => k.bough d = false

/-- The heartwood opens a job (R434): keys, granules, the grant zeroed, page tables. -/
def State.openNew (s : State) (r : List Byte) : State × Nat :=
  let ks := s.freeKeys
  let key (i : Nat) : Nat := (ks[i]?).getD 0
  let c := s.freeCtx
  let n := s.pk.jobSerial + 1
  let j : Job := { jobOf r with
    serial := n, boughs := s.boughsOf r, periodAt := s.wall, usageAt := [0, 0]
    keys := [(0, ⟨.data, key 0⟩), (1, ⟨.tables, key 1⟩), (2, ⟨.save, key 2⟩), (3, ⟨.weights, key 3⟩)], tableKey := key 1 }
  let j := { j with root := j.tablePa }
  let s : State := { s.forget (hbmAt + j.grantBase) j.grantSize with
    mem := memZero s.mem (hbmAt + j.grantBase) j.grantSize
    poison := s.poison.filter fun p => ¬(hbmAt + j.grantBase ≤ p ∧ p < hbmAt + j.grantBase + j.grantSize)
    pk := { s.pk with jobSerial := n, keySerial := s.pk.keySerial + 4
                      keyTable := (List.range 4).foldl (fun m i => nset m (key i) (s.pk.keySerial + 1 + i)) s.pk.keyTable }
    jobs := nset s.jobs c j }
  ((s.buildTables j (key 0) (key 1) (key 2)).1, c)

/-- JOB_OPEN: PF0's request (R433): refused with the offset of its first failing field, or answered with the context and the job serial. A grant whose
initial tables do not fit the table area does not cover R434 (DESIGN CHOICE, log entry 43). -/
def execJobOpen (request : List Byte) (s : State) : Outcome :=
  let r := sliceB request 0 128
  let bad : Option Nat := match s.openBad r with
    | some f => some f
    | none => if 4096 < (({} : State).buildTables (jobOf r) 0 0 0).2 then some 88 else none
  if s.manages = false then .next s
  else match bad with
  | some f => .next (s.emit (.mgmt 433 (1 :: toBytes 1 f)))
  | none => match s.openNew r with
    | (t, c) => .next (t.emit (.mgmt 433 (0 :: toBytes 2 c ++ toBytes 8 t.pk.jobSerial)))

/-- JOB_CLOSE: PF0 closes a job (R437). -/
def execJobClose (ctx : Nat) (s : State) : Outcome := .next (if (nfind s.jobs ctx).isSome then s.endJob ctx false else s)

/-- USAGE_RECORD_REQUEST: a signed usage record of a job for the operator (R404, R455). -/
def execUsageRecordRequest (ctx : Nat) (nonce : List Byte) (s : State) : Outcome :=
  if s.manages = false then .next s
  else match s.openJob ctx with
  | none => .next (s.emit (.mgmt 404 [1]))
  | some _ => match s.signUsage ctx (sliceB nonce 0 32) with
    | (t, bs) => .next (t.emit (.mgmt 404 (0 :: bs)))

/-! ## Parties (R432, R436, R437) -/

/-- A vendor request in a secured session of the party relay (R432); anywhere else it is answered with ERROR UnsupportedRequest. -/
def State.secured (s : State) (ses : Nat) (k : SpdmSes → State) : Outcome :=
  if s.responds relay = false then .next s
  else match nfind (s.responder relay).sessions ses with
    | some x => if x.secured then .next (k x) else .next (s.spdmError relay 7)
    | none => .next (s.spdmError relay 7)

/-- A request of a party that has joined a job; any other is refused. -/
def State.asParty (s : State) (ses what : Nat) (k : Nat → Nat → SpdmSes → State) : Outcome :=
  s.secured ses fun x => match s.partyOf ses with
    | some (c, i) => k c i x
    | none => s.emit (.vendor ses what [1])

/-- JOB_JOIN: the first join of a party index binds it to the session, with its seed (R436, R438). -/
def execJobJoin (ses serial idx : Nat) (s : State) : Outcome :=
  s.secured ses fun x =>
    match s.jobs.find? fun j => decide (j.2.serial = serial ∧ j.2.ending = false) with
    | none => s.emit (.vendor ses 1 [1])
    | some (c, j) =>
      if j.parties ≤ idx ∨ (nfind j.joins idx).isSome ∨ (s.partyOf ses).isSome then s.emit (.vendor ses 1 [1])
      else (s.modJob c fun j => { j with joins := nset j.joins idx ⟨some ses, hkdfExpand x.secret (ascii "ZX7 seed") 32⟩ }).emit (.vendor ses 1 [0])

/-- The first 320 bytes of a quote (R436). -/
def State.quoteBytes (s : State) (ctx idx : Nat) (nonce : List Byte) : List Byte :=
  let j := s.job ctx
  let p := s.pk
  toBytes 4 0x51554F54 ++ toBytes 2 1 ++ toBytes 1 idx ++ toBytes 1 (leAt j.request 1 1) ++ toBytes 2 ctx ++ toBytes 6 0 ++ toBytes 8 j.serial ++ toBytes 8 s.micros
    ++ sliceB nonce 0 32 ++ sliceB p.m0 0 32 ++ sliceB p.m1 0 32 ++ sliceB p.m2 0 32 ++ sliceB p.m3 0 32 ++ sha256 j.request ++ p.weightPoint ++ s.serial
    ++ List.replicate 16 0

/-- QUOTE: a party's quote, and the SUSPECT messages that wait for it (R436, R437). -/
def execQuote (ses : Nat) (nonce : List Byte) (s : State) : Outcome :=
  s.asParty ses 2 fun c i _ =>
    let mine := (s.job c).pendingSuspect.filter fun x => decide (x.1 = i)
    let quote := s.quoteBytes c i nonce
    let body := quote ++ s.sign 2 quote ++ mine.flatMap fun x => suspectMessage x.2
    (s.drawn.modJob c fun j => { j with pendingSuspect := j.pendingSuspect.filter fun x => decide (x.1 ≠ i) }).emit (.vendor ses 2 (0 :: body))

/-- The key of a session entry (R438): index one byte, generation four, most significant byte first as R438 writes the IV (DESIGN CHOICE, log entry 15). -/
def sessionKey (secret : List Byte) (idx gen : Nat) : List Byte := hkdfExpand secret (ascii "ZX7 sess" ++ [BitVec.ofNat 8 idx] ++ toBytesBE 4 gen) 32

/-- SESSION_OPEN: an entry at the lowest free index of the context's 64 (R438); refused where none is free. -/
def execSessionOpen (ses : Nat) (s : State) : Outcome :=
  s.asParty ses 3 fun c i x =>
    let j := s.job c
    match (List.range 64).find? fun k => !(nget ({} : Session) j.sessions k).opened with
    | none => s.emit (.vendor ses 3 [1])
    | some k =>
      let gen := (nget ({} : Session) j.sessions k).gen + 1
      (s.modJob c fun j => { j with sessions := nset j.sessions k { opened := true, gen := gen, key := sessionKey x.secret k gen, party := i } }).emit
        (.vendor ses 3 (0 :: toBytes 4 (64 * gen + k)))

/-- SESSION_CLOSE: a party closes an entry of its own, named by its handle (R438). -/
def execSessionClose (ses handle : Nat) (s : State) : Outcome :=
  s.asParty ses 4 fun c i _ => (s.closeSessions c i fun k x => decide (k = handle % 64 ∧ x.gen = handle / 64)).emit (.vendor ses 4 [0])

/-- IMAGE_KEY: a party registers the job's image key; only that party replaces it (R443). -/
def execImageKey (ses : Nat) (key : List Byte) (s : State) : Outcome :=
  s.asParty ses 6 fun c i _ =>
    if (s.job c).imageKey.any fun k => decide (k.1 ≠ i) then s.emit (.vendor ses 6 [1])
    else (s.modJob c fun j => { j with imageKey := some (i, key) }).emit (.vendor ses 6 [0])

/-! ## Weight install (R254, R255, R442) -/

/-- The statuses of a weight install (R442), by the codes of DESIGN CHOICE, log entry 15. -/
inductive InstallSt | ok | mapping | reinstall | unwrap | nokey
  deriving DecidableEq, Repr

def InstallSt.code : InstallSt → Nat
  | .ok => 0
  | .mapping => 1
  | .reinstall => 2
  | .unwrap => 3
  | .nokey => 4

/-- The physical place of the region a chunk goes to: its leaf is operand-only and names the key, and its granule is one of the job's
(R1, R241, R442). -/
def State.installPlace (s : State) (ctx va keyid : Nat) : Option Nat :=
  if 2 ^ 55 ≤ va then none
  else match s.walk ctx va with
    | .fault _ => none
    | .leaf e => if leafOpnd e ∧ leafKey e = keyid ∧ (s.owner ((leafPa e + va % leafSize e) / 65536)).any (fun k => (s.job ctx).keys.any fun x => decide (x.2.keyid = k))
      then some (leafPa e + va % leafSize e) else none

/-- The chunks of an install from number `i` on (R442): status and regions installed. A region's granule is then the key's (DEDUCED, log entry 16). -/
def install (ctx va keyid : Nat) (kek : Option (List Byte)) : List (List Byte) → Nat → State → State × InstallSt × Nat
  | [], i, s => (s, .ok, i)
  | ch :: t, i, s =>
    match s.installPlace ctx (va + 4096 * i) keyid with
    | none => (s, .mapping, i)
    | some r =>
      if (r / 4096, keyid) ∈ (s.job ctx).installed then (s, .reinstall, i)
      else match kek.bind fun k => gcmOpen k (List.replicate 4 0 ++ toBytesBE 8 i) [] (ch.take 4096) (ch.drop 4096) with
        | none => (s, .unwrap, i)
        | some p =>
          let s := (s.put (hbmAt + r) p).modJob ctx fun j => { j with installed := j.installed ++ [(r / 4096, keyid)] }
          install ctx va keyid kek t (i + 1) { s with pk := { s.pk with owners := nset s.pk.owners (r / 65536) keyid } }

/-- The key identifier of a WEIGHTS entry, created at the first install that names it, lowest free identifier first (R434, R442). -/
def State.weightsKey (s : State) (ctx idx : Nat) : State × Option Nat :=
  match nfind (s.job ctx).keys idx with
  | some k => (s, some k.keyid)
  | none => match s.freeKeys with
    | [] => (s, none)
    | k :: _ => (({ s with pk := { s.pk with keySerial := s.pk.keySerial + 1, keyTable := nset s.pk.keyTable k (s.pk.keySerial + 1) } } : State).modJob ctx fun j =>
        { j with keys := nset j.keys idx ⟨.weights, k⟩ }, some k)

/-- WEIGHT_INSTALL: chunks of wrapped weights installed in order (R442): the point Q, the target address, the key-set index, the chunks. -/
def execWeightInstall (ses : Nat) (q : List Byte) (va idx : Nat) (chunks_ : List (List Byte)) (s : State) : Outcome :=
  s.asParty ses 5 fun c _ _ =>
    if va % 4096 ≠ 0 ∨ idx < 3 ∨ 15 < idx ∨ chunks_ = [] ∨ 262144 < chunks_.length then s.emit (.vendor ses 5 [1])
    else match s.weightsKey c idx with
      | (t, none) => t.emit (.vendor ses 5 (0 :: toBytes 1 InstallSt.nokey.code ++ toBytes 4 0))
      | (t, some k) => match install c va k (t.pk.kek q) chunks_ 0 t with
        | (t, st, n) => t.emit (.vendor ses 5 (0 :: toBytes 1 st.code ++ toBytes 4 n))

end Sys2Proof.Machine
end

