-- ==== Sys2Proof/Machine/Orders.lean ====
section
/-! DEFINITION. The meanings of the order instructions: an order is noted in its block and enters its queue after the commit (R284 to R287,
R294, R307 to R309). -/

namespace Sys2Proof.Machine

/-- The order an instruction notes, from its flags, its L value and its start offset (R285, R286). -/
def orderReq (kind : Nat) (o : OrdHdr) (pos : Option (Nat × Nat)) (arg : Word) (x : Fx) : OrderReq :=
  { kind := kind, timed := o.timed, pop := o.pop, push := o.push, peer := o.peer.code.toNat, pos := pos, l := x.l,
    offset := if o.timed then x.r.toNat else 0, arg := arg }

/-- An order instruction issues (R117, R286, R294): a start offset above 40 bits is refused; else the order is noted. -/
def orderOp (h : Hdr) (o : OrdHdr) (nl : Bool) (s : State) (p : Fx → Pend) : Outcome :=
  match s.fx h nl o.timed with
  | none => .next s
  | some x =>
    if o.timed = true ∧ bits x.r.toNat 63 40 ≠ 0 then s.stopOpen x 0x004
    else s.finish x h 0 1 fun b => b.addPend x.i (p x)

/-- ORD.STAND (R297). -/
def execOrdStand (h : Hdr) (o : OrdHdr) (s : State) : Outcome := orderOp h o true s fun x => .order (orderReq 1 o none 0 x)

/-- ORD.STANDX: the stand queue of another position of the unit (R298). -/
def execOrdStandx (h : Hdr) (o : OrdHdr) (ux : BitVec 3) (uy : BitVec 4) (s : State) : Outcome :=
  orderOp h o true s fun x => .order (orderReq 1 o (some (ux.toNat, uy.toNat)) 0 x)

/-- ORD.RAFT (R302). -/
def execOrdRaft (h : Hdr) (o : OrdHdr) (s : State) : Outcome := orderOp h o true s fun x => .order (orderReq 2 o none 0 x)

/-- ORD.RAFTX (R294). -/
def execOrdRaftx (h : Hdr) (o : OrdHdr) (ux : BitVec 3) (uy : BitVec 4) (s : State) : Outcome :=
  orderOp h o true s fun x => .order (orderReq 2 o (some (ux.toNat, uy.toNat)) 0 x)

/-- ORD.RUN (R307). -/
def execOrdRun (h : Hdr) (o : OrdHdr) (s : State) : Outcome := orderOp h o true s fun x => .order (orderReq 3 o none 0 x)

/-- ORD.RUNX (R307). -/
def execOrdRunx (h : Hdr) (o : OrdHdr) (ux : BitVec 3) (uy : BitVec 4) (s : State) : Outcome :=
  orderOp h o true s fun x => .order (orderReq 3 o (some (ux.toNat, uy.toNat)) 0 x)

/-- ORD.WLOAD (R305). -/
def execOrdWload (h : Hdr) (o : OrdHdr) (s : State) : Outcome := orderOp h o true s fun x => .order (orderReq 4 o none 0 x)

/-- ORD.LINK (R306). -/
def execOrdLink (h : Hdr) (o : OrdHdr) (s : State) : Outcome := orderOp h o true s fun x => .order (orderReq 5 o none 0 x)

/-- ORD.TOKEN: one credit into the FIFO (peer, peer), at the commit or at a start offset (R308). -/
def execOrdToken (h : Hdr) (o : OrdHdr) (s : State) : Outcome :=
  orderOp h o false s fun x => .credit o.peer.code.toNat (if o.timed then some x.r.toNat else none)

/-- ORD.STEER: a route entry for the steering queue (R299). -/
def execOrdSteer (h : Hdr) (o : OrdHdr) (entry : BitVec 8) (s : State) : Outcome :=
  orderOp h o false s fun x => .order (orderReq 6 o none (entry.setWidth 64) x)

/-- ORD.MODE: mode-switch motes into the SIDE ports of the masked stems and rows (R307); an empty mask, high bits of L or a mode word outside
the layout of R98 are refused (DEDUCED, log entry 45). -/
def execOrdMode (h : Hdr) (o : OrdHdr) (mode : BitVec 16) (s : State) : Outcome :=
  match s.fx h true o.timed with
  | none => .next s
  | some x =>
    let l := x.l.toNat
    if o.timed = true ∧ bits x.r.toNat 63 40 ≠ 0 then s.stopOpen x 0x004
    else if bits l 15 0 = 0 ∨ bits l 31 16 = 0 ∨ bits l 63 32 ≠ 0 ∨ bits mode.toNat 15 7 ≠ 0 ∨ bits mode.toNat 3 2 ≠ 0 then s.stopOpen x 0x004
    else s.finish x h 0 1 fun b => b.addPend x.i (.order (orderReq 7 o none (mode.setWidth 64) x))

/-- ORD.BOUGH: requests a bough at the next phase boundary (R307). -/
def execOrdBough (h : Hdr) (o : OrdHdr) (b : Bool) (s : State) : Outcome :=
  orderOp h o false s fun x => .order (orderReq 8 o none (b2w b) x)

end Sys2Proof.Machine
end

