-- ==== Sys2Proof/Machine/Power.lean ====
section
/-! DEFINITION. Boot and bring-up (R26 to R28, R428, R429, R453), power and clocks (R454), lifetime counters (R406), in-field test and quarantine (R29, R426,
R427), firmware update and monitoring (R455), package number (R448). -/

namespace Sys2Proof.Machine

/-! ## Boot (R429) and the part record (R26, R27) -/

/-- A firmware slot verifies under a key (R428, R429). -/
def FlashSlot.ok (key : List Byte) (x : FlashSlot) : Bool := ecdsaVerify key x.image x.sig

/-- The slot that starts: the verifying one of the higher security version, A on a tie; 0 none, 1 A, 2 B (R429). -/
def startSlot (key : List Byte) (a b : FlashSlot) : Nat :=
  if a.ok key then if b.ok key ∧ a.secver < b.secver then 2 else 1 else if b.ok key then 2 else 0

/-- The glade map of a part record (R26). -/
def partGlades (p : List Byte) : Nat := leAt p 32 64
def partChannels (p : List Byte) : Nat := leAt p 96 64
def partLanes (p : List Byte) : Nat := leAt p 160 16

/-- Why a part record is rejected (R27): 1 signature, 2 version, 3 a reserved byte, 4 grade, 5 a full-grade part with an unusable glade, 6 fewer than 448
usable glades. -/
def partBad (key p : List Byte) : Option Nat :=
  let n := popcount 512 (partGlades p)
  if p.length ≠ 256 ∨ ecdsaVerify key (p.take 192) (p.drop 192) = false then some 1
  else if leAt p 0 2 ≠ 1 then some 2
  else if leAt p 3 13 ≠ 0 ∨ leAt p 176 16 ≠ 0 then some 3
  else if leAt p 2 1 ≠ 1 ∧ leAt p 2 1 ≠ 2 then some 4
  else if leAt p 2 1 = 1 ∧ n < 512 then some 5
  else if n < 448 then some 6
  else none

/-- The width of a link by its usable lanes (R28). -/
def laneWidth (lanes k : Nat) : Nat :=
  ([8, 4, 2, 1].find? fun w => (List.range w).all fun l => lanes.testBit (8 * k + l)).getD 0

/-- What keeps its bytes without power: the ROM, the flash and the hosts' memory. What is yet to come, and what the package has sent, is not its own. -/
def State.cold (s : State) : State :=
  { (State.reset : State) with
    pk := { (State.reset : State).pk with flash := s.pk.flash, life := s.pk.flash.life, rom := s.pk.rom, boot := s.free },
    mem := s.mem.filter (fun c => decide (hostAt 0 ≤ c.1)), inputs := s.inputs, out := s.out, free := s.free + 1 }

/-- The health map without the glades of some clearings (R29). -/
def withoutClearings (m : Nat) (cs : List Nat) : Nat :=
  (List.range 512).foldl (fun n g => if m.testBit g ∧ clearingOf g ∉ cs then n + 2 ^ g else n) 0

/-- The crown dies released: one in-field test for each clearing has been run, with the failures quarantined (R29, R453). -/
def State.releaseDies (s : State) (failed : List Nat) : State :=
  let bad := (List.range 64).filter fun c => decide (c ∈ failed)
  let s : State := { s with
    dies := (List.range 4).map fun d => (d, ({ held := false } : Die))
    clearings := (List.range 64).map fun c => (c, ({ seq := 1, last := if c ∈ failed then 2 else 1, quarantined := decide (c ∈ failed) } : Clearing))
    pk := { s.pk with health := withoutClearings s.pk.health bad } }
  bad.foldl (fun s c => s.life 4 c 1) s

/-- The links as the part record's lane map leaves them, not trained yet (R28, R453). -/
def linksOf (lanes : Nat) : List (Nat × Link) :=
  (List.range 16).map fun k => (k, if laneWidth lanes k = 0 then {} else { st := .down, width := laneWidth lanes k })

/-- POWER_ON: bring-up (R453): boot and measurement (R429), part record (R27), HBM zeroed, crown dies released with their first in-field tests, of which
`failed` names those that fail (DEDUCED, log entry 38). -/
def execPowerOn (failed : List Nat) (s : State) : Outcome :=
  if s.pk.power ≠ 0 then .next s
  else
    let s := s.cold
    let f := s.pk.flash
    let hw := startSlot (s.pk.keyFor 2) f.hwA f.hwB
    let df := startSlot (s.pk.keyFor 2) f.dfA f.dfB
    if hw = 0 then .next { s with pk := { s.pk with power := 2 } }
    else
      let m (n : Nat) (a b : FlashSlot) : List Byte := if n = 0 then [] else sha256 (if n = 1 then a.image else b.image)
      let lib := s.pk.keyFor 4
      let listOk := ecdsaVerify lib f.manifestBytes f.manifestSig
      let s : State := { s with pk := { s.pk with
        power := 3, hwSlot := hw, dfSlot := df, libKey := lib, m0 := m hw f.hwA f.hwB, m1 := m df f.dfA f.dfB
        m2 := if listOk then sha256 f.manifestBytes else [], m3 := sha256 (f.part.take 192) } }
      if df = 0 ∨ listOk = false then .next (s.emit (.mgmt 429 [BitVec.ofNat 8 (if df = 0 then 1 else 2)]))
      else match partBad (s.pk.keyFor 3) f.part with
        | some c => .next (s.emit (.mgmt 27 [BitVec.ofNat 8 c]))
        | none =>
          .next (({ s with pk := { s.pk with power := 1, partOk := true, grade := leAt f.part 2 1, health := partGlades f.part, channels := partChannels f.part }
                           links := linksOf (partLanes f.part) } : State).releaseDies failed)

/-! ## Power, clocks, time (R406, R454) -/

/-- POWER_FAIL: power is lost without a controlled shutdown: lifetime counts since the last write are lost (R406). -/
def execPowerFail (s : State) : Outcome := .next s.cold

/-- The lifetime counters written to flash (R406). -/
def State.flushLife (s : State) : State := { s with pk := { s.pk with flash := { s.pk.flash with life := s.pk.life }, lastFlush := s.wall } }

/-- LIFETIME_FLUSH (R406). -/
def execLifetimeFlush (s : State) : Outcome := .next s.flushLife

/-- THERMAL_SHUTDOWN: at 115 °C lifetime records are written, every job is cancelled as for a VF reset, and the crown dies are held in reset (R454). -/
def execThermalShutdown (s : State) : Outcome :=
  let vfs := (s.jobs.map fun j => j.2.vf).eraseDups
  let s := vfs.foldl State.dropJobs s.flushLife
  .next { s with pk := { s.pk with power := 4 }, dies := s.dies.map fun d => (d.1, { d.2 with held := true }) }

/-- The length of a cy at a clock step, 3.0, 2.7, 2.4, 2.1 and 1.8 GHz, in wall units (R6, R454). -/
def cyWall (step : Nat) : Nat := if step = 0 then 2520 else if step = 1 then 2800 else if step = 2 then 3150 else if step = 3 then 3600 else 4200

/-- CLOCK_STEP: a die steps its glade clock (R454); its next cy begins a new period after the last. -/
def execClockStep (die step : Nat) (s : State) : Outcome :=
  .next (if die < 4 ∧ step < 5 then s.modDie die fun d => { d with clock := step, nextEdge := d.nextEdge + cyWall step - cyWall d.clock } else s)

/-- POWER_CAP_SET: PF0 sets the cap, 1,200 W to 2,600 W (R454). -/
def execPowerCapSet (watts : Nat) (s : State) : Outcome :=
  if (s.pk.power = 1 ∨ s.pk.power = 3) ∧ 1200 ≤ watts ∧ watts ≤ 2600 then .next (({ s with pk := { s.pk with powerCap := watts } } : State).emit (.mgmt 454 [0]))
  else .next (s.emit (.mgmt 454 [1]))

/-- The histogram bin of a reading: bin n covers `width` from `lo` + n × width on, bins 0 and 15 take what lies outside (R406). -/
def histBin (lo width x : Nat) : Nat := min ((x - lo) / width) 15

/-- HISTOGRAM_SECOND: one second at the dies' highest sensor readings, °C and mV (R406). -/
def execHistogramSecond (temps mvs : List Nat) (s : State) : Outcome :=
  .next ((List.range 4).foldl (fun s d =>
    let t := (temps[d]?).getD 0
    let v := (mvs[d]?).getD 0
    let s := (s.life 8 (16 * d + histBin 40 5 t) 1).life 9 (16 * d + histBin 600 10 v) 1
    { s with pk := { s.pk with readings := nset (nset s.pk.readings d t) (16 + d) v } }) s)

/-! ## In-field test (R29, R187, R426, R427) -/

/-- The launches whose running units occupy a clearing. -/
def State.launchesOn (s : State) (c : Nat) : List (Nat × Nat) :=
  let d := c / 16
  (nkeys (s.die d).launches fun n l => decide (l.stage = .running) && (s.clearingsOf d n).contains c).map fun n => (d, n)

/-- Every launch with glades in a clearing, running or not. -/
def State.loadedOn (s : State) (c : Nat) : List (Nat × Nat) :=
  let d := c / 16
  (nkeys (s.die d).launches fun n _ => (s.clearingsOf d n).contains c).map fun n => (d, n)

/-- A requested test can run once every launch on the clearing is held at its boundary (R187, R426). -/
def State.testDue (s : State) (c : Nat) : Bool :=
  s.wantsTest c && (s.launchesOn c).all fun l => match s.launch l.1 l.2 with
    | some y => y.held || y.holdTest
    | none => true

/-- The launches that only tests held go on once none of their clearings waits for one (R426). -/
def State.endHolds (s : State) (c : Nat) : State :=
  (s.loadedOn c).foldl (fun s l => match s.launch l.1 l.2 with
    | some y =>
      if y.holdTest = true ∧ ((s.clearingsOf l.1 l.2).any s.wantsTest) = false
      then (s.modLaunch l.1 l.2 fun y => { y with holdTest := false }).resume l.1 l.2 else s
    | none => s) s

/-- The jobs whose units have been on a clearing since its last PASS; beyond 64 every job of the die (R427). -/
def State.exposed (s : State) (c : Nat) : List Nat :=
  let x := s.clearing c
  if 64 < x.contexts.length + x.gone.length then nkeys s.jobs fun _ j => decide ((j.partitions[c / 16]?).getD 0xFF ≠ 0xFF) else x.contexts.filter fun k => (nfind s.jobs k).isSome

/-- SUSPECT for a job that has ended since: its parties whose sessions are still open, and its VF (R427, R437). -/
def State.suspectGone (s : State) (e : Exposed) (x : Suspect) : State :=
  ((e.sessions.filter fun n => (nfind (s.responder relay).sessions n).any (·.secured)).foldl (fun s n => s.emit (.vendor n 437 (suspectMessage x))) s).noGlade 0x1C1 e.vf e.ctx x.start x.stop

/-- A failed test (R427): quarantine, launches moved, SUSPECT for the jobs exposed, notices to the packages that received, TEST_FAIL. -/
def State.testFail (s : State) (c : Nat) : State :=
  let x := s.clearing c
  let k : Suspect := ⟨s.serial, c, x.since / usWall, s.micros⟩
  let s := (({ s with pk := { s.pk with health := withoutClearings s.pk.health [c] } } : State).life 4 c 1).modClearing c fun x => { x with quarantined := true }
  let s := (s.loadedOn c).foldl (fun s l => s.preempt l.1 l.2 3) s
  let s := s.noGlade 0x1C1 0 0 k.start k.stop
  let s := (s.exposed c).foldl (fun s n => s.suspect n k) s
  let s := x.gone.foldl (fun s e => s.suspectGone e k) s
  let s := x.packages.foldl (fun s p => s.tell p 7 ([3, 0] ++ toBytes 2 c ++ toBytes 4 0 ++ toBytes 8 k.start ++ toBytes 8 k.stop ++ List.replicate 204 0)) s
  s.noGlade 0x1C0 0 0 c x.seq

/-- INFIELD_TEST: the requested test of a clearing runs and passes or fails (R426, R427); the planes of its glades are loaded again, and the launches it held
go on (DESIGN CHOICE, log entry 47). -/
def execInfieldTest (c : Nat) (pass : Bool) (s : State) : Outcome :=
  if s.testDue c = false then .next s
  else
    let on := s.launchesOn c
    let s := s.modClearing c fun x => { x with seq := x.seq + 1, last := if pass then 1 else 2, lastAt := s.wall, requested := false }
    let s := (gladesOf c).foldl (fun s g => if s.runs g then s.modStand g Stand.restore else s) s
    let s := s.endHolds c
    if pass then
      let now := (on.filterMap fun l => (s.launch l.1 l.2).map (·.ctx)).eraseDups
      .next (s.modClearing c fun x => { x with since := s.wall, contexts := now, gone := [], packages := [] })
    else .next (s.testFail c)

/-! ## Management (R448, R455) -/

/-- PACKAGE_NUMBER_SET: PF0 sets number and canopy once; the links then train and send VERSION (R448, R452, R453). -/
def execPackageNumberSet (num canopy : Nat) (s : State) : Outcome :=
  if s.pk.power ≠ 1 ∨ 255 < num ∨ s.pk.number.isSome = true then .next s
  else
    let s : State := { s with pk := { s.pk with number := some (num, canopy) } }
    .next ((nkeys s.links fun _ l => decide (l.st = .down)).foldl (fun s l => (s.sendVersion l).modLink l fun x => { x with st := .version }) s)

/-- FIRMWARE_UPDATE: an image goes into the slot that is not running, and takes effect at the next power-on (R455). -/
def execFirmwareUpdate (heart : Bool) (img : List Byte) (secver : Nat) (sig : List Byte) (s : State) : Outcome :=
  if s.pk.power = 0 then .next s
  else
    let x : FlashSlot := { image := img, secver := secver, sig := sig }
    let f := s.pk.flash
    let f := if heart then if s.pk.hwSlot = 1 then { f with hwB := x } else { f with hwA := x }
      else if s.pk.dfSlot = 1 then { f with dfB := x } else { f with dfA := x }
    .next { s with pk := { s.pk with flash := f } }

/-- PLDM_MONITOR: readings, the power drawn, of which the spec states only that it stays under the cap (R454) (DESIGN CHOICE, log entry 104), power cap, clock steps, the health map and the lifetime counts, item and index with each (R407, R455). -/
def execPldmMonitor (s : State) : Outcome :=
  if s.manages = false then .next s
  else .next (s.drawn.emit (.mgmt 455 ((List.range 4).flatMap (fun d => toBytes 2 (nget 0 s.pk.readings d) ++ toBytes 2 (nget 0 s.pk.readings (16 + d)) ++ toBytes 1 (s.die d).clock)
    ++ toBytes 2 (s.freeWord.toNat % (s.pk.powerCap + 1)) ++ toBytes 2 s.pk.powerCap ++ toBytes 64 s.pk.health ++ s.pk.life.flatMap fun x => toBytes 4 x.1 ++ toBytes 8 x.2)))

end Sys2Proof.Machine
end

