-- ==== Sys2Proof/Machine/Dispatch.lean ====
section
/-! DEFINITION. One arm for every constructor of `Instr`: one direct call of its meaning. -/

namespace Sys2Proof.Machine

/-- What an instruction does: one direct call of its meaning. -/
def exec (i : Instr) (s : State) : Host.Outcome State Fault Refusal :=
  match i with
  | .add h => Sys2Proof.Machine.execAdd h s
  | .addi h imm => Sys2Proof.Machine.execAddi h imm s
  | .sub h => Sys2Proof.Machine.execSub h s
  | .mul h => Sys2Proof.Machine.execMul h s
  | .mulhS h => Sys2Proof.Machine.execMulhS h s
  | .mulhZ h => Sys2Proof.Machine.execMulhZ h s
  | .divS h => Sys2Proof.Machine.execDivS h s
  | .divZ h => Sys2Proof.Machine.execDivZ h s
  | .remS h => Sys2Proof.Machine.execRemS h s
  | .remZ h => Sys2Proof.Machine.execRemZ h s
  | .and h => Sys2Proof.Machine.execAnd h s
  | .or h => Sys2Proof.Machine.execOr h s
  | .xor h => Sys2Proof.Machine.execXor h s
  | .andn h => Sys2Proof.Machine.execAndn h s
  | .not h => Sys2Proof.Machine.execNot h s
  | .shl h => Sys2Proof.Machine.execShl h s
  | .shr h => Sys2Proof.Machine.execShr h s
  | .sar h => Sys2Proof.Machine.execSar h s
  | .rol h => Sys2Proof.Machine.execRol h s
  | .clz h => Sys2Proof.Machine.execClz h s
  | .ctz h => Sys2Proof.Machine.execCtz h s
  | .popc h => Sys2Proof.Machine.execPopc h s
  | .minS h => Sys2Proof.Machine.execMinS h s
  | .minZ h => Sys2Proof.Machine.execMinZ h s
  | .maxS h => Sys2Proof.Machine.execMaxS h s
  | .maxZ h => Sys2Proof.Machine.execMaxZ h s
  | .sext h w => Sys2Proof.Machine.execSext h w s
  | .zext h w => Sys2Proof.Machine.execZext h w s
  | .bext h pos len1 => Sys2Proof.Machine.execBext h pos len1 s
  | .bins h pos len1 => Sys2Proof.Machine.execBins h pos len1 s
  | .movi h imm => Sys2Proof.Machine.execMovi h imm s
  | .movhi h lane imm => Sys2Proof.Machine.execMovhi h lane imm s
  | .sel h => Sys2Proof.Machine.execSel h s
  | .cmpEq h wr qi => Sys2Proof.Machine.execCmpEq h wr qi s
  | .cmpNe h wr qi => Sys2Proof.Machine.execCmpNe h wr qi s
  | .cmpLtS h wr qi => Sys2Proof.Machine.execCmpLtS h wr qi s
  | .cmpLtZ h wr qi => Sys2Proof.Machine.execCmpLtZ h wr qi s
  | .cmpLeS h wr qi => Sys2Proof.Machine.execCmpLeS h wr qi s
  | .cmpLeZ h wr qi => Sys2Proof.Machine.execCmpLeZ h wr qi s
  | .test h wr qi => Sys2Proof.Machine.execTest h wr qi s
  | .qand h wr qi => Sys2Proof.Machine.execQand h wr qi s
  | .qor h wr qi => Sys2Proof.Machine.execQor h wr qi s
  | .maddM h m => Sys2Proof.Machine.execMaddM h m s
  | .msubM h m => Sys2Proof.Machine.execMsubM h m s
  | .mmulM h m => Sys2Proof.Machine.execMmulM h m s
  | .mred h m => Sys2Proof.Machine.execMred h m s
  | .rdg h g => Sys2Proof.Machine.execRdg h g s
  | .wrg h g => Sys2Proof.Machine.execWrg h g s
  | .mov h => Sys2Proof.Machine.execMov h s
  | .nullEffect h n => Sys2Proof.Machine.execNullEffect h n s
  | .nullReg h g => Sys2Proof.Machine.execNullReg h g s
  | .land h num => Sys2Proof.Machine.execLand h num s
  | .br h off => Sys2Proof.Machine.execBr h off s
  | .bri h off last => Sys2Proof.Machine.execBri h off last s
  | .call h off => Sys2Proof.Machine.execCall h off s
  | .ret h => Sys2Proof.Machine.execRet h s
  | .halt h => Sys2Proof.Machine.execHalt h s
  | .bkpt h num => Sys2Proof.Machine.execBkpt h num s
  | .cvtaTo h sp => Sys2Proof.Machine.execCvtaTo h sp s
  | .cvtaFrom h sp => Sys2Proof.Machine.execCvtaFrom h sp s
  | .isspace h sp => Sys2Proof.Machine.execIsspace h sp s
  | .lea h sp off => Sys2Proof.Machine.execLea h sp off s
  | .aperq h sp => Sys2Proof.Machine.execAperq h sp s
  | .ld h ty sp off => Sys2Proof.Machine.execLd h ty sp off s
  | .st h ty sp off => Sys2Proof.Machine.execSt h ty sp off s
  | .ldT h sp off => Sys2Proof.Machine.execLdT h sp off s
  | .gsave h first cnt1 sp off => Sys2Proof.Machine.execGsave h first cnt1 sp off s
  | .gload h first cnt1 sp off => Sys2Proof.Machine.execGload h first cnt1 sp off s
  | .atomAdd h a => Sys2Proof.Machine.execAtomAdd h a s
  | .atomMinmax h a op => Sys2Proof.Machine.execAtomMinmax h a op s
  | .atomBit h a op => Sys2Proof.Machine.execAtomBit h a op s
  | .atomXchg h a => Sys2Proof.Machine.execAtomXchg h a s
  | .atomCas h a g => Sys2Proof.Machine.execAtomCas h a g s
  | .fence h order scope => Sys2Proof.Machine.execFence h order scope s
  | .tskStamp h => Sys2Proof.Machine.execTskStamp h s
  | .tskYield h => Sys2Proof.Machine.execTskYield h s
  | .tskYieldPhase h => Sys2Proof.Machine.execTskYieldPhase h s
  | .tskQuery h sel => Sys2Proof.Machine.execTskQuery h sel s
  | .ordStand h o => Sys2Proof.Machine.execOrdStand h o s
  | .ordStandx h o ux uy => Sys2Proof.Machine.execOrdStandx h o ux uy s
  | .ordRaft h o => Sys2Proof.Machine.execOrdRaft h o s
  | .ordRaftx h o ux uy => Sys2Proof.Machine.execOrdRaftx h o ux uy s
  | .ordRun h o => Sys2Proof.Machine.execOrdRun h o s
  | .ordRunx h o ux uy => Sys2Proof.Machine.execOrdRunx h o ux uy s
  | .ordWload h o => Sys2Proof.Machine.execOrdWload h o s
  | .ordLink h o => Sys2Proof.Machine.execOrdLink h o s
  | .ordToken h o => Sys2Proof.Machine.execOrdToken h o s
  | .ordSteer h o entry => Sys2Proof.Machine.execOrdSteer h o entry s
  | .ordMode h o mode => Sys2Proof.Machine.execOrdMode h o mode s
  | .ordBough h o b => Sys2Proof.Machine.execOrdBough h o b s
  | .arm h => Sys2Proof.Machine.execArm h s
  | .disarm h => Sys2Proof.Machine.execDisarm h s
  | .rteSet h => Sys2Proof.Machine.execRteSet h s
  | .rillSet h => Sys2Proof.Machine.execRillSet h s
  | .rillGet h fn => Sys2Proof.Machine.execRillGet h fn s
  | .rillReset h => Sys2Proof.Machine.execRillReset h s
  | .tagLookLookup h => Sys2Proof.Machine.execTagLookLookup h s
  | .tagLookRead h => Sys2Proof.Machine.execTagLookRead h s
  | .tagSet h => Sys2Proof.Machine.execTagSet h s
  | .tagSetSect h => Sys2Proof.Machine.execTagSetSect h s
  | .tagInv h => Sys2Proof.Machine.execTagInv h s
  | .slotRes h => Sys2Proof.Machine.execSlotRes h s
  | .slotRelRelease h => Sys2Proof.Machine.execSlotRelRelease h s
  | .slotRelDone h => Sys2Proof.Machine.execSlotRelDone h s
  | .slotQry h fn => Sys2Proof.Machine.execSlotQry h fn s
  | .tslotSet h => Sys2Proof.Machine.execTslotSet h s
  | .placePart h => Sys2Proof.Machine.execPlacePart h s
  | .placeHealth h => Sys2Proof.Machine.execPlaceHealth h s
  | .placeBusy h => Sys2Proof.Machine.execPlaceBusy h s
  | .placeFit h => Sys2Proof.Machine.execPlaceFit h s
  | .seedOpen h => Sys2Proof.Machine.execSeedOpen h s
  | .seedAppend h => Sys2Proof.Machine.execSeedAppend h s
  | .seedDraft h lmin bmax1 dmax1 => Sys2Proof.Machine.execSeedDraft h lmin bmax1 dmax1 s
  | .seedSave h => Sys2Proof.Machine.execSeedSave h s
  | .seedLoad h => Sys2Proof.Machine.execSeedLoad h s
  | .seedTrim h => Sys2Proof.Machine.execSeedTrim h s
  | .seedClose h => Sys2Proof.Machine.execSeedClose h s
  | .graftFetch h => Sys2Proof.Machine.execGraftFetch h s
  | .graftPin h => Sys2Proof.Machine.execGraftPin h s
  | .graftUnpin h => Sys2Proof.Machine.execGraftUnpin h s
  | .graftQryState h => Sys2Proof.Machine.execGraftQryState h s
  | .graftQryFind h => Sys2Proof.Machine.execGraftQryFind h s
  | .tlRead h tl item => Sys2Proof.Machine.execTlRead h tl item s
  | .tlWaitGe h tl => Sys2Proof.Machine.execTlWaitGe h tl s
  | .tlWaitLag h tl => Sys2Proof.Machine.execTlWaitLag h tl s
  | .ccRead h item => Sys2Proof.Machine.execCcRead h item s
  | .ccWait h => Sys2Proof.Machine.execCcWait h s
  | .ccAdd h b => Sys2Proof.Machine.execCcAdd h b s
  | .cancel h b => Sys2Proof.Machine.execCancel h b s
  | .penBranch h b => Sys2Proof.Machine.execPenBranch h b s
  | .penAccept h b => Sys2Proof.Machine.execPenAccept h b s
  | .penDrop h mask => Sys2Proof.Machine.execPenDrop h mask s
  | .useSign h => Sys2Proof.Machine.execUseSign h s
  | .perfRead h => Sys2Proof.Machine.execPerfRead h s
  | .lifeRead h => Sys2Proof.Machine.execLifeRead h s
  | .trap h n => Sys2Proof.Machine.execTrap h n s
  | .tret h => Sys2Proof.Machine.execTret h s
  | .srd h num => Sys2Proof.Machine.execSrd h num s
  | .swr h num => Sys2Proof.Machine.execSwr h num s
  | .evwait h n => Sys2Proof.Machine.execEvwait h n s
  | .evsend h n => Sys2Proof.Machine.execEvsend h n s
  | .hwCallSampleKey h svc => Sys2Proof.Machine.execHwCallSampleKey h svc s
  | .hwCallEntropy h => Sys2Proof.Machine.execHwCallEntropy h s
  | .testClr h => Sys2Proof.Machine.execTestClr h s
  | .fadd d imm => Sys2Proof.Machine.execFadd d imm s
  | .fsub d imm => Sys2Proof.Machine.execFsub d imm s
  | .fmul d imm => Sys2Proof.Machine.execFmul d imm s
  | .fma d imm => Sys2Proof.Machine.execFma d imm s
  | .fnma d imm => Sys2Proof.Machine.execFnma d imm s
  | .fmin d imm => Sys2Proof.Machine.execFmin d imm s
  | .fmax d imm => Sys2Proof.Machine.execFmax d imm s
  | .fmod d neg abs => Sys2Proof.Machine.execFmod d neg abs s
  | .fcmp d r => Sys2Proof.Machine.execFcmp d r s
  | .fsel d imm => Sys2Proof.Machine.execFsel d imm s
  | .frnd d imm => Sys2Proof.Machine.execFrnd d imm s
  | .fclamp d imm => Sys2Proof.Machine.execFclamp d imm s
  | .fscale d imm => Sys2Proof.Machine.execFscale d imm s
  | .cvtF32Bf16 d h => Sys2Proof.Machine.execCvtF32Bf16 d h s
  | .cvtBf16F32 d => Sys2Proof.Machine.execCvtBf16F32 d s
  | .cvtF32E4m3 d p => Sys2Proof.Machine.execCvtF32E4m3 d p s
  | .cvtE4m3F32 d h => Sys2Proof.Machine.execCvtE4m3F32 d h s
  | .cvtE2m1F32 d p => Sys2Proof.Machine.execCvtE2m1F32 d p s
  | .cvtIf d ty dir => Sys2Proof.Machine.execCvtIf d ty dir s
  | .iadd d ty imm => Sys2Proof.Machine.execIadd d ty imm s
  | .isub d ty imm => Sys2Proof.Machine.execIsub d ty imm s
  | .imul d ty imm => Sys2Proof.Machine.execImul d ty imm s
  | .imulh d ty imm => Sys2Proof.Machine.execImulh d ty imm s
  | .iand d ty imm => Sys2Proof.Machine.execIand d ty imm s
  | .ior d ty imm => Sys2Proof.Machine.execIor d ty imm s
  | .ixor d ty imm => Sys2Proof.Machine.execIxor d ty imm s
  | .ishl d ty imm => Sys2Proof.Machine.execIshl d ty imm s
  | .ishr d ty imm => Sys2Proof.Machine.execIshr d ty imm s
  | .isar d ty imm => Sys2Proof.Machine.execIsar d ty imm s
  | .imin d ty imm => Sys2Proof.Machine.execImin d ty imm s
  | .imax d ty imm => Sys2Proof.Machine.execImax d ty imm s
  | .icmp d ty r => Sys2Proof.Machine.execIcmp d ty r s
  | .isel d ty imm => Sys2Proof.Machine.execIsel d ty imm s
  | .mmul d m => Sys2Proof.Machine.execMmul d m s
  | .madd d m => Sys2Proof.Machine.execMadd d m s
  | .msub d m => Sys2Proof.Machine.execMsub d m s
  | .bfly d m => Sys2Proof.Machine.execBfly d m s
  | .ibfly d m => Sys2Proof.Machine.execIbfly d m s
  | .pass d ty imm => Sys2Proof.Machine.execPass d ty imm s
  | .passThru => Sys2Proof.Machine.execPassThru s
  | .hold d ty imm => Sys2Proof.Machine.execHold d ty imm s
  | .const d ty imm => Sys2Proof.Machine.execConst d ty imm s
  | .agCnt d n => Sys2Proof.Machine.execAgCnt d n s
  | .agLink d l n => Sys2Proof.Machine.execAgLink d l n s
  | .agLd d sp z => Sys2Proof.Machine.execAgLd d sp z s
  | .agSt d sp z => Sys2Proof.Machine.execAgSt d sp z s
  | .agGath d sp z => Sys2Proof.Machine.execAgGath d sp z s
  | .agScat d sp z => Sys2Proof.Machine.execAgScat d sp z s
  | .agAtom d sc op sp z => Sys2Proof.Machine.execAgAtom d sc op sp z s
  | .redFadd d msk => Sys2Proof.Machine.execRedFadd d msk s
  | .redFmax d msk => Sys2Proof.Machine.execRedFmax d msk s
  | .redIadd d z msk => Sys2Proof.Machine.execRedIadd d z msk s
  | .redArgmax d msk => Sys2Proof.Machine.execRedArgmax d msk s
  | .redSmerge d msk => Sys2Proof.Machine.execRedSmerge d msk s
  | .joinIsect d wide lv => Sys2Proof.Machine.execJoinIsect d wide lv s
  | .joinUnion d wide lv => Sys2Proof.Machine.execJoinUnion d wide lv s
  | .joinMerge d wide lv => Sys2Proof.Machine.execJoinMerge d wide lv s
  | .sampInit d p => Sys2Proof.Machine.execSampInit d p s
  | .sampStep d f => Sys2Proof.Machine.execSampStep d f s
  | .sampEmit d clr => Sys2Proof.Machine.execSampEmit d clr s
  | .rng d => Sys2Proof.Machine.execRng d s
  | .exp2 d imm => Sys2Proof.Machine.execExp2 d imm s
  | .log2 d imm => Sys2Proof.Machine.execLog2 d imm s
  | .rcp d imm => Sys2Proof.Machine.execRcp d imm s
  | .rsqrt d imm => Sys2Proof.Machine.execRsqrt d imm s
  | .sqrt d imm => Sys2Proof.Machine.execSqrt d imm s
  | .tanh d imm => Sys2Proof.Machine.execTanh d imm s
  | .erf d imm => Sys2Proof.Machine.execErf d imm s
  | .bndRel d ty => Sys2Proof.Machine.execBndRel d ty s
  | .resChk d ty flt => Sys2Proof.Machine.execResChk d ty flt s
  | .seqTag d ty => Sys2Proof.Machine.execSeqTag d ty s
  | .rillIn d ty r => Sys2Proof.Machine.execRillIn d ty r s
  | .rillOut d ty r => Sys2Proof.Machine.execRillOut d ty r s
  | .powerOn failed => Sys2Proof.Machine.execPowerOn failed s
  | .thermalShutdown => Sys2Proof.Machine.execThermalShutdown s
  | .clockStep die step => Sys2Proof.Machine.execClockStep die step s
  | .lifetimeFlush => Sys2Proof.Machine.execLifetimeFlush s
  | .vfReset vf => Sys2Proof.Machine.execVfReset vf s
  | .tdiStop vf error => Sys2Proof.Machine.execTdiStop vf error s
  | .registerWrite fn off v granted tbit => Sys2Proof.Machine.execRegisterWrite fn off v granted tbit s
  | .ringEnable vf ring granted tbit => Sys2Proof.Machine.execRingEnable vf ring granted tbit s
  | .ringTeardownDrain vf ring tbit => Sys2Proof.Machine.execRingTeardownDrain vf ring tbit s
  | .ringTeardownCancel vf ring tbit => Sys2Proof.Machine.execRingTeardownCancel vf ring tbit s
  | .ringWidxWrite vf ring v tbit => Sys2Proof.Machine.execRingWidxWrite vf ring v tbit s
  | .ringDrainComplete vf ring => Sys2Proof.Machine.execRingDrainComplete vf ring s
  | .ringFetch vf ring ok => Sys2Proof.Machine.execRingFetch vf ring ok s
  | .tinvPage vf cmd tbit => Sys2Proof.Machine.execTinvPage vf cmd tbit s
  | .tinvContext vf cmd tbit => Sys2Proof.Machine.execTinvContext vf cmd tbit s
  | .tinvComplete vf => Sys2Proof.Machine.execTinvComplete vf s
  | .fqRcntWrite fn v tbit => Sys2Proof.Machine.execFqRcntWrite fn v tbit s
  | .fqLostRead fn tbit => Sys2Proof.Machine.execFqLostRead fn tbit s
  | .msixMessage fn vec => Sys2Proof.Machine.execMsixMessage fn vec s
  | .atsInvalidate vf addr size => Sys2Proof.Machine.execAtsInvalidate vf addr size s
  | .prgResponse vf idx ok => Sys2Proof.Machine.execPrgResponse vf idx ok s
  | .prgTimeout vf idx => Sys2Proof.Machine.execPrgTimeout vf idx s
  | .pageRequest vf page => Sys2Proof.Machine.execPageRequest vf page s
  | .walkComplete glade => Sys2Proof.Machine.execWalkComplete glade s
  | .selectionPass die => Sys2Proof.Machine.execSelectionPass die s
  | .launchBoost die idx => Sys2Proof.Machine.execLaunchBoost die idx s
  | .reservingTimeout die idx => Sys2Proof.Machine.execReservingTimeout die idx s
  | .launchStart die idx => Sys2Proof.Machine.execLaunchStart die idx s
  | .unitComplete die idx upos => Sys2Proof.Machine.execUnitComplete die idx upos s
  | .phaseBoundary die idx => Sys2Proof.Machine.execPhaseBoundary die idx s
  | .boughSaveWrite die idx => Sys2Proof.Machine.execBoughSaveWrite die idx s
  | .phaseLimitExpiry die idx => Sys2Proof.Machine.execPhaseLimitExpiry die idx s
  | .cancelProcess die => Sys2Proof.Machine.execCancelProcess die s
  | .periodRollover ctx => Sys2Proof.Machine.execPeriodRollover ctx s
  | .infieldTest clearing pass => Sys2Proof.Machine.execInfieldTest clearing pass s
  | .timeSlotEvent die idx slot => Sys2Proof.Machine.execTimeSlotEvent die idx slot s
  | .contextCycle glade => Sys2Proof.Machine.execContextCycle glade s
  | .resultLand glade => Sys2Proof.Machine.execResultLand glade s
  | .fernResultLand glade => Sys2Proof.Machine.execFernResultLand glade s
  | .agReply glade stem row => Sys2Proof.Machine.execAgReply glade stem row s
  | .entryStartTimed glade queue => Sys2Proof.Machine.execEntryStartTimed glade queue s
  | .entryStartGated glade queue => Sys2Proof.Machine.execEntryStartGated glade queue s
  | .entryRetire glade queue => Sys2Proof.Machine.execEntryRetire glade queue s
  | .creditTimerFire glade => Sys2Proof.Machine.execCreditTimerFire glade s
  | .standFire glade => Sys2Proof.Machine.execStandFire glade s
  | .standSlotRelease glade => Sys2Proof.Machine.execStandSlotRelease glade s
  | .standFireComplete glade => Sys2Proof.Machine.execStandFireComplete glade s
  | .drainBeat glade set => Sys2Proof.Machine.execDrainBeat glade set s
  | .raftNoticeServe glade raft => Sys2Proof.Machine.execRaftNoticeServe glade raft s
  | .raftTileLand glade raft => Sys2Proof.Machine.execRaftTileLand glade raft s
  | .wloadRegion glade => Sys2Proof.Machine.execWloadRegion glade s
  | .rillArrival glade rill bytes => Sys2Proof.Machine.execRillArrival glade rill bytes s
  | .landingArrival glade => Sys2Proof.Machine.execLandingArrival glade s
  | .moteArrival glade => Sys2Proof.Machine.execMoteArrival glade s
  | .moteReinjection glade stream => Sys2Proof.Machine.execMoteReinjection glade stream s
  | .seedReplayStep die bank => Sys2Proof.Machine.execSeedReplayStep die bank s
  | .graftFetchComplete entry => Sys2Proof.Machine.execGraftFetchComplete entry s
  | .graftFetchTimeout entry => Sys2Proof.Machine.execGraftFetchTimeout entry s
  | .waitTimeout glade idx => Sys2Proof.Machine.execWaitTimeout glade idx s
  | .orderStall glade => Sys2Proof.Machine.execOrderStall glade s
  | .blockFetch glade => Sys2Proof.Machine.execBlockFetch glade s
  | .blockCommit glade => Sys2Proof.Machine.execBlockCommit glade s
  | .laneFailure link lane => Sys2Proof.Machine.execLaneFailure link lane s
  | .linkUp link number canopy chain aliasCert key => Sys2Proof.Machine.execLinkUp link number canopy chain aliasCert key s
  | .linkDown link => Sys2Proof.Machine.execLinkDown link s
  | .peerReclaimTimeout peer => Sys2Proof.Machine.execPeerReclaimTimeout peer s
  | .flitData link seq ok credits payload => Sys2Proof.Machine.execFlitData link seq ok credits payload s
  | .flitNotice link seq ok credits payload => Sys2Proof.Machine.execFlitNotice link seq ok credits payload s
  | .flitSlotRes link seq ok credits payload => Sys2Proof.Machine.execFlitSlotRes link seq ok credits payload s
  | .flitSlotAnswer link seq ok credits payload => Sys2Proof.Machine.execFlitSlotAnswer link seq ok credits payload s
  | .flitSlotRelease link seq ok credits payload => Sys2Proof.Machine.execFlitSlotRelease link seq ok credits payload s
  | .flitSlotReclaim link seq ok credits payload => Sys2Proof.Machine.execFlitSlotReclaim link seq ok credits payload s
  | .flitCall link seq ok credits payload => Sys2Proof.Machine.execFlitCall link seq ok credits payload s
  | .flitCallDone link seq ok credits payload => Sys2Proof.Machine.execFlitCallDone link seq ok credits payload s
  | .flitSpdm link seq ok credits payload => Sys2Proof.Machine.execFlitSpdm link seq ok credits payload s
  | .flitNak link seq ok credits payload => Sys2Proof.Machine.execFlitNak link seq ok credits payload s
  | .flitVersion link seq ok credits payload => Sys2Proof.Machine.execFlitVersion link seq ok credits payload s
  | .flitSuspect link seq ok credits payload => Sys2Proof.Machine.execFlitSuspect link seq ok credits payload s
  | .flitPeerAbort link seq ok credits payload => Sys2Proof.Machine.execFlitPeerAbort link seq ok credits payload s
  | .slotAnswerTimeout glade => Sys2Proof.Machine.execSlotAnswerTimeout glade s
  | .spdmGetVersion rsp common => Sys2Proof.Machine.execSpdmGetVersion rsp common s
  | .spdmGetCapabilities rsp => Sys2Proof.Machine.execSpdmGetCapabilities rsp s
  | .spdmNegotiateAlgorithms req => Sys2Proof.Machine.execSpdmNegotiateAlgorithms req s
  | .spdmGetDigests rsp => Sys2Proof.Machine.execSpdmGetDigests rsp s
  | .spdmGetCertificate req => Sys2Proof.Machine.execSpdmGetCertificate req s
  | .spdmChallenge req nonce => Sys2Proof.Machine.execSpdmChallenge req nonce s
  | .spdmGetMeasurements req nonce => Sys2Proof.Machine.execSpdmGetMeasurements req nonce s
  | .spdmKeyExchange rsp ses secret => Sys2Proof.Machine.execSpdmKeyExchange rsp ses secret s
  | .spdmFinish rsp ses => Sys2Proof.Machine.execSpdmFinish rsp ses s
  | .spdmKeyUpdate rsp ses => Sys2Proof.Machine.execSpdmKeyUpdate rsp ses s
  | .spdmHeartbeat rsp ses => Sys2Proof.Machine.execSpdmHeartbeat rsp ses s
  | .spdmEndSession rsp ses => Sys2Proof.Machine.execSpdmEndSession rsp ses s
  | .spdmUnsupported rsp => Sys2Proof.Machine.execSpdmUnsupported rsp s
  | .jobJoin ses serial pos => Sys2Proof.Machine.execJobJoin ses serial pos s
  | .quote ses nonce => Sys2Proof.Machine.execQuote ses nonce s
  | .sessionOpen ses => Sys2Proof.Machine.execSessionOpen ses s
  | .sessionClose ses handle => Sys2Proof.Machine.execSessionClose ses handle s
  | .weightInstall ses q va pos chunks => Sys2Proof.Machine.execWeightInstall ses q va pos chunks s
  | .imageKey ses key => Sys2Proof.Machine.execImageKey ses key s
  | .jobOpen request => Sys2Proof.Machine.execJobOpen request s
  | .jobClose ctx => Sys2Proof.Machine.execJobClose ctx s
  | .powerCapSet watts => Sys2Proof.Machine.execPowerCapSet watts s
  | .firmwareUpdate heart img secver sig => Sys2Proof.Machine.execFirmwareUpdate heart img secver sig s
  | .pldmMonitor => Sys2Proof.Machine.execPldmMonitor s
  | .packageNumberSet num canopy => Sys2Proof.Machine.execPackageNumberSet num canopy s
  | .usageRecordRequest ctx nonce => Sys2Proof.Machine.execUsageRecordRequest ctx nonce s
  | .powerFail => Sys2Proof.Machine.execPowerFail s
  | .quotaChange ctx graft usage occ => Sys2Proof.Machine.execQuotaChange ctx graft usage occ s
  | .tdispLockInterface vf => Sys2Proof.Machine.execTdispLockInterface vf s
  | .tdispStartInterface vf => Sys2Proof.Machine.execTdispStartInterface vf s
  | .ideKmKeyProg req => Sys2Proof.Machine.execIdeKmKeyProg req s
  | .atsTranslationCompletion vf page rd wr => Sys2Proof.Machine.execAtsTranslationCompletion vf page rd wr s
  | .agStorePerformed glade stem row => Sys2Proof.Machine.execAgStorePerformed glade stem row s
  | .flitIdle link seq ok credits => Sys2Proof.Machine.execFlitIdle link seq ok credits s
  | .histogramSecond temps mvs => Sys2Proof.Machine.execHistogramSecond temps mvs s

end Sys2Proof.Machine
end

