-- ==== Sys2Proof/Machine/Sched.lean ====
section
/-! DEFINITION. What moves next: the woodward of a glade (R77), the moves of a cy of a crown die in their order (R58, R60, R77), what arrives from outside, and time. -/

namespace Sys2Proof.Machine

/-! ## The woodward (R77, R115) -/

/-- An instruction of a block has all it needs to issue (R115, R164). -/
def Block.ready (b : Block) (i : Nat) : Bool :=
  let w := b.word i
  let q := b.predicate i (wordPred w)
  let agrees := if wordOpcode w = 0x021 then q.isSome else decide (q = some (!wordSense w))
  decide (i ∉ b.done) && agrees && decide (b.named .o i ≤ nget 0 b.toks i)
    && (!(wordSlots w).1 || (nfind b.opL i).isSome) && (!(wordSlots w).2 || (nfind b.opR i).isSome)

/-- The lowest instruction that is ready and has not found this round that it must wait; after the last of a round the next begins (DESIGN CHOICE, log entry 42). -/
def Block.pick (b : Block) : Option (Nat × Bool) :=
  let l := (List.range b.words.length).filter b.ready
  match l.find? fun i => decide (i ∉ b.stalled) with
  | some i => some (i, false)
  | none => l.head?.map fun i => (i, true)

/-- One cy of a woodward: a block is fetched, an instruction of it issues, or the block commits (R77). -/
def State.woodward (s : State) (g : Nat) : Outcome :=
  match s.block g with
  | none => execBlockFetch g s
  | some b => match b.pick with
    | none => execBlockCommit g s
    | some (k, again) =>
      let s := if again then s.modBlock g fun b => { b with stalled := [] } else s
      match Sys2Proof.decodeWord (b.word k) with
      | .ok i => exec i { s with focus := { glade := g, idx := k } }
      | .error _ => .fault .undecodable

/-! ## What arrives from outside (R12, R13, R311, R414 to R417, R428 to R455) -/

/-- The events whose cause lies outside the package: the host, the management plane, the parties, the partner packages, and physics. -/
def outside : Instr → Bool
  | .powerOn _ => true
  | .powerFail => true
  | .thermalShutdown => true
  | .clockStep _ _ => true
  | .lifetimeFlush => true
  | .histogramSecond _ _ => true
  | .vfReset _ => true
  | .tdispLockInterface _ => true
  | .tdispStartInterface _ => true
  | .tdiStop _ _ => true
  | .ideKmKeyProg _ => true
  | .registerWrite _ _ _ _ _ => true
  | .ringEnable _ _ _ _ => true
  | .ringTeardownDrain _ _ _ => true
  | .ringTeardownCancel _ _ _ => true
  | .ringWidxWrite _ _ _ _ => true
  | .ringFetch _ _ _ => true
  | .tinvPage _ _ _ => true
  | .tinvContext _ _ _ => true
  | .fqRcntWrite _ _ _ => true
  | .fqLostRead _ _ => true
  | .atsInvalidate _ _ _ => true
  | .atsTranslationCompletion _ _ _ _ => true
  | .prgResponse _ _ _ => true
  | .infieldTest _ _ => true
  | .moteReinjection _ _ => true
  | .laneFailure _ _ => true
  | .linkUp _ _ _ _ _ _ => true
  | .linkDown _ => true
  | .flitIdle _ _ _ _ => true
  | .flitData _ _ _ _ _ => true
  | .flitNotice _ _ _ _ _ => true
  | .flitSlotRes _ _ _ _ _ => true
  | .flitSlotAnswer _ _ _ _ _ => true
  | .flitSlotRelease _ _ _ _ _ => true
  | .flitSlotReclaim _ _ _ _ _ => true
  | .flitCall _ _ _ _ _ => true
  | .flitCallDone _ _ _ _ _ => true
  | .flitSpdm _ _ _ _ _ => true
  | .flitNak _ _ _ _ _ => true
  | .flitVersion _ _ _ _ _ => true
  | .flitSuspect _ _ _ _ _ => true
  | .flitPeerAbort _ _ _ _ _ => true
  | .spdmGetVersion _ _ => true
  | .spdmGetCapabilities _ => true
  | .spdmNegotiateAlgorithms _ => true
  | .spdmGetDigests _ => true
  | .spdmGetCertificate _ => true
  | .spdmChallenge _ _ => true
  | .spdmGetMeasurements _ _ => true
  | .spdmKeyExchange _ _ _ => true
  | .spdmFinish _ _ => true
  | .spdmKeyUpdate _ _ => true
  | .spdmHeartbeat _ _ => true
  | .spdmEndSession _ _ => true
  | .spdmUnsupported _ => true
  | .jobOpen _ => true
  | .jobClose _ => true
  | .jobJoin _ _ _ => true
  | .quote _ _ => true
  | .sessionOpen _ => true
  | .sessionClose _ _ => true
  | .imageKey _ _ => true
  | .weightInstall _ _ _ _ _ => true
  | .usageRecordRequest _ _ => true
  | .quotaChange _ _ _ _ => true
  | .powerCapSet _ => true
  | .packageNumberSet _ _ => true
  | .firmwareUpdate _ _ _ _ => true
  | .pldmMonitor => true
  | _ => false

/-- What arrives takes effect. -/
def State.arrival (s : State) : Arrival → Outcome
  | .event i => if outside i then exec i s else .next s
  | .flit l b => s.rawFlit l b
  | .hostBytes vf addr bs => .next (if vf < 64 ∧ addr + bs.length ≤ 2 ^ 55 then s.putNoted (hostAt vf + addr) bs [.host vf] else s)
  | .damage a => .next (s.damage a)
  | .parity g p m => .next (s.modStand g fun x => x.setPlane p { x.plane p with parity := some m })
  | .corrected item idx => .next (if item = 0 ∨ item = 2 ∨ item = 5 ∨ item = 6 ∨ item = 7 then s.life item idx 1 else s)

/-- The oldest arrival takes effect (DESIGN CHOICE, log entry 26). -/
def State.input (s : State) : Outcome :=
  match s.inputs with
  | [] => .next s
  | (_, a) :: t => ({ s with inputs := t } : State).arrival a

/-! ## The moves of a cy -/

/-- The moves by which the queues of a glade start entries: the head of each, timed or token-gated, and the mode entries that wait for room (R61, R289, R307). -/
def Engines.starts (e : Engines) (g : Nat) : List Move :=
  (List.range 5).flatMap fun q =>
    let timed := (e.head q).any (·.timed)
    (if timed || (e.queue q).any fun x => decide (x.kind = 7 ∧ x.state = 1) then [.entryStartTimed g q] else [])
      ++ if (e.head q).isSome && !timed then [.entryStartGated g q] else []

/-- The moves by which operations retire: one for each entry, so that every one that meets its condition retires in the cy (R62, R277). -/
def Engines.retires (e : Engines) (g : Nat) : List Move := (e.queues.flatMap (·.2)).map fun x => .entryRetire g x.tl

/-- The moves of a glade's AG elements: the oldest request of each is performed, and answered (R213). -/
def Thicket.agMoves (t : Thicket) (g : Nat) : List Move :=
  (t.elems.filter fun e => e.2.agOut ≠ []).flatMap fun e => [.agStorePerformed g (e.1 / 16) (e.1 % 16), .agReply g (e.1 / 16) (e.1 % 16)]

/-- The glade whose weight-load engine the decryptor of a clearing serves, every 16 cy (R305). -/
def State.wloadTurn (s : State) (g : Nat) : Bool :=
  let cy := (s.die (dieOf g)).cy
  let cand := (gladesOf (clearingOf g)).filter fun h => decide ((s.stand h).reload ≠ []) || ((s.eng h).queue 4).any fun x => decide (x.state = 1)
  decide (cy % 16 = 0) && decide (cand[cy / 16 % cand.length]? = some g)

/-- The bounded waits of a glade's block that have reached their limit (R158, R287, R341). -/
def State.waitMoves (s : State) (g : Nat) : List Move :=
  match s.block g with
  | none => []
  | some b =>
    let due := b.waits.filter fun x => decide ((s.ww g).waitlim ≤ x.2)
    (due.filterMap fun x => if x.1 = roomWait then none else some (.waitTimeout g x.1)) ++ (if due.any fun x => decide (x.1 = roomWait) then [.orderStall g] else [])
      ++ if b.asked ≠ [] then [.slotAnswerTimeout g] else []

/-- A raft has a tile in flight that passes the cipher block. -/
def Engines.ciphers (e : Engines) (raft : Nat) : Bool := (e.queue (1 + raft)).any fun x => x.cipher && decide (x.tiles ≠ [])

/-- The moves by which such tiles of some glades land: by ascending clearing, and within one round robin from the glade after the one its cipher block served last (R439). -/
def State.cipherMoves (s : State) (gs : List Nat) : List Move :=
  (ascending (gs.map clearingOf).eraseDups).flatMap fun c =>
    let mine := gs.filter fun g => decide (clearingOf g = c)
    let last := (s.clearing c).cipherLast
    ((mine.filter fun g => decide (last < g)) ++ mine.filter fun g => decide (g ≤ last)).flatMap fun g =>
      ((List.range 2).filter (s.eng g).ciphers).map (.raftTileLand g)

/-- The moves of a glade in a cy, in their order (DESIGN CHOICE, log entry 21). Set 0 asks for a steering number before set 1 (DESIGN CHOICE, log
entry 86). -/
def State.gladeMoves (s : State) (g : Nat) : List Move :=
  let x := s.glade g
  let e := x.cur.eng
  (x.walks.map fun _ => .walkComplete g) ++ (if s.links.any fun l => l.2.waiting ≠ [] then [.landingArrival g] else []) ++ e.starts g
    ++ (e.credits.map fun _ => .creditTimerFire g) ++ [.standFire g] ++ [.fernResultLand g, .resultLand g, .contextCycle g] ++ x.cur.th.agMoves g
    ++ [.standSlotRelease g, .standFireComplete g, .drainBeat g 0, .drainBeat g 1]
    ++ ((List.range 2).filter fun r => !e.ciphers r).map (.raftTileLand g) ++ [.raftNoticeServe g 0, .raftNoticeServe g 1, .moteArrival g]
    ++ (if s.wloadTurn g then [.wloadRegion g] else []) ++ e.retires g ++ s.waitMoves g ++ [.woodward g, .causes g]

/-- The moves of a quiesced glade in a cy: what R421 lets complete. -/
def State.frozenMoves (s : State) (g : Nat) : List Move :=
  (if s.links.any fun l => l.2.waiting ≠ [] then [.landingArrival g] else []) ++ (s.th g).agMoves g ++ [.drainBeat g 0, .drainBeat g 1]

/-- What a running glade begins a cy with: what the cy adds to the counts of discarded predictions, of which there are at most five, and of bank conflicts,
free values (R77, R405) (DESIGN CHOICE, log entry 20); the array's last cy counted, waits counted, orders and credits entered (R158, R286). -/
def State.openGlade (s : State) (g : Nat) : State :=
  let n := s.freeWord.toNat
  let s := (s.drawn.perf g 5 (n % 6)).perf g 14 (n / 6 % 2)
  let s := if s.cyAt g ≤ (s.stand g).busyUntil ∧ (s.stand g).busyUntil ≠ 0 then s.perf g 7 1 else s
  (s.countWaits g).modEng g Engines.flush

/-- The glades' part of a cy of a die begins: the usage of every placed glade, and the moves of the running ones (R402). -/
def State.openCy (s : State) (d : Nat) : State :=
  let mine := nkeys s.glades fun g x => decide (dieOf g = d) && x.cur.place.isSome
  let s := mine.foldl (fun s g => s.usage (s.ctxOf g) 7 1) s
  let run := mine.filter fun g => s.runs g
  let s := s.settleTears
  let live := run.filter fun g => !s.frozen g
  let s := live.foldl State.openGlade s
  { s with agenda := ((run.filter s.frozen).flatMap s.frozenMoves) ++ (live.flatMap s.gladeMoves) ++ s.cipherMoves live ++ s.agenda }

/-- The forester's moves before the glades' (R39, R51, R53, R55, R345, R420). -/
def State.foresterMoves (s : State) (d : Nat) : List Move :=
  let x := s.die d
  let on (p : Launch → Bool) (f : Nat → Move) : List Move := (nkeys x.launches fun _ l => p l).map f
  (x.launches.flatMap fun l => if l.2.stage = .running then (l.2.slots.filter fun m =>
      decide (x.cy - l.2.phaseCy = bits m.2.toNat 39 0) && bit m.2.toNat 63).map fun m => .timeSlotEvent d l.1 m.1 else [])
    ++ on (fun l => decide (l.stage = .placed ∨ l.stage = .ready)) (.launchStart d) ++ on (·.saveDue) (.boughSaveWrite d)
    ++ on (fun l => decide (l.stage = .eligible) && !l.boosted) (.launchBoost d) ++ on (fun l => l.headAt.isSome && !l.reserving) (.reservingTimeout d)
    ++ if x.cy % 64 = 0 then [.selectionPass d] else []

/-- The moves after the glades': what their accesses evict (R238), then the forester's (R42 to R46, R187). -/
def State.foresterEnd (s : State) (d : Nat) : List Move :=
  let x := s.die d
  .evictions :: (x.launches.flatMap fun l => if l.2.stage = .running then
    ((List.range l.2.units.length).map fun u => .unitComplete d l.1 u) ++ [.phaseBoundary d l.1, .phaseLimitExpiry d l.1] else [])
    ++ ((nkeys s.clearings fun c y => decide (c / 16 = d) && y.requested).map .infieldTest) ++ [.cancelProcess d]

/-- The moves of a function at the port (R251 to R253, R311, R447). -/
def Fn.moves (wall f : Nat) (x : Fn) : List Move :=
  (x.rings.flatMap fun r => if r.2.st = 1 ∧ r.2.ridx ≠ r.2.widx then [.ringFetch f r.1] else if r.2.st = 2 then [.ringDrainComplete f r.1] else [])
    ++ (if x.tinvQ ≠ [] then [.tinvComplete f] else []) ++ (if x.invQ ≠ [] then [.invalidated f] else []) ++ ((x.pages.filter fun h => decide (h.wait = .queued)).map fun h => .pageRequest f h.page)
    ++ ((x.prq.filter fun e => decide (e.2.at_ + 100 * msWall ≤ wall)).map fun e => .prgTimeout f e.1) ++ x.msixPend.map fun v => .msixMessage f v

/-- The moves of what the package has once (R52, R314, R344, R361, R375, R406). -/
def State.packageMoves (s : State) : List Move :=
  if s.pk.power ≠ 1 then []
  else
    (s.fns.flatMap fun f => f.2.moves s.wall f.1) ++ ((nkeys s.jobs fun _ j => decide (j.periodAt + msWall * j.period ≤ s.wall)).map .periodRollover)
      ++ (s.links.filterMap fun l => l.2.lostAt.map fun _ => .peerReclaimTimeout l.2.peer) ++ (s.links.flatMap fun l => l.2.calls.map fun _ => .linkCall l.1)
      ++ (nkeys s.links fun _ l => decide (l.st ≠ .absent ∧ l.st ≠ .down) && l.credits.any fun c => decide (c.2 ≠ 0)).map .creditIdle
      ++ ((nkeys s.grafts fun _ x => decide (x.st = .fetching)).flatMap fun e => [.graftFetchTimeout e, .graftFetchComplete e])
      ++ ((nkeys s.grafts fun _ x => x.late.isSome || x.drop).map .graftSettle)
      ++ (s.dies.flatMap fun d => (nkeys d.2.seeds fun _ b => b.isOpen && decide (b.st = .replay)).map fun k => .seedReplayStep d.1 k)
      ++ (if s.orphans ≠ [] then [.orphans] else []) ++ if s.pk.lastFlush + 3600000 * msWall ≤ s.wall then [.lifetimeFlush] else []

/-! ## Time (R6, R454) -/

/-- The die whose next cy comes first; none while no die runs. -/
def State.nextDie (s : State) : Option Nat :=
  let ds := nkeys s.dies fun _ d => !d.held
  if s.pk.power ≠ 1 then none
  else match ds with
    | [] => none
    | d :: t => some (t.foldl (fun b d => if (s.die d).nextEdge < (s.die b).nextEdge then d else b) d)

/-- When the next cy of any die begins. -/
def State.nextEdge (s : State) : Nat :=
  match s.nextDie with
  | some d => (s.die d).nextEdge
  | none => s.wall + cyWall 0

/-- A cy of a die begins, or while none runs a cy's time passes. -/
def State.edge (s : State) : State :=
  let s' : State := { s with wall := max s.wall s.nextEdge }
  match s.nextDie with
  | none => { s' with agenda := s'.packageMoves }
  | some d =>
    let s := s'.modDie d fun x => { x with cy := x.cy + 1, nextEdge := x.nextEdge + cyWall x.clock }
    { s with agenda := s.packageMoves ++ s.foresterMoves d ++ [.cyOpen d] ++ s.foresterEnd d }

/-- Nothing is left to do now: the next arrival, or the next cy. -/
def State.tick (s : State) : State :=
  match s.inputs with
  | (t, _) :: _ => if t ≤ s.nextEdge then { s with wall := max s.wall t, agenda := [.input] } else s.edge
  | [] => s.edge

/-! ## Moves -/

/-- The forester runs the test of a clearing that is due (R187, R426); what it finds is a free value (DESIGN CHOICE, log entry 47). -/
def State.runTest (s : State) (c : Nat) : Outcome := if s.testDue c then execInfieldTest c (s.freeWord.getLsbD 0) s.drawn else .next s

/-- A move of the agenda. -/
def runMove (m : Move) (s : State) : Outcome :=
  match m with
  | .cyOpen d => .next (s.openCy d)
  | .woodward g => s.woodward g
  | .causes g => .next (s.deliverCauses g)
  | .input => s.input
  | .walkComplete g => execWalkComplete g s
  | .contextCycle g => execContextCycle g s
  | .resultLand g => execResultLand g s
  | .fernResultLand g => execFernResultLand g s
  | .agReply g st k => execAgReply g st k s
  | .agStorePerformed g st k => execAgStorePerformed g st k s
  | .entryStartTimed g q => execEntryStartTimed g q s
  | .entryStartGated g q => execEntryStartGated g q s
  | .entryRetire g q => execEntryRetire g q s
  | .creditTimerFire g => execCreditTimerFire g s
  | .standFire g => execStandFire g s
  | .standSlotRelease g => execStandSlotRelease g s
  | .standFireComplete g => execStandFireComplete g s
  | .drainBeat g t => execDrainBeat g t s
  | .raftNoticeServe g r => execRaftNoticeServe g r s
  | .raftTileLand g r => execRaftTileLand g r s
  | .wloadRegion g => execWloadRegion g s
  | .moteArrival g => execMoteArrival g s
  | .landingArrival g => execLandingArrival g s
  | .seedReplayStep d k => execSeedReplayStep d k s
  | .graftFetchComplete e => execGraftFetchComplete e s
  | .graftFetchTimeout e => execGraftFetchTimeout e s
  | .graftSettle e => execGraftSettle e s
  | .waitTimeout g k => execWaitTimeout g k s
  | .orderStall g => execOrderStall g s
  | .slotAnswerTimeout g => execSlotAnswerTimeout g s
  | .selectionPass d => execSelectionPass d s
  | .launchBoost d n => execLaunchBoost d n s
  | .reservingTimeout d n => execReservingTimeout d n s
  | .launchStart d n => execLaunchStart d n s
  | .unitComplete d n u => execUnitComplete d n u s
  | .phaseBoundary d n => execPhaseBoundary d n s
  | .boughSaveWrite d n => execBoughSaveWrite d n s
  | .phaseLimitExpiry d n => execPhaseLimitExpiry d n s
  | .cancelProcess d => execCancelProcess d s
  | .timeSlotEvent d n m => execTimeSlotEvent d n m s
  | .infieldTest c => s.runTest c
  | .periodRollover c => execPeriodRollover c s
  | .ringFetch f r => execRingFetch f r true s
  | .ringDrainComplete f r => execRingDrainComplete f r s
  | .tinvComplete f => execTinvComplete f s
  | .pageRequest f p => execPageRequest f p s
  | .prgTimeout f k => execPrgTimeout f k s
  | .msixMessage f v => execMsixMessage f v s
  | .peerReclaimTimeout p => execPeerReclaimTimeout p s
  | .linkCall l => .next (s.takeCall l)
  | .creditIdle l => .next (s.sendCredits l)
  | .invalidated f => .next (s.invalidated f)
  | .orphans => .next s.settleOrphans
  | .evictions => .next s.settleTouches
  | .lifetimeFlush => execLifetimeFlush s

/-- The next element of a context cycle in progress enters its lines and issues its op word (R64, R65), or the context cycle ends. -/
def State.element (s : State) (c : Cyc) : Outcome :=
  match c.todo with
  | [] => .next (s.endCycle c)
  | (st, k) :: _ => match s.nextElement c st k with
    | (s, none) => .next s
    | (s, some w) => match Sys2Proof.decodeOp w with
      | .ok i => exec i s
      | .error _ => .fault .undecodable

end Sys2Proof.Machine
end

