-- ==== Sys2Proof/Machine/Step.lean ====
section
/-! DEFINITION. One step of the package, and where a step fetches its next instruction. -/

namespace Sys2Proof.Machine

/-- One step: the next element of a context cycle in progress, else the next move of the agenda, else time goes on. -/
def step (s : State) : Host.Outcome State Fault Refusal :=
  match s.cyc with
  | some c => s.element c
  | none => match s.agenda with
    | m :: t => runMove m { s with agenda := t }
    | [] => .next s.tick

/-- The state with an instruction where the next step fetches it: an op word of 24 bits in the op ring of stem 0 of glade 0, in a context cycle in which row
0 is to issue; a woodward word of 64 bits as instruction 0 of the block in flight at glade 0, whose slots hold 0, whose predicates agree with the word, and whose
header has the atomic flag and room for 16 effects (DESIGN CHOICE, log entry 18). -/
def State.withFetchWord (s : State) (nbits w : Nat) : State :=
  if nbits = 24 then
    let t := s.th 0
    let b := s.bough 0
    let t := { t with run := some { opnum := 1, first := t.cnt, len := 1, mods := [], seqid := 0, pos := 0, key := none } }.modStem 0 fun x =>
      { x with op := [BitVec.ofNat 24 w] }
    let s := s.modTh 0 fun _ => t
    { s with cyc := some { glade := 0, todo := [(0, 0)], saved := { b with th := t } } }
  else
    let s := s.modWw 0 fun x => { x with started := true, block := some {
      addr := 0, h1 := BitVec.ofNat 64 (2 ^ 39 + 2 ^ 11), words := [BitVec.ofNat 64 w], qf := if (BitVec.ofNat 64 w).getLsbD 50 then 0 else 0xFFFF
      opL := [(0, 0)], opR := [(0, 0)] } }
    { s with cyc := none, agenda := .woodward 0 :: s.agenda }

end Sys2Proof.Machine
end

