-- ==== Sys2Proof/Safety.lean ====
section
/-! DEFINITION. What counts as a safe state and a safe run. -/

namespace Sys2Proof

/-- A state is sound: its memory is in the canonical form. -/
def Safe (s : Machine.State) : Prop := Machine.Memory.wf s.mem = true

/-- A run of n steps from a state neither faults nor is refused, and ends in a sound state. -/
def SafeRun (n : Nat) (s : Machine.State) : Prop := ∃ t, core.run n s = .next t ∧ Safe t

end Sys2Proof
end

