-- ==== Sys2Proof/Safety/Claims.lean ====
section
/-! DEFINITION. The terms the statements are phrased in: when an instruction of a block can deliver what it makes, the block and the state it then leaves, and
what such a state shares with the one before. -/

namespace Sys2Proof.Machine

/-- Two targets do not name the same value slot; tokens of slot O add up (R114, R115). -/
def Target.apart (t u : Target) : Prop := t.slot = .o ∨ t.slot ≠ u.slot ∨ t.index ≠ u.index

/-- The slot a target names holds no value yet (R115). -/
def Block.freeFor (b : Block) (t : Target) : Prop :=
  match t.slot with
  | .l => nfind b.opL t.index.toNat = none
  | .r => nfind b.opR t.index.toNat = none
  | .q => nfind b.opQ t.index.toNat = none
  | .o => True

/-- An instruction's targets can all take what it delivers, and its effects fit the block's socount (R112, R115, R146). -/
def Fx.fits (x : Fx) (h : Hdr) (eff : Nat) : Prop :=
  x.b.effects + eff ≤ x.b.socount ∧ (hdrTargets h).Pairwise Target.apart ∧ ∀ t ∈ hdrTargets h, x.b.freeFor t

/-- A block once a value and token have gone to one target (R114). -/
def Block.put (v : Word) (b : Block) (t : Target) : Block :=
  match t.slot with
  | .l => { b with opL := nset b.opL t.index.toNat v }
  | .r => { b with opR := nset b.opR t.index.toNat v }
  | .q => { b with opQ := nset b.opQ t.index.toNat v }
  | .o => { b with toks := nmod 0 b.toks t.index.toNat (· + 1) }

/-- The block once an instruction has executed: it is marked, its effects are counted, `f` is what it leaves, and its value goes to its targets. -/
def Fx.after (x : Fx) (h : Hdr) (v : Word) (eff : Nat) (f : Block → Block) : Block :=
  (hdrTargets h).foldl (Block.put v) (f { x.b with done := x.b.done ++ [x.i], effects := x.b.effects + eff })

/-- The state in which only the block of one glade differs. -/
def State.withBlock (s : State) (g : Nat) (b : Block) : State := s.modWw g fun w => { w with block := some b }

/-- The state once an instruction of a block has executed. -/
def State.executed (s : State) (x : Fx) (h : Hdr) (v : Word) (eff : Nat) (f : Block → Block) : State := s.withBlock x.g (x.after h v eff f)

/-- An instruction of a block completes with a value, effects and what `f` leaves in the block. -/
def Completes (i : Instr) (s : State) (x : Fx) (h : Hdr) (v : Word) (eff : Nat) (f : Block → Block) : Prop :=
  exec i s = .next (s.executed x h v eff f)

/-- As `Completes`, from a state that the access on the way to its place has left: what that changes is a translation the glade now caches too (R250) and
the counts of reads of HBM (R243). -/
def CompletesFrom (t : State) (i : Instr) (s : State) (x : Fx) (h : Hdr) (v : Word) (eff : Nat) (f : Block → Block) : Prop :=
  exec i s = .next (t.executed x h v eff f)

/-- An instruction of a block completes and only delivers a value: it has no effect beside it. -/
def Delivers (i : Instr) (s : State) (x : Fx) (h : Hdr) (v : Word) : Prop := Completes i s x h v 0 id

/-- An instruction of a block completes with a value, one effect and sectors or table entries read (R112, R319). -/
def Queries (i : Instr) (s : State) (x : Fx) (h : Hdr) (v : Nat) (reads : List Sect) : Prop :=
  Completes i s x h (BitVec.ofNat 64 v) 1 fun b => b.read reads

/-- As `Queries`, with a change noted for the commit (R320). -/
def Notes (i : Instr) (s : State) (x : Fx) (h : Hdr) (v : Nat) (reads : List Sect) (p : Pend) : Prop :=
  Completes i s x h (BitVec.ofNat 64 v) 1 fun b => (b.read reads).addPend x.i p

/-- As `Queries` and `Notes`, from a state that the walker of a seed bank has left on its way to the bank's lines (R354, R355). -/
def QueriesFrom (t : State) (i : Instr) (s : State) (x : Fx) (h : Hdr) (v : Nat) (reads : List Sect) : Prop :=
  CompletesFrom t i s x h (BitVec.ofNat 64 v) 1 fun b => b.read reads

def NotesFrom (t : State) (i : Instr) (s : State) (x : Fx) (h : Hdr) (v : Nat) (reads : List Sect) (p : Pend) : Prop :=
  CompletesFrom t i s x h (BitVec.ofNat 64 v) 1 fun b => (b.read reads).addPend x.i p

/-- Every change the block has noted is ordered with the instruction by a chain of targets (R257, R320). -/
def Fx.ordered (x : Fx) : Prop := ∀ p ∈ x.b.pend, p.1 = x.i ∨ x.b.after p.1 x.i = true ∨ x.b.after x.i p.1 = true

/-- A field of `len` bits at `pos` of a number. -/
def field (n pos len : Nat) : Nat := n / 2 ^ pos % 2 ^ len

/-- What an instruction of a block may change before the block commits: nothing outside its block. Registers, predicates and system registers of every glade,
memory and tables are those before (R144). -/
def SameButBlock (s t : State) (g : Nat) : Prop :=
  t = { s with glades := t.glades } ∧ (∀ a, memGet t.mem a = memGet s.mem a) ∧
    ∀ h, t.glade h = if h = g then { s.glade h with cur := { s.bough h with ww := { s.ww h with block := t.block h } } } else s.glade h

/-- An element operation gives a value with generated residue after `lam` context cycles, with the tags of the values read (R190, R199, R200). -/
def Gives (i : Instr) (s : State) (lam : Nat) (d : Dest) (reads : List Val) (w : Word) : Prop :=
  exec i s = .next ((s.result lam d (mkG reads w)).mism (mismG reads))

/-- A function of the lanes of an integer type: two lanes of 32 bits or one of 64 (R198). -/
def eachLane (ty : IntType) (f : (n : Nat) → BitVec n → BitVec n → BitVec n) (a b : Word) : Word :=
  if ty = .s32 ∨ ty = .z32 then f 32 (a.extractLsb' 32 32) (b.extractLsb' 32 32) ++ f 32 (a.extractLsb' 0 32) (b.extractLsb' 0 32) else f 64 a b

/-- A lane as the integer its type reads it as (R207). -/
def laneInt (ty : IntType) {n : Nat} (x : BitVec n) : Int := if ty = .s32 ∨ ty = .s64 then x.toInt else x.toNat

/-- The position of the focused element in its random stream (R206, R401). -/
def State.drawPos (s : State) : Nat := 4 * s.elemF.rblk + s.elemF.rword

/-- The next `n` words of the focused element's stream under a key (R206, R401). -/
def State.drawWords (s : State) (key : Word) (n : Nat) : List Nat :=
  (List.range n).map fun j => philoxWord key s.runF.seqid.toNat s.runF.pos.toNat s.pathF ((s.drawPos + j) / 4) ((s.drawPos + j) % 4)

/-- The state with the focused element's stream moved on by `n` words (R401). -/
def State.drawMoved (s : State) (n : Nat) : State := s.modElemF fun e => { e with rblk := (s.drawPos + n) / 4, rword := (s.drawPos + n) % 4 }

/-- An operation that converts `n` values: in a mode other than RSTO it draws nothing; under RSTO it draws one word for each value (R97), and without a latched key raises
SAMPLE_KEY_NONE (0x088, R201), its TRAP.VALUE a free value (log entry 2). -/
def Converts (i : Instr) (s : State) (n lam : Nat) (d : Dest) (reads : List Val) (f : Rm → Sat → List Nat → Word) : Prop :=
  (s.modesF.1 ≠ .rsto → Gives i s lam d reads (f s.modesF.1 s.modesF.2 []))
  ∧ (s.modesF.1 = .rsto → s.runF.key = none → exec i s = .next (s.faultCycOpen 0x088))
  ∧ (s.modesF.1 = .rsto → ∀ key, s.runF.key = some key → s.elemF.rword < 4 → s.drawPos + n ≤ 2 ^ 34 →
      exec i s = .next (((s.drawMoved n).result lam d (mkG reads (f .rsto s.modesF.2 (s.drawWords key n)))).mism (mismG reads)))

/-- The state once an AG element has given its address: the value carries the tags of A (R212). -/
def State.agGave (s : State) (d : Dest) (w : Word) (reads : List Val) : State :=
  (s.result 1 d { mkG reads w with valid := s.lineA.valid, edm := s.lineA.edm, last := s.lineA.last }).mism (mismG reads)

/-- An AG operation that asks for memory (R212 to R214): its address is given; where the request has room and is granted it joins the element's outstanding ones, where it
faults the cause and address are kept for the context cycle, and where there is no room the glade holds. -/
def Asks (i : Instr) (s : State) (d : Dest) (w : Word) (reads : List Val) (sp : Space) (n : Nat) (kind : AgKind) (acc : AccKind) (operand : Word) : Prop :=
  let t := s.agGave d w reads
  let g := s.focus.glade
  let e := t.elemF
  let a := (cvtaFrom sp w).toNat
  let room := e.agOut.length < 32 ∧ (kind ≠ .store → e.agRep.length + (e.agOut.countP fun r => r.kind ≠ .store) < 32)
  (room → ∀ phys, t.resolve g a n n acc true = .ok phys →
    exec i s = .next ((t.served g a phys 0).modElemF fun e => { e with agOut := e.agOut ++ [
      { issued := s.wall, uid := t.runUid g, kind := kind, gaddr := a, phys := phys, key := t.pageKey g a, size := n, operand := operand, edm := s.lineA.edm, last := s.lineA.last,
        asOf := s.free, blind := t.agBlind phys n }] }))
  ∧ (room → ∀ c, t.resolve g a n n acc true = .fault c → exec i s = .next (t.faultCyc c a))
  ∧ (¬room → exec i s = .next t.holdCyc)

/-- The fixed pairwise tree over 2^n leaves from leaf `i` on, left before right (R108). -/
def treeFrom {α : Type} (f : α → α → α) (x : Nat → α) : Nat → Nat → α
  | 0, i => x i
  | n + 1, i => f (treeFrom f x n i) (treeFrom f x n (i + 2 ^ n))

/-- What the focused row contributes to its reduction: absent where the mask bit of C is 0 (R215). -/
def State.redLeaf (s : State) (msk : Bool) : RedLeaf :=
  { present := !msk || s.lineC.data.getLsbD 0, a := s.lineA, b := s.lineB, cbad := msk && (s.lineC.err || s.lineC.mismatch) }

/-- The sixteen leaves of the reduction that row 15 completes: rows 0 to 14 as they issued the same count, and row 15's own (R215). -/
def State.redLeaves (s : State) (msk : Bool) : List RedLeaf :=
  (List.range 15).map (fun i => nget ⟨false, {}, {}, false⟩ s.stemF.leaves (16 * s.countF + i)) ++ [s.redLeaf msk]

/-- A reducing operation (R215, R216): rows 0 to 14 keep their leaf and give nothing; row 15 gives the results over the sixteen leaves, the first at latency `lam` and each
further one a context cycle later, with the tags of the contributing values, err also from any row's mask. -/
def Reduces (i : Instr) (s : State) (msk : Bool) (lam : Nat) (d : Dest) (reads : RedLeaf → List Val) (results : List RedLeaf → List Word) : Prop :=
  ∃ t : State, exec i s = .next t ∧ t.mem = s.mem
    ∧ nfind t.stemF.leaves (16 * s.countF + s.focus.row) = some (s.redLeaf msk)
    ∧ (∀ j, j ≠ s.focus.row → nfind t.stemF.leaves (16 * s.countF + j) = nfind s.stemF.leaves (16 * s.countF + j))
    ∧ (s.focus.row ≠ 15 → t.elemF = s.elemF)
    ∧ (s.focus.row = 15 → let ls := s.redLeaves msk
        let val (w : Word) : Val := let v := mkG ((ls.filter (·.present)).flatMap reads) w; { v with err := v.err || ls.any (·.cbad) }
        t.elemF.flight = s.elemF.flight ++ if d = .dis then [] else (results ls).mapIdx fun n w => Flight.mk (s.cntF + (lam + n)) s.cntF (val w) (decide (d = .rso)) none)

/-- The head of queue QA of a JOIN element is taken (R220). -/
def Elem.tookA (e : Elem) (lv : Nat) (h : Val) : Elem :=
  { e with qa := e.qa.tail, doneA := if h.last || (decide (0 < lv) && decide (lv ≤ h.edm.toNat)) then some (h.edm, h.last) else e.doneA }

/-- The head of queue QB of a JOIN element is taken (R220). -/
def Elem.tookB (e : Elem) (lv : Nat) (h : Val) : Elem :=
  { e with qb := e.qb.tail, doneB := if h.last || (decide (0 < lv) && decide (lv ≤ h.edm.toNat)) then some (h.edm, h.last) else e.doneB }

/-- 1 where a value's residue disagrees with its data: what a failed prediction adds to the mismatches counted (R199). -/
def Val.wrong (v : Val) : Nat := if v.residue.toNat = v.data.toNat % 15 then 0 else 1

/-- One issue of a JOIN element makes the element `e` and delivers `v` two context cycles on (R200, R220). -/
def Joins (i : Instr) (s : State) (d : Dest) (e : Elem) (v : Val) : Prop :=
  exec i s = .next (((s.modElemF fun _ => e).result 2 d v).mism (mismG [s.lineA, s.lineB] + v.wrong))

/-- A value whose residue agrees with its data. -/
def Val.agrees (v : Val) : Prop := v.residue.toNat = v.data.toNat % 15

/-- An instruction or event leads to a next state of which `P` holds. -/
def Reaches (i : Instr) (s : State) (P : State → Prop) : Prop := ∃ t, exec i s = .next t ∧ P t

/-- An access to a function's register: answered with retry before the host port is up (R453), refused as unsupported where the port does not enumerate the function (R27), or
it is in RUN and the T bit is clear (R446), else `t` follows. -/
def Writes (i : Instr) (s : State) (fn off : Nat) (tbit : Bool) (t : State) : Prop :=
  let refused := (fn ≠ 0 ∧ s.pk.partOk = false) ∨ ((s.fn fn).tdi = .run ∧ tbit = false)
  (s.pk.power = 0 → exec i s = .next (s.emit (.retry fn)))
  ∧ (s.pk.power ≠ 0 → refused → exec i s = .next (s.emit (.unsupported fn off))) ∧ (s.pk.power ≠ 0 → ¬refused → exec i s = .next t)

/-- The state with a ring of a VF changed. -/
def State.withRing (s : State) (vf ring : Nat) (f : Ring → Ring) : State :=
  s.modFn vf fun x => { x with rings := nset x.rings ring (f (nget {} x.rings ring)) }

/-- The state once the flit next in sequence on a link has been taken, with what it credits (R449, R451). -/
def State.took (s : State) (l seq n : Nat) : State :=
  (s.modLink l fun x => { x with rxSeq := x.rxSeq + 1, tagFails := x.tagFails.filter fun f => decide (f.1 ≠ seq) }).ack l n

/-- A flit on a link (R449, R451): before the link is up, but for kinds CTRL and SPDM (`early`), it is dropped; one whose tag fails is answered by a NAK, and one that has failed
seven times before retrains the link too; one delivered before is dropped; one ahead of its sequence is kept; of the next in sequence `go` follows from the state that took it, and the flits
that waited for it come after. -/
def FlitIn (i : Instr) (s : State) (l kind seq : Nat) (ok : Bool) (n : Nat) (p : List Byte) (early : Bool) (go : State → State) : Prop :=
  let x := s.link l
  let isOpen := x.st = .up ∨ (early = true ∧ x.st ≠ .absent)
  let failed := (s.modLink l fun x => { x with tagFails := nmod 0 x.tagFails seq (· + 1) }).sendFlit l 7 (toBytes 8 2 ++ toBytes 8 seq ++ List.replicate 212 0)
  (¬isOpen → exec i s = .next s)
  ∧ (isOpen → ok = false → nget 0 x.tagFails seq < 7 → exec i s = .next failed)
  ∧ (isOpen → ok = false → 7 ≤ nget 0 x.tagFails seq → exec i s = .next (failed.retrain l))
  ∧ (isOpen → ok = true → seq < x.rxSeq → exec i s = .next s)
  ∧ (isOpen → ok = true → x.rxSeq < seq → (∀ f ∈ x.ahead, f.1 ≠ seq) →
      exec i s = .next (s.modLink l fun x => { x with ahead := x.ahead ++ [(seq, kind, n, p)] }))
  ∧ (isOpen → ok = true → seq = x.rxSeq → exec i s = .next (drainAhead l x.ahead.length (go (s.took l seq n))))

/-- The byte that bytes laid over physical pieces in order put at an address, if they put one. -/
def placedAt : List (Nat × Nat) → List Byte → Nat → Option Byte
  | [], _, _ => none
  | (p, n) :: t, bs, a => match placedAt t (bs.drop n) a with
    | some b => some b
    | none => if p ≤ a ∧ a < p + n then (bs.take n)[a - p]? else none

/-- The special registers of a woodward: all it holds but general registers, predicates, the performance counters, TASK.ABORTS, and where its program stands. -/
def Woodward.special (w : Woodward) : Woodward :=
  { w with g := [], q := 0, perf := [], aborts := 0, block := none, fetch := 0, label := none, lastTs := none, link := 0, halted := false, markAt := [] }

end Sys2Proof.Machine
end

