-- ==== Sys2Proof/Certificates/Slice0/Obligations.lean ====
section
/-! DEFINITION. The statements for the provers. -/

open Sys2Proof Sys2Proof.Machine

/-! ## Values: the integer, compare, modular and address instructions -/

/-- R160, R161: what the two-operand integer instructions deliver to their targets, with no other effect, where they issue and their targets are free. -/
def Parts.IntegerPairResults : Prop :=
  ∀ (s : State) (h : Hdr) (x : Fx), s.fx h true true = some x → x.fits h 0 →
    let l := x.l; let r := x.r; let k := r.toNat % 64
    Delivers (.add h) s x h (BitVec.ofNat 64 (l.toNat + r.toNat)) ∧ Delivers (.sub h) s x h (BitVec.ofInt 64 ((l.toNat : Int) - r.toNat))
    ∧ Delivers (.mul h) s x h (BitVec.ofNat 64 (l.toNat * r.toNat)) ∧ Delivers (.mulhS h) s x h (BitVec.ofInt 64 (l.toInt * r.toInt / 2 ^ 64))
    ∧ Delivers (.mulhZ h) s x h (BitVec.ofNat 64 (l.toNat * r.toNat / 2 ^ 64))
    ∧ Delivers (.and h) s x h (l &&& r) ∧ Delivers (.or h) s x h (l ||| r) ∧ Delivers (.xor h) s x h (l ^^^ r) ∧ Delivers (.andn h) s x h (l &&& ~~~r)
    ∧ Delivers (.shl h) s x h (BitVec.ofNat 64 (l.toNat * 2 ^ k)) ∧ Delivers (.shr h) s x h (BitVec.ofNat 64 (l.toNat / 2 ^ k))
    ∧ Delivers (.sar h) s x h (BitVec.ofInt 64 (l.toInt / 2 ^ k)) ∧ Delivers (.rol h) s x h (l <<< k ||| l >>> (64 - k))
    ∧ Delivers (.minS h) s x h (if l.toInt ≤ r.toInt then l else r) ∧ Delivers (.maxS h) s x h (if l.toInt ≤ r.toInt then r else l)
    ∧ Delivers (.minZ h) s x h (if l.toNat ≤ r.toNat then l else r) ∧ Delivers (.maxZ h) s x h (if l.toNat ≤ r.toNat then r else l)
    ∧ Delivers (.divS h) s x h (if r = 0 then BitVec.ofInt 64 (-1) else BitVec.ofInt 64 (l.toInt.tdiv r.toInt))
    ∧ Delivers (.remS h) s x h (if r = 0 then l else BitVec.ofInt 64 (l.toInt.tmod r.toInt))
    ∧ Delivers (.divZ h) s x h (if r = 0 then BitVec.ofNat 64 (2 ^ 64 - 1) else BitVec.ofNat 64 (l.toNat / r.toNat))
    ∧ Delivers (.remZ h) s x h (if r = 0 then l else BitVec.ofNat 64 (l.toNat % r.toNat))

/-- R162, R163, R167, R117: what the one-operand integer and field instructions deliver, every field bit by bit, for every field the decoder admits. -/
def Parts.IntegerFieldResults : Prop :=
  (∀ (s : State) (h : Hdr) (x : Fx), s.fx h true false = some x → x.fits h 0 →
    let l := x.l
    Delivers (.not h) s x h (~~~l) ∧ Delivers (.mov h) s x h l
    ∧ (∃ v, Delivers (.clz h) s x h v ∧ v.toNat ≤ 64 ∧ (∀ k < v.toNat, l.getLsbD (63 - k) = false) ∧ (v.toNat < 64 → l.getLsbD (63 - v.toNat) = true))
    ∧ (∃ v, Delivers (.ctz h) s x h v ∧ v.toNat ≤ 64 ∧ (∀ k < v.toNat, l.getLsbD k = false) ∧ (v.toNat < 64 → l.getLsbD v.toNat = true))
    ∧ Delivers (.popc h) s x h (BitVec.ofNat 64 ((List.range 64).countP fun k => l.getLsbD k))
    ∧ (∀ imm, Delivers (.addi h imm) s x h (l + imm.signExtend 64))
    ∧ Delivers (.sext h .w8) s x h ((l.setWidth 8).signExtend 64) ∧ Delivers (.sext h .w16) s x h ((l.setWidth 16).signExtend 64)
    ∧ Delivers (.sext h .w32) s x h ((l.setWidth 32).signExtend 64)
    ∧ Delivers (.zext h .w8) s x h ((l.setWidth 8).setWidth 64) ∧ Delivers (.zext h .w16) s x h ((l.setWidth 16).setWidth 64)
    ∧ Delivers (.zext h .w32) s x h ((l.setWidth 32).setWidth 64)
    ∧ (∀ pos len1 : BitVec 6, pos.toNat + (len1.toNat + 1) ≤ 64 → ∃ v, Delivers (.bext h pos len1) s x h v ∧
        ∀ k < 64, v.getLsbD k = (decide (k ≤ len1.toNat) && l.getLsbD (pos.toNat + k)))
    ∧ (∀ (lane : BitVec 2) (imm : BitVec 16), ∃ v, Delivers (.movhi h lane imm) s x h v ∧
        ∀ k < 64, v.getLsbD k = if k / 16 = lane.toNat then imm.getLsbD (k % 16) else l.getLsbD k))
  ∧ ∀ (s : State) (h : Hdr) (x : Fx), s.fx h true true = some x → x.fits h 0 →
      ∀ pos len1 : BitVec 6, pos.toNat + (len1.toNat + 1) ≤ 64 → ∃ v, Delivers (.bins h pos len1) s x h v ∧
        ∀ k < 64, v.getLsbD k = if pos.toNat ≤ k ∧ k ≤ pos.toNat + len1.toNat then x.r.getLsbD (k - pos.toNat) else x.l.getLsbD k

/-- R160 to R163, R167, R117: what the integer and field instructions deliver. -/
def Obligations.IntegerResults : Prop := Parts.IntegerPairResults ∧ Parts.IntegerFieldResults

/-- R163, R167, R168, R169, R176, R178, R179: what the instructions without an operand deliver or count: the immediate, the sequential value of a register
(g0 is 0), an aperture base, the block's timestamp, TASK.FLOOR or TASK.ABORTS; LAND and TSK.YIELD do nothing else, NULL counts its effects. That TSK.YIELD only
bounds prediction, of which this model has none, is log entry 6. -/
def Parts.ValuesWithoutOperand : Prop :=
  ∀ (s : State) (h : Hdr) (x : Fx), s.fx h false false = some x →
    (x.fits h 0 →
      (∀ imm, Delivers (.movi h imm) s x h (imm.signExtend 64))
      ∧ (∀ g : BitVec 6, Delivers (.rdg h g) s x h (if g = 0 then 0 else nget 0 (s.ww x.g).g g.toNat))
      ∧ Delivers (.aperq h .loc) s x h 0xFF00000000000000 ∧ Delivers (.aperq h .shr) s x h 0xFF00000100000000
      ∧ Delivers (.aperq h .clu) s x h 0xFF00000200000000 ∧ Delivers (.aperq h .gl) s x h 0 ∧ Delivers (.aperq h .gen) s x h 0
      ∧ Delivers (.tskQuery h .ts) s x h (BitVec.ofNat 64 x.b.ts) ∧ Delivers (.tskQuery h .floor) s x h (s.ww x.g).floor
      ∧ Delivers (.tskQuery h .aborts) s x h (s.ww x.g).aborts
      ∧ Delivers (.tskYield h) s x h 0 ∧ ∀ num, Delivers (.land h num) s x h 0)
    ∧ ∀ n : BitVec 8, x.fits h n.toNat → Completes (.nullEffect h n) s x h 0 n.toNat id

/-- R164: SEL delivers L where bit 0 of its selector is 1 and R where it is 0; it is never gated, and without a producer for its slot Q its selector is q0. -/
def Parts.SelChooses : Prop :=
  ∀ (s : State) (h : Hdr) (b : Block) (l r : Word), s.block s.focus.glade = some b → (b.atomic = true → s.frontier s.focus.glade = true) →
    s.focus.idx ∉ b.done → b.named .o s.focus.idx ≤ nget 0 b.toks s.focus.idx →
    nfind b.opL s.focus.idx = some l → nfind b.opR s.focus.idx = some r → (Fx.mk s.focus.glade s.focus.idx b l r).fits h 0 →
    (∀ q, nfind b.opQ s.focus.idx = some q → b.named .q s.focus.idx ≠ 0 →
      Delivers (.sel h) s ⟨s.focus.glade, s.focus.idx, b, l, r⟩ h (if q.getLsbD 0 then l else r))
    ∧ (b.named .q s.focus.idx = 0 → h.pred = 0 → b.qf.getLsbD 0 = true → Delivers (.sel h) s ⟨s.focus.glade, s.focus.idx, b, l, r⟩ h l)

/-- R165: a compare-class instruction delivers its bit, and where its write bit is set the same bit is what its predicate takes at commit. -/
def Parts.CompareResults : Prop :=
  ∀ (s : State) (h : Hdr) (x : Fx) (wr : Bool) (q : BitVec 4), s.fx h true true = some x → x.fits h 0 → (wr = true → nfind x.b.qw q.toNat = none) →
    let bit (i : Instr) (p : Prop) [Decidable p] : Prop := Completes i s x h (if p then 1 else 0) 0 fun b =>
      if wr = true then { b with qw := nset b.qw q.toNat (decide p) } else b
    bit (.cmpEq h wr q) (x.l = x.r) ∧ bit (.cmpNe h wr q) (x.l ≠ x.r) ∧ bit (.cmpLtS h wr q) (x.l.toInt < x.r.toInt)
    ∧ bit (.cmpLtZ h wr q) (x.l.toNat < x.r.toNat) ∧ bit (.cmpLeS h wr q) (x.l.toInt ≤ x.r.toInt) ∧ bit (.cmpLeZ h wr q) (x.l.toNat ≤ x.r.toNat)
    ∧ bit (.test h wr q) (x.l &&& x.r ≠ 0) ∧ bit (.qand h wr q) (x.l.getLsbD 0 = true ∧ x.r.getLsbD 0 = true)
    ∧ bit (.qor h wr q) (x.l.getLsbD 0 = true ∨ x.r.getLsbD 0 = true)

/-- R117, R163 to R165, R167 to R169, R176, R178, R179: the instructions that deliver a value without an arithmetic result: immediates and reads, SEL, and the compares. -/
def Obligations.ValueResults : Prop := Parts.ValuesWithoutOperand ∧ Parts.SelChooses ∧ Parts.CompareResults

/-- R166: the modular instructions deliver the exact residue of the named modulus, where MQSTAT holds it valid and it is not 0, and fault with MODULUS_INVALID (0x015),
TRAP.VALUE the register's number, where it does not. -/
def Obligations.ModularResults : Prop :=
  ∀ (s : State) (h : Hdr) (x : Fx) (m : BitVec 4),
    let q := (nget 0 (s.ww x.g).mqQ m.toNat).toNat
    let ok := (s.ww x.g).mqstat.getLsbD m.toNat
    (s.fx h true true = some x → x.fits h 0 → ok = true → 0 < q →
      Delivers (.maddM h m) s x h (BitVec.ofNat 64 ((x.l.toNat + x.r.toNat) % q)) ∧ Delivers (.mmulM h m) s x h (BitVec.ofNat 64 (x.l.toNat * x.r.toNat % q))
      ∧ ∃ v : Word, Delivers (.msubM h m) s x h v ∧ v.toNat < q ∧ (v.toNat + x.r.toNat) % q = x.l.toNat % q)
    ∧ (s.fx h true false = some x → x.fits h 0 → ok = true → 0 < q → Delivers (.mred h m) s x h (BitVec.ofNat 64 (x.l.toNat % q)))
    ∧ (s.fx h true true = some x → ok = false →
        ∀ i ∈ [Instr.maddM h m, .msubM h m, .mmulM h m], exec i s = .next (s.blockFault x.g 0x015 m.toNat))
    ∧ (s.fx h true false = some x → ok = false → exec (.mred h m) s = .next (s.blockFault x.g 0x015 m.toNat))

/-- R175, R176: address conversion: an offset into a window and back, all ones where the address lies in no such window, and canonical addresses. -/
def Obligations.AddressConversion : Prop :=
  (∀ (s : State) (h : Hdr) (x : Fx), s.fx h false false = some x → x.fits h 0 →
    Delivers (.aperq h .loc) s x h 0xFF00000000000000 ∧ Delivers (.aperq h .shr) s x h 0xFF00000100000000 ∧ Delivers (.aperq h .clu) s x h 0xFF00000200000000
    ∧ Delivers (.aperq h .gl) s x h 0 ∧ Delivers (.aperq h .gen) s x h 0)
  ∧ ∀ (s : State) (h : Hdr) (x : Fx), s.fx h true false = some x → x.fits h 0 →
    let a := x.l.toNat
    let none64 : Word := BitVec.ofNat 64 (2 ^ 64 - 1)
    let windows := [(Space.loc, 0xFF00000000000000, 0x00100000), (.shr, 0xFF00000100000000, 0x0C000000), (.clu, 0xFF00000200000000, 0x08000000)]
    (∀ w ∈ windows,
      Delivers (.cvtaTo h w.1) s x h (if w.2.1 ≤ a ∧ a < w.2.1 + w.2.2 then BitVec.ofNat 64 (a - w.2.1) else none64)
      ∧ Delivers (.cvtaFrom h w.1) s x h (if a < w.2.2 then BitVec.ofNat 64 (w.2.1 + a) else none64)
      ∧ Delivers (.isspace h w.1) s x h (if w.2.1 ≤ a ∧ a < w.2.1 + w.2.2 then 1 else 0)
      ∧ ∀ off : BitVec 23, let b := (x.l + off.signExtend 64).toNat
        Delivers (.lea h w.1 off) s x h (if b < w.2.2 then BitVec.ofNat 64 (w.2.1 + b) else none64))
    ∧ (let canon := a < 2 ^ 56 ∨ ∃ w ∈ windows, w.2.1 ≤ a ∧ a < w.2.1 + w.2.2
       Delivers (.cvtaTo h .gl) s x h (if canon then x.l else none64) ∧ Delivers (.cvtaTo h .gen) s x h (if canon then x.l else none64)
       ∧ Delivers (.isspace h .gen) s x h (if canon then 1 else 0))
    ∧ Delivers (.cvtaFrom h .gl) s x h (if a < 2 ^ 56 then x.l else none64) ∧ Delivers (.cvtaFrom h .gen) s x h x.l
    ∧ Delivers (.isspace h .gl) s x h (if a < 2 ^ 56 then 1 else 0)
    ∧ ∀ off : BitVec 23, Delivers (.lea h .gen off) s x h (x.l + off.signExtend 64)
        ∧ Delivers (.lea h .gl off) s x h (if (x.l + off.signExtend 64).toNat < 2 ^ 56 then x.l + off.signExtend 64 else none64)

/-! ## Registers, branches, tasks and system registers -/

/-- R144, R167, R168: WRG resolves its register with L and NULL resolves it as unchanged, where no instruction of the block has resolved it yet; where one has, either raises WRITE_TWICE
(0x008) with the second writer, the register and, for a GLOAD among the writers, bit 15 (R146, R147). -/
def Parts.RegisterResolution : Prop :=
  ∀ (s : State) (h : Hdr) (x : Fx) (g : BitVec 6),
    let sets (v : Option Word) : Block → Block := fun b => { b with gw := nset b.gw g.toNat v }
    let fresh := nfind x.b.gw g.toNat = none ∧ g.toNat ∉ x.b.loaded
    (s.fx h true false = some x → x.fits h 0 → fresh → Completes (.wrg h g) s x h 0 0 (sets (some x.l)))
    ∧ (s.fx h false false = some x → x.fits h 0 → fresh → Completes (.nullReg h g) s x h 0 0 (sets none))
    ∧ ∀ i, (i = Instr.wrg h g ∧ s.fx h true false = some x) ∨ (i = Instr.nullReg h g ∧ s.fx h false false = some x) →
        (nfind x.b.gw g.toNat ≠ none → exec i s = .next (s.blockFault x.g 0x008 (x.i + 2 ^ 8 * g.toNat)))
        ∧ (nfind x.b.gw g.toNat = none → g.toNat ∈ x.b.loaded → exec i s = .next (s.blockFault x.g 0x008 (x.i + 2 ^ 8 * g.toNat + 2 ^ 15)))

/-- R170, R171, R173, R180, R182: the branch-class instructions fix the block's successor; BKPT and TRAP fix the trap it takes; whichever of them executes second raises BRANCH_TWICE
(0x00A), and TRET outside a handler TRET_STATE (0x00E), whose TRAP.VALUE no rule states: a free
value (log entry 2). -/
def Parts.BranchResolution : Prop :=
  ∀ (s : State) (h : Hdr) (x : Fx),
    let takes (br : Branch) : Block → Block := fun b => { b with branch := some br }
    let at_ (off : BitVec 30) : Word := BitVec.ofInt 64 ((x.b.addr : Int) + 64 * off.toInt)
    (s.fx h false false = some x → x.fits h 0 → x.b.branch = none →
      (∀ off, Completes (.br h off) s x h 0 0 (takes (.goto (at_ off) none)) ∧ Completes (.call h off) s x h 0 0 (takes (.call (at_ off))))
      ∧ Completes (.halt h) s x h 0 0 (takes .halt)
      ∧ (∀ num, Completes (.bkpt h num) s x h 0 0 (takes (.trap 0x016 num.toNat))) ∧ (∀ n, Completes (.trap h n) s x h 0 0 (takes (.trap (0x1E0 + n.toNat) 0)))
      ∧ ((s.ww x.g).inh = true → Completes (.tret h) s x h 0 0 (takes .tret)))
    ∧ (s.fx h true false = some x → x.fits h 0 → x.b.branch = none → Completes (.ret h) s x h 0 0 (takes (.goto x.l (some 0))))
    ∧ (x.b.branch ≠ none →
        let twice (i : Instr) : Prop := exec i s = .next (s.blockFault x.g 0x00A (x.i + 2 ^ 7 * wordOpcode (x.b.word x.i)))
        (s.fx h false false = some x →
          (∀ off, twice (.br h off) ∧ twice (.call h off)) ∧ twice (.halt h) ∧ (∀ num, twice (.bkpt h num)) ∧ (∀ n, twice (.trap h n)) ∧ ((s.ww x.g).inh = true → twice (.tret h)))
        ∧ (s.fx h true false = some x → twice (.ret h)))
    ∧ (s.fx h false false = some x → (s.ww x.g).inh = false → exec (.tret h) s = .next (s.openFault x.g 0x00E))

/-- R172, R335: BRI goes to the address in bits [19:6] of entry L of its jump table, with the label of bits [31:20], and reads the entry into the read set; an index above
`last` raises JUMP_RANGE (0x142), an entry with nonzero reserved bits or outside the burrow JUMP_FORMAT (0x143), and a BRI that executes second BRANCH_TWICE (0x00A). -/
def Parts.JumpTable : Prop :=
  ∀ (s : State) (h : Hdr) (x : Fx) (off : BitVec 18) (last : BitVec 12), s.fx h true false = some x →
    let a : Int := (x.b.addr : Int) + 64 * off.toInt + 8 * (x.l.toNat : Int)
    (last.toNat < x.l.toNat → exec (.bri h off last) s = .next (s.blockFault x.g 0x142 x.l.toNat))
    ∧ (x.l.toNat ≤ last.toNat → (a < 0 ∨ 2 ^ 20 < a + 8) → exec (.bri h off last) s = .next (s.blockFault x.g 0x143 x.l.toNat))
    ∧ (x.l.toNat ≤ last.toNat → 0 ≤ a → a + 8 ≤ 2 ^ 20 → ∀ phys, s.resolve x.g (0xFF00000000000000 + a.toNat) 8 8 .rd = .ok phys → s.heldSector x.g phys = false →
        let e := ofBytes (s.loadBytes x phys 8)
        (field e 32 32 ≠ 0 ∨ field e 0 6 ≠ 0 → exec (.bri h off last) s = .next (s.blockFault x.g 0x143 x.l.toNat))
        ∧ (field e 32 32 = 0 → field e 0 6 = 0 → x.b.branch ≠ none → exec (.bri h off last) s = .next (s.blockFault x.g 0x00A (x.i + 2 ^ 7 * wordOpcode (x.b.word x.i))))
        ∧ (field e 32 32 = 0 → field e 0 6 = 0 → x.fits h 0 → x.b.branch = none →
            Completes (.bri h off last) s x h 0 0 fun b => { b.read (sectors phys 8) with branch := some (.goto (BitVec.ofNat 64 (64 * field e 6 14)) (some (field e 20 12))) }))

/-- R144, R146, R147, R167, R168, R170 to R173, R180, R182, R335: what resolves the registers and the successor of a block: WRG and NULL, the branch-class instructions, and the jump table. -/
def Obligations.OutputsAndControl : Prop := Parts.RegisterResolution ∧ Parts.BranchResolution ∧ Parts.JumpTable

/-- R149, R158, R177, R178, R183, R184: SRD delivers the register at execution, a free value of its range where other agents change it (R10, log entry 1; the count of context cycles itself,
log entry 98), and SWR notes its write, for every assigned
number, and an unassigned one raises SYSREG_UNDEF (0x00F);
TSK.STAMP, TSK.YIELD.PHASE and EVSEND note what their block does at commit; reserved bits of an event number raise EVENT_INVALID (0x010). -/
def Parts.SystemAccess : Prop :=
  ∀ (s : State) (h : Hdr) (x : Fx),
    (s.fx h false false = some x → ∀ num : BitVec 12,
      let n := num.toNat
      let open_ := n = 0x022 ∨ n = 0x090 ∨ n = 0x091 ∨ (0x0B0 ≤ n ∧ n ≤ 0x0BF)
      (∀ v, sysRead s x.g x.b.ts n = some v → x.fits h 0 →
        (¬open_ → Delivers (.srd h num) s x h v)
        ∧ (open_ → ∃ u : Word, exec (.srd h num) s = .next (s.drawn.executed x h u 0 fun b => if n = 0x022 then b.addPend x.i .clearAborts else b)
            ∧ (n = 0x091 → u.toNat < 2 ^ 32) ∧ (n = 0x090 → u.toNat < 2 ^ 16)))
      ∧ (sysRead s x.g x.b.ts num.toNat = none → exec (.srd h num) s = .next (s.blockFault x.g 0x00F num.toNat)))
    ∧ (s.fx h true false = some x → ∀ num : BitVec 12,
        (sysRead s x.g x.b.ts num.toNat ≠ none → x.fits h 1 → Completes (.swr h num) s x h 0 1 fun b => b.addPend x.i (.swr num.toNat x.l))
        ∧ (sysRead s x.g x.b.ts num.toNat = none → exec (.swr h num) s = .next (s.blockFault x.g 0x00F num.toNat)))
    ∧ (s.fx h true false = some x → x.fits h 0 → Completes (.tskStamp h) s x h 0 0 fun b => b.addPend x.i (.floor x.l))
    ∧ (s.fx h false false = some x → x.fits h 0 → Completes (.tskYieldPhase h) s x h 0 0 fun b => b.addPend x.i .phaseMark)
    ∧ (s.fx h false false = some x → ∀ n : BitVec 8,
        (field n.toNat 4 2 ≠ 3 → field n.toNat 6 2 = 0 → x.fits h 1 →
          Completes (.evsend h n) s x h 0 1 fun b => b.addPend x.i (.evsend (field n.toNat 0 4) (field n.toNat 4 2)))
        ∧ (field n.toNat 4 2 = 3 ∨ field n.toNat 6 2 ≠ 0 → exec (.evsend h n) s = .next (s.blockFault x.g 0x010 (n.toNat + 2 ^ 8 * x.i))))

/-- R185, R271: EVWAIT delivers the ordinal it consumes once the count has passed those consumed before it, and acquires where an EVSEND supplied it; until then, and while an EVWAIT of the
counter at a lower index is still to execute, the block keeps it waiting; reserved bits of its event number raise EVENT_INVALID (0x010). -/
def Parts.EventWait : Prop :=
  ∀ (s : State) (h : Hdr) (x : Fx) (n : BitVec 8), s.fx h false false = some x →
    let t := (nget 0 (s.ww x.g).evseen n.toNat).toNat + x.b.evwaits n.toNat x.i
    let c := (nget 0 (s.ww x.g).evc n.toNat).toNat
    (field n.toNat 4 4 ≠ 0 → exec (.evwait h n) s = .next (s.blockFault x.g 0x010 (n.toNat + 2 ^ 8 * x.i)))
    ∧ (field n.toNat 4 4 = 0 →
      (x.b.evwaitOpen n.toNat x.i = false → t < c → x.fits h 0 →
        Completes (.evwait h n) s x h (BitVec.ofNat 64 (t + 1)) 0 fun b =>
          if (n.toNat, t + 1) ∈ (s.ww x.g).evSent then (b.addPend x.i (.evwait n.toNat)).addPend x.i .acquire else b.addPend x.i (.evwait n.toNat))
      ∧ (x.b.evwaitOpen n.toNat x.i = true ∨ c ≤ t → exec (.evwait h n) s = .next (s.stall x)))

/-- R186, R187, R319: HW.CALL and TEST.CLR: SAMPLE_KEY of a party is derived at commit and gives status 1 for a number that is no party's, ENTROPY buffers 32 bytes, free values of the model
(log entry 1), an undefined service raises HWCALL_UNDEF (0x013) and an argument out of range HWCALL_ARG (0x014), their TRAP.VALUE a free value (log entry 2), and TEST.CLR delivers the
clearing's last test and asks for a new one; outside an atomic block HW.CALL raises FRONTIER_REQUIRED (0x012). -/
def Parts.HeartwoodServices : Prop :=
  ∀ (s : State) (h : Hdr) (x : Fx),
    (s.fx h true false = some x → x.b.atomic = false →
      ∀ i, i = Instr.hwCallEntropy h ∨ (∃ svc, i = .hwCallSampleKey h svc) → exec i s = .next (s.blockFault x.g 0x012 (x.i + 2 ^ 7 * wordOpcode (x.b.word x.i))))
    ∧ (s.fx h true false = some x → x.b.atomic = true →
        (∀ svc, svc ≠ 1 → exec (.hwCallSampleKey h svc) s = .next (s.openFault x.g 0x013)) ∧ (16 ≤ x.l.toNat → exec (.hwCallSampleKey h 1) s = .next (s.openFault x.g 0x014))
        ∧ (x.l.toNat % 32 ≠ 0 ∨ 2 ^ 20 ≤ x.l.toNat → exec (.hwCallEntropy h) s = .next (s.openFault x.g 0x014))
        ∧ ∀ p, s.place x.g = some p → x.l.toNat < 16 → nfind (s.job p.ctx).joins x.l.toNat = none → x.fits h 1 → Completes (.hwCallSampleKey h 1) s x h 1 1 id)
    ∧ (s.fx h true false = some x → x.b.atomic = true → x.fits h 1 →
        (∀ p q, s.place x.g = some p → x.l.toNat < 16 → nfind (s.job p.ctx).joins x.l.toNat = some q →
          Completes (.hwCallSampleKey h 1) s x h 0 1 fun b => b.addPend x.i (.sampleKey (sampleKeyOf q.seed p.ctx)))
        ∧ ∀ phys, x.l.toNat % 32 = 0 → x.l.toNat < 2 ^ 20 → s.resolve x.g (0xFF00000000000000 + x.l.toNat) 32 32 .wr = .ok phys → s.heldSector x.g phys = false →
            x.b.conflict x.i (0xFF00000000000000 + x.l.toNat) phys 32 = none →
            exec (.hwCallEntropy h) s = .next ({ s with free := s.free + 4 }.executed x h 0 1 fun b => b.store ⟨x.i, 0xFF00000000000000 + x.l.toNat, phys, entropyBytes s.free, false, []⟩))
    ∧ (s.fx h false false = some x → x.fits h 0 → ∃ v : Word, Completes (.testClr h) s x h v 0 (fun b => b.addPend x.i .testReq)
        ∧ ((s.clearing (clearingOf x.g)).last < 4 → (s.clearing (clearingOf x.g)).seq < 2 ^ 32 →
            field v.toNat 0 32 = (s.clearing (clearingOf x.g)).last ∧ ((s.clearing (clearingOf x.g)).last ≠ 0 → field v.toNat 32 32 = (s.clearing (clearingOf x.g)).seq)))

/-- R149, R158, R177, R178, R183 to R187: system registers, event counters, and the services of the heartwood. -/
def Obligations.SystemInstructions : Prop := Parts.SystemAccess ∧ Parts.EventWait ∧ Parts.HeartwoodServices

/-! ## Memory instructions, atomics, fences and orders -/

/-- R256, R257, R259, R260: a load delivers the bytes at the place its address translates to as its task finds them, with the block's own ordered stores, extended by its type, and reads their
sectors; a store buffers its bytes at that place; LD.T of a place it can reach reads one byte's sector and delivers nothing. -/
def Obligations.LoadStore : Prop :=
  ∀ (s : State) (h : Hdr) (x : Fx) (sp : Space) (off : BitVec 23) (phys : Nat),
    let a := (leaW sp off x.l).toNat
    (∀ ty, let n := mtBytes ty
      (s.fx h true false = some x → x.fits h 1 → s.resolve x.g a n n .rd = .ok phys → s.heldSector x.g phys = false →
        let u := ofBytes (s.loadBytes x phys n)
        CompletesFrom (s.served x.g a phys n) (.ld h ty sp off) s x h
          (if mtSigned ty = true ∧ 2 ^ (8 * n - 1) ≤ u then BitVec.ofInt 64 ((u : Int) - 2 ^ (8 * n)) else BitVec.ofNat 64 u) 1 fun b => b.read (sectors phys n))
      ∧ (s.fx h true true = some x → x.fits h 1 → s.resolve x.g a n n .wr = .ok phys → s.heldSector x.g phys = false →
          (x.b.conflict x.i a phys n = none → CompletesFrom (s.served x.g a phys 0) (.st h ty sp off) s x h 0 1 fun b => b.store ⟨x.i, a, phys, toBytes n x.r.toNat, false, []⟩)
          ∧ ∀ v, x.b.conflict x.i a phys n = some v → exec (.st h ty sp off) s = .next (s.blockFault x.g 0x04B v)))
    ∧ (s.fx h true false = some x → x.fits h 1 → s.resolve x.g a 1 1 .rd = .ok phys → s.heldSector x.g phys = false →
        CompletesFrom (s.served x.g a phys 1) (.ldT h sp off) s x h 0 1 fun b => b.read (sectors phys 1))

/-- R261: GSAVE buffers consecutive registers as words and GLOAD notes the words it will load into registers at commit, g0 among them dropped; both check every word first. -/
def Obligations.MultiWordAccess : Prop :=
  ∀ (s : State) (h : Hdr) (x : Fx) (first : BitVec 6) (cnt1 : BitVec 4) (sp : Space) (off : BitVec 17) (ps : List Nat),
    let a := (cvtaFrom sp (x.l + off.signExtend 64)).toNat
    s.fx h true false = some x → x.fits h 1 → ps.length = cnt1.toNat + 1 → a + 8 * (cnt1.toNat + 1) ≤ 2 ^ 64 →
    (∀ k phys : Nat, ps[k]? = some phys → s.heldSector x.g phys = false) →
    ((∀ k phys : Nat, ps[k]? = some phys → s.resolve x.g (a + 8 * k) 8 8 .wr = .ok phys) → (∀ k phys : Nat, ps[k]? = some phys → x.b.conflict x.i (a + 8 * k) phys 8 = none) →
      ∃ ts : List BStore, CompletesFrom (ps.foldl (fun s p => s.served x.g a p 0) s) (.gsave h first cnt1 sp off) s x h 0 1 (fun b => { b with stores := b.stores ++ ts })
        ∧ ts.length = ps.length
        ∧ ∀ k phys : Nat, ps[k]? = some phys → ts[k]? = some (BStore.mk x.i (a + 8 * k) phys (toBytes 8 ((s.ww x.g).reg (first.toNat + k)).toNat) false []))
    ∧ ((∀ k phys : Nat, ps[k]? = some phys → s.resolve x.g (a + 8 * k) 8 8 .rd = .ok phys) →
        (∀ k < ps.length, nfind x.b.gw (first.toNat + k) = none ∧ first.toNat + k ∉ x.b.loaded) →
        ∃ ws : List (Nat × Word), CompletesFrom (servedWords x.g a ps s) (.gload h first cnt1 sp off) s x h 0 1 (fun b => (b.read (ps.flatMap fun p => sectors p 8)).addPend x.i (.gload ws))
          ∧ ∀ g v, (g, v) ∈ ws ↔ ∃ k phys, ps[k]? = some phys ∧ g = first.toNat + k ∧ g ≠ 0 ∧ v = BitVec.ofNat 64 (ofBytes (s.loadBytes x phys 8)))

/-- R262, R263, R264, R271: an atomic delivers the old value, buffers the new one at its width and holds the sector; REL and AR make it a release at its scope, and it acquires with ACQ or AR where
the value it reads belongs to a release in whose scope its glade lies and whose glade lies in its own; FENCE notes its order for the commit. Outside an atomic block each of them raises
FRONTIER_REQUIRED (0x012). -/
def Obligations.Atomics : Prop :=
  ∀ (s : State) (h : Hdr) (x : Fx) (a : AtomHdr) (phys : Nat),
    let n := if a.wide then 8 else 4
    let m := 2 ^ (8 * n)
    let old := ofBytes (overlay x.b x.i phys x.b.stores (s.bytes phys n))
    let r := x.r.toNat % m
    let sgn (v : Nat) : Int := if 2 ^ (8 * n - 1) ≤ v then (v : Int) - m else v
    let from_ := (s.heads phys n).filter fun q => s.inScope q.scope q.glade x.g
    let mine := if a.order = .acq ∨ a.order = .ar then from_.filter fun q => s.inScope a.scope x.g q.glade else []
    let relAs : List Scope := if a.order = .rel ∨ a.order = .ar then [a.scope] else []
    let acq (b : Block) : Block := if mine = [] then b else b.addPend x.i .acquire
    let reads (b : Block) : Block := if from_ = [] then b else b.addPend x.i (.readRel from_)
    let gives (i : Instr) (v : Nat) : Prop := CompletesFrom ((s.served x.g x.l.toNat phys n).acquire x (mine.map fun q => .rel q.id)) i s x h (BitVec.ofNat 64 old) 1 fun b =>
      acq (reads ((b.read (sectors phys n)).store ⟨x.i, x.l.toNat, phys, toBytes n v, true, relAs⟩))
    (s.fx h true true = some x → x.b.atomic = true → x.fits h 1 → s.resolve x.g x.l.toNat n n .atom = .ok phys → s.heldSector x.g phys = false →
      x.b.conflict x.i x.l.toNat phys n = none →
      gives (.atomAdd h a) ((old + r) % m)
      ∧ gives (.atomMinmax h a .mins) (if sgn old ≤ sgn r then old else r) ∧ gives (.atomMinmax h a .maxs) (if sgn r ≤ sgn old then old else r)
      ∧ gives (.atomMinmax h a .minz) (min old r) ∧ gives (.atomMinmax h a .maxz) (max old r)
      ∧ gives (.atomBit h a .and) (old &&& r) ∧ gives (.atomBit h a .or) (old ||| r) ∧ gives (.atomBit h a .xor) (old ^^^ r)
      ∧ gives (.atomXchg h a) r ∧ ∀ g : BitVec 6, gives (.atomCas h a g) (if old = r then ((s.ww x.g).reg g.toNat).toNat % m else old))
    ∧ (s.fx h true true = some x → x.b.atomic = false → ∀ g : BitVec 6,
        ∀ i ∈ [Instr.atomAdd h a, .atomMinmax h a .mins, .atomMinmax h a .maxs, .atomMinmax h a .minz, .atomMinmax h a .maxz, .atomBit h a .and, .atomBit h a .or, .atomBit h a .xor,
          .atomXchg h a, .atomCas h a g], exec i s = .next (s.blockFault x.g 0x012 (x.i + 2 ^ 7 * wordOpcode (x.b.word x.i))))
    ∧ (s.fx h false false = some x → x.b.atomic = false → ∀ o sc, exec (.fence h o sc) s = .next (s.blockFault x.g 0x012 (x.i + 2 ^ 7 * wordOpcode (x.b.word x.i))))
    ∧ (s.fx h false false = some x → x.b.atomic = true → x.fits h 1 → ∀ o sc, Completes (.fence h o sc) s x h 0 1 fun b =>
        if o = .rlx then b else b.addPend x.i (.fence (decide (o = .rel ∨ o = .ar)) (decide (o = .acq ∨ o = .ar)) sc))

/-- R284, R285, R286, R294, R307, R308: an order instruction notes its order in the block as one effect, with its kind, its flags, peer, L operand and start offset; a start offset above
40 bits, and of ORD.MODE an empty mask or a reserved bit, raises PAYLOAD_RESERVED (0x004), whose TRAP.VALUE no rule states: a free value (log entry 2). ORD.TOKEN notes its credit. -/
def Obligations.OrdersNoted : Prop :=
  ∀ (s : State) (h : Hdr) (o : OrdHdr) (x : Fx),
    let off := if o.timed then x.r.toNat else 0
    let req (kind : Nat) (pos : Option (Nat × Nat)) (l arg : Word) : OrderReq :=
      { kind := kind, timed := o.timed, pop := o.pop, push := o.push, peer := o.peer.code.toNat, pos := pos, l := l, offset := off, arg := arg }
    let notes (i : Instr) (p : Pend) : Prop := Completes i s x h 0 1 fun b => b.addPend x.i p
    (s.fx h true o.timed = some x → x.fits h 1 → (o.timed = true → x.r.toNat < 2 ^ 40) →
      notes (.ordStand h o) (.order (req 1 none x.l 0)) ∧ notes (.ordRaft h o) (.order (req 2 none x.l 0)) ∧ notes (.ordRun h o) (.order (req 3 none x.l 0))
      ∧ notes (.ordWload h o) (.order (req 4 none x.l 0)) ∧ notes (.ordLink h o) (.order (req 5 none x.l 0))
      ∧ (∀ ux uy, notes (.ordStandx h o ux uy) (.order (req 1 (some (ux.toNat, uy.toNat)) x.l 0))
          ∧ notes (.ordRaftx h o ux uy) (.order (req 2 (some (ux.toNat, uy.toNat)) x.l 0)) ∧ notes (.ordRunx h o ux uy) (.order (req 3 (some (ux.toNat, uy.toNat)) x.l 0)))
      ∧ ∀ mode : BitVec 16, field x.l.toNat 0 16 ≠ 0 → field x.l.toNat 16 16 ≠ 0 → field x.l.toNat 32 32 = 0 → field mode.toNat 7 9 = 0 → field mode.toNat 2 2 = 0 →
          notes (.ordMode h o mode) (.order (req 7 none x.l (mode.setWidth 64))))
    ∧ (s.fx h false o.timed = some x → x.fits h 1 → (o.timed = true → x.r.toNat < 2 ^ 40) →
        notes (.ordToken h o) (.credit o.peer.code.toNat (if o.timed then some x.r.toNat else none))
        ∧ (∀ e : BitVec 8, notes (.ordSteer h o e) (.order (req 6 none x.l (e.setWidth 64)))) ∧ ∀ b, notes (.ordBough h o b) (.order (req 8 none x.l (if b then 1 else 0))))
    ∧ (o.timed = true → 2 ^ 40 ≤ x.r.toNat →
        let late (i : Instr) : Prop := exec i s = .next (s.openFault x.g 0x004)
        (s.fx h true true = some x →
          late (.ordStand h o) ∧ late (.ordRaft h o) ∧ late (.ordRun h o) ∧ late (.ordWload h o) ∧ late (.ordLink h o) ∧ (∀ m, late (.ordMode h o m))
          ∧ ∀ ux uy, late (.ordStandx h o ux uy) ∧ late (.ordRaftx h o ux uy) ∧ late (.ordRunx h o ux uy))
        ∧ (s.fx h false true = some x → late (.ordToken h o) ∧ (∀ e, late (.ordSteer h o e)) ∧ ∀ b, late (.ordBough h o b)))
    ∧ (s.fx h true o.timed = some x → (o.timed = true → x.r.toNat < 2 ^ 40) → ∀ mode : BitVec 16,
        field x.l.toNat 0 16 = 0 ∨ field x.l.toNat 16 16 = 0 ∨ field x.l.toNat 32 32 ≠ 0 ∨ field mode.toNat 7 9 ≠ 0 ∨ field mode.toNat 2 2 ≠ 0 →
          exec (.ordMode h o mode) s = .next (s.openFault x.g 0x004))

/-! ## Tables -/

/-- R319, R321, R322, R324, R325: ARM of a well-formed descriptor copies its images and notes an ARMED entry at the lowest FREE index of its die, and delivers that index and die with status OK;
DISARM of an entry that nothing refuses notes its removal. Both are frontier-only. -/
def Obligations.ArmTable : Prop :=
  ∀ (s : State) (h : Hdr) (x : Fx),
    (∀ (d lst : List Byte) (dp lp : List Nat) (e : Nat) (s' : State) (images : List (List Byte)),
      let l := x.l.toNat
      let ctx := s.ctxOf x.g
      let kind := leAt d 5 1
      let die := leAt d 6 1
      let preds := (List.range (leAt d 10 1)).map fun i => leAt d (12 + 2 * i) 2
      s.fx h true true = some x → x.b.atomic = true → x.fits h 1 → x.ordered → (s.ownOffset x.g l).isSome = true → l % 64 = 0 →
      readRange s x l 128 .rd = .ok (d, dp) → armBad d = none → (kind ≠ 2 → (s.seen x).tagHeld ctx (leAt d 0 4) = false ∧ s.held x.g (pairSect ctx (leAt d 0 4)) = false) →
      leAt d 4 1 ≤ (s.job ctx).classCap → (kind = 2 → (s.seen x).graphOk ctx (leAt d 8 2) preds = true) → (s.seen x).freeArm die = some e →
      s.held x.g (armSect die e) = false →
      readRange s x x.r.toNat (8 * leAt d 7 1) .rd = .ok (lst, lp) → s.armImages x.g ctx ((chunks 8 (leAt d 7 1) lst).map ofBytes) = (s', .ok images) →
      exec (.arm h) s = .next (s'.executed x h (BitVec.ofNat 64 (2 ^ 16 * e + 2 ^ 28 * die)) 1 fun b =>
        (b.read (dp.flatMap (fun p => sectors p 8) ++ lp.flatMap fun p => sectors p 8)).addPend x.i
          (.arm die e { st := .armed, ctx := ctx, tag := leAt d 0 4, cls := leAt d 4 1, kind := kind, root := leAt d 8 2, preds := preds,
                        args := ((List.range 6).map fun i => BitVec.ofNat 64 (leAt d (64 + 8 * i) 8)), images := images })))
    ∧ (let l := x.l.toNat
       let die := field l 12 2
       let k := field l 0 12
       let st := (s.seen x).disarmStatus (s.ctxOf x.g) l
       s.fx h true false = some x → x.b.atomic = true → x.fits h 1 → x.ordered → l < 2 ^ 14 → s.held x.g (armSect die k) = false →
       (st = 0 → Notes (.disarm h) s x h 0 [.tbl 1 die k] (.disarm die k)) ∧ (st ≠ 0 → Queries (.disarm h) s x h st [.tbl 1 die k]))

/-- R328: RTE.SET completes with status OK and notes the word R as it stands for every kind that names no position of the unit (ZONE), and for a position of the unit that is present; a position
outside the unit gives DENIED (4) and changes nothing, an absent one ABSENT (9) and the entry with valid 0; an L above 255 and a reserved word raise TABLE_FORMAT (0x140). -/
def Parts.RouteEntry : Prop :=
  ∀ (s : State) (h : Hdr) (x : Fx) (p : Place), s.fx h true true = some x → s.place x.g = some p →
    let l := x.l.toNat
    let r := x.r.toNat
    let row := Sect.tbl 2 x.g l
    (256 ≤ l → exec (.rteSet h) s = .next (s.blockFault x.g 0x140 l))
    ∧ (l < 256 → routeReserved r = true → exec (.rteSet h) s = .next (s.blockFault x.g 0x140 r))
    ∧ (l < 256 → routeReserved r = false → x.fits h 1 → x.ordered →
        (field r 60 3 = 5 → Notes (.rteSet h) s x h 0 [row] (.rte l x.r))
        ∧ (field r 60 3 ≠ 5 → (p.w ≤ field r 51 3 ∨ p.h ≤ field r 54 4) → Queries (.rteSet h) s x h 4 [row])
        ∧ (field r 60 3 ≠ 5 → field r 51 3 < p.w → field r 54 4 < p.h → p.has (field r 51 3) (field r 54 4) = true → Notes (.rteSet h) s x h 0 [row] (.rte l x.r))
        ∧ (field r 60 3 ≠ 5 → field r 51 3 < p.w → field r 54 4 < p.h → p.has (field r 51 3) (field r 54 4) = false →
            Notes (.rteSet h) s x h 9 [row] (.rte l (BitVec.ofNat 64 (r % 2 ^ 63)))))
    ∧ ∀ (t : State) (w : Word), nfind ((t.tableChange x.g (.rte l w)).eng x.g).routes l = some w

/-- R329, R332, R333, R334: RILL.SET of a rill below 32 completes with OK where no started entry uses the rill, and notes its new word, and with BUSY (5) and no change while one does; RILL.GET
completes with the rill's STATE, ARRIVED or CONFIG value and acquires only by STATE, of a rill that has reached its declared count with status OK or ERR; RILL.RESET completes with the STATE value and
notes the re-arm: base takes arrived, arms grows by 1, the status is OK, and RILL.SET does the same beside its word. -/
def Parts.Rills : Prop :=
  ∀ (s : State) (h : Hdr) (x : Fx), x.l.toNat < 32 →
    let l := x.l.toNat
    let row := Sect.tbl 3 x.g l
    let r := ((s.seen x).eng x.g).rill l
    let pending := r.arrived - r.base
    let state := 2 ^ 62 * r.status + 2 ^ 32 * (r.arms % 2 ^ 30) + min pending (2 ^ 32 - 1)
    let reached := field r.cfg.toNat 0 32 ≠ 0 ∧ field r.cfg.toNat 0 32 ≤ pending
    (s.fx h true true = some x → x.b.atomic = true → rillReserved x.r.toNat = false → x.fits h 1 → x.ordered →
      (s.rillBound x.g l = false → Notes (.rillSet h) s x h 0 [row] (.rillSet l x.r))
      ∧ (s.rillBound x.g l = true → Queries (.rillSet h) s x h 5 [row]))
    ∧ (s.fx h true false = some x → x.fits h 1 →
        Queries (.rillGet h .arrived) s x h r.arrived [row] ∧ Queries (.rillGet h .config) s x h r.cfg.toNat [row]
        ∧ (reached ∧ (r.status = 0 ∨ r.status = 3) → NotesFrom (s.acquire x [.rill (s.home x.g) l r.arms]) (.rillGet h .state) s x h state [row] .acquire)
        ∧ (¬ (reached ∧ (r.status = 0 ∨ r.status = 3)) → Queries (.rillGet h .state) s x h state [row])
        ∧ (x.ordered → Notes (.rillReset h) s x h state [row] (.rillReset l)))
    ∧ ∀ (t : State) (w : Word), let old := (t.eng x.g).rill l
        let armed (new : Rill) : Prop := new.base = old.arrived ∧ new.arrived = old.arrived ∧ new.arms = min (old.arms + 1) (2 ^ 64 - 1) ∧ new.status = 0
        armed (((t.tableChange x.g (.rillReset l)).eng x.g).rill l) ∧ (((t.tableChange x.g (.rillReset l)).eng x.g).rill l).cfg = old.cfg
        ∧ armed (((t.tableChange x.g (.rillSet l w)).eng x.g).rill l) ∧ (((t.tableChange x.g (.rillSet l w)).eng x.g).rill l).cfg = w

/-- R328, R329, R332 to R334: the instructions on route entries and rills. -/
def Obligations.RoutesAndRills : Prop := Parts.RouteEntry ∧ Parts.Rills

/-- R336, R337, R338: TAG.LOOK reads the set an address maps to, or one slot, and waits while a walk of its address does; TAG.SET, TAG.SET.SECT and TAG.INV note one slot's new word: the whole word with its low byte cleared, the sector bits
alone, or the tag without valid; a tag of another set gives status 10, a tag the set holds already 2, SECT of an invalid slot 3; a slot past the table raises TABLE_RANGE (0x141). -/
def Obligations.TagTable : Prop :=
  ∀ (s : State) (h : Hdr) (x : Fx),
    let l := x.l.toNat
    let r := x.r.toNat
    let d := dieOf x.g
    let ctx := s.ctxOf x.g
    let ns := s.tagSets ctx d
    let set := l / 16
    let word (k : Nat) : Nat := (s.seen x).tagWord d ctx k
    let free := s.held x.g (tagSect d ctx set) = false
    (s.fx h true false = some x → x.fits h 1 → l < 16 * ns → Queries (.tagLookRead h) s x h (word l) [tagSect d ctx set])
    ∧ (s.fx h true false = some x → l < 2 ^ 55 → ns ≠ 0 → (s.resolveNow x.g l 1 1 .rd).2 = .walk ctx (l / 4096 * 4096) →
        exec (.tagLookLookup h) s = .next ((s.resolveNow x.g l 1 1 .rd).1.stall x))
    ∧ (s.fx h true false = some x → x.fits h 1 → l < 2 ^ 55 → ns ≠ 0 → (s.resolveNow x.g l 1 1 .rd).2 ≠ .walk ctx (l / 4096 * 4096) →
      ∃ (t : State) (v : Nat), t = (s.resolveNow x.g l 1 1 .rd).1 ∧
        exec (.tagLookLookup h) s = .next (t.executed x h (BitVec.ofNat 64 v) 1 fun b => b.read [tagSect d ctx (field l 9 47 % t.tagSets ctx d)])
        ∧ (∀ k < 16, let w := (t.seen x).tagWord d ctx (16 * (field l 9 47 % (t.seen x).tagSets ctx d) + k)
            field w 63 1 = 1 → field w 16 47 = field l 9 47 → v < 2 ^ 63))
    ∧ (s.fx h true true = some x → x.b.atomic = true → x.fits h 1 → x.ordered → l < 16 * ns → free →
        (field (word l) 63 1 = 1 → Notes (.tagSetSect h) s x h 0 [tagSect d ctx set] (.tag l 1 x.r))
        ∧ (field (word l) 63 1 = 0 → Queries (.tagSetSect h) s x h 3 [tagSect d ctx set])
        ∧ (field r 63 1 = 1 → field r 8 4 &&& (15 - field r 12 4) = 0 →
            (field r 16 47 % ns ≠ set → Queries (.tagSet h) s x h 10 [tagSect d ctx set])
            ∧ (field r 16 47 % ns = set → (∃ k < 16, k ≠ l % 16 ∧ field (word (16 * set + k)) 63 1 = 1 ∧ field (word (16 * set + k)) 16 47 = field r 16 47) →
                Queries (.tagSet h) s x h 2 [tagSect d ctx set])
            ∧ (field r 16 47 % ns = set → (∀ k < 16, k ≠ l % 16 → ¬ (field (word (16 * set + k)) 63 1 = 1 ∧ field (word (16 * set + k)) 16 47 = field r 16 47)) →
                Notes (.tagSet h) s x h 0 [tagSect d ctx set] (.tag l 0 x.r))))
    ∧ (s.fx h true false = some x → x.b.atomic = true → x.fits h 1 → x.ordered → l < 16 * ns → free → Notes (.tagInv h) s x h (word l) [tagSect d ctx set] (.tag l 2 0))
    ∧ (∀ v : Word, let old := s.tagWord d ctx l
        let new (fn : Nat) : Nat := (s.tableChange x.g (.tag l fn v)).tagWord d ctx l
        new 0 = 2 ^ 8 * (v.toNat / 2 ^ 8) ∧ new 1 = 2 ^ 16 * (old / 2 ^ 16) + 2 ^ 8 * field v.toNat 8 8 ∧ new 2 = 2 ^ 16 * field old 16 47)
    ∧ (s.fx h true false = some x → 16 * ns ≤ l → exec (.tagLookRead h) s = .next (s.blockFault x.g 0x141 l))

/-- R319, R340, R341, R342, R343: SLOT.RES on the own package reserves the lowest free slots of a zone for a key that holds none and delivers how many and the lowest, or status 1 where too few
are free, 2 where the key holds some, and 4 in another context's zone; but for 4 the key is held until the block commits; SLOT.REL.RELEASE notes the
release of a held key; SLOT.REL.DONE notes the end of a FULL slot (3 for any other); SLOT.QRY delivers the mask of a state, or a slot's key. -/
def Obligations.LandingSlots : Prop :=
  ∀ (s : State) (h : Hdr) (x : Fx),
    let l := x.l.toNat
    let z : ZoneRef := ⟨field l 0 8, field l 8 9, field l 17 4, field l 21 5⟩
    let key : SlotKey := ⟨s.self, x.g, z.rill⟩
    (∀ (p q : Place) (y : Zone),
      let taken (free : List Nat) : Zone :=
        { y with slot := (free.take x.r.toNat).foldl (fun m i => nset m i ({ st := .reserved, key := key } : ZSlot)) y.slot, holders := if key ∈ y.holders then y.holders else y.holders ++ [key] }
      let held := s.modEng z.glade fun e => { e with zones := nmod {} e.zones z.zone fun y => { y with holders := if key ∈ y.holders then y.holders else y.holders ++ [key] } }
      let asked (v : Nat) : Fx := { x with b := { x.b with answers := nset x.b.answers x.i (BitVec.ofNat 64 v) } }
      s.fx h true true = some x → x.b.atomic = true → x.fits h 1 → x.ordered → l < 2 ^ 26 → 1 ≤ x.r.toNat → x.r.toNat ≤ 64 →
      nfind x.b.answers x.i = none → z.pkg = s.self → s.place z.glade = some p → s.place x.g = some q → (s.eng z.glade).zone z.zone = some y →
      let free := (List.range y.slots).filter fun i => decide ((y.slotOf i).st = .free)
      (q.ctx ≠ p.ctx → Queries (.slotRes h) s (asked 4) h 4 [])
      ∧ (q.ctx = p.ctx → y.keySlots key ≠ [] → NotesFrom held (.slotRes h) s (asked 2) h 2 [] (.slotHeld z 0 0))
      ∧ (q.ctx = p.ctx → y.keySlots key = [] → free.length < x.r.toNat → NotesFrom held (.slotRes h) s (asked 1) h 1 [] (.slotHeld z 0 0))
      ∧ (q.ctx = p.ctx → y.keySlots key = [] → x.r.toNat ≤ free.length →
        let v := 2 ^ 8 * x.r.toNat + 2 ^ 16 * free.headD 0
        exec (.slotRes h) s = .next ((s.modEng z.glade fun e => { e with zones := nset e.zones z.zone (taken free) }).executed (asked v) h (BitVec.ofNat 64 v) 1
          fun b => (b.read []).addPend x.i (.slotHeld z x.r.toNat (free.headD 0)))))
    ∧ (let held := (s.homes z.glade).any fun e => e.2.holdsKey z.zone key
       s.fx h true false = some x → x.b.atomic = true → x.fits h 1 → x.ordered → l < 2 ^ 26 → nfind x.b.answers x.i = none → z.pkg = s.self →
        (held = true → exec (.slotRelRelease h) s = .next ((s.holdKey z.glade z.zone key).executed { x with b := { x.b with answers := nset x.b.answers x.i 0 } } h 0 1
          fun b => (b.read []).addPend x.i (.slotRelease z)))
        ∧ (held = false → Queries (.slotRelRelease h) s x h 3 []))
    ∧ (∀ y : Zone, s.fx h true false = some x → x.fits h 1 → field l 4 12 = 0 → l < 2 ^ 22 → ((s.seen x).eng x.g).zone (field l 0 4) = some y →
        let k := field l 16 6
        let mask (st : SlotState) : Nat := (List.range y.slots).foldl (fun n i => if (y.slotOf i).st = st then n + 2 ^ i else n) 0
        let all := (List.range y.slots).map fun i => Sect.tbl 7 x.g (64 * field l 0 4 + i)
        ((y.slotOf k).st = .full → x.ordered → (∀ o ∈ y.holders, o ≠ (y.slotOf k).key ∨ (o.pkg = s.self ∧ o.glade = x.g)) → Notes (.slotRelDone h) s x h 0 [.tbl 7 x.g (64 * field l 0 4 + k)] (.slotDone (field l 0 4) k))
        ∧ ((y.slotOf k).st ≠ .full → Queries (.slotRelDone h) s x h 3 [.tbl 7 x.g (64 * field l 0 4 + k)])
        ∧ Queries (.slotQry h .free) s x h (mask .free) all ∧ Queries (.slotQry h .reserved) s x h (mask .reserved) all
        ∧ Queries (.slotQry h .filling) s x h (mask .filling) all ∧ Queries (.slotQry h .full) s x h (mask .full) all
        ∧ Queries (.slotQry h .key) s x h (if (y.slotOf k).st = .free then 2 ^ 64 - 1 else (y.slotOf k).key.pkg + 2 ^ 8 * (y.slotOf k).key.glade + 2 ^ 17 * (y.slotOf k).key.rill)
            [.tbl 7 x.g (64 * field l 0 4 + k)])

/-- R346, R348: TSLOT.SET notes a time slot's word; PLACE.PART delivers the partition of the job on the glade's die, PLACE.HEALTH and PLACE.BUSY a bit for each glade of a half of the die that is
healthy and in the job's bands, or that holds a unit; PLACE.FIT the first origin at which a query fits, or bit 63. -/
def Obligations.TimeSlotsAndPlace : Prop :=
  ∀ (s : State) (h : Hdr) (x : Fx),
    let l := x.l.toNat
    let r := x.r.toNat
    let ctx := s.ctxOf x.g
    let d := dieOf x.g
    (s.fx h true true = some x → x.fits h 1 → x.ordered → l < 64 → field r 44 2 ≠ 3 → field r 46 17 = 0 → Notes (.tslotSet h) s x h 0 [] (.tslot l x.r))
    ∧ (s.fx h true false = some x → x.fits h 1 →
        (l = 0 → Queries (.placePart h) s x h (if ((s.job ctx).partitions[d]?).getD 0xFF = 0xFF then 0 else 2 ^ 8 + ((s.job ctx).partitions[d]?).getD 0xFF) [])
        ∧ (l ≤ 1 → ∃ v w : Nat, Queries (.placeHealth h) s x h v [] ∧ Queries (.placeBusy h) s x h w []
            ∧ ∀ b < 64, let g := 128 * d + 64 * l + b
              (field v b 1 = if s.healthy g = true ∧ clearingOf g % 16 ∈ (s.job ctx).bands d then 1 else 0)
              ∧ field w b 1 = if (s.place g).isSome then 1 else 0)
        ∧ ∀ (q : List Byte) (ps : List Nat), l % 64 = 0 → 0xFF00000000000000 ≤ l → l < 0xFF00000000000000 + 0x00100000 → readRange s x l 32 .rd = .ok (q, ps) → fitBad q = none →
            Queries (.placeFit h) s x h (match s.fit ctx d (leAt q 0 1) (leAt q 1 1) (decide (leAt q 2 1 = 1)) (leAt q 16 16) [] with
              | none => 2 ^ 63
              | some o => 2 ^ 4 * o.2 + o.1) (ps.flatMap fun p => sectors p 8))

/-! ## Seed banks and grafts -/

/-- R363, R364, R365, R366, R367, R370: the seed instructions on a bank their handle names, outside BROKEN, in an atomic block where they are frontier-only: OPEN of a well-formed descriptor notes a bank at
the lowest free handle with the next generation; APPEND, TRIM and CLOSE note their change and deliver the match registers after it, or whether a replay starts; DRAFT buffers the record of the drafts the
bank holds. The bank is as the walker finds it in its lines (R354, R355). A BROKEN bank raises SEED_BROKEN (0x144), a closed handle gives NOTFOUND (3). -/
def Parts.SeedInstructions : Prop :=
  ∀ (s : State) (h : Hdr) (x : Fx),
    let l := x.l.toNat
    let d := dieOf x.g
    (∀ (q : List Byte) (ps : List Nat) (k : Nat),
      let ctx := s.ctxOf x.g
      s.fx h true false = some x → x.b.atomic = true → x.fits h 1 → x.ordered → (s.ownOffset x.g l).isSome = true → l % 64 = 0 →
      readRange s x l 64 .rd = .ok (q, ps) → seedDescBad q = none → s.held x.g (openSect d) = false →
      leAt q 4 4 + 512 * leAt q 8 4 ≤ 12582912 * (s.bands ctx d).length →
      (∀ y ∈ s.shrRuns ctx d (leAt q 4 4 / 512) (leAt q 8 4), ∀ r ∈ (s.die d).reserved, r.1 = ctx → linesMeet r.2.1 r.2.2 y.1 y.2 = false) → x.b.opened x.i = [] →
      s.backingOk ctx (leAt q 16 8) (2 ^ leAt q 0 1) = true → k < 4096 → (s.seed d k).isOpen = false → (s.seed d k).retired = false →
      (∀ j < k, (s.seed d j).isOpen = true ∨ (s.seed d j).retired = true) →
      Notes (.seedOpen h) s x h (2 ^ 8 * k + 2 ^ 20 * ((s.seed d k).gen + 1)) (ps.flatMap fun p => sectors p 8)
        (.seed 0x110 [k, (s.seed d k).gen + 1, leAt q 0 1, leAt q 4 4, leAt q 8 4, leAt q 16 8]))
    ∧ (let k := field l 0 12
        let was := s.bankSeen x k
        let t := s.bankIn d k
        let b := t.bankSeen x k
        let alone := s.held x.g (seedSect d k) = false
        l < 2 ^ 44 → was.isOpen = true → was.ctx = s.ctxOf x.g → was.gen = field l 12 32 → was.st ≠ .broken → s.backingHeld x.g was = false →
        (s.fx h true true = some x → x.b.atomic = true → x.fits h 1 → x.ordered → alone → x.r.toNat < 2 ^ 24 →
          let a := b.append x.r.toNat
          NotesFrom t (.seedAppend h) s x h (2 ^ 8 * a.mb + 2 ^ 11 * a.ml + 2 ^ 63 * (if a.st = .replay then 1 else 0)) [seedSect d k] (.seed 0x111 [k, x.r.toNat]))
        ∧ (s.fx h true false = some x → x.b.atomic = true → x.fits h 1 → x.ordered → alone → b.st ≠ .replay →
            (b.cap / 2 < b.window.length → NotesFrom t (.seedTrim h) s x h (2 ^ 63) [seedSect d k] (.seed 0x115 [k, 1]))
            ∧ (b.window.length ≤ b.cap / 2 → QueriesFrom t (.seedTrim h) s x h 0 [seedSect d k]))
        ∧ (s.fx h true false = some x → x.b.atomic = true → x.fits h 1 → x.ordered → alone → NotesFrom t (.seedClose h) s x h 0 [seedSect d k] (.seed 0x116 [k]))
        ∧ (∀ (lmin : BitVec 5) (bmax1 : BitVec 2) (dmax1 : BitVec 4) (ps : List Nat), s.seedOf x.g l = some k → (s.seed d k).st ≠ .broken → s.backingHeld x.g (s.seed d k) = false →
            let u := t.touchBank d k
            let br := (t.seed d k).draft lmin.toNat (bmax1.toNat + 1) (dmax1.toNat + 1)
            let nodes := (br.map fun a => a.1.length).sum
            let ts := wordStores x.i x.r.toNat ps (chunks 8 ((draftRecord br).length + 1) (draftRecord br)) 0
            s.fx h true true = some x → x.fits h 1 → x.r.toNat % 64 = 0 → 0xFF00000000000000 ≤ x.r.toNat → x.r.toNat < 0xFF00000000000000 + 0x00100000 →
            tryWords u x .wr (((draftRecord br).length + 7) / 8) x.r.toNat [] = .ok ps → firstConflict x.b x.i ts = none →
            CompletesFrom u (.seedDraft h lmin bmax1 dmax1) s x h (BitVec.ofNat 64 (2 ^ 8 * br.length + 2 ^ 12 * nodes + 2 ^ 63 * (if (t.seed d k).st = .replay then 1 else 0))) 1
              fun y => ({ y with stores := y.stores ++ ts }.read [seedSect d k]).addPend x.i (.seed 0x112 [k, nodes])))
    ∧ (let k := field l 0 12
        let b := s.bankSeen x k
        let open_ := b.isOpen = true ∧ b.ctx = s.ctxOf x.g ∧ b.gen = field l 12 32
        (l < 2 ^ 44 → open_ → b.st = .broken → s.fx h true true = some x → x.b.atomic = true → x.r.toNat < 2 ^ 24 → s.held x.g (seedSect d k) = false →
          exec (.seedAppend h) s = .next (s.blockFault x.g 0x144 l))
        ∧ (l < 2 ^ 44 → ¬open_ → s.fx h true false = some x → x.b.atomic = true → x.fits h 1 →
            Queries (.seedTrim h) s x h 3 [seedSect d k] ∧ Queries (.seedClose h) s x h 3 [seedSect d k])
        ∧ (l < 2 ^ 44 → ¬open_ → s.fx h true true = some x → x.b.atomic = true → x.fits h 1 → x.r.toNat % 64 = 0 →
            Queries (.seedSave h) s x h 3 [seedSect d k] ∧ Queries (.seedLoad h) s x h (3 + 2 ^ 63) [seedSect d k]))

/-- R368, R369: SEED.SAVE buffers the image of the bank as the walker finds it and SEED.LOAD of a well-formed image notes the bank's new window and match registers and reports the replay it starts (bit 63); an image with a bad field
raises SEED_IMAGE (0x145) with the field's offset, a bank in REPLAY gives BUSY (5), one with less room FULL (1), both beside bit 63. -/
def Parts.SeedImages : Prop :=
  ∀ (s : State) (h : Hdr) (x : Fx),
    let l := x.l.toNat
    let d := dieOf x.g
    let k := field l 0 12
    let was := s.bankSeen x k
    let u := s.bankIn d k
    let b := u.bankSeen x k
    s.fx h true true = some x → x.b.atomic = true → x.fits h 1 → x.ordered → l < 2 ^ 44 → x.r.toNat % 64 = 0 → was.isOpen = true → was.ctx = s.ctxOf x.g → was.gen = field l 12 32 →
    was.st ≠ .broken → s.held x.g (seedSect d k) = false → s.backingHeld x.g was = false →
    (∀ ps : List Nat,
      let ts := wordStores x.i x.r.toNat ps (chunks 8 ((seedImage b).length + 1) (seedImage b)) 0
      tryWords u x .wr (((seedImage b).length + 7) / 8) x.r.toNat [] = .ok ps → firstConflict x.b x.i ts = none →
      CompletesFrom u (.seedSave h) s x h (BitVec.ofNat 64 (2 ^ 32 * (64 + 4 * b.window.length))) 1
        fun y => ({ y with stores := y.stores ++ ts }.read [seedSect d k]).addPend x.i (.seed 0x113 [k]))
    ∧ ∀ (hd m : List Byte) (hp ps : List Nat), let n := leAt hd 16 4
        readRange u x x.r.toNat 64 .rd = .ok (hd, hp) →
        (∀ o, seedHeadBad hd = some o → exec (.seedLoad h) s = .next (u.blockFault x.g 0x145 o))
        ∧ (seedHeadBad hd = none → readRange u x x.r.toNat (64 + 4 * n) .rd = .ok (m, ps) → (∀ p < n, leAt m (64 + 4 * p + 3) 1 = 0) →
            let reads := seedSect d k :: ps.flatMap fun p => sectors p 8
            (b.st = .replay → QueriesFrom u (.seedLoad h) s x h (5 + 2 ^ 63) reads)
            ∧ (b.st ≠ .replay → b.cap < n → QueriesFrom u (.seedLoad h) s x h (1 + 2 ^ 63) reads)
            ∧ (b.st ≠ .replay → n ≤ b.cap → NotesFrom u (.seedLoad h) s x h (2 ^ 63) reads
                (.seed 0x114 ([k, leAt m 8 8, leAt m 20 4, leAt m 24 4, leAt m 28 4, leAt m 32 4] ++ (List.range n).map fun p => leAt m (64 + 4 * p) 3))))

/-- R363 to R370: the instructions on seed banks and their images. -/
def Obligations.SeedBanks : Prop := Parts.SeedInstructions ∧ Parts.SeedImages

/-- R319, R378, R379, R380, R381: the graft instructions: FETCH notes a fetch into the entry it takes, or delivers why not, and holds the entry it names; the query's names are read where nothing
is found; PIN of a READY or EVICTING entry delivers its pool address and notes the pin, acquires what the fetch wrote, of a FETCHING one gives BUSY (5), of
a FAILED one raises GRAFT_HASH (0x147) with its reason; UNPIN notes the release of a pin the launch holds; QRY delivers an entry's state word or the handle of an id. -/
def Obligations.GraftInstructions : Prop :=
  ∀ (s : State) (h : Hdr) (x : Fx),
    let l := x.l.toNat
    let ctx := s.ctxOf x.g
    let t := s.graftsAt x
    (∀ (q : List Byte) (ps : List Nat) (e gen : Nat), s.fx h true true = some x → x.b.atomic = true → x.fits h 1 → x.ordered → l % 64 = 0 → 0xFF00000000000000 ≤ l →
      l < 0xFF00000000000000 + 0x00100000 → x.r.toNat % 64 = 0 → readRange s x l 64 .rd = .ok (q, ps) → graftDescBad q = none →
      let reads := findSect ctx (leAt q 0 6) (leAt q 6 2) :: ps.flatMap fun p => sectors p 8
      let answer := t.graftFetch ctx (leAt q 0 6) (leAt q 6 2) (sliceB q 16 32) (leAt q 8 4)
      (answer = (0, some (e, gen)) → s.held x.g (graftSect e) = false →
        Notes (.graftFetch h) s x h (2 ^ 16 * (e + 2 ^ 16 * gen)) reads (.graft 0x118 [e, gen, leAt q 0 6, leAt q 6 2, ofBytes (sliceB q 16 32), leAt q 8 4, x.r.toNat]))
      ∧ (∀ st, st ≠ 0 → answer = (st, some (e, gen)) → s.held x.g (graftSect e) = false →
        Notes (.graftFetch h) s x h (if st = 2 then 2 + 2 ^ 16 * (e + 2 ^ 16 * gen) else st) (graftSect e :: reads) (.hold (graftSect e)))
      ∧ (∀ st, answer = (st, none) → Queries (.graftFetch h) s x h st reads)
      ∧ (∀ st, answer = (st, some (e, gen)) → s.held x.g (graftSect e) = true → exec (.graftFetch h) s = .next (s.stall x)))
    ∧ (∀ e : Nat, s.fx h true false = some x → x.b.atomic = true → x.fits h 1 → x.ordered → l < 2 ^ 32 → t.graftOf ctx l = some e → s.held x.g (graftSect e) = false →
        let y := t.graft e
        (y.st = .ready ∨ y.st = .evicting → y.pinCount ≠ 65535 → t.launchPins (s.launchKeyOf x.g) ≠ 256 →
          NotesFrom (s.acquire x [.graft e]) (.graftPin h) s { x with b := x.b.addPend x.i .acquire } h y.addr [graftSect e] (.graft 0x119 [e]))
        ∧ (y.st = .fetching → Queries (.graftPin h) s x h 5 [graftSect e])
        ∧ (y.st = .failed → exec (.graftPin h) s = .next (s.blockFault x.g 0x147 (l + 2 ^ 32 * y.reason)))
        ∧ (nget 0 y.pins (s.launchKeyOf x.g) ≠ 0 → Notes (.graftUnpin h) s x h (2 ^ 16 * (y.pinCount - 1)) [graftSect e] (.graft 0x11A [e]))
        ∧ (nget 0 y.pins (s.launchKeyOf x.g) = 0 → Queries (.graftUnpin h) s x h 3 [graftSect e]))
    ∧ (s.fx h true false = some x → x.fits h 1 →
        (l < 2 ^ 32 → (∀ e, t.graftOf ctx l = some e → Queries (.graftQryState h) s x h (t.graft e).word [graftSect e])
          ∧ (t.graftOf ctx l = none → Queries (.graftQryState h) s x h 3 [graftSect (field l 0 16)]))
        ∧ ∀ (q : List Byte) (ps : List Nat), 0xFF00000000000000 ≤ l → l < 0xFF00000000000000 + 0x00100000 → readRange s x l 8 .rd = .ok (q, ps) →
            let reads := findSect ctx (leAt q 0 6) (leAt q 6 2) :: ps.flatMap fun p => sectors p 8
            (∀ e, t.graftFind ctx (leAt q 0 6) (leAt q 6 2) = some e → Queries (.graftQryFind h) s x h (2 ^ 16 * (t.graft e).handle e) (graftSect e :: reads))
            ∧ (t.graftFind ctx (leAt q 0 6) (leAt q 6 2) = none → Queries (.graftQryFind h) s x h 3 reads))

/-! ## Counters -/

/-- R385, R387, R388, R389, R392: reads of timelines and completion counters deliver the item and never acquire; the waits deliver the count once it has reached what they wait for, and acquire from the timeline or counter; a refused name
raises COUNTER_SELECT (0x018). -/
def Parts.CounterReadsAndWaits : Prop :=
  ∀ (s : State) (h : Hdr) (x : Fx) (tl : Peer), x.fits h 0 →
    let t := (s.eng x.g).tl tl.code.toNat
    let waits (from_ : Point) (i : Instr) (v : Nat) : Prop := CompletesFrom (s.acquire x [from_]) i s x h (BitVec.ofNat 64 v) 0 fun b => b.addPend x.i .acquire
    let ended : Point := .retired (s.home x.g) tl.code.toNat
    (s.fx h false false = some x → x.b.waitOpen = false →
      Delivers (.tlRead h tl .issued) s x h (BitVec.ofNat 64 t.issued) ∧ Delivers (.tlRead h tl .retired) s x h (BitVec.ofNat 64 t.retired)
      ∧ Delivers (.tlRead h tl .badnum) s x h (BitVec.ofNat 64 t.badnum)
      ∧ Delivers (.tlRead h tl .badstat) s x h (BitVec.ofNat 64 (t.badstat + 2 ^ 16 * (t.nonok % 2 ^ 48))))
    ∧ (s.fx h true false = some x →
        (x.l.toNat ≤ t.retired → waits ended (.tlWaitGe h tl) t.retired) ∧ (t.retired < x.l.toNat → exec (.tlWaitGe h tl) s = .next (s.stall x))
        ∧ (t.issued - t.retired ≤ x.l.toNat → waits ended (.tlWaitLag h tl) (t.issued - t.retired))
        ∧ (x.b.waitOpen = false → ∀ c, s.counter (s.ctxOf x.g) x.l.toNat = some c → Delivers (.ccRead h .count) s x h (BitVec.ofNat 64 c.count)
            ∧ Delivers (.ccRead h .status) s x h (BitVec.ofNat 64 c.status.code) ∧ Delivers (.ccRead h .nonok) s x h (BitVec.ofNat 64 c.nonok)))
    ∧ (s.fx h true true = some x →
        (∀ c, s.counter (s.ctxOf x.g) x.l.toNat = some c → (x.r.toNat ≤ c.count → waits (counterPt (s.ctxOf x.g) x.l.toNat) (.ccWait h) c.count) ∧ (c.count < x.r.toNat → exec (.ccWait h) s = .next (s.stall x)))
        ∧ (s.counter (s.ctxOf x.g) x.l.toNat = none → exec (.ccWait h) s = .next (s.blockFault x.g 0x018 x.l.toNat)))

/-- R393, R394, R405, R407: CC.ADD of a soft counter notes the addition and delivers the count before it; CANCEL notes its selector; PERF.READ and LIFE.READ deliver a counter of the glade or of the package. -/
def Parts.CounterChanges : Prop :=
  ∀ (s : State) (h : Hdr) (x : Fx),
    let l := x.l.toNat
    (∀ (st : BitVec 2) (c : Counter), s.fx h true true = some x → x.b.atomic = true → x.fits h 1 → field l 61 3 = 5 → s.counter (s.ctxOf x.g) l = some c → 0 < x.r.toNat →
      x.r.toNat < 2 ^ 32 → let n := c.count + x.b.added (field l 0 8) x.i
      (n + x.r.toNat < 2 ^ 64 → Completes (.ccAdd h st) s x h (BitVec.ofNat 64 n) 1 fun b => b.addPend x.i (.ccAdd (field l 0 8 + 2 ^ 8 * st.toNat) x.r.toNat))
      ∧ (2 ^ 64 ≤ n + x.r.toNat → exec (.ccAdd h st) s = .next (s.openFault x.g 0x019)))
    ∧ (s.fx h true false = some x → x.b.atomic = true → x.fits h 1 → field l 61 3 ≠ 2 → field l 61 3 ≠ 5 → s.counter (s.ctxOf x.g) l ≠ none →
        ∀ bd, Completes (.cancel h bd) s x h 0 1 fun b => b.addPend x.i (.cancel x.l bd))
    ∧ (s.fx h true false = some x → x.fits h 0 → x.b.waitOpen = false →
        (l ≤ 15 → Delivers (.perfRead h) s x h (nget 0 (s.ww x.g).perf l))
        ∧ (l < 2 ^ 32 → lifeOk s x.g (field l 0 16) (field l 16 16) = true → Delivers (.lifeRead h) s x h (BitVec.ofNat 64 (nget 0 s.pk.life (2 ^ 16 * field l 0 16 + field l 16 16)))))

/-- R397, R398, R399, R400: the PEN instructions buffer the words of a well-formed table that they change: BRANCH an overlay's length and tokens from a draft record, ACCEPT the counts of the accepted tokens with
the overlay closed, DROP the closed overlays; a malformed field raises PEN_FORMAT (0x148) with its offset, a full table PEN_FULL (0x149) with nothing changed and, as no rule states it,
a free TRAP.VALUE (log entry 2). The table is as `penRead` reads it. -/
def Obligations.PenaltyTables : Prop :=
  ∀ (s : State) (h : Hdr) (x : Fx) (old : List Byte) (ps : List Nat),
    let writes (new : List Byte) : List BStore :=
      ⟨x.i, x.l.toNat, (ps[0]?).getD 0, old.take 4, false, []⟩ :: penStores x.i x.l.toNat ps (chunks 8 old.length old) (chunks 8 new.length new) 0
    let changes (new : List Byte) (b : Block) : Block := { b.read (ps.flatMap fun p => sectors p 8) with stores := b.stores ++ writes new }
    x.l.toNat % 64 = 0 → ¬(0xFF00000200000000 ≤ x.l.toNat ∧ x.l.toNat < 0xFF00000200000000 + 0x08000000) → (∀ (b : BitVec 2) (dr : List Byte) (rp : List Nat),
      let len := leAt dr (1 + b.toNat) 1
      let toks := (List.range len).map fun i => leAt dr (64 + 4 * (16 * b.toNat + i)) 4
      let new := putAt (putAt old (12 + b.toNat) [BitVec.ofNat 8 len]) (64 + 64 * b.toNat) (toks.flatMap (toBytes 4))
      s.fx h true true = some x → x.b.atomic = true → x.fits h 1 → penRead s x = .ok (old, ps) → x.r.toNat % 64 = 0 → 0xFF00000000000000 ≤ x.r.toNat →
      x.r.toNat < 0xFF00000000000000 + 0x00100000 → readRange s x x.r.toNat 832 .rd = .ok (dr, rp) → leAt dr 0 1 ≤ 4 →
      (16 < len → exec (.penBranch h b) s = .next (s.blockFault x.g 0x148 (1 + b.toNat)))
      ∧ (len ≤ 16 → (∀ t ∈ toks, t < 2 ^ 24) → firstConflict x.b x.i (writes new) = none →
          exec (.penBranch h b) s = .next ((s.executed x h 0 1 (changes new)).modBlock x.g fun k => k.read (rp.flatMap fun p => sectors p 8))))
    ∧ (∀ b : BitVec 2,
        let r := x.r.toNat
        let k := field r 0 5
        let len := leAt old (12 + b.toNat) 1
        let toks := ((List.range k).map fun j => leAt old (64 + 64 * b.toNat + 4 * j) 3) ++ (if field r 8 1 = 1 then [field r 32 24] else [])
        s.fx h true true = some x → x.b.atomic = true → x.fits h 1 → k ≤ 16 → field r 5 3 = 0 → field r 9 23 = 0 → field r 56 8 = 0 → penRead s x = .ok (old, ps) →
        (0 < k → (len = 0xFF ∨ len < k) → exec (.penAccept h b) s = .next (s.blockFault x.g 0x148 (12 + b.toNat)))
        ∧ (k = 0 ∨ (len ≠ 0xFF ∧ k ≤ len) →
            (∀ t, penAddAll toks old = some t → firstConflict x.b x.i (writes (putAt t (12 + b.toNat) [0xFF])) = none →
              Completes (.penAccept h b) s x h 0 1 (changes (putAt t (12 + b.toNat) [0xFF])))
            ∧ (penAddAll toks old = none → exec (.penAccept h b) s = .next (s.openFault x.g 0x149))))
    ∧ ∀ mask : BitVec 4,
        let new := putAt old 12 ((List.range 4).map fun b => if mask.getLsbD b then 0xFF else (old[12 + b]?).getD 0)
        s.fx h true false = some x → x.b.atomic = true → x.fits h 1 → penRead s x = .ok (old, ps) → firstConflict x.b x.i (writes new) = none →
        Completes (.penDrop h mask) s x h 0 1 (changes new)

/-- R403, R404: USE.SIGN takes the counters as they stand into a record with the job's next sequence number when it executes, signed by the attestation key;
its place is checked and its 512 bytes enter the block then, and when 200 µs have passed (log entry 14) it delivers that number. With four requests pending it gives BUSY (5). -/
def Parts.UsageRecordSigned : Prop :=
  ∀ (s : State) (h : Hdr) (x : Fx) (req : List Byte) (rp : List Nat), s.fx h true false = some x → x.b.atomic = true → x.l.toNat % 64 = 0 → 0xFF00000000000000 ≤ x.l.toNat →
    x.l.toNat < 0xFF00000000000000 + 0x00100000 → readRange s x x.l.toNat 64 .rd = .ok (req, rp) → leAt req 40 24 = 0 →
    let a := leAt req 32 8
    let seq := (s.job (s.ctxOf x.g)).recordSeq + 1
    a % 64 = 0 → (field a 55 1 = 0 ∨ 2 ^ 56 ≤ a) →
    let words (a : Nat) (ps : List Nat) (out : List Byte) : List BStore := penStores x.i a ps (List.replicate 64 []) (chunks 8 512 out) 0
    (∀ ps : List Nat, nfind x.b.signs x.i = none → s.signing.length < 4 → tryWords s x .wr 64 a [] = .ok ps → firstConflict x.b x.i (words a ps (List.replicate 512 0)) = none →
      let body := usageBytes s (s.ctxOf x.g) seq (req.take 32)
      let out := body ++ ecdsaSign s.pk.attestScalar (freeScalar 0 s.free) body
      ∃ t : State, exec (.useSign h) s = .next t
        ∧ (t.job (s.ctxOf x.g)).recordSeq = seq ∧ t.signing = s.signing ++ [s.wall + 1512000000] ∧ t.mem = s.mem
        ∧ ∃ b, t.block x.g = some b ∧ b.signs = x.b.signs ++ [(x.i, s.wall + 1512000000, out)] ∧ b.stores = x.b.stores ++ words a ps out)
    ∧ (∀ ps : List Nat, nfind x.b.signs x.i = none → 4 ≤ s.signing.length → tryWords s x .wr 64 a [] = .ok ps → firstConflict x.b x.i (words a ps (List.replicate 512 0)) = none →
      x.fits h 1 → Queries (.useSign h) s x h 5 (rp.flatMap fun p => sectors p 8))
    ∧ ∀ (ready : Nat) (out : List Byte), nfind x.b.signs x.i = some (ready, out) → x.fits h 1 →
        (s.wall < ready → exec (.useSign h) s = .next (s.stall x))
        ∧ (ready ≤ s.wall → Completes (.useSign h) s x h (BitVec.ofNat 64 (2 ^ 16 * leAt out 8 6)) 1 id)

/-- R385, R387 to R389, R392 to R394, R403 to R405, R407: the instructions on timelines, completion counters, usage and lifetime counters. -/
def Obligations.Counters : Prop := Parts.CounterReadsAndWaits ∧ Parts.CounterChanges ∧ Parts.UsageRecordSigned

/-! ## The element operations -/

/-- R190, R191, R199: a generated result carries its data's residue, is valid where every value read is, last or err where one is, err too where a valid value's residue
disagrees, and the greatest edm; in flight it has port and seq 0, lands λ context cycles on, and with dest DIS is dropped; the focused element's other state and every
other element are those before. -/
def Obligations.ElementTags : Prop :=
  (∀ (reads : List Val) (w : Word), let v := mkG reads w
    v.data = w ∧ v.residue.toNat = w.toNat % 15 ∧ (v.valid = true ↔ ∀ x ∈ reads, x.valid = true) ∧ (v.last = true ↔ ∃ x ∈ reads, x.last = true)
    ∧ (v.err = true ↔ ∃ x ∈ reads, x.err = true ∨ (x.valid = true ∧ ¬x.agrees)) ∧ (∀ x ∈ reads, x.edm.toNat ≤ v.edm.toNat)
    ∧ (v.edm = 0 ∨ ∃ x ∈ reads, x.edm = v.edm) ∧ mismG reads = reads.countP fun x => x.valid && decide (x.residue.toNat ≠ x.data.toNat % 15))
  ∧ ∀ (s : State) (lam : Nat) (d : Dest) (v : Val), let t := s.result lam d v
    (d = .dis → t = s)
    ∧ (d ≠ .dis → t.elemF = { s.elemF with flight := s.elemF.flight ++
        [{ land := s.cntF + lam, issued := s.cntF, val := { v with port := false, seq := 0 }, rso := decide (d = .rso), rel := none }] })
    ∧ (∀ st k, 16 * st + k ≠ 16 * s.focus.stem + s.focus.row → (t.th s.focus.glade).elem st k = (s.th s.focus.glade).elem st k)
    ∧ (t.th s.focus.glade).stems = (s.th s.focus.glade).stems ∧ (t.th s.focus.glade).cnt = (s.th s.focus.glade).cnt ∧ t.mem = s.mem
    ∧ ∀ g, g ≠ s.focus.glade → t.glade g = s.glade g

/-- R198, R200, R202, R203, R204, R224, R225: the FP32 pair operations, the conversions and the fern functions issue, and give per lane the rounded result at their latency; a
conversion or FRND switched to RSTO draws one word for each value it converts, and only then. -/
def Obligations.FloatElements : Prop :=
  ∀ (s : State) (d : Dest) (imm : BitVec 12),
    let a := s.lineA; let b := s.lineB; let c := s.lineC
    let two (f : Nat → Nat → Nat) : Word := ofLanes (f (lane0 a.data) (lane0 b.data)) (f (lane1 a.data) (lane1 b.data))
    let three (f : Nat → Nat → Nat → Nat) : Word := ofLanes (f (lane0 a.data) (lane0 b.data) (lane0 c.data)) (f (lane1 a.data) (lane1 b.data) (lane1 c.data))
    Gives (.fadd d imm) s 4 d [a, b] (two fun x y => enc32 ((dec32 x).add (dec32 y)))
    ∧ Gives (.fsub d imm) s 4 d [a, b] (two fun x y => enc32 ((dec32 x).add (dec32 y).neg))
    ∧ Gives (.fmul d imm) s 4 d [a, b] (two fun x y => enc32 ((dec32 x).mul (dec32 y)))
    ∧ Gives (.fma d imm) s 4 d [a, b, c] (three fun x y z => enc32 (((dec32 x).mul (dec32 y)).add (dec32 z)))
    ∧ Gives (.fnma d imm) s 4 d [a, b, c] (three fun x y z => enc32 (((dec32 x).mul (dec32 y)).neg.add (dec32 z)))
    ∧ Gives (.fmin d imm) s 2 d [a, b] (two f32min) ∧ Gives (.fmax d imm) s 2 d [a, b] (two f32max)
    ∧ (∀ neg abs, Gives (.fmod d neg abs) s 2 d [a] (ofLanes (fmodL neg abs (lane0 a.data)) (fmodL neg abs (lane1 a.data))))
    ∧ (∀ r, Gives (.fcmp d r) s 2 d [a, b] (two (fcmpL r)))
    ∧ Gives (.fsel d imm) s 2 d [a, b, c] (three fun x y z => if z ≠ 0 then x else y)
    ∧ Gives (.fclamp d imm) s 2 d [a, b, c] (three fun x y z => f32min (f32max x y) z)
    ∧ Gives (.fscale d imm) s 2 d [a, b] (two f32scale)
    ∧ (∀ k : BitVec 1, Converts (.cvtF32Bf16 d k) s 2 3 d [a] (fun _ _ _ => cvtF32Bf16W k.toNat a.data))
    ∧ (∀ k : BitVec 2, Converts (.cvtF32E4m3 d k) s 2 3 d [a] (fun _ _ _ => cvtF32E4m3W k.toNat a.data))
    ∧ Converts (.frnd d imm) s 2 2 d [a] (fun rm _ ws => frndW rm ws a.data)
    ∧ Converts (.cvtBf16F32 d) s 4 3 d [a, b] (fun rm sm ws => cvtBf16F32W rm sm ws a.data b.data)
    ∧ (∀ k : BitVec 1, Converts (.cvtE4m3F32 d k) s 4 3 d [a, b, c] (fun rm sm ws => cvtE4m3F32W rm sm ws k.toNat a.data b.data c.data))
    ∧ (∀ k : BitVec 2, Converts (.cvtE2m1F32 d k) s 4 3 d [a, b, c] (fun rm sm ws => cvtE2m1F32W rm sm ws k.toNat a.data b.data c.data))
    ∧ (∀ ty dir, Converts (.cvtIf d ty dir) s (if ty = .s32 ∨ ty = .z32 then 2 else 1) 3 d [a] (fun rm sm ws => cvtIfW rm sm ws ty dir a.data))
    ∧ ∀ x ∈ [(Instr.exp2 d imm, 18, f32exp2), (.log2 d imm, 18, f32log2), (.rcp d imm, 12, f32rcp), (.rsqrt d imm, 14, f32rsqrt), (.sqrt d imm, 16, f32sqrt),
        (.tanh d imm, 24, f32tanh), (.erf d imm, 24, f32erf)],
        ∃ t : State, exec x.1 s = .next t ∧ t.elemF = s.elemF ∧ t.mem = s.mem
          ∧ t.stemF = { s.stemF with fern := s.stemF.fern ++ [FernEnt.mk s.focus.row (s.cntF + x.2.1) s.cntF
              (mkG [a] (ofLanes (x.2.2 (lane0 a.data)) (x.2.2 (lane1 a.data)))) (decide (d ≠ .dis)) (decide (d = .rso)) false] }

/-- R200, R207, R208: the integer operations wrap, compare and multiply by their type's lanes; IADD, ISUB and, on 64-bit types, IMUL predict their result's residue from those of
their operands, and where these agree with the operands' data the prediction agrees with the result's and no mismatch is counted. -/
def Obligations.IntegerElements : Prop :=
  ∀ (s : State) (d : Dest) (ty : IntType) (imm : BitVec 12),
    let a := s.lineA; let b := s.lineB; let c := s.lineC
    let wide := ty = .s64 ∨ ty = .z64
    let bin (f : (n : Nat) → BitVec n → BitVec n → BitVec n) : Word := eachLane ty f a.data b.data
    let count (p : Nat → Nat → Nat → Bool) : Nat :=
      if wide then (p 64 a.data.toNat b.data.toNat).toNat else (p 32 (lane0 a.data) (lane0 b.data)).toNat + (p 32 (lane1 a.data) (lane1 b.data)).toNat
    let predicts (i : Instr) (lam : Nat) (w : Word) (r : Int) : Prop :=
      (∃ v : Val, exec i s = .next ((s.result lam d v).mism (mismG [a, b] + if r % 15 = (w.toNat % 15 : Nat) then 0 else 1))
        ∧ v = { mkG [a, b] w with residue := v.residue, err := v.err } ∧ (v.residue.toNat : Int) = r % 15
        ∧ (v.err = true ↔ (mkG [a, b] w).err = true ∨ r % 15 ≠ (w.toNat % 15 : Nat)))
      ∧ (a.agrees → b.agrees → Gives i s lam d [a, b] w)
    predicts (.iadd d ty imm) 1 (bin fun _ x y => x + y) ((a.residue.toNat : Int) + b.residue.toNat - count fun n x y => decide (2 ^ n ≤ x + y))
    ∧ predicts (.isub d ty imm) 1 (bin fun _ x y => x - y) ((a.residue.toNat : Int) - b.residue.toNat + count fun _ x y => decide (x < y))
    ∧ (wide → predicts (.imul d ty imm) 3 (a.data * b.data) ((a.residue.toNat : Int) * b.residue.toNat - a.data.toNat * b.data.toNat / 2 ^ 64))
    ∧ (¬wide → Gives (.imul d ty imm) s 3 d [a, b] (bin fun _ x y => x * y))
    ∧ Gives (.imulh d ty imm) s 3 d [a, b] (bin fun n x y => BitVec.ofInt n (laneInt ty x * laneInt ty y / 2 ^ n))
    ∧ Gives (.iand d ty imm) s 1 d [a, b] (bin fun _ x y => x &&& y) ∧ Gives (.ior d ty imm) s 1 d [a, b] (bin fun _ x y => x ||| y)
    ∧ Gives (.ixor d ty imm) s 1 d [a, b] (bin fun _ x y => x ^^^ y)
    ∧ Gives (.ishl d ty imm) s 1 d [a, b] (bin fun n x y => x <<< (y.toNat % n)) ∧ Gives (.ishr d ty imm) s 1 d [a, b] (bin fun n x y => x >>> (y.toNat % n))
    ∧ Gives (.isar d ty imm) s 1 d [a, b] (bin fun n x y => x.sshiftRight (y.toNat % n))
    ∧ Gives (.imin d ty imm) s 1 d [a, b] (bin fun _ x y => if laneInt ty x ≤ laneInt ty y then x else y)
    ∧ Gives (.imax d ty imm) s 1 d [a, b] (bin fun _ x y => if laneInt ty y ≤ laneInt ty x then x else y)
    ∧ Gives (.icmp d ty .eq) s 1 d [a, b] (bin fun n x y => if x = y then BitVec.allOnes n else 0)
    ∧ Gives (.icmp d ty .ne) s 1 d [a, b] (bin fun n x y => if x = y then 0 else BitVec.allOnes n)
    ∧ Gives (.icmp d ty .lt) s 1 d [a, b] (bin fun n x y => if laneInt ty x < laneInt ty y then BitVec.allOnes n else 0)
    ∧ Gives (.icmp d ty .le) s 1 d [a, b] (bin fun n x y => if laneInt ty x ≤ laneInt ty y then BitVec.allOnes n else 0)
    ∧ Gives (.isel d ty imm) s 1 d [a, b, c] (if wide then (if c.data = 0 then b.data else a.data)
        else (if lane1 c.data = 0 then b.data else a.data).extractLsb' 32 32 ++ (if lane0 c.data = 0 then b.data else a.data).extractLsb' 0 32)

/-- R92, R209: the modular operations give exact residues of the modulus the run entry latched; the butterflies give a second result one context cycle after the first. -/
def Obligations.ModularElements : Prop :=
  ∀ (s : State) (d : Dest) (m : BitVec 4),
    let q : Int := s.modulusF m.toNat
    let a := s.lineA; let b := s.lineB; let c := s.lineC
    let x : Int := a.data.toNat; let y : Int := b.data.toNat; let z : Int := c.data.toNat
    let twice (i : Instr) (v w : Int) : Prop :=
      exec i s = .next (((s.result 6 d (mkG [a, b, c] (BitVec.ofInt 64 (v % q)))).mism (mismG [a, b, c])).result 7 d (mkG [a, b, c] (BitVec.ofInt 64 (w % q))))
    0 < q → q < 2 ^ 62 →
      Gives (.mmul d m) s 6 d [a, b] (BitVec.ofInt 64 (x * y % q)) ∧ Gives (.madd d m) s 2 d [a, b] (BitVec.ofInt 64 ((x + y) % q))
      ∧ Gives (.msub d m) s 2 d [a, b] (BitVec.ofInt 64 ((x - y) % q))
      ∧ twice (.bfly d m) (x + z * y) (x - z * y) ∧ twice (.ibfly d m) (x + y) ((x - y) * z)

/-- R65, R210, R211: PASS and dest THRU give a value with its tags, HOLD only where bit 0 of C is 1, CONST the widened immediate; AG.CNT and AG.LINK walk: a level gives its base
plus its counter times its stride, counts once every lower level has wrapped, wraps after n values and marks the wrap in edm; an idle A passes and counts nothing. -/
def Obligations.PlumbingAndWalks : Prop :=
  ∀ (s : State) (d : Dest),
    let a := s.lineA; let b := s.lineB; let c := s.lineC
    let kept (v : Val) (reads : List Val) : Val := { v with err := (mkG reads 0).err || decide (v.residue.toNat ≠ v.data.toNat % 15), rels := relsOf (v :: reads) }
    (∀ ty imm, exec (.pass d ty imm) s = .next ((s.result 1 d (kept a [a])).mism (mismG [a] + a.wrong)))
    ∧ (∀ y, s.cyc = some y → exec .passThru s = .next ((s.result 1 .res (kept y.pass [y.pass])).mism (mismG [y.pass] + y.pass.wrong)))
    ∧ (∀ ty imm, exec (.hold d ty imm) s = .next (if c.data.getLsbD 0 then (s.result 1 d (kept a [a, c])).mism (mismG [a, c] + a.wrong) else s.mism (mismG [a, c])))
    ∧ (∀ ty imm, exec (.const d ty imm) s = .next (s.result 1 d { data := immWord ty imm, residue := BitVec.ofNat 4 ((immWord ty imm).toNat % 15) }))
    ∧ (∀ n : BitVec 12, let i := s.elemF.level
        exec (.agCnt d n) s = .next (((s.result 1 d { mkG [b] (BitVec.ofNat 64 i * b.data) with valid := true, edm := if i = n.toNat then 1 else 0 }).modElemF fun e =>
          { e with level := if i = n.toNat then 0 else i + 1 }).mism (mismG [b])))
    ∧ ∀ (l : BitVec 4) (n : BitVec 8), let j := s.elemF.level
        let lower := l.toNat ≤ a.edm.toNat + 1
        (a.valid = false → exec (.agLink d l n) s = .next ((s.result 1 d { mkG [a, b] a.data with edm := a.edm }).mism (mismG [a, b])))
        ∧ (a.valid = true →
            exec (.agLink d l n) s = .next (((s.result 1 d { mkG [a, b] (a.data + BitVec.ofNat 64 j * b.data) with edm := if lower ∧ j = n.toNat then l else a.edm }).modElemF
              fun e => { e with level := if lower then (if j = n.toNat then 0 else j + 1) else j }).mism (mismG [a, b])))

/-- R212, R213, R214: the address generators give the generic address they form, with the tags of A, and ask for the memory there, where A (and of a store C) is valid; idle
operands ask for nothing. -/
def Obligations.AddressGenerators : Prop :=
  ∀ (s : State) (d : Dest) (sp : Space),
    let a := s.lineA; let b := s.lineB; let c := s.lineC
    let sum := b.data + a.data
    (∀ z : AgSize, let n := match z with | .b1 => 1 | .b2 => 2 | .b4 => 4 | .b8 => 8
      let scaled := b.data + a.data * BitVec.ofNat 64 n
      (a.valid = true → Asks (.agLd d sp z) s d sum [a, b] sp n .load .rd 0 ∧ Asks (.agGath d sp z) s d scaled [a, b] sp n .load .rd 0)
      ∧ (a.valid = false → exec (.agLd d sp z) s = .next (s.agGave d sum [a, b]) ∧ exec (.agGath d sp z) s = .next (s.agGave d scaled [a, b]))
      ∧ (a.valid = true ∧ c.valid = true → Asks (.agSt d sp z) s d sum [a, b, c] sp n .store .wr c.data ∧ Asks (.agScat d sp z) s d scaled [a, b, c] sp n .store .wr c.data)
      ∧ (a.valid = false ∨ c.valid = false →
          exec (.agSt d sp z) s = .next (s.agGave d sum [a, b, c]) ∧ exec (.agScat d sp z) s = .next (s.agGave d scaled [a, b, c])))
    ∧ ∀ (sc : Scope) (op : AgOp) (z : Bool),
        (a.valid = true → Asks (.agAtom d sc op sp z) s d sum [a, b, c] sp (if z then 8 else 4) (.atom op sc) .atom c.data)
        ∧ (a.valid = false → exec (.agAtom d sc op sp z) s = .next (s.agGave d sum [a, b, c]))

/-- R108, R215, R216, R217: the reducers combine the contributing rows of a stem in the fixed tree: FADD with +0 and IADD with 0 for an absent row, FMAX, ARGMAX and SMERGE ignoring it. -/
def Obligations.Reducers : Prop :=
  ∀ (s : State) (d : Dest) (msk : Bool),
    let own (x : RedLeaf) : List Val := [x.a]
    let lanes (f : (Word → Nat) → Nat) : Word := ofLanes (f lane0) (f lane1)
    let leaf (ls : List RedLeaf) (i : Nat) : Option RedLeaf := (ls[i]?).bind fun x => if x.present then some x else none
    Reduces (.redFadd d msk) s msk 8 d own (fun ls => [lanes fun g => treeFrom f32add (fun i => ((leaf ls i).map fun x => g x.a.data).getD 0) 4 0])
    ∧ Reduces (.redFmax d msk) s msk 4 d own (fun ls => [lanes fun g =>
        (treeFrom (optComb f32max) (fun i => (leaf ls i).map fun x => g x.a.data) 4 0).getD 0xFF800000])
    ∧ (∀ z, Reduces (.redIadd d z msk) s msk 4 d own (fun ls => [((ls.filter (·.present)).map (·.a.data)).foldl (· + ·) 0]))
    ∧ Reduces (.redArgmax d msk) s msk 4 d own (fun ls =>
        let r := (treeFrom (optComb argmaxComb) (fun i => (leaf ls i).map fun x => (lane0 x.a.data, lane1 x.a.data)) 4 0).getD (0xFF800000, 0xFFFFFFFF)
        [ofLanes (if f32isNan r.1 then 0x7FC00000 else r.1) r.2])
    ∧ Reduces (.redSmerge d msk) s msk 12 d (fun x => [x.a, x.b]) (fun ls =>
        let r := (treeFrom (optComb smergeComb) (fun i => (leaf ls i).map fun x => Smx.mk (lane0 x.a.data) (lane1 x.a.data) (lane0 x.b.data) (lane1 x.b.data)) 4 0).getD ⟨0xFF800000, 0, 0, 0⟩
        [ofLanes r.m r.s, ofLanes r.v0 r.v1])

/-- R218, R219, R220, R221: an issue of a JOIN element appends what it reads, then delivers its pending output, or the end of a run once both sides are done, or takes an idle head,
or waits for an empty side, or makes one comparison; an append past 16 values holds the glade, and a skipped issue changes nothing and gives an idle value. -/
def Obligations.JoinElements : Prop :=
  ∀ (s : State) (d : Dest) (wide : Bool) (lv : BitVec 4) (i : Instr) (op : JoinOp),
    (i = .joinIsect d wide lv ∧ op = .isect ∨ i = .joinUnion d wide lv ∧ op = .union ∨ i = .joinMerge d wide lv ∧ op = .merge) →
    let k (v : Val) : Nat := if wide then lane1 v.data else lane0 v.data
    let add (q : List Val) (v : Val) : List Val := if v.valid || v.last || (decide (0 < lv.toNat) && decide (lv.toNat ≤ v.edm.toNat)) then q ++ [v] else q
    let e : Elem := { s.elemF with qa := add s.elemF.qa s.lineA, qb := add s.elemF.qb s.lineB }
    let idle (edm : BitVec 4) (last : Bool) : Val := { edm := edm, last := last, valid := false }
    let skipped := ∃ c, s.cyc = some c ∧ c.skip = true
    let one (v : Val) : Val := { v with last := false, edm := 0, port := false, seq := 0, err := v.err || v.mismatch }
    let made (reads : List Val) (w : Word) : Val := { data := w, residue := BitVec.ofNat 4 (w.toNat % 15), err := (mkG reads 0).err, rels := relsOf reads }
    let pays (x y : Option Val) : Option Val := if wide then
      some (made (x.toList ++ y.toList) (ofLanes ((y.map fun v => lane0 v.data).getD 0) ((x.map fun v => lane0 v.data).getD 0))) else none
    let emits (e : Elem) (x y : Option Val) : Prop := match op, x, y with
      | .merge, some v, _ => Joins i s d e (one v)
      | .merge, none, some v => Joins i s d e (one v)
      | .isect, some v, some w => Joins i s d { e with pend := pays x y } (made [v, w] (BitVec.ofNat 64 (k v)))
      | .isect, _, _ => Joins i s d e (idle 0 false)
      | .union, some v, _ => Joins i s d { e with pend := pays x y } (made (x.toList ++ y.toList) (BitVec.ofNat 64 (k v)))
      | .union, none, some w => Joins i s d { e with pend := pays x y } (made [w] (BitVec.ofNat 64 (k w)))
      | _, none, none => True
    let head (v : Val) (q : List Val) : Prop := q.head? = some v
    (skipped → exec i s = .next (s.result 2 d (idle 0 false)))
    ∧ (¬skipped → 16 < e.qa.length ∨ 16 < e.qb.length → exec i s = .next s.holdCyc)
    ∧ (¬skipped → e.qa.length ≤ 16 → e.qb.length ≤ 16 →
        (∀ v, e.pend = some v → Joins i s d { e with pend := none } v)
        ∧ (e.pend = none → (∀ x y, e.doneA = some x → e.doneB = some y →
              Joins i s d { e with doneA := none, doneB := none } (idle (if x.1.toNat < y.1.toNat then y.1 else x.1) (x.2 || y.2)))
          ∧ (∀ v, e.doneA = none → head v e.qa → v.valid = false → Joins i s d (e.tookA lv.toNat v) (idle 0 false))
          ∧ (∀ v, e.doneB = none → head v e.qb → v.valid = false → (e.doneA = none → ∀ w, head w e.qa → w.valid = true) → Joins i s d (e.tookB lv.toNat v) (idle 0 false))
          ∧ ((e.doneA = none ∧ e.qa = [] ∧ (e.doneB = none → ∀ w, head w e.qb → w.valid = true))
              ∨ (e.doneB = none ∧ e.qb = [] ∧ (e.doneA = none → ∀ w, head w e.qa → w.valid = true)) → Joins i s d e (idle 0 false))
          ∧ (∀ v x, e.doneA = none → e.doneB = some x → head v e.qa → v.valid = true → emits (e.tookA lv.toNat v) (some v) none)
          ∧ (∀ v x, e.doneA = some x → e.doneB = none → head v e.qb → v.valid = true → emits (e.tookB lv.toNat v) none (some v))
          ∧ (∀ v w, e.doneA = none → e.doneB = none → head v e.qa → head w e.qb → v.valid = true → w.valid = true →
              (k v < k w ∨ (k v = k w ∧ op = .merge) → emits (e.tookA lv.toNat v) (some v) none)
              ∧ (k w < k v → emits (e.tookB lv.toNat w) none (some w))
              ∧ (k v = k w → op ≠ .merge → emits ((e.tookA lv.toNat v).tookB lv.toNat w) (some v) (some w)))))

/-- R206, R222, R223, R401: SAMP.INIT clears the sampler and names its path; SAMP.STEP draws two words for every valid step and replaces the candidate where u × mass < w × 2^48, faults with
SAMP_OVERFLOW (0x089, its TRAP.VALUE a free value, log entry 2) before it draws where the mass would reach 2^64, and does nothing for an idle A; SAMP.EMIT gives the sampler's words as they were; RNG gives two words. -/
def Obligations.Sampling : Prop :=
  ∀ (s : State) (d : Dest),
    let a := s.lineA; let e := s.elemF
    let word (w : Nat) : Val := { data := BitVec.ofNat 64 w, residue := BitVec.ofNat 4 ((BitVec.ofNat 64 w).toNat % 15) }
    (∀ p : BitVec 6, exec (.sampInit d p) s = .next ((s.modElemF fun e =>
        { e with cand := 0xFFFFFFFF, mass := 0, bad := false, path := p.toNat, rblk := 0, rword := 0 }).result 1 d (word 0)))
    ∧ (∀ clr, exec (.sampEmit d clr) s = .next ((if clr then s.modElemF fun e => { e with cand := 0xFFFFFFFF, mass := 0, bad := false } else s).result 1 d
        (word (e.cand.toNat + (if e.mass = 0 then 2 ^ 32 else 0) + (if e.bad then 2 ^ 33 else 0)))))
    ∧ (s.runF.key = none → exec (.rng d) s = .next (s.faultCycOpen 0x088))
    ∧ (∀ key, s.runF.key = some key → e.rword < 4 → s.drawPos + 2 ≤ 2 ^ 34 → ∀ w0 w1, s.drawWords key 2 = [w0, w1] →
        exec (.rng d) s = .next ((s.drawMoved 2).result 2 d (word (w0 % 2 ^ 32 + w1 % 2 ^ 32 * 2 ^ 32)))
        ∧ ∀ f : BitVec 6, a.valid = true →
            let (w, bad) := match dec32 (lane0 a.data) with
              | .fin neg m x => if neg && m != 0 then (0, true) else
                  (min (2 ^ 48 - 1) (if 0 ≤ x + f.toNat then m * 2 ^ (x + f.toNat).toNat else roundShift .rne false 0 m (-(x + f.toNat)).toNat), false)
              | _ => (0, true)
            let mass := e.mass + w
            let u := w1 % 2 ^ 16 * 2 ^ 32 + w0
            let cand : BitVec 32 := if u * mass < w * 2 ^ 48 then BitVec.ofNat 32 (lane1 a.data) else e.cand
            (2 ^ 64 ≤ mass → exec (.sampStep d f) s = .next (s.faultCycOpen 0x089))
            ∧ (mass < 2 ^ 64 → exec (.sampStep d f) s = .next ((((s.drawMoved 2).modElemF fun e => { e with cand := cand, mass := mass, bad := e.bad || bad }).result 4 d
                (mkG [a] (cand.setWidth 64))).mism (mismG [a]))))
    ∧ ∀ f : BitVec 6, a.valid = false → Gives (.sampStep d f) s 4 d [a] (e.cand.setWidth 64)

/-- R226, R227, R228, R229, R230, R281: BND.REL gives A, bound to what was stored before its issue, and with it its release at the scope of the class word; RES.CHK marks or raises RESIDUE_ERR (0x083) with stem and row; SEQ.TAG passes the expected
number, drops duplicates and damaged motes and raises SEQ_GAP (0x084); RILL.IN takes the head of its row's lane, raises RILL_TORN (0x0C6) with its rill, and where another reader has emptied the lane
holds or raises PORT_EMPTY (0x082, R67, R194); RILL.OUT sends a valid A with the rill's route and next number, and holds the glade while 16 motes wait; the motes that the context cycle has sent by then
are not sent again when it is made again (log entry 60). -/
def Obligations.BoundaryAndRills : Prop :=
  ∀ (s : State) (d : Dest) (ty : ElemType),
    let a := s.lineA; let e := s.elemF.expect; let g := s.focus.glade
    let bad := a.err || decide (a.residue.toNat ≠ a.data.toNat % 15)
    let kept : Val := { a with err := (mkG [a] 0).err || decide (a.residue.toNat ≠ a.data.toNat % 15), rels := relsOf [a, a] }
    let sc : Scope := (Sys2Proof.Scope.ofCode (clsScope (s.stemF.clsAt s.focus.row))).getD .glade
    let counted (t : State) : State := t.mism (mismG [a] + a.wrong)
    let passes (i : Instr) : Prop := exec i s = .next (counted (s.result 1 d kept))
    let dropped : State := (s.result 1 d { valid := false }).mism (mismG [a])
    let lands (lam : Nat) (v : Val) (rel : Option Nat) : List Flight :=
      if d = .dis then [] else [{ land := s.cntF + lam, issued := s.cntF, val := { v with port := false, seq := 0 }, rso := decide (d = .rso), rel := rel }]
    exec (.bndRel d ty) s = .next (if d = .dis then counted s else ((counted s).drawn.bndRelease g s.free).modElemF fun e =>
      { e with flight := e.flight ++ lands 2 { kept with rels := a.rels ++ [(⟨sc, g, s.free⟩ : Rel)] } (some s.wall) })
    ∧ (∀ flt, exec (.resChk d ty flt) s = .next (if flt && bad then (s.mism 1).faultCyc 0x083 (s.focus.stem + 16 * s.focus.row)
        else (s.mism (if bad then 1 else 0)).result 1 d { a with err := bad }))
    ∧ (a.valid = false ∨ a.port = false → passes (.seqTag d ty))
    ∧ (a.valid = true → a.port = true →
        (a.err = true → exec (.seqTag d ty) s = .next dropped)
        ∧ (a.err = false → a.seq = e → exec (.seqTag d ty) s = .next ((counted (s.result 1 d kept)).modElemF fun x => { x with expect := e + 1 }))
        ∧ (a.err = false → 1 ≤ (e - a.seq).toNat → (e - a.seq).toNat ≤ 2 ^ 15 → exec (.seqTag d ty) s = .next dropped)
        ∧ (a.err = false → 2 ^ 15 < (e - a.seq).toNat → exec (.seqTag d ty) s = .next (s.faultCyc 0x084 (e.toNat + 2 ^ 16 * a.seq.toNat))))
    ∧ ∀ r : BitVec 5, let x := (s.eng g).rill r.toNat
        let route := field x.cfg.toNat 44 8
        (x.status = 1 → exec (.rillIn d ty r) s = .next (s.faultCyc 0x0C6 r.toNat))
        ∧ (x.status ≠ 1 → ∀ v, x.port.head s.focus.row = some v → ∃ t : State, exec (.rillIn d ty r) s = .next t
            ∧ ((t.eng g).rill r.toNat).port = x.port.take s.focus.row ∧ t.mem = s.mem
            ∧ t.elemF.flight = s.elemF.flight ++ lands 2 { v with residue := BitVec.ofNat 4 (v.data.toNat % 15), err := v.err || v.mismatch } none)
        ∧ (x.status ≠ 1 → x.port.head s.focus.row = none → exec (.rillIn d ty r) s = .next
            (if field (s.stemF.tapAt s.countF) 15 1 = 1 then s.modCyc fun c => { c with tapHold := true } else s.faultCyc 0x082 (s.focus.stem + 2 ^ 8 + 2 ^ 9 * r.toNat)))
        ∧ (a.valid = false → passes (.rillOut d ty r))
        ∧ (a.valid = true → (s.focus.stem, s.focus.row) ∈ (s.th g).sent →
            exec (.rillOut d ty r) s = .next (counted ((s.modCyc fun c => { c with sent := c.sent ++ [(s.focus.stem, s.focus.row)] }).result 1 d kept)))
        ∧ (a.valid = true → (s.focus.stem, s.focus.row) ∉ (s.th g).sent →
            (∀ c v, s.emitBad g s.focus.stem route = some (c, v) → exec (.rillOut d ty r) s = .next (s.faultCyc c v))
            ∧ (s.emitBad g s.focus.stem route = none → 16 ≤ x.ostream.out.length ∨ s.cyc.any (·.full) = true →
                exec (.rillOut d ty r) s = .next (s.holdCyc.modCyc fun c => { c with full := true }))
            ∧ (s.emitBad g s.focus.stem route = none → x.ostream.out.length < 16 → s.cyc.any (·.full) = false → ∃ t : State, exec (.rillOut d ty r) s = .next t
              ∧ ((t.eng g).rill r.toNat).oseq = x.oseq + 1 ∧ t.mem = s.mem
              ∧ ((t.eng g).rill r.toNat).ostream.out = x.ostream.out ++ [s.sentBy g s.focus.stem (256 * s.countF + 16 * s.focus.row + s.focus.stem) route
                  { data := a.data, rill := r, edm := a.edm, residue := a.residue, route := BitVec.ofNat 8 route, seq := x.oseq, err := a.err, last := a.last, rels := a.rels }]
              ∧ t.elemF.flight = s.elemF.flight ++ lands 1 kept none))

/-! ## Events: power, host, management -/

/-- R26, R27, R28, R29, R428, R429, R453: POWER_ON starts the verifying firmware of the higher security version, measures it, reads the part record, zeroes every memory of the package and releases the crown dies
with their first in-field tests; it stops with the crown dies held where the device firmware, the manifest or the part record does not verify, and with nothing running where no heartwood firmware
does, as where the flash's chain does not begin with the root key whose digest the ROM holds. A package that runs already is not started again. How many firmware images verify is what `ecdsaVerify`
says of the flash under the keys its chain certifies (the layout of the certificates is log entry 99's choice). -/
def Obligations.PowerOn : Prop :=
  ∀ (s : State) (failed : List Nat),
    let f := s.pk.flash
    let key (role : Nat) : List Byte := s.pk.keyFor role
    let ok (x : FlashSlot) : Bool := ecdsaVerify (key 2) x.image x.sig
    let start (a b : FlashSlot) : Nat := if ok a then (if ok b ∧ a.secver < b.secver then 2 else 1) else if ok b then 2 else 0
    let hw := start f.hwA f.hwB
    let df := start f.dfA f.dfB
    let listOk := ecdsaVerify (key 4) f.manifestBytes f.manifestSig
    (s.pk.power ≠ 0 → exec (.powerOn failed) s = .next s)
    ∧ (sha256 (f.chain.take 64) ≠ s.pk.rom → hw = 0)
    ∧ (s.pk.power = 0 → hw = 0 → Reaches (.powerOn failed) s fun t => t.pk.power = 2 ∧ t.jobs = [] ∧ t.dies = [])
    ∧ (s.pk.power = 0 → hw ≠ 0 → Reaches (.powerOn failed) s fun t =>
        t.pk.flash = f ∧ t.jobs = [] ∧ t.glades = [] ∧ t.fns = [] ∧ (∀ a, memGet t.mem a = if 2 ^ 60 ≤ a then memGet s.mem a else 0)
        ∧ t.pk.m0 = sha256 (if hw = 1 then f.hwA.image else f.hwB.image) ∧ t.pk.m3 = sha256 (f.part.take 192) ∧ t.pk.rom = s.pk.rom
        ∧ (df = 0 ∨ listOk = false → t.pk.power = 3 ∧ t.dies = [] ∧ t.out = s.out ++ [.mgmt 429 [if df = 0 then 1 else 2]])
        ∧ (df ≠ 0 → listOk = true → t.pk.m1 = sha256 (if df = 1 then f.dfA.image else f.dfB.image) ∧ t.pk.m2 = sha256 f.manifestBytes
            ∧ (∀ c, partBad (key 3) f.part = some c → t.pk.power = 3 ∧ t.dies = [] ∧ t.out = s.out ++ [.mgmt 27 [BitVec.ofNat 8 c]])
            ∧ (partBad (key 3) f.part = none → t.pk.power = 1 ∧ t.pk.partOk = true ∧ t.pk.grade = leAt f.part 2 1 ∧ t.pk.channels = leAt f.part 96 64 ∧ t.pk.number = none
                ∧ (∀ g < 512, t.pk.health.testBit g = ((leAt f.part 32 64).testBit g && decide (clearingOf g ∉ failed)))
                ∧ (∀ d < 4, (nfind t.dies d).isSome = true ∧ (t.die d).held = false)
                ∧ ∀ c < 64, (t.clearing c).seq = 1 ∧ (t.clearing c).last = (if c ∈ failed then 2 else 1) ∧ (t.clearing c).quarantined = decide (c ∈ failed))))

/-- R406, R407, R448, R454, R455: power failure, the lifetime flush, thermal shutdown, clock steps, the power cap, the histograms, the package number, firmware updates and monitoring, where the power
drawn is under the cap (log entry 104). -/
def Obligations.PowerAndManagement : Prop :=
  ∀ s : State,
    Reaches .powerFail s (fun t => t.pk.power = 0 ∧ t.pk.flash = s.pk.flash ∧ t.pk.life = s.pk.flash.life ∧ t.jobs = [] ∧ t.glades = [] ∧ t.dies = []
      ∧ ∀ a, memGet t.mem a = if 2 ^ 60 ≤ a then memGet s.mem a else 0)
    ∧ exec .lifetimeFlush s = .next { s with pk := { s.pk with flash := { s.pk.flash with life := s.pk.life }, lastFlush := s.wall } }
    ∧ Reaches .thermalShutdown s (fun t => t.pk.power = 4 ∧ ∀ d x, nfind t.dies d = some x → x.held = true)
    ∧ (∀ die step, die < 4 → step < 5 → Reaches (.clockStep die step) s fun t =>
        t.die die = { s.die die with clock := step, nextEdge := (s.die die).nextEdge + ([2520, 2800, 3150, 3600, 4200][step]?).getD 0 - cyWall (s.die die).clock }
        ∧ (∀ d, d ≠ die → t.die d = s.die d) ∧ t = { s with dies := t.dies })
    ∧ (∀ w, 1200 ≤ w → w ≤ 2600 → s.pk.power = 1 ∨ s.pk.power = 3 →
        exec (.powerCapSet w) s = .next { s with pk := { s.pk with powerCap := w }, out := s.out ++ [.mgmt 454 [0]] })
    ∧ (∀ w, w < 1200 ∨ 2600 < w → exec (.powerCapSet w) s = .next (s.emit (.mgmt 454 [1])))
    ∧ (∀ temps mvs, Reaches (.histogramSecond temps mvs) s fun t => ∀ d < 4,
        let x := (temps[d]?).getD 0
        let v := (mvs[d]?).getD 0
        let up (k : Nat) : Nat := min (nget 0 s.pk.life k + 1) (2 ^ 64 - 1)
        nget 0 t.pk.life (2 ^ 16 * 8 + (16 * d + min ((x - 40) / 5) 15)) = up (2 ^ 16 * 8 + (16 * d + min ((x - 40) / 5) 15))
        ∧ nget 0 t.pk.life (2 ^ 16 * 9 + (16 * d + min ((v - 600) / 10) 15)) = up (2 ^ 16 * 9 + (16 * d + min ((v - 600) / 10) 15))
        ∧ nget 0 t.pk.readings d = x ∧ nget 0 t.pk.readings (16 + d) = v)
    ∧ (∀ num canopy, s.pk.power = 1 → num ≤ 255 → s.pk.number = none → Reaches (.packageNumberSet num canopy) s fun t =>
        t.pk = { s.pk with number := some (num, canopy) } ∧ ∀ l x, nfind s.links l = some x → x.st = .down → (t.link l).st = .version)
    ∧ (∀ num canopy, s.pk.number ≠ none → exec (.packageNumberSet num canopy) s = .next s)
    ∧ (∀ img secver sig, let x : FlashSlot := ⟨img, secver, sig⟩
        let becomes (i : Instr) (f : Flash) : Prop := exec i s = .next { s with pk := { s.pk with flash := f } }
        s.pk.power ≠ 0 →
          (s.pk.hwSlot = 1 → becomes (.firmwareUpdate true img secver sig) { s.pk.flash with hwB := x })
          ∧ (s.pk.hwSlot ≠ 1 → becomes (.firmwareUpdate true img secver sig) { s.pk.flash with hwA := x })
          ∧ (s.pk.dfSlot = 1 → becomes (.firmwareUpdate false img secver sig) { s.pk.flash with dfB := x })
          ∧ (s.pk.dfSlot ≠ 1 → becomes (.firmwareUpdate false img secver sig) { s.pk.flash with dfA := x }))
    ∧ (s.pk.power = 0 ∨ s.pk.power = 2 → exec .pldmMonitor s = .next s)
    ∧ (s.pk.power ≠ 0 → s.pk.power ≠ 2 → ∃ bs, exec .pldmMonitor s = .next (s.drawn.emit (.mgmt 455 bs))
        ∧ (∀ d < 4, sliceB bs (5 * d) 5 = toBytes 2 (nget 0 s.pk.readings d) ++ toBytes 2 (nget 0 s.pk.readings (16 + d)) ++ toBytes 1 (s.die d).clock)
        ∧ leAt bs 20 2 ≤ s.pk.powerCap ∧ bs.drop 22 = toBytes 2 s.pk.powerCap ++ toBytes 64 s.pk.health ++ s.pk.life.flatMap fun x => toBytes 4 x.1 ++ toBytes 8 x.2)

/-- R29, R426, R427: an in-field test that is due counts and records what it found; the planes of the clearing's stands are loaded again, and every other engine state, and memory below the hosts', stays.
After a PASS what the next test reports on starts anew with the launches there. After a FAIL the clearing is quarantined and its glades leave the health map; each launch with units there is
being moved with reason 3, QUARANTINE, or has been; each job whose units were there counts one SUSPECT, keeps the interval, and has its parties told. A test that is not due changes nothing. -/
def Obligations.InfieldTest : Prop :=
  ∀ (s : State) (c : Nat) (pass : Bool), c < 64 →
    let x := s.clearing c
    let loads (t : State) : Prop := ∀ g, t.eng g = { s.eng g with stand := if g ∈ gladesOf c ∧ s.runs g = true then (s.stand g).restore else s.stand g }
    (s.testDue c = false → exec (.infieldTest c pass) s = .next s)
    ∧ (s.testDue c = true → (∃ t, exec (.infieldTest c pass) s = .next t)
      ∧ (pass = true → Reaches (.infieldTest c pass) s fun t => loads t ∧ t.mem = s.mem ∧ t.jobs = s.jobs ∧ t.pk = s.pk
          ∧ t.clearing c = { x with seq := x.seq + 1, last := 1, lastAt := s.wall, requested := false, since := s.wall, gone := [], packages := []
                                    contexts := ((s.launchesOn c).filterMap fun l => (s.launch l.1 l.2).map (·.ctx)).eraseDups })
      ∧ (pass = false → Reaches (.infieldTest c pass) s fun t =>
          let k : Suspect := ⟨s.serial, c, x.since / usWall, s.micros⟩
          (t.clearing c).seq = x.seq + 1 ∧ (t.clearing c).last = 2 ∧ (t.clearing c).lastAt = s.wall ∧ (t.clearing c).requested = false ∧ (t.clearing c).quarantined = true
          ∧ (∀ g < 512, t.pk.health.testBit g = (s.pk.health.testBit g && decide (clearingOf g ≠ c)))
          ∧ (∀ d n l, (d, n) ∈ s.loadedOn c → s.launch d n = some l → l.stage = .running →
              ∃ l', t.launch d n = some l' ∧ (l'.stage = .swapped ∨ (l'.stage = .running ∧ l'.stop = some (l.stop.getD (3, s.wall)))))
          ∧ ((s.exposed c).Nodup → ∀ n ∈ s.exposed c, let j := s.job n
              nget 0 (t.job n).usage 15 = min (nget 0 j.usage 15 + 1) (2 ^ 64 - 1) ∧ (t.job n).suspects = (j.suspects ++ [k]).drop (j.suspects.length - 7)
              ∧ ∀ p ∈ j.joins, ∀ ses, s.liveSession p.2 = some ses → .vendor ses 437 (suspectMessage k) ∈ t.out)
          ∧ (s.loadedOn c = [] → loads t ∧ ∀ a < 2 ^ 60, memGet t.mem a = memGet s.mem a)))

/-- R315, R316, R447: a fault record goes to its function's queue, 32 bytes at the slot of the count, with vector 0 signalled, and its redacted copy to PF0's; a queue that is off or full
counts it lost. A reset of the function drops it. -/
def Obligations.FaultRecords : Prop :=
  ∀ (s : State) (f cause flags fn ctx glade value aux : Nat),
    let q := s.fn f
    let t := s.fqWrite f cause flags fn ctx glade value aux
    (q.banned = false → (q.fqEnable = false ∨ q.fqEntries ≤ q.wcnt - q.rcnt) → t = s.modFn f fun x => { x with lost := x.lost + 1 })
    ∧ (q.banned = false → q.fqEnable = true → q.wcnt - q.rcnt < q.fqEntries → Memory.wf s.mem = true →
        t.bytes (2 ^ 60 + f * 2 ^ 56 + q.fqBase + 32 * (q.wcnt % q.fqEntries)) 32 = toBytes 2 cause ++ toBytes 1 flags ++ toBytes 1 fn ++ toBytes 2 ctx ++ toBytes 2 glade
          ++ toBytes 8 (q.wcnt + 1) ++ toBytes 8 value ++ toBytes 8 aux
        ∧ (t.fn f).wcnt = q.wcnt + 1 ∧ 0 ∈ (t.fn f).msixPend ∧ (t.fn f).lost = q.lost ∧ ∀ g, g ≠ f → t.fn g = s.fn g)
    ∧ (q.banned = true → t = s)
    ∧ (fn ≠ 0 → s.faultRecord cause flags fn ctx glade value aux = (s.fqWrite fn cause flags fn ctx glade value aux).fqWrite 0 cause (flags ||| 4) fn ctx glade 0 0)

/-- R12, R13, R251, R283, R310, R311, R313, R315, R446, R453: the host's writes to the registers of a function: a ring's base, size and completion page while it is DISABLED, its write index, enabling (refused with its
cause), draining and cancelling teardowns, invalidation commands, and the fault queue; a read of FQ.LOST returns it and clears it. A write index orders what the host wrote before it, and changes no
memory. -/
def Obligations.HostRegisters : Prop :=
  ∀ (s : State) (vf ring v : Nat) (granted tb : Bool), 1 ≤ vf → vf ≤ 63 → ring < 8 → v < 2 ^ 64 →
    let w : Word := BitVec.ofNat 64 v
    let f := s.fn vf
    let r := f.ring ring
    let sets (off : Nat) (t : State) : Prop := Writes (.registerWrite vf off w granted tb) s vf off tb t
    (sets (64 * ring) (s.withRing vf ring fun r => if r.st = 0 then { r with base := 4096 * field v 12 43 } else r)
      ∧ sets (64 * ring + 8) (s.withRing vf ring fun r => if r.st = 0 then { r with size := v % 2 ^ 17 } else r)
      ∧ sets (64 * ring + 0x38) (s.withRing vf ring fun r => if r.st = 0 then { r with cq := 4096 * field v 12 43 } else r)
      ∧ sets 0x10000 (s.modFn vf fun f => { f with tinvAddr := 4096 * field v 12 44 + field v 0 4 })
      ∧ sets 0x20000 (s.modFn vf fun f => { f with fqBase := 4096 * field v 12 43 })
      ∧ sets (64 * ring + 0x20) s)
    ∧ (r.st = 0 ∨ (r.st = 1 ∧ v % 2 ^ 17 < r.size) →
        Writes (.ringWidxWrite vf ring w tb) s vf (64 * ring + 0x18) tb ((s.publish vf ring (v % 2 ^ 17)).withRing vf ring fun r => { r with widx := v % 2 ^ 17 }))
    ∧ (∀ n, ∃ us, s.publish vf ring n = { s with unseen := us } ∧ us.length = s.unseen.length)
    ∧ (r.st = 1 → r.size ≤ v % 2 ^ 17 → Writes (.ringWidxWrite vf ring w tb) s vf (64 * ring + 0x18) tb
        ((s.withRing vf ring fun r => { r with st := 3, cause := 4 }).noGlade 0x182 vf 0 4 ring))
    ∧ (r.st = 2 ∨ r.st = 3 → Writes (.ringWidxWrite vf ring w tb) s vf (64 * ring + 0x18) tb s)
    ∧ (r.st = 0 →
        let sized := r.size ∈ (List.range 11).map fun k => 2 ^ (k + 6)
        let refused (c : Nat) : Prop := Writes (.ringEnable vf ring granted tb) s vf (64 * ring + 0x10) tb ((s.withRing vf ring fun r => { r with cause := c }).noGlade 0x181 vf 0 c ring)
        (sized → r.widx < r.size → granted = true → Writes (.ringEnable vf ring granted tb) s vf (64 * ring + 0x10) tb
          (s.withRing vf ring fun r => { r with st := 1, ridx := 0, fetched := 0, cause := 0, teardown := 0 }))
        ∧ (¬sized → refused 1) ∧ (sized → r.size ≤ r.widx → refused 2) ∧ (sized → r.widx < r.size → granted = false → refused 3))
    ∧ (r.st = 1 ∨ r.st = 3 →
        (r.ridx = r.widx → Writes (.ringTeardownDrain vf ring tb) s vf (64 * ring + 0x10) tb (s.withRing vf ring fun r => { r with st := 2, teardown := 1 }))
        ∧ Writes (.ringTeardownDrain vf ring tb) s vf (64 * ring + 0x10) tb (cancelUnfetched vf ring r.size (s.withRing vf ring fun r => { r with st := 2, teardown := 1 }))
        ∧ Writes (.ringTeardownCancel vf ring tb) s vf (64 * ring + 0x10) tb
            (cancelUnfetched vf ring r.size ((s.withRing vf ring fun r => { r with st := 2, teardown := 2 }).cancelDispatched vf ring)))
    ∧ (let mine := ∃ j, nfind s.jobs (v % 1024) = some j ∧ j.ending = false ∧ j.vf = vf
       let queued (k : Nat) : State := s.modFn vf fun f => { f with tinvIssued := f.tinvIssued + 1, tinvQ := f.tinvQ ++ [(k, v % 1024, f.tinvAddr)] }
       let dropped := s.modFn vf fun f => { f with tinvDropped := f.tinvDropped + 1 }
       (mine → f.tinvQ.length < 64 → Writes (.tinvPage vf w tb) s vf 0x10008 tb (queued 1) ∧ Writes (.tinvContext vf w tb) s vf 0x10008 tb (queued 2))
       ∧ (¬mine ∨ 64 ≤ f.tinvQ.length → Writes (.tinvPage vf w tb) s vf 0x10008 tb dropped ∧ Writes (.tinvContext vf w tb) s vf 0x10008 tb dropped))
    ∧ Writes (.fqRcntWrite vf w tb) s vf 0x20018 tb (s.modFn vf fun f => if f.rcnt ≤ v ∧ v ≤ f.wcnt then { f with rcnt := v } else f)
    ∧ Writes (.fqLostRead vf tb) s vf 0x20020 tb ((s.emit (.readValue vf 0x20020 f.lost)).modFn vf fun f => { f with lost := 0 })

/-- R27, R48, R251, R252, R253, R311, R312, R313, R317, R445, R446, R447: what the device does for a function: it fetches messages, ends drains, sends vectors, performs up to 32 invalidations, and asks for host
pages, once each, and uses what it is answered; what it sends for a TDI in RUN goes out on the IDE stream; and the TDISP and IDE steps of the host. That a TDISP request in another state is
answered by INVALID_INTERFACE_STATE, and LOCK before a key is set by INVALID_REQUEST, is log entry 76; what becomes of a 33rd invalidation is log entry 101's choice. -/
def Obligations.HostEvents : Prop :=
  ∀ (s : State) (vf ring : Nat),
    let f := s.fn vf
    let r := f.ring ring
    let onIde : Bool := decide (f.tdi = .run)
    let there := s.pk.power ≠ 0 ∧ (vf = 0 ∨ s.pk.partOk = true)
    let isVf := 1 ≤ vf ∧ vf ≤ 63
    (r.st = 2 → r.pendingRecs = 0 → exec (.ringDrainComplete vf ring) s = .next (s.withRing vf ring fun r => { r with st := 0, ridx := r.widx, teardown := 0 }))
    ∧ (r.st ≠ 2 ∨ r.pendingRecs ≠ 0 → exec (.ringDrainComplete vf ring) s = .next s)
    ∧ (r.st ≠ 1 ∨ r.ridx = r.widx → ∀ ok, exec (.ringFetch vf ring ok) s = .next s)
    ∧ (r.st = 1 → r.ridx ≠ r.widx → let a := 2 ^ 60 + vf * 2 ^ 56 + r.base + 64 * r.ridx
        exec (.ringFetch vf ring false) s = .next ((s.withRing vf ring fun r => { r with st := 3, cause := 5 }).noGlade 0x182 vf 0 5 ring)
        ∧ (s.bad a 64 = false → exec (.ringFetch vf ring true) s =
            .next ((s.withRing vf ring fun r => { r with ridx := (r.ridx + 1) % r.size, fetched := r.fetched + 1, pendingRecs := r.pendingRecs + 1 }).message
              (.ring vf ring r.ridx (r.fetched + 1) (leAt (s.bytes a 64) 0 4)) (s.bytes a 64))))
    ∧ (∀ kind ctx addr rest, f.tinvQ = (kind, ctx, addr) :: rest →
        let (lo, n) := if kind = 2 then (0, 2 ^ 64) else (4096 * field addr 12 44 / (4096 * 4 ^ field addr 0 4) * (4096 * 4 ^ field addr 0 4), 4096 * 4 ^ field addr 0 4)
        (s.translating ctx lo n = true → exec (.tinvComplete vf) s = .next s)
        ∧ (s.translating ctx lo n = false → Reaches (.tinvComplete vf) s fun t => t.mem = s.mem
            ∧ t.fn vf = { f with tinvQ := rest, tinvDone := f.tinvDone + 1 }
            ∧ ∀ g, (t.glade g).tlb = (s.glade g).tlb.filter fun e => ¬(e.owner = ctx ∧ e.host = false ∧ e.base < lo + n ∧ lo < e.base + e.size)))
    ∧ (∀ vec, let due := vec ∈ f.msixPend ∧ ∀ w, nfind f.msixAt vec = some w → w + 7560000 ≤ s.wall
        (¬due → exec (.msixMessage vf vec) s = .next s)
        ∧ (due → Reaches (.msixMessage vf vec) s fun t => t.out = s.out ++ [.request vf onIde (.msix vec)] ∧ vec ∉ (t.fn vf).msixPend ∧ nfind (t.fn vf).msixAt vec = some s.wall))
    ∧ (∀ addr size,
        (there → isVf → f.invQ.length < 32 → exec (.atsInvalidate vf addr size) s = .next (s.modFn vf fun f => { f with invQ := f.invQ ++ [(addr, size)] }))
        ∧ (¬there ∨ ¬isVf ∨ 32 ≤ f.invQ.length → exec (.atsInvalidate vf addr size) s = .next s))
    ∧ (∀ addr size rest, f.invQ = (addr, size) :: rest → let t := s.invalidated vf
        (t.fn vf).invQ = rest ∧ (∃ before b, t.out = before ++ [.request vf b .atsInvDone])
        ∧ (∀ g, ∀ e ∈ (t.glade g).tlb, ¬(e.host = true ∧ e.owner = vf ∧ e.base < addr + size ∧ addr < e.base + e.size))
        ∧ ∀ c, ∀ e ∈ (t.clearing c).tlb, ¬(e.host = true ∧ e.owner = vf ∧ e.base < addr + size ∧ addr < e.base + e.size))
    ∧ (∀ page h before after, f.pages = before ++ h :: after → h.page = page → h.wait = .queued → (∀ x ∈ before, ¬(x.page = page ∧ x.wait = .queued)) →
        let joined (k : Nat) : List HostPage := before ++ { h with wait := .prq k } :: after
        let mine (e : Nat × PrqEnt) : Prop := e.2.page = page ∧ e.2.incarn = f.incarn
        (∀ k e old rest, f.prq = old ++ (k, e) :: rest → mine (k, e) → (∀ x ∈ old, ¬mine x) →
            exec (.pageRequest vf page) s = .next (s.modFn vf fun f => { f with pages := joined k }))
        ∧ ((∀ x ∈ f.prq, ¬mine x) → ∀ k < 64, nfind f.prq k = none → (∀ j < k, nfind f.prq j ≠ none) →
            Reaches (.pageRequest vf page) s fun t => t.out = s.out ++ [.request vf onIde (.pageRequest k page h.wr)] ∧ nfind (t.fn vf).prq k = some ⟨page, h.wr, f.incarn, s.wall⟩
              ∧ (t.fn vf).pages = joined k))
    ∧ (∀ idx e, nfind f.prq idx = some e →
        let freed := s.modFn vf fun f => { f with prq := ndel f.prq idx }
        (∀ ok, exec (.prgResponse vf idx ok) s = .next (if e.incarn = f.incarn then freed.answerPrg vf idx ok else freed.modFn vf fun f => { f with stale := f.stale + 1 }))
        ∧ (s.wall < e.at_ + 100 * 7560000000 → exec (.prgTimeout vf idx) s = .next s)
        ∧ (e.at_ + 100 * 7560000000 ≤ s.wall → exec (.prgTimeout vf idx) s = .next (if e.incarn = f.incarn then freed.answerPrg vf idx false else freed)))
    ∧ (∀ page rd wr h retried before after, f.pages = before ++ h :: after → h.page = page → h.wait = .ats retried → (∀ x ∈ before, x.page = page → ∀ b, x.wait ≠ .ats b) →
        let granted := (if h.wr then wr else rd) = true
        let light := ∃ w ∈ h.waiters, w.agent = 4
        (granted → Reaches (.atsTranslationCompletion vf page rd wr) s fun t => (t.fn vf).pages = before ++ after ∧ t.mem = s.mem)
        ∧ (¬granted → Reaches (.atsTranslationCompletion vf page rd wr) s fun t => t.mem = s.mem ∧ t.glades = s.glades
            ∧ (h.waiters = [] → (t.fn vf).pages = before ++ after)
            ∧ (h.waiters ≠ [] → retried = true ∨ light → (t.fn vf).pages = before ++ { h with wait := .failed } :: after)
            ∧ (h.waiters ≠ [] → retried = false → ¬light → (t.fn vf).pages = before ++ { h with wait := .queued } :: after)))
    ∧ (let becomes (i : Instr) (d : Tdi) : Prop := exec i s = .next ((s.modFn vf fun f => { f with tdi := d }).emit (.tdisp vf 0))
       (¬there → exec (.tdispLockInterface vf) s = .next s ∧ exec (.tdispStartInterface vf) s = .next s)
       ∧ (there → f.tdi = .unlocked → f.ide ≠ [] → becomes (.tdispLockInterface vf) .locked) ∧ (there → f.tdi = .unlocked → f.ide = [] → exec (.tdispLockInterface vf) s = .next (s.emit (.tdisp vf 1)))
       ∧ (there → f.tdi ≠ .unlocked → exec (.tdispLockInterface vf) s = .next (s.emit (.tdisp vf 4)))
       ∧ (there → f.tdi = .locked → becomes (.tdispStartInterface vf) .run) ∧ (there → f.tdi ≠ .locked → exec (.tdispStartInterface vf) s = .next (s.emit (.tdisp vf 4))))
    ∧ (∀ key, (there → isVf → exec (.ideKmKeyProg ⟨vf, key⟩) s = .next (s.modFn vf fun f => { f with ide := sliceB key 0 32 })) ∧ (¬there ∨ ¬isVf → exec (.ideKmKeyProg ⟨vf, key⟩) s = .next s))
    ∧ (∀ e, let stopped := s.modFn vf fun f => { f with tdi := if e then .error else .unlocked }
        let leaves := f.tdi = .run ∧ ∃ c j, (c, j) ∈ s.jobs ∧ j.vf = vf ∧ j.confidential = true
        let said (t : State) : State := if e then t else t.emit (.tdisp vf 0)
        (there → isVf → ¬leaves → exec (.tdiStop vf e) s = .next (said stopped)) ∧ (there → isVf → leaves → exec (.tdiStop vf e) s = .next (said (stopped.resetVf vf)))
        ∧ (¬there ∨ ¬isVf → exec (.tdiStop vf e) s = .next s))
    ∧ (there → isVf → exec (.vfReset vf) s = .next (s.resetVf vf)) ∧ (¬there ∨ ¬isVf → exec (.vfReset vf) s = .next s)

/-- R424: a VF reset leaves the VF's rings, queues and page waits at their reset values and records it for PF0, VF_RESET (0x183) with the VF and its launches, last of all in PF0's queue; ending the VF's
jobs leaves the VF's own memory as it was; where the VF has no job, its incarnation advances by one and every byte outside PF0's fault queue stays. -/
def Obligations.VfReset : Prop :=
  ∀ (s : State) (vf : Nat), 1 ≤ vf → vf ≤ 63 → Memory.wf s.mem = true →
    let q := s.fn 0
    let slot := 2 ^ 60 + q.fqBase + 32 * (q.wcnt % q.fqEntries)
    (∀ a, 2 ^ 60 + vf * 2 ^ 56 ≤ a → a < 2 ^ 60 + (vf + 1) * 2 ^ 56 → memGet (s.dropJobs vf).mem a = memGet s.mem a)
    ∧ (s.pk.power ≠ 0 → s.pk.partOk = true → Reaches (.vfReset vf) s fun t =>
      t.fn vf = { prq := (t.fn vf).prq, invQ := (t.fn vf).invQ, tdi := (t.fn vf).tdi, ide := (t.fn vf).ide, incarn := (t.fn vf).incarn }
      ∧ (∃ u : State, t = u.fqWrite 0 0x183 2 0 0 0xFFFF vf ((nkeys s.jobs fun _ j => decide (j.vf = vf)).map s.launchCount).sum)
      ∧ ((∀ c j, (c, j) ∈ s.jobs → j.vf ≠ vf) → (t.fn vf).incarn = (s.fn vf).incarn + 1
          ∧ (q.banned = false → q.fqEnable = true → q.wcnt - q.rcnt < q.fqEntries → (t.fn 0).wcnt = q.wcnt + 1 ∧ 0 ∈ (t.fn 0).msixPend
              ∧ t.bytes slot 32 = toBytes 2 0x183 ++ [2, 0] ++ toBytes 2 0 ++ toBytes 2 0xFFFF ++ toBytes 8 (q.wcnt + 1) ++ toBytes 8 vf ++ toBytes 8 0)
          ∧ ∀ a, a < slot ∨ slot + 32 ≤ a → memGet t.mem a = memGet s.mem a))

/-! ## Events: launches -/

/-- R47, R48, R49, R50, R313: a tagged message of a ring: a malformed one, or one of a context that is not an open job of the VF, is rejected MSG_REJECTED (0x180), one that matches no armed entry
MSG_UNMATCHED (0x14B), with its record; one that matches a standalone entry makes a launch eligible at once, with a unit for each image. -/
def Obligations.TaggedMessages : Prop :=
  ∀ (s : State) (vf ring idx ordinal : Nat) (m : List Byte),
    let tag := leAt m 0 4
    let c := leAt m 4 2
    let payload := leAt m 8 8
    let o : Origin := .ring vf ring idx ordinal tag
    let formed := c < 1024 ∧ leAt m 6 2 = 0 ∧ payload < 2 ^ 56 ∧ leAt m 16 48 = 0
    let mine := ∃ j, nfind s.jobs c = some j ∧ j.ending = false ∧ j.vf = vf
    let fires (d e : Nat) (a : ArmEnt) : Prop := (e, a) ∈ (s.die d).arms ∧ a.st = .armed ∧ a.kind ≠ 2 ∧ a.ctx = c ∧ a.tag = tag
    let rejected (cause : Nat) : State := ((s.withRing vf ring fun r =>
      { r with rejected := r.rejected + 1, unmatched := r.unmatched + if cause = 0x14B then 1 else 0 }).noGlade cause vf c (tag + 2 ^ 32 * (c % 1024)) ring).record o 0x10
    (¬(formed ∧ mine) → s.message o m = rejected 0x180)
    ∧ (formed → mine → (∀ d < 4, ∀ e a, ¬fires d e a) → s.message o m = rejected 0x14B)
    ∧ (formed → mine → ∀ d < 4, ∀ e a, fires d e a → nfind (s.die d).arms e = some a → e < 4096 → a.kind = 0 →
        (∀ d' < 4, ∀ e' a', fires d' e' a' → d' = d ∧ e' = e) → (s.die d).arms.Pairwise (fun x y => x.1 ≠ y.1) →
        let t := s.message o m
        let n := (s.die d).nextLaunch
        t.launch d n = some { arm := e, ctx := c, cls := a.cls, eligAt := s.wall, payload := payload, origin := some o, root := none
                              units := a.images.map fun i => { w := imgW i, h := imgH i } }
        ∧ (t.die d).nextLaunch = n + 1 ∧ (∀ k, k ≠ n → t.launch d k = s.launch d k) ∧ t.mem = s.mem)

/-- R39, R43, R51, R55, R345, R420: boosting and reserving of a waiting launch, the start pulse, and the time slots: what each writes, and that a launch whose condition does not hold is left as it is. -/
def Obligations.LaunchEvents : Prop :=
  ∀ (s : State) (d n : Nat) (l : Launch), s.launch d n = some l →
    let sides := s.sides d n
    (l.stage = .eligible → 2 ≤ l.cls → l.boosted = false → l.eligAt + 7560000000 ≤ s.wall →
      Reaches (.launchBoost d n) s fun t => t.launch d n = some { l with boosted := true, headAt := none } ∧ t.glades = s.glades ∧ t.mem = s.mem)
    ∧ (l.stage ≠ .eligible ∨ l.cls < 2 ∨ l.boosted = true ∨ s.wall < l.eligAt + 7560000000 → Reaches (.launchBoost d n) s fun t => t.launch d n = some l)
    ∧ (∀ at_, l.headAt = some at_ →
        let free := ∀ k r, (k, r) ∈ (s.die d).launches → r.reserving = true → s.sharePartition d r.ctx l.ctx = false
        (at_ + 7560000000 ≤ s.wall → l.waits = true → free → s.keptOut d n l = true → s.hopeless d n l = false →
          Reaches (.reservingTimeout d n) s fun t => t.launch d n = some { l with reserving := true } ∧ t.glades = s.glades)
        ∧ (s.wall < at_ + 7560000000 ∨ ¬free ∨ s.keptOut d n l = false → exec (.reservingTimeout d n) s = .next s))
    ∧ (l.stage = .placed → (∀ x ∈ sides, s.canTakeGlade n l x = true) → (sides.map (·.1)).Nodup → Reaches (.launchStart d n) s fun t =>
        (∃ l', t.launch d n = some l' ∧ l'.stage = .running ∧ l'.phase = 0 ∧ l'.phaseCy = (s.die d).cy ∧ l'.slots = [] ∧ l'.residentAt = s.wall ∧ l'.units = l.units)
        ∧ ∀ x ∈ sides, (t.glade x.1).active = x.2 ∧ (t.ww x.1).started = true ∧ (t.ww x.1).reg 1 = BitVec.ofNat 64 l.payload
            ∧ (∀ i < 6, (t.ww x.1).reg (i + 2) = ((s.arm (4096 * d + l.arm)).args[i]?).getD 0) ∧ (t.eng x.1).tls = [] ∧ (t.th x.1).cnt = 0
            ∧ (t.ww x.1).floor = 0 ∧ t.place x.1 = ((s.glade x.1).pick x.2).place)
    ∧ (l.stage ≠ .placed → l.stage ≠ .ready → exec (.launchStart d n) s = .next s)
    ∧ (∀ m w, nget 0 l.slots m = w →
        (l.stage = .running → w.getLsbD 63 = true → (s.die d).cy - l.phaseCy = field w.toNat 0 40 → m ∉ l.slotDone →
          exec (.timeSlotEvent d n m) s = .next ((addEvents (field w.toNat 40 4) (s.eventGlades (nget 0 l.slotBy m) (field w.toNat 44 2)) s).modLaunch d n fun l =>
            { l with slotDone := l.slotDone ++ [m] }))
        ∧ (l.stage ≠ .running ∨ w.getLsbD 63 = false ∨ (s.die d).cy - l.phaseCy ≠ field w.toNat 0 40 ∨ m ∈ l.slotDone → exec (.timeSlotEvent d n m) s = .next s))

/-- R42, R43, R44, R197, R418, R420, R421: the completion of a unit and, with the last one, of its launch; a phase boundary: the phase counter, the slots set meanwhile; the save of a launch swapped out,
which its AG requests may keep waiting for 20 µs; and the pre-emption of a phase that outran its limit, whose records are written and glades freed once nothing of it is to complete any more, or after
50 µs. -/
def Obligations.PhaseEvents : Prop :=
  ∀ (s : State) (d n : Nat) (l : Launch), s.launch d n = some l →
    let sides := s.sides d n
    (∀ u x, l.units[u]? = some x → l.stage = .running → l.stop = none → x.done = false → s.unitDone d n u = true →
        let us := l.units.set u { x with done := true }
        let t := ((s.flow (s.unitPts d n u) (.counter 0 (4096 * d + l.arm) u)).advUnit d l.arm u .ok).modLaunch d n fun l => { l with units := us }
        ((∃ y ∈ us, y.done = false) → exec (.unitComplete d n u) s = .next t)
        ∧ ((∀ y ∈ us, y.done = true) → exec (.unitComplete d n u) s =
            .next (((t.flow (t.launchPts d n) (.counter 2 (4096 * d + l.arm) 0)).advPhase d l.arm l.status).endLaunch d n l.status)))
    ∧ (∀ u, l.stage ≠ .running ∨ l.stop ≠ none ∨ s.unitDone d n u = false → exec (.unitComplete d n u) s = .next s)
    ∧ (let bs := sides.map fun x => s.bough x.1
       l.stage = .running → l.stop = none → l.held = false → l.holdTest = false → (∀ b ∈ bs, b.atBoundary = true) → (∃ b ∈ bs, b.ww.halted = false) →
        l.phaseCancel = false → l.unitCancel = [] → (∀ x ∈ sides, s.healthy x.1 = true) →
        Reaches (.phaseBoundary d n) s fun t =>
          ((s.job l.ctx).overQuota = false → s.swapDueAt d n l = false → (∀ c ∈ s.clearingsOf d n, s.wantsTest c = false) →
            (∃ l', t.launch d n = some l' ∧ l'.phase = l.phase + 1 ∧ l'.phaseCy = (s.die d).cy ∧ l'.resident = 0 ∧ l'.residentAt = s.wall ∧ l'.slotsNext = []
              ∧ l'.slots = l.slotsNext.foldl (fun m x => nset m x.1 x.2) l.slots ∧ l'.stage = .running)
            ∧ (∀ a, nfind (s.die d).arms l.arm = some a → nfind (t.die d).arms l.arm = some { a with phase := a.phase.advance .ok })
            ∧ ∀ x ∈ sides, (((t.glade x.1).pick x.2).ww).atMark = false ∧ (((t.glade x.1).pick x.2).ww).mark = false))
    ∧ (l.stage ≠ .running ∨ l.stop ≠ none ∨ l.held = true ∨ l.holdTest = true ∨ (∃ x ∈ sides, (s.bough x.1).atBoundary = false) → exec (.phaseBoundary d n) s = .next s)
    ∧ (l.saveDue = true →
        let u := sides.foldl (fun s x => s.settleAg x.1 x.2) s
        let waits := (∃ x ∈ u.sides d n, ((u.glade x.1).pick x.2).asking = true) ∧ u.wall < (l.stop.map (·.2)).getD 0 + 20 * 7560000
        (waits → exec (.boughSaveWrite d n) s = .next u)
        ∧ (¬waits → exec (.boughSaveWrite d n) s =
            .next (((u.sides d n).foldl (fun s x => s.writeRecord d n x.1 x.2 1 []) u).modLaunch d n fun l => { l with saveDue := false, stop := none })))
    ∧ (l.saveDue = false → exec (.boughSaveWrite d n) s = .next s)
    ∧ (let outran := 7560000000 * (s.job l.ctx).phaseLimit < l.resident + (s.wall - l.residentAt)
       let waited := ∃ m ∈ (s.die d).launches, m.1 ≠ n ∧ m.2.eff < l.eff ∧ s.waitsFor d l m = true
       (l.stage = .running → l.stop = none → outran → waited → exec (.phaseLimitExpiry d n) s = .next (s.preempt d n 2))
       ∧ (l.stage = .running → l.stop ≠ none → exec (.phaseLimitExpiry d n) s = .next (s.endStop d n))
       ∧ (l.stage ≠ .running ∨ (l.stop = none ∧ ¬(outran ∧ waited)) → exec (.phaseLimitExpiry d n) s = .next s))
    ∧ (∀ reason at_, l.stop = some (reason, at_) →
        let waits := s.wall < at_ + 50 * 7560000 ∧ s.unsettled d n at_ = true
        (waits → s.endStop d n = s)
        ∧ (¬waits → ∀ l', (s.endStop d n).launch d n = some l' → l'.stage = .swapped ∧ l'.stop = none))

/-- R45, R52, R53, R54, R376, R394, R402: the selection pass of a die serves a context of the lowest class that holds a placeable launch, once hopeless launches have failed; a die asked for nothing cancels nothing, and
a waiting launch that it is asked to cancel ends with the status; a job's accounting period rolls over by its length, and its operator sets its quota. -/
def Obligations.ForesterPasses : Prop :=
  ∀ (s : State) (d : Nat),
    let u := ((failHopeless d (s.die d).queue s).modDie d Die.refresh).noteHeads d
    let can (k : Nat) : Prop := ∃ x ∈ (u.die d).queue, x.2.eff = k ∧ (u.placeable d x.1 x.2).isSome = true
    ((s.die d).held = true → exec (.selectionPass d) s = .next s)
    ∧ ((s.die d).held = false → (∀ k < 4, ¬can k) → exec (.selectionPass d) s = .next u)
    ∧ ((s.die d).held = false → ∀ k < 4, can k → (∀ j < k, ¬can j) → ∀ c, (u.die d).active.find? (fun x => decide (x.1 = k)) = some (k, c) →
        exec (.selectionPass d) s = .next ((u.serve d k c).noteHeads d))
    ∧ (∀ k c n l os, (s.die d).ctxQueue c k = [(n, l)] → l.cost ≤ nget 0 (s.die d).deficit (4 * c + k) + 64 * (s.job c).weight → s.placeable d n l = some os →
        ∃ l', (s.serve d k c).launch d n = some l' ∧ (l'.stage = .placed ∨ l'.stage = .ready) ∧ l'.reserving = false)
    ∧ (let calm := (∀ x ∈ (s.die d).launches, x.2.unitCancel = []) ∧ (∀ x ∈ (s.die d).arms, x.1 < 4096 ∧ x.2.cancelWaiting = 0) ∧ (∀ i ∈ (s.die d).instances, i.cancelled = false)
         ∧ ∀ x ∈ s.jobs, x.2.ending = false
       (calm → (s.die d).cancels = [] → Reaches (.cancelProcess d) s fun t => t.mem = s.mem ∧ t.jobs = s.jobs ∧ t.glades = s.glades ∧ (t.die d).cancels = [])
       ∧ ∀ n l st b, calm → (s.die d).cancels = [(n, st, b)] → (s.die d).launches = [(n, l)] → (s.die d).instances = [] → l.stage = .eligible → l.root = none → s.sides d n = [] →
          nget [] (s.die d).saved n = [] → exec (.cancelProcess d) s = .next ((s.modDie d fun x => { x with cancels := [] }).endLaunch d n (l.first st)))
    ∧ (∃ t, exec (.cancelProcess d) s = .next t)
    ∧ ∀ (c : Nat) (j : Job), nfind s.jobs c = some j → j.ending = false →
        (s.wall < j.periodAt + 7560000000 * j.period → exec (.periodRollover c) s = .next s)
        ∧ (j.periodAt + 7560000000 * j.period ≤ s.wall →
            let t := s.modJob c fun j => { j with periodAt := j.periodAt + 7560000000 * j.period, usageAt := [j.used.1, j.used.2] }
            exec (.periodRollover c) s = .next (if (t.job c).overQuota then t else t.release c))
        ∧ ∀ graft usage occ,
            let t := (s.modJob c fun j => { j with graftQuota := min graft (leAt j.request 12 4), usageLimit := usage, occLimit := occ }).shrinkPool c
            exec (.quotaChange c graft usage occ) s = .next (if (t.job c).overQuota then t else t.release c)

/-! ## Events: thicket, queues, stand, rafts, motes -/

/-- R63, R66, R67, R191, R193, R195, R196, R213, R263: the context counter stays where a landing is overdue or row 0 of a stem whose hold bit is set misses what it reads, advances where nothing issues, and else the
elements of the cycle begin to issue in row and stem order; a due landing takes its register; AG requests are performed in issue order, a store or atomic writing exactly its bytes, a load and a performed
atomic replying with the data zero-extended, its tags and its residue; a load finds its element's earlier writes and those that were before its issue, and of the others old or new bytes (R270, R276, R277, log entry 22). -/
def Obligations.ThicketEvents : Prop :=
  ∀ (s : State) (g : Nat),
    let th := s.th g
    let row0 := if th.issues 0 then (List.range 16).map fun st => (st, (s.bough g).row0 st) else []
    let runs := s.cyc = none ∧ (s.ww g).started = true ∧ th.stopped = false ∧ th.cnt < 2 ^ 40 - 1
    let overdue := (∃ e ∈ th.elems, ∃ f ∈ e.2.flight, f.land ≤ th.cnt) ∨ ∃ x ∈ th.stems, x.2.staged th.cnt ≠ []
    (¬runs → exec (.contextCycle g) s = .next s)
    ∧ (runs → overdue → exec (.contextCycle g) s = .next (s.perf g 2 1))
    ∧ (runs → ¬overdue → th.issuing = [] → Reaches (.contextCycle g) s fun t => (t.th g).cnt = th.cnt + 1 ∧ (t.th g).elems = th.elems ∧ t.mem = s.mem ∧ t.cyc = none)
    ∧ (runs → ¬overdue → th.issuing ≠ [] → (∃ x ∈ row0, x.2.1 = true) → exec (.contextCycle g) s = .next (s.perf g 1 1))
    ∧ (runs → ¬overdue → th.issuing ≠ [] → (∀ x ∈ row0, x.2.1 = false) → Reaches (.contextCycle g) s fun t => { t with cyc := none } = s ∧ ∃ c, t.cyc = some c ∧ c.glade = g
        ∧ c.todo = th.issuing ∧ c.saved = s.bough g ∧ c.hold = false ∧ c.faults = row0.filterMap fun x => x.2.2.map fun v => (⟨x.1, 0, 0x082, v⟩ : CycFault))
    ∧ (∀ p ∈ th.issuing, p.1 < 16 ∧ p.2 < 16 ∧ th.issues p.2 = true)
    ∧ (∃ t, exec (.resultLand g) s = .next t)
    ∧ (th.stopped = true → exec (.resultLand g) s = .next s ∧ exec (.fernResultLand g) s = .next s)
    ∧ (th.stopped = false → (∀ e ∈ th.elems, e.2.flight = []) → (∀ x ∈ th.stems, x.2.so = []) → Reaches (.resultLand g) s fun t => t.mem = s.mem ∧ (t.th g).cnt = th.cnt
        ∧ (∀ st k, (t.th g).elem st k = th.elem st k) ∧ ∀ st, (t.th g).stem st = th.stem st)
    ∧ (th.stopped = false → (∀ x ∈ th.stems, x.2.so = []) →
        (∀ e ∈ th.elems, e.2.flight = [] ∨ ∃ f, e.2.flight = [f] ∧ f.rso = false ∧ f.rel = none ∧ ¬(e.2.landed = some th.cnt ∧ f.issued < e.2.resAt)) →
        Reaches (.resultLand g) s fun t => t.mem = s.mem ∧ (t.th g).cnt = th.cnt ∧ ∀ i e, nfind th.elems i = some e → nfind (t.th g).elems i = some (match e.flight with
          | f :: _ => if f.land ≤ th.cnt then { e with res := f.val, landed := some th.cnt, resAt := f.issued, flight := [] } else e
          | [] => e))
    ∧ (∀ (t : Thicket) (cnt i : Nat) (ok : Nat → Bool) (f : Flight), (nget {} t.elems i).flight = [f] → f.land ≤ cnt → (∀ r, f.rel = some r → ok r = true) →
        let later := (nget {} t.elems i).landed = some cnt ∧ f.issued < (nget {} t.elems i).resAt
        (¬later → nget {} (landElem cnt ok t i).elems i = { nget {} t.elems i with res := f.val, landed := some cnt, resAt := f.issued, flight := [] })
        ∧ (later → nget {} (landElem cnt ok t i).elems i = { nget {} t.elems i with flight := [] }))
    ∧ (th.stopped = false → Reaches (.fernResultLand g) s fun t => (t.th g).cnt = th.cnt ∧ t.mem = s.mem
        ∧ ∀ st < 16, ∀ e ∈ ((t.th g).stem st).fern, e.land ≤ th.cnt → e.landed = true)
    ∧ ∀ (st k : Nat) (r : AgReq) (rest : List AgReq), (th.elem st k).agOut = r :: rest → s.heldSector 512 r.phys = false → s.agOwned r = true →
        let old := s.num r.phys r.size
        let at_ (P : Elem) (t : State) : Prop := (t.th g).elem st k = P
        let reply (w : Word) (err : Bool) : Prop := Reaches (.agReply g st k) s fun t => t.mem = s.mem
          ∧ at_ { th.elem st k with agOut := rest, agRep := (th.elem st k).agRep ++
              [{ data := w, residue := BitVec.ofNat 4 (w.toNat % 15), edm := r.edm, last := r.last, err := err }] } t
        let performs (v : Nat) (out : List AgReq) : Prop := Reaches (.agStorePerformed g st k) s fun t => t.mem = (s.put r.phys (toBytes r.size v)).mem
          ∧ at_ { th.elem st k with agOut := out } t
        (r.kind = .load → reply (BitVec.ofNat 64 (ofBytes (s.view g (r.after (agAgent g st k)) r.phys r.size))) (s.bad r.phys r.size) ∧ exec (.agStorePerformed g st k) s = .next s)
        ∧ (r.kind = .store → exec (.agReply g st k) s = .next s ∧ performs r.operand.toNat rest)
        ∧ (∀ op sc, r.kind = .atom op sc → (∀ w, r.old = some w → reply w r.bad)
            ∧ (r.old = none → exec (.agReply g st k) s = .next s
                ∧ performs (agFn op (8 * r.size) old (r.operand.toNat % 2 ^ (8 * r.size))) ({ r with old := some (BitVec.ofNat 64 old), bad := s.bad r.phys r.size } :: rest)))

/-- R61, R64, R74, R201, R277, R290, R293, R309, R386: the head of a queue starts on the cy of its start offset, or raises TIME_LATE (0x080) or, with the code of what it lacks, TIME_STARVE (0x081); a token-gated
one starts once it lacks nothing; a started run entry latches what a run needs, its moduli, SAMP.SEQID, SAMP.POS and key, or faults for what is not valid (MODULUS_INVALID, 0x015, or SAMPLE_KEY_NONE, 0x088); a finished entry retires in the order of its timeline, with its status and its push token; a due credit joins its
FIFO of at most 16. -/
def Obligations.QueueEvents : Prop :=
  ∀ (s : State) (g q : Nat),
    let e := s.eng g
    (let u := placeModes g (e.queue q) s
     let cnt := (u.th g).cnt
     let value (x : QEntry) (code : Nat) : Nat := x.offset % 2 ^ 40 + 2 ^ 40 * (if x.kind = 5 then 5 else q) + 2 ^ 48 * (x.opnum % 256) + 2 ^ 56 * code
     (∀ x, ((u.eng g).queue q).find? (fun x => decide (x.state = 0)) = some x →
        (x.timed = false ∨ cnt < x.offset → exec (.entryStartTimed g q) s = .next u)
        ∧ (x.timed = true → x.offset < cnt → exec (.entryStartTimed g q) s = .next (u.entryFault g x.tl x.opnum 0x080 (value x 0)))
        ∧ (x.timed = true → x.offset = cnt → u.entryLack g x = none → exec (.entryStartTimed g q) s = .next (u.startEntry g x))
        ∧ (∀ c, x.timed = true → x.offset = cnt → u.entryLack g x = some c → exec (.entryStartTimed g q) s = .next (u.entryFault g x.tl x.opnum 0x081 (value x c))))
     ∧ ((∀ x ∈ (u.eng g).queue q, x.state ≠ 0) → exec (.entryStartTimed g q) s = .next u))
    ∧ (∀ x, (e.queue q).find? (fun x => decide (x.state = 0)) = some x →
        (x.timed = false → s.entryLack g x = none → exec (.entryStartGated g q) s = .next (s.startEntry g x))
        ∧ (x.timed = true ∨ s.entryLack g x ≠ none → exec (.entryStartGated g q) s = .next s))
    ∧ (∀ x : QEntry, x.kind = 3 → x.pop = false →
        let w := s.ww g
        let ms := (s.th g).moduli
        let u := s.modEng g fun e => e.modEntry x.tl x.opnum fun y => { y with state := 1, held := false }
        (∀ m before after, ms = before ++ m :: after → w.modulus m = none → (∀ m' ∈ before, w.modulus m' ≠ none) → s.startEntry g x = u.entryFault g 3 x.opnum 0x015 m)
        ∧ ((∀ m ∈ ms, w.modulus m ≠ none) → (s.th g).needsKey = true → w.keyValid = false → s.startEntry g x = u.entryOpen g 3 x.opnum 0x088)
        ∧ ((∀ m ∈ ms, w.modulus m ≠ none) → ((s.th g).needsKey = false ∨ w.keyValid = true) →
        let t := s.startEntry g x
        (t.th g).run = some { opnum := x.opnum, uid := x.uid, first := (s.th g).cnt, len := leAt x.desc 16 8, mods := ms.map fun m => (m, (w.modulus m).getD 0), seqid := w.seqid.extractLsb' 0 32
                              pos := w.pos.extractLsb' 0 32, key := if w.keyValid then w.samplerKey else none }
        ∧ (∀ i el, nfind (s.th g).elems i = some el → nfind (t.th g).elems i = some { el with level := 0, rblk := 0, rword := 0 })
        ∧ (t.th g).cnt = (s.th g).cnt ∧ (t.th g).stems = (s.th g).stems ∧ t.mem = s.mem))
    ∧ (q ≠ 3 →
        let next := (nget {} e.tls q).retired + 1
        (∀ x, e.entry q next = some x → x.state = 2 → ¬(x.push = true ∧ x.status = 0 ∧ 16 ≤ e.tokens (6 * q + x.peer)) → Reaches (.entryRetire g q) s fun t =>
          (nget {} (t.eng g).tls q).retired = next ∧ (t.eng g).entry q next = none ∧ t.mem = s.mem
          ∧ (x.status ≠ 0 → (nget {} (t.eng g).tls q).badnum = next ∧ (nget {} (t.eng g).tls q).badstat = x.status ∧ (nget {} (t.eng g).tls q).nonok = (nget {} e.tls q).nonok + 1)
          ∧ (x.push = true → x.status = 0 → (t.eng g).tokens (6 * q + x.peer) = e.tokens (6 * q + x.peer) + 1))
        ∧ ((∀ x, e.entry q next = some x → x.state ≠ 2) → exec (.entryRetire g q) s = .next s))
    ∧ (∀ c, e.credits.find? (fun c => decide (c.offset ≤ (s.th g).cnt)) = some c → let k := 7 * c.peer
        (e.tokens k < 16 → Reaches (.creditTimerFire g) s fun t => (t.eng g).tokens k = e.tokens k + 1 ∧ (t.eng g).credits = e.credits.erase c ∧ t.mem = s.mem)
        ∧ (16 ≤ e.tokens k → exec (.creditTimerFire g) s = .next ((s.modEng g fun e => { e with credits := e.credits.erase c }).asyncFault g 0x081
            (c.offset % 2 ^ 40 + 2 ^ 40 * 6 + 2 ^ 48 * k + 2 ^ 56 * 12))))
    ∧ ((∀ c ∈ e.credits, (s.th g).cnt < c.offset) → exec (.creditTimerFire g) s = .next s)

/-- R58, R70, R71, R72, R73, R75, R101, R104, R107, R297, R299, R340, R417: the stand fires its oldest ready operation when the array is free and no timed entry needs it; a fire's sums are those of the rows of
its A slot and the columns of the plane, onto what the set held for an ACCUM form; its A slot is released when its last plane has entered and its set takes the sums and its tag ten cy later; a FULL
set drains a beat to every entry of its chain when all can take it, and is drained once every consumer has the last. -/
def Parts.StandEvents : Prop :=
  ∀ (s : State) (g : Nat),
    let x := s.stand g
    (let u := (tornOps g x.ops s).markReady g
     let busy := u.cyAt g < (u.stand g).busyUntil
     (busy ∨ (u.stand g).pick = none → exec (.standFire g) s = .next u)
     ∧ (¬busy → ∀ k o, (u.stand g).pick = some (k, o) → exec (.standFire g) s = .next 
        (if u.blocksTimed g o.desc || u.heldRange 512 (burrowAt g (u.glade g).active + sdSlot o.desc (o.fires % sdSlots o.desc)) (slotSpan o.desc) then u else u.fire g k o)))
    ∧ (∀ (k : Nat) (o : StandOp) (dst : Nat), let d := o.desc
        let mode := sdMode d
        let i := o.fires % sdSlots d
        let swap := sdSwap d = true ∧ o.fires = 0
        let p := x.plane (if swap then x.idle else x.active)
        let u := s.flow (s.arrivalPts g (sdRbase d + i)) (.op o.uid)
        let scale := if mode = 3 then 127 else field (nget 0x7F (s.ww g).rsc (field ((s.eng g).rill (sdRbase d + i)).cfg.toNat 57 3)).toNat 0 8
        let row (m : Nat) := u.standRow g o.uid d i m scale
        x.target d = some dst → (mode = 3 → o.modulusOk = true) → p.parity = none → let t := s.fire g k o
          t.mem = s.mem ∧ (t.stand g).active = (if swap then x.idle else x.active) ∧ (t.stand g).busyUntil = s.cyAt g + sdRows d * modeW mode
          ∧ ((t.stand g).set dst).claim = true ∧ ∃ f, (t.stand g).fires = x.fires ++ [f] ∧ f.opnum = o.opnum ∧ f.off = sdSlot d i ∧ f.rill = sdRbase d + i ∧ f.set = dst
            ∧ f.start = s.cyAt g ∧ f.span = sdRows d * modeW mode ∧ f.rows = sdRows d ∧ f.fin = sdFinal d ∧ f.released = false ∧ f.landed = false
            ∧ (∀ m, m ∈ f.nanRows ↔ m < sdRows d ∧ (row m).2 = true)
            ∧ (mode ≠ 3 → ∀ m < sdRows d, ∀ n < modeCols mode, ∀ col, p.cols[n]? = some col →
                nget 0 f.acc (192 * m + n) = accBlocks mode o.modulus (row m).1 col (if sdAcc d then nget 0 (x.set dst).acc (192 * m + n) else 0))
            ∧ (mode = 3 → sdKb d ≠ 0 → ∀ m < sdRows d, ∀ n < 48, ∀ col, p.cols[n]? = some col → col ≠ [] →
                laneOf f.acc m n = accBlocks 3 o.modulus (row m).1 col (if sdAcc d then laneOf (x.set dst).acc m n else 0)))
    ∧ (let due (f : Fire) : Prop := f.released = false ∧ f.start + f.span ≤ s.cyAt g + 1 ∧ s.releaseHeld g f = false
       ((∀ f ∈ x.fires, ¬due f) → Reaches (.standSlotRelease g) s fun t => t.stand g = x ∧ t.mem = s.mem)
       ∧ (∀ f, x.fires = [f] → due f → exec (.standSlotRelease g) s =
            .next ((((s.modStand g fun x => { x with fires := [{ f with released := true }] }).rearm g f.rill).noticeRaft g f.rill).noticeZone g f.off f.rill)))
    ∧ ((∀ f ∈ x.fires, f.landed = false ∧ s.cyAt g < f.start + f.span + 10) → Reaches (.standFireComplete g) s fun t => t.stand g = x)
    ∧ (∀ f, x.fires = [f] → f.landed = false → f.start + f.span + 10 ≤ s.cyAt g → Reaches (.standFireComplete g) s fun t => t.mem = s.mem
        ∧ (t.stand g).fires = (if f.released then [] else [{ f with landed := true }])
        ∧ let y := (t.stand g).set f.set
          y.tag = (if f.fin then .full else .accum) ∧ y.acc = f.acc ∧ y.rows = max (x.set f.set).rows f.rows ∧ y.claim = false ∧ ∀ m ∈ f.nanRows, m ∈ y.nanRows)
    ∧ (∀ k < 2, let y := x.set k
        let last := y.rows * (if y.m64.isSome then 3 else 6)
        let isAway (t : State) : Prop := ∃ a ∈ (t.eng g).away, a.2.2 = 48 + k
        let done (dr : Drain) (t u : State) : Prop := (isAway t → u = t) ∧ (¬isAway t → u = (t.drained g k dr.steer false).perf g 8 1)
        (y.tag ≠ .full ∨ s.cyAt g ≤ y.fullAt → exec (.drainBeat g k) s = .next s)
        ∧ (y.tag = .full → y.fullAt < s.cyAt g → y.drain = none → x.steering = [] → exec (.drainBeat g k) s = .next s)
        ∧ (∀ entry op rest v, y.tag = .full → y.fullAt < s.cyAt g → y.drain = none → x.steering = (entry, op) :: rest → let u := s.modStand g fun x => { x with steering := rest }
            u.chain g entry = .error v → exec (.drainBeat g k) s = .next ((u.drained g k op true).asyncFault g 0x085 v false op))
        ∧ (∀ dr, y.tag = .full → y.fullAt < s.cyAt g → y.drain = some dr →
            let takes := dr.tries ≤ 4 ∧ ∀ w ∈ dr.words, s.beatRoom g w dr.beat = true
            let t := (beatAll g dr.beat dr.steer k dr.entry (y.beatWords dr.beat) dr.words s).modStand g fun x => x.modSet k fun y => { y with drain := some { dr with beat := dr.beat + 1, tries := 0 } }
            (dr.beat = last → Reaches (.drainBeat g k) s (done dr s))
            ∧ (dr.beat ≠ last → ¬takes → exec (.drainBeat g k) s = .next s)
            ∧ (dr.beat ≠ last → takes → dr.beat + 1 ≠ last → exec (.drainBeat g k) s = .next t)
            ∧ (dr.beat ≠ last → takes → dr.beat + 1 = last → Reaches (.drainBeat g k) s (done dr t))))

/-- R58, R76, R277, R301, R302, R303, R306, R329, R344, R439, R450: a raft that has issued its last tile whole takes its next notice; of each entry the oldest tile lands once it has been issued whole, unless its
rill is held or the cipher block it passes is busy; a landed tile writes the bytes of its source, sealed or opened as the form says, and nothing else; a link tile goes out as DATA flits of up to 200
bytes. The cy of a landing is log entry 97's choice. -/
def Parts.RaftEvents : Prop :=
  ∀ (s : State) (g : Nat),
    (∀ raft, let q := (s.eng g).queue (1 + raft)
      let busy := ∃ e ∈ q, ∃ t ∈ e.tiles, s.cyAt g < t.1 + (e.tileBytes + 127) / 128
      (busy ∨ s.nextServe g raft = none → exec (.raftNoticeServe g raft) s = .next s)
      ∧ (∀ e, ¬busy → s.nextServe g raft = some e → exec (.raftNoticeServe g raft) s = .next (s.modEng g fun v =>
          { v.modEntry e.tl e.opnum (fun y => { y with tiles := y.tiles ++ [(s.cyAt g, y.notices.headD 0)], notices := y.notices.drop 1 }) with rr := nset v.rr raft (s.serveRill g e) }))
      ∧ ((∀ e ∈ q, s.tileDue g e = false) → exec (.raftTileLand g raft) s = .next s)
      ∧ (∀ before e after, q = before ++ e :: after → (∀ y ∈ before, s.tileDue g y = false) → s.tileDue g e = true →
          exec (.raftTileLand g raft) s = .next (after.foldl (fun s y => if s.tileDue g y then s.landOne g y else s) (if e.kind = 5 then s.landLink g e else s.landTile g e))))
    ∧ (∀ e, s.tileDue g e = true ↔ ∃ t rest, e.tiles = t :: rest ∧ e.state = 1 ∧ e.tries ≤ 4 ∧ t.1 + (e.tileBytes + 127) / 128 < s.cyAt g ∧ s.tileHeld g e = false
        ∧ ¬(e.kind = 2 ∧ rdMode e.desc ≠ 0 ∧ s.cyAt g < (s.clearing (clearingOf g)).cipherFree))
    ∧ (∀ (e : QEntry) (u : State) (ps : List (Nat × Nat)), Memory.wf s.mem = true → let d := e.desc
        let n := e.issued
        let dst := (rdDst d + (n % rdSlots d) * rdSlotSize d) % 2 ^ 64
        s.engAccess g .rd ((rdSource d n).flatMap fun p => pieces p.2 p.1 p.2) = (u, .ok ps) →
        (∀ v cause a, u.engAccess g (if rdMode d = 2 then .seal else .wr) (pieces (rdSlotSize d) dst (rdSlotSize d)) = (v, .fault cause a) → s.landTile g e = v.entryFault g e.tl e.opnum cause a)
        ∧ ∀ v pd, u.engAccess g (if rdMode d = 2 then .seal else .wr) (pieces (rdSlotSize d) dst (rdSlotSize d)) = (v, .ok pd) →
          let src := (v.gather g e ps).1
          let ses := (s.job (s.ctxOf g)).session (leAt d 48 4)
          let placed (bs : List Byte) : Prop := ∀ a, memGet (s.landTile g e).mem a = (placedAt pd bs a).getD (memGet s.mem a)
          (rdMode d = 0 → placed src)
          ∧ (∀ k, rdMode d = 2 → ses = some k → let y := gcmSeal k.key (tileIv k.prefSeal (rdNbase d + n)) [] src; placed (y.1 ++ y.2))
          ∧ (∀ k, rdMode d = 1 → ses = some k → let ctr := rdNbase d + n
              (∀ pt, gcmOpen k.key (tileIv k.prefOpen ctr) [] (src.take (rdTile d)) (src.drop (rdTile d)) = some pt → k.hiOpen < ctr → ctr < 2 ^ 64 → placed pt)
              ∧ (gcmOpen k.key (tileIv k.prefOpen ctr) [] (src.take (rdTile d)) (src.drop (rdTile d)) = none ∨ ctr ≤ k.hiOpen ∨ 2 ^ 64 ≤ ctr → placed [])))
    ∧ (∀ (e : QEntry) (u : State), let d := e.desc
        let access := s.engAccess g .rd (pieces (ldTile d) ((leAt d 16 8 + e.issued * ldTile d) % 2 ^ 64) (ldTile d))
        (∀ cause a, access = (u, .fault cause a) → s.landLink g e = u.entryFault g e.tl e.opnum cause a)
        ∧ (∀ ps, access = (u, .ok ps) → let r := u.gather g e ps
            let v := sendTile e.link g (leAt d 36 1) (leAt d 33 1) ((e.tiles.map (·.2)).headD 0) r.2 (ldTile d / 200 + 1) 0 r.1 (ps.foldl (fun s p => s.hbmRead p.1 p.2) u)
            (s.landLink g e).out = v.out ∧ (s.landLink g e).mem = s.mem))
    ∧ ∀ (l rill zone slot : Nat) (err : Bool) (n off : Nat) (bs : List Byte), bs ≠ [] →
        let b := bs.take 200
        sendTile l g rill zone slot err (n + 1) off bs s = sendTile l g rill zone slot err n (off + 200) (bs.drop 200)
          (s.sendFlit l 1 (toBytes 2 g ++ toBytes 1 rill ++ toBytes 1 zone ++ toBytes 1 slot ++ [if err then 1 else 0] ++ toBytes 2 b.length ++ toBytes 4 off ++ List.replicate 16 0 ++ b
            ++ List.replicate (200 - b.length) 0))

/-- R62, R102, R106, R107, R280, R304, R305, R306, R329, R417, R420: a weight load reads its regions in order and then writes the planes: in every receiving glade, of the idle plane, each block of the load aligned, VALID; where a
region or a block is refused the planes are EMPTY and the entry faults; a repeated load whose modulus is no longer valid leaves its plane EMPTY with MODULUS_INVALID (0x015). Arrivals are counted into
rills, whose event fires once at the count. -/
def Parts.LoadEvents : Prop :=
  ∀ (s : State) (g : Nat),
    let x := s.stand g
    (x.reload = [] →
        ((∀ e ∈ (s.eng g).queue 4, e.state ≠ 1) → exec (.wloadRegion g) s = .next s)
        ∧ (∀ e, ((s.eng g).queue 4).find? (fun e => decide (e.state = 1)) = some e →
            let gs := s.wloadGlades g e.desc
            let held := ∃ r, (wdRegions e.desc).find? (fun r => (nfind e.regs r).isNone) = some r ∧ s.wdHeld g r = true
            (held → exec (.wloadRegion g) s = .next s)
            ∧ (¬held → ∀ t c a, s.wdStep g e.desc e.issued e.regs = (t, .error (c, a)) → exec (.wloadRegion g) s = .next ((setPlanes none {} gs t).entryFault g 4 e.opnum c a))
            ∧ (¬held → ∀ t regs, s.wdStep g e.desc e.issued e.regs = (t, .ok regs) →
                ((∃ r ∈ wdRegions e.desc, nfind regs r = none) → exec (.wloadRegion g) s = .next (t.modEng g fun v => v.modEntry 4 e.opnum fun y => { y with regs := regs }))
                ∧ ((∀ r ∈ wdRegions e.desc, nfind regs r ≠ none) → exec (.wloadRegion g) s = .next ((setPlanes none
                    { st := 2, fmt := wdFmt e.desc, cols := wdColumns e.desc e.issued regs, desc := e.desc, src := t.posOf g } gs t).finishEntry g 4 e.opnum 0)))))
    ∧ (∀ i d src rest, x.reload = (i, d, src) :: rest → wdFmt d = 3 → let by_ := ((s.place g).map fun p => p.gladeAt g src.1 src.2).getD g
        (s.ww by_).modulus (leAt d 36 1) = none → exec (.wloadRegion g) s = .next ((s.modStand g fun x => { x.setPlane i {} with reload := rest }).openAsync g 0x015 (2 ^ 26)))
    ∧ (∀ (p : Plane) (gs : List Nat) (h : Nat), (setPlanes none p gs s).stand h = if h ∈ gs then (s.stand h).setPlane (s.stand h).idle p else s.stand h)
    ∧ (∀ (d : List Byte) (q : Nat) (regs : List (Nat × List Byte)), ∀ n < wdCols d, ∀ k < wdKb d,
        let bytes := (List.range (kBytes (wdFmt d))).map fun i => let a := leAt d 16 8 + n * leAt d 24 8 + k * kBytes (wdFmt d) + i
          ((nget [] regs (a / 4096))[a % 4096]?).getD 0
        ∀ b, alignB (wdFmt d) q bytes = .ok b → ∃ col, (wdColumns d q regs)[n]? = some col ∧ col[k]? = some b)
    ∧ (∀ (d : List Byte) (q : Nat) (regs : List (Nat × List Byte)) (r : Nat), (wdRegions d).find? (fun r => (nfind regs r).isNone) = some r →
        (∀ u c a, s.wdRegion g r = (u, .error (c, a)) → s.wdStep g d q regs = (u, .error (c, a)))
        ∧ (∀ u p, s.wdRegion g r = (u, .ok p) → let v := u.usage (u.ctxOf g) 11 4096
            let block (b : Nat × Nat) := alignB (wdFmt d) q (wdBytes (nset regs r p) (wdBlock d b.1 b.2) (kBytes (wdFmt d)))
            ((∀ b ∈ wdBlocksIn d r, ∃ w, block b = .ok w) → s.wdStep g d q regs = (v, .ok (nset regs r p)))
            ∧ (∀ before b after c, wdBlocksIn d r = before ++ b :: after → (∀ y ∈ before, ∃ w, block y = .ok w) → block b = .error c →
                s.wdStep g d q regs = (v.drawn, .error (c, v.freeWord.toNat)))))
    ∧ ∀ r bytes, let old := (s.eng g).rill r
        let n := if field old.cfg.toNat 60 1 = 1 then bytes / 8 else bytes
        let arrived := min (old.arrived + n) (2 ^ 64 - 1)
        Reaches (.rillArrival g r bytes) s fun t => ((t.eng g).rill r).arrived = arrived ∧ ((t.eng g).rill r).status = old.status
          ∧ (∀ k, k ≠ r → (t.eng g).rill k = (s.eng g).rill k) ∧ t.mem = s.mem
          ∧ (let ev := nget 0 (s.ww g).evc (field old.cfg.toNat 52 4)
             nget 0 (t.ww g).evc (field old.cfg.toNat 52 4) =
               if field old.cfg.toNat 56 1 = 1 ∧ Rill.reached { old with arrived := arrived } = true ∧ old.fired = false then BitVec.ofNat 64 (min (ev.toNat + 1) (2 ^ 64 - 1)) else ev)

/-- R58, R62, R70, R71, R72, R73, R75, R76, R101, R102, R104, R107, R297, R299, R301, R302, R305, R306, R329, R340, R417, R439, R450: the stand, the rafts and link orders, and the weight loads: when each takes its next step, what sums
a fire makes, which bytes a landed tile writes, and what a weight load leaves in the planes. -/
def Obligations.EngineEvents : Prop := Parts.StandEvents ∧ Parts.RaftEvents ∧ Parts.LoadEvents

/-- R129, R192, R230, R327, R329, R340, R407, R414, R415, R416, R450, R456, R469: motes. A stream's first mote goes to every entry of its chain when all can take it, and then leaves its stream; a burrow takes its eight
bytes at the offset of its number, a port a value with its tags, a rill counts it, a zone of this package takes it in its slot in progress, and one of another package is sent as a DATA flit to slot 0xFF; a
mote damaged in transit, or one whose residue or edm fails a sink's check, is counted and sent again, at most four times before REPLAY_EXHAUSTED (0x086) with its rill and number; one that left its source
with err 1 is counted and delivered. Which of two counts a damage adds to is a free bit (log entry 61); where a flit has the tags of a mote is log entry 31's choice. -/
def Obligations.MoteEvents : Prop :=
  ∀ (s : State) (g : Nat),
    ((∀ c < 48, ((s.eng g).ostream c).out = []) → (∀ x ∈ (s.eng g).rills, x.2.wait = []) → Reaches (.moteArrival g) s fun t => t.mem = s.mem ∧ ∀ h, t.glade h = s.glade h)
    ∧ (∃ t, exec (.moteArrival g) s = .next t)
    ∧ (let u := s.modEng g fun e => { e with rills := e.rills.map fun x => (x.1, x.2.pour x.2.wait.length) }
       ∀ c < 48, ((u.eng g).ostream c).out ≠ [] → (∀ k < 48, k ≠ c → ((u.eng g).ostream k).out = []) → (∀ x ∈ (u.eng g).rills, x.1 + 16 ≠ c → x.2.ostream.out = []) →
        exec (.moteArrival g) s = .next (u.sendHead g c))
    ∧ (∀ c m rest, ((s.eng g).ostream c).out = m :: rest → let ws := m.words.map (s.routeOf g)
        let takes := ((s.eng g).ostream c).tries ≤ 4 ∧ ∀ w ∈ ws, s.canTake g w c = true
        let wrong := m.mote.valid = true ∧ (m.mote.residue.toNat ≠ m.mote.data.toNat % 15 ∨ 8 < m.mote.edm.toNat)
        let counted : State := (s.sinkGlades ws).foldl (fun s d => s.life 1 d 1) s
        let goes (u : State) : State := sinkAll g m.mote (s.firstNum g c) 3 ((((s.th g).run).map (·.opnum)).getD 0) c [.out m.uid] ws (u.modEng g fun e => e.modOstream c fun _ => { out := rest, tries := 0 })
        (¬takes → s.sendHead g c = s)
        ∧ (takes → ¬wrong → s.sendHead g c = goes s)
        ∧ (takes → wrong → m.mote.err = true → s.sendHead g c = goes counted)
        ∧ (takes → wrong → m.mote.err = false → s.sendHead g c = s.reinject g c 1))
    ∧ (∀ (m : Mote) (n tl op c w : Nat) (before_ : List Point), let d := field w 51 9
        let pkg := field w 43 8
        (field w 60 3 = 0 → ∃ p : Port, s.sink g w m n tl op c before_ = s.modBough d (fun b => b.modPort (field w 38 4) 5 fun _ => p) ∧ p.put ≥ ((s.bough d).port (field w 38 4) 5).put + 1
          ∧ ((∀ k, ((s.bough d).port (field w 38 4) 5).put ≤ k → nfind ((s.bough d).port (field w 38 4) 5).vals k = none) →
              nfind p.vals ((s.bough d).port (field w 38 4) 5).put =
                some { data := m.data, residue := m.residue, edm := m.edm, err := m.err, last := m.last, valid := true, port := true, seq := m.seq, rels := m.rels }))
        ∧ (field w 60 3 = 3 → field w 0 20 + 8 * n + 8 ≤ 2 ^ 20 → (s.eng d).zoneHit (field w 0 20 + 8 * n) 8 = false →
            s.sink g w m n tl op c before_ = s.write (burrowAt d (s.glade d).active + (field w 0 20 + 8 * n)) (toBytes 8 m.data.toNat) before_)
        ∧ (field w 60 3 = 3 → 2 ^ 20 < field w 0 20 + 8 * n + 8 → s.sink g w m n tl op c before_ = s.entryFault g tl op 0x041 (0xFF00000000000000 + (field w 0 20 + 8 * n)))
        ∧ (field w 60 3 = 4 → s.sink g w m n tl op c before_ = (s.countRill d (field w 38 5) 8 m.err).feedRill d (field w 38 5) m)
        ∧ (field w 60 3 = 5 → pkg = s.self → s.sink g w m n tl op c before_ = s.landMote d (field w 38 4) ⟨s.self, g, field w 24 5⟩ m before_)
        ∧ (∀ l, field w 60 3 = 5 → pkg ≠ s.self → s.linkTo pkg = some l →
            let side := toBytes 4 (b2n m.err + 2 * b2n m.last + 16 * m.edm.toNat + 256 * m.residue.toNat + 65536 * m.seq.toNat)
            let t := (s.noteSent g pkg).sendFlit l 1 (toBytes 2 g ++ toBytes 1 (field w 24 5) ++ toBytes 1 (field w 38 4) ++ [0xFF, 0] ++ toBytes 2 8 ++ side ++ List.replicate 16 0
              ++ toBytes 8 m.data.toNat ++ List.replicate 192 0)
            s.sink g w m n tl op c before_ = t.modEng g fun e => { e with away := e.away ++ [(l, (t.link l).lastSeq, c)] }))
    ∧ (∀ c < 48, ((s.eng g).ostream c).out = [] ∨ 4 < ((s.eng g).ostream c).tries → exec (.moteReinjection g c) s = .next s)
    ∧ (∀ c < 48, ((s.eng g).ostream c).out ≠ [] → ((s.eng g).ostream c).tries ≤ 4 →
        exec (.moteReinjection g c) s = .next (s.drawn.reinject g c (if s.freeWord.getLsbD 0 then 1 else 2)))
    ∧ (∀ k < 2, ∀ dr, ((s.stand g).set k).drain = some dr → dr.tries ≤ 4 → Reaches (.moteReinjection g (48 + k)) s fun t => t.mem = s.mem
        ∧ ((t.stand g).set k).drain = some { dr with tries := dr.tries + 1 } ∧ (dr.tries = 4 → ∃ r ∈ (t.ww g).raised, r.code = 0x086))
    ∧ (∀ raft < 2, ∀ e, ((s.eng g).queue (1 + raft)).find? (fun e => decide (e.tiles ≠ [] ∧ e.kind = 2)) = some e → e.tries ≤ 4 → Reaches (.moteReinjection g (50 + raft)) s fun t => t.mem = s.mem
        ∧ (e.tries = 4 → ∃ r ∈ (t.ww g).raised, r.code = 0x086))
    ∧ ∀ c m rest item, ((s.eng g).ostream c).out = m :: rest →
        let ws := m.words.map (s.routeOf g)
        let u : State := (s.sinkGlades ws).foldl (fun s d => s.life item d 1) s
        (((s.eng g).ostream c).tries < 4 → s.reinject g c item = (u.modEng g fun e => e.modOstream c fun o => { o with tries := ((s.eng g).ostream c).tries + 1 }).life 3 g 1)
        ∧ (4 ≤ ((s.eng g).ostream c).tries → s.reinject g c item =
            ((ws.foldl (fun s w => s.sinkErr g w) u).modEng g fun e => e.modOstream c fun o => { o with tries := 5 }).asyncFault g 0x086
              (m.mote.rill.toNat + 2 ^ 16 * m.mote.seq.toNat))

/-! ## Events: blocks, banks, grafts -/

/-- R148, R174, R411: a woodward that may fetch takes the block at its fetch address, with the words that stand there, or the fault that the fetch raises (FETCH_RANGE with a free TRAP.VALUE, log entry 2); the first pending cause is delivered
instead in the cy after a return. -/
def Parts.BlockFetch : Prop :=
  ∀ (s : State) (g : Nat),
    let w := s.ww g
    let base := burrowAt g (s.glade g).active + w.fetch
    let n := s.num (base + 8) 8 % 128 + 1
    let told := s.modWw g fun w => { w with deliver := false }
    let listed := s.modWw g fun w => { w with deliver := false, pending := w.pending.drop 1 }
    let delivers := w.deliver = true ∧ w.pending ≠ []
    let fetches := ¬delivers ∧ w.started = true ∧ w.halted = false ∧ w.atMark = false ∧ w.block = none ∧ s.heldRange g base (16 + 8 * n) = false
    let faults (c v : Nat) : Prop := exec (.blockFetch g) s = .next (told.take g c v w.fetch false)
    let ranges : Prop := exec (.blockFetch g) s = .next (told.drawn.take g 0x00C s.freeWord.toNat w.fetch false)
    (∀ c l, w.deliver = true → w.pending = c :: l → exec (.blockFetch g) s = .next (listed.take g c.code c.value (s.asyncAt g) true))
    ∧ (¬delivers → ¬fetches → exec (.blockFetch g) s = .next told)
    ∧ (fetches → 2 ^ 20 < w.fetch + 16 + 8 * n → ranges)
    ∧ (fetches → w.fetch + 16 + 8 * n ≤ 2 ^ 20 → w.fetch % 64 ≠ 0 → faults 0x001 128)
    ∧ (fetches → w.fetch % 64 = 0 → w.fetch + 16 + 8 * n ≤ 2 ^ 20 → s.bad base (16 + 8 * n) = true → faults 0x1C2 (0xFF00000000000000 + w.fetch))
    ∧ (fetches → w.fetch % 64 = 0 → w.fetch + 16 + 8 * n ≤ 2 ^ 20 → s.bad base (16 + 8 * n) = false →
        let h0 : Word := BitVec.ofNat 64 (s.num base 8)
        let h1 : Word := BitVec.ofNat 64 (s.num (base + 8) 8)
        let ws := s.blockWords g w.fetch n
        let first := ((ws[0]?).getD 0).toNat
        (∀ c v, blockBad h0 h1 ws = some (c, v) → faults c v)
        ∧ (blockBad h0 h1 ws = none →
            (∀ l, w.label = some l → ¬(field first 55 9 = 0x04C ∧ field first 0 12 = l) → faults 0x00D l)
            ∧ (w.label = none ∨ (∃ l, w.label = some l ∧ field first 55 9 = 0x04C ∧ field first 0 12 = l) →
                let takes (ts : Nat) : Prop := exec (.blockFetch g) s =
                  .next ((told.withBlock g { addr := w.fetch, h0 := h0, h1 := h1, words := ws, ts := ts, qf := w.q ||| 1 }).touch base (16 + 8 * n))
                let r := (w.reg (field h1.toNat 33 6)).toNat
                (field h1.toNat 31 2 = 0 → w.lastTs = none → takes 0)
                ∧ (∀ p, field h1.toNat 31 2 = 0 → w.lastTs = some p → p + 1 < 2 ^ 64 → takes (max (p + 1) w.floor.toNat))
                ∧ (∀ p, field h1.toNat 31 2 = 0 → w.lastTs = some p → 2 ^ 64 ≤ p + 1 → faults 0x00B (2 ^ 64 - 1))
                ∧ (field h1.toNat 31 2 = 1 → w.lastTs.getD 0 ≤ r → takes r) ∧ (field h1.toNat 31 2 = 1 → r < w.lastTs.getD 0 → faults 0x00B r)
                ∧ (2 ≤ field h1.toNat 31 2 → takes (w.lastTs.getD 0)))))

/-- R142, R144, R145, R170 to R173, R180, R182, R257, R263, R267, R268, R394: a block that may still issue, or is not at its frontier, or is cancelled, or lacks room, or whose stores or walker meet a sector
that another's atomic holds, does not commit; one that leaves a register of its mask unresolved or whose effects are not its socount faults; one that commits performs its stores in ascending
instruction index, writes the registers and predicates it resolved and no other, and goes to its successor. -/
def Parts.BlockCommit : Prop :=
  ∀ (s : State) (g : Nat),
    let w := s.ww g
    (s.block g = none → exec (.blockCommit g) s = .next s)
    ∧ (∀ b, s.block g = some b → b.quiescent = false → exec (.blockCommit g) s = .next s)
    ∧ (∀ b, s.block g = some b → b.quiescent = true →
        (∀ k < 64, b.h0.getLsbD k = true → nfind b.gw k = none → (∀ j < k, b.h0.getLsbD j = true → nfind b.gw j ≠ none) → exec (.blockCommit g) s = .next (s.blockFault g 0x007 k))
        ∧ ((∀ k < 64, b.h0.getLsbD k = true → nfind b.gw k ≠ none) →
            let waits := s.frontier g = false ∨ s.cancelDue g = true ∨ (s.lack g).isSome = true ∨ (∃ x ∈ b.stores, s.heldRange g x.phys x.bytes.length = true) ∨ s.walkerWaits g b = true
            let free := s.frontier g = true ∧ s.cancelDue g = false ∧ ∀ x ∈ b.stores, s.heldRange g x.phys x.bytes.length = false
            (b.effects ≠ b.socount → exec (.blockCommit g) s = .next (s.blockFault g 0x009 (b.effects + 256 * b.socount)))
            ∧ (b.effects = b.socount → waits → exec (.blockCommit g) s = .next s)
            ∧ (b.effects = b.socount → ¬waits → ∀ e, s.orderEntries g b.actions = .error e → exec (.blockCommit g) s = .next (s.blockFault g e.1 e.2))
            ∧ (b.effects = b.socount → ¬waits → ∀ l, s.orderEntries g b.actions = .ok l → exec (.blockCommit g) s = .next (s.commitBlock g b l))
            ∧ (b.effects = b.socount → free → b.pend = [] → Memory.wf s.mem = true → (b.gw.map (·.1)).Nodup → (b.qw.map (·.1)).Nodup → b.branch ≠ some .tret → (∀ c v, b.branch ≠ some (.trap c v)) →
              Reaches (.blockCommit g) s fun t =>
                let covers (x : BStore) (a : Nat) : Prop := x.phys ≤ a ∧ a < x.phys + x.bytes.length
                (∀ a, (∀ x ∈ b.stores, ¬covers x a) → memGet t.mem a = memGet s.mem a)
                ∧ (∀ x ∈ b.stores, ∀ a, covers x a → (∀ y ∈ b.stores, covers y a → y = x ∨ y.idx < x.idx) → memGet t.mem a = (x.bytes[a - x.phys]?).getD 0)
                ∧ (∀ k, (t.ww g).reg k = if k = 0 then 0 else match nfind b.gw k with | some (some v) => v | _ => w.reg k)
                ∧ (∀ k < 16, (t.ww g).q.getLsbD k = (nfind b.qw k).getD (w.q.getLsbD k))
                ∧ (t.ww g).lastTs = some b.ts ∧ (t.ww g).block = none ∧ (t.ww g).special = w.special
                ∧ (∀ h, h ≠ g → (t.ww h).g = (s.ww h).g ∧ (t.ww h).q = (s.ww h).q ∧ (t.ww h).special = (s.ww h).special)
                ∧ (b.branch = none → (t.ww g).fetch = b.fall ∧ (t.ww g).label = none ∧ (t.ww g).link = w.link ∧ (t.ww g).halted = w.halted)
                ∧ (∀ a l, b.branch = some (.goto a l) → (t.ww g).fetch = a.toNat ∧ (t.ww g).label = l ∧ (t.ww g).link = w.link)
                ∧ (∀ a, b.branch = some (.call a) → (t.ww g).fetch = a.toNat ∧ (t.ww g).link = BitVec.ofNat 64 (64 * field b.fall 6 14))
                ∧ (b.branch = some .halt → (t.ww g).halted = true))
            ∧ (b.effects = b.socount → free → b.pend = [] → b.stores = [] → b.gw = [] → b.qw = [] →
                (∀ c v, b.branch = some (.trap c v) → w.inh = false → field w.trapHandler.toNat 6 14 ≠ 0 → sysOwned c = false → Reaches (.blockCommit g) s fun t => t.mem = s.mem
                  ∧ (t.ww g).trapCause = BitVec.ofNat 64 c ∧ (t.ww g).trapBlock = BitVec.ofNat 64 (64 * field b.fall 6 14) ∧ (t.ww g).trapValue = BitVec.ofNat 64 v
                  ∧ (t.ww g).fetch = 64 * field w.trapHandler.toNat 6 14 ∧ (t.ww g).inh = true ∧ (t.ww g).mark = w.atMark ∧ (t.ww g).hlt = w.halted ∧ (t.ww g).g = w.g ∧ (t.ww g).q = w.q)
                ∧ (b.branch = some .tret → Reaches (.blockCommit g) s fun t => t.mem = s.mem ∧ (t.ww g).fetch = 64 * field w.trapBlock.toNat 6 14 ∧ (t.ww g).inh = false
                    ∧ (t.ww g).halted = w.hlt ∧ (t.ww g).atMark = (w.mark || w.atMark) ∧ (t.ww g).deliver = true ∧ (t.ww g).g = w.g ∧ (t.ww g).q = w.q))))

/-- R158, R250, R263, R287, R341: the bounded waits of a block fault once WAITLIM cy have passed; a walk waits for a sector that an atomic holds, and fills the caches or keeps its fault; a request to another package is answered NOLINK after 100 µs. -/
def Parts.BlockWaits : Prop :=
  ∀ (s : State) (g : Nat),
    (∀ idx, (s.block g = none → exec (.waitTimeout g idx) s = .next s)
      ∧ ∀ b, s.block g = some b → isWait (wordOpcode (b.word idx)) = true → idx ∉ b.done →
          ((s.ww g).waitlim ≤ nget 0 b.waits idx → exec (.waitTimeout g idx) s = .next (s.blockFault g 0x011 idx))
          ∧ (nget 0 b.waits idx < (s.ww g).waitlim → exec (.waitTimeout g idx) s = .next s))
    ∧ (∀ b q i, s.block g = some b → s.lack g = some (q, i) →
        ((s.ww g).waitlim ≤ nget 0 b.waits 256 → exec (.orderStall g) s = .next (s.blockFault g 0x017 (q + 8 * i)))
        ∧ (nget 0 b.waits 256 < (s.ww g).waitlim → exec (.orderStall g) s = .next s))
    ∧ (s.lack g = none → exec (.orderStall g) s = .next s)
    ∧ ((s.glade g).walks = [] → exec (.walkComplete g) s = .next s)
    ∧ (∀ k l, (s.glade g).walks = k :: l → s.walkHeld k.ctx k.va = true → exec (.walkComplete g) s = .next s)
    ∧ (∀ k l u, (s.glade g).walks = k :: l → s.walkHeld k.ctx k.va = false → let v := s.modGlade g fun x => { x with walks := l }
        (v.fillWalk g k.ctx k.va = (u, none) → exec (.walkComplete g) s = .next u)
        ∧ ∀ c, v.fillWalk g k.ctx k.va = (u, some c) → exec (.walkComplete g) s = .next (u.modGlade g fun x => { x with walkFaults := x.walkFaults ++ [(k.ctx, k.va, c)] }))
    ∧ (s.block g = none → Reaches (.slotAnswerTimeout g) s fun t => t.mem = s.mem ∧ t.block g = none)
    ∧ ∀ b, s.block g = some b → Reaches (.slotAnswerTimeout g) s fun t => ∃ m, t = s.withBlock g { b with answers := m } ∧ ∀ i,
        nfind m i = match nfind b.answers i with
          | some v => some v
          | none => if ∃ x ∈ b.asked, x.1 = i ∧ x.2 + 756000000 ≤ s.wall then some 8 else none

/-- R12, R13, R43, R149, R151 to R158, R177, R178, R183 to R187, R261, R271, R274, R324, R325, R328, R332, R334, R338, R340, R342, R346, R357, R361, R364 to R370, R377 to R380, R383, R393, R394: what the commit of a block does with
the one change it has noted: a system register takes what its access code and its reserved fields let through, WAITLIM at least 1,024, and MQSTAT's bit of a modulus is computed anew; a read of
TASK.ABORTS clears it; TASK.FLOOR, the phase mark, the sampler key, GLOAD's registers and the event counts; the arm, route, rill, tag and time-slot tables and the soft counters; the launches, instances and
job that CANCEL names; the orders and credits on their way; the bank, graft entry and reservation that an instruction changes; the requested test. No register of R149 has the access W1C. -/
def Parts.CommitEffects : Prop :=
  ∀ (s : State) (g : Nat) (b : Block), s.block g = some b → b.quiescent = true → b.stores = [] → b.gw = [] → b.qw = [] → b.branch = none →
    (∀ k < 64, b.h0.getLsbD k = false) → b.effects = b.socount → s.frontier g = true → s.cancelDue g = false → s.walkerWaits g b = false →
    let w := s.ww g
    let c := s.ctxOf g
    let dg := dieOf g
    let does (p : Pend) (P : State → Prop) : Prop := ∀ i, b.pend = [(i, p)] → Reaches (.blockCommit g) s P
    let only (f : Woodward → Woodward) (t : State) : Prop := (t.ww g).special = (f w).special ∧ (t.ww g).g = w.g ∧ (t.ww g).q = w.q ∧ t.mem = s.mem
    let write (n : Nat) (v : Word) (f : Woodward → Woodward) : Prop := does (.swr n v) fun t => only f t ∧ (t.ww g).link = w.link
    (∀ v : Word, let x := v.toNat
      write 0x10 v (fun w => { w with trapCause := BitVec.ofNat 64 (field x 0 9 + 2 ^ 16 * field x 16 1) })
      ∧ write 0x11 v (fun w => { w with trapBlock := BitVec.ofNat 64 (64 * field x 6 14) }) ∧ write 0x12 v (fun w => { w with trapValue := v })
      ∧ write 0x13 v (fun w => { w with trapHandler := BitVec.ofNat 64 (64 * field x 6 14) })
      ∧ does (.swr 0x15 v) (fun t => only id t ∧ (t.ww g).link = BitVec.ofNat 64 (64 * field x 6 14))
      ∧ write 0x16 v (fun w => { w with waitlim := max 1024 (field x 0 40) })
      ∧ (∀ m < 16, ∀ k < 3, does (.swr (0x40 + 4 * m + k) v) fun t =>
          let put (j : Nat) (l : List (Nat × Word)) : List (Nat × Word) := if j = k then nset l m v else l
          let q := (nget 0 (t.ww g).mqQ m).toNat
          only (fun y => { y with mqQ := put 0 y.mqQ, mqInv := put 1 y.mqInv, mqSq := put 2 y.mqSq, mqstat := (t.ww g).mqstat }) t
          ∧ (∀ j, j ≠ m → (t.ww g).mqstat.getLsbD j = w.mqstat.getLsbD j)
          ∧ ((t.ww g).mqstat.getLsbD m = true ↔ q % 2 = 1 ∧ 3 ≤ q ∧ q < 2 ^ 62 ∧ q * (nget 0 (t.ww g).mqInv m).toNat % 2 ^ 64 = 2 ^ 64 - 1 ∧ (nget 0 (t.ww g).mqSq m).toNat = 2 ^ 128 % q))
      ∧ (∀ m < 8, write (0x88 + m) v fun w => { w with rsc := nset w.rsc m (BitVec.ofNat 64 (field x 0 8)) })
      ∧ write 0xA1 v (fun w => { w with seqid := BitVec.ofNat 64 (field x 0 32) }) ∧ write 0xA2 v (fun w => { w with pos := BitVec.ofNat 64 (field x 0 32) })
      ∧ ∀ n, (n ≤ 8 ∨ n = 0x14 ∨ (0x20 ≤ n ∧ n ≤ 0x32) ∨ n = 0x80 ∨ (0x90 ≤ n ∧ n ≤ 0xA0) ∨ (0xB0 ≤ n ∧ n ≤ 0xCF)) → write n v id)
    ∧ does .clearAborts (fun t => only id t ∧ (t.ww g).aborts = 0)
    ∧ (∀ v, does (.floor v) (only fun w => { w with floor := v }))
    ∧ does .phaseMark (fun t => only (fun w => { w with atMark := true }) t ∧ (t.ww g).markAt = (s.eng g).issuedAt)
    ∧ (∀ k, does (.sampleKey k) (only fun w => { w with samplerKey := some k, keyValid := true, keyGen := w.keyGen + 1 }))
    ∧ (∀ ws : List (Nat × Word), does (.gload ws) fun t => (t.ww g).special = w.special ∧ t.mem = s.mem
        ∧ ∀ k, (t.ww g).reg k = if k = 0 then 0 else ((ws.reverse.find? fun p => decide (p.1 = k)).map (·.2)).getD (w.reg k))
    ∧ (∀ k dest, (s.eventGlades g dest).Nodup → does (.evsend k dest) fun t => ∀ h,
        nget 0 (t.ww h).evc k = (if h ∈ s.eventGlades g dest then BitVec.ofNat 64 (min ((nget 0 (s.ww h).evc k).toNat + 1) (2 ^ 64 - 1)) else nget 0 (s.ww h).evc k)
        ∧ ∀ j, j ≠ k → nget 0 (t.ww h).evc j = nget 0 (s.ww h).evc j)
    ∧ (∀ k, does (.evwait k) fun t => nget 0 (t.ww g).evseen k = nget 0 w.evseen k + 1 ∧ (∀ j, j ≠ k → nget 0 (t.ww g).evseen j = nget 0 w.evseen j) ∧ (t.ww g).evc = w.evc)
    ∧ (∀ rel acq sc, does (.fence rel acq sc) (only fun w => if rel then { w with relScopes := (w.relScopes ++ [sc]).eraseDups } else w))
    ∧ (∀ l, does (.readRel l) (only fun w => { w with readRel := (w.readRel ++ l).eraseDups }))
    ∧ (∀ d x en, does (.arm d x en) fun t => (t.die d).arms = nset (s.die d).arms x en ∧ ∀ k, k ≠ d → (t.die k).arms = (s.die k).arms)
    ∧ (∀ d x en, nfind (s.die d).arms x = some en → does (.disarm d x) fun t =>
        let busy := en.waiting ≠ [] ∨ (∃ k < 4, ∃ n ∈ (s.die k).instances, n.root = 4096 * d + x ∨ 4096 * d + x ∈ n.todo) ∨ ∃ l ∈ (s.die d).launches, l.2.arm = x
        (busy → nfind (t.die d).arms x = some { en with st := .disarming }) ∧ (¬busy → nfind (t.die d).arms x = none))
    ∧ (∀ en r, does (.rte en r) fun t => (t.eng g).routes = nset (s.eng g).routes en r)
    ∧ (let armed (x y : Rill) : Prop := y.arrived = x.arrived ∧ y.base = x.arrived ∧ y.arms = min (x.arms + 1) (2 ^ 64 - 1) ∧ y.status = 0 ∧ y.fired = false
       (∀ r v, does (.rillSet r v) fun t => armed ((s.eng g).rill r) ((t.eng g).rill r) ∧ ((t.eng g).rill r).cfg = v)
       ∧ ∀ r, does (.rillReset r) fun t => armed ((s.eng g).rill r) ((t.eng g).rill r) ∧ ((t.eng g).rill r).cfg = ((s.eng g).rill r).cfg)
    ∧ (∀ slot (r : Word), let old := s.tagWord dg c slot
        let takes (fn : Nat) (v : Nat) : Prop := does (.tag slot fn r) fun t => (t.die dg).tags = nset (s.die dg).tags (s.tagKey dg c slot) (BitVec.ofNat 64 v)
        takes 0 (256 * (r.toNat / 256)) ∧ takes 1 (2 ^ 16 * (old / 2 ^ 16) + 256 * field r.toNat 8 8) ∧ takes 2 (2 ^ 16 * field old 16 47))
    ∧ (∀ m v p l, s.place g = some p → s.launch p.die p.launch = some l → does (.tslot m v) fun t =>
        ∃ l', t.launch p.die p.launch = some l' ∧ l'.slotsNext = nset l.slotsNext m v ∧ l'.slotByNext = nset l.slotByNext m g ∧ l'.slots = l.slots)
    ∧ (∀ k n, does (.ccAdd k n) fun t => let x := nget {} (s.job c).soft (k % 256)
        let y := nget {} (t.job c).soft (k % 256)
        y.count = min (x.count + n) (2 ^ 64 - 1) ∧ y.nonok = min (x.nonok + (if k / 256 = 0 then 0 else 1)) (2 ^ 64 - 1)
        ∧ ∀ j, j ≠ k % 256 → nget {} (t.job c).soft j = nget {} (s.job c).soft j)
    ∧ (∀ (sel : Word) (phase : Bool), let d := field sel.toNat 12 2
        let en := field sel.toNat 0 12
        let kind := field sel.toNat 61 3
        let named := nkeys (s.die d).launches fun _ l => decide (l.arm = en)
        (kind = 1 → does (.cancel sel phase) fun t =>
          (phase = false → (t.die d).cancels = (s.die d).cancels ++ named.map fun n => (n, .cancelled, true))
          ∧ (phase = true → ∀ n ∈ named, ∃ l, t.launch d n = some l ∧ l.phaseCancel = true)
          ∧ (nget {} (t.die d).arms en).cancelWaiting = (nget {} (s.die d).arms en).waiting.length)
        ∧ (kind = 0 → does (.cancel sel phase) fun t => ∀ n ∈ named, ∃ l, t.launch d n = some l ∧ (field sel.toNat 14 6, phase) ∈ l.unitCancel)
        ∧ (kind = 3 → does (.cancel sel phase) fun t => ∀ i ∈ (t.die d).instances, i.root = 4096 * d + en → i.cancelled = true)
        ∧ (kind = 2 → does (.cancel sel phase) fun t => (t.job c).ending = true))
    ∧ (∀ (op k : Nat) (rest : List Nat), let x := s.seed dg k
        let a (i : Nat) : Nat := ((k :: rest)[i]?).getD 0
        let becomes (y : Seed) (bound : Nat → Nat → Nat → Nat → Prop) : Prop := does (.seed op (k :: rest)) fun t =>
          (∃ cl st, (st = y.st ∨ st = .broken) ∧ t.seed dg k = { y with clean := cl, st := st })
          ∧ ∀ ml ms mp mb, bound ml ms mp mb → (t.ww g).seedBind = BitVec.ofNat 64 (2 ^ 63 + k) ∧ (t.ww g).seedMl = BitVec.ofNat 64 (ml % 2 ^ 23) ∧ (t.ww g).seedMs = BitVec.ofNat 64 (ms % 2 ^ 23)
            ∧ (t.ww g).seedMp = BitVec.ofNat 64 (mp % 2 ^ 22) ∧ (t.ww g).seedMb = BitVec.ofNat 64 (mb % 8)
        (op = 0x110 → becomes { isOpen := true, gen := a 1, ctx := c, lgcap := a 2, rbase := a 3, rlines := a 4, backing := a 5, lines := s.shrRuns c dg (a 3 / 512) (a 4) }
          fun ml ms mp mb => ml = 0 ∧ ms = 0 ∧ mp = 0 ∧ mb = 0)
        ∧ (op = 0x111 → let y := x.append (a 1); becomes y fun ml ms mp mb => ml = y.ml ∧ ms = y.ms ∧ mp = y.mp ∧ mb = y.mb)
        ∧ (op = 0x112 → becomes { x with drafted := true } fun _ _ _ _ => False)
        ∧ (op = 0x113 → becomes x fun _ _ _ _ => False)
        ∧ (op = 0x114 → becomes { x.load (a 1) (rest.drop 5) with drafted := false } fun ml ms mp mb => ml = a 2 ∧ ms = a 3 ∧ mp = a 4 ∧ mb = a 5)
        ∧ (op = 0x115 → a 1 = 1 → becomes x.trim fun ml ms mp mb => ml = 0 ∧ ms = 0 ∧ mp = 0 ∧ mb = 0)
        ∧ (op = 0x116 → becomes { gen := x.gen, retired := x.retired || decide (x.gen = 0xFFFFFFFF) } fun _ _ _ _ => False))
    ∧ (∀ (en : Nat) (rest : List Nat), let x := s.graft en
        let a (i : Nat) : Nat := ((en :: rest)[i]?).getD 0
        let key := s.launchKeyOf g
        does (.graft 0x118 (en :: rest)) (fun t => let y := t.graft en
          y.st = .fetching ∧ y.gen = a 1 ∧ y.ctx = c ∧ y.id = a 2 ∧ y.ver = a 3 ∧ y.hash = toBytes 32 (a 4) ∧ y.length = a 5 ∧ y.src = a 6 ∧ y.glade = g ∧ y.pins = [] ∧ y.startedAt = s.wall)
        ∧ does (.graft 0x119 (en :: rest)) (fun t => t.graft en = { x with pins := nmod 0 x.pins key (· + 1), st := .ready, stamp := s.wall, pinner := some key })
        ∧ ∀ op, op ≠ 0x118 → op ≠ 0x119 → does (.graft op (en :: rest)) fun t => nget 0 (t.graft en).pins key = nget 0 x.pins key - 1
          ∧ (x.forced = true → nget 0 x.pins key ≤ 1 → ndel x.pins key = [] → t.graft en = { x with pins := [] }.evict))
    ∧ (∀ z n low, n ≠ 0 → does (.slotHeld z n low) fun t => ∃ ss, (⟨z.pkg, z.glade, z.zone, z.rill, ss⟩ : Resv) ∈ (t.eng g).resv)
    ∧ (s.lack g = none → ∀ peer off, does (.credit peer off) fun t => (t.eng g).newCredits = (s.eng g).newCredits ++ [(peer, off)])
    ∧ (s.lack g = none → ∀ o i h q en, s.orderEntries g b.actions = .ok [(i, h, q, en)] → does (.order o) fun t => ∃ uid, (t.eng h).incoming = (s.eng h).incoming ++
        [{ remote := decide (h ≠ g), ts := b.ts, glade := g, idx := i, queue := q, entry := { en with uid := uid } }])
    ∧ (∀ zi slot z, (s.eng g).zone zi = some z → let y := z.slotOf slot
        does (.slotDone zi slot) fun t => ∃ z', (t.eng g).zone zi = some z'
          ∧ z'.slotOf slot = if y.st ≠ .full then y else if y.ended = true then {} else { y with st := .reserved, fill := 0 })
    ∧ (∀ (z : ZoneRef), does (.slotRelease z) fun t => ∀ r ∈ (t.eng g).resv, ¬(r.pkg = z.pkg ∧ r.glade = z.glade ∧ r.zone = z.zone ∧ r.rill = z.rill))
    ∧ does .testReq (fun t => (t.clearing (clearingOf g)).requested = true ∧ ((s.clearing (clearingOf g)).requested = false → (t.clearing (clearingOf g)).reqAt = s.wall))

/-- R12, R13, R142, R144, R145, R148, R158, R170 to R174, R180, R250, R257, R267, R268, R287, R341, R411: blocks from their fetch to their commit, with what each noted change does then, and their bounded waits. -/
def Obligations.BlockEvents : Prop := Parts.BlockFetch ∧ Parts.BlockCommit ∧ Parts.CommitEffects ∧ Parts.BlockWaits

/-- R263, R354, R355, R361, R363, R373, R375: a bank in REPLAY that has one of the die's eight walkers indexes its next token and becomes READY with the last; where its backing cannot be reached a free value says
whether it breaks, and at a write to the backing that fails it is BROKEN (log entries 52, 81). A fetch that waits for neither its pool pages nor a host page ends: FAILED with reason 3 or 5 where the source
or the pool cannot be reached, 1 where the hash differs, 2 where the image names another graft or its header disagrees with its length (log entry 80), and READY otherwise, the bytes in the pool; after
100 ms it fails with reason 4. What a block holds waits. -/
def Obligations.BankAndGraftEvents : Prop :=
  ∀ s : State,
    (∀ d k, let b := s.seed d k
      let step := exec (.seedReplayStep d k) s
      let reached (P : State → Prop) : Prop := Reaches (.seedReplayStep d k) s fun t => P t ∧ (∀ j, j ≠ k → t.seed d j = s.seed d j) ∧ t.jobs = s.jobs ∧ t.glades = s.glades
      let steps := b.isOpen = true ∧ b.st = .replay ∧ k ∈ (s.die d).replays.take 8 ∧ s.held 512 (seedSect d k) = false ∧ s.backingHeld 512 b = false
      let same := ∀ l ∈ b.clean, ∀ p, s.linePlace b l = some p → s.bytes p 512 = b.line l
      let st (t : State) : Prop := (t.seed d k).st = (if b.window.length ≤ b.built + 1 then .ready else .replay) ∨ (t.seed d k).st = .broken
      let kept (t : State) : Prop := (t.seed d k).window = b.window ∧ (t.seed d k).appended = b.appended
      (¬steps → step = .next s)
      ∧ (steps → same → s.backingLive b = true → reached fun t => kept t ∧ (t.seed d k).built = (if b.built < b.window.length then b.built + 1 else b.built) ∧ st t)
      ∧ (steps → same → s.backingLive b = false → reached fun t => kept t ∧ (s.freeWord.getLsbD 0 = true → (t.seed d k).st = .broken) ∧ (s.freeWord.getLsbD 0 = false → st t)))
    ∧ ∀ e, let x := s.graft e
        let held := s.graftHeld 512 e = true
        let ends (i : Instr) (u : State) (y : Graft) : Prop := exec i s = .next (u.modGraft e fun _ => y)
        (x.st ≠ .fetching ∨ held → exec (.graftFetchComplete e) s = .next s ∧ exec (.graftFetchTimeout e) s = .next s)
        ∧ (x.st = .fetching → ¬held → x.placed = false → exec (.graftFetchComplete e) s = .next (s.placeFetch 512 e))
        ∧ (x.st = .fetching → ¬held → x.placed = true → s.runFree e = false → exec (.graftFetchComplete e) s = .next s)
        ∧ (x.st = .fetching → ¬held → (x.startedAt + 756000000000 ≤ s.wall → ends (.graftFetchTimeout e) s { x with st := .failed, reason := 4 })
            ∧ (s.wall < x.startedAt + 756000000000 → exec (.graftFetchTimeout e) s = .next s))
        ∧ (held → execGraftSettle e s = .next s) ∧ (¬held → execGraftSettle e s = .next (s.modGraft e (Graft.settle (2 ^ 20 * (s.job x.ctx).graftQuota) fun k => (s.launch (k / 2 ^ 24) (k % 2 ^ 24)).isNone)))
        ∧ (x.st = .fetching → ¬held → x.placed = true → s.runFree e = true → ∀ u r, s.graftSource e x.glade x.ctx (x.length / 4096 + 3) x.src x.length = (u, r) →
            (r = .wait → exec (.graftFetchComplete e) s = .next u)
            ∧ (∀ n, r = .fail n → u.graft e = x → ends (.graftFetchComplete e) u { x with st := .failed, reason := n })
            ∧ ∀ bs, r = .bytes bs → ∀ v ok, State.putPool e x.ctx (chunks 4096 (x.pages + 1) bs) x.addr u = (v, ok) → v.graft e = x →
                let named := leAt bs 0 6 = x.id ∧ leAt bs 6 2 = x.ver
                let shaped := leAt bs 8 8 ≠ 0 ∧ 1 ≤ leAt bs 16 4 ∧ leAt bs 16 4 ≤ 32768 ∧ graftLength (leAt bs 8 8) (leAt bs 16 4) = x.length ∧ leAt bs 20 44 = 0
                (ok = false → ends (.graftFetchComplete e) v { x with st := .failed, reason := 3 })
                ∧ (ok = true → sha256 bs ≠ x.hash → ends (.graftFetchComplete e) v { x with st := .failed, reason := 1 })
                ∧ (ok = true → sha256 bs = x.hash → ¬(named ∧ shaped) → ends (.graftFetchComplete e) v { x with st := .failed, reason := 2 })
                ∧ (ok = true → sha256 bs = x.hash → named → shaped → ends (.graftFetchComplete e) v { x with st := .ready }))

/-! ## Events: links -/

/-- R449, R450, R451: a flit goes out with the next sequence number, the credit owed and its payload, sealed where the link has a session key, and the replay buffer keeps it; where 128 wait there, it
waits; an acknowledgement frees the oldest of its channel. What arrives is opened with the key, the partner's prefix and bytes 0 to 11. Channels are log entry 95. -/
def Parts.FlitTransport : Prop :=
  ∀ (s : State) (l : Nat),
    let x := s.link l
    let room := (x.replay.filter fun f => decide (f.kind ≠ 0)).length < 128 ∧ x.queue = []
    (∀ kind p, (¬room → s.sendFlit l kind p = s.modLink l fun y => { y with queue := y.queue ++ [(kind, p)] })
      ∧ (room → (∀ c ∈ x.credits, c.2 = 0) → let f : Flit := { seq := x.txSeq, kind := kind, credit := 0, payload := p }
          let head := toBytes 1 kind ++ toBytes 1 (vcOf kind) ++ toBytes 2 0 ++ toBytes 8 x.txSeq
          let iv := toBytesBE 4 (if x.lower then 1 else 2) ++ toBytesBE 8 x.txSeq
          let wire := if x.key = [] then p ++ List.replicate 16 0 else (gcmSeal x.key iv head p).1 ++ (gcmSeal x.key iv head p).2
          s.sendFlit l kind p = (s.emit (.flit l kind (vcOf kind) x.txSeq 0 p wire)).modLink l fun y => { y with txSeq := y.txSeq + 1, replay := y.replay ++ [f] })
      ∧ (∀ vc n rest, room → x.credits = (vc, n) :: rest → 0 < n → n < 4096 → let t := s.sendFlit l kind p
          nget 0 (t.link l).credits vc = 0 ∧ ∃ f, (t.link l).replay = x.replay ++ [f] ∧ f.credit = 4096 * vc + n ∧ f.seq = x.txSeq ∧ f.payload = p))
    ∧ (∀ n, let u := s.took l x.rxSeq n
        (u.link l).rxSeq = x.rxSeq + 1 ∧ u.mem = s.mem
        ∧ (x.queue = [] → (x.replay.map (·.seq)).Nodup → (∀ f ∈ x.replay, f.kind ≠ 0 ∧ vcOf f.kind = n / 4096) → (u.link l).replay = x.replay.drop (n % 4096) ∧ u.out = s.out))
    ∧ (∀ kind, let t := s.credit l kind
        nget 0 (t.link l).credits (vcOf kind) = nget 0 x.credits (vcOf kind) + 1 ∧ t.mem = s.mem ∧ t.glades = s.glades ∧ t.out = s.out)
    ∧ ∀ b : List Byte, let tag := sliceB b 240 16
        let open_ := gcmOpen x.key (toBytesBE 4 (if x.lower then 2 else 1) ++ toBytesBE 8 (leAt b 4 8)) (sliceB b 0 12) (sliceB b 12 228) tag
        let early := leAt b 0 1 = 6 ∨ leAt b 0 1 = 7
        (x.key ≠ [] → ∀ p, open_ = some p → s.rawFlit l b = s.receive l (leAt b 4 8) true (leAt b 2 2) (leAt b 0 1) p)
        ∧ (x.key ≠ [] → open_ = none → s.rawFlit l b = s.receive l (leAt b 4 8) false (leAt b 2 2) (leAt b 0 1) [])
        ∧ (x.key = [] → early → tag = List.replicate 16 0 → s.rawFlit l b = s.receive l (leAt b 4 8) true (leAt b 2 2) (leAt b 0 1) (sliceB b 12 228))
        ∧ (x.key = [] → ¬early ∨ tag ≠ List.replicate 16 0 → s.rawFlit l b = s.receive l (leAt b 4 8) false (leAt b 2 2) (leAt b 0 1) [])

/-- R45, R306, R314, R319, R340 to R344, R423, R425, R427, R449 to R452, R469: what each kind of flit leaves when its turn comes: landing bytes land in their slot, wait for their unit, or are discarded where no reservation
has their key; notices arm their slots; control requests reserve, ask, release and reclaim; calls enter the arrival queue; fragments join and the last completes a message. A flit of another kind or operation counts as a lane error.
How a partner's hold and release are told is log entry 13, how a flit has the tags of a mote log entry 31, where a grant names its slots log entry 103. -/
def Parts.FlitPayloads : Prop :=
  ∀ (u : State) (l : Nat) (p : List Byte),
    let peer := (u.link l).peer
    let key : SlotKey := ⟨peer, leAt p 0 2, leAt p 2 1⟩
    let ctl : SlotKey := ⟨peer, leAt p 4 2, leAt p 6 1⟩
    let dest := leAt p 1 2
    let zone := leAt p 3 1
    let ends (g : Nat) (k : SlotKey) (v : State) : State := (v.modHome g (Engines.holdsKey zone k) fun e => e.endKey zone k).settleTears
    (let waits (v : State) := v.modLink l fun x => { x with waiting := x.waiting ++ [p] }
     let same (q : List Byte) : Prop := leAt q 0 2 = leAt p 0 2 ∧ leAt q 2 1 = leAt p 2 1 ∧ leAt q 3 1 = zone
     ((∃ q ∈ (u.link l).waiting, same q) → u.takeData l p = waits u)
     ∧ ((∀ q ∈ (u.link l).waiting, ¬same q) →
        (u.zoneGlade zone key = none → u.takeData l p = u.credit l 1)
        ∧ ∀ g, u.zoneGlade zone key = some g →
            let v := u.carries l (g, zone, key)
            let lands := v.runs g = true ∧ (v.eng g).holdsKey zone key = true ∧ v.canLand g zone (leAt p 4 1) key = true
            (lands → u.takeData l p = (v.landData g peer p).credit l 1) ∧ (¬lands → u.takeData l p = waits v)))
    ∧ (∀ x, noticesOf p = [x] → u.takeNotices l p =
        (u.modHome (leAt x 0 2) (Engines.sourceOf peer (leAt x 3 1) (leAt x 2 1)) fun e => e.zoneSlot peer (leAt x 3 1) (leAt x 2 1) (leAt x 4 1)).credit l 2)
    ∧ (∀ v st c low, u.reserveHome dest zone ctl (leAt p 7 1) = (v, st, c, low) →
        let t := v.sendFlit l 3 (slotCtl 2 dest zone (leAt p 4 2) (leAt p 6 1) c st low)
        let new := (t.keySlots dest zone ctl).filter fun i => !(u.keySlots dest zone ctl).contains i
        (st ≠ 0 ∨ new = [] → u.takeRes l p = t.credit l 3)
        ∧ (st = 0 → new ≠ [] → new.length ≤ 28 → u.takeRes l p =
            (t.sendFlit l 2 (new.flatMap (fun i => toBytes 2 (leAt p 4 2) ++ toBytes 1 (leAt p 6 1) ++ toBytes 1 zone ++ toBytes 1 i ++ toBytes 3 0) ++ List.replicate (228 - 8 * new.length) 0)).credit l 3))
    ∧ (let z : ZoneRef := ⟨peer, dest, zone, leAt p 6 1⟩
       let g := leAt p 4 2
       let st := leAt p 8 1
       (leAt p 0 1 = 2 → (∀ i, u.asker g 0x109 z = some i → u.takeAnswer l p = (u.modBlock g fun b => { b with answers := nset b.answers i (BitVec.ofNat 64 (st + 2 ^ 8 * leAt p 7 1 + 2 ^ 16 * leAt p 9 1)) }).credit l 3)
          ∧ (u.asker g 0x109 z = none → (st = 0 → u.takeAnswer l p = (u.releaseKey g z).credit l 3) ∧ (st = 1 ∨ st = 2 → u.takeAnswer l p = (u.unhold g z).credit l 3)
              ∧ (2 < st → u.takeAnswer l p = u.credit l 3)))
       ∧ (leAt p 0 1 = 4 → (∀ i, u.asker g 0x10A z = some i → u.takeAnswer l p = (u.modBlock g fun b => { b with answers := nset b.answers i (BitVec.ofNat 64 st) }).credit l 3)
          ∧ (u.asker g 0x10A z = none → (st = 0 → u.takeAnswer l p = (u.unhold g z).credit l 3) ∧ (st ≠ 0 → u.takeAnswer l p = u.credit l 3))))
    ∧ (let held := ∃ e ∈ u.homes dest, e.2.holdsKey zone ctl = true
       let op := leAt p 7 1
       (op ≠ 1 → op ≠ 2 → u.takeRelease l p = (ends dest ctl u).credit l 3)
       ∧ (op = 1 → ∀ st, (held → st = 0) → (¬held → st = 3) → u.takeRelease l p =
          ((u.modHome dest (Engines.holdsKey zone ctl) (Engines.hold zone ctl)).sendFlit l 3 (slotCtl 4 dest zone ctl.glade ctl.rill 0 st 0)).credit l 3)
       ∧ (op = 2 → u.takeRelease l p = (u.modHome dest (Engines.nameHeld zone ctl) (Engines.unhold zone ctl)).credit l 3))
    ∧ (leAt p 0 1 = 5 → u.takeReclaim l p = (ends dest ctl u).credit l 3)
    ∧ (leAt p 0 1 = 6 → u.takeReclaim l p = (u.modHome (leAt p 4 2) (Engines.sourceOf peer zone (leAt p 6 1)) fun e =>
        { e with resv := e.resv.filter fun r => ¬(r.pkg = peer ∧ r.glade = dest ∧ r.zone = zone ∧ r.rill = leAt p 6 1) }).credit l 3)
    ∧ (∀ q rest, (u.link l).calls = q :: rest →
        u.takeCall l = ((u.modLink l fun x => { x with calls := rest }).credit l 4).message (.link l (leAt q 64 8) (leAt q 0 4)) (sliceB q 0 64))
    ∧ ((u.link l).calls = [] → u.takeCall l = u)
    ∧ (let m := (u.link l).spdmRx ++ (p.drop 4).take (leAt p 0 2)
       (leAt p 2 1 ≠ 1 → u.takeSpdm l p = (u.credit l 6).modLink l fun x => { x with spdmRx := m })
       ∧ (leAt p 2 1 = 1 → u.takeSpdm l p = ((u.credit l 6).modLink l fun x => { x with spdmRx := [] }).spdmMessage l m))
    ∧ (leAt p 0 1 = 5 → u.deliver l 7 p = u.takeWidth l p)
    ∧ (let w := leAt p 1 1
       (0 < w → w < (u.link l).width → u.takeWidth l p = (u.modLink l fun x => { x with width := w }).credit l 7)
       ∧ (w = 0 ∨ (u.link l).width ≤ w → ((u.takeWidth l p).link l).width = (u.link l).width))
    ∧ (∀ kind, 7 < kind ∨ (kind = 3 ∧ leAt p 0 1 ∉ [1, 2, 3, 4, 5, 6]) ∨ (kind = 7 ∧ leAt p 0 1 ∉ [1, 2, 3, 4, 5]) → u.deliver l kind p = (u.life 5 (8 * l) 1).credit l kind)

/-- R425, R427, R431, R437, R450, R451, R452: the link's own notices: a NAK has its flit sent again with its number, and the eighth retrains the link; VERSION names the versions in common, without which
the link stays down, and the lower number then runs SPDM as requester, each request after the answer to the one before, while a request that arrives goes to the link's responder; SUSPECT and PEER_ABORT act on the jobs
they concern. VERSION's byte 3 is log entry 102, SUSPECT's layout log entry 11. -/
def Parts.LinkNotices : Prop :=
  ∀ (u : State) (l : Nat) (p : List Byte),
    let peer := (u.link l).peer
    let v := u.credit l 7
    (let q := leAt p 8 8
     let again (f : Flit) : Prop := (v.link l).replay.find? (fun f => decide (f.seq = q)) = some f
     let fails := nget 0 (v.link l).nakFails q + 1
     let w := v.modLink l fun x => { x with nakFails := nmod 0 x.nakFails q (· + 1) }
     ((∀ f ∈ (v.link l).replay, f.seq ≠ q) → u.takeNak l p = v)
     ∧ (∀ f, again f → fails < 8 → (u.link l).st ≠ .down → u.takeNak l p = w.putFlit l f)
     ∧ (∀ f, again f → fails < 8 → (u.link l).st = .down → u.takeNak l p = w)
     ∧ (∀ f, again f → 8 ≤ fails → u.takeNak l p = if ((w.retrain l).link l).st = .down then w.retrain l else (w.retrain l).putFlit l f))
    ∧ (let common := leAt p 1 1 ≤ 1 ∧ 1 ≤ leAt p 2 1
       let st := (u.link l).st
       let low := decide (u.self < leAt p 3 1)
       let next (t : State) : Prop := let t := t.modLink l fun x => { x with st := .auth, lower := low }
         u.takeVersion l p = if low then t.askSpdm l 0x84 else t
       (st = .up ∨ st = .auth → u.takeVersion l p = v)
       ∧ (st = .version ∨ st = .absent → common → next v)
       ∧ (st = .down → common → next (v.sendFlit l 7 ([1, 1, 1, BitVec.ofNat 8 u.self] ++ List.replicate 224 0)))
       ∧ (st ≠ .up → st ≠ .auth → ¬common → u.takeVersion l p = v.dropLink l 1))
    ∧ (let code := leAt p 1 1
       let asked := (u.link l).asking
       let pairs : List (Nat × Nat) := [(0x84, 0xE1), (0xE1, 0xE3), (0xE3, 0x81), (0x81, 0x82), (0x82, 0x83), (0x83, 0xE0), (0xE0, 0xE4), (0xE4, 0xE5)]
       (∀ y ∈ pairs, code + 0x80 = y.1 → asked = y.1 → u.spdmMessage l p = u.askSpdm l y.2)
       ∧ (code + 0x80 = 0xE5 → asked = 0xE5 → u.spdmMessage l p = u.modLink l fun x => { x with asking := 0 })
       ∧ (code < 0x80 → code + 0x80 ≠ asked → u.spdmMessage l p = u.dropLink l 2)
       ∧ (0x80 ≤ code → let r := 64 + l
           let runs (i : Instr) : Prop := ∀ t, exec i u = .next t → u.spdmMessage l p = t
           (code = 0x84 → runs (.spdmGetVersion r true)) ∧ (code = 0xE1 → runs (.spdmGetCapabilities r)) ∧ (code = 0x81 → runs (.spdmGetDigests r))
           ∧ (code = 0x82 → runs (.spdmGetCertificate ⟨r, leAt p 2 1, leAt p 4 2, leAt p 6 2⟩))
           ∧ (code = 0x83 → runs (.spdmChallenge ⟨r, leAt p 2 1⟩ (sliceB p 4 32))) ∧ (code = 0xE0 → runs (.spdmGetMeasurements ⟨r, leAt p 3 1⟩ (sliceB p 4 32)))
           ∧ (code = 0xE3 → runs (.spdmNegotiateAlgorithms ⟨r, leAt p 8 4, leAt p 12 4, leAt p 34 2, leAt p 38 2⟩))
           ∧ (code = 0xE4 → runs (.spdmKeyExchange r (leAt p 4 2) ((List.range 32).map (Config.secretByte 9 u.free))))
           ∧ (∀ n y, (u.responder r).sessions = [(n, y)] → (code = 0xE5 → runs (.spdmFinish r n)) ∧ (code = 0xE8 → runs (.spdmHeartbeat r n)) ∧ (code = 0xE9 → runs (.spdmKeyUpdate r n))
               ∧ (code = 0xEC → runs (.spdmEndSession r n)))
           ∧ (code ∉ [0x84, 0xE1, 0xE3, 0x81, 0x82, 0x83, 0xE0, 0xE4, 0xE5, 0xE8, 0xE9, 0xEC] → runs (.spdmUnsupported r))))
    ∧ (let z : Suspect := ⟨toBytes 16 (u.link l).peerSerial, leAt p 2 2, leAt p 8 8, leAt p 16 8⟩
       let told := u.noGlade 0x1C1 0 0 z.start z.stop
       let hit (j : Job) : Bool := j.received.contains (peer, z.clearing)
       ((∀ c ∈ u.jobs, hit c.2 = false) → u.takeSuspect l p = told.credit l 7)
       ∧ ∀ before c after, u.jobs = before ++ c :: after → (∀ y ∈ before ++ after, hit y.2 = false) → hit c.2 = true → u.takeSuspect l p = (told.suspect c.1 z).credit l 7)
    ∧ (let ks : List DeadStream := (List.range (min (leAt p 2 2) 33)).map fun i => ⟨leAt p (24 + 6 * i) 2, leAt p (26 + 6 * i) 1, leAt p (28 + 6 * i) 2, leAt p (27 + 6 * i) 1⟩
       (leAt p 1 1 ≠ 1 → u.takeAbort l p = (u.peerAbort (leAt p 8 8) peer (leAt p 16 2) ks).credit l 7)
       ∧ (leAt p 1 1 = 1 → u.takeAbort l p = (u.tearDead (leAt p 8 8) peer (leAt p 16 2) ks).credit l 7))
    ∧ ∀ coll pkg ctx ks c j, u.jobs = [(c, j)] → j.collective = some coll → ¬(pkg = u.self ∧ c = ctx) → j.ending = false →
        let t := u.peerAbort coll pkg ctx ks
        nfind (t.job c).soft j.abortCounter = some { count := 2 ^ 64 - 1, nonok := min ((nget {} j.soft j.abortCounter).nonok + 1) (2 ^ 64 - 1), status := .peerAbort }
        ∧ (∀ k, k ≠ j.abortCounter → nfind (t.job c).soft k = nfind j.soft k)
        ∧ t = { (u.tearDead coll pkg ctx ks).noGlade 0x187 j.vf c pkg ctx with jobs := t.jobs }

/-- R45, R48, R306, R314, R319, R340 to R344, R423, R425, R427, R431, R437, R449 to R452, R469: flits of each kind as they arrive: whose tag fails is answered by a NAK and the eighth failure of a number
retrains the link; one delivered before is dropped; one ahead of its sequence waits for its turn; the next in sequence is delivered with what it credits, and those that waited for it follow. What each kind then does,
how flits go out and are opened, and the link's own notices. -/
def Obligations.LinkFlits : Prop :=
  (∀ (s : State) (l seq n : Nat) (ok : Bool) (p : List Byte),
    let op := leAt p 0 1
    let none_ (i : Instr) : Prop := exec i s = .next s
    FlitIn (.flitIdle l seq ok n) s l 0 seq ok n (List.replicate 228 0) false id
    ∧ FlitIn (.flitData l seq ok n p) s l 1 seq ok n p false (·.takeData l p)
    ∧ FlitIn (.flitNotice l seq ok n p) s l 2 seq ok n p false (·.takeNotices l p)
    ∧ (op = 1 → FlitIn (.flitSlotRes l seq ok n p) s l 3 seq ok n p false (·.takeRes l p)) ∧ (op ≠ 1 → none_ (.flitSlotRes l seq ok n p))
    ∧ (op = 2 ∨ op = 4 → FlitIn (.flitSlotAnswer l seq ok n p) s l 3 seq ok n p false (·.takeAnswer l p)) ∧ (op ≠ 2 → op ≠ 4 → none_ (.flitSlotAnswer l seq ok n p))
    ∧ (op = 3 → FlitIn (.flitSlotRelease l seq ok n p) s l 3 seq ok n p false (·.takeRelease l p)) ∧ (op ≠ 3 → none_ (.flitSlotRelease l seq ok n p))
    ∧ (op = 5 ∨ op = 6 → FlitIn (.flitSlotReclaim l seq ok n p) s l 3 seq ok n p false (·.takeReclaim l p)) ∧ (op ≠ 5 → op ≠ 6 → none_ (.flitSlotReclaim l seq ok n p))
    ∧ FlitIn (.flitCall l seq ok n p) s l 4 seq ok n p false (fun u => u.modLink l fun x => { x with calls := x.calls ++ [p] })
    ∧ FlitIn (.flitCallDone l seq ok n p) s l 5 seq ok n p false (·.credit l 5)
    ∧ FlitIn (.flitSpdm l seq ok n p) s l 6 seq ok n p true (·.takeSpdm l p)
    ∧ (op = 1 → FlitIn (.flitVersion l seq ok n p) s l 7 seq ok n p true (·.takeVersion l p)) ∧ (op ≠ 1 → none_ (.flitVersion l seq ok n p))
    ∧ (op = 2 → FlitIn (.flitNak l seq ok n p) s l 7 seq ok n p true (·.takeNak l p)) ∧ (op ≠ 2 → none_ (.flitNak l seq ok n p))
    ∧ (op = 3 → FlitIn (.flitSuspect l seq ok n p) s l 7 seq ok n p true (·.takeSuspect l p)) ∧ (op ≠ 3 → none_ (.flitSuspect l seq ok n p))
    ∧ (op = 4 → FlitIn (.flitPeerAbort l seq ok n p) s l 7 seq ok n p true (·.takeAbort l p)) ∧ (op ≠ 4 → none_ (.flitPeerAbort l seq ok n p)))
  ∧ Parts.FlitTransport ∧ Parts.FlitPayloads ∧ Parts.LinkNotices

/-- R306, R344, R407, R448, R451, R452: a link that goes down is as before it came up but for its width, lanes, partner, waiting calls and counts, and has its reason; its entries retire TORN with their slots the reservation's
again, the streams it carried are torn at the destination, LINK_DOWN (0x184) is recorded with the link, and the partner is lost from then on where no other link reaches it. A failed lane in use halves the width, which the
partner is told, or takes the link down. Which streams of RESERVED slots only it carried is a free bit (log entry 58), what becomes of motes on the way is log entry 100, how the record and the width are laid out log entry 102. -/
def Parts.LinkLoss : Prop :=
  ∀ (s : State) (l : Nat),
    let x := s.link l
    let sorted := (s.links.map (·.1)).Pairwise (· < ·)
    let other := ∃ y ∈ s.links, y.1 ≠ l ∧ y.2.st = .up ∧ y.2.peer = x.peer
    (∀ r, let t := s.dropLink l r
        let reset : Link := { st := .down, width := x.width, failed := x.failed, peer := x.peer, peerSerial := x.peerSerial, reason := r, rejected := x.rejected, dropped := x.dropped, calls := x.calls
                              reports := x.reports, lostAt := x.lostAt }
        let v := (s.modLink l fun _ => reset).modSpdm (64 + l) fun _ => {}
        nfind t.pk.spdm (64 + l) = some {} ∧ t.out = s.out ∧ t.jobs = s.jobs
        ∧ (x.st ≠ .up → t = v.noGlade 0x184 0 0 l (x.peer + 256 * r))
        ∧ (x.st = .up → sorted → (other → t.link l = reset) ∧ (¬other → t.link l = { reset with lostAt := some s.wall }))
        ∧ (x.st = .up → ∃ u : State, u.mem = s.mem ∧ u.fns = s.fns ∧ t = u.noGlade 0x184 0 0 l (x.peer + 256 * r))
        ∧ (x.st = .up → x.streams = [] → ∀ g, (t.glade g).cur.ww = (s.glade g).cur.ww
            ∧ ((∀ a ∈ (s.eng g).away, a.1 ≠ l) → t.eng g = ((s.eng g).tearLink l).settle (s.rillHeld g)))
        ∧ (∀ y, x.st = .up → x.streams = [y] → s.keysFrom x.peer = [y] → (∃ e ∈ s.homes y.1, ∃ z, nfind e.2.zones y.2.1 = some z ∧ ∃ q ∈ z.slot, q.2.key = y.2.2 ∧ q.2.st = .filling) →
            (∀ a ∈ (s.eng y.1).away, a.1 ≠ l) → (nfind s.glades y.1).isSome = true → t.eng y.1 = (((s.eng y.1).tearLink l).tearZone y.2.1 y.2.2).settle (s.rillHeld y.1)))
    ∧ (∀ (e : Engines) y, e.queue 1 ++ e.queue 2 = [y] →
        (y.kind = 5 ∧ y.state = 1 ∧ y.link = l → e.tearLink l = { e.finish y.tl y.opnum 4 with
          resv := e.resv.map fun r => if r.isOf y.desc then { r with slots := r.slots ++ y.pages.map (·.2) ++ y.tiles.map (·.2) ++ y.notices } else r })
        ∧ (¬(y.kind = 5 ∧ y.state = 1 ∧ y.link = l) → e.tearLink l = e))
    ∧ (∀ (e : Engines) zone z k, nfind e.zones zone = some z → let e' := e.tearZone zone k
        let mine (q : Nat × ZSlot) : Prop := q.2.key = k ∧ (q.2.st = .reserved ∨ q.2.st = .filling)
        (∀ n, n ∈ e'.late ↔ n ∈ e.late ∨ ∃ q ∈ z.slot, mine q ∧ n = z.rillOf q.1)
        ∧ ∃ z', nfind e'.zones zone = some z' ∧ z'.slot = z.slot.map fun q => if q.2.key = k ∧ q.2.st = .filling then (q.1, { q.2 with st := .reserved, fill := 0 }) else q)
    ∧ (x.st = .up → exec (.linkDown l) s = .next (s.dropLink l 0)) ∧ (x.st ≠ .up → exec (.linkDown l) s = .next s)
    ∧ ∀ lane, Reaches (.laneFailure l lane) s fun t => lane ∈ (t.link l).failed
        ∧ nget 0 t.pk.life (65536 * 5 + (8 * l + lane)) = min (nget 0 s.pk.life (65536 * 5 + (8 * l + lane)) + 1) (2 ^ 64 - 1)
        ∧ (x.st = .up → lane < x.width → (t.link l).width = x.width / 2 ∧ (x.width = 1 → (t.link l).st = .down ∧ (t.link l).reason = 6)
            ∧ (1 < x.width → (t.link l).st = .up ∧ ∃ u : State, u.out = s.out ∧ t = u.sendFlit l 7 ([5, BitVec.ofNat 8 (x.width / 2)] ++ List.replicate 226 0)))
        ∧ (x.st ≠ .up ∨ x.width ≤ lane → (t.link l).width = x.width ∧ (t.link l).st = x.st)

/-- R428, R430, R452: a link comes up once both sides have authenticated, where the partner's chain ends at the Weadric root, its M0 to M2 are this package's, its canopy is, and its number no other
package's; what waited for the partner goes out on it. Where one does not hold it goes down with its reason, the first of them. The certificates' layout is log entry 99, the operands log entry 38. -/
def Parts.LinkJoins : Prop :=
  ∀ (s : State) (l number canopy : Nat) (certs aliasCert key : List Byte),
    let x := s.link l
    let i : Instr := .linkUp l number canopy certs aliasCert key
    let chain := certs ++ aliasCert
    let serial := leAt chain 225 16
    let named := s.modLink l fun y => { y with peer := number, peerSerial := serial }
    let done := x.st = .auth ∧ ((x.lower = true ∧ x.asking = 0) ∨ (x.lower = false ∧ ∃ y ∈ (s.responder (64 + l)).sessions, y.2.secured = true))
    let fw := sliceB chain 416 96 = sliceB s.pk.m0 0 32 ++ sliceB s.pk.m1 0 32 ++ sliceB s.pk.m2 0 32
    let member := s.pk.number.map (·.2) = some canopy
    let clash := number = s.self ∨ ∃ y ∈ s.links, y.2.st = .up ∧ y.2.peer = number ∧ y.2.peerSerial ≠ serial
    let root := chain.length = 608 ∧ sha256 (chain.take 64) = s.pk.rom ∧ leAt chain 224 1 = 1 ∧ ecdsaVerify (chain.take 64) (sliceB chain 160 96) (sliceB chain 256 64) = true
      ∧ leAt chain 384 1 = 5 ∧ ecdsaVerify (sliceB chain 160 64) (sliceB chain 320 224) (sliceB chain 544 64) = true
    (¬done → exec i s = .next s)
    ∧ (done → ¬root → exec i s = .next (named.dropLink l 2)) ∧ (done → root → ¬fw → exec i s = .next (named.dropLink l 3))
    ∧ (done → root → fw → ¬member → exec i s = .next (named.dropLink l 4)) ∧ (done → root → fw → member → clash → exec i s = .next (named.dropLink l 5))
    ∧ (done → root → fw → member → ¬clash → Reaches i s fun t => (t.link l).st = .up ∧ (t.link l).peer = number ∧ (t.link l).peerSerial = serial ∧ (t.link l).reason = 0
        ∧ (t.link l).key = sliceB key 0 32 ∧ (t.link l).lostAt = none ∧ (t.link l).reports = [] ∧ t.mem = s.mem ∧ t.jobs = s.jobs
        ∧ (∀ y ∈ t.links, y.2.peer = number → y.2.reports = [] ∧ y.2.lostAt = none)
        ∧ ∃ u : State, u.out = s.out ∧ t = ((named.links.filter fun y => decide (y.2.peer = number)).flatMap fun y => y.2.reports).foldl (fun s m => s.sendFlit l m.1 m.2) u)

/-- R319, R340, R344, R404, R409, R423, R427, R437, R469: payloads that waited land once their unit runs and they can; a peer lost for 100 µs has its reservations here ended, which is reported to it and recorded as PEER_LOST
(0x186) for PF0 and each VF concerned with their number, and its own holdings there are known to have ended; SUSPECT of a job counts, goes to its parties that have a session open and waits for the others, at most
eight, and is recorded for its VF. -/
def Parts.LostAndSuspect : Prop :=
  ∀ s : State,
    (∀ g, (s.runs g = false → exec (.landingArrival g) s = .next s)
      ∧ (s.runs g = true → (∀ y ∈ s.links, y.2.waiting = []) → exec (.landingArrival g) s = .next s)
      ∧ (∀ l y p, s.runs g = true → s.links = [(l, y)] → y.waiting = [p] →
          let u := s.modLink l fun x => { x with waiting := [] }
          let key : SlotKey := ⟨y.peer, leAt p 0 2, leAt p 2 1⟩
          let zone := leAt p 3 1
          let lands := (s.eng g).holdsKey zone key = true ∧ u.canLand g zone (leAt p 4 1) key = true
          (s.zoneGlade zone key = none → exec (.landingArrival g) s = .next (u.credit l 1))
          ∧ (s.zoneGlade zone key ≠ none → lands → exec (.landingArrival g) s = .next ((u.landData g y.peer p).credit l 1))
          ∧ (s.zoneGlade zone key ≠ none → ¬lands → exec (.landingArrival g) s = .next (u.modLink l fun x => { x with waiting := [p] }))))
    ∧ (∀ peer, let lost := ∃ y ∈ s.links, y.2.peer = peer ∧ ∃ w, y.2.lostAt = some w ∧ w + 756000000 ≤ s.wall
        let gs := ((s.glades.map (·.1)) ++ s.dies.flatMap fun d => d.2.saved.flatMap fun v => v.2.map (·.glade)).eraseDups
        let keys : List (Nat × Nat × Nat × SlotKey) := gs.flatMap fun g => (s.homes g).flatMap fun e =>
          (e.2.zoneKeys.filter fun k => decide (k.2.pkg = peer)).map fun k => (g, (e.1.map (·.vf)).getD 0, k.1, k.2)
        (¬lost ∨ (s.linkTo peer).isSome = true → exec (.peerReclaimTimeout peer) s = .next s)
        ∧ (lost → s.linkTo peer = none → Reaches (.peerReclaimTimeout peer) s fun t => t.jobs = s.jobs ∧ t.out = s.out ∧ (∀ y ∈ t.links, y.2.peer = peer → y.2.lostAt = none)
            ∧ (∀ g zone z, nfind (t.eng g).zones zone = some z → ∀ y ∈ z.slot, y.2.key.pkg = peer → y.2.st = .free ∨ y.2.ended = true)
            ∧ (∀ g, (t.eng g).resv = (s.eng g).resv.filter fun r => decide (r.pkg ≠ peer))
            ∧ (∃ u : State, u.mem = s.mem ∧ u.fns = s.fns ∧ t = ((keys.map fun x => x.2.1).eraseDups).foldl
                (fun s v => s.noGlade 0x186 v 0 peer (keys.filter fun x => decide (x.2.1 = v)).length) (u.noGlade 0x186 0 0 peer keys.length))
            ∧ ∀ before l y after, s.links = before ++ (l, y) :: after → (s.links.map (·.1)).Pairwise (· < ·) → (∀ z ∈ before, ¬(z.2.peer = peer ∧ z.2.st ≠ .absent)) → y.peer = peer → y.st ≠ .absent →
                (t.link l).reports = y.reports ++ keys.map fun x => (3, slotCtl 6 x.1 x.2.2.1 x.2.2.2.glade x.2.2.2.rill 0 0 0)))
    ∧ ∀ ctx j (z : Suspect), nfind s.jobs ctx = some j → let t := s.suspect ctx z
        let u := nget 0 j.usage 15
        nget 0 (t.job ctx).usage 15 = min (u + 1) (2 ^ 64 - 1)
        ∧ (t.job ctx).suspects = (j.suspects ++ [z]).drop (j.suspects.length + 1 - 8)
        ∧ (t.job ctx).pendingSuspect = j.pendingSuspect ++ (((j.joins.filter fun p => (s.liveSession p.2).isNone).map fun p => (p.1, z)).take (8 - j.pendingSuspect.length))
        ∧ t.out = s.out ++ (j.joins.filterMap fun p => s.liveSession p.2).map (fun n => .vendor n 437 (z.serial ++ toBytes 2 z.clearing ++ toBytes 8 z.start ++ toBytes 8 z.stop))
        ∧ (∀ c, c ≠ ctx → nfind t.jobs c = nfind s.jobs c) ∧ (∃ v : State, v.mem = s.mem ∧ v.fns = s.fns ∧ t = v.noGlade 0x1C1 j.vf ctx z.start z.stop)
        ∧ ∀ p : Party, (p.spdm = none → s.liveSession p = none) ∧ ∀ n, p.spdm = some n →
            ((∃ y, nfind (s.responder 80).sessions n = some y ∧ y.secured = true) → s.liveSession p = some n)
            ∧ ((∀ y, nfind (s.responder 80).sessions n = some y → y.secured = false) → s.liveSession p = none)

/-- R306, R319, R340, R344, R404, R407, R409, R423, R427, R428, R430, R437, R448, R451, R452, R469: how links come up and go down, what waited lands, lost peers and SUSPECT. -/
def Obligations.LinkEvents : Prop := Parts.LinkLoss ∧ Parts.LinkJoins ∧ Parts.LostAndSuspect

/-! ## Events: jobs, parties, SPDM -/

/-- R404, R429, R433, R434, R437, R455: JOB_OPEN is refused with the offset of the first failing field, or opens the job at the lowest free context with the next serial: its grant is zeroed and then its page tables are
built there, and nothing of what the grant held can be found later; JOB_CLOSE ends a job; a usage record goes to the operator, signed by the attestation key. Without a heartwood no such request is
answered. That a grant too small for its tables is refused is log entry 43, the message codes log entry 15. -/
def Parts.JobsOpenAndClose : Prop :=
  ∀ s : State,
    let dead := s.pk.power = 0 ∨ s.pk.power = 2
    (∀ req : List Byte,
      let r := sliceB req 0 128
      let fits := (({} : State).buildTables (jobOf r) 0 0 0).2 ≤ 4096
      (dead → exec (.jobOpen req) s = .next s)
      ∧ (∀ f, ¬dead → s.openBad r = some f → exec (.jobOpen req) s = .next (s.emit (.mgmt 433 (1 :: toBytes 1 f))))
      ∧ (¬dead → s.openBad r = none → ¬fits → exec (.jobOpen req) s = .next (s.emit (.mgmt 433 [1, 88])))
      ∧ (¬dead → s.openBad r = none → fits → Reaches (.jobOpen req) s fun t => let c := s.freeCtx
          let base := leAt r 80 8
          let size := leAt r 88 8
          let key (k : Nat) : Nat := (s.freeKeys[k]?).getD 0
          ∃ j : Job, nfind t.jobs c = some j ∧ j.serial = s.pk.jobSerial + 1 ∧ j.vf = leAt r 0 1 ∧ j.request = r ∧ j.ending = false ∧ j.grantBase = base ∧ j.grantSize = size
            ∧ j.usageLimit = leAt r 16 8 ∧ j.weight = leAt r 8 1 ∧ j.root = j.tablePa ∧ (∀ k, k ≠ c → nfind t.jobs k = nfind s.jobs k)
            ∧ t.pk.jobSerial = s.pk.jobSerial + 1 ∧ t.pk.keySerial = s.pk.keySerial + 4 ∧ t.glades = s.glades ∧ t.dies = s.dies
            ∧ (∀ k < 4, (nfind j.keys k).map (·.keyid) = some (key k))
            ∧ t.mem = (({ s with mem := memZero s.mem (2 ^ 53 + base) size } : State).buildTables j (key 0) (key 1) (key 2)).1.mem
            ∧ (∀ p ∈ t.poison, p < 2 ^ 53 + base ∨ 2 ^ 53 + base + size ≤ p) ∧ (∀ e ∈ t.unseen, e.overlaps (2 ^ 53 + base) size = false)
            ∧ t.out = s.out ++ [.mgmt 433 (0 :: toBytes 2 c ++ toBytes 8 (s.pk.jobSerial + 1))]))
    ∧ (∀ ctx, (nfind s.jobs ctx = none → exec (.jobClose ctx) s = .next s) ∧ (nfind s.jobs ctx ≠ none → exec (.jobClose ctx) s = .next (s.endJob ctx false)))
    ∧ ∀ ctx nonce, (dead → exec (.usageRecordRequest ctx nonce) s = .next s)
        ∧ (¬dead → s.openJob ctx = none → exec (.usageRecordRequest ctx nonce) s = .next (s.emit (.mgmt 404 [1])))
        ∧ (¬dead → s.openJob ctx ≠ none → let body := usageBytes s ctx ((s.job ctx).recordSeq + 1) (sliceB nonce 0 32)
            exec (.usageRecordRequest ctx nonce) s = .next ((s.drawn.modJob ctx fun j => { j with recordSeq := j.recordSeq + 1 }).emit
              (.mgmt 404 (0 :: (body ++ ecdsaSign s.pk.attestScalar (freeScalar 0 s.free) body)))))

/-- R429, R432, R436, R437, R438, R442, R443: a party joins, asks for a quote, signed by the attestation key, which brings its pending SUSPECT messages, opens and closes sessions, registers its image key and installs
weights, each only in a secured session of the relay that is its own; any other is refused. The codes of these messages are log entries 15 and 17. -/
def Parts.Parties : Prop :=
  ∀ (s : State) (ses : Nat),
    let dead := s.pk.power = 0 ∨ s.pk.power = 2
    let inSession := ∃ x, nfind (s.responder 80).sessions ses = some x ∧ x.secured = true
    let refused (i : Instr) (o : Out) : Prop := exec i s = .next (s.emit o)
    (∀ i, (∃ n k, i = .jobJoin ses n k) ∨ (∃ b, i = .quote ses b) ∨ i = .sessionOpen ses ∨ (∃ n, i = .sessionClose ses n) ∨ (∃ b, i = .imageKey ses b)
        ∨ (∃ q va k cs, i = .weightInstall ses q va k cs) → (dead → exec i s = .next s) ∧ (¬dead → ¬inSession → refused i (.spdm 80 0x7F [7, 0])))
    ∧ (¬dead → inSession → s.partyOf ses = none →
        (∀ b, refused (.quote ses b) (.vendor ses 2 [1])) ∧ refused (.sessionOpen ses) (.vendor ses 3 [1]) ∧ (∀ n, refused (.sessionClose ses n) (.vendor ses 4 [1]))
        ∧ (∀ b, refused (.imageKey ses b) (.vendor ses 6 [1])) ∧ ∀ q va k cs, refused (.weightInstall ses q va k cs) (.vendor ses 5 [1]))
    ∧ (∀ x, ¬dead → nfind (s.responder 80).sessions ses = some x → x.secured = true → ∀ serial k,
        ((∀ y ∈ s.jobs, ¬(y.2.serial = serial ∧ y.2.ending = false)) → refused (.jobJoin ses serial k) (.vendor ses 1 [1]))
        ∧ ∀ c j, s.jobs.find? (fun y => decide (y.2.serial = serial ∧ y.2.ending = false)) = some (c, j) →
            ((j.parties ≤ k ∨ nfind j.joins k ≠ none ∨ s.partyOf ses ≠ none) → refused (.jobJoin ses serial k) (.vendor ses 1 [1]))
            ∧ (k < j.parties → nfind j.joins k = none → s.partyOf ses = none → exec (.jobJoin ses serial k) s = .next ((s.modJob c fun j =>
                { j with joins := nset j.joins k ⟨some ses, hkdfExpand x.secret (ascii "ZX7 seed") 32⟩ }).emit (.vendor ses 1 [0]))))
    ∧ ∀ x c i, ¬dead → nfind (s.responder 80).sessions ses = some x → x.secured = true → s.partyOf ses = some (c, i) → let j := s.job c
        (∀ b, let quote := s.quoteBytes c i b
          let mine := j.pendingSuspect.filter fun y => decide (y.1 = i)
          exec (.quote ses b) s = .next ((s.drawn.modJob c fun j => { j with pendingSuspect := j.pendingSuspect.filter fun y => decide (y.1 ≠ i) }).emit
            (.vendor ses 2 (0 :: (quote ++ ecdsaSign s.pk.attestScalar (freeScalar 2 s.free) quote
              ++ mine.flatMap fun y => y.2.serial ++ toBytes 2 y.2.clearing ++ toBytes 8 y.2.start ++ toBytes 8 y.2.stop)))))
        ∧ ((∀ k < 64, (nget ({} : Session) j.sessions k).opened = true) → refused (.sessionOpen ses) (.vendor ses 3 [1]))
        ∧ (∀ k < 64, (nget ({} : Session) j.sessions k).opened = false → (∀ m < k, (nget ({} : Session) j.sessions m).opened = true) →
            let gen := (nget ({} : Session) j.sessions k).gen + 1
            exec (.sessionOpen ses) s = .next ((s.modJob c fun j => { j with sessions := nset j.sessions k { opened := true, gen := gen, key := sessionKey x.secret k gen, party := i } }).emit
              (.vendor ses 3 (0 :: toBytes 4 (64 * gen + k)))))
        ∧ (∀ n, Reaches (.sessionClose ses n) s fun t => t.out = s.out ++ [.vendor ses 4 [0]] ∧ t.mem = s.mem ∧ ∀ k v, nfind j.sessions k = some v →
            nfind (t.job c).sessions k = some (if v.party = i ∧ v.opened = true ∧ k = n % 64 ∧ v.gen = n / 64 then { v with opened := false, key := [] } else v))
        ∧ (∀ key, (∀ y, j.imageKey = some y → y.1 = i) → exec (.imageKey ses key) s = .next ((s.modJob c fun j => { j with imageKey := some (i, key) }).emit (.vendor ses 6 [0])))
        ∧ (∀ key y, j.imageKey = some y → y.1 ≠ i → refused (.imageKey ses key) (.vendor ses 6 [1]))
        ∧ ∀ q va k cs, let answer (st n : Nat) : Out := .vendor ses 5 (0 :: toBytes 1 st ++ toBytes 4 n)
            ((va % 4096 ≠ 0 ∨ k < 3 ∨ 15 < k ∨ cs = [] ∨ 262144 < cs.length) → refused (.weightInstall ses q va k cs) (.vendor ses 5 [1]))
            ∧ (va % 4096 = 0 → 3 ≤ k → k ≤ 15 → cs ≠ [] → cs.length ≤ 262144 →
                (nfind j.keys k = none → s.freeKeys = [] → refused (.weightInstall ses q va k cs) (answer 4 0))
                ∧ ∀ e ch rest, nfind j.keys k = some e → cs = ch :: rest →
                    (s.installPlace c va e.keyid = none → refused (.weightInstall ses q va k cs) (answer 1 0))
                    ∧ ∀ a, s.installPlace c va e.keyid = some a →
                        ((a / 4096, e.keyid) ∈ j.installed → refused (.weightInstall ses q va k cs) (answer 2 0))
                        ∧ ((a / 4096, e.keyid) ∉ j.installed → s.pk.kek q = none → refused (.weightInstall ses q va k cs) (answer 3 0))
                        ∧ ∀ z w, (a / 4096, e.keyid) ∉ j.installed → s.pk.kek q = some z → gcmOpen z (List.replicate 12 0) [] (ch.take 4096) (ch.drop 4096) = some w → rest = [] →
                            Reaches (.weightInstall ses q va k cs) s fun t => t.mem = memPut s.mem (2 ^ 53 + a) w ∧ (t.job c).installed = j.installed ++ [(a / 4096, e.keyid)]
                              ∧ nfind t.pk.owners (a / 65536) = some e.keyid ∧ t.out = s.out ++ [answer 0 1])

/-- R404, R429, R432, R433, R434, R436, R437, R438, R442, R443, R455: jobs and parties. -/
def Obligations.JobsAndParties : Prop := Parts.JobsOpenAndClose ∧ Parts.Parties

/-- R2, R26, R27, R428, R429, R430, R431, R432, R436, R438, R450: the responders that are there, at the enumerated functions, the links and the relay, answer each request at its stage with the response and its code, UnexpectedRequest before it
and an error where it asks for what is not held; on a link an answer goes out in flits of kind SPDM. Slot 0 holds root, device and alias certificate, and signatures are ECDSA by the attestation key. A key exchange past a
responder's sessions is refused; requests in a session act on it alone, and the end of a relay session closes the session entries of its party. GET_VERSION starts the connection anew and ends its
sessions. Codes and stages are log entry 17, the flags and tables log entry 76, the certificates log entry 99. -/
def Obligations.SpdmEvents : Prop :=
  ∀ (s : State) (r : Nat),
    let x := s.responder r
    let with_ (y : Spdm) (t : State) : State := { t with pk := { t.pk with spdm := nset t.pk.spdm r y } }
    let there := s.pk.power ≠ 0 ∧ s.pk.power ≠ 2 ∧ r ≤ 80 ∧ (1 ≤ r → r < 64 → s.pk.partOk = true) ∧ (64 ≤ r → r < 80 → (s.link (r - 64)).st ≠ .absent)
    let replies (i : Instr) (t : State) (code : Nat) (body : List Byte) : Prop := exec i s = .next (t.answer r code body)
    let wrong (i : Instr) (code : Byte) : Prop := replies i s 0x7F [code, 0]
    let staged (i : Instr) (stage code : Nat) (ok : Prop) (body : List Byte) (t : State) : Prop :=
      (there → x.stage < stage → wrong i 4) ∧ (there → stage ≤ x.stage → ¬ok → wrong i 1) ∧ (there → stage ≤ x.stage → ok → replies i t code body)
    let signed (purpose : Nat) (body : List Byte) : List Byte := body ++ ecdsaSign s.pk.attestScalar (freeScalar purpose s.free) body
    let alias_ := publicKey s.pk.attestScalar ++ [5] ++ sliceB s.pk.flash.part 16 16 ++ List.replicate 15 0 ++ sliceB s.pk.m0 0 32 ++ sliceB s.pk.m1 0 32 ++ sliceB s.pk.m2 0 32 ++ sliceB s.pk.m3 0 32
    let chain := s.pk.flash.chain.take 320 ++ (alias_ ++ ecdsaSign identityScalar (freeScalar 8 s.pk.boot) alias_)
    (∀ code body, let m : List Byte := [if code = 4 then 0x10 else 0x13, BitVec.ofNat 8 code, 0, 0] ++ body
        (r < 64 ∨ 80 ≤ r → s.answer r code body = s.emit (.spdm r code body))
        ∧ (64 ≤ r → r < 80 → body.length ≤ 220 → s.answer r code body =
            s.sendFlit (r - 64) 6 (toBytes 2 m.length ++ [1, 0] ++ m ++ List.replicate (224 - m.length) 0)))
    ∧ (¬there → ∀ i, (∃ b, i = .spdmGetVersion r b) ∨ i = .spdmGetCapabilities r ∨ (∃ a b c d, i = .spdmNegotiateAlgorithms ⟨r, a, b, c, d⟩) ∨ i = .spdmGetDigests r ∨ (∃ a b c, i = .spdmGetCertificate ⟨r, a, b, c⟩)
        ∨ (∃ a n, i = .spdmChallenge ⟨r, a⟩ n) ∨ (∃ o n, i = .spdmGetMeasurements ⟨r, o⟩ n) ∨ (∃ n k, i = .spdmKeyExchange r n k) ∨ (∃ n, i = .spdmFinish r n) ∨ (∃ n, i = .spdmKeyUpdate r n)
        ∨ (∃ n, i = .spdmHeartbeat r n) ∨ (∃ n, i = .spdmEndSession r n) ∨ i = .spdmUnsupported r → exec i s = .next s)
    ∧ (∀ common, there → ∃ u : State, exec (.spdmGetVersion r common) s = .next (if common then u.answer r 0x04 [0x00, 0x13] else u.answer r 0x7F [0x41, 0])
        ∧ nfind u.pk.spdm r = some { stage := if common then 1 else 0, kex := false, sessions := [] } ∧ u.mem = s.mem ∧ u.out = s.out ∧ u.links = s.links
        ∧ (∀ k, k ≠ r → nfind u.pk.spdm k = nfind s.pk.spdm k)
        ∧ ∀ ses y c i, r = 80 → (ses, y) ∈ x.sessions → s.partyOf ses = some (c, i) → ∀ k v, nfind (s.job c).sessions k = some v → v.party = i →
            nfind (u.job c).sessions k = some (if v.opened then { v with opened := false, key := [] } else v))
    ∧ (there → x.stage < 1 → wrong (.spdmGetCapabilities r) 4)
    ∧ (there → 1 ≤ x.stage → ∃ body, replies (.spdmGetCapabilities r) (with_ { x with stage := max x.stage 2 } s.drawn.drawn) 0x61 body
        ∧ body.length = 16 ∧ leAt body 4 4 = 0x462D6 + if 64 ≤ r ∧ r < 80 then 0x100 else 0)
    ∧ (∀ asym hash dhe aead, let d : Byte := if field dhe 3 1 = 1 then 8 else 0
        let a : Byte := if field aead 1 1 = 1 then 2 else 0
        staged (.spdmNegotiateAlgorithms ⟨r, asym, hash, dhe, aead⟩) 2 0x63 (field asym 4 1 = 1 ∧ field hash 0 1 = 1) (toBytes 4 2 ++ toBytes 4 0x10 ++ toBytes 4 1 ++ [2, 0x20, d, 0] ++ [3, 0x20, a, 0])
          (with_ { x with stage := max x.stage 3, kex := decide (d = 8 ∧ a = 2) } s))
    ∧ staged (.spdmGetDigests r) 3 0x01 True (sha256 chain) s
    ∧ (∀ slot off len, let b := (chain.drop off).take len
        staged (.spdmGetCertificate ⟨r, slot, off, len⟩) 3 0x02 (slot = 0 ∧ off < chain.length) (toBytes 2 b.length ++ toBytes 2 (chain.length - off - b.length) ++ b) s)
    ∧ (∀ slot n, staged (.spdmChallenge ⟨r, slot⟩ n) 3 0x03 (slot = 0) (signed 4 (sha256 chain ++ sliceB n 0 32)) s.drawn)
    ∧ (∀ op n, ∀ y ∈ [(0, [4]), (1, s.pk.m0), (2, s.pk.m1), (3, s.pk.m2), (4, s.pk.m3), (255, s.pk.m0 ++ s.pk.m1 ++ s.pk.m2 ++ s.pk.m3)],
        op = y.1 → staged (.spdmGetMeasurements ⟨r, op⟩ n) 3 0x60 True (signed 5 (y.2 ++ sliceB n 0 32)) s.drawn)
    ∧ (∀ op n, op ∉ [0, 1, 2, 3, 4, 255] → there → 3 ≤ x.stage → wrong (.spdmGetMeasurements ⟨r, op⟩ n) 1)
    ∧ (∀ ses secret, let full := (if r < 64 then 4 else if r < 80 then 2 else (s.jobs.map fun j => j.2.parties).sum) ≤ x.sessions.length ∨ (nfind x.sessions ses).isSome = true
        let i : Instr := .spdmKeyExchange r ses secret
        (there → x.stage < 3 → wrong i 4) ∧ (there → 3 ≤ x.stage → x.kex = false → wrong i 7) ∧ (there → 3 ≤ x.stage → x.kex = true → full → wrong i 0x0A)
        ∧ (there → 3 ≤ x.stage → x.kex = true → ¬full → replies i (with_ { x with sessions := nset x.sessions ses { secret := secret } } s.drawn) 0x64
            (ecdsaSign s.pk.attestScalar (freeScalar 6 s.free) secret)))
    ∧ (there → wrong (.spdmUnsupported r) 7)
    ∧ ∀ ses, there →
        (nfind x.sessions ses = none → ∀ i ∈ [Instr.spdmFinish r ses, .spdmKeyUpdate r ses, .spdmHeartbeat r ses, .spdmEndSession r ses], wrong i 2)
        ∧ ∀ y, nfind x.sessions ses = some y →
            let at_ (z : SpdmSes) : State := with_ { x with sessions := nset x.sessions ses z } s
            (y.secured = true → wrong (.spdmFinish r ses) 4)
            ∧ (y.secured = false → ∀ i ∈ [Instr.spdmKeyUpdate r ses, .spdmHeartbeat r ses, .spdmEndSession r ses], wrong i 4)
            ∧ (y.secured = false → replies (.spdmFinish r ses) (at_ { y with secured := true }) 0x65 [])
            ∧ (y.secured = true → replies (.spdmKeyUpdate r ses) (at_ { y with updates := y.updates + 1 }) 0x69 [] ∧ replies (.spdmHeartbeat r ses) s 0x68 []
                ∧ (r ≠ 80 → replies (.spdmEndSession r ses) (with_ { x with sessions := ndel x.sessions ses } s) 0x6C [])
                ∧ (r = 80 → Reaches (.spdmEndSession r ses) s fun t => (t.responder r).sessions = ndel x.sessions ses ∧ t.mem = s.mem ∧ t.out = s.out ++ [.spdm r 0x6C []]
                    ∧ (∀ c ∈ t.clearings, ∀ z ∈ c.2.gone, ses ∉ z.sessions)
                    ∧ (s.partyOf ses = none → t.jobs = s.jobs)
                    ∧ ∀ c i, s.partyOf ses = some (c, i) → nget none ((t.job c).joins.map fun p => (p.1, p.2.spdm)) i = none
                        ∧ ∀ k v, nfind (s.job c).sessions k = some v → nfind (t.job c).sessions k = some (if v.party = i ∧ v.opened = true then { v with opened := false, key := [] } else v)))

/-! ## What a step does, and the rules over all instructions -/

/-- R64, R77, R115: a step on a woodward's move runs the lowest instruction of its block that has all it needs and has not found this round that it must wait, after the last of a round the next begins; it is exec of the
instruction its word decodes to. In a context cycle a step is exec of the instruction the element's op word decodes to. The other moves of the agenda are their events, and what arrives is the event that arrived. -/
def Obligations.StepRunsTheInstruction : Prop :=
  ∀ (s : State) (g : Nat) (rest : List Move),
    let on (m : Move) : State := { s with cyc := none, agenda := m :: rest }
    let left : State := { s with cyc := none, agenda := rest }
    (∀ b k i, s.block g = some b → b.ready k = true → k < b.words.length → k ∉ b.stalled → (∀ j < k, b.ready j = true → j ∈ b.stalled) → decodeWord (b.word k) = .ok i →
        step (on (.woodward g)) = exec i { left with focus := { glade := g, idx := k } })
    ∧ (∀ b k i, s.block g = some b → b.ready k = true → k < b.words.length → (∀ j < k, b.ready j = false) → (∀ j < b.words.length, b.ready j = true → j ∈ b.stalled) →
        decodeWord (b.word k) = .ok i → step (on (.woodward g)) = exec i { left.modBlock g (fun b => { b with stalled := [] }) with focus := { glade := g, idx := k } })
    ∧ (∀ b, s.block g = some b → (∀ j < b.words.length, b.ready j = false) → step (on (.woodward g)) = exec (.blockCommit g) left)
    ∧ (s.block g = none → step (on (.woodward g)) = exec (.blockFetch g) left)
    ∧ (∀ c e t u w i, s.cyc = some c → c.todo = e :: t → s.nextElement c e.1 e.2 = (u, some w) → decodeOp w = .ok i → step s = exec i u)
    ∧ (∀ c, s.cyc = some c → c.todo = [] → step s = .next (s.endCycle c))
    ∧ (s.cyc = none → s.agenda = [] → step s = .next s.tick)
    ∧ (∀ t i l, left.inputs = (t, .event i) :: l → outside i = true → step (on .input) = exec i { left with inputs := l })
    ∧ (∀ t k b l, left.inputs = (t, .flit k b) :: l → step (on .input) = State.rawFlit { left with inputs := l } k b)
    ∧ (∀ t vf a bs l, left.inputs = (t, .hostBytes vf a bs) :: l → vf < 64 → a + bs.length ≤ 2 ^ 55 →
        ∃ u, step (on .input) = .next u ∧ u.mem = (left.put (2 ^ 60 + vf * 2 ^ 56 + a) bs).mem ∧ u.inputs = l ∧ u.glades = left.glades ∧ u.jobs = left.jobs)
    ∧ (∀ k, step (on (.causes g)) = .next (left.deliverCauses g) ∧ step (on (.linkCall k)) = .next (left.takeCall k) ∧ step (on (.graftSettle k)) = execGraftSettle k left
        ∧ step (on (.cyOpen k)) = .next (left.openCy k) ∧ step (on (.creditIdle k)) = .next (left.sendCredits k) ∧ step (on (.invalidated k)) = .next (left.invalidated k)
        ∧ step (on .orphans) = .next left.settleOrphans ∧ step (on .evictions) = .next left.settleTouches ∧ (left.testDue k = false → step (on (.infieldTest k)) = .next left)
        ∧ (left.testDue k = true → ∃ pass, step (on (.infieldTest k)) = exec (.infieldTest k pass) left.drawn))
    ∧ ∀ k n j : Nat, ∀ p ∈ [(Move.walkComplete g, Instr.walkComplete g), (.contextCycle g, .contextCycle g), (.resultLand g, .resultLand g), (.fernResultLand g, .fernResultLand g),
          (.agReply g k n, .agReply g k n), (.agStorePerformed g k n, .agStorePerformed g k n), (.entryStartTimed g k, .entryStartTimed g k), (.entryStartGated g k, .entryStartGated g k),
          (.entryRetire g k, .entryRetire g k), (.creditTimerFire g, .creditTimerFire g), (.standFire g, .standFire g), (.standSlotRelease g, .standSlotRelease g),
          (.standFireComplete g, .standFireComplete g), (.drainBeat g k, .drainBeat g k), (.raftNoticeServe g k, .raftNoticeServe g k), (.raftTileLand g k, .raftTileLand g k),
          (.wloadRegion g, .wloadRegion g), (.moteArrival g, .moteArrival g), (.landingArrival g, .landingArrival g), (.seedReplayStep k n, .seedReplayStep k n),
          (.graftFetchComplete k, .graftFetchComplete k), (.graftFetchTimeout k, .graftFetchTimeout k), (.waitTimeout g k, .waitTimeout g k), (.orderStall g, .orderStall g),
          (.slotAnswerTimeout g, .slotAnswerTimeout g), (.selectionPass k, .selectionPass k), (.launchBoost k n, .launchBoost k n), (.reservingTimeout k n, .reservingTimeout k n),
          (.launchStart k n, .launchStart k n), (.unitComplete k n j, .unitComplete k n j), (.phaseBoundary k n, .phaseBoundary k n), (.boughSaveWrite k n, .boughSaveWrite k n),
          (.phaseLimitExpiry k n, .phaseLimitExpiry k n), (.cancelProcess k, .cancelProcess k), (.timeSlotEvent k n j, .timeSlotEvent k n j), (.periodRollover k, .periodRollover k),
          (.ringFetch k n, .ringFetch k n true), (.ringDrainComplete k n, .ringDrainComplete k n), (.tinvComplete k, .tinvComplete k), (.pageRequest k n, .pageRequest k n),
          (.prgTimeout k n, .prgTimeout k n), (.msixMessage k n, .msixMessage k n), (.peerReclaimTimeout k, .peerReclaimTimeout k), (.lifetimeFlush, .lifetimeFlush)],
        step (on p.1) = exec p.2 left

/-- R4, R231 to R240: what a write leaves at an address is what a read gives there, every other byte is as before, the canonical form of memory is kept, and two memories in that form that read alike are equal. -/
def Obligations.MemoryReadsWhatWasWritten : Prop :=
  (∀ (s : State) (a : Nat) (bs : List Byte), Memory.wf s.mem = true →
    (s.put a bs).bytes a bs.length = bs ∧ Memory.wf (s.put a bs).mem = true
    ∧ (∀ b, b < a ∨ a + bs.length ≤ b → memGet (s.put a bs).mem b = memGet s.mem b)
    ∧ (∀ n, bs = toBytes n (ofBytes bs) → (s.put a bs).num a n = ofBytes bs))
  ∧ (∀ m n : List Host.Cell, Memory.wf m = true → Memory.wf n = true → (∀ a, memGet m a = memGet n a) → m = n)
  ∧ ∀ (m : List Host.Cell) (lo k : Nat), Memory.wf m = true → Memory.wf (memZero m lo k) = true ∧ ∀ a, memGet (memZero m lo k) a = if lo ≤ a ∧ a < lo + k then 0 else memGet m a

/-- R149: what the system registers of every glade read after reset where the spec gives a value, and that general registers read 0, no block is in flight and no unit is placed. That general registers read 0 is log
entry 19. -/
def Obligations.ResetValues : Prop :=
  ∀ g : Nat,
    let r (n : Nat) : Option Word := sysRead State.reset g 0 n
    r 0x007 = some 0 ∧ r 0x008 = some 1 ∧ r 0x016 = some 0x01000000
    ∧ (∀ n ∈ [0x010, 0x011, 0x012, 0x013, 0x014, 0x015, 0x020, 0x021, 0x022, 0x080, 0x090, 0x091, 0x098, 0x099, 0x09A, 0x09B, 0x09C, 0x0A0, 0x0A1, 0x0A2], r n = some 0)
    ∧ (∀ i < 16, r (0x040 + 4 * i) = some 0 ∧ r (0x041 + 4 * i) = some 0 ∧ r (0x042 + 4 * i) = some 0 ∧ r (0x0B0 + i) = some 0 ∧ r (0x0C0 + i) = some 0)
    ∧ (∀ i < 8, r (0x088 + i) = some 0x7F) ∧ r 0x030 = some 0xFF00000000000000 ∧ r 0x031 = some 0xFF00000100000000 ∧ r 0x032 = some 0xFF00000200000000
    ∧ (∀ k, (State.reset.ww g).reg k = 0) ∧ State.reset.block g = none ∧ State.reset.place g = none

/-- Memory is in its canonical form at reset. -/
def Obligations.SafeAtReset : Prop := Safe State.reset

/-- Every step keeps the canonical form of memory: whatever the instruction, event, move or arrival. -/
def Obligations.SafeKept : Prop := ∀ s t : State, Safe s → step s = .next t → Safe t

/-- R144: before its block commits, no instruction of a block changes a general register, a predicate, or a byte of any memory of the package, whatever it does and whichever fault it raises, but for the entries of the
fault queues in host memory. An element operation changes no byte of memory, no register and no predicate. -/
def Obligations.NothingChangesBeforeCommit : Prop :=
  ∀ (i : Instr) (s t : State), exec i s = .next t →
    ((encodeWord i).isSome = true → Safe s → (∀ a < 2 ^ 60, memGet t.mem a = memGet s.mem a)
      ∧ (∀ a, (∀ f, let q := (s.fn f).fqBase + 2 ^ 60 + f * 2 ^ 56; ¬(q ≤ a ∧ a < q + 32 * (s.fn f).fqEntries)) → memGet t.mem a = memGet s.mem a)
      ∧ ∀ g, (t.ww g).g = (s.ww g).g ∧ (t.ww g).q = (s.ww g).q)
    ∧ ((encodeOp i).isSome = true → t.mem = s.mem ∧ ∀ g, (t.ww g).g = (s.ww g).g ∧ (t.ww g).q = (s.ww g).q)

/-- R112, R114 to R117, R160 to R169, R175, R176, R178: the frame of the instructions that only deliver a value: whatever the state, the next state is the one before but for the glade's block, or the block's fault; so every register,
predicate, special register, table, queue and byte of memory is as before unless the block faults. -/
def Obligations.ValueInstructionFrame : Prop :=
  ∀ (h : Hdr) (imm : BitVec 30) (w : Width) (pos len1 g : BitVec 6) (lane : BitVec 2) (k : BitVec 16) (q m : BitVec 4) (wr : Bool) (sp : Space) (off : BitVec 23) (sel : QuerySel) (n : BitVec 8) (num : BitVec 12),
    ∀ i ∈ [Instr.add h, .addi h imm, .sub h, .mul h, .mulhS h, .mulhZ h, .divS h, .divZ h, .remS h, .remZ h, .and h, .or h, .xor h, .andn h, .not h, .shl h, .shr h, .sar h, .rol h, .clz h, .ctz h, .popc h,
        .minS h, .minZ h, .maxS h, .maxZ h, .sext h w, .zext h w, .bext h pos len1, .bins h pos len1, .movi h imm, .movhi h lane k, .sel h, .cmpEq h wr q, .cmpNe h wr q, .cmpLtS h wr q, .cmpLtZ h wr q,
        .cmpLeS h wr q, .cmpLeZ h wr q, .test h wr q, .qand h wr q, .qor h wr q, .maddM h m, .msubM h m, .mmulM h m, .mred h m, .rdg h g, .wrg h g, .mov h, .nullEffect h n, .nullReg h g, .land h num,
        .cvtaTo h sp, .cvtaFrom h sp, .isspace h sp, .lea h sp off, .aperq h sp, .tskQuery h sel],
      ∀ s t : State, exec i s = .next t → SameButBlock s t s.focus.glade ∨ ∃ c v, t = s.blockFault s.focus.glade c v

/-- R181, R408, R410 to R413: taking a cause. Outside a handler, with a handler block named and a cause the system does not own, the woodward saves cause, block address and value, keeps its mark and halted state, and goes on at
the handler with its registers as they were; else the cause goes to the forester, the launch is to end FAULTED, and the record goes to the fault queue. The causes of a cy are kept in the order of their ranks, and the glade delivers one a cy: the
first, unless one has been delivered, a handler runs, a return has just committed or causes wait; the others wait, at most eight; the ninth goes to the forester after all that wait, in their order. That a cause the system
owns waits for the end of its cy like any other is log entry 69. -/
def Obligations.TakingACause : Prop :=
  ∀ (s : State) (g c v a : Nat) (async th : Bool),
    let w := s.ww g
    let owned := c ∈ [0x04C, 0x086, 0x100, 0x101, 0x102, 0x1C2]
    let handled := w.inh = false ∧ field w.trapHandler.toNat 6 14 ≠ 0 ∧ ¬owned
    (handled → let t := s.take g c v a async
      (t.ww g).trapCause = BitVec.ofNat 64 (c + if async then 2 ^ 16 else 0) ∧ (t.ww g).trapBlock = BitVec.ofNat 64 (64 * field a 6 14) ∧ (t.ww g).trapValue = BitVec.ofNat 64 v
      ∧ (t.ww g).inh = true ∧ (t.ww g).mark = w.atMark ∧ (t.ww g).hlt = w.halted ∧ (t.ww g).halted = false ∧ (t.ww g).atMark = false ∧ t.block g = none ∧ (t.ww g).delivered = true
      ∧ (t.ww g).fetch = 64 * field w.trapHandler.toNat 6 14 ∧ (t.ww g).g = w.g ∧ (t.ww g).q = w.q ∧ (t.ww g).link = w.link ∧ (t.ww g).trapHandler = w.trapHandler ∧ t.mem = s.mem)
    ∧ (¬handled → s.take g c v a async = (s.modWw g fun w => { w with delivered := true }).forester g c v a async)
    ∧ (s.place g = none → s.forester g c v a async = s)
    ∧ (∀ p, s.place g = some p → let t := s.forester g c v a async
        (t.ww g).started = false ∧ t.block g = none ∧ (t.th g).stopped = true ∧ (t.die p.die).cancels = (s.die p.die).cancels ++ [(p.launch, .faulted, true)]
        ∧ (t.ww g).g = w.g ∧ (t.ww g).q = w.q ∧ (Safe s → ∀ x < 2 ^ 60, memGet t.mem x = memGet s.mem x)
        ∧ (let r := s.faultRecord c (b2n async + 2 * b2n (sysOwned c)) p.vf p.ctx g v a
           (sysOwned c = true ↔ owned) ∧ t.mem = r.mem ∧ ∀ f, (t.fn f).wcnt = (r.fn f).wcnt ∧ (t.fn f).lost = (r.fn f).lost))
    ∧ (s.block g = none → s.blockFault g c v = s.take g c v w.fetch false) ∧ (∀ b, s.block g = some b → s.blockFault g c v = s.take g c v b.addr false)
    ∧ (∀ rank, s.asyncFault g c v th rank = s.modWw g fun w => { w with raised := insertCause ⟨c, v, th, rank⟩ w.raised })
    ∧ s.asyncAt g = (if w.halted then 0 else match w.block with | some b => b.addr | none => w.fetch)
    ∧ (∀ (e : Cause) (l : List Cause), l.Pairwise (·.rank ≤ ·.rank) → (insertCause e l).Pairwise (·.rank ≤ ·.rank) ∧ (insertCause e l).Perm (e :: l)
        ∧ ∀ n, (insertCause e l).filter (fun y => decide (y.rank = n)) = l.filter (fun y => decide (y.rank = n)) ++ if e.rank = n then [e] else [])
    ∧ (let u := s.modWw g fun w => { w with raised := [], delivered := false }
       let waits := w.inh = true ∨ w.deliver = true ∨ w.delivered = true ∨ w.pending ≠ []
       (w.raised = [] → s.deliverCauses g = u)
       ∧ (waits → w.pending.length + w.raised.length ≤ 8 → s.deliverCauses g = u.modWw g fun x => { x with pending := w.pending ++ w.raised })
       ∧ (∀ e, waits → w.raised = [e] → 8 ≤ w.pending.length → s.deliverCauses g =
            (w.pending ++ [e]).foldl (fun s x => s.forester g x.code x.value (s.asyncAt g) true) (u.modWw g fun x => { x with pending := [] }))
       ∧ ∀ e rest, ¬waits → w.raised = e :: rest → let v := u.take g e.code e.value (s.asyncAt g) true
          (v.ww g).pending.length + rest.length ≤ 8 → s.deliverCauses g = v.modWw g fun x => { x with pending := x.pending ++ rest, delivered := false })

/-! ## Encodings -/

/-- R113, R114, R116, R117, R119, R127: decoding and encoding are inverse in both directions: every well-formed instruction of a block and every well-formed element operation is what its word decodes to, and every word that
decodes is the word of the well-formed instruction it decodes to; an instruction with a header, and no other, has a woodward word. -/
def Obligations.DecodeEncode : Prop :=
  (∀ i w, wellFormed i = true → encodeWord i = some w → decodeWord w = .ok i) ∧ (∀ i w, wellFormed i = true → encodeOp i = some w → decodeOp w = .ok i)
  ∧ (∀ w i, decodeWord w = .ok i → wellFormed i = true ∧ encodeWord i = some w) ∧ (∀ w i, decodeOp w = .ok i → wellFormed i = true ∧ encodeOp i = some w)
  ∧ ∀ i : Instr, ((encodeWord i).isSome = true ↔ i.hdr.isSome = true)

/-- R113, R114, R116, R117, R119: some words written out field by field and the instructions they stand for: opcode, predicate and sense, two targets of valid bit, slot and index, payload; an op word's opcode, type, dest, modifier. -/
def Obligations.WordsDecode : Prop :=
  let word (op pred sense va sa xa vb sb xb payload : Nat) : BitVec 64 :=
    BitVec.ofNat 64 (2 ^ 55 * op + 2 ^ 51 * pred + 2 ^ 50 * sense + 2 ^ 49 * va + 2 ^ 47 * sa + 2 ^ 40 * xa + 2 ^ 39 * vb + 2 ^ 37 * sb + 2 ^ 30 * xb + payload)
  let op (o ty d m : Nat) : BitVec 24 := BitVec.ofNat 24 (2 ^ 17 * o + 2 ^ 14 * ty + 2 ^ 12 * d + m)
  let plain : Hdr := ⟨0, false, none, none⟩
  decodeWord (word 0x001 0 0 1 0 5 1 1 9 0) = .ok (.add ⟨0, false, some ⟨.l, 5⟩, some ⟨.r, 9⟩⟩)
  ∧ decodeWord (word 0x002 3 1 1 2 7 0 0 0 (2 ^ 30 - 1)) = .ok (.addi ⟨3, true, some ⟨.q, 7⟩, none⟩ (BitVec.allOnes 30))
  ∧ decodeWord (word 0x028 0 0 0 0 0 0 0 0 (16 + 5)) = .ok (.cmpEq plain true 5)
  ∧ decodeWord (word 0x049 0 0 0 0 0 0 0 0 63) = .ok (.wrg plain 63)
  ∧ decodeWord (word 0x050 0 0 0 0 0 0 0 0 (2 ^ 29)) = .ok (.br plain (BitVec.ofInt 30 (-2 ^ 29)))
  ∧ decodeWord (word 0x1FF 0 0 0 0 0 0 0 0 0) = .error .opcodeUndef ∧ decodeWord (word 0x001 0 1 0 0 0 0 0 0 0) = .error .blockFormat
  ∧ decodeWord (word 0x001 0 0 0 0 0 0 0 0 1) = .error .payloadReserved ∧ decodeWord (word 0x001 0 0 0 1 0 0 0 0 0) = .error .targetInvalid
  ∧ decodeOp (op 0x01 0 0 0x123) = .ok (.fadd .res 0x123) ∧ decodeOp (op 0x01 0 1 0) = .ok (.fadd .rso 0) ∧ decodeOp (op 0x01 0 2 0) = .ok (.fadd .dis 0)
  ∧ decodeOp (op 0x30 0 3 0) = .ok .passThru ∧ decodeOp (op 0x01 0 3 0) = .error .thru ∧ decodeOp (op 0x00 0 0 0) = .error .opcode ∧ decodeOp (op 0x01 1 0 0) = .error .type
end

