-- ==== Sys2Proof/Laws/Maps.lean ====
section
/-! SUPPORT. Reading a map after writing it, and memory: reading after writing, and the canonical form. -/

namespace Sys2Proof.Machine

variable {α : Type}

theorem nfind_nil (j : Nat) : nfind ([] : NatMap α) j = none := rfl

theorem nfind_cons (e : Nat × α) (m : NatMap α) (j : Nat) : nfind (e :: m) j = if e.1 = j then some e.2 else nfind m j := by
  by_cases h : e.1 = j <;> simp [nfind, h]

theorem nfind_nset (m : NatMap α) (i j : Nat) (v : α) : nfind (nset m i v) j = if i = j then some v else nfind m j := by
  induction m <;> grind [nset, nfind_nil, nfind_cons]

@[simp] theorem nfind_nset_self (m : NatMap α) (i : Nat) (v : α) : nfind (nset m i v) i = some v := by simp [nfind_nset]

theorem nfind_nset_ne (m : NatMap α) {i j : Nat} (v : α) (h : i ≠ j) : nfind (nset m i v) j = nfind m j := by simp [nfind_nset, h]

@[simp] theorem nget_nset_self (d : α) (m : NatMap α) (i : Nat) (v : α) : nget d (nset m i v) i = v := by simp [nget]

theorem nget_nset_ne (d : α) (m : NatMap α) {i j : Nat} (v : α) (h : i ≠ j) : nget d (nset m i v) j = nget d m j := by simp [nget, nfind_nset, h]

@[simp] theorem nget_nmod_self (d : α) (m : NatMap α) (i : Nat) (f : α → α) : nget d (nmod d m i f) i = f (nget d m i) := by simp [nmod]

theorem nget_nmod_ne (d e : α) (m : NatMap α) {i j : Nat} (f : α → α) (h : i ≠ j) : nget d (nmod e m i f) j = nget d m j := nget_nset_ne d m _ h

theorem nset_nset (m : NatMap α) (i : Nat) (v w : α) : nset (nset m i v) i w = nset m i w := by induction m <;> grind [nset]

/-- A change of every value, which may use its key. -/
theorem nfind_map (m : NatMap α) (f : Nat × α → α) (i : Nat) : nfind (m.map fun e => (e.1, f e)) i = (nfind m i).map fun v => f (i, v) := by
  induction m <;> grind [nfind_nil, nfind_cons]

/-! ## Memory -/

theorem memGet_nil (b : Nat) : memGet [] b = 0 := rfl

theorem memGet_cons (c : Host.Cell) (m : List Host.Cell) (b : Nat) : memGet (c :: m) b = if c.1 = b then c.2 else memGet m b := by
  unfold memGet nget
  rw [nfind_cons]
  split <;> rfl

theorem memWfFrom_mono {lo hi : Nat} {m : List Host.Cell} (h : hi ≤ lo) (w : memWfFrom lo m = true) : memWfFrom hi m = true := by
  cases m <;> grind [memWfFrom]

theorem memGet_below {m : List Host.Cell} {lo a : Nat} (w : memWfFrom lo m = true) (h : a < lo) : memGet m a = 0 := by
  induction m generalizing lo with
  | nil => rfl
  | cons c rest ih =>
    simp only [memWfFrom, Bool.and_eq_true, decide_eq_true_eq] at w
    rw [memGet_cons, if_neg (Nat.ne_of_gt (Nat.lt_of_lt_of_le h w.1.1))]
    exact ih w.2 (Nat.lt_succ_of_lt (Nat.lt_of_lt_of_le h w.1.1))

theorem memCell_wf {lo a : Nat} (v : Byte) {m : List Host.Cell} (h : lo ≤ a) (w : memWfFrom (a + 1) m = true) : memWfFrom lo (memCell a v ++ m) = true := by
  unfold memCell
  split
  · exact memWfFrom_mono (Nat.le_succ_of_le h) w
  · simp_all [memWfFrom]

theorem memSet_wf {lo a : Nat} {v : Byte} {m : List Host.Cell} (h : lo ≤ a) (w : memWfFrom lo m = true) : memWfFrom lo (memSet m a v) = true := by
  induction m generalizing lo with
  | nil => simpa [memSet] using memCell_wf (m := []) v h rfl
  | cons c rest ih =>
    have inside := memCell_wf (m := if c.1 = a then rest else c :: rest) v h
    grind [memSet, memWfFrom]

theorem memGet_memSet {v : Byte} {a b : Nat} {m : List Host.Cell} {lo : Nat} (w : memWfFrom lo m = true) :
    memGet (memSet m a v) b = if b = a then v else memGet m b := by
  induction m generalizing lo with
  | nil => grind [memSet, memCell, memGet_nil, memGet_cons]
  | cons c rest ih => grind [memSet, memCell, memGet_nil, memGet_cons, memWfFrom, memGet_below]

theorem memPut_wf (bs : List Byte) {m : List Host.Cell} {a : Nat} (w : Memory.wf m = true) : Memory.wf (memPut m a bs) = true := by
  induction bs generalizing m a with
  | nil => exact w
  | cons v rest ih => exact ih (memSet_wf (Nat.zero_le a) w)

theorem memGet_memPut (bs : List Byte) {m : List Host.Cell} {a : Nat} (b : Nat) (w : Memory.wf m = true) :
    memGet (memPut m a bs) b = if a ≤ b ∧ b < a + bs.length then (bs[b - a]?).getD 0 else memGet m b := by
  induction bs generalizing m a with
  | nil => grind [memPut]
  | cons v rest ih =>
    have at_ := ih (a := a + 1) (memSet_wf (v := v) (Nat.zero_le a) w)
    have one := memGet_memSet (v := v) (a := a) (b := b) w
    grind [memPut]

theorem memFilter_wf (p : Host.Cell → Bool) {m : List Host.Cell} {lo : Nat} (w : memWfFrom lo m = true) : memWfFrom lo (m.filter p) = true := by
  induction m generalizing lo with
  | nil => rfl
  | cons c rest ih =>
    simp only [memWfFrom, Bool.and_eq_true, decide_eq_true_eq] at w
    have kept := ih w.2
    by_cases h : p c = true
    · simpa [h, memWfFrom, kept] using w.1
    · simpa [h] using memWfFrom_mono (Nat.le_succ_of_le w.1.1) kept

theorem memZero_wf {m : List Host.Cell} (lo n : Nat) (h : Memory.wf m = true) : Memory.wf (memZero m lo n) = true := memFilter_wf _ h

theorem put_wf (s : State) (a : Nat) (bs : List Byte) (h : Memory.wf s.mem = true) : Memory.wf (s.put a bs).mem = true := memPut_wf bs h

end Sys2Proof.Machine
end

