-- ==== Sys2Proof/Laws/Block.lean ====
section
/-! SUPPORT. What an instruction of a block can do once it issues: `finish` either faults the block or leaves the state `executed` names. -/

namespace Sys2Proof.Machine

theorem Block.freeFor_put (b : Block) (v : Word) (t u : Target) (h : Target.apart t u) (hu : b.freeFor u) : (b.put v t).freeFor u := by
  unfold Target.apart at h
  unfold Block.freeFor at hu ⊢
  unfold Block.put
  cases ht : t.slot <;> cases h2 : u.slot <;> simp_all
  all_goals
    rw [nfind_nset_ne _ _ (by intro e; exact h (BitVec.eq_of_toNat_eq e))]; exact hu

/-- Where every target is free, delivery puts the value into each (R114, R115). -/
theorem deliverAll_free (i : Nat) (v : Word) : ∀ (ts : List Target) (b : Block), ts.Pairwise Target.apart → (∀ t ∈ ts, b.freeFor t) →
    deliverAll i v ts b = .ok (ts.foldl (Block.put v) b)
  | [], _, _, _ => rfl
  | t :: ts, b, hp, hf => by
    have h1 := List.pairwise_cons.1 hp
    have h0 := hf t (by simp)
    have : deliverAll i v (t :: ts) b = deliverAll i v ts (b.put v t) := by
      rw [deliverAll]
      unfold Block.put
      unfold Block.freeFor at h0
      cases hs : t.slot <;> simp_all
    rw [this, List.foldl_cons]
    exact deliverAll_free i v ts _ h1.2 fun u hu => Block.freeFor_put b v t u (h1.1 u hu) (hf u (by simp [hu]))

/-- What an instruction leaves in its block keeps the slots and the effect count. -/
def KeepsSlots (f : Block → Block) : Prop :=
  ∀ b, (f b).opL = b.opL ∧ (f b).opR = b.opR ∧ (f b).opQ = b.opQ ∧ (f b).effects = b.effects ∧ (f b).h1 = b.h1

theorem KeepsSlots.id : KeepsSlots id := fun _ => ⟨rfl, rfl, rfl, rfl, rfl⟩

/-- An instruction whose targets are free and whose effects fit completes (R114, R146). -/
theorem finish_fits (s : State) (x : Fx) (h : Hdr) (v : Word) (eff : Nat) (f : Block → Block) (hx : x.fits h eff) (hf : KeepsSlots f) :
    s.finish x h v eff f = .next (s.executed x h v eff f) := by
  obtain ⟨h1, h2, h3⟩ := hx
  obtain ⟨f1, f2, f3, f4, f5⟩ := hf { x.b with done := x.b.done ++ [x.i], effects := x.b.effects + eff }
  unfold State.finish
  simp only
  rw [if_neg (by simp only [Block.socount] at h1 ⊢; rw [f4, f5]; simpa using h1)]
  rw [deliverAll_free _ _ _ _ h2 (by intro t ht; have := h3 t ht; unfold Block.freeFor at this ⊢; rw [f1, f2, f3]; exact this)]
  rfl

end Sys2Proof.Machine
end

