-- ==== Sys2Proof/Laws/State.lean ====
section
/-! SUPPORT. What each update of the state leaves, field by field and accessor by accessor, so that no later proof unfolds a record update. -/

namespace Sys2Proof.Machine

/-! ## Fields that an update does not touch -/

@[simp] theorem State.modGlade_pk (s : State) (g : Nat) (f : Glade → Glade) : (s.modGlade g f).pk = s.pk := rfl
@[simp] theorem State.modGlade_wall (s : State) (g : Nat) (f : Glade → Glade) : (s.modGlade g f).wall = s.wall := rfl
@[simp] theorem State.modGlade_mem (s : State) (g : Nat) (f : Glade → Glade) : (s.modGlade g f).mem = s.mem := rfl
@[simp] theorem State.modGlade_poison (s : State) (g : Nat) (f : Glade → Glade) : (s.modGlade g f).poison = s.poison := rfl
@[simp] theorem State.modGlade_unseen (s : State) (g : Nat) (f : Glade → Glade) : (s.modGlade g f).unseen = s.unseen := rfl
@[simp] theorem State.modGlade_rels (s : State) (g : Nat) (f : Glade → Glade) : (s.modGlade g f).rels = s.rels := rfl
@[simp] theorem State.modGlade_dies (s : State) (g : Nat) (f : Glade → Glade) : (s.modGlade g f).dies = s.dies := rfl
@[simp] theorem State.modGlade_clearings (s : State) (g : Nat) (f : Glade → Glade) : (s.modGlade g f).clearings = s.clearings := rfl
@[simp] theorem State.modGlade_jobs (s : State) (g : Nat) (f : Glade → Glade) : (s.modGlade g f).jobs = s.jobs := rfl
@[simp] theorem State.modGlade_grafts (s : State) (g : Nat) (f : Glade → Glade) : (s.modGlade g f).grafts = s.grafts := rfl
@[simp] theorem State.modGlade_fns (s : State) (g : Nat) (f : Glade → Glade) : (s.modGlade g f).fns = s.fns := rfl
@[simp] theorem State.modGlade_links (s : State) (g : Nat) (f : Glade → Glade) : (s.modGlade g f).links = s.links := rfl
@[simp] theorem State.modGlade_out (s : State) (g : Nat) (f : Glade → Glade) : (s.modGlade g f).out = s.out := rfl
@[simp] theorem State.modGlade_inputs (s : State) (g : Nat) (f : Glade → Glade) : (s.modGlade g f).inputs = s.inputs := rfl
@[simp] theorem State.modGlade_orphans (s : State) (g : Nat) (f : Glade → Glade) : (s.modGlade g f).orphans = s.orphans := rfl
@[simp] theorem State.modGlade_touched (s : State) (g : Nat) (f : Glade → Glade) : (s.modGlade g f).touched = s.touched := rfl
@[simp] theorem State.modGlade_agenda (s : State) (g : Nat) (f : Glade → Glade) : (s.modGlade g f).agenda = s.agenda := rfl
@[simp] theorem State.modGlade_cyc (s : State) (g : Nat) (f : Glade → Glade) : (s.modGlade g f).cyc = s.cyc := rfl
@[simp] theorem State.modGlade_focus (s : State) (g : Nat) (f : Glade → Glade) : (s.modGlade g f).focus = s.focus := rfl
@[simp] theorem State.modGlade_free (s : State) (g : Nat) (f : Glade → Glade) : (s.modGlade g f).free = s.free := rfl

@[simp] theorem State.modBough_pk (s : State) (g : Nat) (f : Bough → Bough) : (s.modBough g f).pk = s.pk := rfl
@[simp] theorem State.modBough_wall (s : State) (g : Nat) (f : Bough → Bough) : (s.modBough g f).wall = s.wall := rfl
@[simp] theorem State.modBough_mem (s : State) (g : Nat) (f : Bough → Bough) : (s.modBough g f).mem = s.mem := rfl
@[simp] theorem State.modBough_poison (s : State) (g : Nat) (f : Bough → Bough) : (s.modBough g f).poison = s.poison := rfl
@[simp] theorem State.modBough_unseen (s : State) (g : Nat) (f : Bough → Bough) : (s.modBough g f).unseen = s.unseen := rfl
@[simp] theorem State.modBough_rels (s : State) (g : Nat) (f : Bough → Bough) : (s.modBough g f).rels = s.rels := rfl
@[simp] theorem State.modBough_dies (s : State) (g : Nat) (f : Bough → Bough) : (s.modBough g f).dies = s.dies := rfl
@[simp] theorem State.modBough_clearings (s : State) (g : Nat) (f : Bough → Bough) : (s.modBough g f).clearings = s.clearings := rfl
@[simp] theorem State.modBough_jobs (s : State) (g : Nat) (f : Bough → Bough) : (s.modBough g f).jobs = s.jobs := rfl
@[simp] theorem State.modBough_grafts (s : State) (g : Nat) (f : Bough → Bough) : (s.modBough g f).grafts = s.grafts := rfl
@[simp] theorem State.modBough_fns (s : State) (g : Nat) (f : Bough → Bough) : (s.modBough g f).fns = s.fns := rfl
@[simp] theorem State.modBough_links (s : State) (g : Nat) (f : Bough → Bough) : (s.modBough g f).links = s.links := rfl
@[simp] theorem State.modBough_out (s : State) (g : Nat) (f : Bough → Bough) : (s.modBough g f).out = s.out := rfl
@[simp] theorem State.modBough_inputs (s : State) (g : Nat) (f : Bough → Bough) : (s.modBough g f).inputs = s.inputs := rfl
@[simp] theorem State.modBough_orphans (s : State) (g : Nat) (f : Bough → Bough) : (s.modBough g f).orphans = s.orphans := rfl
@[simp] theorem State.modBough_touched (s : State) (g : Nat) (f : Bough → Bough) : (s.modBough g f).touched = s.touched := rfl
@[simp] theorem State.modBough_agenda (s : State) (g : Nat) (f : Bough → Bough) : (s.modBough g f).agenda = s.agenda := rfl
@[simp] theorem State.modBough_cyc (s : State) (g : Nat) (f : Bough → Bough) : (s.modBough g f).cyc = s.cyc := rfl
@[simp] theorem State.modBough_focus (s : State) (g : Nat) (f : Bough → Bough) : (s.modBough g f).focus = s.focus := rfl
@[simp] theorem State.modBough_free (s : State) (g : Nat) (f : Bough → Bough) : (s.modBough g f).free = s.free := rfl

@[simp] theorem State.modWw_pk (s : State) (g : Nat) (f : Woodward → Woodward) : (s.modWw g f).pk = s.pk := rfl
@[simp] theorem State.modWw_wall (s : State) (g : Nat) (f : Woodward → Woodward) : (s.modWw g f).wall = s.wall := rfl
@[simp] theorem State.modWw_mem (s : State) (g : Nat) (f : Woodward → Woodward) : (s.modWw g f).mem = s.mem := rfl
@[simp] theorem State.modWw_poison (s : State) (g : Nat) (f : Woodward → Woodward) : (s.modWw g f).poison = s.poison := rfl
@[simp] theorem State.modWw_unseen (s : State) (g : Nat) (f : Woodward → Woodward) : (s.modWw g f).unseen = s.unseen := rfl
@[simp] theorem State.modWw_rels (s : State) (g : Nat) (f : Woodward → Woodward) : (s.modWw g f).rels = s.rels := rfl
@[simp] theorem State.modWw_dies (s : State) (g : Nat) (f : Woodward → Woodward) : (s.modWw g f).dies = s.dies := rfl
@[simp] theorem State.modWw_clearings (s : State) (g : Nat) (f : Woodward → Woodward) : (s.modWw g f).clearings = s.clearings := rfl
@[simp] theorem State.modWw_jobs (s : State) (g : Nat) (f : Woodward → Woodward) : (s.modWw g f).jobs = s.jobs := rfl
@[simp] theorem State.modWw_grafts (s : State) (g : Nat) (f : Woodward → Woodward) : (s.modWw g f).grafts = s.grafts := rfl
@[simp] theorem State.modWw_fns (s : State) (g : Nat) (f : Woodward → Woodward) : (s.modWw g f).fns = s.fns := rfl
@[simp] theorem State.modWw_links (s : State) (g : Nat) (f : Woodward → Woodward) : (s.modWw g f).links = s.links := rfl
@[simp] theorem State.modWw_out (s : State) (g : Nat) (f : Woodward → Woodward) : (s.modWw g f).out = s.out := rfl
@[simp] theorem State.modWw_inputs (s : State) (g : Nat) (f : Woodward → Woodward) : (s.modWw g f).inputs = s.inputs := rfl
@[simp] theorem State.modWw_orphans (s : State) (g : Nat) (f : Woodward → Woodward) : (s.modWw g f).orphans = s.orphans := rfl
@[simp] theorem State.modWw_touched (s : State) (g : Nat) (f : Woodward → Woodward) : (s.modWw g f).touched = s.touched := rfl
@[simp] theorem State.modWw_agenda (s : State) (g : Nat) (f : Woodward → Woodward) : (s.modWw g f).agenda = s.agenda := rfl
@[simp] theorem State.modWw_cyc (s : State) (g : Nat) (f : Woodward → Woodward) : (s.modWw g f).cyc = s.cyc := rfl
@[simp] theorem State.modWw_focus (s : State) (g : Nat) (f : Woodward → Woodward) : (s.modWw g f).focus = s.focus := rfl
@[simp] theorem State.modWw_free (s : State) (g : Nat) (f : Woodward → Woodward) : (s.modWw g f).free = s.free := rfl

@[simp] theorem State.modEng_pk (s : State) (g : Nat) (f : Engines → Engines) : (s.modEng g f).pk = s.pk := rfl
@[simp] theorem State.modEng_wall (s : State) (g : Nat) (f : Engines → Engines) : (s.modEng g f).wall = s.wall := rfl
@[simp] theorem State.modEng_mem (s : State) (g : Nat) (f : Engines → Engines) : (s.modEng g f).mem = s.mem := rfl
@[simp] theorem State.modEng_poison (s : State) (g : Nat) (f : Engines → Engines) : (s.modEng g f).poison = s.poison := rfl
@[simp] theorem State.modEng_unseen (s : State) (g : Nat) (f : Engines → Engines) : (s.modEng g f).unseen = s.unseen := rfl
@[simp] theorem State.modEng_rels (s : State) (g : Nat) (f : Engines → Engines) : (s.modEng g f).rels = s.rels := rfl
@[simp] theorem State.modEng_dies (s : State) (g : Nat) (f : Engines → Engines) : (s.modEng g f).dies = s.dies := rfl
@[simp] theorem State.modEng_clearings (s : State) (g : Nat) (f : Engines → Engines) : (s.modEng g f).clearings = s.clearings := rfl
@[simp] theorem State.modEng_jobs (s : State) (g : Nat) (f : Engines → Engines) : (s.modEng g f).jobs = s.jobs := rfl
@[simp] theorem State.modEng_grafts (s : State) (g : Nat) (f : Engines → Engines) : (s.modEng g f).grafts = s.grafts := rfl
@[simp] theorem State.modEng_fns (s : State) (g : Nat) (f : Engines → Engines) : (s.modEng g f).fns = s.fns := rfl
@[simp] theorem State.modEng_links (s : State) (g : Nat) (f : Engines → Engines) : (s.modEng g f).links = s.links := rfl
@[simp] theorem State.modEng_out (s : State) (g : Nat) (f : Engines → Engines) : (s.modEng g f).out = s.out := rfl
@[simp] theorem State.modEng_inputs (s : State) (g : Nat) (f : Engines → Engines) : (s.modEng g f).inputs = s.inputs := rfl
@[simp] theorem State.modEng_orphans (s : State) (g : Nat) (f : Engines → Engines) : (s.modEng g f).orphans = s.orphans := rfl
@[simp] theorem State.modEng_touched (s : State) (g : Nat) (f : Engines → Engines) : (s.modEng g f).touched = s.touched := rfl
@[simp] theorem State.modEng_agenda (s : State) (g : Nat) (f : Engines → Engines) : (s.modEng g f).agenda = s.agenda := rfl
@[simp] theorem State.modEng_cyc (s : State) (g : Nat) (f : Engines → Engines) : (s.modEng g f).cyc = s.cyc := rfl
@[simp] theorem State.modEng_focus (s : State) (g : Nat) (f : Engines → Engines) : (s.modEng g f).focus = s.focus := rfl
@[simp] theorem State.modEng_free (s : State) (g : Nat) (f : Engines → Engines) : (s.modEng g f).free = s.free := rfl

@[simp] theorem State.modTh_pk (s : State) (g : Nat) (f : Thicket → Thicket) : (s.modTh g f).pk = s.pk := rfl
@[simp] theorem State.modTh_wall (s : State) (g : Nat) (f : Thicket → Thicket) : (s.modTh g f).wall = s.wall := rfl
@[simp] theorem State.modTh_mem (s : State) (g : Nat) (f : Thicket → Thicket) : (s.modTh g f).mem = s.mem := rfl
@[simp] theorem State.modTh_poison (s : State) (g : Nat) (f : Thicket → Thicket) : (s.modTh g f).poison = s.poison := rfl
@[simp] theorem State.modTh_unseen (s : State) (g : Nat) (f : Thicket → Thicket) : (s.modTh g f).unseen = s.unseen := rfl
@[simp] theorem State.modTh_rels (s : State) (g : Nat) (f : Thicket → Thicket) : (s.modTh g f).rels = s.rels := rfl
@[simp] theorem State.modTh_dies (s : State) (g : Nat) (f : Thicket → Thicket) : (s.modTh g f).dies = s.dies := rfl
@[simp] theorem State.modTh_clearings (s : State) (g : Nat) (f : Thicket → Thicket) : (s.modTh g f).clearings = s.clearings := rfl
@[simp] theorem State.modTh_jobs (s : State) (g : Nat) (f : Thicket → Thicket) : (s.modTh g f).jobs = s.jobs := rfl
@[simp] theorem State.modTh_grafts (s : State) (g : Nat) (f : Thicket → Thicket) : (s.modTh g f).grafts = s.grafts := rfl
@[simp] theorem State.modTh_fns (s : State) (g : Nat) (f : Thicket → Thicket) : (s.modTh g f).fns = s.fns := rfl
@[simp] theorem State.modTh_links (s : State) (g : Nat) (f : Thicket → Thicket) : (s.modTh g f).links = s.links := rfl
@[simp] theorem State.modTh_out (s : State) (g : Nat) (f : Thicket → Thicket) : (s.modTh g f).out = s.out := rfl
@[simp] theorem State.modTh_inputs (s : State) (g : Nat) (f : Thicket → Thicket) : (s.modTh g f).inputs = s.inputs := rfl
@[simp] theorem State.modTh_orphans (s : State) (g : Nat) (f : Thicket → Thicket) : (s.modTh g f).orphans = s.orphans := rfl
@[simp] theorem State.modTh_touched (s : State) (g : Nat) (f : Thicket → Thicket) : (s.modTh g f).touched = s.touched := rfl
@[simp] theorem State.modTh_agenda (s : State) (g : Nat) (f : Thicket → Thicket) : (s.modTh g f).agenda = s.agenda := rfl
@[simp] theorem State.modTh_cyc (s : State) (g : Nat) (f : Thicket → Thicket) : (s.modTh g f).cyc = s.cyc := rfl
@[simp] theorem State.modTh_focus (s : State) (g : Nat) (f : Thicket → Thicket) : (s.modTh g f).focus = s.focus := rfl
@[simp] theorem State.modTh_free (s : State) (g : Nat) (f : Thicket → Thicket) : (s.modTh g f).free = s.free := rfl

@[simp] theorem State.modBlock_pk (s : State) (g : Nat) (f : Block → Block) : (s.modBlock g f).pk = s.pk := rfl
@[simp] theorem State.modBlock_wall (s : State) (g : Nat) (f : Block → Block) : (s.modBlock g f).wall = s.wall := rfl
@[simp] theorem State.modBlock_mem (s : State) (g : Nat) (f : Block → Block) : (s.modBlock g f).mem = s.mem := rfl
@[simp] theorem State.modBlock_poison (s : State) (g : Nat) (f : Block → Block) : (s.modBlock g f).poison = s.poison := rfl
@[simp] theorem State.modBlock_unseen (s : State) (g : Nat) (f : Block → Block) : (s.modBlock g f).unseen = s.unseen := rfl
@[simp] theorem State.modBlock_rels (s : State) (g : Nat) (f : Block → Block) : (s.modBlock g f).rels = s.rels := rfl
@[simp] theorem State.modBlock_dies (s : State) (g : Nat) (f : Block → Block) : (s.modBlock g f).dies = s.dies := rfl
@[simp] theorem State.modBlock_clearings (s : State) (g : Nat) (f : Block → Block) : (s.modBlock g f).clearings = s.clearings := rfl
@[simp] theorem State.modBlock_jobs (s : State) (g : Nat) (f : Block → Block) : (s.modBlock g f).jobs = s.jobs := rfl
@[simp] theorem State.modBlock_grafts (s : State) (g : Nat) (f : Block → Block) : (s.modBlock g f).grafts = s.grafts := rfl
@[simp] theorem State.modBlock_fns (s : State) (g : Nat) (f : Block → Block) : (s.modBlock g f).fns = s.fns := rfl
@[simp] theorem State.modBlock_links (s : State) (g : Nat) (f : Block → Block) : (s.modBlock g f).links = s.links := rfl
@[simp] theorem State.modBlock_out (s : State) (g : Nat) (f : Block → Block) : (s.modBlock g f).out = s.out := rfl
@[simp] theorem State.modBlock_inputs (s : State) (g : Nat) (f : Block → Block) : (s.modBlock g f).inputs = s.inputs := rfl
@[simp] theorem State.modBlock_orphans (s : State) (g : Nat) (f : Block → Block) : (s.modBlock g f).orphans = s.orphans := rfl
@[simp] theorem State.modBlock_touched (s : State) (g : Nat) (f : Block → Block) : (s.modBlock g f).touched = s.touched := rfl
@[simp] theorem State.modBlock_agenda (s : State) (g : Nat) (f : Block → Block) : (s.modBlock g f).agenda = s.agenda := rfl
@[simp] theorem State.modBlock_cyc (s : State) (g : Nat) (f : Block → Block) : (s.modBlock g f).cyc = s.cyc := rfl
@[simp] theorem State.modBlock_focus (s : State) (g : Nat) (f : Block → Block) : (s.modBlock g f).focus = s.focus := rfl
@[simp] theorem State.modBlock_free (s : State) (g : Nat) (f : Block → Block) : (s.modBlock g f).free = s.free := rfl

@[simp] theorem State.modStand_pk (s : State) (g : Nat) (f : Stand → Stand) : (s.modStand g f).pk = s.pk := rfl
@[simp] theorem State.modStand_wall (s : State) (g : Nat) (f : Stand → Stand) : (s.modStand g f).wall = s.wall := rfl
@[simp] theorem State.modStand_mem (s : State) (g : Nat) (f : Stand → Stand) : (s.modStand g f).mem = s.mem := rfl
@[simp] theorem State.modStand_poison (s : State) (g : Nat) (f : Stand → Stand) : (s.modStand g f).poison = s.poison := rfl
@[simp] theorem State.modStand_unseen (s : State) (g : Nat) (f : Stand → Stand) : (s.modStand g f).unseen = s.unseen := rfl
@[simp] theorem State.modStand_rels (s : State) (g : Nat) (f : Stand → Stand) : (s.modStand g f).rels = s.rels := rfl
@[simp] theorem State.modStand_dies (s : State) (g : Nat) (f : Stand → Stand) : (s.modStand g f).dies = s.dies := rfl
@[simp] theorem State.modStand_clearings (s : State) (g : Nat) (f : Stand → Stand) : (s.modStand g f).clearings = s.clearings := rfl
@[simp] theorem State.modStand_jobs (s : State) (g : Nat) (f : Stand → Stand) : (s.modStand g f).jobs = s.jobs := rfl
@[simp] theorem State.modStand_grafts (s : State) (g : Nat) (f : Stand → Stand) : (s.modStand g f).grafts = s.grafts := rfl
@[simp] theorem State.modStand_fns (s : State) (g : Nat) (f : Stand → Stand) : (s.modStand g f).fns = s.fns := rfl
@[simp] theorem State.modStand_links (s : State) (g : Nat) (f : Stand → Stand) : (s.modStand g f).links = s.links := rfl
@[simp] theorem State.modStand_out (s : State) (g : Nat) (f : Stand → Stand) : (s.modStand g f).out = s.out := rfl
@[simp] theorem State.modStand_inputs (s : State) (g : Nat) (f : Stand → Stand) : (s.modStand g f).inputs = s.inputs := rfl
@[simp] theorem State.modStand_orphans (s : State) (g : Nat) (f : Stand → Stand) : (s.modStand g f).orphans = s.orphans := rfl
@[simp] theorem State.modStand_touched (s : State) (g : Nat) (f : Stand → Stand) : (s.modStand g f).touched = s.touched := rfl
@[simp] theorem State.modStand_agenda (s : State) (g : Nat) (f : Stand → Stand) : (s.modStand g f).agenda = s.agenda := rfl
@[simp] theorem State.modStand_cyc (s : State) (g : Nat) (f : Stand → Stand) : (s.modStand g f).cyc = s.cyc := rfl
@[simp] theorem State.modStand_focus (s : State) (g : Nat) (f : Stand → Stand) : (s.modStand g f).focus = s.focus := rfl
@[simp] theorem State.modStand_free (s : State) (g : Nat) (f : Stand → Stand) : (s.modStand g f).free = s.free := rfl

@[simp] theorem State.perf_pk (s : State) (g e n : Nat) : (s.perf g e n).pk = s.pk := rfl
@[simp] theorem State.perf_wall (s : State) (g e n : Nat) : (s.perf g e n).wall = s.wall := rfl
@[simp] theorem State.perf_mem (s : State) (g e n : Nat) : (s.perf g e n).mem = s.mem := rfl
@[simp] theorem State.perf_poison (s : State) (g e n : Nat) : (s.perf g e n).poison = s.poison := rfl
@[simp] theorem State.perf_unseen (s : State) (g e n : Nat) : (s.perf g e n).unseen = s.unseen := rfl
@[simp] theorem State.perf_rels (s : State) (g e n : Nat) : (s.perf g e n).rels = s.rels := rfl
@[simp] theorem State.perf_dies (s : State) (g e n : Nat) : (s.perf g e n).dies = s.dies := rfl
@[simp] theorem State.perf_clearings (s : State) (g e n : Nat) : (s.perf g e n).clearings = s.clearings := rfl
@[simp] theorem State.perf_jobs (s : State) (g e n : Nat) : (s.perf g e n).jobs = s.jobs := rfl
@[simp] theorem State.perf_grafts (s : State) (g e n : Nat) : (s.perf g e n).grafts = s.grafts := rfl
@[simp] theorem State.perf_fns (s : State) (g e n : Nat) : (s.perf g e n).fns = s.fns := rfl
@[simp] theorem State.perf_links (s : State) (g e n : Nat) : (s.perf g e n).links = s.links := rfl
@[simp] theorem State.perf_out (s : State) (g e n : Nat) : (s.perf g e n).out = s.out := rfl
@[simp] theorem State.perf_inputs (s : State) (g e n : Nat) : (s.perf g e n).inputs = s.inputs := rfl
@[simp] theorem State.perf_orphans (s : State) (g e n : Nat) : (s.perf g e n).orphans = s.orphans := rfl
@[simp] theorem State.perf_touched (s : State) (g e n : Nat) : (s.perf g e n).touched = s.touched := rfl
@[simp] theorem State.perf_agenda (s : State) (g e n : Nat) : (s.perf g e n).agenda = s.agenda := rfl
@[simp] theorem State.perf_cyc (s : State) (g e n : Nat) : (s.perf g e n).cyc = s.cyc := rfl
@[simp] theorem State.perf_focus (s : State) (g e n : Nat) : (s.perf g e n).focus = s.focus := rfl
@[simp] theorem State.perf_free (s : State) (g e n : Nat) : (s.perf g e n).free = s.free := rfl

@[simp] theorem State.modDie_pk (s : State) (d : Nat) (f : Die → Die) : (s.modDie d f).pk = s.pk := rfl
@[simp] theorem State.modDie_wall (s : State) (d : Nat) (f : Die → Die) : (s.modDie d f).wall = s.wall := rfl
@[simp] theorem State.modDie_mem (s : State) (d : Nat) (f : Die → Die) : (s.modDie d f).mem = s.mem := rfl
@[simp] theorem State.modDie_poison (s : State) (d : Nat) (f : Die → Die) : (s.modDie d f).poison = s.poison := rfl
@[simp] theorem State.modDie_unseen (s : State) (d : Nat) (f : Die → Die) : (s.modDie d f).unseen = s.unseen := rfl
@[simp] theorem State.modDie_rels (s : State) (d : Nat) (f : Die → Die) : (s.modDie d f).rels = s.rels := rfl
@[simp] theorem State.modDie_glades (s : State) (d : Nat) (f : Die → Die) : (s.modDie d f).glades = s.glades := rfl
@[simp] theorem State.modDie_clearings (s : State) (d : Nat) (f : Die → Die) : (s.modDie d f).clearings = s.clearings := rfl
@[simp] theorem State.modDie_jobs (s : State) (d : Nat) (f : Die → Die) : (s.modDie d f).jobs = s.jobs := rfl
@[simp] theorem State.modDie_grafts (s : State) (d : Nat) (f : Die → Die) : (s.modDie d f).grafts = s.grafts := rfl
@[simp] theorem State.modDie_fns (s : State) (d : Nat) (f : Die → Die) : (s.modDie d f).fns = s.fns := rfl
@[simp] theorem State.modDie_links (s : State) (d : Nat) (f : Die → Die) : (s.modDie d f).links = s.links := rfl
@[simp] theorem State.modDie_out (s : State) (d : Nat) (f : Die → Die) : (s.modDie d f).out = s.out := rfl
@[simp] theorem State.modDie_inputs (s : State) (d : Nat) (f : Die → Die) : (s.modDie d f).inputs = s.inputs := rfl
@[simp] theorem State.modDie_orphans (s : State) (d : Nat) (f : Die → Die) : (s.modDie d f).orphans = s.orphans := rfl
@[simp] theorem State.modDie_touched (s : State) (d : Nat) (f : Die → Die) : (s.modDie d f).touched = s.touched := rfl
@[simp] theorem State.modDie_agenda (s : State) (d : Nat) (f : Die → Die) : (s.modDie d f).agenda = s.agenda := rfl
@[simp] theorem State.modDie_cyc (s : State) (d : Nat) (f : Die → Die) : (s.modDie d f).cyc = s.cyc := rfl
@[simp] theorem State.modDie_focus (s : State) (d : Nat) (f : Die → Die) : (s.modDie d f).focus = s.focus := rfl
@[simp] theorem State.modDie_free (s : State) (d : Nat) (f : Die → Die) : (s.modDie d f).free = s.free := rfl

@[simp] theorem State.modLaunch_pk (s : State) (d l : Nat) (f : Launch → Launch) : (s.modLaunch d l f).pk = s.pk := rfl
@[simp] theorem State.modLaunch_wall (s : State) (d l : Nat) (f : Launch → Launch) : (s.modLaunch d l f).wall = s.wall := rfl
@[simp] theorem State.modLaunch_mem (s : State) (d l : Nat) (f : Launch → Launch) : (s.modLaunch d l f).mem = s.mem := rfl
@[simp] theorem State.modLaunch_poison (s : State) (d l : Nat) (f : Launch → Launch) : (s.modLaunch d l f).poison = s.poison := rfl
@[simp] theorem State.modLaunch_unseen (s : State) (d l : Nat) (f : Launch → Launch) : (s.modLaunch d l f).unseen = s.unseen := rfl
@[simp] theorem State.modLaunch_rels (s : State) (d l : Nat) (f : Launch → Launch) : (s.modLaunch d l f).rels = s.rels := rfl
@[simp] theorem State.modLaunch_glades (s : State) (d l : Nat) (f : Launch → Launch) : (s.modLaunch d l f).glades = s.glades := rfl
@[simp] theorem State.modLaunch_clearings (s : State) (d l : Nat) (f : Launch → Launch) : (s.modLaunch d l f).clearings = s.clearings := rfl
@[simp] theorem State.modLaunch_jobs (s : State) (d l : Nat) (f : Launch → Launch) : (s.modLaunch d l f).jobs = s.jobs := rfl
@[simp] theorem State.modLaunch_grafts (s : State) (d l : Nat) (f : Launch → Launch) : (s.modLaunch d l f).grafts = s.grafts := rfl
@[simp] theorem State.modLaunch_fns (s : State) (d l : Nat) (f : Launch → Launch) : (s.modLaunch d l f).fns = s.fns := rfl
@[simp] theorem State.modLaunch_links (s : State) (d l : Nat) (f : Launch → Launch) : (s.modLaunch d l f).links = s.links := rfl
@[simp] theorem State.modLaunch_out (s : State) (d l : Nat) (f : Launch → Launch) : (s.modLaunch d l f).out = s.out := rfl
@[simp] theorem State.modLaunch_inputs (s : State) (d l : Nat) (f : Launch → Launch) : (s.modLaunch d l f).inputs = s.inputs := rfl
@[simp] theorem State.modLaunch_orphans (s : State) (d l : Nat) (f : Launch → Launch) : (s.modLaunch d l f).orphans = s.orphans := rfl
@[simp] theorem State.modLaunch_touched (s : State) (d l : Nat) (f : Launch → Launch) : (s.modLaunch d l f).touched = s.touched := rfl
@[simp] theorem State.modLaunch_agenda (s : State) (d l : Nat) (f : Launch → Launch) : (s.modLaunch d l f).agenda = s.agenda := rfl
@[simp] theorem State.modLaunch_cyc (s : State) (d l : Nat) (f : Launch → Launch) : (s.modLaunch d l f).cyc = s.cyc := rfl
@[simp] theorem State.modLaunch_focus (s : State) (d l : Nat) (f : Launch → Launch) : (s.modLaunch d l f).focus = s.focus := rfl
@[simp] theorem State.modLaunch_free (s : State) (d l : Nat) (f : Launch → Launch) : (s.modLaunch d l f).free = s.free := rfl

@[simp] theorem State.modSeed_pk (s : State) (d k : Nat) (f : Seed → Seed) : (s.modSeed d k f).pk = s.pk := rfl
@[simp] theorem State.modSeed_wall (s : State) (d k : Nat) (f : Seed → Seed) : (s.modSeed d k f).wall = s.wall := rfl
@[simp] theorem State.modSeed_mem (s : State) (d k : Nat) (f : Seed → Seed) : (s.modSeed d k f).mem = s.mem := rfl
@[simp] theorem State.modSeed_poison (s : State) (d k : Nat) (f : Seed → Seed) : (s.modSeed d k f).poison = s.poison := rfl
@[simp] theorem State.modSeed_unseen (s : State) (d k : Nat) (f : Seed → Seed) : (s.modSeed d k f).unseen = s.unseen := rfl
@[simp] theorem State.modSeed_rels (s : State) (d k : Nat) (f : Seed → Seed) : (s.modSeed d k f).rels = s.rels := rfl
@[simp] theorem State.modSeed_glades (s : State) (d k : Nat) (f : Seed → Seed) : (s.modSeed d k f).glades = s.glades := rfl
@[simp] theorem State.modSeed_clearings (s : State) (d k : Nat) (f : Seed → Seed) : (s.modSeed d k f).clearings = s.clearings := rfl
@[simp] theorem State.modSeed_jobs (s : State) (d k : Nat) (f : Seed → Seed) : (s.modSeed d k f).jobs = s.jobs := rfl
@[simp] theorem State.modSeed_grafts (s : State) (d k : Nat) (f : Seed → Seed) : (s.modSeed d k f).grafts = s.grafts := rfl
@[simp] theorem State.modSeed_fns (s : State) (d k : Nat) (f : Seed → Seed) : (s.modSeed d k f).fns = s.fns := rfl
@[simp] theorem State.modSeed_links (s : State) (d k : Nat) (f : Seed → Seed) : (s.modSeed d k f).links = s.links := rfl
@[simp] theorem State.modSeed_out (s : State) (d k : Nat) (f : Seed → Seed) : (s.modSeed d k f).out = s.out := rfl
@[simp] theorem State.modSeed_inputs (s : State) (d k : Nat) (f : Seed → Seed) : (s.modSeed d k f).inputs = s.inputs := rfl
@[simp] theorem State.modSeed_orphans (s : State) (d k : Nat) (f : Seed → Seed) : (s.modSeed d k f).orphans = s.orphans := rfl
@[simp] theorem State.modSeed_touched (s : State) (d k : Nat) (f : Seed → Seed) : (s.modSeed d k f).touched = s.touched := rfl
@[simp] theorem State.modSeed_agenda (s : State) (d k : Nat) (f : Seed → Seed) : (s.modSeed d k f).agenda = s.agenda := rfl
@[simp] theorem State.modSeed_cyc (s : State) (d k : Nat) (f : Seed → Seed) : (s.modSeed d k f).cyc = s.cyc := rfl
@[simp] theorem State.modSeed_focus (s : State) (d k : Nat) (f : Seed → Seed) : (s.modSeed d k f).focus = s.focus := rfl
@[simp] theorem State.modSeed_free (s : State) (d k : Nat) (f : Seed → Seed) : (s.modSeed d k f).free = s.free := rfl

@[simp] theorem State.modJob_pk (s : State) (c : Nat) (f : Job → Job) : (s.modJob c f).pk = s.pk := rfl
@[simp] theorem State.modJob_wall (s : State) (c : Nat) (f : Job → Job) : (s.modJob c f).wall = s.wall := rfl
@[simp] theorem State.modJob_mem (s : State) (c : Nat) (f : Job → Job) : (s.modJob c f).mem = s.mem := rfl
@[simp] theorem State.modJob_poison (s : State) (c : Nat) (f : Job → Job) : (s.modJob c f).poison = s.poison := rfl
@[simp] theorem State.modJob_unseen (s : State) (c : Nat) (f : Job → Job) : (s.modJob c f).unseen = s.unseen := rfl
@[simp] theorem State.modJob_rels (s : State) (c : Nat) (f : Job → Job) : (s.modJob c f).rels = s.rels := rfl
@[simp] theorem State.modJob_glades (s : State) (c : Nat) (f : Job → Job) : (s.modJob c f).glades = s.glades := rfl
@[simp] theorem State.modJob_dies (s : State) (c : Nat) (f : Job → Job) : (s.modJob c f).dies = s.dies := rfl
@[simp] theorem State.modJob_clearings (s : State) (c : Nat) (f : Job → Job) : (s.modJob c f).clearings = s.clearings := rfl
@[simp] theorem State.modJob_grafts (s : State) (c : Nat) (f : Job → Job) : (s.modJob c f).grafts = s.grafts := rfl
@[simp] theorem State.modJob_fns (s : State) (c : Nat) (f : Job → Job) : (s.modJob c f).fns = s.fns := rfl
@[simp] theorem State.modJob_links (s : State) (c : Nat) (f : Job → Job) : (s.modJob c f).links = s.links := rfl
@[simp] theorem State.modJob_out (s : State) (c : Nat) (f : Job → Job) : (s.modJob c f).out = s.out := rfl
@[simp] theorem State.modJob_inputs (s : State) (c : Nat) (f : Job → Job) : (s.modJob c f).inputs = s.inputs := rfl
@[simp] theorem State.modJob_orphans (s : State) (c : Nat) (f : Job → Job) : (s.modJob c f).orphans = s.orphans := rfl
@[simp] theorem State.modJob_touched (s : State) (c : Nat) (f : Job → Job) : (s.modJob c f).touched = s.touched := rfl
@[simp] theorem State.modJob_agenda (s : State) (c : Nat) (f : Job → Job) : (s.modJob c f).agenda = s.agenda := rfl
@[simp] theorem State.modJob_cyc (s : State) (c : Nat) (f : Job → Job) : (s.modJob c f).cyc = s.cyc := rfl
@[simp] theorem State.modJob_focus (s : State) (c : Nat) (f : Job → Job) : (s.modJob c f).focus = s.focus := rfl
@[simp] theorem State.modJob_free (s : State) (c : Nat) (f : Job → Job) : (s.modJob c f).free = s.free := rfl

@[simp] theorem State.usage_pk (s : State) (c i n : Nat) : (s.usage c i n).pk = s.pk := rfl
@[simp] theorem State.usage_wall (s : State) (c i n : Nat) : (s.usage c i n).wall = s.wall := rfl
@[simp] theorem State.usage_mem (s : State) (c i n : Nat) : (s.usage c i n).mem = s.mem := rfl
@[simp] theorem State.usage_poison (s : State) (c i n : Nat) : (s.usage c i n).poison = s.poison := rfl
@[simp] theorem State.usage_unseen (s : State) (c i n : Nat) : (s.usage c i n).unseen = s.unseen := rfl
@[simp] theorem State.usage_rels (s : State) (c i n : Nat) : (s.usage c i n).rels = s.rels := rfl
@[simp] theorem State.usage_glades (s : State) (c i n : Nat) : (s.usage c i n).glades = s.glades := rfl
@[simp] theorem State.usage_dies (s : State) (c i n : Nat) : (s.usage c i n).dies = s.dies := rfl
@[simp] theorem State.usage_clearings (s : State) (c i n : Nat) : (s.usage c i n).clearings = s.clearings := rfl
@[simp] theorem State.usage_grafts (s : State) (c i n : Nat) : (s.usage c i n).grafts = s.grafts := rfl
@[simp] theorem State.usage_fns (s : State) (c i n : Nat) : (s.usage c i n).fns = s.fns := rfl
@[simp] theorem State.usage_links (s : State) (c i n : Nat) : (s.usage c i n).links = s.links := rfl
@[simp] theorem State.usage_out (s : State) (c i n : Nat) : (s.usage c i n).out = s.out := rfl
@[simp] theorem State.usage_inputs (s : State) (c i n : Nat) : (s.usage c i n).inputs = s.inputs := rfl
@[simp] theorem State.usage_orphans (s : State) (c i n : Nat) : (s.usage c i n).orphans = s.orphans := rfl
@[simp] theorem State.usage_touched (s : State) (c i n : Nat) : (s.usage c i n).touched = s.touched := rfl
@[simp] theorem State.usage_agenda (s : State) (c i n : Nat) : (s.usage c i n).agenda = s.agenda := rfl
@[simp] theorem State.usage_cyc (s : State) (c i n : Nat) : (s.usage c i n).cyc = s.cyc := rfl
@[simp] theorem State.usage_focus (s : State) (c i n : Nat) : (s.usage c i n).focus = s.focus := rfl
@[simp] theorem State.usage_free (s : State) (c i n : Nat) : (s.usage c i n).free = s.free := rfl

@[simp] theorem State.modFn_pk (s : State) (n : Nat) (f : Fn → Fn) : (s.modFn n f).pk = s.pk := rfl
@[simp] theorem State.modFn_wall (s : State) (n : Nat) (f : Fn → Fn) : (s.modFn n f).wall = s.wall := rfl
@[simp] theorem State.modFn_mem (s : State) (n : Nat) (f : Fn → Fn) : (s.modFn n f).mem = s.mem := rfl
@[simp] theorem State.modFn_poison (s : State) (n : Nat) (f : Fn → Fn) : (s.modFn n f).poison = s.poison := rfl
@[simp] theorem State.modFn_unseen (s : State) (n : Nat) (f : Fn → Fn) : (s.modFn n f).unseen = s.unseen := rfl
@[simp] theorem State.modFn_rels (s : State) (n : Nat) (f : Fn → Fn) : (s.modFn n f).rels = s.rels := rfl
@[simp] theorem State.modFn_glades (s : State) (n : Nat) (f : Fn → Fn) : (s.modFn n f).glades = s.glades := rfl
@[simp] theorem State.modFn_dies (s : State) (n : Nat) (f : Fn → Fn) : (s.modFn n f).dies = s.dies := rfl
@[simp] theorem State.modFn_clearings (s : State) (n : Nat) (f : Fn → Fn) : (s.modFn n f).clearings = s.clearings := rfl
@[simp] theorem State.modFn_jobs (s : State) (n : Nat) (f : Fn → Fn) : (s.modFn n f).jobs = s.jobs := rfl
@[simp] theorem State.modFn_grafts (s : State) (n : Nat) (f : Fn → Fn) : (s.modFn n f).grafts = s.grafts := rfl
@[simp] theorem State.modFn_links (s : State) (n : Nat) (f : Fn → Fn) : (s.modFn n f).links = s.links := rfl
@[simp] theorem State.modFn_out (s : State) (n : Nat) (f : Fn → Fn) : (s.modFn n f).out = s.out := rfl
@[simp] theorem State.modFn_inputs (s : State) (n : Nat) (f : Fn → Fn) : (s.modFn n f).inputs = s.inputs := rfl
@[simp] theorem State.modFn_orphans (s : State) (n : Nat) (f : Fn → Fn) : (s.modFn n f).orphans = s.orphans := rfl
@[simp] theorem State.modFn_touched (s : State) (n : Nat) (f : Fn → Fn) : (s.modFn n f).touched = s.touched := rfl
@[simp] theorem State.modFn_agenda (s : State) (n : Nat) (f : Fn → Fn) : (s.modFn n f).agenda = s.agenda := rfl
@[simp] theorem State.modFn_cyc (s : State) (n : Nat) (f : Fn → Fn) : (s.modFn n f).cyc = s.cyc := rfl
@[simp] theorem State.modFn_focus (s : State) (n : Nat) (f : Fn → Fn) : (s.modFn n f).focus = s.focus := rfl
@[simp] theorem State.modFn_free (s : State) (n : Nat) (f : Fn → Fn) : (s.modFn n f).free = s.free := rfl

@[simp] theorem State.modLink_pk (s : State) (l : Nat) (f : Link → Link) : (s.modLink l f).pk = s.pk := rfl
@[simp] theorem State.modLink_wall (s : State) (l : Nat) (f : Link → Link) : (s.modLink l f).wall = s.wall := rfl
@[simp] theorem State.modLink_mem (s : State) (l : Nat) (f : Link → Link) : (s.modLink l f).mem = s.mem := rfl
@[simp] theorem State.modLink_poison (s : State) (l : Nat) (f : Link → Link) : (s.modLink l f).poison = s.poison := rfl
@[simp] theorem State.modLink_unseen (s : State) (l : Nat) (f : Link → Link) : (s.modLink l f).unseen = s.unseen := rfl
@[simp] theorem State.modLink_rels (s : State) (l : Nat) (f : Link → Link) : (s.modLink l f).rels = s.rels := rfl
@[simp] theorem State.modLink_glades (s : State) (l : Nat) (f : Link → Link) : (s.modLink l f).glades = s.glades := rfl
@[simp] theorem State.modLink_dies (s : State) (l : Nat) (f : Link → Link) : (s.modLink l f).dies = s.dies := rfl
@[simp] theorem State.modLink_clearings (s : State) (l : Nat) (f : Link → Link) : (s.modLink l f).clearings = s.clearings := rfl
@[simp] theorem State.modLink_jobs (s : State) (l : Nat) (f : Link → Link) : (s.modLink l f).jobs = s.jobs := rfl
@[simp] theorem State.modLink_grafts (s : State) (l : Nat) (f : Link → Link) : (s.modLink l f).grafts = s.grafts := rfl
@[simp] theorem State.modLink_fns (s : State) (l : Nat) (f : Link → Link) : (s.modLink l f).fns = s.fns := rfl
@[simp] theorem State.modLink_out (s : State) (l : Nat) (f : Link → Link) : (s.modLink l f).out = s.out := rfl
@[simp] theorem State.modLink_inputs (s : State) (l : Nat) (f : Link → Link) : (s.modLink l f).inputs = s.inputs := rfl
@[simp] theorem State.modLink_orphans (s : State) (l : Nat) (f : Link → Link) : (s.modLink l f).orphans = s.orphans := rfl
@[simp] theorem State.modLink_touched (s : State) (l : Nat) (f : Link → Link) : (s.modLink l f).touched = s.touched := rfl
@[simp] theorem State.modLink_agenda (s : State) (l : Nat) (f : Link → Link) : (s.modLink l f).agenda = s.agenda := rfl
@[simp] theorem State.modLink_cyc (s : State) (l : Nat) (f : Link → Link) : (s.modLink l f).cyc = s.cyc := rfl
@[simp] theorem State.modLink_focus (s : State) (l : Nat) (f : Link → Link) : (s.modLink l f).focus = s.focus := rfl
@[simp] theorem State.modLink_free (s : State) (l : Nat) (f : Link → Link) : (s.modLink l f).free = s.free := rfl

@[simp] theorem State.modClearing_pk (s : State) (c : Nat) (f : Clearing → Clearing) : (s.modClearing c f).pk = s.pk := rfl
@[simp] theorem State.modClearing_wall (s : State) (c : Nat) (f : Clearing → Clearing) : (s.modClearing c f).wall = s.wall := rfl
@[simp] theorem State.modClearing_mem (s : State) (c : Nat) (f : Clearing → Clearing) : (s.modClearing c f).mem = s.mem := rfl
@[simp] theorem State.modClearing_poison (s : State) (c : Nat) (f : Clearing → Clearing) : (s.modClearing c f).poison = s.poison := rfl
@[simp] theorem State.modClearing_unseen (s : State) (c : Nat) (f : Clearing → Clearing) : (s.modClearing c f).unseen = s.unseen := rfl
@[simp] theorem State.modClearing_rels (s : State) (c : Nat) (f : Clearing → Clearing) : (s.modClearing c f).rels = s.rels := rfl
@[simp] theorem State.modClearing_glades (s : State) (c : Nat) (f : Clearing → Clearing) : (s.modClearing c f).glades = s.glades := rfl
@[simp] theorem State.modClearing_dies (s : State) (c : Nat) (f : Clearing → Clearing) : (s.modClearing c f).dies = s.dies := rfl
@[simp] theorem State.modClearing_jobs (s : State) (c : Nat) (f : Clearing → Clearing) : (s.modClearing c f).jobs = s.jobs := rfl
@[simp] theorem State.modClearing_grafts (s : State) (c : Nat) (f : Clearing → Clearing) : (s.modClearing c f).grafts = s.grafts := rfl
@[simp] theorem State.modClearing_fns (s : State) (c : Nat) (f : Clearing → Clearing) : (s.modClearing c f).fns = s.fns := rfl
@[simp] theorem State.modClearing_links (s : State) (c : Nat) (f : Clearing → Clearing) : (s.modClearing c f).links = s.links := rfl
@[simp] theorem State.modClearing_out (s : State) (c : Nat) (f : Clearing → Clearing) : (s.modClearing c f).out = s.out := rfl
@[simp] theorem State.modClearing_inputs (s : State) (c : Nat) (f : Clearing → Clearing) : (s.modClearing c f).inputs = s.inputs := rfl
@[simp] theorem State.modClearing_orphans (s : State) (c : Nat) (f : Clearing → Clearing) : (s.modClearing c f).orphans = s.orphans := rfl
@[simp] theorem State.modClearing_touched (s : State) (c : Nat) (f : Clearing → Clearing) : (s.modClearing c f).touched = s.touched := rfl
@[simp] theorem State.modClearing_agenda (s : State) (c : Nat) (f : Clearing → Clearing) : (s.modClearing c f).agenda = s.agenda := rfl
@[simp] theorem State.modClearing_cyc (s : State) (c : Nat) (f : Clearing → Clearing) : (s.modClearing c f).cyc = s.cyc := rfl
@[simp] theorem State.modClearing_focus (s : State) (c : Nat) (f : Clearing → Clearing) : (s.modClearing c f).focus = s.focus := rfl
@[simp] theorem State.modClearing_free (s : State) (c : Nat) (f : Clearing → Clearing) : (s.modClearing c f).free = s.free := rfl

@[simp] theorem State.modGraft_pk (s : State) (e : Nat) (f : Graft → Graft) : (s.modGraft e f).pk = s.pk := rfl
@[simp] theorem State.modGraft_wall (s : State) (e : Nat) (f : Graft → Graft) : (s.modGraft e f).wall = s.wall := rfl
@[simp] theorem State.modGraft_mem (s : State) (e : Nat) (f : Graft → Graft) : (s.modGraft e f).mem = s.mem := rfl
@[simp] theorem State.modGraft_poison (s : State) (e : Nat) (f : Graft → Graft) : (s.modGraft e f).poison = s.poison := rfl
@[simp] theorem State.modGraft_unseen (s : State) (e : Nat) (f : Graft → Graft) : (s.modGraft e f).unseen = s.unseen := rfl
@[simp] theorem State.modGraft_rels (s : State) (e : Nat) (f : Graft → Graft) : (s.modGraft e f).rels = s.rels := rfl
@[simp] theorem State.modGraft_glades (s : State) (e : Nat) (f : Graft → Graft) : (s.modGraft e f).glades = s.glades := rfl
@[simp] theorem State.modGraft_dies (s : State) (e : Nat) (f : Graft → Graft) : (s.modGraft e f).dies = s.dies := rfl
@[simp] theorem State.modGraft_clearings (s : State) (e : Nat) (f : Graft → Graft) : (s.modGraft e f).clearings = s.clearings := rfl
@[simp] theorem State.modGraft_jobs (s : State) (e : Nat) (f : Graft → Graft) : (s.modGraft e f).jobs = s.jobs := rfl
@[simp] theorem State.modGraft_fns (s : State) (e : Nat) (f : Graft → Graft) : (s.modGraft e f).fns = s.fns := rfl
@[simp] theorem State.modGraft_links (s : State) (e : Nat) (f : Graft → Graft) : (s.modGraft e f).links = s.links := rfl
@[simp] theorem State.modGraft_out (s : State) (e : Nat) (f : Graft → Graft) : (s.modGraft e f).out = s.out := rfl
@[simp] theorem State.modGraft_inputs (s : State) (e : Nat) (f : Graft → Graft) : (s.modGraft e f).inputs = s.inputs := rfl
@[simp] theorem State.modGraft_orphans (s : State) (e : Nat) (f : Graft → Graft) : (s.modGraft e f).orphans = s.orphans := rfl
@[simp] theorem State.modGraft_touched (s : State) (e : Nat) (f : Graft → Graft) : (s.modGraft e f).touched = s.touched := rfl
@[simp] theorem State.modGraft_agenda (s : State) (e : Nat) (f : Graft → Graft) : (s.modGraft e f).agenda = s.agenda := rfl
@[simp] theorem State.modGraft_cyc (s : State) (e : Nat) (f : Graft → Graft) : (s.modGraft e f).cyc = s.cyc := rfl
@[simp] theorem State.modGraft_focus (s : State) (e : Nat) (f : Graft → Graft) : (s.modGraft e f).focus = s.focus := rfl
@[simp] theorem State.modGraft_free (s : State) (e : Nat) (f : Graft → Graft) : (s.modGraft e f).free = s.free := rfl

@[simp] theorem State.emit_pk (s : State) (o : Out) : (s.emit o).pk = s.pk := rfl
@[simp] theorem State.emit_wall (s : State) (o : Out) : (s.emit o).wall = s.wall := rfl
@[simp] theorem State.emit_mem (s : State) (o : Out) : (s.emit o).mem = s.mem := rfl
@[simp] theorem State.emit_poison (s : State) (o : Out) : (s.emit o).poison = s.poison := rfl
@[simp] theorem State.emit_unseen (s : State) (o : Out) : (s.emit o).unseen = s.unseen := rfl
@[simp] theorem State.emit_rels (s : State) (o : Out) : (s.emit o).rels = s.rels := rfl
@[simp] theorem State.emit_glades (s : State) (o : Out) : (s.emit o).glades = s.glades := rfl
@[simp] theorem State.emit_dies (s : State) (o : Out) : (s.emit o).dies = s.dies := rfl
@[simp] theorem State.emit_clearings (s : State) (o : Out) : (s.emit o).clearings = s.clearings := rfl
@[simp] theorem State.emit_jobs (s : State) (o : Out) : (s.emit o).jobs = s.jobs := rfl
@[simp] theorem State.emit_grafts (s : State) (o : Out) : (s.emit o).grafts = s.grafts := rfl
@[simp] theorem State.emit_fns (s : State) (o : Out) : (s.emit o).fns = s.fns := rfl
@[simp] theorem State.emit_links (s : State) (o : Out) : (s.emit o).links = s.links := rfl
@[simp] theorem State.emit_inputs (s : State) (o : Out) : (s.emit o).inputs = s.inputs := rfl
@[simp] theorem State.emit_orphans (s : State) (o : Out) : (s.emit o).orphans = s.orphans := rfl
@[simp] theorem State.emit_touched (s : State) (o : Out) : (s.emit o).touched = s.touched := rfl
@[simp] theorem State.emit_agenda (s : State) (o : Out) : (s.emit o).agenda = s.agenda := rfl
@[simp] theorem State.emit_cyc (s : State) (o : Out) : (s.emit o).cyc = s.cyc := rfl
@[simp] theorem State.emit_focus (s : State) (o : Out) : (s.emit o).focus = s.focus := rfl
@[simp] theorem State.emit_free (s : State) (o : Out) : (s.emit o).free = s.free := rfl

@[simp] theorem State.drawn_pk (s : State) : s.drawn.pk = s.pk := rfl
@[simp] theorem State.drawn_wall (s : State) : s.drawn.wall = s.wall := rfl
@[simp] theorem State.drawn_mem (s : State) : s.drawn.mem = s.mem := rfl
@[simp] theorem State.drawn_poison (s : State) : s.drawn.poison = s.poison := rfl
@[simp] theorem State.drawn_unseen (s : State) : s.drawn.unseen = s.unseen := rfl
@[simp] theorem State.drawn_rels (s : State) : s.drawn.rels = s.rels := rfl
@[simp] theorem State.drawn_glades (s : State) : s.drawn.glades = s.glades := rfl
@[simp] theorem State.drawn_dies (s : State) : s.drawn.dies = s.dies := rfl
@[simp] theorem State.drawn_clearings (s : State) : s.drawn.clearings = s.clearings := rfl
@[simp] theorem State.drawn_jobs (s : State) : s.drawn.jobs = s.jobs := rfl
@[simp] theorem State.drawn_grafts (s : State) : s.drawn.grafts = s.grafts := rfl
@[simp] theorem State.drawn_fns (s : State) : s.drawn.fns = s.fns := rfl
@[simp] theorem State.drawn_links (s : State) : s.drawn.links = s.links := rfl
@[simp] theorem State.drawn_out (s : State) : s.drawn.out = s.out := rfl
@[simp] theorem State.drawn_inputs (s : State) : s.drawn.inputs = s.inputs := rfl
@[simp] theorem State.drawn_orphans (s : State) : s.drawn.orphans = s.orphans := rfl
@[simp] theorem State.drawn_touched (s : State) : s.drawn.touched = s.touched := rfl
@[simp] theorem State.drawn_agenda (s : State) : s.drawn.agenda = s.agenda := rfl
@[simp] theorem State.drawn_cyc (s : State) : s.drawn.cyc = s.cyc := rfl
@[simp] theorem State.drawn_focus (s : State) : s.drawn.focus = s.focus := rfl

@[simp] theorem State.life_wall (s : State) (i k n : Nat) : (s.life i k n).wall = s.wall := rfl
@[simp] theorem State.life_mem (s : State) (i k n : Nat) : (s.life i k n).mem = s.mem := rfl
@[simp] theorem State.life_poison (s : State) (i k n : Nat) : (s.life i k n).poison = s.poison := rfl
@[simp] theorem State.life_unseen (s : State) (i k n : Nat) : (s.life i k n).unseen = s.unseen := rfl
@[simp] theorem State.life_rels (s : State) (i k n : Nat) : (s.life i k n).rels = s.rels := rfl
@[simp] theorem State.life_glades (s : State) (i k n : Nat) : (s.life i k n).glades = s.glades := rfl
@[simp] theorem State.life_dies (s : State) (i k n : Nat) : (s.life i k n).dies = s.dies := rfl
@[simp] theorem State.life_clearings (s : State) (i k n : Nat) : (s.life i k n).clearings = s.clearings := rfl
@[simp] theorem State.life_jobs (s : State) (i k n : Nat) : (s.life i k n).jobs = s.jobs := rfl
@[simp] theorem State.life_grafts (s : State) (i k n : Nat) : (s.life i k n).grafts = s.grafts := rfl
@[simp] theorem State.life_fns (s : State) (i k n : Nat) : (s.life i k n).fns = s.fns := rfl
@[simp] theorem State.life_links (s : State) (i k n : Nat) : (s.life i k n).links = s.links := rfl
@[simp] theorem State.life_out (s : State) (i k n : Nat) : (s.life i k n).out = s.out := rfl
@[simp] theorem State.life_inputs (s : State) (i k n : Nat) : (s.life i k n).inputs = s.inputs := rfl
@[simp] theorem State.life_orphans (s : State) (i k n : Nat) : (s.life i k n).orphans = s.orphans := rfl
@[simp] theorem State.life_touched (s : State) (i k n : Nat) : (s.life i k n).touched = s.touched := rfl
@[simp] theorem State.life_agenda (s : State) (i k n : Nat) : (s.life i k n).agenda = s.agenda := rfl
@[simp] theorem State.life_cyc (s : State) (i k n : Nat) : (s.life i k n).cyc = s.cyc := rfl
@[simp] theorem State.life_focus (s : State) (i k n : Nat) : (s.life i k n).focus = s.focus := rfl
@[simp] theorem State.life_free (s : State) (i k n : Nat) : (s.life i k n).free = s.free := rfl

@[simp] theorem State.sendFlit_pk (s : State) (l k : Nat) (p : List Byte) : (s.sendFlit l k p).pk = s.pk := by unfold State.sendFlit State.transmit; dsimp only; split <;> rfl
@[simp] theorem State.sendFlit_wall (s : State) (l k : Nat) (p : List Byte) : (s.sendFlit l k p).wall = s.wall := by unfold State.sendFlit State.transmit; dsimp only; split <;> rfl
@[simp] theorem State.sendFlit_mem (s : State) (l k : Nat) (p : List Byte) : (s.sendFlit l k p).mem = s.mem := by unfold State.sendFlit State.transmit; dsimp only; split <;> rfl
@[simp] theorem State.sendFlit_poison (s : State) (l k : Nat) (p : List Byte) : (s.sendFlit l k p).poison = s.poison := by unfold State.sendFlit State.transmit; dsimp only; split <;> rfl
@[simp] theorem State.sendFlit_unseen (s : State) (l k : Nat) (p : List Byte) : (s.sendFlit l k p).unseen = s.unseen := by unfold State.sendFlit State.transmit; dsimp only; split <;> rfl
@[simp] theorem State.sendFlit_rels (s : State) (l k : Nat) (p : List Byte) : (s.sendFlit l k p).rels = s.rels := by unfold State.sendFlit State.transmit; dsimp only; split <;> rfl
@[simp] theorem State.sendFlit_glades (s : State) (l k : Nat) (p : List Byte) : (s.sendFlit l k p).glades = s.glades := by unfold State.sendFlit State.transmit; dsimp only; split <;> rfl
@[simp] theorem State.sendFlit_dies (s : State) (l k : Nat) (p : List Byte) : (s.sendFlit l k p).dies = s.dies := by unfold State.sendFlit State.transmit; dsimp only; split <;> rfl
@[simp] theorem State.sendFlit_clearings (s : State) (l k : Nat) (p : List Byte) : (s.sendFlit l k p).clearings = s.clearings := by unfold State.sendFlit State.transmit; dsimp only; split <;> rfl
@[simp] theorem State.sendFlit_jobs (s : State) (l k : Nat) (p : List Byte) : (s.sendFlit l k p).jobs = s.jobs := by unfold State.sendFlit State.transmit; dsimp only; split <;> rfl
@[simp] theorem State.sendFlit_grafts (s : State) (l k : Nat) (p : List Byte) : (s.sendFlit l k p).grafts = s.grafts := by unfold State.sendFlit State.transmit; dsimp only; split <;> rfl
@[simp] theorem State.sendFlit_fns (s : State) (l k : Nat) (p : List Byte) : (s.sendFlit l k p).fns = s.fns := by unfold State.sendFlit State.transmit; dsimp only; split <;> rfl
@[simp] theorem State.sendFlit_inputs (s : State) (l k : Nat) (p : List Byte) : (s.sendFlit l k p).inputs = s.inputs := by unfold State.sendFlit State.transmit; dsimp only; split <;> rfl
@[simp] theorem State.sendFlit_orphans (s : State) (l k : Nat) (p : List Byte) : (s.sendFlit l k p).orphans = s.orphans := by unfold State.sendFlit State.transmit; dsimp only; split <;> rfl
@[simp] theorem State.sendFlit_touched (s : State) (l k : Nat) (p : List Byte) : (s.sendFlit l k p).touched = s.touched := by unfold State.sendFlit State.transmit; dsimp only; split <;> rfl
@[simp] theorem State.sendFlit_agenda (s : State) (l k : Nat) (p : List Byte) : (s.sendFlit l k p).agenda = s.agenda := by unfold State.sendFlit State.transmit; dsimp only; split <;> rfl
@[simp] theorem State.sendFlit_cyc (s : State) (l k : Nat) (p : List Byte) : (s.sendFlit l k p).cyc = s.cyc := by unfold State.sendFlit State.transmit; dsimp only; split <;> rfl
@[simp] theorem State.sendFlit_focus (s : State) (l k : Nat) (p : List Byte) : (s.sendFlit l k p).focus = s.focus := by unfold State.sendFlit State.transmit; dsimp only; split <;> rfl
@[simp] theorem State.sendFlit_free (s : State) (l k : Nat) (p : List Byte) : (s.sendFlit l k p).free = s.free := by unfold State.sendFlit State.transmit; dsimp only; split <;> rfl

@[simp] theorem State.put_pk (s : State) (a : Nat) (bs : List Byte) : (s.put a bs).pk = s.pk := rfl
@[simp] theorem State.put_wall (s : State) (a : Nat) (bs : List Byte) : (s.put a bs).wall = s.wall := rfl
@[simp] theorem State.put_unseen (s : State) (a : Nat) (bs : List Byte) : (s.put a bs).unseen = s.unseen := rfl
@[simp] theorem State.put_glades (s : State) (a : Nat) (bs : List Byte) : (s.put a bs).glades = s.glades := rfl
@[simp] theorem State.put_dies (s : State) (a : Nat) (bs : List Byte) : (s.put a bs).dies = s.dies := rfl
@[simp] theorem State.put_clearings (s : State) (a : Nat) (bs : List Byte) : (s.put a bs).clearings = s.clearings := rfl
@[simp] theorem State.put_jobs (s : State) (a : Nat) (bs : List Byte) : (s.put a bs).jobs = s.jobs := rfl
@[simp] theorem State.put_grafts (s : State) (a : Nat) (bs : List Byte) : (s.put a bs).grafts = s.grafts := rfl
@[simp] theorem State.put_fns (s : State) (a : Nat) (bs : List Byte) : (s.put a bs).fns = s.fns := rfl
@[simp] theorem State.put_links (s : State) (a : Nat) (bs : List Byte) : (s.put a bs).links = s.links := rfl
@[simp] theorem State.put_out (s : State) (a : Nat) (bs : List Byte) : (s.put a bs).out = s.out := rfl
@[simp] theorem State.put_inputs (s : State) (a : Nat) (bs : List Byte) : (s.put a bs).inputs = s.inputs := rfl
@[simp] theorem State.put_orphans (s : State) (a : Nat) (bs : List Byte) : (s.put a bs).orphans = s.orphans := rfl
@[simp] theorem State.put_touched (s : State) (a : Nat) (bs : List Byte) : (s.put a bs).touched = s.touched := rfl
@[simp] theorem State.put_agenda (s : State) (a : Nat) (bs : List Byte) : (s.put a bs).agenda = s.agenda := rfl
@[simp] theorem State.put_cyc (s : State) (a : Nat) (bs : List Byte) : (s.put a bs).cyc = s.cyc := rfl
@[simp] theorem State.put_focus (s : State) (a : Nat) (bs : List Byte) : (s.put a bs).focus = s.focus := rfl
@[simp] theorem State.put_free (s : State) (a : Nat) (bs : List Byte) : (s.put a bs).free = s.free := rfl

/-! ## Accessors that an update does not touch -/

@[simp] theorem State.modGlade_die_at (s : State) (g : Nat) (f : Glade → Glade) (h : Nat) : (s.modGlade g f).die h = s.die h := rfl
@[simp] theorem State.modGlade_job_at (s : State) (g : Nat) (f : Glade → Glade) (h : Nat) : (s.modGlade g f).job h = s.job h := rfl
@[simp] theorem State.modGlade_fn_at (s : State) (g : Nat) (f : Glade → Glade) (h : Nat) : (s.modGlade g f).fn h = s.fn h := rfl
@[simp] theorem State.modGlade_link_at (s : State) (g : Nat) (f : Glade → Glade) (h : Nat) : (s.modGlade g f).link h = s.link h := rfl
@[simp] theorem State.modGlade_clearing_at (s : State) (g : Nat) (f : Glade → Glade) (h : Nat) : (s.modGlade g f).clearing h = s.clearing h := rfl
@[simp] theorem State.modGlade_graft_at (s : State) (g : Nat) (f : Glade → Glade) (h : Nat) : (s.modGlade g f).graft h = s.graft h := rfl

@[simp] theorem State.modBough_die_at (s : State) (g : Nat) (f : Bough → Bough) (h : Nat) : (s.modBough g f).die h = s.die h := rfl
@[simp] theorem State.modBough_job_at (s : State) (g : Nat) (f : Bough → Bough) (h : Nat) : (s.modBough g f).job h = s.job h := rfl
@[simp] theorem State.modBough_fn_at (s : State) (g : Nat) (f : Bough → Bough) (h : Nat) : (s.modBough g f).fn h = s.fn h := rfl
@[simp] theorem State.modBough_link_at (s : State) (g : Nat) (f : Bough → Bough) (h : Nat) : (s.modBough g f).link h = s.link h := rfl
@[simp] theorem State.modBough_clearing_at (s : State) (g : Nat) (f : Bough → Bough) (h : Nat) : (s.modBough g f).clearing h = s.clearing h := rfl
@[simp] theorem State.modBough_graft_at (s : State) (g : Nat) (f : Bough → Bough) (h : Nat) : (s.modBough g f).graft h = s.graft h := rfl

@[simp] theorem State.modWw_die_at (s : State) (g : Nat) (f : Woodward → Woodward) (h : Nat) : (s.modWw g f).die h = s.die h := rfl
@[simp] theorem State.modWw_job_at (s : State) (g : Nat) (f : Woodward → Woodward) (h : Nat) : (s.modWw g f).job h = s.job h := rfl
@[simp] theorem State.modWw_fn_at (s : State) (g : Nat) (f : Woodward → Woodward) (h : Nat) : (s.modWw g f).fn h = s.fn h := rfl
@[simp] theorem State.modWw_link_at (s : State) (g : Nat) (f : Woodward → Woodward) (h : Nat) : (s.modWw g f).link h = s.link h := rfl
@[simp] theorem State.modWw_clearing_at (s : State) (g : Nat) (f : Woodward → Woodward) (h : Nat) : (s.modWw g f).clearing h = s.clearing h := rfl
@[simp] theorem State.modWw_graft_at (s : State) (g : Nat) (f : Woodward → Woodward) (h : Nat) : (s.modWw g f).graft h = s.graft h := rfl

@[simp] theorem State.modEng_die_at (s : State) (g : Nat) (f : Engines → Engines) (h : Nat) : (s.modEng g f).die h = s.die h := rfl
@[simp] theorem State.modEng_job_at (s : State) (g : Nat) (f : Engines → Engines) (h : Nat) : (s.modEng g f).job h = s.job h := rfl
@[simp] theorem State.modEng_fn_at (s : State) (g : Nat) (f : Engines → Engines) (h : Nat) : (s.modEng g f).fn h = s.fn h := rfl
@[simp] theorem State.modEng_link_at (s : State) (g : Nat) (f : Engines → Engines) (h : Nat) : (s.modEng g f).link h = s.link h := rfl
@[simp] theorem State.modEng_clearing_at (s : State) (g : Nat) (f : Engines → Engines) (h : Nat) : (s.modEng g f).clearing h = s.clearing h := rfl
@[simp] theorem State.modEng_graft_at (s : State) (g : Nat) (f : Engines → Engines) (h : Nat) : (s.modEng g f).graft h = s.graft h := rfl

@[simp] theorem State.modTh_die_at (s : State) (g : Nat) (f : Thicket → Thicket) (h : Nat) : (s.modTh g f).die h = s.die h := rfl
@[simp] theorem State.modTh_job_at (s : State) (g : Nat) (f : Thicket → Thicket) (h : Nat) : (s.modTh g f).job h = s.job h := rfl
@[simp] theorem State.modTh_fn_at (s : State) (g : Nat) (f : Thicket → Thicket) (h : Nat) : (s.modTh g f).fn h = s.fn h := rfl
@[simp] theorem State.modTh_link_at (s : State) (g : Nat) (f : Thicket → Thicket) (h : Nat) : (s.modTh g f).link h = s.link h := rfl
@[simp] theorem State.modTh_clearing_at (s : State) (g : Nat) (f : Thicket → Thicket) (h : Nat) : (s.modTh g f).clearing h = s.clearing h := rfl
@[simp] theorem State.modTh_graft_at (s : State) (g : Nat) (f : Thicket → Thicket) (h : Nat) : (s.modTh g f).graft h = s.graft h := rfl

@[simp] theorem State.modBlock_die_at (s : State) (g : Nat) (f : Block → Block) (h : Nat) : (s.modBlock g f).die h = s.die h := rfl
@[simp] theorem State.modBlock_job_at (s : State) (g : Nat) (f : Block → Block) (h : Nat) : (s.modBlock g f).job h = s.job h := rfl
@[simp] theorem State.modBlock_fn_at (s : State) (g : Nat) (f : Block → Block) (h : Nat) : (s.modBlock g f).fn h = s.fn h := rfl
@[simp] theorem State.modBlock_link_at (s : State) (g : Nat) (f : Block → Block) (h : Nat) : (s.modBlock g f).link h = s.link h := rfl
@[simp] theorem State.modBlock_clearing_at (s : State) (g : Nat) (f : Block → Block) (h : Nat) : (s.modBlock g f).clearing h = s.clearing h := rfl
@[simp] theorem State.modBlock_graft_at (s : State) (g : Nat) (f : Block → Block) (h : Nat) : (s.modBlock g f).graft h = s.graft h := rfl

@[simp] theorem State.modStand_die_at (s : State) (g : Nat) (f : Stand → Stand) (h : Nat) : (s.modStand g f).die h = s.die h := rfl
@[simp] theorem State.modStand_job_at (s : State) (g : Nat) (f : Stand → Stand) (h : Nat) : (s.modStand g f).job h = s.job h := rfl
@[simp] theorem State.modStand_fn_at (s : State) (g : Nat) (f : Stand → Stand) (h : Nat) : (s.modStand g f).fn h = s.fn h := rfl
@[simp] theorem State.modStand_link_at (s : State) (g : Nat) (f : Stand → Stand) (h : Nat) : (s.modStand g f).link h = s.link h := rfl
@[simp] theorem State.modStand_clearing_at (s : State) (g : Nat) (f : Stand → Stand) (h : Nat) : (s.modStand g f).clearing h = s.clearing h := rfl
@[simp] theorem State.modStand_graft_at (s : State) (g : Nat) (f : Stand → Stand) (h : Nat) : (s.modStand g f).graft h = s.graft h := rfl

@[simp] theorem State.perf_die_at (s : State) (g e n : Nat) (h : Nat) : (s.perf g e n).die h = s.die h := rfl
@[simp] theorem State.perf_job_at (s : State) (g e n : Nat) (h : Nat) : (s.perf g e n).job h = s.job h := rfl
@[simp] theorem State.perf_fn_at (s : State) (g e n : Nat) (h : Nat) : (s.perf g e n).fn h = s.fn h := rfl
@[simp] theorem State.perf_link_at (s : State) (g e n : Nat) (h : Nat) : (s.perf g e n).link h = s.link h := rfl
@[simp] theorem State.perf_clearing_at (s : State) (g e n : Nat) (h : Nat) : (s.perf g e n).clearing h = s.clearing h := rfl
@[simp] theorem State.perf_graft_at (s : State) (g e n : Nat) (h : Nat) : (s.perf g e n).graft h = s.graft h := rfl

@[simp] theorem State.modDie_glade_at (s : State) (d : Nat) (f : Die → Die) (h : Nat) : (s.modDie d f).glade h = s.glade h := rfl
@[simp] theorem State.modDie_bough_at (s : State) (d : Nat) (f : Die → Die) (h : Nat) : (s.modDie d f).bough h = s.bough h := rfl
@[simp] theorem State.modDie_ww_at (s : State) (d : Nat) (f : Die → Die) (h : Nat) : (s.modDie d f).ww h = s.ww h := rfl
@[simp] theorem State.modDie_eng_at (s : State) (d : Nat) (f : Die → Die) (h : Nat) : (s.modDie d f).eng h = s.eng h := rfl
@[simp] theorem State.modDie_th_at (s : State) (d : Nat) (f : Die → Die) (h : Nat) : (s.modDie d f).th h = s.th h := rfl
@[simp] theorem State.modDie_place_at (s : State) (d : Nat) (f : Die → Die) (h : Nat) : (s.modDie d f).place h = s.place h := rfl
@[simp] theorem State.modDie_block_at (s : State) (d : Nat) (f : Die → Die) (h : Nat) : (s.modDie d f).block h = s.block h := rfl
@[simp] theorem State.modDie_job_at (s : State) (d : Nat) (f : Die → Die) (h : Nat) : (s.modDie d f).job h = s.job h := rfl
@[simp] theorem State.modDie_fn_at (s : State) (d : Nat) (f : Die → Die) (h : Nat) : (s.modDie d f).fn h = s.fn h := rfl
@[simp] theorem State.modDie_link_at (s : State) (d : Nat) (f : Die → Die) (h : Nat) : (s.modDie d f).link h = s.link h := rfl
@[simp] theorem State.modDie_clearing_at (s : State) (d : Nat) (f : Die → Die) (h : Nat) : (s.modDie d f).clearing h = s.clearing h := rfl
@[simp] theorem State.modDie_graft_at (s : State) (d : Nat) (f : Die → Die) (h : Nat) : (s.modDie d f).graft h = s.graft h := rfl

@[simp] theorem State.modLaunch_glade_at (s : State) (d l : Nat) (f : Launch → Launch) (h : Nat) : (s.modLaunch d l f).glade h = s.glade h := rfl
@[simp] theorem State.modLaunch_bough_at (s : State) (d l : Nat) (f : Launch → Launch) (h : Nat) : (s.modLaunch d l f).bough h = s.bough h := rfl
@[simp] theorem State.modLaunch_ww_at (s : State) (d l : Nat) (f : Launch → Launch) (h : Nat) : (s.modLaunch d l f).ww h = s.ww h := rfl
@[simp] theorem State.modLaunch_eng_at (s : State) (d l : Nat) (f : Launch → Launch) (h : Nat) : (s.modLaunch d l f).eng h = s.eng h := rfl
@[simp] theorem State.modLaunch_th_at (s : State) (d l : Nat) (f : Launch → Launch) (h : Nat) : (s.modLaunch d l f).th h = s.th h := rfl
@[simp] theorem State.modLaunch_place_at (s : State) (d l : Nat) (f : Launch → Launch) (h : Nat) : (s.modLaunch d l f).place h = s.place h := rfl
@[simp] theorem State.modLaunch_block_at (s : State) (d l : Nat) (f : Launch → Launch) (h : Nat) : (s.modLaunch d l f).block h = s.block h := rfl
@[simp] theorem State.modLaunch_job_at (s : State) (d l : Nat) (f : Launch → Launch) (h : Nat) : (s.modLaunch d l f).job h = s.job h := rfl
@[simp] theorem State.modLaunch_fn_at (s : State) (d l : Nat) (f : Launch → Launch) (h : Nat) : (s.modLaunch d l f).fn h = s.fn h := rfl
@[simp] theorem State.modLaunch_link_at (s : State) (d l : Nat) (f : Launch → Launch) (h : Nat) : (s.modLaunch d l f).link h = s.link h := rfl
@[simp] theorem State.modLaunch_clearing_at (s : State) (d l : Nat) (f : Launch → Launch) (h : Nat) : (s.modLaunch d l f).clearing h = s.clearing h := rfl
@[simp] theorem State.modLaunch_graft_at (s : State) (d l : Nat) (f : Launch → Launch) (h : Nat) : (s.modLaunch d l f).graft h = s.graft h := rfl

@[simp] theorem State.modSeed_glade_at (s : State) (d k : Nat) (f : Seed → Seed) (h : Nat) : (s.modSeed d k f).glade h = s.glade h := rfl
@[simp] theorem State.modSeed_bough_at (s : State) (d k : Nat) (f : Seed → Seed) (h : Nat) : (s.modSeed d k f).bough h = s.bough h := rfl
@[simp] theorem State.modSeed_ww_at (s : State) (d k : Nat) (f : Seed → Seed) (h : Nat) : (s.modSeed d k f).ww h = s.ww h := rfl
@[simp] theorem State.modSeed_eng_at (s : State) (d k : Nat) (f : Seed → Seed) (h : Nat) : (s.modSeed d k f).eng h = s.eng h := rfl
@[simp] theorem State.modSeed_th_at (s : State) (d k : Nat) (f : Seed → Seed) (h : Nat) : (s.modSeed d k f).th h = s.th h := rfl
@[simp] theorem State.modSeed_place_at (s : State) (d k : Nat) (f : Seed → Seed) (h : Nat) : (s.modSeed d k f).place h = s.place h := rfl
@[simp] theorem State.modSeed_block_at (s : State) (d k : Nat) (f : Seed → Seed) (h : Nat) : (s.modSeed d k f).block h = s.block h := rfl
@[simp] theorem State.modSeed_job_at (s : State) (d k : Nat) (f : Seed → Seed) (h : Nat) : (s.modSeed d k f).job h = s.job h := rfl
@[simp] theorem State.modSeed_fn_at (s : State) (d k : Nat) (f : Seed → Seed) (h : Nat) : (s.modSeed d k f).fn h = s.fn h := rfl
@[simp] theorem State.modSeed_link_at (s : State) (d k : Nat) (f : Seed → Seed) (h : Nat) : (s.modSeed d k f).link h = s.link h := rfl
@[simp] theorem State.modSeed_clearing_at (s : State) (d k : Nat) (f : Seed → Seed) (h : Nat) : (s.modSeed d k f).clearing h = s.clearing h := rfl
@[simp] theorem State.modSeed_graft_at (s : State) (d k : Nat) (f : Seed → Seed) (h : Nat) : (s.modSeed d k f).graft h = s.graft h := rfl

@[simp] theorem State.modJob_glade_at (s : State) (c : Nat) (f : Job → Job) (h : Nat) : (s.modJob c f).glade h = s.glade h := rfl
@[simp] theorem State.modJob_bough_at (s : State) (c : Nat) (f : Job → Job) (h : Nat) : (s.modJob c f).bough h = s.bough h := rfl
@[simp] theorem State.modJob_ww_at (s : State) (c : Nat) (f : Job → Job) (h : Nat) : (s.modJob c f).ww h = s.ww h := rfl
@[simp] theorem State.modJob_eng_at (s : State) (c : Nat) (f : Job → Job) (h : Nat) : (s.modJob c f).eng h = s.eng h := rfl
@[simp] theorem State.modJob_th_at (s : State) (c : Nat) (f : Job → Job) (h : Nat) : (s.modJob c f).th h = s.th h := rfl
@[simp] theorem State.modJob_place_at (s : State) (c : Nat) (f : Job → Job) (h : Nat) : (s.modJob c f).place h = s.place h := rfl
@[simp] theorem State.modJob_block_at (s : State) (c : Nat) (f : Job → Job) (h : Nat) : (s.modJob c f).block h = s.block h := rfl
@[simp] theorem State.modJob_die_at (s : State) (c : Nat) (f : Job → Job) (h : Nat) : (s.modJob c f).die h = s.die h := rfl
@[simp] theorem State.modJob_fn_at (s : State) (c : Nat) (f : Job → Job) (h : Nat) : (s.modJob c f).fn h = s.fn h := rfl
@[simp] theorem State.modJob_link_at (s : State) (c : Nat) (f : Job → Job) (h : Nat) : (s.modJob c f).link h = s.link h := rfl
@[simp] theorem State.modJob_clearing_at (s : State) (c : Nat) (f : Job → Job) (h : Nat) : (s.modJob c f).clearing h = s.clearing h := rfl
@[simp] theorem State.modJob_graft_at (s : State) (c : Nat) (f : Job → Job) (h : Nat) : (s.modJob c f).graft h = s.graft h := rfl

@[simp] theorem State.usage_glade_at (s : State) (c i n : Nat) (h : Nat) : (s.usage c i n).glade h = s.glade h := rfl
@[simp] theorem State.usage_bough_at (s : State) (c i n : Nat) (h : Nat) : (s.usage c i n).bough h = s.bough h := rfl
@[simp] theorem State.usage_ww_at (s : State) (c i n : Nat) (h : Nat) : (s.usage c i n).ww h = s.ww h := rfl
@[simp] theorem State.usage_eng_at (s : State) (c i n : Nat) (h : Nat) : (s.usage c i n).eng h = s.eng h := rfl
@[simp] theorem State.usage_th_at (s : State) (c i n : Nat) (h : Nat) : (s.usage c i n).th h = s.th h := rfl
@[simp] theorem State.usage_place_at (s : State) (c i n : Nat) (h : Nat) : (s.usage c i n).place h = s.place h := rfl
@[simp] theorem State.usage_block_at (s : State) (c i n : Nat) (h : Nat) : (s.usage c i n).block h = s.block h := rfl
@[simp] theorem State.usage_die_at (s : State) (c i n : Nat) (h : Nat) : (s.usage c i n).die h = s.die h := rfl
@[simp] theorem State.usage_fn_at (s : State) (c i n : Nat) (h : Nat) : (s.usage c i n).fn h = s.fn h := rfl
@[simp] theorem State.usage_link_at (s : State) (c i n : Nat) (h : Nat) : (s.usage c i n).link h = s.link h := rfl
@[simp] theorem State.usage_clearing_at (s : State) (c i n : Nat) (h : Nat) : (s.usage c i n).clearing h = s.clearing h := rfl
@[simp] theorem State.usage_graft_at (s : State) (c i n : Nat) (h : Nat) : (s.usage c i n).graft h = s.graft h := rfl

@[simp] theorem State.modFn_glade_at (s : State) (n : Nat) (f : Fn → Fn) (h : Nat) : (s.modFn n f).glade h = s.glade h := rfl
@[simp] theorem State.modFn_bough_at (s : State) (n : Nat) (f : Fn → Fn) (h : Nat) : (s.modFn n f).bough h = s.bough h := rfl
@[simp] theorem State.modFn_ww_at (s : State) (n : Nat) (f : Fn → Fn) (h : Nat) : (s.modFn n f).ww h = s.ww h := rfl
@[simp] theorem State.modFn_eng_at (s : State) (n : Nat) (f : Fn → Fn) (h : Nat) : (s.modFn n f).eng h = s.eng h := rfl
@[simp] theorem State.modFn_th_at (s : State) (n : Nat) (f : Fn → Fn) (h : Nat) : (s.modFn n f).th h = s.th h := rfl
@[simp] theorem State.modFn_place_at (s : State) (n : Nat) (f : Fn → Fn) (h : Nat) : (s.modFn n f).place h = s.place h := rfl
@[simp] theorem State.modFn_block_at (s : State) (n : Nat) (f : Fn → Fn) (h : Nat) : (s.modFn n f).block h = s.block h := rfl
@[simp] theorem State.modFn_die_at (s : State) (n : Nat) (f : Fn → Fn) (h : Nat) : (s.modFn n f).die h = s.die h := rfl
@[simp] theorem State.modFn_job_at (s : State) (n : Nat) (f : Fn → Fn) (h : Nat) : (s.modFn n f).job h = s.job h := rfl
@[simp] theorem State.modFn_link_at (s : State) (n : Nat) (f : Fn → Fn) (h : Nat) : (s.modFn n f).link h = s.link h := rfl
@[simp] theorem State.modFn_clearing_at (s : State) (n : Nat) (f : Fn → Fn) (h : Nat) : (s.modFn n f).clearing h = s.clearing h := rfl
@[simp] theorem State.modFn_graft_at (s : State) (n : Nat) (f : Fn → Fn) (h : Nat) : (s.modFn n f).graft h = s.graft h := rfl

@[simp] theorem State.modLink_glade_at (s : State) (l : Nat) (f : Link → Link) (h : Nat) : (s.modLink l f).glade h = s.glade h := rfl
@[simp] theorem State.modLink_bough_at (s : State) (l : Nat) (f : Link → Link) (h : Nat) : (s.modLink l f).bough h = s.bough h := rfl
@[simp] theorem State.modLink_ww_at (s : State) (l : Nat) (f : Link → Link) (h : Nat) : (s.modLink l f).ww h = s.ww h := rfl
@[simp] theorem State.modLink_eng_at (s : State) (l : Nat) (f : Link → Link) (h : Nat) : (s.modLink l f).eng h = s.eng h := rfl
@[simp] theorem State.modLink_th_at (s : State) (l : Nat) (f : Link → Link) (h : Nat) : (s.modLink l f).th h = s.th h := rfl
@[simp] theorem State.modLink_place_at (s : State) (l : Nat) (f : Link → Link) (h : Nat) : (s.modLink l f).place h = s.place h := rfl
@[simp] theorem State.modLink_block_at (s : State) (l : Nat) (f : Link → Link) (h : Nat) : (s.modLink l f).block h = s.block h := rfl
@[simp] theorem State.modLink_die_at (s : State) (l : Nat) (f : Link → Link) (h : Nat) : (s.modLink l f).die h = s.die h := rfl
@[simp] theorem State.modLink_job_at (s : State) (l : Nat) (f : Link → Link) (h : Nat) : (s.modLink l f).job h = s.job h := rfl
@[simp] theorem State.modLink_fn_at (s : State) (l : Nat) (f : Link → Link) (h : Nat) : (s.modLink l f).fn h = s.fn h := rfl
@[simp] theorem State.modLink_clearing_at (s : State) (l : Nat) (f : Link → Link) (h : Nat) : (s.modLink l f).clearing h = s.clearing h := rfl
@[simp] theorem State.modLink_graft_at (s : State) (l : Nat) (f : Link → Link) (h : Nat) : (s.modLink l f).graft h = s.graft h := rfl

@[simp] theorem State.modClearing_glade_at (s : State) (c : Nat) (f : Clearing → Clearing) (h : Nat) : (s.modClearing c f).glade h = s.glade h := rfl
@[simp] theorem State.modClearing_bough_at (s : State) (c : Nat) (f : Clearing → Clearing) (h : Nat) : (s.modClearing c f).bough h = s.bough h := rfl
@[simp] theorem State.modClearing_ww_at (s : State) (c : Nat) (f : Clearing → Clearing) (h : Nat) : (s.modClearing c f).ww h = s.ww h := rfl
@[simp] theorem State.modClearing_eng_at (s : State) (c : Nat) (f : Clearing → Clearing) (h : Nat) : (s.modClearing c f).eng h = s.eng h := rfl
@[simp] theorem State.modClearing_th_at (s : State) (c : Nat) (f : Clearing → Clearing) (h : Nat) : (s.modClearing c f).th h = s.th h := rfl
@[simp] theorem State.modClearing_place_at (s : State) (c : Nat) (f : Clearing → Clearing) (h : Nat) : (s.modClearing c f).place h = s.place h := rfl
@[simp] theorem State.modClearing_block_at (s : State) (c : Nat) (f : Clearing → Clearing) (h : Nat) : (s.modClearing c f).block h = s.block h := rfl
@[simp] theorem State.modClearing_die_at (s : State) (c : Nat) (f : Clearing → Clearing) (h : Nat) : (s.modClearing c f).die h = s.die h := rfl
@[simp] theorem State.modClearing_job_at (s : State) (c : Nat) (f : Clearing → Clearing) (h : Nat) : (s.modClearing c f).job h = s.job h := rfl
@[simp] theorem State.modClearing_fn_at (s : State) (c : Nat) (f : Clearing → Clearing) (h : Nat) : (s.modClearing c f).fn h = s.fn h := rfl
@[simp] theorem State.modClearing_link_at (s : State) (c : Nat) (f : Clearing → Clearing) (h : Nat) : (s.modClearing c f).link h = s.link h := rfl
@[simp] theorem State.modClearing_graft_at (s : State) (c : Nat) (f : Clearing → Clearing) (h : Nat) : (s.modClearing c f).graft h = s.graft h := rfl

@[simp] theorem State.modGraft_glade_at (s : State) (e : Nat) (f : Graft → Graft) (h : Nat) : (s.modGraft e f).glade h = s.glade h := rfl
@[simp] theorem State.modGraft_bough_at (s : State) (e : Nat) (f : Graft → Graft) (h : Nat) : (s.modGraft e f).bough h = s.bough h := rfl
@[simp] theorem State.modGraft_ww_at (s : State) (e : Nat) (f : Graft → Graft) (h : Nat) : (s.modGraft e f).ww h = s.ww h := rfl
@[simp] theorem State.modGraft_eng_at (s : State) (e : Nat) (f : Graft → Graft) (h : Nat) : (s.modGraft e f).eng h = s.eng h := rfl
@[simp] theorem State.modGraft_th_at (s : State) (e : Nat) (f : Graft → Graft) (h : Nat) : (s.modGraft e f).th h = s.th h := rfl
@[simp] theorem State.modGraft_place_at (s : State) (e : Nat) (f : Graft → Graft) (h : Nat) : (s.modGraft e f).place h = s.place h := rfl
@[simp] theorem State.modGraft_block_at (s : State) (e : Nat) (f : Graft → Graft) (h : Nat) : (s.modGraft e f).block h = s.block h := rfl
@[simp] theorem State.modGraft_die_at (s : State) (e : Nat) (f : Graft → Graft) (h : Nat) : (s.modGraft e f).die h = s.die h := rfl
@[simp] theorem State.modGraft_job_at (s : State) (e : Nat) (f : Graft → Graft) (h : Nat) : (s.modGraft e f).job h = s.job h := rfl
@[simp] theorem State.modGraft_fn_at (s : State) (e : Nat) (f : Graft → Graft) (h : Nat) : (s.modGraft e f).fn h = s.fn h := rfl
@[simp] theorem State.modGraft_link_at (s : State) (e : Nat) (f : Graft → Graft) (h : Nat) : (s.modGraft e f).link h = s.link h := rfl
@[simp] theorem State.modGraft_clearing_at (s : State) (e : Nat) (f : Graft → Graft) (h : Nat) : (s.modGraft e f).clearing h = s.clearing h := rfl

@[simp] theorem State.emit_glade_at (s : State) (o : Out) (h : Nat) : (s.emit o).glade h = s.glade h := rfl
@[simp] theorem State.emit_bough_at (s : State) (o : Out) (h : Nat) : (s.emit o).bough h = s.bough h := rfl
@[simp] theorem State.emit_ww_at (s : State) (o : Out) (h : Nat) : (s.emit o).ww h = s.ww h := rfl
@[simp] theorem State.emit_eng_at (s : State) (o : Out) (h : Nat) : (s.emit o).eng h = s.eng h := rfl
@[simp] theorem State.emit_th_at (s : State) (o : Out) (h : Nat) : (s.emit o).th h = s.th h := rfl
@[simp] theorem State.emit_place_at (s : State) (o : Out) (h : Nat) : (s.emit o).place h = s.place h := rfl
@[simp] theorem State.emit_block_at (s : State) (o : Out) (h : Nat) : (s.emit o).block h = s.block h := rfl
@[simp] theorem State.emit_die_at (s : State) (o : Out) (h : Nat) : (s.emit o).die h = s.die h := rfl
@[simp] theorem State.emit_job_at (s : State) (o : Out) (h : Nat) : (s.emit o).job h = s.job h := rfl
@[simp] theorem State.emit_fn_at (s : State) (o : Out) (h : Nat) : (s.emit o).fn h = s.fn h := rfl
@[simp] theorem State.emit_link_at (s : State) (o : Out) (h : Nat) : (s.emit o).link h = s.link h := rfl
@[simp] theorem State.emit_clearing_at (s : State) (o : Out) (h : Nat) : (s.emit o).clearing h = s.clearing h := rfl
@[simp] theorem State.emit_graft_at (s : State) (o : Out) (h : Nat) : (s.emit o).graft h = s.graft h := rfl

@[simp] theorem State.drawn_glade_at (s : State) (h : Nat) : s.drawn.glade h = s.glade h := rfl
@[simp] theorem State.drawn_bough_at (s : State) (h : Nat) : s.drawn.bough h = s.bough h := rfl
@[simp] theorem State.drawn_ww_at (s : State) (h : Nat) : s.drawn.ww h = s.ww h := rfl
@[simp] theorem State.drawn_eng_at (s : State) (h : Nat) : s.drawn.eng h = s.eng h := rfl
@[simp] theorem State.drawn_th_at (s : State) (h : Nat) : s.drawn.th h = s.th h := rfl
@[simp] theorem State.drawn_place_at (s : State) (h : Nat) : s.drawn.place h = s.place h := rfl
@[simp] theorem State.drawn_block_at (s : State) (h : Nat) : s.drawn.block h = s.block h := rfl
@[simp] theorem State.drawn_die_at (s : State) (h : Nat) : s.drawn.die h = s.die h := rfl
@[simp] theorem State.drawn_job_at (s : State) (h : Nat) : s.drawn.job h = s.job h := rfl
@[simp] theorem State.drawn_fn_at (s : State) (h : Nat) : s.drawn.fn h = s.fn h := rfl
@[simp] theorem State.drawn_link_at (s : State) (h : Nat) : s.drawn.link h = s.link h := rfl
@[simp] theorem State.drawn_clearing_at (s : State) (h : Nat) : s.drawn.clearing h = s.clearing h := rfl
@[simp] theorem State.drawn_graft_at (s : State) (h : Nat) : s.drawn.graft h = s.graft h := rfl

@[simp] theorem State.life_glade_at (s : State) (i k n : Nat) (h : Nat) : (s.life i k n).glade h = s.glade h := rfl
@[simp] theorem State.life_bough_at (s : State) (i k n : Nat) (h : Nat) : (s.life i k n).bough h = s.bough h := rfl
@[simp] theorem State.life_ww_at (s : State) (i k n : Nat) (h : Nat) : (s.life i k n).ww h = s.ww h := rfl
@[simp] theorem State.life_eng_at (s : State) (i k n : Nat) (h : Nat) : (s.life i k n).eng h = s.eng h := rfl
@[simp] theorem State.life_th_at (s : State) (i k n : Nat) (h : Nat) : (s.life i k n).th h = s.th h := rfl
@[simp] theorem State.life_place_at (s : State) (i k n : Nat) (h : Nat) : (s.life i k n).place h = s.place h := rfl
@[simp] theorem State.life_block_at (s : State) (i k n : Nat) (h : Nat) : (s.life i k n).block h = s.block h := rfl
@[simp] theorem State.life_die_at (s : State) (i k n : Nat) (h : Nat) : (s.life i k n).die h = s.die h := rfl
@[simp] theorem State.life_job_at (s : State) (i k n : Nat) (h : Nat) : (s.life i k n).job h = s.job h := rfl
@[simp] theorem State.life_fn_at (s : State) (i k n : Nat) (h : Nat) : (s.life i k n).fn h = s.fn h := rfl
@[simp] theorem State.life_link_at (s : State) (i k n : Nat) (h : Nat) : (s.life i k n).link h = s.link h := rfl
@[simp] theorem State.life_clearing_at (s : State) (i k n : Nat) (h : Nat) : (s.life i k n).clearing h = s.clearing h := rfl
@[simp] theorem State.life_graft_at (s : State) (i k n : Nat) (h : Nat) : (s.life i k n).graft h = s.graft h := rfl

@[simp] theorem State.sendFlit_glade_at (s : State) (l k : Nat) (p : List Byte) (h : Nat) : (s.sendFlit l k p).glade h = s.glade h := by unfold State.sendFlit State.transmit; dsimp only; split <;> rfl
@[simp] theorem State.sendFlit_bough_at (s : State) (l k : Nat) (p : List Byte) (h : Nat) : (s.sendFlit l k p).bough h = s.bough h := by unfold State.sendFlit State.transmit; dsimp only; split <;> rfl
@[simp] theorem State.sendFlit_ww_at (s : State) (l k : Nat) (p : List Byte) (h : Nat) : (s.sendFlit l k p).ww h = s.ww h := by unfold State.sendFlit State.transmit; dsimp only; split <;> rfl
@[simp] theorem State.sendFlit_eng_at (s : State) (l k : Nat) (p : List Byte) (h : Nat) : (s.sendFlit l k p).eng h = s.eng h := by unfold State.sendFlit State.transmit; dsimp only; split <;> rfl
@[simp] theorem State.sendFlit_th_at (s : State) (l k : Nat) (p : List Byte) (h : Nat) : (s.sendFlit l k p).th h = s.th h := by unfold State.sendFlit State.transmit; dsimp only; split <;> rfl
@[simp] theorem State.sendFlit_place_at (s : State) (l k : Nat) (p : List Byte) (h : Nat) : (s.sendFlit l k p).place h = s.place h := by unfold State.sendFlit State.transmit; dsimp only; split <;> rfl
@[simp] theorem State.sendFlit_block_at (s : State) (l k : Nat) (p : List Byte) (h : Nat) : (s.sendFlit l k p).block h = s.block h := by unfold State.sendFlit State.transmit; dsimp only; split <;> rfl
@[simp] theorem State.sendFlit_die_at (s : State) (l k : Nat) (p : List Byte) (h : Nat) : (s.sendFlit l k p).die h = s.die h := by unfold State.sendFlit State.transmit; dsimp only; split <;> rfl
@[simp] theorem State.sendFlit_job_at (s : State) (l k : Nat) (p : List Byte) (h : Nat) : (s.sendFlit l k p).job h = s.job h := by unfold State.sendFlit State.transmit; dsimp only; split <;> rfl
@[simp] theorem State.sendFlit_fn_at (s : State) (l k : Nat) (p : List Byte) (h : Nat) : (s.sendFlit l k p).fn h = s.fn h := by unfold State.sendFlit State.transmit; dsimp only; split <;> rfl
@[simp] theorem State.sendFlit_clearing_at (s : State) (l k : Nat) (p : List Byte) (h : Nat) : (s.sendFlit l k p).clearing h = s.clearing h := by unfold State.sendFlit State.transmit; dsimp only; split <;> rfl
@[simp] theorem State.sendFlit_graft_at (s : State) (l k : Nat) (p : List Byte) (h : Nat) : (s.sendFlit l k p).graft h = s.graft h := by unfold State.sendFlit State.transmit; dsimp only; split <;> rfl

@[simp] theorem State.put_glade_at (s : State) (a : Nat) (bs : List Byte) (h : Nat) : (s.put a bs).glade h = s.glade h := rfl
@[simp] theorem State.put_bough_at (s : State) (a : Nat) (bs : List Byte) (h : Nat) : (s.put a bs).bough h = s.bough h := rfl
@[simp] theorem State.put_ww_at (s : State) (a : Nat) (bs : List Byte) (h : Nat) : (s.put a bs).ww h = s.ww h := rfl
@[simp] theorem State.put_eng_at (s : State) (a : Nat) (bs : List Byte) (h : Nat) : (s.put a bs).eng h = s.eng h := rfl
@[simp] theorem State.put_th_at (s : State) (a : Nat) (bs : List Byte) (h : Nat) : (s.put a bs).th h = s.th h := rfl
@[simp] theorem State.put_place_at (s : State) (a : Nat) (bs : List Byte) (h : Nat) : (s.put a bs).place h = s.place h := rfl
@[simp] theorem State.put_block_at (s : State) (a : Nat) (bs : List Byte) (h : Nat) : (s.put a bs).block h = s.block h := rfl
@[simp] theorem State.put_die_at (s : State) (a : Nat) (bs : List Byte) (h : Nat) : (s.put a bs).die h = s.die h := rfl
@[simp] theorem State.put_job_at (s : State) (a : Nat) (bs : List Byte) (h : Nat) : (s.put a bs).job h = s.job h := rfl
@[simp] theorem State.put_fn_at (s : State) (a : Nat) (bs : List Byte) (h : Nat) : (s.put a bs).fn h = s.fn h := rfl
@[simp] theorem State.put_link_at (s : State) (a : Nat) (bs : List Byte) (h : Nat) : (s.put a bs).link h = s.link h := rfl
@[simp] theorem State.put_clearing_at (s : State) (a : Nat) (bs : List Byte) (h : Nat) : (s.put a bs).clearing h = s.clearing h := rfl
@[simp] theorem State.put_graft_at (s : State) (a : Nat) (bs : List Byte) (h : Nat) : (s.put a bs).graft h = s.graft h := rfl

/-! ## Accessors of what an update changes -/

section
variable (s : State) (g h : Nat)

theorem State.glade_modGlade (f : Glade → Glade) : (s.modGlade g f).glade h = if h = g then f (s.glade g) else s.glade h := by
  unfold State.glade State.modGlade
  split
  · next e => subst e; exact nget_nmod_self _ _ _ _
  · next e => exact nget_nmod_ne _ _ _ _ (Ne.symm e)

@[simp] theorem State.glade_modGlade_self (f : Glade → Glade) : (s.modGlade g f).glade g = f (s.glade g) := by rw [State.glade_modGlade, if_pos rfl]

theorem State.glade_modGlade_ne (f : Glade → Glade) (e : h ≠ g) : (s.modGlade g f).glade h = s.glade h := by rw [State.glade_modGlade, if_neg e]

theorem State.bough_modBough (f : Bough → Bough) : (s.modBough g f).bough h = if h = g then f (s.bough g) else s.bough h := by
  unfold State.bough State.modBough
  rw [State.glade_modGlade]
  split <;> rfl

@[simp] theorem State.bough_modBough_self (f : Bough → Bough) : (s.modBough g f).bough g = f (s.bough g) := by rw [State.bough_modBough, if_pos rfl]

theorem State.ww_modWw (f : Woodward → Woodward) : (s.modWw g f).ww h = if h = g then f (s.ww g) else s.ww h := by
  unfold State.ww State.modWw
  rw [State.bough_modBough]
  split <;> rfl

@[simp] theorem State.ww_modWw_self (f : Woodward → Woodward) : (s.modWw g f).ww g = f (s.ww g) := by rw [State.ww_modWw, if_pos rfl]

theorem State.eng_modEng (f : Engines → Engines) : (s.modEng g f).eng h = if h = g then f (s.eng g) else s.eng h := by
  unfold State.eng State.modEng
  rw [State.bough_modBough]
  split <;> rfl

@[simp] theorem State.eng_modEng_self (f : Engines → Engines) : (s.modEng g f).eng g = f (s.eng g) := by rw [State.eng_modEng, if_pos rfl]

theorem State.th_modTh (f : Thicket → Thicket) : (s.modTh g f).th h = if h = g then f (s.th g) else s.th h := by
  unfold State.th State.modTh
  rw [State.bough_modBough]
  split <;> rfl

@[simp] theorem State.th_modTh_self (f : Thicket → Thicket) : (s.modTh g f).th g = f (s.th g) := by rw [State.th_modTh, if_pos rfl]

theorem State.block_modBlock (f : Block → Block) : (s.modBlock g f).block h = if h = g then (s.block g).map f else s.block h := by
  unfold State.block State.modBlock
  rw [State.ww_modWw]
  split <;> rfl

/-- A change of one part of a bough leaves the others, on every glade. -/
theorem State.modBough_same {α : Type} (r : Bough → α) (f : Bough → Bough) (hr : ∀ b, r (f b) = r b) : r ((s.modBough g f).bough h) = r (s.bough h) := by
  rw [State.bough_modBough]
  split
  · next e => subst e; exact hr _
  · rfl

@[simp] theorem State.eng_modWw (f : Woodward → Woodward) : (s.modWw g f).eng h = s.eng h := s.modBough_same g h (·.eng) _ fun _ => rfl
@[simp] theorem State.th_modWw (f : Woodward → Woodward) : (s.modWw g f).th h = s.th h := s.modBough_same g h (·.th) _ fun _ => rfl
@[simp] theorem State.place_modWw (f : Woodward → Woodward) : (s.modWw g f).place h = s.place h := s.modBough_same g h (·.place) _ fun _ => rfl
@[simp] theorem State.ww_modEng (f : Engines → Engines) : (s.modEng g f).ww h = s.ww h := s.modBough_same g h (·.ww) _ fun _ => rfl
@[simp] theorem State.th_modEng (f : Engines → Engines) : (s.modEng g f).th h = s.th h := s.modBough_same g h (·.th) _ fun _ => rfl
@[simp] theorem State.place_modEng (f : Engines → Engines) : (s.modEng g f).place h = s.place h := s.modBough_same g h (·.place) _ fun _ => rfl
@[simp] theorem State.block_modEng (f : Engines → Engines) : (s.modEng g f).block h = s.block h := s.modBough_same g h (·.ww.block) _ fun _ => rfl
@[simp] theorem State.ww_modTh (f : Thicket → Thicket) : (s.modTh g f).ww h = s.ww h := s.modBough_same g h (·.ww) _ fun _ => rfl
@[simp] theorem State.eng_modTh (f : Thicket → Thicket) : (s.modTh g f).eng h = s.eng h := s.modBough_same g h (·.eng) _ fun _ => rfl
@[simp] theorem State.place_modTh (f : Thicket → Thicket) : (s.modTh g f).place h = s.place h := s.modBough_same g h (·.place) _ fun _ => rfl
@[simp] theorem State.block_modTh (f : Thicket → Thicket) : (s.modTh g f).block h = s.block h := s.modBough_same g h (·.ww.block) _ fun _ => rfl

@[simp] theorem State.eng_modBlock (f : Block → Block) : (s.modBlock g f).eng h = s.eng h := State.eng_modWw _ _ _ _
@[simp] theorem State.th_modBlock (f : Block → Block) : (s.modBlock g f).th h = s.th h := State.th_modWw _ _ _ _
@[simp] theorem State.place_modBlock (f : Block → Block) : (s.modBlock g f).place h = s.place h := State.place_modWw _ _ _ _
@[simp] theorem State.eng_perf (e n : Nat) : (s.perf g e n).eng h = s.eng h := State.eng_modWw _ _ _ _
@[simp] theorem State.th_perf (e n : Nat) : (s.perf g e n).th h = s.th h := State.th_modWw _ _ _ _
@[simp] theorem State.place_perf (e n : Nat) : (s.perf g e n).place h = s.place h := State.place_modWw _ _ _ _

/-- A field of a woodward that a change keeps is as before on every glade. -/
theorem State.ww_modWw_same {α : Type} (r : Woodward → α) (f : Woodward → Woodward) (hr : ∀ w, r (f w) = r w) : r ((s.modWw g f).ww h) = r (s.ww h) := by
  rw [State.ww_modWw]
  split
  · next e => subst e; exact hr _
  · rfl

/-- A change of a block keeps every other field of the woodwards. -/
theorem State.ww_modBlock_same {α : Type} (r : Woodward → α) (f : Block → Block) (hr : ∀ w b, r { w with block := b } = r w) : r ((s.modBlock g f).ww h) = r (s.ww h) :=
  s.ww_modWw_same g h r _ fun w => hr w _

theorem State.die_modDie (f : Die → Die) : (s.modDie g f).die h = if h = g then f (s.die g) else s.die h := by
  unfold State.die State.modDie
  split
  · next e => subst e; exact nget_nmod_self _ _ _ _
  · next e => exact nget_nmod_ne _ _ _ _ (Ne.symm e)

@[simp] theorem State.die_modDie_self (f : Die → Die) : (s.modDie g f).die g = f (s.die g) := by rw [State.die_modDie, if_pos rfl]

theorem State.job_modJob (f : Job → Job) : (s.modJob g f).job h = if h = g then f (s.job g) else s.job h := by
  unfold State.job State.modJob
  split
  · next e => subst e; exact nget_nmod_self _ _ _ _
  · next e => exact nget_nmod_ne _ _ _ _ (Ne.symm e)

@[simp] theorem State.job_modJob_self (f : Job → Job) : (s.modJob g f).job g = f (s.job g) := by rw [State.job_modJob, if_pos rfl]

theorem State.fn_modFn (f : Fn → Fn) : (s.modFn g f).fn h = if h = g then f (s.fn g) else s.fn h := by
  unfold State.fn State.modFn
  split
  · next e => subst e; exact nget_nmod_self _ _ _ _
  · next e => exact nget_nmod_ne _ _ _ _ (Ne.symm e)

@[simp] theorem State.fn_modFn_self (f : Fn → Fn) : (s.modFn g f).fn g = f (s.fn g) := by rw [State.fn_modFn, if_pos rfl]

theorem State.link_modLink (f : Link → Link) : (s.modLink g f).link h = if h = g then f (s.link g) else s.link h := by
  unfold State.link State.modLink
  split
  · next e => subst e; exact nget_nmod_self _ _ _ _
  · next e => exact nget_nmod_ne _ _ _ _ (Ne.symm e)

@[simp] theorem State.link_modLink_self (f : Link → Link) : (s.modLink g f).link g = f (s.link g) := by rw [State.link_modLink, if_pos rfl]

theorem State.clearing_modClearing (f : Clearing → Clearing) : (s.modClearing g f).clearing h = if h = g then f (s.clearing g) else s.clearing h := by
  unfold State.clearing State.modClearing
  split
  · next e => subst e; exact nget_nmod_self _ _ _ _
  · next e => exact nget_nmod_ne _ _ _ _ (Ne.symm e)

theorem State.graft_modGraft (f : Graft → Graft) : (s.modGraft g f).graft h = if h = g then f (s.graft g) else s.graft h := by
  unfold State.graft State.modGraft
  split
  · next e => subst e; exact nget_nmod_self _ _ _ _
  · next e => exact nget_nmod_ne _ _ _ _ (Ne.symm e)

@[simp] theorem State.emit_out (o : Out) : (s.emit o).out = s.out ++ [o] := rfl
@[simp] theorem State.drawn_free : s.drawn.free = s.free + 1 := rfl
@[simp] theorem State.put_mem (a : Nat) (bs : List Byte) : (s.put a bs).mem = memPut s.mem a bs := rfl
end

end Sys2Proof.Machine
end

