-- ==== Sys2Proof/Laws/Ops.lean ====
section
/-! SUPPORT. What the shared operations can do: the writes of memory and its canonical form, the discard of a block, fault records, taking a cause, and what an instruction of a block can end in. -/

namespace Sys2Proof.Machine

/-! ## Memory -/

theorem memSets_wf (f : Host.Cell → Nat) (l : List Host.Cell) {m : List Host.Cell} (w : Memory.wf m = true) :
    Memory.wf (l.foldl (fun m c => memSet m (f c) c.2) m) = true := by
  induction l generalizing m with
  | nil => exact w
  | cons c rest ih => exact ih (memSet_wf (Nat.zero_le _) w)

theorem memZeros_wf (f : Nat → Nat) (n : Nat) (l : List Nat) {m : List Host.Cell} (w : Memory.wf m = true) :
    Memory.wf (l.foldl (fun m d => memZero m (f d) n) m) = true := by
  induction l generalizing m with
  | nil => exact w
  | cons d rest ih => exact ih (memZero_wf (f d) n w)

theorem keepHost_wf (s : State) (vf : Nat) (old : List Host.Cell) (h : Memory.wf s.mem = true) : Memory.wf (s.keepHost vf old).mem = true :=
  memSets_wf (·.1) _ (memZero_wf _ _ h)

theorem fillBurrow_wf (s : State) (g : Nat) (b : Bool) (cells : List Host.Cell) (h : Memory.wf s.mem = true) : Memory.wf (s.fillBurrow g b cells).mem = true :=
  memSets_wf (fun c => burrowAt g b + c.1) _ (memZero_wf _ _ h)

theorem cold_wf (s : State) (h : Memory.wf s.mem = true) : Memory.wf s.cold.mem = true := memFilter_wf _ h

/-! ## What stands below the hosts' memory, and the registers -/

/-- Two states agree in every byte below the hosts' memory and in every general register and predicate; and memory's canonical form carries over. -/
def Keeps (s t : State) : Prop :=
  (∀ h, (t.ww h).g = (s.ww h).g ∧ (t.ww h).q = (s.ww h).q) ∧ (Memory.wf s.mem = true → Memory.wf t.mem = true ∧ ∀ a < 2 ^ 60, memGet t.mem a = memGet s.mem a)

theorem Keeps.refl (s : State) : Keeps s s := by simp [Keeps]

theorem Keeps.trans {s t u : State} (first : Keeps s t) (second : Keeps t u) : Keeps s u := by
  constructor
  · intro h
    rw [(second.1 h).1, (second.1 h).2]
    exact first.1 h
  · intro w
    obtain ⟨mid, below⟩ := first.2 w
    exact ⟨(second.2 mid).1, fun a ha => by rw [(second.2 mid).2 a ha, below a ha]⟩

/-- A change that touches neither memory nor any register keeps both. -/
theorem Keeps.of_eq {s t : State} (hm : t.mem = s.mem) (hr : ∀ h, (t.ww h).g = (s.ww h).g ∧ (t.ww h).q = (s.ww h).q) : Keeps s t := by
  simp [Keeps, hm, hr]

/-- A change of fields other than memory and the glades. -/
theorem Keeps.of_glades {s t : State} (hm : t.mem = s.mem) (hg : t.glades = s.glades) : Keeps s t :=
  Keeps.of_eq hm fun h => by
    have : t.ww h = s.ww h := by unfold State.ww State.bough State.glade; rw [hg]
    rw [this]; exact ⟨rfl, rfl⟩

theorem Keeps.modWw (s : State) (g : Nat) (f : Woodward → Woodward) (hf : ∀ w, (f w).g = w.g ∧ (f w).q = w.q) : Keeps s (s.modWw g f) :=
  Keeps.of_eq rfl fun h => ⟨s.ww_modWw_same g h (·.g) f fun w => (hf w).1, s.ww_modWw_same g h (·.q) f fun w => (hf w).2⟩

theorem Keeps.modBlock (s : State) (g : Nat) (f : Block → Block) : Keeps s (s.modBlock g f) := Keeps.modWw s g _ fun _ => ⟨rfl, rfl⟩

theorem Keeps.modEng (s : State) (g : Nat) (f : Engines → Engines) : Keeps s (s.modEng g f) := Keeps.of_eq rfl fun h => by simp

theorem Keeps.modTh (s : State) (g : Nat) (f : Thicket → Thicket) : Keeps s (s.modTh g f) := Keeps.of_eq rfl fun h => by simp

theorem Keeps.modFn (s : State) (n : Nat) (f : Fn → Fn) : Keeps s (s.modFn n f) := Keeps.of_glades rfl rfl

theorem Keeps.modDie (s : State) (d : Nat) (f : Die → Die) : Keeps s (s.modDie d f) := Keeps.of_glades rfl rfl

/-- A change of a glade that keeps its active woodward. -/
theorem Keeps.modGlade (s : State) (g : Nat) (f : Glade → Glade) (hf : ∀ x, (f x).cur.ww = x.cur.ww) : Keeps s (s.modGlade g f) := by
  refine Keeps.of_eq rfl fun h => ?_
  have : (s.modGlade g f).ww h = s.ww h := by
    unfold State.ww State.bough
    rw [State.glade_modGlade]
    split
    · next e => subst e; exact hf _
    · rfl
  rw [this]; exact ⟨rfl, rfl⟩

/-- Bytes written to a host's memory. -/
theorem Keeps.put (s : State) (a : Nat) (bs : List Byte) (ha : 2 ^ 60 ≤ a) : Keeps s (s.put a bs) := by
  refine ⟨fun _ => ⟨rfl, rfl⟩, fun w => ⟨memPut_wf bs w, fun b hb => ?_⟩⟩
  show memGet (memPut s.mem a bs) b = _
  rw [memGet_memPut bs b w, if_neg (by omega)]

/-- Memory and every register stay as they are. -/
def Same (s t : State) : Prop := t.mem = s.mem ∧ ∀ h, (t.ww h).g = (s.ww h).g ∧ (t.ww h).q = (s.ww h).q

theorem Same.keeps {s t : State} (h : Same s t) : Keeps s t := Keeps.of_eq h.1 h.2

theorem Same.refl (s : State) : Same s s := by simp [Same]

theorem Same.trans {s t u : State} (h : Same s t) (k : Same t u) : Same s u := by
  simp only [Same] at *
  simp [h, k]

/-- A change of fields other than memory and the glades. -/
theorem Same.of_glades {s t : State} (hm : t.mem = s.mem) (hg : t.glades = s.glades) : Same s t := by
  simp [Same, hm, State.ww, State.bough, State.glade, hg]

/-- A change of some glades that leaves their woodwards' registers. -/
theorem Same.of_map {s t : State} (f : Nat × Glade → Glade) (hm : t.mem = s.mem) (hg : t.glades = s.glades.map fun x => (x.1, f x))
    (hf : ∀ x, (f x).cur.ww = x.2.cur.ww) : Same s t := by
  refine ⟨hm, fun h => ?_⟩
  have same : t.ww h = s.ww h := by
    simp only [State.ww, State.bough, State.glade, hg, nget, nfind_map]
    cases nfind s.glades h <;> simp [hf]
  simp [same]

theorem Same.modEng (s : State) (g : Nat) (f : Engines → Engines) : Same s (s.modEng g f) := ⟨rfl, fun h => by simp⟩

theorem Same.modWw (s : State) (g : Nat) (f : Woodward → Woodward) (hf : ∀ w, (f w).g = w.g ∧ (f w).q = w.q) : Same s (s.modWw g f) :=
  ⟨rfl, fun h => ⟨s.ww_modWw_same g h (·.g) f fun w => (hf w).1, s.ww_modWw_same g h (·.q) f fun w => (hf w).2⟩⟩

theorem Same.modGlade (s : State) (g : Nat) (f : Glade → Glade) (hf : ∀ x, (f x).cur.ww = x.cur.ww) : Same s (s.modGlade g f) := by
  refine ⟨rfl, fun h => ?_⟩
  have : (s.modGlade g f).ww h = s.ww h := by
    unfold State.ww State.bough
    rw [State.glade_modGlade]
    split
    · next e => subst e; exact hf _
    · rfl
  simp [this]

/-! ## A block discarded -/

/-- A control message sent or kept for later (R341, R342, R344). -/
theorem report_same (s : State) (p : Nat) (m : List Byte) : Same s (s.report p m) := by
  unfold State.report State.tell
  split
  · exact Same.of_glades (by simp) (by simp)
  · split
    · exact Same.of_glades rfl rfl
    · exact Same.refl s

/-- Engines changed wherever their unit is. -/
theorem modHome_same (s : State) (g : Nat) (hit : Engines → Bool) (f : Engines → Engines) : Same s (s.modHome g hit f) := by
  unfold State.modHome
  simp only
  split
  · exact Same.modEng _ _ _
  · split
    · exact Same.modGlade _ _ _ fun _ => rfl
    · exact Same.of_glades rfl rfl

theorem settleTears_same (s : State) : Same s s.settleTears := Same.of_map _ rfl rfl fun _ => rfl

theorem releaseKey_same (s : State) (g : Nat) (z : ZoneRef) : Same s (s.releaseKey g z) := by
  unfold State.releaseKey
  split
  · exact (modHome_same _ _ _ _).trans (settleTears_same _)
  · exact report_same _ _ _

theorem unhold_same (s : State) (g : Nat) (z : ZoneRef) : Same s (s.unhold g z) := by
  unfold State.unhold
  split
  · exact modHome_same _ _ _ _
  · exact report_same _ _ _

theorem releasePend_same (g : Nat) (l : List (Nat × Pend)) (s : State) : Same s (releasePend g l s) := by
  induction l generalizing s with
  | nil => exact Same.refl s
  | cons p rest ih =>
    obtain ⟨_, q⟩ := p
    cases q with
    | slotHeld z n _ =>
      simp only [releasePend]
      split
      · exact (unhold_same s g z).trans (ih _)
      · exact (releaseKey_same s g z).trans (ih _)
    | slotRelease z => exact (unhold_same s g z).trans (ih _)
    | _ => exact ih s

theorem releaseAnswers_same (g : Nat) (b : Block) (l : List (Nat × Word)) (s : State) : Same s (releaseAnswers g b l s) := by
  induction l generalizing s with
  | nil => exact Same.refl s
  | cons p rest ih =>
    simp only [releaseAnswers]
    split
    · exact ih s
    · split
      · exact (unhold_same _ _ _).trans (ih _)
      · split
        · exact (releaseKey_same _ _ _).trans (ih _)
        · split
          · exact (unhold_same _ _ _).trans (ih _)
          · exact ih s

/-- Nothing of a block acquires any more: only what is noted of writes changes. -/
theorem endAcquires_same (s : State) (g : Nat) : Same s (s.endAcquires g) := Same.of_glades rfl rfl

/-- A block discarded (R144, R263, R319): neither memory nor a register changes. -/
theorem discard_same (s : State) (g : Nat) : Same s (s.discard g) := by
  unfold State.discard
  split
  · exact Same.refl s
  · next b _ =>
    have gone := ((releasePend_same g b.pend s).trans (releaseAnswers_same g b b.answers _)).trans
      ((Same.modWw _ g (fun w => { w with block := none, fetch := b.addr }) fun _ => ⟨rfl, rfl⟩).trans ((Same.modGlade _ g (fun x => { x with walks := [], walkFaults := [] }) fun _ => rfl).trans
        (endAcquires_same _ g)))
    simp only
    split
    · exact gone
    · exact gone.trans (Same.of_glades rfl rfl)

/-- A write noted (R273): only what is noted and the free values move on. -/
theorem note_same (s : State) (a n agent : Nat) (before_ : List Point) : Same s (s.note a n agent before_) := Same.of_glades rfl rfl

/-- A noted write writes its bytes (R273). -/
theorem putNoted_mem (s : State) (a : Nat) (bs : List Byte) (before_ : List Point) (agent : Nat) : (s.putNoted a bs before_ agent).mem = memPut s.mem a bs := rfl

/-- A store performed writes its bytes, whatever else it does (R233). -/
theorem write_mem (s : State) (a : Nat) (bs : List Byte) (before_ : List Point) (own : Option Nat) (agent : Nat) :
    (s.write a bs before_ own agent).mem = memPut s.mem a bs := by
  unfold State.write
  simp only
  split
  · rw [(discard_same _ _).1]; rfl
  · rfl

theorem write_wf (s : State) (a : Nat) (bs : List Byte) (before_ : List Point) (own : Option Nat) (h : Memory.wf s.mem = true) (agent : Nat := 0) :
    Memory.wf (s.write a bs before_ own agent).mem = true := by
  rw [write_mem]; exact memPut_wf bs h

/-! ## Fault records and taking a cause -/

theorem le_hostAt (f n m : Nat) : 2 ^ 60 ≤ hostAt f + n + m := by unfold hostAt; omega

/-- A fault record goes to a host's memory only (R315). -/
theorem fqWrite_keeps (s : State) (f cause flags fn ctx glade value aux : Nat) : Keeps s (s.fqWrite f cause flags fn ctx glade value aux) := by
  unfold State.fqWrite
  simp only
  split
  · exact Keeps.refl s
  · split
    · exact Keeps.of_glades rfl rfl
    · exact Keeps.trans (Keeps.put s _ _ (le_hostAt _ _ _)) (Keeps.modFn _ _ _)

theorem faultRecord_keeps (s : State) (cause flags fn ctx glade value aux : Nat) : Keeps s (s.faultRecord cause flags fn ctx glade value aux) := by
  unfold State.faultRecord
  split
  · exact fqWrite_keeps _ _ _ _ _ _ _ _ _
  · exact (fqWrite_keeps _ _ _ _ _ _ _ _ _).trans (fqWrite_keeps _ _ _ _ _ _ _ _ _)

theorem noGlade_keeps (s : State) (cause fn ctx value aux : Nat) : Keeps s (s.noGlade cause fn ctx value aux) := faultRecord_keeps _ _ _ _ _ _ _ _

theorem forester_keeps (s : State) (g cause value a : Nat) (async : Bool) : Keeps s (s.forester g cause value a async) := by
  unfold State.forester
  split
  · exact Keeps.refl s
  · next p _ =>
    simp only
    refine Keeps.trans ?_ (Keeps.modDie _ _ _)
    refine Keeps.trans ?_ (Keeps.modTh _ _ _)
    refine Keeps.trans ?_ (Keeps.modWw _ _ _ fun _ => ⟨rfl, rfl⟩)
    refine Keeps.trans ?_ (faultRecord_keeps _ _ _ _ _ _ _ _)
    refine Keeps.trans ?_ (discard_same _ _).keeps
    split
    · exact Keeps.of_glades rfl rfl
    · split
      · exact Keeps.of_glades rfl rfl
      · exact Keeps.refl s

/-- Taking a cause (R181, R412): neither a register nor a byte below the hosts' memory changes. -/
theorem take_keeps (s : State) (g cause value a : Nat) (async : Bool) : Keeps s (s.take g cause value a async) := by
  unfold State.take
  refine Keeps.trans (Keeps.modWw s g (fun w => { w with delivered := true }) fun _ => ⟨rfl, rfl⟩) ?_
  generalize s.modWw g (fun w => { w with delivered := true }) = s
  simp only
  split
  · exact forester_keeps _ _ _ _ _ _
  · exact (discard_same _ g).keeps.trans (Keeps.modWw _ g _ fun _ => ⟨rfl, rfl⟩)

theorem blockFault_keeps (s : State) (g cause value : Nat) : Keeps s (s.blockFault g cause value) := by
  unfold State.blockFault
  split <;> exact take_keeps _ _ _ _ _ _

theorem foresterAll_keeps (g : Nat) : ∀ (l : List Cause) (s : State), Keeps s (foresterAll g l s)
  | [], s => Keeps.refl s
  | _ :: t, s => (forester_keeps s _ _ _ _ _).trans (foresterAll_keeps g t _)

theorem asyncFault_keeps (s : State) (g cause value : Nat) (th : Bool) (rank : Nat) : Keeps s (s.asyncFault g cause value th rank) := by
  exact Keeps.modWw _ _ _ fun _ => ⟨rfl, rfl⟩

theorem enlist_keeps (g : Nat) (l : List Cause) (s : State) : Keeps s (enlist g l s) := by
  induction l generalizing s with
  | nil => exact Keeps.refl s
  | cons c rest ih =>
    simp only [enlist]
    refine Keeps.trans ?_ (ih _)
    split
    · exact Keeps.modWw _ _ _ fun _ => ⟨rfl, rfl⟩
    · refine Keeps.trans ?_ (foresterAll_keeps g _ _)
      exact Keeps.modWw _ _ _ fun _ => ⟨rfl, rfl⟩

/-- The causes of a cy delivered or listed (R410, R411): neither a register nor a byte below the hosts' memory changes. -/
theorem deliverCauses_keeps (s : State) (g : Nat) : Keeps s (s.deliverCauses g) := by
  unfold State.deliverCauses
  simp only
  split
  · exact Keeps.modWw _ _ _ fun _ => ⟨rfl, rfl⟩
  · split
    · refine Keeps.trans ?_ (enlist_keeps g _ _)
      exact Keeps.modWw _ _ _ fun _ => ⟨rfl, rfl⟩
    · refine Keeps.trans ?_ (Keeps.modWw _ g (fun w => { w with delivered := false }) fun _ => ⟨rfl, rfl⟩)
      refine Keeps.trans ?_ (enlist_keeps g _ _)
      refine Keeps.trans ?_ (take_keeps _ _ _ _ _ _)
      exact Keeps.modWw _ _ _ fun _ => ⟨rfl, rfl⟩

/-! ## What an instruction of a block ends in -/

/-- `finish` leaves a state that differs in its block only, or the block's fault (R112, R115, R146). -/
theorem finish_cases (s : State) (x : Fx) (h : Hdr) (v : Word) (eff : Nat) (f : Block → Block) :
    (∃ b, s.finish x h v eff f = .next (s.withBlock x.g b)) ∨ ∃ c n, s.finish x h v eff f = .next (s.blockFault x.g c n) := by
  unfold State.finish
  simp only
  split
  · exact .inr ⟨_, _, rfl⟩
  · split
    · exact .inr ⟨_, _, rfl⟩
    · exact .inl ⟨_, rfl⟩

theorem finish_keeps (s : State) (x : Fx) (h : Hdr) (v : Word) (eff : Nat) (f : Block → Block) : ∃ t, s.finish x h v eff f = .next t ∧ Keeps s t := by
  rcases finish_cases s x h v eff f with ⟨b, e⟩ | ⟨c, n, e⟩
  · exact ⟨_, e, Keeps.modWw _ _ _ fun _ => ⟨rfl, rfl⟩⟩
  · exact ⟨_, e, blockFault_keeps _ _ _ _⟩

theorem stall_keeps (s : State) (x : Fx) : Keeps s (s.stall x) := Keeps.modBlock _ _ _

theorem stop_keeps (s : State) (x : Fx) (c v : Nat) : ∃ t, s.stop x c v = .next t ∧ Keeps s t := ⟨_, rfl, blockFault_keeps _ _ _ _⟩

theorem startWalk_keeps (s : State) (g ctx va : Nat) : Keeps s (s.startWalk g ctx va) := by
  unfold State.startWalk State.perf
  split
  · exact Keeps.refl s
  · refine Keeps.trans (Keeps.modGlade s g _ ?_) (Keeps.modWw _ g _ ?_)
    · exact fun _ => rfl
    · exact fun _ => ⟨rfl, rfl⟩

theorem needPage_keeps (s : State) (vf page : Nat) (wr : Bool) (w : Waiter) : Keeps s (s.needPage vf page wr w) := by
  unfold State.needPage
  simp only
  split
  · exact Keeps.refl s
  · split <;> exact Keeps.of_glades rfl rfl

theorem leavePage_keeps (s : State) (vf page : Nat) (w : Waiter) : Keeps s (s.leavePage vf page w) := by
  unfold State.leavePage
  exact Keeps.of_glades rfl rfl

/-- An access that does not reach its place keeps memory and registers (R244, R250, R252, R263). -/
theorem try_keeps (s : State) (x : Fx) (a n align : Nat) (k : AccKind) (t : State) (h : s.try_ x a n align k = .stop t) : Keeps s t := by
  unfold State.try_ at h
  split at h
  · split at h
    · cases h; exact stall_keeps _ _
    · cases h
  · cases h; exact blockFault_keeps _ _ _ _
  · split at h
    · cases h
      refine Keeps.trans (Keeps.modGlade s x.g _ ?_) (blockFault_keeps _ _ _ _)
      exact fun _ => rfl
    · cases h; exact (startWalk_keeps _ _ _ _).trans (stall_keeps _ _)
  · simp only at h
    split at h
    · cases h; exact (leavePage_keeps _ _ _ _).trans (blockFault_keeps _ _ _ _)
    · cases h; exact (needPage_keeps _ _ _ _ _).trans (stall_keeps _ _)

/-- The shapes of the value instructions: the state itself where the instruction does not issue, else what `finish` ends in. -/
theorem alu2_cases (h : Hdr) (s : State) (f : Word → Word → Word) :
    (s.fx h true true = none ∧ alu2 h s f = .next s) ∨ ∃ x, s.fx h true true = some x ∧ alu2 h s f = s.finish x h (f x.l x.r) 0 id := by
  unfold alu2
  cases e : s.fx h true true with
  | none => exact .inl ⟨rfl, rfl⟩
  | some x => exact .inr ⟨x, rfl, rfl⟩

theorem alu1_cases (h : Hdr) (s : State) (f : Word → Word) :
    (s.fx h true false = none ∧ alu1 h s f = .next s) ∨ ∃ x, s.fx h true false = some x ∧ alu1 h s f = s.finish x h (f x.l) 0 id := by
  unfold alu1
  cases e : s.fx h true false with
  | none => exact .inl ⟨rfl, rfl⟩
  | some x => exact .inr ⟨x, rfl, rfl⟩

theorem alu0_cases (h : Hdr) (s : State) (f : Woodward → Word) :
    (s.fx h false false = none ∧ alu0 h s f = .next s) ∨ ∃ x, s.fx h false false = some x ∧ alu0 h s f = s.finish x h (f (s.ww x.g)) 0 id := by
  unfold alu0
  cases e : s.fx h false false with
  | none => exact .inl ⟨rfl, rfl⟩
  | some x => exact .inr ⟨x, rfl, rfl⟩

/-- An instruction that issues is the one in focus, of the block its glade holds. -/
theorem fx_focus (s : State) (h : Hdr) (nl nr : Bool) (x : Fx) (e : s.fx h nl nr = some x) : x.g = s.focus.glade ∧ x.i = s.focus.idx ∧ s.block s.focus.glade = some x.b := by
  unfold State.fx at e
  split at e
  · cases e
  · next b hb =>
    split at e
    · cases e
    · cases hi : b.issue s.focus.idx h.pred h.sense nl nr with
      | none => rw [hi] at e; cases e
      | some o => rw [hi] at e; cases e; exact ⟨rfl, rfl, hb⟩

end Sys2Proof.Machine
end

