-- ==== Sys2Proof/Laws/Element.lean ====
section
/-! SUPPORT. What the shared operations of the elements can do: their results, faults and holds change no byte of memory, no general register and no predicate. -/

namespace Sys2Proof.Machine

/-- Two states agree in all of memory and in every general register and predicate. -/
def Calm (s t : State) : Prop := t.mem = s.mem ∧ ∀ h, (t.ww h).g = (s.ww h).g ∧ (t.ww h).q = (s.ww h).q

theorem Calm.refl (s : State) : Calm s s := ⟨rfl, fun _ => ⟨rfl, rfl⟩⟩

theorem Calm.trans {s t u : State} (h : Calm s t) (k : Calm t u) : Calm s u :=
  ⟨k.1.trans h.1, fun x => ⟨(k.2 x).1.trans (h.2 x).1, (k.2 x).2.trans (h.2 x).2⟩⟩

theorem Calm.keeps {s t : State} (h : Calm s t) : Keeps s t := Keeps.of_eq h.1 h.2

theorem Calm.modTh (s : State) (g : Nat) (f : Thicket → Thicket) : Calm s (s.modTh g f) := ⟨rfl, fun _ => by simp⟩

theorem Calm.modElemF (s : State) (f : Elem → Elem) : Calm s (s.modElemF f) := Calm.modTh _ _ _

theorem Calm.modStemF (s : State) (f : Stem → Stem) : Calm s (s.modStemF f) := Calm.modTh _ _ _

theorem Calm.modCyc (s : State) (f : Cyc → Cyc) : Calm s (s.modCyc f) := ⟨rfl, fun _ => ⟨rfl, rfl⟩⟩

theorem Calm.life (s : State) (i k n : Nat) : Calm s (s.life i k n) := ⟨rfl, fun _ => ⟨rfl, rfl⟩⟩

theorem Calm.perf (s : State) (g e n : Nat) : Calm s (s.perf g e n) :=
  ⟨rfl, fun h => ⟨s.ww_modWw_same g h (·.g) _ fun _ => rfl, s.ww_modWw_same g h (·.q) _ fun _ => rfl⟩⟩

theorem holdCyc_calm (s : State) : Calm s s.holdCyc := Calm.modCyc _ _

theorem faultCyc_calm (s : State) (cause value : Nat) : Calm s (s.faultCyc cause value) := Calm.modCyc _ _

theorem mism_calm (s : State) (n : Nat) : Calm s (s.mism n) := by
  unfold State.mism
  split
  · exact Calm.refl s
  · exact Calm.life _ _ _ _

/-- A result on its way (R66, R191). -/
theorem result_calm (s : State) (lam : Nat) (d : Dest) (v : Val) : Calm s (s.result lam d v) := by
  cases d with
  | dis => exact Calm.refl s
  | _ => exact Calm.modElemF _ _

theorem resultG_calm (s : State) (lam : Nat) (d : Dest) (reads : List Val) (w : Word) : Calm s (s.resultG lam d reads w) :=
  (result_calm _ _ _ _).trans (mism_calm _ _)

theorem resultP_calm (s : State) (lam : Nat) (d : Dest) (reads : List Val) (w : Word) (r : BitVec 4) : Calm s (s.resultP lam d reads w r) :=
  (result_calm _ _ _ _).trans (mism_calm _ _)

theorem fernResult_calm (s : State) (lam : Nat) (d : Dest) (f : Nat → Nat) : Calm s (s.fernResult lam d f) :=
  (Calm.modStemF _ _).trans ((Calm.perf _ _ _ _).trans (mism_calm _ _))

end Sys2Proof.Machine
end

