-- ==== Sys2Proof/Laws/PerInstr.lean ====
section
/-! SUPPORT. One lemma per constructor of Instr: an instruction is at most one of a woodward word and an op word; an event is neither (R114, R119). -/

namespace Sys2Proof.Laws.OneEncoding

/-- An instruction has no woodward word or no op word. -/
def Statement (i : Instr) : Prop := encodeWord i = none ∨ encodeOp i = none

theorem add (h : Hdr) : Statement (.add h) := Or.inr rfl
theorem addi (h : Hdr) (imm : BitVec 30) : Statement (.addi h imm) := Or.inr rfl
theorem sub (h : Hdr) : Statement (.sub h) := Or.inr rfl
theorem mul (h : Hdr) : Statement (.mul h) := Or.inr rfl
theorem mulhS (h : Hdr) : Statement (.mulhS h) := Or.inr rfl
theorem mulhZ (h : Hdr) : Statement (.mulhZ h) := Or.inr rfl
theorem divS (h : Hdr) : Statement (.divS h) := Or.inr rfl
theorem divZ (h : Hdr) : Statement (.divZ h) := Or.inr rfl
theorem remS (h : Hdr) : Statement (.remS h) := Or.inr rfl
theorem remZ (h : Hdr) : Statement (.remZ h) := Or.inr rfl
theorem and (h : Hdr) : Statement (.and h) := Or.inr rfl
theorem or (h : Hdr) : Statement (.or h) := Or.inr rfl
theorem xor (h : Hdr) : Statement (.xor h) := Or.inr rfl
theorem andn (h : Hdr) : Statement (.andn h) := Or.inr rfl
theorem not (h : Hdr) : Statement (.not h) := Or.inr rfl
theorem shl (h : Hdr) : Statement (.shl h) := Or.inr rfl
theorem shr (h : Hdr) : Statement (.shr h) := Or.inr rfl
theorem sar (h : Hdr) : Statement (.sar h) := Or.inr rfl
theorem rol (h : Hdr) : Statement (.rol h) := Or.inr rfl
theorem clz (h : Hdr) : Statement (.clz h) := Or.inr rfl
theorem ctz (h : Hdr) : Statement (.ctz h) := Or.inr rfl
theorem popc (h : Hdr) : Statement (.popc h) := Or.inr rfl
theorem minS (h : Hdr) : Statement (.minS h) := Or.inr rfl
theorem minZ (h : Hdr) : Statement (.minZ h) := Or.inr rfl
theorem maxS (h : Hdr) : Statement (.maxS h) := Or.inr rfl
theorem maxZ (h : Hdr) : Statement (.maxZ h) := Or.inr rfl
theorem sext (h : Hdr) (w : Width) : Statement (.sext h w) := Or.inr rfl
theorem zext (h : Hdr) (w : Width) : Statement (.zext h w) := Or.inr rfl
theorem bext (h : Hdr) (pos : BitVec 6) (len1 : BitVec 6) : Statement (.bext h pos len1) := Or.inr rfl
theorem bins (h : Hdr) (pos : BitVec 6) (len1 : BitVec 6) : Statement (.bins h pos len1) := Or.inr rfl
theorem movi (h : Hdr) (imm : BitVec 30) : Statement (.movi h imm) := Or.inr rfl
theorem movhi (h : Hdr) (lane : BitVec 2) (imm : BitVec 16) : Statement (.movhi h lane imm) := Or.inr rfl
theorem sel (h : Hdr) : Statement (.sel h) := Or.inr rfl
theorem cmpEq (h : Hdr) (wr : Bool) (qi : BitVec 4) : Statement (.cmpEq h wr qi) := Or.inr rfl
theorem cmpNe (h : Hdr) (wr : Bool) (qi : BitVec 4) : Statement (.cmpNe h wr qi) := Or.inr rfl
theorem cmpLtS (h : Hdr) (wr : Bool) (qi : BitVec 4) : Statement (.cmpLtS h wr qi) := Or.inr rfl
theorem cmpLtZ (h : Hdr) (wr : Bool) (qi : BitVec 4) : Statement (.cmpLtZ h wr qi) := Or.inr rfl
theorem cmpLeS (h : Hdr) (wr : Bool) (qi : BitVec 4) : Statement (.cmpLeS h wr qi) := Or.inr rfl
theorem cmpLeZ (h : Hdr) (wr : Bool) (qi : BitVec 4) : Statement (.cmpLeZ h wr qi) := Or.inr rfl
theorem test (h : Hdr) (wr : Bool) (qi : BitVec 4) : Statement (.test h wr qi) := Or.inr rfl
theorem qand (h : Hdr) (wr : Bool) (qi : BitVec 4) : Statement (.qand h wr qi) := Or.inr rfl
theorem qor (h : Hdr) (wr : Bool) (qi : BitVec 4) : Statement (.qor h wr qi) := Or.inr rfl
theorem maddM (h : Hdr) (m : BitVec 4) : Statement (.maddM h m) := Or.inr rfl
theorem msubM (h : Hdr) (m : BitVec 4) : Statement (.msubM h m) := Or.inr rfl
theorem mmulM (h : Hdr) (m : BitVec 4) : Statement (.mmulM h m) := Or.inr rfl
theorem mred (h : Hdr) (m : BitVec 4) : Statement (.mred h m) := Or.inr rfl
theorem rdg (h : Hdr) (g : BitVec 6) : Statement (.rdg h g) := Or.inr rfl
theorem wrg (h : Hdr) (g : BitVec 6) : Statement (.wrg h g) := Or.inr rfl
theorem mov (h : Hdr) : Statement (.mov h) := Or.inr rfl
theorem nullEffect (h : Hdr) (n : BitVec 8) : Statement (.nullEffect h n) := Or.inr rfl
theorem nullReg (h : Hdr) (g : BitVec 6) : Statement (.nullReg h g) := Or.inr rfl
theorem land (h : Hdr) (num : BitVec 12) : Statement (.land h num) := Or.inr rfl
theorem br (h : Hdr) (off : BitVec 30) : Statement (.br h off) := Or.inr rfl
theorem bri (h : Hdr) (off : BitVec 18) (last : BitVec 12) : Statement (.bri h off last) := Or.inr rfl
theorem call (h : Hdr) (off : BitVec 30) : Statement (.call h off) := Or.inr rfl
theorem ret (h : Hdr) : Statement (.ret h) := Or.inr rfl
theorem halt (h : Hdr) : Statement (.halt h) := Or.inr rfl
theorem bkpt (h : Hdr) (num : BitVec 12) : Statement (.bkpt h num) := Or.inr rfl
theorem cvtaTo (h : Hdr) (sp : Space) : Statement (.cvtaTo h sp) := Or.inr rfl
theorem cvtaFrom (h : Hdr) (sp : Space) : Statement (.cvtaFrom h sp) := Or.inr rfl
theorem isspace (h : Hdr) (sp : Space) : Statement (.isspace h sp) := Or.inr rfl
theorem lea (h : Hdr) (sp : Space) (off : BitVec 23) : Statement (.lea h sp off) := Or.inr rfl
theorem aperq (h : Hdr) (sp : Space) : Statement (.aperq h sp) := Or.inr rfl
theorem ld (h : Hdr) (ty : MemType) (sp : Space) (off : BitVec 23) : Statement (.ld h ty sp off) := Or.inr rfl
theorem st (h : Hdr) (ty : MemType) (sp : Space) (off : BitVec 23) : Statement (.st h ty sp off) := Or.inr rfl
theorem ldT (h : Hdr) (sp : Space) (off : BitVec 23) : Statement (.ldT h sp off) := Or.inr rfl
theorem gsave (h : Hdr) (first : BitVec 6) (cnt1 : BitVec 4) (sp : Space) (off : BitVec 17) : Statement (.gsave h first cnt1 sp off) := Or.inr rfl
theorem gload (h : Hdr) (first : BitVec 6) (cnt1 : BitVec 4) (sp : Space) (off : BitVec 17) : Statement (.gload h first cnt1 sp off) := Or.inr rfl
theorem atomAdd (h : Hdr) (a : AtomHdr) : Statement (.atomAdd h a) := Or.inr rfl
theorem atomMinmax (h : Hdr) (a : AtomHdr) (op : MinMaxOp) : Statement (.atomMinmax h a op) := Or.inr rfl
theorem atomBit (h : Hdr) (a : AtomHdr) (op : BitOp) : Statement (.atomBit h a op) := Or.inr rfl
theorem atomXchg (h : Hdr) (a : AtomHdr) : Statement (.atomXchg h a) := Or.inr rfl
theorem atomCas (h : Hdr) (a : AtomHdr) (g : BitVec 6) : Statement (.atomCas h a g) := Or.inr rfl
theorem fence (h : Hdr) (order : MemOrder) (scope : Scope) : Statement (.fence h order scope) := Or.inr rfl
theorem tskStamp (h : Hdr) : Statement (.tskStamp h) := Or.inr rfl
theorem tskYield (h : Hdr) : Statement (.tskYield h) := Or.inr rfl
theorem tskYieldPhase (h : Hdr) : Statement (.tskYieldPhase h) := Or.inr rfl
theorem tskQuery (h : Hdr) (sel : QuerySel) : Statement (.tskQuery h sel) := Or.inr rfl
theorem ordStand (h : Hdr) (o : OrdHdr) : Statement (.ordStand h o) := Or.inr rfl
theorem ordStandx (h : Hdr) (o : OrdHdr) (ux : BitVec 3) (uy : BitVec 4) : Statement (.ordStandx h o ux uy) := Or.inr rfl
theorem ordRaft (h : Hdr) (o : OrdHdr) : Statement (.ordRaft h o) := Or.inr rfl
theorem ordRaftx (h : Hdr) (o : OrdHdr) (ux : BitVec 3) (uy : BitVec 4) : Statement (.ordRaftx h o ux uy) := Or.inr rfl
theorem ordRun (h : Hdr) (o : OrdHdr) : Statement (.ordRun h o) := Or.inr rfl
theorem ordRunx (h : Hdr) (o : OrdHdr) (ux : BitVec 3) (uy : BitVec 4) : Statement (.ordRunx h o ux uy) := Or.inr rfl
theorem ordWload (h : Hdr) (o : OrdHdr) : Statement (.ordWload h o) := Or.inr rfl
theorem ordLink (h : Hdr) (o : OrdHdr) : Statement (.ordLink h o) := Or.inr rfl
theorem ordToken (h : Hdr) (o : OrdHdr) : Statement (.ordToken h o) := Or.inr rfl
theorem ordSteer (h : Hdr) (o : OrdHdr) (entry : BitVec 8) : Statement (.ordSteer h o entry) := Or.inr rfl
theorem ordMode (h : Hdr) (o : OrdHdr) (mode : BitVec 16) : Statement (.ordMode h o mode) := Or.inr rfl
theorem ordBough (h : Hdr) (o : OrdHdr) (b : Bool) : Statement (.ordBough h o b) := Or.inr rfl
theorem arm (h : Hdr) : Statement (.arm h) := Or.inr rfl
theorem disarm (h : Hdr) : Statement (.disarm h) := Or.inr rfl
theorem rteSet (h : Hdr) : Statement (.rteSet h) := Or.inr rfl
theorem rillSet (h : Hdr) : Statement (.rillSet h) := Or.inr rfl
theorem rillGet (h : Hdr) (fn : RillFn) : Statement (.rillGet h fn) := Or.inr rfl
theorem rillReset (h : Hdr) : Statement (.rillReset h) := Or.inr rfl
theorem tagLookLookup (h : Hdr) : Statement (.tagLookLookup h) := Or.inr rfl
theorem tagLookRead (h : Hdr) : Statement (.tagLookRead h) := Or.inr rfl
theorem tagSet (h : Hdr) : Statement (.tagSet h) := Or.inr rfl
theorem tagSetSect (h : Hdr) : Statement (.tagSetSect h) := Or.inr rfl
theorem tagInv (h : Hdr) : Statement (.tagInv h) := Or.inr rfl
theorem slotRes (h : Hdr) : Statement (.slotRes h) := Or.inr rfl
theorem slotRelRelease (h : Hdr) : Statement (.slotRelRelease h) := Or.inr rfl
theorem slotRelDone (h : Hdr) : Statement (.slotRelDone h) := Or.inr rfl
theorem slotQry (h : Hdr) (fn : SlotFn) : Statement (.slotQry h fn) := Or.inr rfl
theorem tslotSet (h : Hdr) : Statement (.tslotSet h) := Or.inr rfl
theorem placePart (h : Hdr) : Statement (.placePart h) := Or.inr rfl
theorem placeHealth (h : Hdr) : Statement (.placeHealth h) := Or.inr rfl
theorem placeBusy (h : Hdr) : Statement (.placeBusy h) := Or.inr rfl
theorem placeFit (h : Hdr) : Statement (.placeFit h) := Or.inr rfl
theorem seedOpen (h : Hdr) : Statement (.seedOpen h) := Or.inr rfl
theorem seedAppend (h : Hdr) : Statement (.seedAppend h) := Or.inr rfl
theorem seedDraft (h : Hdr) (lmin : BitVec 5) (bmax1 : BitVec 2) (dmax1 : BitVec 4) : Statement (.seedDraft h lmin bmax1 dmax1) := Or.inr rfl
theorem seedSave (h : Hdr) : Statement (.seedSave h) := Or.inr rfl
theorem seedLoad (h : Hdr) : Statement (.seedLoad h) := Or.inr rfl
theorem seedTrim (h : Hdr) : Statement (.seedTrim h) := Or.inr rfl
theorem seedClose (h : Hdr) : Statement (.seedClose h) := Or.inr rfl
theorem graftFetch (h : Hdr) : Statement (.graftFetch h) := Or.inr rfl
theorem graftPin (h : Hdr) : Statement (.graftPin h) := Or.inr rfl
theorem graftUnpin (h : Hdr) : Statement (.graftUnpin h) := Or.inr rfl
theorem graftQryState (h : Hdr) : Statement (.graftQryState h) := Or.inr rfl
theorem graftQryFind (h : Hdr) : Statement (.graftQryFind h) := Or.inr rfl
theorem tlRead (h : Hdr) (tl : Peer) (item : TlItem) : Statement (.tlRead h tl item) := Or.inr rfl
theorem tlWaitGe (h : Hdr) (tl : Peer) : Statement (.tlWaitGe h tl) := Or.inr rfl
theorem tlWaitLag (h : Hdr) (tl : Peer) : Statement (.tlWaitLag h tl) := Or.inr rfl
theorem ccRead (h : Hdr) (item : CcItem) : Statement (.ccRead h item) := Or.inr rfl
theorem ccWait (h : Hdr) : Statement (.ccWait h) := Or.inr rfl
theorem ccAdd (h : Hdr) (b : BitVec 2) : Statement (.ccAdd h b) := Or.inr rfl
theorem cancel (h : Hdr) (b : Bool) : Statement (.cancel h b) := Or.inr rfl
theorem penBranch (h : Hdr) (b : BitVec 2) : Statement (.penBranch h b) := Or.inr rfl
theorem penAccept (h : Hdr) (b : BitVec 2) : Statement (.penAccept h b) := Or.inr rfl
theorem penDrop (h : Hdr) (mask : BitVec 4) : Statement (.penDrop h mask) := Or.inr rfl
theorem useSign (h : Hdr) : Statement (.useSign h) := Or.inr rfl
theorem perfRead (h : Hdr) : Statement (.perfRead h) := Or.inr rfl
theorem lifeRead (h : Hdr) : Statement (.lifeRead h) := Or.inr rfl
theorem trap (h : Hdr) (n : BitVec 5) : Statement (.trap h n) := Or.inr rfl
theorem tret (h : Hdr) : Statement (.tret h) := Or.inr rfl
theorem srd (h : Hdr) (num : BitVec 12) : Statement (.srd h num) := Or.inr rfl
theorem swr (h : Hdr) (num : BitVec 12) : Statement (.swr h num) := Or.inr rfl
theorem evwait (h : Hdr) (n : BitVec 8) : Statement (.evwait h n) := Or.inr rfl
theorem evsend (h : Hdr) (n : BitVec 8) : Statement (.evsend h n) := Or.inr rfl
theorem hwCallSampleKey (h : Hdr) (svc : BitVec 12) : Statement (.hwCallSampleKey h svc) := Or.inr rfl
theorem hwCallEntropy (h : Hdr) : Statement (.hwCallEntropy h) := Or.inr rfl
theorem testClr (h : Hdr) : Statement (.testClr h) := Or.inr rfl
theorem fadd (d : Dest) (imm : BitVec 12) : Statement (.fadd d imm) := Or.inl rfl
theorem fsub (d : Dest) (imm : BitVec 12) : Statement (.fsub d imm) := Or.inl rfl
theorem fmul (d : Dest) (imm : BitVec 12) : Statement (.fmul d imm) := Or.inl rfl
theorem fma (d : Dest) (imm : BitVec 12) : Statement (.fma d imm) := Or.inl rfl
theorem fnma (d : Dest) (imm : BitVec 12) : Statement (.fnma d imm) := Or.inl rfl
theorem fmin (d : Dest) (imm : BitVec 12) : Statement (.fmin d imm) := Or.inl rfl
theorem fmax (d : Dest) (imm : BitVec 12) : Statement (.fmax d imm) := Or.inl rfl
theorem fmod (d : Dest) (neg : Bool) (abs : Bool) : Statement (.fmod d neg abs) := Or.inl rfl
theorem fcmp (d : Dest) (r : FRel) : Statement (.fcmp d r) := Or.inl rfl
theorem fsel (d : Dest) (imm : BitVec 12) : Statement (.fsel d imm) := Or.inl rfl
theorem frnd (d : Dest) (imm : BitVec 12) : Statement (.frnd d imm) := Or.inl rfl
theorem fclamp (d : Dest) (imm : BitVec 12) : Statement (.fclamp d imm) := Or.inl rfl
theorem fscale (d : Dest) (imm : BitVec 12) : Statement (.fscale d imm) := Or.inl rfl
theorem cvtF32Bf16 (d : Dest) (h : BitVec 1) : Statement (.cvtF32Bf16 d h) := Or.inl rfl
theorem cvtBf16F32 (d : Dest) : Statement (.cvtBf16F32 d) := Or.inl rfl
theorem cvtF32E4m3 (d : Dest) (p : BitVec 2) : Statement (.cvtF32E4m3 d p) := Or.inl rfl
theorem cvtE4m3F32 (d : Dest) (h : BitVec 1) : Statement (.cvtE4m3F32 d h) := Or.inl rfl
theorem cvtE2m1F32 (d : Dest) (p : BitVec 2) : Statement (.cvtE2m1F32 d p) := Or.inl rfl
theorem cvtIf (d : Dest) (ty : IntType) (dir : Bool) : Statement (.cvtIf d ty dir) := Or.inl rfl
theorem iadd (d : Dest) (ty : IntType) (imm : BitVec 12) : Statement (.iadd d ty imm) := Or.inl rfl
theorem isub (d : Dest) (ty : IntType) (imm : BitVec 12) : Statement (.isub d ty imm) := Or.inl rfl
theorem imul (d : Dest) (ty : IntType) (imm : BitVec 12) : Statement (.imul d ty imm) := Or.inl rfl
theorem imulh (d : Dest) (ty : IntType) (imm : BitVec 12) : Statement (.imulh d ty imm) := Or.inl rfl
theorem iand (d : Dest) (ty : IntType) (imm : BitVec 12) : Statement (.iand d ty imm) := Or.inl rfl
theorem ior (d : Dest) (ty : IntType) (imm : BitVec 12) : Statement (.ior d ty imm) := Or.inl rfl
theorem ixor (d : Dest) (ty : IntType) (imm : BitVec 12) : Statement (.ixor d ty imm) := Or.inl rfl
theorem ishl (d : Dest) (ty : IntType) (imm : BitVec 12) : Statement (.ishl d ty imm) := Or.inl rfl
theorem ishr (d : Dest) (ty : IntType) (imm : BitVec 12) : Statement (.ishr d ty imm) := Or.inl rfl
theorem isar (d : Dest) (ty : IntType) (imm : BitVec 12) : Statement (.isar d ty imm) := Or.inl rfl
theorem imin (d : Dest) (ty : IntType) (imm : BitVec 12) : Statement (.imin d ty imm) := Or.inl rfl
theorem imax (d : Dest) (ty : IntType) (imm : BitVec 12) : Statement (.imax d ty imm) := Or.inl rfl
theorem icmp (d : Dest) (ty : IntType) (r : IRel) : Statement (.icmp d ty r) := Or.inl rfl
theorem isel (d : Dest) (ty : IntType) (imm : BitVec 12) : Statement (.isel d ty imm) := Or.inl rfl
theorem mmul (d : Dest) (m : BitVec 4) : Statement (.mmul d m) := Or.inl rfl
theorem madd (d : Dest) (m : BitVec 4) : Statement (.madd d m) := Or.inl rfl
theorem msub (d : Dest) (m : BitVec 4) : Statement (.msub d m) := Or.inl rfl
theorem bfly (d : Dest) (m : BitVec 4) : Statement (.bfly d m) := Or.inl rfl
theorem ibfly (d : Dest) (m : BitVec 4) : Statement (.ibfly d m) := Or.inl rfl
theorem pass (d : Dest) (ty : ElemType) (imm : BitVec 12) : Statement (.pass d ty imm) := Or.inl rfl
theorem passThru : Statement (.passThru) := Or.inl rfl
theorem hold (d : Dest) (ty : ElemType) (imm : BitVec 12) : Statement (.hold d ty imm) := Or.inl rfl
theorem const (d : Dest) (ty : ElemType) (imm : BitVec 12) : Statement (.const d ty imm) := Or.inl rfl
theorem agCnt (d : Dest) (n : BitVec 12) : Statement (.agCnt d n) := Or.inl rfl
theorem agLink (d : Dest) (l : BitVec 4) (n : BitVec 8) : Statement (.agLink d l n) := Or.inl rfl
theorem agLd (d : Dest) (sp : Space) (z : AgSize) : Statement (.agLd d sp z) := Or.inl rfl
theorem agSt (d : Dest) (sp : Space) (z : AgSize) : Statement (.agSt d sp z) := Or.inl rfl
theorem agGath (d : Dest) (sp : Space) (z : AgSize) : Statement (.agGath d sp z) := Or.inl rfl
theorem agScat (d : Dest) (sp : Space) (z : AgSize) : Statement (.agScat d sp z) := Or.inl rfl
theorem agAtom (d : Dest) (sc : Scope) (op : AgOp) (sp : Space) (z : Bool) : Statement (.agAtom d sc op sp z) := Or.inl rfl
theorem redFadd (d : Dest) (msk : Bool) : Statement (.redFadd d msk) := Or.inl rfl
theorem redFmax (d : Dest) (msk : Bool) : Statement (.redFmax d msk) := Or.inl rfl
theorem redIadd (d : Dest) (z : Bool) (msk : Bool) : Statement (.redIadd d z msk) := Or.inl rfl
theorem redArgmax (d : Dest) (msk : Bool) : Statement (.redArgmax d msk) := Or.inl rfl
theorem redSmerge (d : Dest) (msk : Bool) : Statement (.redSmerge d msk) := Or.inl rfl
theorem joinIsect (d : Dest) (wide : Bool) (lv : BitVec 4) : Statement (.joinIsect d wide lv) := Or.inl rfl
theorem joinUnion (d : Dest) (wide : Bool) (lv : BitVec 4) : Statement (.joinUnion d wide lv) := Or.inl rfl
theorem joinMerge (d : Dest) (wide : Bool) (lv : BitVec 4) : Statement (.joinMerge d wide lv) := Or.inl rfl
theorem sampInit (d : Dest) (p : BitVec 6) : Statement (.sampInit d p) := Or.inl rfl
theorem sampStep (d : Dest) (f : BitVec 6) : Statement (.sampStep d f) := Or.inl rfl
theorem sampEmit (d : Dest) (clr : Bool) : Statement (.sampEmit d clr) := Or.inl rfl
theorem rng (d : Dest) : Statement (.rng d) := Or.inl rfl
theorem exp2 (d : Dest) (imm : BitVec 12) : Statement (.exp2 d imm) := Or.inl rfl
theorem log2 (d : Dest) (imm : BitVec 12) : Statement (.log2 d imm) := Or.inl rfl
theorem rcp (d : Dest) (imm : BitVec 12) : Statement (.rcp d imm) := Or.inl rfl
theorem rsqrt (d : Dest) (imm : BitVec 12) : Statement (.rsqrt d imm) := Or.inl rfl
theorem sqrt (d : Dest) (imm : BitVec 12) : Statement (.sqrt d imm) := Or.inl rfl
theorem tanh (d : Dest) (imm : BitVec 12) : Statement (.tanh d imm) := Or.inl rfl
theorem erf (d : Dest) (imm : BitVec 12) : Statement (.erf d imm) := Or.inl rfl
theorem bndRel (d : Dest) (ty : ElemType) : Statement (.bndRel d ty) := Or.inl rfl
theorem resChk (d : Dest) (ty : ElemType) (flt : Bool) : Statement (.resChk d ty flt) := Or.inl rfl
theorem seqTag (d : Dest) (ty : ElemType) : Statement (.seqTag d ty) := Or.inl rfl
theorem rillIn (d : Dest) (ty : ElemType) (r : BitVec 5) : Statement (.rillIn d ty r) := Or.inl rfl
theorem rillOut (d : Dest) (ty : ElemType) (r : BitVec 5) : Statement (.rillOut d ty r) := Or.inl rfl
theorem powerOn (failed : List Nat) : Statement (.powerOn failed) := Or.inl rfl
theorem thermalShutdown : Statement (.thermalShutdown) := Or.inl rfl
theorem clockStep (die : Nat) (step : Nat) : Statement (.clockStep die step) := Or.inl rfl
theorem lifetimeFlush : Statement (.lifetimeFlush) := Or.inl rfl
theorem vfReset (vf : Nat) : Statement (.vfReset vf) := Or.inl rfl
theorem tdiStop (vf : Nat) (error : Bool) : Statement (.tdiStop vf error) := Or.inl rfl
theorem registerWrite (fn : Nat) (off : Nat) (v : Word) (granted : Bool) (tbit : Bool) : Statement (.registerWrite fn off v granted tbit) := Or.inl rfl
theorem ringEnable (vf : Nat) (ring : Nat) (granted : Bool) (tbit : Bool) : Statement (.ringEnable vf ring granted tbit) := Or.inl rfl
theorem ringTeardownDrain (vf : Nat) (ring : Nat) (tbit : Bool) : Statement (.ringTeardownDrain vf ring tbit) := Or.inl rfl
theorem ringTeardownCancel (vf : Nat) (ring : Nat) (tbit : Bool) : Statement (.ringTeardownCancel vf ring tbit) := Or.inl rfl
theorem ringWidxWrite (vf : Nat) (ring : Nat) (v : Word) (tbit : Bool) : Statement (.ringWidxWrite vf ring v tbit) := Or.inl rfl
theorem ringDrainComplete (vf : Nat) (ring : Nat) : Statement (.ringDrainComplete vf ring) := Or.inl rfl
theorem ringFetch (vf : Nat) (ring : Nat) (ok : Bool) : Statement (.ringFetch vf ring ok) := Or.inl rfl
theorem tinvPage (vf : Nat) (cmd : Word) (tbit : Bool) : Statement (.tinvPage vf cmd tbit) := Or.inl rfl
theorem tinvContext (vf : Nat) (cmd : Word) (tbit : Bool) : Statement (.tinvContext vf cmd tbit) := Or.inl rfl
theorem tinvComplete (vf : Nat) : Statement (.tinvComplete vf) := Or.inl rfl
theorem fqRcntWrite (fn : Nat) (v : Word) (tbit : Bool) : Statement (.fqRcntWrite fn v tbit) := Or.inl rfl
theorem fqLostRead (fn : Nat) (tbit : Bool) : Statement (.fqLostRead fn tbit) := Or.inl rfl
theorem msixMessage (fn : Nat) (vec : Nat) : Statement (.msixMessage fn vec) := Or.inl rfl
theorem atsInvalidate (vf : Nat) (addr : Nat) (size : Nat) : Statement (.atsInvalidate vf addr size) := Or.inl rfl
theorem prgResponse (vf : Nat) (idx : Nat) (ok : Bool) : Statement (.prgResponse vf idx ok) := Or.inl rfl
theorem prgTimeout (vf : Nat) (idx : Nat) : Statement (.prgTimeout vf idx) := Or.inl rfl
theorem pageRequest (vf : Nat) (page : Nat) : Statement (.pageRequest vf page) := Or.inl rfl
theorem walkComplete (glade : Nat) : Statement (.walkComplete glade) := Or.inl rfl
theorem selectionPass (die : Nat) : Statement (.selectionPass die) := Or.inl rfl
theorem launchBoost (die : Nat) (idx : Nat) : Statement (.launchBoost die idx) := Or.inl rfl
theorem reservingTimeout (die : Nat) (idx : Nat) : Statement (.reservingTimeout die idx) := Or.inl rfl
theorem launchStart (die : Nat) (idx : Nat) : Statement (.launchStart die idx) := Or.inl rfl
theorem unitComplete (die : Nat) (idx : Nat) (upos : Nat) : Statement (.unitComplete die idx upos) := Or.inl rfl
theorem phaseBoundary (die : Nat) (idx : Nat) : Statement (.phaseBoundary die idx) := Or.inl rfl
theorem boughSaveWrite (die : Nat) (idx : Nat) : Statement (.boughSaveWrite die idx) := Or.inl rfl
theorem phaseLimitExpiry (die : Nat) (idx : Nat) : Statement (.phaseLimitExpiry die idx) := Or.inl rfl
theorem cancelProcess (die : Nat) : Statement (.cancelProcess die) := Or.inl rfl
theorem periodRollover (ctx : Nat) : Statement (.periodRollover ctx) := Or.inl rfl
theorem infieldTest (clearing : Nat) (pass : Bool) : Statement (.infieldTest clearing pass) := Or.inl rfl
theorem timeSlotEvent (die : Nat) (idx : Nat) (slot : Nat) : Statement (.timeSlotEvent die idx slot) := Or.inl rfl
theorem contextCycle (glade : Nat) : Statement (.contextCycle glade) := Or.inl rfl
theorem resultLand (glade : Nat) : Statement (.resultLand glade) := Or.inl rfl
theorem fernResultLand (glade : Nat) : Statement (.fernResultLand glade) := Or.inl rfl
theorem agReply (glade : Nat) (stem : Nat) (row : Nat) : Statement (.agReply glade stem row) := Or.inl rfl
theorem entryStartTimed (glade : Nat) (queue : Nat) : Statement (.entryStartTimed glade queue) := Or.inl rfl
theorem entryStartGated (glade : Nat) (queue : Nat) : Statement (.entryStartGated glade queue) := Or.inl rfl
theorem entryRetire (glade : Nat) (queue : Nat) : Statement (.entryRetire glade queue) := Or.inl rfl
theorem creditTimerFire (glade : Nat) : Statement (.creditTimerFire glade) := Or.inl rfl
theorem standFire (glade : Nat) : Statement (.standFire glade) := Or.inl rfl
theorem standSlotRelease (glade : Nat) : Statement (.standSlotRelease glade) := Or.inl rfl
theorem standFireComplete (glade : Nat) : Statement (.standFireComplete glade) := Or.inl rfl
theorem drainBeat (glade : Nat) (set : Nat) : Statement (.drainBeat glade set) := Or.inl rfl
theorem raftNoticeServe (glade : Nat) (raft : Nat) : Statement (.raftNoticeServe glade raft) := Or.inl rfl
theorem raftTileLand (glade : Nat) (raft : Nat) : Statement (.raftTileLand glade raft) := Or.inl rfl
theorem wloadRegion (glade : Nat) : Statement (.wloadRegion glade) := Or.inl rfl
theorem rillArrival (glade : Nat) (rill : Nat) (bytes : Nat) : Statement (.rillArrival glade rill bytes) := Or.inl rfl
theorem landingArrival (glade : Nat) : Statement (.landingArrival glade) := Or.inl rfl
theorem moteArrival (glade : Nat) : Statement (.moteArrival glade) := Or.inl rfl
theorem moteReinjection (glade : Nat) (stream : Nat) : Statement (.moteReinjection glade stream) := Or.inl rfl
theorem seedReplayStep (die : Nat) (bank : Nat) : Statement (.seedReplayStep die bank) := Or.inl rfl
theorem graftFetchComplete (entry : Nat) : Statement (.graftFetchComplete entry) := Or.inl rfl
theorem graftFetchTimeout (entry : Nat) : Statement (.graftFetchTimeout entry) := Or.inl rfl
theorem waitTimeout (glade : Nat) (idx : Nat) : Statement (.waitTimeout glade idx) := Or.inl rfl
theorem orderStall (glade : Nat) : Statement (.orderStall glade) := Or.inl rfl
theorem blockFetch (glade : Nat) : Statement (.blockFetch glade) := Or.inl rfl
theorem blockCommit (glade : Nat) : Statement (.blockCommit glade) := Or.inl rfl
theorem laneFailure (link : Nat) (lane : Nat) : Statement (.laneFailure link lane) := Or.inl rfl
theorem linkUp (link : Nat) (number : Nat) (canopy : Nat) (chain : List Byte) (aliasCert : List Byte) (key : List Byte) : Statement (.linkUp link number canopy chain aliasCert key) := Or.inl rfl
theorem linkDown (link : Nat) : Statement (.linkDown link) := Or.inl rfl
theorem peerReclaimTimeout (peer : Nat) : Statement (.peerReclaimTimeout peer) := Or.inl rfl
theorem flitData (link : Nat) (seq : Nat) (ok : Bool) (credits : Nat) (payload : List Byte) : Statement (.flitData link seq ok credits payload) := Or.inl rfl
theorem flitNotice (link : Nat) (seq : Nat) (ok : Bool) (credits : Nat) (payload : List Byte) : Statement (.flitNotice link seq ok credits payload) := Or.inl rfl
theorem flitSlotRes (link : Nat) (seq : Nat) (ok : Bool) (credits : Nat) (payload : List Byte) : Statement (.flitSlotRes link seq ok credits payload) := Or.inl rfl
theorem flitSlotAnswer (link : Nat) (seq : Nat) (ok : Bool) (credits : Nat) (payload : List Byte) : Statement (.flitSlotAnswer link seq ok credits payload) := Or.inl rfl
theorem flitSlotRelease (link : Nat) (seq : Nat) (ok : Bool) (credits : Nat) (payload : List Byte) : Statement (.flitSlotRelease link seq ok credits payload) := Or.inl rfl
theorem flitSlotReclaim (link : Nat) (seq : Nat) (ok : Bool) (credits : Nat) (payload : List Byte) : Statement (.flitSlotReclaim link seq ok credits payload) := Or.inl rfl
theorem flitCall (link : Nat) (seq : Nat) (ok : Bool) (credits : Nat) (payload : List Byte) : Statement (.flitCall link seq ok credits payload) := Or.inl rfl
theorem flitCallDone (link : Nat) (seq : Nat) (ok : Bool) (credits : Nat) (payload : List Byte) : Statement (.flitCallDone link seq ok credits payload) := Or.inl rfl
theorem flitSpdm (link : Nat) (seq : Nat) (ok : Bool) (credits : Nat) (payload : List Byte) : Statement (.flitSpdm link seq ok credits payload) := Or.inl rfl
theorem flitNak (link : Nat) (seq : Nat) (ok : Bool) (credits : Nat) (payload : List Byte) : Statement (.flitNak link seq ok credits payload) := Or.inl rfl
theorem flitVersion (link : Nat) (seq : Nat) (ok : Bool) (credits : Nat) (payload : List Byte) : Statement (.flitVersion link seq ok credits payload) := Or.inl rfl
theorem flitSuspect (link : Nat) (seq : Nat) (ok : Bool) (credits : Nat) (payload : List Byte) : Statement (.flitSuspect link seq ok credits payload) := Or.inl rfl
theorem flitPeerAbort (link : Nat) (seq : Nat) (ok : Bool) (credits : Nat) (payload : List Byte) : Statement (.flitPeerAbort link seq ok credits payload) := Or.inl rfl
theorem slotAnswerTimeout (glade : Nat) : Statement (.slotAnswerTimeout glade) := Or.inl rfl
theorem spdmGetVersion (rsp : Nat) (common : Bool) : Statement (.spdmGetVersion rsp common) := Or.inl rfl
theorem spdmGetCapabilities (rsp : Nat) : Statement (.spdmGetCapabilities rsp) := Or.inl rfl
theorem spdmNegotiateAlgorithms (req : SpdmOffer) : Statement (.spdmNegotiateAlgorithms req) := Or.inl rfl
theorem spdmGetDigests (rsp : Nat) : Statement (.spdmGetDigests rsp) := Or.inl rfl
theorem spdmGetCertificate (req : SpdmPortion) : Statement (.spdmGetCertificate req) := Or.inl rfl
theorem spdmChallenge (req : SpdmParam) (nonce : List Byte) : Statement (.spdmChallenge req nonce) := Or.inl rfl
theorem spdmGetMeasurements (req : SpdmParam) (nonce : List Byte) : Statement (.spdmGetMeasurements req nonce) := Or.inl rfl
theorem spdmKeyExchange (rsp : Nat) (ses : Nat) (secret : List Byte) : Statement (.spdmKeyExchange rsp ses secret) := Or.inl rfl
theorem spdmFinish (rsp : Nat) (ses : Nat) : Statement (.spdmFinish rsp ses) := Or.inl rfl
theorem spdmKeyUpdate (rsp : Nat) (ses : Nat) : Statement (.spdmKeyUpdate rsp ses) := Or.inl rfl
theorem spdmHeartbeat (rsp : Nat) (ses : Nat) : Statement (.spdmHeartbeat rsp ses) := Or.inl rfl
theorem spdmEndSession (rsp : Nat) (ses : Nat) : Statement (.spdmEndSession rsp ses) := Or.inl rfl
theorem spdmUnsupported (rsp : Nat) : Statement (.spdmUnsupported rsp) := Or.inl rfl
theorem jobJoin (ses : Nat) (serial : Nat) (pos : Nat) : Statement (.jobJoin ses serial pos) := Or.inl rfl
theorem quote (ses : Nat) (nonce : List Byte) : Statement (.quote ses nonce) := Or.inl rfl
theorem sessionOpen (ses : Nat) : Statement (.sessionOpen ses) := Or.inl rfl
theorem sessionClose (ses : Nat) (handle : Nat) : Statement (.sessionClose ses handle) := Or.inl rfl
theorem weightInstall (ses : Nat) (q : List Byte) (va : Nat) (pos : Nat) (chunks : List (List Byte)) : Statement (.weightInstall ses q va pos chunks) := Or.inl rfl
theorem imageKey (ses : Nat) (key : List Byte) : Statement (.imageKey ses key) := Or.inl rfl
theorem jobOpen (request : List Byte) : Statement (.jobOpen request) := Or.inl rfl
theorem jobClose (ctx : Nat) : Statement (.jobClose ctx) := Or.inl rfl
theorem powerCapSet (watts : Nat) : Statement (.powerCapSet watts) := Or.inl rfl
theorem firmwareUpdate (heart : Bool) (img : List Byte) (secver : Nat) (sig : List Byte) : Statement (.firmwareUpdate heart img secver sig) := Or.inl rfl
theorem pldmMonitor : Statement (.pldmMonitor) := Or.inl rfl
theorem packageNumberSet (num : Nat) (canopy : Nat) : Statement (.packageNumberSet num canopy) := Or.inl rfl
theorem usageRecordRequest (ctx : Nat) (nonce : List Byte) : Statement (.usageRecordRequest ctx nonce) := Or.inl rfl
theorem powerFail : Statement (.powerFail) := Or.inl rfl
theorem quotaChange (ctx : Nat) (graft : Nat) (usage : Nat) (occ : Nat) : Statement (.quotaChange ctx graft usage occ) := Or.inl rfl
theorem tdispLockInterface (vf : Nat) : Statement (.tdispLockInterface vf) := Or.inl rfl
theorem tdispStartInterface (vf : Nat) : Statement (.tdispStartInterface vf) := Or.inl rfl
theorem ideKmKeyProg (req : IdeKey) : Statement (.ideKmKeyProg req) := Or.inl rfl
theorem atsTranslationCompletion (vf : Nat) (page : Nat) (rd : Bool) (wr : Bool) : Statement (.atsTranslationCompletion vf page rd wr) := Or.inl rfl
theorem agStorePerformed (glade : Nat) (stem : Nat) (row : Nat) : Statement (.agStorePerformed glade stem row) := Or.inl rfl
theorem flitIdle (link : Nat) (seq : Nat) (ok : Bool) (credits : Nat) : Statement (.flitIdle link seq ok credits) := Or.inl rfl
theorem histogramSecond (temps : List Nat) (mvs : List Nat) : Statement (.histogramSecond temps mvs) := Or.inl rfl

end Sys2Proof.Laws.OneEncoding
end

