-- ==== Sys2Proof/Tests/Witness1.lean ====
section
/-! SUPPORT. For each statement about the instructions of a block, concrete states and operands that meet its hypotheses, clause by clause. -/

namespace Sys2Proof.Tests

set_option Elab.async false

open Sys2Proof Sys2Proof.Machine

/-! ## A small state: glade 0 runs a unit of context 5 with an atomic block of three words at 64 -/

/-- A header with two targets: slot L of instruction 1 and a token for instruction 2. -/
def hd : Hdr := ⟨0, false, some ⟨.l, 1⟩, some ⟨.o, 2⟩⟩

/-- A block whose instruction 0 holds operands L and R, with room for 112 effects. -/
def tB (l r : Word) : Block := { addr := 64, h1 := BitVec.ofNat 64 (2 ^ 39 + 112 * 2 ^ 7), words := [0, 0, 0], ts := 3, qf := 1, opL := [(0, l)], opR := [(0, r)] }

def tPlace : Place := { die := 0, launch := 0, arm := 0, upos := 0, ux := 0, uy := 0, w := 1, h := 1, present := 1, ctx := 5, vf := 1, incarn := 0 }

def tJob : Job := { vf := 1, classCap := 3, partitions := [0, 0xFF, 0xFF, 0xFF], joins := [(0, ⟨some 7, [1]⟩)], serial := 1, graftQuota := 1 }

/-- A woodward with that block, modulus register 0 valid and 1 not. -/
def tWw (b : Block) : Woodward := { started := true, block := some b, mqQ := [(0, 7)], mqstat := 1, evc := [(1, 2)], g := [(1, 11)] }

def tState (b : Block) : State := { glades := [(0, { cur := { place := some tPlace, ww := tWw b } })], jobs := [(5, tJob)], dies := [(0, {})], fns := [(1, {})], pk := { power := 1, health := 2 ^ 512 - 1 } }

def tS (l r : Word) : State := tState (tB l r)

def tX (l r : Word) : Fx := ⟨0, 0, tB l r, l, r⟩

/-- The same without the atomic flag. -/
def tBp (l r : Word) : Block := { tB l r with h1 := BitVec.ofNat 64 (112 * 2 ^ 7) }
def tSp (l r : Word) : State := tState (tBp l r)
def tXp (l r : Word) : Fx := ⟨0, 0, tBp l r, l, r⟩


/-- Targets that differ in their slot, O among them, and name free slots. -/
theorem hd_fits (x : Fx) (n : Nat) (h : x.b.effects + n ≤ x.b.socount) (hl : nfind x.b.opL 1 = none) : x.fits hd n := by
  have ht : hdrTargets hd = [⟨.l, 1⟩, ⟨.o, 2⟩] := rfl
  refine ⟨h, ?_, ?_⟩
  · rw [ht]; exact List.pairwise_cons.2 ⟨fun t h => by simp at h; subst h; exact Or.inr (Or.inl (by decide)), List.pairwise_singleton _ _⟩
  · intro t h
    rw [ht] at h
    simp at h
    rcases h with rfl | rfl
    · exact hl
    · trivial

/-- An instruction with that header issues as `x`, with room for `n` effects and its targets free. -/
def issues (s : State) (nl nr : Bool) (x : Fx) (n : Nat) : Bool :=
  decide (s.fx hd nl nr = some x) && decide (x.b.effects + n ≤ x.b.socount) && decide (nfind x.b.opL 1 = none)

theorem issues_fits {s : State} {nl nr : Bool} {x : Fx} {n : Nat} (h : issues s nl nr x n = true) : s.fx hd nl nr = some x ∧ x.fits hd n := by
  simp only [issues, Bool.and_eq_true, decide_eq_true_eq] at h
  exact ⟨h.1.1, hd_fits x n h.1.2 h.2⟩

/-- A header without targets asks for nothing but room. -/
theorem plain_fits (x : Fx) (n : Nat) (p : BitVec 4) (b : Bool) (h : x.b.effects + n ≤ x.b.socount) : x.fits ⟨p, b, none, none⟩ n :=
  ⟨h, List.Pairwise.nil, by intro t h; simp [hdrTargets] at h⟩

theorem tX_ordered (l r : Word) : (tX l r).ordered := by intro p hp; simp [tX, tB] at hp

/-! ## Values -/

theorem witness_IntegerResults : ((tS 9 0).fx hd true true = some (tX 9 0) ∧ (tX 9 0).fits hd 0) ∧ ((tS 9 63).fx hd true false = some (tX 9 63) ∧ (tX 9 63).fits hd 0)
    ∧ (63#6).toNat + ((0#6).toNat + 1) ≤ 64 ∧ (0#6).toNat + ((63#6).toNat + 1) ≤ 64 :=
  ⟨issues_fits (by decide +kernel), issues_fits (by decide +kernel), by decide, by decide⟩

theorem witness_ValueResults_fixed : ((tS 9 0).fx hd false false = some (tX 9 0) ∧ (tX 9 0).fits hd 0) ∧ ((tS 9 0).fx hd false false = some (tX 9 0) ∧ (tX 9 0).fits hd (112#8).toNat) :=
  ⟨issues_fits (by decide +kernel), issues_fits (by decide +kernel)⟩

/-- A block whose instruction 0 names slot Q of instruction 1, a SEL with all its operands. -/
def selB : Block := { tB 0 0 with words := [assembleWord 0x048 ⟨0, false, some ⟨.q, 1⟩, none⟩ 0, assembleWord 0x021 ⟨0, false, none, none⟩ 0], done := [0], opL := [(1, 5)], opR := [(1, 6)], opQ := [(1, 0)] }
def selS : State := { tState selB with focus := { glade := 0, idx := 1 } }

theorem witness_ValueResults_sel :
    (selS.block selS.focus.glade = some selB ∧ (selB.atomic = true → selS.frontier 0 = true) ∧ selS.focus.idx ∉ selB.done ∧ selB.named .o 1 ≤ nget 0 selB.toks 1
      ∧ nfind selB.opL 1 = some 5 ∧ nfind selB.opR 1 = some 6 ∧ nfind selB.opQ 1 = some 0 ∧ selB.named .q 1 ≠ 0)
    ∧ (Fx.mk 0 1 selB 5 6).fits ⟨0, false, none, none⟩ 0
    ∧ (let b := tB 5 6; (tS 5 6).block 0 = some b ∧ (b.atomic = true → (tS 5 6).frontier 0 = true) ∧ 0 ∉ b.done ∧ b.named .o 0 ≤ nget 0 b.toks 0 ∧ nfind b.opL 0 = some 5 ∧ nfind b.opR 0 = some 6
      ∧ b.named .q 0 = 0 ∧ hd.pred = 0 ∧ b.qf.getLsbD 0 = true) ∧ (Fx.mk 0 0 (tB 5 6) 5 6).fits hd 0 :=
  ⟨by decide +kernel, plain_fits _ _ _ _ (by decide +kernel), by decide +kernel, hd_fits _ _ (by decide +kernel) (by decide +kernel)⟩

theorem witness_ValueResults_compare : ((tS 9 9).fx hd true true = some (tX 9 9) ∧ (tX 9 9).fits hd 0) ∧ (true = true → nfind (tX 9 9).b.qw (15#4).toNat = none) ∧ (false = true → nfind (tX 9 9).b.qw 0 = none) :=
  ⟨issues_fits (by decide +kernel), by decide +kernel, by decide +kernel⟩

theorem witness_ModularResults :
    (((tS 9 0).fx hd true true = some (tX 9 0) ∧ (tX 9 0).fits hd 0) ∧ ((tS 9 0).ww 0).mqstat.getLsbD (0#4).toNat = true ∧ 0 < (nget 0 ((tS 9 0).ww 0).mqQ (0#4).toNat).toNat)
    ∧ (((tS 9 0).fx hd true false = some (tX 9 0) ∧ (tX 9 0).fits hd 0)) ∧ ((tS 9 0).ww 0).mqstat.getLsbD (15#4).toNat = false := by
  refine ⟨⟨issues_fits ?_, ?_⟩, issues_fits ?_, ?_⟩ <;> decide +kernel

theorem witness_AddressConversion :
    ((tS 0xFF00000000000000 0).fx hd true false = some (tX 0xFF00000000000000 0) ∧ (tX 0xFF00000000000000 0).fits hd 0)
    ∧ ((tS 0xFF000000000FFFFF 0).fx hd true false = some (tX 0xFF000000000FFFFF 0) ∧ (tX 0xFF000000000FFFFF 0).fits hd 0)
    ∧ ((tS 0x00FFFFFFFFFFFFFF 0).fx hd true false = some (tX 0x00FFFFFFFFFFFFFF 0) ∧ (tX 0x00FFFFFFFFFFFFFF 0).fits hd 0)
    ∧ ((tS 0x0100000000000000 0).fx hd true false = some (tX 0x0100000000000000 0) ∧ (tX 0x0100000000000000 0).fits hd 0)
    ∧ ((tS 0 0).fx hd false false = some (tX 0 0) ∧ (tX 0 0).fits hd 0) := by
  refine ⟨issues_fits ?_, issues_fits ?_, issues_fits ?_, issues_fits ?_, issues_fits ?_⟩ <;> decide +kernel

/-! ## Registers, branches, system registers -/

def gwB : Block := { tB 9 0 with gw := [(3, some 1)] }
def loadedB : Block := { tB 9 0 with pend := [(2, .gload [(3, 1)])] }

theorem witness_OutputsAndControl_registers :
    ((tS 9 0).fx hd true false = some (tX 9 0) ∧ (tX 9 0).fits hd 0) ∧ ((tS 9 0).fx hd false false = some (tX 9 0) ∧ (tX 9 0).fits hd 0) ∧ nfind (tX 9 0).b.gw (3#6).toNat = none ∧ (3#6).toNat ∉ (tX 9 0).b.loaded
    ∧ ((tState gwB).fx hd true false = some ⟨0, 0, gwB, 9, 0⟩ ∧ nfind gwB.gw (3#6).toNat ≠ none)
    ∧ (tState gwB).fx hd false false = some ⟨0, 0, gwB, 9, 0⟩ ∧ (tState loadedB).fx hd false false = some ⟨0, 0, loadedB, 9, 0⟩
    ∧ ((tState loadedB).fx hd true false = some ⟨0, 0, loadedB, 9, 0⟩ ∧ nfind loadedB.gw (3#6).toNat = none ∧ (3#6).toNat ∈ loadedB.loaded) :=
  ⟨issues_fits (by decide +kernel), issues_fits (by decide +kernel), by and_intros <;> decide +kernel⟩

def brB : Block := { tB 9 0 with branch := some .halt }
def inS : State := (tS 9 0).modWw 0 fun w => { w with inh := true }

theorem witness_OutputsAndControl_branches :
    ((tS 9 0).fx hd false false = some (tX 9 0) ∧ (tX 9 0).fits hd 0) ∧ (tX 9 0).b.branch = none ∧ ((tS 9 0).ww 0).inh = false
    ∧ (inS.fx hd false false = some (tX 9 0) ∧ (inS.ww 0).inh = true) ∧ ((tS 9 0).fx hd true false = some (tX 9 0) ∧ (tX 9 0).fits hd 0)
    ∧ ((tState brB).fx hd false false = some ⟨0, 0, brB, 9, 0⟩ ∧ brB.branch ≠ none) ∧ (tState brB).fx hd true false = some ⟨0, 0, brB, 9, 0⟩
    ∧ (((tState brB).modWw 0 fun w => { w with inh := true }).fx hd false false = some ⟨0, 0, brB, 9, 0⟩ ∧ (((tState brB).modWw 0 fun w => { w with inh := true }).ww 0).inh = true) := by
  refine ⟨issues_fits ?_, ?_, ?_, ?_, issues_fits ?_, ?_, ?_, ?_⟩ <;> decide +kernel

/-- Entry 2 of a jump table at 128 holds the target 0x340 with label 7; entry 1 has a reserved bit. -/
def jumpS : State := ((tS 2 0).put (128 + 16) (toBytes 8 0x700340)).put (128 + 8) [1]
def jumpB : Block := { tB 2 0 with branch := some .halt }
def jumpS2 : State := (tState jumpB).put (128 + 16) (toBytes 8 0x700340)
def jumpS1 : State := ((tS 1 0).put (128 + 16) (toBytes 8 0x700340)).put (128 + 8) [1]

theorem witness_OutputsAndControl_jump :
    ((tS 2 0).fx hd true false = some (tX 2 0) ∧ (1#12).toNat < (tX 2 0).l.toNat)
    ∧ ((tX 2 0).l.toNat ≤ (2#12).toNat ∧ (64 : Int) + 64 * (BitVec.ofInt 18 (-2)).toInt + 8 * 2 < 0)
    ∧ (2 : Nat) ^ 20 < 64 + 64 * (16383#18).toInt + 8 * 2 + 8
    ∧ (jumpS.fx hd true false = some (tX 2 0) ∧ (64 : Int) + 64 * (1#18).toInt + 8 * 2 = 144 ∧ jumpS.resolve 0 (0xFF00000000000000 + 144) 8 8 .rd = .ok 144 ∧ jumpS.heldSector 0 144 = false
      ∧ field (ofBytes (jumpS.loadBytes (tX 2 0) 144 8)) 32 32 = 0 ∧ field (ofBytes (jumpS.loadBytes (tX 2 0) 144 8)) 0 6 = 0 ∧ (tX 2 0).b.branch = none) ∧ (tX 2 0).fits hd 0
    ∧ (jumpS1.fx hd true false = some (tX 1 0) ∧ jumpS1.resolve 0 (0xFF00000000000000 + 136) 8 8 .rd = .ok 136 ∧ jumpS1.heldSector 0 136 = false
      ∧ field (ofBytes (jumpS1.loadBytes (tX 1 0) 136 8)) 0 6 ≠ 0)
    ∧ (jumpS2.fx hd true false = some ⟨0, 0, jumpB, 2, 0⟩ ∧ jumpB.branch ≠ none ∧ jumpS2.resolve 0 (0xFF00000000000000 + 144) 8 8 .rd = .ok 144 ∧ jumpS2.heldSector 0 144 = false
      ∧ field (ofBytes (jumpS2.loadBytes ⟨0, 0, jumpB, 2, 0⟩ 144 8)) 32 32 = 0 ∧ field (ofBytes (jumpS2.loadBytes ⟨0, 0, jumpB, 2, 0⟩ 144 8)) 0 6 = 0) := by
  refine ⟨?_, ?_, ?_, ?_, (issues_fits (s := tS 2 0) (nl := true) (nr := false) ?_).2, ?_, ?_⟩ <;> decide +kernel

def evS : State := (tS 9 0).modWw 0 fun w => { w with evc := [(1, 2)], evseen := [(1, 1)] }

theorem witness_SystemInstructions_registers :
    ((tS 9 0).fx hd false false = some (tX 9 0) ∧ (tX 9 0).fits hd 0) ∧ ((tS 9 0).fx hd true false = some (tX 9 0) ∧ (tX 9 0).fits hd 1) ∧ ((tS 9 0).fx hd false false = some (tX 9 0) ∧ (tX 9 0).fits hd 1)
    ∧ (∀ n ∈ [0x000, 0x008, 0x010, 0x016, 0x020, 0x022, 0x032, 0x040, 0x07E, 0x080, 0x088, 0x08F, 0x091, 0x09C, 0x0A2, 0x0BF, 0x0CF], sysRead (tS 9 0) 0 3 n ≠ none)
    ∧ (∀ n ∈ [0x009, 0x017, 0x023, 0x043, 0x07F, 0x090 + 2, 0x0A3, 0x0D0, 0xFFF], sysRead (tS 9 0) 0 3 n = none) := by
  refine ⟨issues_fits ?_, issues_fits ?_, issues_fits ?_, ?_, ?_⟩ <;> decide +kernel

/-- Two EVWAITs of counter 1, the second about to issue. -/
def evWaitB : Block := { tB 0 0 with words := [assembleWord 0x184 ⟨0, false, none, none⟩ 1, assembleWord 0x184 ⟨0, false, none, none⟩ 1, 0] }
def evWaitS : State := { tState evWaitB with focus := { glade := 0, idx := 1 } }

theorem witness_SystemInstructions_events :
    (field (0x2F#8).toNat 4 2 ≠ 3 ∧ field (0x2F#8).toNat 6 2 = 0) ∧ field (0x30#8).toNat 4 2 = 3 ∧ field (0x40#8).toNat 6 2 ≠ 0
    ∧ (evS.fx hd false false = some (tX 9 0) ∧ (tX 9 0).fits hd 0) ∧ (field (1#8).toNat 4 4 = 0 ∧ (tX 9 0).b.evwaitOpen 1 0 = false
      ∧ (nget 0 (evS.ww 0).evseen 1).toNat + (tX 9 0).b.evwaits 1 0 < (nget 0 (evS.ww 0).evc 1).toNat) ∧ (nget 0 (evS.ww 0).evc 15).toNat ≤ (nget 0 (evS.ww 0).evseen 15).toNat + (tX 9 0).b.evwaits 15 0
    ∧ (field (0x10#8).toNat 4 4 ≠ 0 ∧ field (15#8).toNat 4 4 = 0)
    ∧ (evWaitS.fx hd false false = some ⟨0, 1, evWaitB, 0, 0⟩ ∧ evWaitB.evwaitOpen 1 1 = true) := by
  refine ⟨?_, ?_, ?_, issues_fits ?_, ?_, ?_, ?_, ?_⟩ <;> decide +kernel

theorem witness_SystemInstructions_services :
    (tSp 9 0).fx hd true false = some (tXp 9 0) ∧ (tXp 9 0).b.atomic = false ∧ ((tS 0 0).fx hd true false = some (tX 0 0) ∧ (tX 0 0).fits hd 1) ∧ (tX 0 0).b.atomic = true
    ∧ (tS 0 0).place 0 = some tPlace ∧ (tX 0 0).l.toNat < 16 ∧ nfind ((tS 0 0).job 5).joins 0 = some ⟨some 7, [1]⟩
    ∧ ((tX 0xFFFE0 0).l.toNat % 32 = 0 ∧ (tX 0xFFFE0 0).l.toNat < 2 ^ 20 ∧ (tS 0xFFFE0 0).resolve 0 (0xFF00000000000000 + 0xFFFE0) 32 32 .wr = .ok 0xFFFE0 ∧ (tS 0xFFFE0 0).heldSector 0 0xFFFE0 = false
        ∧ (tX 0xFFFE0 0).b.conflict 0 (0xFF00000000000000 + 0xFFFE0) 0xFFFE0 32 = none)
    ∧ (1#8 ≠ 0#8 ∧ (tS 16 0).fx hd true false = some (tX 16 0) ∧ 16 ≤ (tX 16 0).l.toNat ∧ (tX 16 0).l.toNat % 32 ≠ 0 ∧ (tX 16 0).b.atomic = true ∧ (tS 0x100000 0).fx hd true false = some (tX 0x100000 0)
        ∧ 2 ^ 20 ≤ (tX 0x100000 0).l.toNat)
    ∧ ((tS 15 0).fx hd true false = some (tX 15 0) ∧ (tX 15 0).l.toNat < 16 ∧ nfind ((tS 15 0).job 5).joins (tX 15 0).l.toNat = none)
    ∧ ((tS 0 0).fx hd false false = some (tX 0 0) ∧ (tX 0 0).fits hd 0) ∧ ((tS 0 0).clearing (clearingOf 0)).last < 4 ∧ ((tS 0 0).clearing (clearingOf 0)).seq < 2 ^ 32 := by
  refine ⟨?_, ?_, issues_fits ?_, ?_, ?_, ?_, ?_, ?_, ?_, ?_, issues_fits ?_, ?_, ?_⟩ <;> decide +kernel

end Sys2Proof.Tests
end

