-- ==== Sys2Proof/Tests/Witness4.lean ====
section
/-! SUPPORT. Witnesses for the statements about element operations. -/

namespace Sys2Proof.Tests

set_option Elab.async false

open Sys2Proof Sys2Proof.Machine

/-! ## An element: row 3 of stem 2 of glade 0 in a context cycle of a run with modulus 7 and a latched key -/

def tRun (key : Option Word) : Run := { opnum := 1, first := 0, len := 99, mods := [(0, 7)], seqid := 1, pos := 2, key := key }
def eGlade (e : Elem) (key : Option Word) (eng : Engines) : Glade :=
  { cur := { place := some tPlace, ww := tWw (tB 0 0), eng := eng, th := { cnt := 20, elems := [(35, e)], run := some (tRun key) } } }
def eSt (e : Elem) (key : Option Word) (eng : Engines) : State :=
  { tS 0 0 with glades := [(0, eGlade e key eng)], focus := { glade := 0, stem := 2, row := 3 }, cyc := some { glade := 0, todo := [], saved := (eGlade e key eng).cur } }
def eS (e : Elem) : State := eSt e (some 5) {}

def val (w : Word) : Val := { data := w, residue := mod15 w }
/-- Lines with A, B and C. -/
def lines (a b c : Val) : Elem := { la := [a], lb := [b], lc := [c] }
def off : Val := { valid := false }

/-! ## Conversions -/

theorem witness_FloatElements :
    (eS (lines (val 1) (val 2) (val 3))).modesF.1 ≠ .rsto
    ∧ (eSt { lines (val 1) (val 2) (val 3) with rm := 4 } none {}).modesF.1 = .rsto ∧ (eSt { lines (val 1) (val 2) (val 3) with rm := 4 } none {}).runF.key = none
    ∧ (eS { lines (val 1) (val 2) (val 3) with rm := 4, rblk := 2 ^ 32 - 2, rword := 3 }).modesF.1 = .rsto ∧ (eS { lines (val 1) (val 2) (val 3) with rm := 4, rblk := 2 ^ 32 - 2, rword := 3 }).runF.key = some 5
    ∧ (eS { lines (val 1) (val 2) (val 3) with rm := 4, rblk := 2 ^ 32 - 2, rword := 3 }).drawPos + 4 ≤ 2 ^ 34 := by decide +kernel

/-- Line A of an unsigned 32-bit subtraction is less than line B; both carry their data's residue, and another pair does not. -/
theorem witness_IntegerElements :
    ((eS (lines (val 1) (val 2) (val 3))).lineA.agrees ∧ (eS (lines (val 1) (val 2) (val 3))).lineB.agrees)
    ∧ (¬ (IntType.s32 = .s64 ∨ IntType.s32 = .z64)) ∧ (IntType.z64 = .s64 ∨ IntType.z64 = .z64) := by
  refine ⟨⟨?_, ?_⟩, by decide, by decide⟩ <;> (unfold Val.agrees; decide +kernel)

theorem witness_ModularElements : (0 : Int) < (eS {}).modulusF (0#4).toNat ∧ ((eS {}).modulusF (0#4).toNat : Int) < 2 ^ 62
    ∧ (0 : Int) < (eS {}).modulusF (15#4).toNat ∧ ((eS {}).modulusF (15#4).toNat : Int) < 2 ^ 62 := by decide +kernel

theorem witness_PlumbingAndWalks :
    (eS (lines off (val 2) (val 3))).lineA.valid = false ∧ (eS (lines (val 1) (val 2) (val 3))).lineA.valid = true ∧ (eS {}).cyc = some { glade := 0, todo := [], saved := (eGlade {} (some 5) {}).cur } := by
  decide +kernel

/-- A request for the last doubleword of the burrow; one past the spaces; one with 32 outstanding. -/
def agE (a : Word) (n : Nat) : Elem := { lines (val 0) (val a) (val 7) with agOut := List.replicate n { issued := 0, kind := .store, gaddr := 0, phys := 0, key := none, size := 8, operand := 0, edm := 0, last := false } }
def agT (d : Dest) (a : Word) (n : Nat) : State := (eS (agE a n)).agGave d a [(eS (agE a n)).lineA, (eS (agE a n)).lineB]

theorem witness_AddressGenerators :
    ((eS (agE 0xFFFF8 31)).lineA.valid = true ∧ (eS (agE 0xFFFF8 31)).lineC.valid = true ∧ (agT .res 0xFFFF8 31).elemF.agOut.length < 32
        ∧ (agT .res 0xFFFF8 31).elemF.agRep.length + ((agT .res 0xFFFF8 31).elemF.agOut.countP fun r => r.kind ≠ .store) < 32
        ∧ (agT .res 0xFFFF8 31).resolve 0 (cvtaFrom .loc 0xFFFF8).toNat 8 8 .rd true = .ok 0xFFFF8 ∧ (agT .res 0xFFFF8 31).resolve 0 (cvtaFrom .loc 0xFFFF8).toNat 8 8 .wr true = .ok 0xFFFF8)
    ∧ ((agT .res 0x100000 0).elemF.agOut.length < 32 ∧ (agT .res 0x100000 0).resolve 0 (cvtaFrom .loc 0x100000).toNat 8 8 .rd true = .fault 0x040)
    ∧ ¬ (agT .res 0xFFFF8 32).elemF.agOut.length < 32 ∧ (eS (lines off (val 2) (val 3))).lineA.valid = false ∧ (eS (lines (val 1) (val 2) off)).lineC.valid = false := by
  decide +kernel

/-! ## Joins -/

def jS (qa qb : List Val) (f : Elem → Elem) : State := eS (f { lines off off (val 0) with qa := qa, qb := qb })
/-- What an issue finds: its queues after the lines, whether it is skipped. -/
def jE (s : State) (lv : Nat) : List Val × List Val :=
  let add (q : List Val) (v : Val) : List Val := if v.valid || v.last || (decide (0 < lv) && decide (lv ≤ v.edm.toNat)) then q ++ [v] else q
  (add s.elemF.qa s.lineA, add s.elemF.qb s.lineB)

theorem witness_JoinElements :
    (Instr.joinIsect .res true 15 = .joinIsect .res true 15 ∧ JoinOp.isect = .isect)
    ∧ (∃ c, ({ eS {} with cyc := some { glade := 0, todo := [], saved := {}, skip := true } } : State).cyc = some c ∧ c.skip = true)
    ∧ ¬ (∃ c, (jS [] [] id).cyc = some c ∧ c.skip = true)
    ∧ 16 < (jE (eS { lines (val 1) off (val 0) with qa := List.replicate 16 (val 2) }) 0).1.length
    ∧ (jE (jS (List.replicate 16 (val 2)) [] id) 15).1.length ≤ 16
    ∧ ((jS [val 1] [] fun e => { e with pend := some (val 9) }).elemF.pend = some (val 9))
    ∧ ((jS [] [] fun e => { e with doneA := some (1, false), doneB := some (2, true) }).elemF.doneA = some (1, false))
    ∧ ((jE (jS [off] [val 1] id) 1).1.head? = some off ∧ off.valid = false) ∧ ((jE (jS [val 1] [off] id) 1).2.head? = some off ∧ (jE (jS [val 1] [off] id) 1).1.head? = some (val 1))
    ∧ ((jE (jS [] [val 1] id) 1).1 = [] ∧ (jE (jS [] [val 1] id) 1).2.head? = some (val 1)) ∧ ((jE (jS [val 1] [] id) 1).2 = [] ∧ (jE (jS [val 1] [] id) 1).1.head? = some (val 1))
    ∧ ((jS [val 1] [] fun e => { e with doneB := some (1, false) }).elemF.doneB = some (1, false))
    ∧ (lane1 (val 1).data < lane1 (val 0x100000000).data ∧ ¬ lane1 (val 0x100000000).data < lane1 (val 1).data ∧ lane1 (val 0x100000002).data = lane1 (val 0x100000001).data) := by
  refine ⟨⟨rfl, rfl⟩, ⟨_, rfl, rfl⟩, ?_, ?_⟩
  · rintro ⟨c, h, h2⟩
    have : c.skip = false := by
      have : (jS [] [] id).cyc = some { glade := 0, todo := [], saved := (eGlade (lines off off (val 0)) (some 5) {}).cur } := rfl
      rw [this] at h
      cases h
      rfl
    rw [this] at h2
    cases h2
  · decide +kernel

/-! ## Sampling -/

/-- A mass that the weight 2^47 brings to 2^64; a weight of 1.0 at scale 47 and a step with an idle A. -/
def sampS (mass : Nat) : State := eS { lines (val 0x53F800000) (val 0) (val 0) with mass := mass }

theorem witness_Sampling :
    (eSt {} none {}).runF.key = none ∧ (sampS 0).runF.key = some 5 ∧ (sampS 0).elemF.rword < 4 ∧ (sampS 0).drawPos + 2 ≤ 2 ^ 34
    ∧ (∃ w0 w1, (sampS 0).drawWords 5 2 = [w0, w1]) ∧ (sampS 0).lineA.valid = true ∧ (sampS (2 ^ 64 - 2 ^ 47)).elemF.mass + 2 ^ 47 = 2 ^ 64 ∧ (eS (lines off (val 0) (val 0))).lineA.valid = false :=
  ⟨by decide +kernel, by decide +kernel, by decide +kernel, by decide +kernel, ⟨_, _, rfl⟩, by and_intros <;> decide +kernel⟩

/-! ## Boundary and rill operations -/

def tagged (seq : BitVec 16) (err : Bool) : Val := { val 1 with port := true, seq := seq, err := err }
def seqS (seq : BitVec 16) (err : Bool) : State := eS { lines (tagged seq err) (val 0) (val 0) with expect := 0x8000 }
def rillE (x : Rill) (a : Val) : State := eSt (lines a (val 0) (val 0)) (some 5) { rills := [(31, x)], routes := [(7, BitVec.ofNat 64 (2 ^ 63 + 4 * 2 ^ 60))] }
def waiting (n : Nat) : Rill := { cfg := BitVec.ofNat 64 (7 * 2 ^ 44), ostream := { out := List.replicate n {} } }

/-- The context cycle has sent the mote of row 3 of stem 2 already and is made again; it has met a full buffer. -/
def rillAgain : State := (rillE (waiting 3) (val 1)).modTh 0 fun t => { t with sent := [(2, 3)] }
def rillFull : State := (rillE (waiting 3) (val 1)).modCyc fun c => { c with full := true }

theorem witness_BoundaryAndRills :
    ((seqS 0 true).lineA.valid = true ∧ (seqS 0 true).lineA.port = true ∧ (seqS 0 true).lineA.err = true) ∧ ((seqS 0x8000 false).lineA.err = false ∧ (seqS 0x8000 false).lineA.seq = (seqS 0 false).elemF.expect)
    ∧ ((1 ≤ ((seqS 0 false).elemF.expect - (seqS 0 false).lineA.seq).toNat ∧ ((seqS 0 false).elemF.expect - (seqS 0 false).lineA.seq).toNat ≤ 2 ^ 15))
    ∧ 2 ^ 15 < ((seqS 0x8001 false).elemF.expect - (seqS 0x8001 false).lineA.seq).toNat ∧ (eS (lines off (val 0) (val 0))).lineA.valid = false
    ∧ (((rillE { status := 1 } (val 1)).eng 0).rill (31#5).toNat).status = 1
    ∧ ((((rillE { port := { put := 16, vals := [(3, val 4)] } } (val 1)).eng 0).rill 31).status ≠ 1 ∧ (((rillE { port := { put := 16, vals := [(3, val 4)] } } (val 1)).eng 0).rill 31).port.head 3 = some (val 4))
    ∧ ((rillE (waiting 16) (val 1)).lineA.valid = true ∧ 16 ≤ (((rillE (waiting 16) (val 1)).eng 0).rill 31).ostream.out.length ∧ (2, 3) ∉ ((rillE (waiting 16) (val 1)).th 0).sent)
    ∧ (rillFull.cyc.any (·.full) = true ∧ rillFull.emitBad 0 2 7 = none ∧ (2, 3) ∉ (rillFull.th 0).sent) ∧ (rillAgain.lineA.valid = true ∧ (2, 3) ∈ (rillAgain.th 0).sent)
    ∧ (rillE (waiting 3) (val 1)).emitBad 0 2 8 ≠ none ∧ (rillE (waiting 15) (val 1)).cyc.any (·.full) = false
    ∧ ((((rillE {} (val 1)).eng 0).rill 31).status ≠ 1 ∧ (((rillE {} (val 1)).eng 0).rill 31).port.head 3 = none)
    ∧ ((((rillE (waiting 15) (val 1)).eng 0).rill 31).ostream.out.length < 16 ∧ field (((rillE (waiting 15) (val 1)).eng 0).rill 31).cfg.toNat 44 8 = 7
        ∧ (rillE (waiting 15) (val 1)).emitBad 0 2 7 = none) := by
  decide +kernel

end Sys2Proof.Tests
end

