-- ==== Sys2Proof/Tests/Slice0.lean ====
section
/-! SUPPORT. Tests: a word for every constructor that has one, written out from the encodings of R114 to R120 and the function fields of the instructions' rules; an ill-formed term for each check of
well-formedness; words that are refused; and single steps with results from the rules. -/

namespace Sys2Proof.Tests

set_option Elab.async false

open Sys2Proof Sys2Proof.Machine

/-! ## Words (R114, R116, R117) -/

/-- A word of predicate q0, sense 0 and no target: opcode in [63:55], payload in [29:0]. -/
def wd (op pay : Nat) : BitVec 64 := BitVec.ofNat 64 (2 ^ 55 * op + pay)
/-- An op word: opcode in [23:17], type in [16:14], dest in [13:12], imm in [11:0]. -/
def ow (op ty d m : Nat) : BitVec 24 := BitVec.ofNat 24 (2 ^ 17 * op + 2 ^ 14 * ty + 2 ^ 12 * d + m)
def p : Hdr := ⟨0, false, none, none⟩
def reads (l : List (BitVec 64 × Instr)) : Bool := l.all fun x => decide (decodeWord x.1 = .ok x.2) && decide (encodeWord x.2 = some x.1)
def readsOp (l : List (BitVec 24 × Instr)) : Bool := l.all fun x => decide (decodeOp x.1 = .ok x.2) && decide (encodeOp x.2 = some x.1)

/-- The words of the example of R118. -/
theorem test_decode_example :
    decodeWord 0x2402010000000002 = .ok (.rdg ⟨0, false, some ⟨.l, 1⟩, none⟩ 2) ∧ decodeWord 0x0102020000000010 = .ok (.addi ⟨0, false, some ⟨.l, 2⟩, none⟩ 16)
    ∧ decodeWord 0x2480000000000005 = .ok (.wrg p 5) ∧ decodeWord 0x2A00000000000000 = .ok (.halt p) := by decide +kernel

theorem test_decode_integer : reads [(wd 0x001 0, .add p), (wd 0x002 0x3FFFFFFF, .addi p (BitVec.ofInt 30 (-1))), (wd 0x003 0, .sub p), (wd 0x004 0, .mul p), (wd 0x005 0, .mulhS p), (wd 0x006 0, .mulhZ p),
    (wd 0x007 0, .divS p), (wd 0x008 0, .divZ p), (wd 0x009 0, .remS p), (wd 0x00A 0, .remZ p), (wd 0x00B 0, .and p), (wd 0x00C 0, .or p), (wd 0x00D 0, .xor p), (wd 0x00E 0, .andn p), (wd 0x00F 0, .not p),
    (wd 0x010 0, .shl p), (wd 0x011 0, .shr p), (wd 0x012 0, .sar p), (wd 0x013 0, .rol p), (wd 0x014 0, .clz p), (wd 0x015 0, .ctz p), (wd 0x016 0, .popc p), (wd 0x017 0, .minS p), (wd 0x018 0, .minZ p),
    (wd 0x019 0, .maxS p), (wd 0x01A 0, .maxZ p), (wd 0x01B 1, .sext p .w16), (wd 0x01C 2, .zext p .w32), (wd 0x01D (60 * 64 + 3), .bext p 60 3), (wd 0x01E (1 * 64 + 62), .bins p 1 62),
    (wd 0x01F (2 ^ 29), .movi p (BitVec.ofInt 30 (-2 ^ 29))), (wd 0x020 (3 * 2 ^ 16 + 0xABCD), .movhi p 3 0xABCD), (wd 0x021 0, .sel p)] = true := by decide +kernel

theorem test_decode_compare : reads [(wd 0x028 (16 + 15), .cmpEq p true 15), (wd 0x029 15, .cmpNe p false 15), (wd 0x02A 17, .cmpLtS p true 1), (wd 0x02B 17, .cmpLtZ p true 1), (wd 0x02C 17, .cmpLeS p true 1),
    (wd 0x02D 17, .cmpLeZ p true 1), (wd 0x02E 17, .test p true 1), (wd 0x02F 17, .qand p true 1), (wd 0x030 17, .qor p true 1), (wd 0x040 15, .maddM p 15), (wd 0x041 1, .msubM p 1), (wd 0x042 2, .mmulM p 2),
    (wd 0x043 3, .mred p 3)] = true := by decide +kernel

theorem test_decode_control : reads [(wd 0x048 63, .rdg p 63), (wd 0x049 1, .wrg p 1), (wd 0x04A 0, .mov p), (wd 0x04B 112, .nullEffect p 112), (wd 0x04B (2 ^ 29 + 63), .nullReg p 63), (wd 0x04C 4095, .land p 4095),
    (wd 0x050 (2 ^ 30 - 1), .br p (BitVec.ofInt 30 (-1))), (wd 0x051 (0x3FFFF * 2 ^ 12 + 7), .bri p (BitVec.ofInt 18 (-1)) 7), (wd 0x052 5, .call p 5), (wd 0x053 0, .ret p), (wd 0x054 0, .halt p), (wd 0x055 9, .bkpt p 9),
    (wd 0x180 31, .trap p 31), (wd 0x181 0, .tret p), (wd 0x182 0x040, .srd p 0x040), (wd 0x183 0x020, .swr p 0x020), (wd 0x184 7, .evwait p 7), (wd 0x185 0x1F, .evsend p 0x1F), (wd 0x186 1, .hwCallSampleKey p 1),
    (wd 0x186 2, .hwCallEntropy p), (wd 0x187 0, .testClr p)] = true := by decide +kernel

theorem test_decode_memory : reads [(wd 0x080 (1 * 2 ^ 23), .cvtaTo p .loc), (wd 0x081 (2 * 2 ^ 23), .cvtaFrom p .shr), (wd 0x082 (3 * 2 ^ 23), .isspace p .clu), (wd 0x083 (4 * 2 ^ 23 + 5), .lea p .gl 5), (wd 0x084 0, .aperq p .gen),
    (wd 0x088 (6 * 2 ^ 26 + 1 * 2 ^ 23 + (2 ^ 23 - 1)), .ld p .s32 .loc (BitVec.ofInt 23 (-1))), (wd 0x089 (3 * 2 ^ 26 + 2 ^ 23 + 8), .st p .z64 .loc 8), (wd 0x08A (4 * 2 ^ 23), .ldT p .gl 0),
    (wd 0x08B (60 * 2 ^ 24 + 3 * 2 ^ 20 + 1 * 2 ^ 17 + 9), .gsave p 60 3 .loc 9), (wd 0x08C (1 * 2 ^ 24 + 15 * 2 ^ 20 + 2 * 2 ^ 17), .gload p 1 15 .shr 0),
    (wd 0x090 (1 * 2 ^ 27 + 4 * 2 ^ 24 + 2 ^ 23), .atomAdd p ⟨.acq, .canopy, true⟩), (wd 0x091 (3 * 2 ^ 20), .atomMinmax p ⟨.rlx, .glade, false⟩ .maxz), (wd 0x092 (2 * 2 ^ 27 + 2 * 2 ^ 20), .atomBit p ⟨.rel, .glade, false⟩ .xor),
    (wd 0x093 (3 * 2 ^ 27 + 1 * 2 ^ 24), .atomXchg p ⟨.ar, .unit, false⟩), (wd 0x094 (2 * 2 ^ 24 + 33), .atomCas p ⟨.rlx, .die, false⟩ 33), (wd 0x095 (3 * 2 ^ 27 + 3 * 2 ^ 24), .fence p .ar .pkg)] = true := by decide +kernel

theorem test_decode_orders : reads [(wd 0x0C0 0, .tskStamp p), (wd 0x0C1 0, .tskYield p), (wd 0x0C1 1, .tskYieldPhase p), (wd 0x0C2 1, .tskQuery p .floor), (wd 0x0C8 (2 ^ 29), .ordStand p ⟨true, false, false, .stand⟩),
    (wd 0x0C9 (2 ^ 28 + 2 ^ 24 + 7 * 2 ^ 20 + 15 * 2 ^ 16), .ordStandx p ⟨false, true, false, .raft0⟩ 7 15), (wd 0x0CA (2 ^ 27 + 2 * 2 ^ 24), .ordRaft p ⟨false, false, true, .raft1⟩), (wd 0x0CB (2 ^ 20 + 2 ^ 16), .ordRaftx p ⟨false, false, false, .stand⟩ 1 1),
    (wd 0x0CC (3 * 2 ^ 24), .ordRun p ⟨false, false, false, .run⟩), (wd 0x0CD (4 * 2 ^ 24), .ordRunx p ⟨false, false, false, .wload⟩ 0 0), (wd 0x0CE (5 * 2 ^ 24), .ordWload p ⟨false, false, false, .link⟩), (wd 0x0CF 0, .ordLink p ⟨false, false, false, .stand⟩),
    (wd 0x0D0 (2 ^ 27 + 2 ^ 24), .ordToken p ⟨false, false, true, .raft0⟩), (wd 0x0D1 255, .ordSteer p ⟨false, false, false, .stand⟩ 255), (wd 0x0D2 0xFFFF, .ordMode p ⟨false, false, false, .stand⟩ 0xFFFF),
    (wd 0x0D3 1, .ordBough p ⟨false, false, false, .stand⟩ true)] = true := by decide +kernel

theorem test_decode_tables : reads [(wd 0x100 0, .arm p), (wd 0x101 0, .disarm p), (wd 0x102 0, .rteSet p), (wd 0x103 0, .rillSet p), (wd 0x104 2, .rillGet p .config), (wd 0x105 0, .rillReset p), (wd 0x106 0, .tagLookLookup p), (wd 0x106 1, .tagLookRead p),
    (wd 0x107 0, .tagSet p), (wd 0x107 1, .tagSetSect p), (wd 0x108 0, .tagInv p), (wd 0x109 0, .slotRes p), (wd 0x10A 0, .slotRelRelease p), (wd 0x10A 1, .slotRelDone p), (wd 0x10B 4, .slotQry p .key), (wd 0x10C 0, .tslotSet p), (wd 0x10D 0, .placePart p),
    (wd 0x10D 1, .placeHealth p), (wd 0x10D 2, .placeBusy p), (wd 0x10D 3, .placeFit p)] = true := by decide +kernel

theorem test_decode_banks : reads [(wd 0x110 0, .seedOpen p), (wd 0x111 0, .seedAppend p), (wd 0x112 0x0761, .seedDraft p 1 3 14), (wd 0x113 0, .seedSave p), (wd 0x114 0, .seedLoad p), (wd 0x115 0, .seedTrim p), (wd 0x116 0, .seedClose p),
    (wd 0x118 0, .graftFetch p), (wd 0x119 0, .graftPin p), (wd 0x11A 0, .graftUnpin p), (wd 0x11B 0, .graftQryState p), (wd 0x11B 1, .graftQryFind p), (wd 0x140 (2 * 8 + 5), .tlRead p .link .badnum), (wd 0x141 1, .tlWaitGe p .raft0), (wd 0x142 3, .tlWaitLag p .run),
    (wd 0x148 2, .ccRead p .nonok), (wd 0x149 0, .ccWait p), (wd 0x14A 3, .ccAdd p 3), (wd 0x14B 1, .cancel p true), (wd 0x150 3, .penBranch p 3), (wd 0x151 2, .penAccept p 2), (wd 0x152 15, .penDrop p 15), (wd 0x158 0, .useSign p), (wd 0x159 0, .perfRead p),
    (wd 0x15A 0, .lifeRead p)] = true := by decide +kernel

theorem test_decode_float : readsOp [(ow 0x01 0 0 0xFFF, .fadd .res 0xFFF), (ow 0x02 0 1 0, .fsub .rso 0), (ow 0x03 0 2 0, .fmul .dis 0), (ow 0x04 0 0 0x3F8, .fma .res 0x3F8), (ow 0x05 0 0 0, .fnma .res 0), (ow 0x06 0 0 0, .fmin .res 0), (ow 0x07 0 0 0, .fmax .res 0),
    (ow 0x08 0 0 2, .fmod .res true false), (ow 0x09 0 0 4, .fcmp .res .unord), (ow 0x0A 0 0 0, .fsel .res 0), (ow 0x0B 0 0 0, .frnd .res 0), (ow 0x0C 0 0 0, .fclamp .res 0), (ow 0x0D 0 0 0, .fscale .res 0), (ow 0x10 0 0 1, .cvtF32Bf16 .res 1),
    (ow 0x11 1 0 0, .cvtBf16F32 .res), (ow 0x12 0 0 3, .cvtF32E4m3 .res 3), (ow 0x13 2 0 1, .cvtE4m3F32 .res 1), (ow 0x14 3 0 2, .cvtE2m1F32 .res 2), (ow 0x15 5 0 1, .cvtIf .res .z32 true), (ow 0x58 0 0 0, .exp2 .res 0), (ow 0x59 0 0 0, .log2 .res 0),
    (ow 0x5A 0 0 0, .rcp .res 0), (ow 0x5B 0 0 0, .rsqrt .res 0), (ow 0x5C 0 0 0, .sqrt .res 0), (ow 0x5D 0 0 0, .tanh .res 0), (ow 0x5E 0 0 0, .erf .res 0)] = true := by decide +kernel

theorem test_decode_elements : readsOp [(ow 0x18 4 0 0, .iadd .res .s32 0), (ow 0x19 5 0 0, .isub .res .z32 0), (ow 0x1A 6 0 0, .imul .res .s64 0), (ow 0x1B 7 0 0, .imulh .res .z64 0), (ow 0x1C 4 0 0, .iand .res .s32 0), (ow 0x1D 4 0 0, .ior .res .s32 0),
    (ow 0x1E 4 0 0, .ixor .res .s32 0), (ow 0x1F 4 0 0, .ishl .res .s32 0), (ow 0x20 4 0 0, .ishr .res .s32 0), (ow 0x21 4 0 0, .isar .res .s32 0), (ow 0x22 4 0 0, .imin .res .s32 0), (ow 0x23 4 0 0, .imax .res .s32 0), (ow 0x24 7 0 3, .icmp .res .z64 .le),
    (ow 0x25 7 1 9, .isel .rso .z64 9), (ow 0x28 7 0 15, .mmul .res 15), (ow 0x29 7 0 1, .madd .res 1), (ow 0x2A 7 0 2, .msub .res 2), (ow 0x2B 7 0 3, .bfly .res 3), (ow 0x2C 7 0 4, .ibfly .res 4), (ow 0x30 2 0 0xFF, .pass .res .e4m3 0xFF),
    (ow 0x30 0 3 0, .passThru), (ow 0x31 6 0 1, .hold .res .s64 1), (ow 0x32 4 0 0xFFC, .const .res .s32 0xFFC), (ow 0x38 7 0 0xFFF, .agCnt .res 0xFFF), (ow 0x39 7 0 0x8FF, .agLink .res 8 0xFF), (ow 0x3A 7 0 (3 + 4), .agLd .res .loc .b8),
    (ow 0x3B 7 0 (2 + 8), .agSt .res .shr .b4), (ow 0x3C 7 0 1, .agGath .res .gen .b2), (ow 0x3D 7 0 16, .agScat .res .gl .b1), (ow 0x3E 7 0 (4 * 256 + 7 * 32 + 4 + 3), .agAtom .res .canopy .xchg .loc true), (ow 0x40 0 0 1, .redFadd .res true),
    (ow 0x41 0 0 0, .redFmax .res false), (ow 0x42 7 0 1, .redIadd .res true true), (ow 0x43 0 0 0, .redArgmax .res false), (ow 0x44 0 0 0, .redSmerge .res false), (ow 0x48 7 0 8, .joinIsect .res true 8), (ow 0x49 5 0 0, .joinUnion .res false 0),
    (ow 0x4A 5 0 1, .joinMerge .res false 1), (ow 0x50 7 0 63, .sampInit .res 63), (ow 0x51 7 0 5, .sampStep .res 5), (ow 0x52 7 0 1, .sampEmit .res true), (ow 0x53 5 0 0, .rng .res), (ow 0x60 7 0 0, .bndRel .res .z64), (ow 0x61 0 0 1, .resChk .res .f32 true),
    (ow 0x62 1 0 0, .seqTag .res .bf16), (ow 0x68 0 0 31, .rillIn .res .f32 31), (ow 0x69 7 2 0, .rillOut .dis .z64 0)] = true := by decide +kernel

/-! ## Words that are refused (R113, R116, R118, R119, R127, R128, R198) -/

def refusedAs (e : WordReject) (l : List (BitVec 64)) : Bool := l.all fun w => decide (decodeWord w = .error e)
def refusedOp (e : OpReject) (l : List (BitVec 24)) : Bool := l.all fun w => decide (decodeOp w = .error e)

theorem test_decode_unassigned : refusedAs .opcodeUndef ([0x000, 0x022, 0x027, 0x031, 0x03F, 0x044, 0x047, 0x04D, 0x04F, 0x056, 0x07F, 0x085, 0x087, 0x08D, 0x08F, 0x096, 0x0BF, 0x0C3, 0x0C7, 0x0D4, 0x0FF, 0x10E, 0x10F, 0x117, 0x11C, 0x13F,
    0x143, 0x147, 0x14C, 0x14F, 0x153, 0x157, 0x15B, 0x17F, 0x188, 0x1FF].map fun c => wd c 0) = true := by decide +kernel

theorem test_decode_header : refusedAs .blockFormat [wd 0x001 0 ||| BitVec.ofNat 64 (2 ^ 50), wd 0x021 0 ||| BitVec.ofNat 64 (2 ^ 51)] = true
    ∧ refusedAs .targetInvalid [wd 0x001 0 ||| BitVec.ofNat 64 (2 ^ 40), wd 0x001 0 ||| BitVec.ofNat 64 (2 ^ 38)] = true := by decide +kernel

/-- One word for each class of R116: Z, K, F, W, C twice, M, G, U four times, P, Y, L twice, S, V, A four times, O four times, T, E. -/
theorem test_decode_payload : refusedAs .payloadReserved [wd 0x001 1, wd 0x020 (2 ^ 18), wd 0x01D (60 * 64 + 4), wd 0x01B 3, wd 0x028 32, wd 0x028 16, wd 0x040 16, wd 0x049 0, wd 0x04B 0, wd 0x04B 113, wd 0x04B (2 ^ 29), wd 0x04B (2 ^ 29 + 64),
    wd 0x182 4096, wd 0x180 32, wd 0x088 (7 * 2 ^ 26), wd 0x083 (2 ^ 26), wd 0x080 (5 * 2 ^ 23), wd 0x08B (60 * 2 ^ 24 + 4 * 2 ^ 20), wd 0x090 (4 * 2 ^ 27), wd 0x090 (5 * 2 ^ 24), wd 0x092 (3 * 2 ^ 20), wd 0x095 (2 ^ 23),
    wd 0x0C8 (6 * 2 ^ 24), wd 0x0C8 1, wd 0x0D0 0, wd 0x0D3 2, wd 0x104 3, wd 0x184 256] = true := by decide +kernel

theorem test_decode_op_refused : refusedOp .opcode ([0x00, 0x0E, 0x0F, 0x16, 0x17, 0x26, 0x27, 0x2D, 0x2F, 0x33, 0x37, 0x3F, 0x45, 0x47, 0x4B, 0x4F, 0x54, 0x57, 0x5F, 0x63, 0x67, 0x6A, 0x7F].map fun c => ow c 0 0 0) = true
    ∧ refusedOp .type [ow 0x01 1 0 0, ow 0x18 0 0 0, ow 0x28 6 0 0, ow 0x42 4 0 0, ow 0x48 6 0 0] = true ∧ refusedOp .thru [ow 0x01 0 3 0, ow 0x30 1 3 0, ow 0x30 0 3 1] = true
    ∧ refusedOp .modifier [ow 0x08 0 0 4, ow 0x09 0 0 5, ow 0x24 4 0 4, ow 0x28 7 0 16, ow 0x39 7 0 0x100, ow 0x39 7 0 0x900, ow 0x3A 7 0 20, ow 0x3E 7 0 1, ow 0x48 7 0 9, ow 0x53 5 0 1, ow 0x60 0 0 1] = true := by decide +kernel

/-! ## Ill-formed terms -/

theorem test_wellFormed_header : [Instr.add ⟨0, true, none, none⟩, .sel ⟨1, false, none, none⟩, .sel ⟨0, true, none, none⟩].all (fun i => !hdrOk i && !wellFormed i) = true ∧ hdrOk (.add ⟨1, true, none, none⟩) = true := by decide +kernel

theorem test_wellFormed_payload : [Instr.bext p 60 4, .bins p 63 1, .cmpEq p true 0, .cmpNe p true 0, .cmpLtS p true 0, .cmpLtZ p true 0, .cmpLeS p true 0, .cmpLeZ p true 0, .test p true 0, .qand p true 0, .qor p true 0, .wrg p 0, .nullReg p 0,
    .nullEffect p 0, .nullEffect p 113, .st p .s8 .loc 0, .st p .s16 .loc 0, .st p .s32 .loc 0, .gsave p 60 4 .loc 0, .gload p 63 1 .loc 0, .ordToken p ⟨false, false, false, .stand⟩, .ordToken p ⟨false, true, true, .stand⟩, .seedDraft p 0 0 0, .penDrop p 0,
    .hwCallSampleKey p 2, .agLink .res 1 0, .agLink .res 9 0, .joinIsect .res true 9, .joinUnion .res true 9, .joinMerge .res true 9].all (fun i => !payloadOk i && !wellFormed i) = true := by decide +kernel

theorem test_wellFormed_events : [Instr.clockStep 4 0, .clockStep 0 5, .vfReset 0, .vfReset 64, .tdiStop 0 false, .registerWrite 64 0 0 true true, .ringEnable 1 8 true true, .ringTeardownDrain 0 0 true, .ringTeardownCancel 1 8 true, .ringWidxWrite 64 0 0 true,
    .ringDrainComplete 1 8, .ringFetch 0 0 true, .tinvPage 64 0 true, .tinvContext 0 0 true, .tinvComplete 0, .fqRcntWrite 64 0 true, .fqLostRead 64 true, .msixMessage 0 9, .atsInvalidate 0 0 0, .prgResponse 1 512 true, .prgTimeout 1 512, .pageRequest 0 0, .walkComplete 512,
    .selectionPass 4, .launchBoost 0 4096, .reservingTimeout 4 0, .launchStart 0 4096, .unitComplete 0 0 64, .phaseBoundary 4 0, .boughSaveWrite 4 0, .phaseLimitExpiry 0 4096, .cancelProcess 4, .periodRollover 1024, .timeSlotEvent 0 0 64, .infieldTest 64 true, .rillArrival 0 32 0, .quotaChange 1024 0 0 0, .atsTranslationCompletion 0 0 true true].all
      (fun i => !eventOk i && !wellFormed i) = true := by decide +kernel

theorem test_wellFormed_events_glades : [Instr.contextCycle 512, .resultLand 512, .fernResultLand 512, .agReply 0 16 0, .agReply 0 0 16, .agStorePerformed 0 16 0, .entryStartTimed 0 5, .entryStartGated 0 5, .entryRetire 0 6, .creditTimerFire 512, .standFire 512,
    .standSlotRelease 512, .standFireComplete 512, .drainBeat 0 2, .raftNoticeServe 0 2, .raftTileLand 0 2, .wloadRegion 512, .landingArrival 512, .moteArrival 512, .moteReinjection 0 52, .seedReplayStep 0 4096, .graftFetchComplete 65536, .graftFetchTimeout 65536,
    .waitTimeout 0 112, .orderStall 512, .slotAnswerTimeout 512, .blockFetch 512, .blockCommit 512, .jobClose 1024, .usageRecordRequest 1024 [], .tdispLockInterface 0, .tdispStartInterface 64, .ideKmKeyProg ⟨0, []⟩].all (fun i => !eventOk i && !wellFormed i) = true := by decide +kernel

theorem test_wellFormed_events_links : [Instr.laneFailure 16 0, .laneFailure 0 20, .linkUp 16 0 0 [] [] [], .linkDown 16, .flitIdle 16 0 true 0, .flitData 16 0 true 0 [], .flitNotice 16 0 true 0 [], .flitSlotRes 16 0 true 0 [], .flitSlotAnswer 16 0 true 0 [],
    .flitSlotRelease 16 0 true 0 [], .flitSlotReclaim 16 0 true 0 [], .flitCall 16 0 true 0 [], .flitCallDone 16 0 true 0 [], .flitSpdm 16 0 true 0 [], .flitNak 16 0 true 0 [], .flitVersion 16 0 true 0 [], .flitSuspect 16 0 true 0 [], .flitPeerAbort 16 0 true 0 []].all
      (fun i => !eventOk i && !wellFormed i) = true := by decide +kernel

/-! ## Single steps: results worked out from the rules -/

/-- What an instruction with operands L and R delivers to its first target. -/
def out (i : Instr) (l r : Word) : Option Word :=
  match exec i (tS l r) with
  | .next t => (t.block 0).bind fun b => nfind b.opL 1
  | _ => none

theorem test_add_wraps : out (.add hd) (BitVec.allOnes 64) 2 = some 1 := by decide +kernel
theorem test_sub_borrows : out (.sub hd) 0 1 = some (BitVec.allOnes 64) := by decide +kernel
theorem test_mulhS_negatives : out (.mulhS hd) (BitVec.allOnes 64) (BitVec.allOnes 64) = some 0 := by decide +kernel
theorem test_mulhZ_largest : out (.mulhZ hd) (BitVec.allOnes 64) (BitVec.allOnes 64) = some 0xFFFFFFFFFFFFFFFE := by decide +kernel
theorem test_divS_truncates : out (.divS hd) (BitVec.ofInt 64 (-7)) 2 = some (BitVec.ofInt 64 (-3)) := by decide +kernel
theorem test_remS_sign : out (.remS hd) (BitVec.ofInt 64 (-7)) 2 = some (BitVec.ofInt 64 (-1)) := by decide +kernel
theorem test_divZ_by_zero : out (.divZ hd) 5 0 = some (BitVec.allOnes 64) := by decide +kernel
theorem test_sar_count_mod_64 : out (.sar hd) (BitVec.ofInt 64 (-8)) 65 = some (BitVec.ofInt 64 (-4)) := by decide +kernel
theorem test_rol_by_zero : out (.rol hd) 0x8000000000000001 64 = some 0x8000000000000001 := by decide +kernel
theorem test_clz_zero : out (.clz hd) 0 0 = some 64 := by decide +kernel
theorem test_minS_signed : out (.minS hd) (BitVec.allOnes 64) 1 = some (BitVec.allOnes 64) := by decide +kernel
theorem test_minZ_unsigned : out (.minZ hd) (BitVec.allOnes 64) 1 = some 1 := by decide +kernel
theorem test_bext_top : out (.bext hd 60 3) 0xA000000000000000 0 = some 0xA := by decide +kernel
theorem test_bins_middle : out (.bins hd 8 7) 0xFFFFFFFF 0 = some 0xFFFF00FF := by decide +kernel
theorem test_movhi_lane : out (.movhi hd 1 0xABCD) 0 0 = some 0xABCD0000 := by decide +kernel
theorem test_mmulM : out (.mmulM hd 0) 5 3 = some 1 := by decide +kernel
theorem test_msubM_wraps : out (.msubM hd 0) 3 5 = some 5 := by decide +kernel
theorem test_lea_scaled : out (.lea hd .loc (BitVec.ofInt 23 (-1))) 16 0 = some 0xFF0000000000000F := by decide +kernel

/-- What an element operation with lines A, B and C lands. -/
def outE (i : Instr) (a b c : Word) : Option Word :=
  match exec i (eS (lines (val a) (val b) (val c))) with
  | .next t => t.elemF.flight.head?.map (·.val.data)
  | _ => none

theorem test_fadd_lanes : outE (.fadd .res 0) 0x3F800000_3FC00000 0x3F800000_3FC00000 0 = some 0x40000000_40400000 := by decide +kernel
theorem test_fadd_ties_to_even : outE (.fadd .res 0) 0x3F800001_3F800000 0x33800000_33800000 0 = some 0x3F800002_3F800000 := by decide +kernel
theorem test_fmul_overflow : outE (.fmul .res 0) 0x7F000000 0x40000000 0 = some 0x7F800000 := by decide +kernel
theorem test_fma_one_rounding : outE (.fma .res 0) 0x3F800001 0x3F800001 0xBF800002 = some 0x28800000 := by decide +kernel
theorem test_cvtE4m3_largest : outE (.cvtE4m3F32 .res 0) 0x43E00000_3F800000 0 0xFFFFFFFF_FFFFFFFF = some 0xFFFFFFFF_00007E38 := by decide +kernel
theorem test_iadd_lanes_apart : outE (.iadd .res .s32 0) 0x00000001_FFFFFFFF 0x00000001_00000001 0 = some 0x00000002_00000000 := by decide +kernel
theorem test_imulh_signed : outE (.imulh .res .s64 0) (BitVec.allOnes 64) 1 0 = some (BitVec.allOnes 64) := by decide +kernel
/-- What a fern operation with line A sends to its stem's fern unit's queue. -/
def outF (i : Instr) (a : Word) : Option Word :=
  match exec i (eS (lines (val a) (val 0) (val 0))) with
  | .next t => t.stemF.fern.head?.map (·.val.data)
  | _ => none

theorem test_exp2_one : outF (.exp2 .res 0) 0x3F800000 = some 0x3F800000_40000000 := by decide +kernel
theorem test_sqrt_four : outF (.sqrt .res 0) 0x40800000 = some 0x40000000 := by decide +kernel

/-- The residues of the example of R129. -/
theorem test_residue : mod15 256 = 1 ∧ mod15 (BitVec.allOnes 64) = 0 := by decide +kernel

/-- FIPS 180-4's message "abc"; FIPS 197's AES-256 example; the first GCM test case of 256-bit keys; the first known answer of Philox-4×32-10. -/
theorem test_sha256_abc : sha256 [0x61, 0x62, 0x63] = toBytesBE 32 0xba7816bf8f01cfea414140de5dae2223b00361a396177a9cb410ff61f20015ad := by decide +kernel
theorem test_aes256_example : blockBytes (aesBlock (aesKeys ((List.range 32).map (BitVec.ofNat 8))) ((List.range 16).map (17 * ·))) = toBytesBE 16 0x8ea2b7ca516745bfeafc49904b496089 := by decide +kernel
theorem test_gcm_empty : gcmTag (aesKeys (List.replicate 32 0)) (List.replicate 12 0) [] [] = toBytesBE 16 0x530f8afbc74536b9a963b4f1c4cb738b := by decide +kernel
/-- The signature of "sample" with SHA-256 of RFC 6979, A.2.5: the curve's private key x, public key U, one-time number k. -/
theorem test_ecdsa_sample :
    publicKey 0xC9AFA9D845BA75166B5C215767B1D6934E50C3DB36E89B127B8A622B120F6721
      = toBytesBE 32 0x60FED4BA255A9D31C961EB74C6356D68C049B8923B61FA6CE669622E60F29FB6 ++ toBytesBE 32 0x7903FE1008B8BC99A41AE9E95628BC64F2F1B20C2D7E9F5177A3C294D4462299
    ∧ ecdsaSign 0xC9AFA9D845BA75166B5C215767B1D6934E50C3DB36E89B127B8A622B120F6721 0xA6E3C57DD01ABE90086538398355DD4C3B17AA873382B0F24D6129493D8AAD60 (ascii "sample")
      = toBytesBE 32 0xEFD48B2AACB6A8FD1140DD9CD45E81D69D2C877B56AAF991C34D0EA84EAF3716 ++ toBytesBE 32 0xF7CB1C942D657C41D436C7A1B6E29F65F3E900DBB9AFF4064DC4AB2F843ACDA8 := by decide +kernel
theorem test_philox_zero : philoxWord 0 0 0 0 0 0 = 0x6627e8d5 := by decide +kernel

/-! ## The first instruction after reset -/

def answers' (o : Outcome) : Bool := match o with | .next _ => true | _ => false

theorem test_fetch_word : answers' (step (State.reset.withFetchWord 64 (wd 0x001 0).toNat)) = true ∧ answers' (step (State.reset.withFetchWord 24 (ow 0x01 0 0 0).toNat)) = true := by decide +kernel

end Sys2Proof.Tests
end

