-- ==== Sys2Proof/Tests/Witness2.lean ====
section
/-! SUPPORT. Witnesses for the statements about memory and table instructions: concrete states and operands that meet their hypotheses. -/

namespace Sys2Proof.Tests

set_option Elab.async false

open Sys2Proof Sys2Proof.Machine

/-! ## Memory -/

/-- The last doubleword of the own burrow. -/
def topA : Word := 0xFF000000000FFFF8

/-- A block with a store of instruction 2 to a byte of that doubleword, not ordered with instruction 0. -/
def stB : Block := { tBp topA 7 with stores := [⟨2, topA.toNat, 0xFFFFF, [1], false, []⟩] }

theorem witness_LoadStore :
    (((tSp topA 7).fx hd true false = some (tXp topA 7) ∧ (tXp topA 7).fits hd 1) ∧ (leaW .gen 0 (tXp topA 7).l).toNat = topA.toNat ∧ (tSp topA 7).resolve 0 topA.toNat 8 8 .rd = .ok 0xFFFF8
        ∧ (tSp topA 7).heldSector 0 0xFFFF8 = false)
    ∧ (((tSp topA 7).fx hd true true = some (tXp topA 7) ∧ (tXp topA 7).fits hd 1) ∧ (tSp topA 7).resolve 0 topA.toNat 8 8 .wr = .ok 0xFFFF8 ∧ (tXp topA 7).b.conflict 0 topA.toNat 0xFFFF8 8 = none)
    ∧ (((tState stB).fx hd true true = some ⟨0, 0, stB, topA, 7⟩ ∧ (Fx.mk 0 0 stB topA 7).fits hd 1) ∧ (tState stB).resolve 0 topA.toNat 8 8 .wr = .ok 0xFFFF8 ∧ (tState stB).heldSector 0 0xFFFF8 = false
        ∧ stB.conflict 0 topA.toNat 0xFFFF8 8 = some topA.toNat)
    ∧ (tSp topA 7).resolve 0 topA.toNat 1 1 .rd = .ok 0xFFFF8 := by
  refine ⟨⟨issues_fits ?_, ?_⟩, ⟨issues_fits ?_, ?_⟩, ⟨issues_fits ?_, ?_⟩, ?_⟩ <;> decide +kernel

/-- Sixteen words that end at the end of the burrow. -/
def mwA : Word := 0xFF000000000FFF80

theorem witness_MultiWordAccess :
    ((tSp mwA 0).fx hd true false = some (tXp mwA 0) ∧ (tXp mwA 0).fits hd 1) ∧ ((List.range 16).map (0xFFF80 + 8 * ·)).length = (15#4).toNat + 1
    ∧ (cvtaFrom .gen ((tXp mwA 0).l + (0#17).signExtend 64)).toNat = mwA.toNat ∧ mwA.toNat + 8 * ((15#4).toNat + 1) ≤ 2 ^ 64
    ∧ (∀ k < 16, (tSp mwA 0).heldSector 0 (0xFFF80 + 8 * k) = false ∧ (tSp mwA 0).resolve 0 (mwA.toNat + 8 * k) 8 8 .wr = .ok (0xFFF80 + 8 * k)
        ∧ (tSp mwA 0).resolve 0 (mwA.toNat + 8 * k) 8 8 .rd = .ok (0xFFF80 + 8 * k) ∧ (tXp mwA 0).b.conflict 0 (mwA.toNat + 8 * k) (0xFFF80 + 8 * k) 8 = none)
    ∧ ∀ k < 16, nfind (tXp mwA 0).b.gw ((48#6).toNat + k) = none ∧ (48#6).toNat + k ∉ (tXp mwA 0).b.loaded :=
  ⟨issues_fits (by decide +kernel), by and_intros <;> decide +kernel⟩

theorem witness_Atomics :
    (((tS topA 7).fx hd true true = some (tX topA 7) ∧ (tX topA 7).fits hd 1) ∧ (tX topA 7).b.atomic = true ∧ (tS topA 7).resolve 0 topA.toNat 8 8 .atom = .ok 0xFFFF8
        ∧ (tS topA 7).resolve 0 topA.toNat 4 4 .atom = .ok 0xFFFF8 ∧ (tS topA 7).heldSector 0 0xFFFF8 = false ∧ (tX topA 7).b.conflict 0 topA.toNat 0xFFFF8 8 = none
        ∧ (tX topA 7).b.conflict 0 topA.toNat 0xFFFF8 4 = none)
    ∧ ((tSp topA 7).fx hd true true = some (tXp topA 7) ∧ (tXp topA 7).b.atomic = false) ∧ ((tS topA 7).fx hd false false = some (tX topA 7) ∧ (tX topA 7).fits hd 1) := by
  refine ⟨⟨issues_fits ?_, ?_⟩, ?_, issues_fits ?_⟩ <;> decide +kernel

theorem witness_OrdersNoted :
    (((tSp 0x10001 0xFFFFFFFFFF).fx hd true true = some (tXp 0x10001 0xFFFFFFFFFF) ∧ (tXp 0x10001 0xFFFFFFFFFF).fits hd 1) ∧ (tXp 0x10001 0xFFFFFFFFFF).r.toNat < 2 ^ 40
        ∧ field (tXp 0x10001 0xFFFFFFFFFF).l.toNat 0 16 ≠ 0 ∧ field (tXp 0x10001 0xFFFFFFFFFF).l.toNat 16 16 ≠ 0 ∧ field (tXp 0x10001 0xFFFFFFFFFF).l.toNat 32 32 = 0
        ∧ field (0x73#16).toNat 7 9 = 0 ∧ field (0x73#16).toNat 2 2 = 0)
    ∧ ((tSp 0x10001 0xFFFFFFFFFF).fx hd false true = some (tXp 0x10001 0xFFFFFFFFFF) ∧ (tXp 0x10001 0xFFFFFFFFFF).fits hd 1)
    ∧ ((tSp 9 0x10000000000).fx hd true true = some (tXp 9 0x10000000000) ∧ 2 ^ 40 ≤ (tXp 9 0x10000000000).r.toNat) ∧ (tSp 9 0x10000000000).fx hd false true = some (tXp 9 0x10000000000)
    ∧ ((tSp 0x10000 0).fx hd true false = some (tXp 0x10000 0) ∧ field (tXp 0x10000 0).l.toNat 0 16 = 0) := by
  refine ⟨⟨issues_fits ?_, ?_⟩, issues_fits ?_, ?_, ?_, ?_⟩ <;> decide +kernel

/-! ## Tables -/

/-- The least unit image: one section of no bytes; its key and signature were chosen so that the verification equation of the standard holds. -/
def imgBody : List Byte := toBytes 4 0x49554E5A ++ toBytes 4 1 ++ toBytes 4 0x10101 ++ toBytes 4 160 ++ List.replicate 64 0 ++ toBytes 4 0xFFFF0001 ++ toBytes 4 96 ++ toBytes 8 0
def imgSig : List Byte :=
  toBytesBE 32 56401218423444484896145753586435973986787802616689544954909482774460298593979 ++ toBytesBE 32 56401218423444484896145753586435973986787802616689544954909482774460298593979
def imgKey : List Byte :=
  toBytesBE 32 53710208446150905889313350558249830636090615801220945204158387222302247248337 ++ toBytesBE 32 49560221285987388714488030815017549331823916022906866207967067162973977099342
def img : List Byte := imgBody ++ imgSig

/-- An arm descriptor: tag 0xFFFFFFFF, class 3, ROOT_ONLY, die 3, one image. -/
def armD : List Byte := toBytes 4 0xFFFFFFFF ++ [3, 0, 3, 1] ++ List.replicate 120 0

/-- The page of device addresses at 0x10000 lies at device physical 0 under key 5, executable; the image is at its start, the descriptor and the address list in the burrow. -/
def armS0 (l r : Word) : State := { tS l r with
  pk := { power := 1, health := 2 ^ 512 - 1, owners := [(0, 5)] }
  jobs := [(5, { tJob with keys := [(0, ⟨.data, 5⟩)], imageKey := some (0, imgKey) })]
  glades := [(0, { cur := { place := some tPlace, ww := tWw (tB l r) }, tlb := [{ owner := 5, host := false, base := 0x10000, size := 4096, leaf := BitVec.ofNat 64 (5 * 2 ^ 52 + 13) }] })] }
def armL : Word := 0xFF00000000000400
def armR : Word := 0xFF00000000000800
def armS : State := ((armS0 armL armR).put 0x400 armD).put 0x800 (toBytes 8 0x10000) |>.put hbmAt img
def armDp : List Nat := (List.range 16).map (0x400 + 8 * ·)

theorem armImages_armS : armS.armImages 0 5 [0x10000] = (armS, .ok [img]) := by decide +kernel

theorem witness_ArmTable_arm :
    (armS.fx hd true true = some (tX armL armR) ∧ (tX armL armR).fits hd 1) ∧ (tX armL armR).b.atomic = true ∧ (armS.ownOffset 0 armL.toNat).isSome = true ∧ armL.toNat % 64 = 0
    ∧ readRange armS (tX armL armR) armL.toNat 128 .rd = .ok (armD, armDp)
    ∧ (armBad armD = none ∧ leAt armD 5 1 ≠ 2 ∧ (armS.seen (tX armL armR)).tagHeld 5 (leAt armD 0 4) = false ∧ armS.held 0 (pairSect 5 (leAt armD 0 4)) = false
        ∧ leAt armD 4 1 ≤ (armS.job (armS.ctxOf 0)).classCap)
    ∧ ((armS.seen (tX armL armR)).freeArm 3 = some 0 ∧ armS.held 0 (armSect 3 0) = false)
    ∧ (∃ lst lp, readRange armS (tX armL armR) armR.toNat (8 * leAt armD 7 1) .rd = .ok (lst, lp) ∧ armS.armImages 0 5 ((chunks 8 (leAt armD 7 1) lst).map ofBytes) = (armS, .ok [img])) :=
  ⟨issues_fits (by decide +kernel), by decide +kernel, by decide +kernel, by decide +kernel, by decide +kernel, by decide +kernel, by decide +kernel,
    ⟨toBytes 8 0x10000, [0x800], by decide +kernel, by simpa [show (chunks 8 (leAt armD 7 1) (toBytes 8 0x10000)).map ofBytes = [0x10000] by decide +kernel] using armImages_armS⟩⟩

/-- Entry 0xFFF of die 3 is armed for context 5, entry 0xFFE for another. -/
def disS (l r : Word) : State := { tS l r with dies := [(3, { arms := [(0xFFE, { st := .armed, ctx := 6 }), (0xFFF, { st := .armed, ctx := 5 })] })] }

theorem witness_ArmTable_disarm :
    (((disS 0x3FFF 0).fx hd true false = some (tX 0x3FFF 0) ∧ (tX 0x3FFF 0).fits hd 1) ∧ (tX 0x3FFF 0).b.atomic = true ∧ (disS 0x3FFF 0).held 0 (armSect 3 0xFFF) = false
        ∧ ((disS 0x3FFF 0).seen (tX 0x3FFF 0)).disarmStatus ((disS 0x3FFF 0).ctxOf 0) 0x3FFF = 0)
    ∧ ((disS 0x3FFE 0).fx hd true false = some (tX 0x3FFE 0) ∧ ((disS 0x3FFE 0).seen (tX 0x3FFE 0)).disarmStatus ((disS 0x3FFE 0).ctxOf 0) 0x3FFE ≠ 0 ∧ (disS 0x3FFE 0).held 0 (armSect 3 0xFFE) = false) :=
  ⟨⟨issues_fits (by decide +kernel), by decide +kernel⟩, by decide +kernel⟩

/-- Route words: of kind 0 to the only position of the unit and to column 1, and of kind ZONE. -/
def rteHere : Word := 2 ^ 63
def rteOut : Word := BitVec.ofNat 64 (2 ^ 63 + 2 ^ 51)
def rteZone : Word := BitVec.ofNat 64 (2 ^ 63 + 5 * 2 ^ 60)

/-- The same unit, but of two positions of which the second is absent. -/
def twoS (l r : Word) : State := { tS l r with glades := [(0, { cur := { place := some { tPlace with w := 2 }, ww := tWw (tB l r) } })] }

/-- A route word that is not reserved names column 0 to 7 of row 0, and its instruction issues in a unit. -/
def rteIn (s : State) (w : Word) (c : Nat) : Bool :=
  issues s true true (tX 255 w) 1 && decide (routeReserved w.toNat = false ∧ field w.toNat 60 3 ≠ 5 ∧ field w.toNat 51 3 = c ∧ field w.toNat 54 4 = 0)

theorem witness_RoutesAndRills_route :
    ((tS 256 0).fx hd true true = some (tX 256 0) ∧ (tS 256 0).place 0 = some tPlace)
    ∧ ((tS 255 1).fx hd true true = some (tX 255 1) ∧ routeReserved 1 = true)
    ∧ (((tS 255 rteZone).fx hd true true = some (tX 255 rteZone) ∧ (tX 255 rteZone).fits hd 1) ∧ routeReserved rteZone.toNat = false ∧ field rteZone.toNat 60 3 = 5)
    ∧ (rteIn (tS 255 rteHere) rteHere 0 = true ∧ tPlace.has 0 0 = true) ∧ (rteIn (tS 255 rteOut) rteOut 1 = true ∧ tPlace.w ≤ 1)
    ∧ (rteIn (twoS 255 rteOut) rteOut 1 = true ∧ (twoS 255 rteOut).place 0 = some { tPlace with w := 2 } ∧ ({ tPlace with w := 2 } : Place).has 1 0 = false) := by
  refine ⟨by decide +kernel, by decide +kernel, ⟨issues_fits (by decide +kernel), by decide +kernel⟩, ?_⟩
  decide +kernel

/-- Rill 31 declares four bytes, four of which have come; a raft order that has started counts into rill 30. -/
def rillS (l r : Word) : State := (tS l r).modEng 0 fun _ =>
  { rills := [(31, { cfg := 4, arrived := 4 })], queues := [(1, [{ kind := 5, state := 1, desc := List.replicate 36 0 ++ [30] ++ List.replicate 27 0 }])] }

theorem witness_RoutesAndRills_rills :
    (((rillS 31 4).fx hd true true = some (tX 31 4) ∧ (tX 31 4).fits hd 1) ∧ (tX 31 4).l.toNat < 32 ∧ (tX 31 4).b.atomic = true ∧ rillReserved 4 = false ∧ (rillS 31 4).rillBound 0 31 = false)
    ∧ (((rillS 30 4).fx hd true true = some (tX 30 4) ∧ (tX 30 4).fits hd 1) ∧ (rillS 30 4).rillBound 0 30 = true)
    ∧ (((rillS 31 4).fx hd true false = some (tX 31 4)) ∧ field ((((rillS 31 4).seen (tX 31 4)).eng 0).rill 31).cfg.toNat 0 32 ≠ 0
        ∧ field ((((rillS 31 4).seen (tX 31 4)).eng 0).rill 31).cfg.toNat 0 32 ≤ ((((rillS 31 4).seen (tX 31 4)).eng 0).rill 31).arrived - ((((rillS 31 4).seen (tX 31 4)).eng 0).rill 31).base ∧ ((((rillS 31 4).seen (tX 31 4)).eng 0).rill 31).status = 0)
    ∧ ((tS 31 0).fx hd true false = some (tX 31 0) ∧ field ((((tS 31 0).seen (tX 31 0)).eng 0).rill 31).cfg.toNat 0 32 = 0) := by
  refine ⟨⟨issues_fits ?_, ?_⟩, ⟨issues_fits ?_, ?_⟩, ?_, ?_⟩ <;> decide +kernel

/-- The last slot of context 5's tag table on die 0: 1536 sets for one clearing. -/
def tagS (l r : Word) : State := { tS l r with dies := [(0, { tags := [(2 ^ 19 * 5 + 24575, BitVec.ofNat 64 (2 ^ 63 + 1535 * 2 ^ 16))] })] }
def tagOwn : Word := BitVec.ofNat 64 (2 ^ 63 + (1535 + 1536) * 2 ^ 16)
def tagOther : Word := BitVec.ofNat 64 (2 ^ 63 + 5 * 2 ^ 16)
def tagTwice : Word := BitVec.ofNat 64 (2 ^ 63 + 1535 * 2 ^ 16)

/-- An atomic of glade 1 holds the sector where a walk of address 0x10000 begins. -/
def heldWalkS : State := { tS 0x10000 0 with
  glades := [(0, { cur := { place := some tPlace, ww := tWw (tB 0x10000 0) } }), (1, { cur := { ww := { block := some { tB 0 0 with stores := [⟨0, 0, hbmAt, [1], true, []⟩] } } } })]
  pk := { power := 1, owners := [(0, 5)] }, jobs := [(5, { tJob with keys := [(0, ⟨.tables, 5⟩)], tableKey := 5 })] }

theorem witness_TagTable_read :
    (((tagS 24575 0).fx hd true false = some (tX 24575 0) ∧ (tX 24575 0).fits hd 1) ∧ 24575 < 16 * (tagS 24575 0).tagSets ((tagS 24575 0).ctxOf 0) (dieOf 0) ∧ (tX 24575 0).b.atomic = true
        ∧ (tagS 24575 0).held 0 (tagSect 0 5 1535) = false)
    ∧ (((tagS 0x7FFFFFFFFFFFFF 0).fx hd true false = some (tX 0x7FFFFFFFFFFFFF 0) ∧ (tX 0x7FFFFFFFFFFFFF 0).fits hd 1) ∧ (tX 0x7FFFFFFFFFFFFF 0).l.toNat < 2 ^ 55
        ∧ (tagS 0x7FFFFFFFFFFFFF 0).tagSets 5 0 ≠ 0)
    ∧ ((tagS 24576 0).fx hd true false = some (tX 24576 0) ∧ 16 * (tagS 24576 0).tagSets ((tagS 24576 0).ctxOf 0) (dieOf 0) ≤ 24576)
    ∧ (heldWalkS.fx hd true false = some (tX 0x10000 0) ∧ (heldWalkS.resolveNow 0 0x10000 1 1 .rd).2 = .walk 5 0x10000 ∧ heldWalkS.tagSets 5 0 ≠ 0)
    ∧ ((tagS 0x7FFFFFFFFFFFFF 0).resolveNow 0 0x7FFFFFFFFFFFFF 1 1 .rd).2 ≠ .walk 5 (0x7FFFFFFFFFFFFF / 4096 * 4096) := by
  refine ⟨⟨issues_fits ?_, ?_⟩, ⟨issues_fits ?_, ?_⟩, ?_, ?_, ?_⟩ <;> decide +kernel

theorem witness_TagTable_set :
    (((tagS 24575 tagOwn).fx hd true true = some (tX 24575 tagOwn) ∧ (tX 24575 tagOwn).fits hd 1) ∧ field (((tagS 24575 tagOwn).seen (tX 24575 tagOwn)).tagWord 0 5 24575) 63 1 = 1
        ∧ field tagOwn.toNat 63 1 = 1 ∧ field tagOwn.toNat 8 4 &&& (15 - field tagOwn.toNat 12 4) = 0 ∧ field tagOwn.toNat 16 47 % 1536 = 1535
        ∧ (∀ k < 16, k ≠ 15 → ¬ (field (((tagS 24575 tagOwn).seen (tX 24575 tagOwn)).tagWord 0 5 (16 * 1535 + k)) 63 1 = 1
            ∧ field (((tagS 24575 tagOwn).seen (tX 24575 tagOwn)).tagWord 0 5 (16 * 1535 + k)) 16 47 = field tagOwn.toNat 16 47)))
    ∧ (((tagS 24574 tagOther).fx hd true true = some (tX 24574 tagOther) ∧ (tX 24574 tagOther).fits hd 1) ∧ field (((tagS 24574 tagOther).seen (tX 24574 tagOther)).tagWord 0 5 24574) 63 1 = 0
        ∧ field tagOther.toNat 16 47 % 1536 ≠ 24574 / 16)
    ∧ (((tagS 24574 tagTwice).fx hd true true = some (tX 24574 tagTwice) ∧ (tX 24574 tagTwice).fits hd 1) ∧ field tagTwice.toNat 16 47 % 1536 = 24574 / 16
        ∧ (15 ≠ 24574 % 16 ∧ field (((tagS 24574 tagTwice).seen (tX 24574 tagTwice)).tagWord 0 5 (16 * 1535 + 15)) 63 1 = 1
            ∧ field (((tagS 24574 tagTwice).seen (tX 24574 tagTwice)).tagWord 0 5 (16 * 1535 + 15)) 16 47 = field tagTwice.toNat 16 47)) := by
  refine ⟨⟨issues_fits ?_, ?_⟩, ⟨issues_fits ?_, ?_⟩, ⟨issues_fits ?_, ?_⟩⟩ <;> decide +kernel

/-- Zone 15 of the own glade has 64 slots; the rill field of the reference word is 31. -/
def zRef : Word := BitVec.ofNat 64 (15 * 2 ^ 17 + 31 * 2 ^ 21)
def zKey : SlotKey := ⟨0, 0, 31⟩
def zFree : Zone := { base := 0, ssize := 8, slots := 64, valid := true }
def zFull : Zone := { zFree with slot := [(63, { st := .full, key := ⟨0, 0, 30⟩ })] }
def zHeld : Zone := { zFree with slot := [(63, { st := .reserved, key := zKey })] }
def zoneS (z : Zone) (l r : Word) : State := (tS l r).modEng 0 fun _ => { zones := [(15, z)] }
def zSlot : Word := BitVec.ofNat 64 (15 + 63 * 2 ^ 16)

/-- The same zone in glade 2, which another context has. -/
def zRef2 : Word := BitVec.ofNat 64 (2 * 2 ^ 8 + 15 * 2 ^ 17 + 31 * 2 ^ 21)
def otherZoneS : State := { tS zRef2 64 with glades := [(0, { cur := { place := some tPlace, ww := tWw (tB zRef2 64) } }), (2, { cur := { place := some { tPlace with ctx := 6, launch := 1 }, eng := { zones := [(15, zFree)] } } })] }

theorem witness_LandingSlots_reserve :
    (((zoneS zFree zRef 64).fx hd true true = some (tX zRef 64) ∧ (tX zRef 64).fits hd 1) ∧ (tX zRef 64).b.atomic = true ∧ (tX zRef 64).l.toNat < 2 ^ 26 ∧ nfind (tX zRef 64).b.answers 0 = none
        ∧ field zRef.toNat 0 8 = (zoneS zFree zRef 64).self ∧ (zoneS zFree zRef 64).place (field zRef.toNat 8 9) = some tPlace ∧ (zoneS zFree zRef 64).place 0 = some tPlace
        ∧ ((zoneS zFree zRef 64).eng (field zRef.toNat 8 9)).zone (field zRef.toNat 17 4) = some zFree ∧ field zRef.toNat 21 5 = 31 ∧ zFree.keySlots zKey = []
        ∧ ((List.range zFree.slots).filter fun i => decide ((zFree.slotOf i).st = .free)).length = 64)
    ∧ (((zoneS zHeld zRef 64).fx hd true true = some (tX zRef 64)) ∧ ((zoneS zHeld zRef 64).eng 0).zone 15 = some zHeld ∧ zHeld.keySlots zKey ≠ [])
    ∧ (otherZoneS.fx hd true true = some (tX zRef2 64) ∧ otherZoneS.place 0 = some tPlace ∧ otherZoneS.place 2 = some { tPlace with ctx := 6, launch := 1 } ∧ (otherZoneS.eng 2).zone 15 = some zFree)
    ∧ (((zoneS zFull zRef 64).fx hd true true = some (tX zRef 64)) ∧ ((zoneS zFull zRef 64).eng 0).zone 15 = some zFull ∧ zFull.keySlots zKey = []
        ∧ ((List.range zFull.slots).filter fun i => decide ((zFull.slotOf i).st = .free)).length < 64) :=
  ⟨⟨issues_fits (by decide +kernel), by decide +kernel⟩, by decide +kernel⟩

/-- Whether a key holds slots in zone 15 of glade 0, among the units whose state the package keeps. -/
def heldKey (s : State) (k : SlotKey) : Bool := (s.homes 0).any fun e => e.2.holdsKey 15 k

/-- SLOT.REL.DONE names slot 63 of zone 15 as zone `z`. -/
def doneOf (z : Zone) : Bool :=
  issues (zoneS z zSlot 0) true false (tX zSlot 0) 1 && decide ((((zoneS z zSlot 0).seen (tX zSlot 0)).eng 0).zone (field zSlot.toNat 0 4) = some z)

theorem witness_LandingSlots_release :
    (((zoneS zHeld zRef 0).fx hd true false = some (tX zRef 0) ∧ (tX zRef 0).fits hd 1) ∧ heldKey (zoneS zHeld zRef 0) zKey = true ∧ (zoneS zHeld zRef 0).self = 0)
    ∧ (issues (zoneS zFree zRef 0) true false (tX zRef 0) 1 = true ∧ heldKey (zoneS zFree zRef 0) zKey = false)
    ∧ (doneOf zFull = true ∧ field zSlot.toNat 4 12 = 0 ∧ zSlot.toNat < 2 ^ 22 ∧ field zSlot.toNat 16 6 = 63 ∧ (zFull.slotOf 63).st = .full ∧ zFull.holders = [])
    ∧ (doneOf zHeld = true ∧ (zHeld.slotOf 63).st ≠ .full) := by
  refine ⟨⟨issues_fits (by decide +kernel), by decide +kernel⟩, ?_⟩
  decide +kernel

/-- A query for one glade in the last 64 bytes of the burrow. -/
def fitA : Word := 0xFF000000000FFFC0
def fitQ : List Byte := [1, 1] ++ List.replicate 30 0
def fitS : State := (tS fitA 0).put 0xFFFC0 fitQ
def tsW : Word := BitVec.ofNat 64 (2 ^ 63 + 2 * 2 ^ 44 + 7)

theorem witness_TimeSlotsAndPlace :
    (((tS 63 tsW).fx hd true true = some (tX 63 tsW) ∧ (tX 63 tsW).fits hd 1) ∧ (tX 63 tsW).l.toNat < 64 ∧ field tsW.toNat 44 2 ≠ 3 ∧ field tsW.toNat 46 17 = 0)
    ∧ ((tS 0 0).fx hd true false = some (tX 0 0) ∧ (tX 0 0).fits hd 1) ∧ ((tS 1 0).fx hd true false = some (tX 1 0) ∧ (tX 1 0).fits hd 1)
    ∧ ((fitS.fx hd true false = some (tX fitA 0) ∧ (tX fitA 0).fits hd 1) ∧ fitA.toNat % 64 = 0 ∧ 0xFF00000000000000 ≤ fitA.toNat ∧ fitA.toNat < 0xFF00000000000000 + 0x00100000
        ∧ readRange fitS (tX fitA 0) fitA.toNat 32 .rd = .ok (fitQ, [0xFFFC0, 0xFFFC8, 0xFFFD0, 0xFFFD8]) ∧ fitBad fitQ = none) := by
  refine ⟨⟨issues_fits ?_, ?_⟩, issues_fits ?_, issues_fits ?_, ⟨issues_fits ?_, ?_⟩⟩ <;> decide +kernel

end Sys2Proof.Tests
end

