-- ==== Sys2Proof/Tests/Witness3.lean ====
section
/-! SUPPORT. Witnesses for the statements about seed banks, grafts, counters and penalty tables. -/

namespace Sys2Proof.Tests

set_option Elab.async false

open Sys2Proof Sys2Proof.Machine

/-! ## Seed banks -/

/-- A walk from a table at 0 over tables at 0x4000 and 0x8000 to a leaf of 16 MiB at 0x1000000, read and write, all under key 5, for the device addresses below 2^24. -/
def walkLeaf : Nat := 5 * 2 ^ 52 + 0x1000000 + 6 * 2 ^ 8 + 11

/-- A state in which context 5 has that walk; the granules of the tables and of the first 128 KiB of the leaf are key 5's. -/
def walkS (s : State) : State :=
  ((({ s with pk := { s.pk with owners := [(0, 5), (256, 5), (257, 5)] }, jobs := [(5, { tJob with keys := [(0, ⟨.data, 5⟩)], tableKey := 5 })] } : State).put hbmAt (toBytes 8 0x4001)).put
    (hbmAt + 0x4000) (toBytes 8 0x8001)).put (hbmAt + 0x8000) (toBytes 8 walkLeaf)

/-- An open descriptor: capacity 2^10, the last 64 lines of the context's understory on the die, backing at device address 0. -/
def openD : List Byte := [10, 0, 0, 0] ++ toBytes 4 (12582912 - 32768) ++ toBytes 4 64 ++ List.replicate 52 0
def openA : Word := 0xFF000000000FFFC0
def openS : State := { (walkS (tS openA 0)).put 0xFFFC0 openD with dies := [(0, { seeds := [(0, { isOpen := true })] })] }
def openPs : List Nat := (List.range 8).map (0xFFFC0 + 8 * ·)

/-- What the execution of OPEN in `openS` finds: descriptor, reserve, backing and free handle. -/
def openFits (q : List Byte) (k : Nat) : Bool :=
  decide (readRange openS (tX openA 0) openA.toNat 64 .rd = .ok (q, openPs) ∧ seedDescBad q = none ∧ openS.held 0 (openSect 0) = false)
    && decide (leAt q 4 4 + 512 * leAt q 8 4 ≤ 12582912 * (openS.bands 5 0).length ∧ (openS.die 0).reserved = [] ∧ (tX openA 0).b.opened 0 = [])
    && openS.backingOk 5 (leAt q 16 8) (2 ^ leAt q 0 1) && decide ((openS.seed 0 k).isOpen = false ∧ (openS.seed 0 k).retired = false)
    && (List.range k).all fun j => (openS.seed 0 j).isOpen || (openS.seed 0 j).retired

theorem witness_SeedBanks_open : (openS.fx hd true false = some (tX openA 0) ∧ (tX openA 0).fits hd 1) ∧ (tX openA 0).b.atomic = true ∧ openS.ctxOf 0 = 5
    ∧ (openS.ownOffset 0 openA.toNat).isSome = true ∧ openA.toNat % 64 = 0 ∧ openFits openD 1 = true := by
  refine ⟨issues_fits (by decide +kernel), ?_⟩
  decide +kernel

/-- Where no line has been written back or read since, the walker finds the bank as it left it. -/
theorem bankIn_clean (s : State) (d k : Nat) (h : (s.seed d k).clean = []) : s.bankIn d k = s := by simp [State.bankIn, h]

/-- The last handle with the last generation. -/
def seedH : Word := BitVec.ofNat 64 (4095 + (2 ^ 32 - 1) * 2 ^ 12)
def seedB (st : SeedSt) (n : Nat) : Seed := { isOpen := true, gen := 2 ^ 32 - 1, ctx := 5, lgcap := 10, st := st, window := List.replicate n 1, appended := n }
def seedS (b : Seed) (r : Word) : State := { tS seedH r with dies := [(0, { seeds := [(4095, b)] })] }
def seedR : Word := 0xFF000000000FFC00
def draftR : Word := 0xFF000000000FFCC0

/-- The bank that an instruction with that handle sees. -/
def seen (b : Seed) (r : Word) : Seed := (seedS b r).bankSeen (tX seedH r) 4095
/-- An instruction on that bank issues, and no other block holds the bank. -/
def onBank (b : Seed) (r : Word) (nr : Bool) : Bool := issues (seedS b r) true nr (tX seedH r) 1 && !(seedS b r).held 0 (seedSect 0 4095)

/-- What each instruction on the bank rests on: no line of it is clean and no atomic holds one. -/
theorem seedS_lines (b : Seed) (r : Word) (h : b.clean = []) : (seedS b r).bankIn 0 4095 = seedS b r := bankIn_clean _ _ _ (by simpa [seedS, State.seed, State.die, nget, nfind] using h)

theorem witness_SeedBanks_lines :
    (seedS (seedB .ready 3) 0xFFFFFF).backingHeld 0 (seedB .ready 3) = false ∧ (seedB .ready 3).clean = [] ∧ (seedB .ready 513).clean = [] ∧ (seedB .ready 512).clean = [] := by decide +kernel

theorem witness_SeedBanks_handle :
    (seedH.toNat < 2 ^ 44 ∧ field seedH.toNat 0 12 = 4095 ∧ (seen (seedB .ready 3) 0xFFFFFF).isOpen = true ∧ (seen (seedB .ready 3) 0xFFFFFF).ctx = 5
        ∧ (seen (seedB .ready 3) 0xFFFFFF).gen = field seedH.toNat 12 32 ∧ (seen (seedB .ready 3) 0xFFFFFF).st = .ready)
    ∧ (onBank (seedB .ready 3) 0xFFFFFF true = true ∧ (0xFFFFFF#64).toNat < 2 ^ 24)
    ∧ (onBank (seedB .ready 513) 0 false = true ∧ (seen (seedB .ready 513) 0).cap / 2 < (seen (seedB .ready 513) 0).window.length)
    ∧ (onBank (seedB .ready 512) 0 false = true ∧ (seen (seedB .ready 512) 0).window.length ≤ (seen (seedB .ready 512) 0).cap / 2)
    ∧ (onBank (seedB .broken 3) 5 true = true ∧ (seen (seedB .broken 3) 5).isOpen = true ∧ (seen (seedB .broken 3) 5).st = .broken)
    ∧ (issues (tS seedH 0) true false (tX seedH 0) 1 = true ∧ ((tS seedH 0).bankSeen (tX seedH 0) 4095).isOpen = false)
    ∧ (issues (tS seedH 64) true true (tX seedH 64) 1 = true ∧ ((tS seedH 64).bankSeen (tX seedH 64) 4095).isOpen = false) := by decide +kernel

/-- The bank with its backing at device address 0, whose page is mapped. -/
def draftS : State := walkS (seedS (seedB .replay 3) draftR)

theorem draftS_walker : (draftS.bankIn 0 4095).touchBank 0 4095 = draftS := by
  rw [bankIn_clean _ _ _ (by decide +kernel)]
  have h : draftS.backingLive (draftS.seed 0 4095) = true := by decide +kernel
  simp only [State.touchBank, h, or_true, if_true]

theorem witness_SeedBanks_draft : (draftS.fx hd true true = some (tX seedH draftR) ∧ (tX seedH draftR).fits hd 1) ∧ draftR.toNat % 64 = 0 ∧ 0xFF00000000000000 ≤ draftR.toNat
    ∧ draftR.toNat < 0xFF00000000000000 + 0x00100000 ∧ (draftS.bankIn 0 4095).touchBank 0 4095 = draftS
    ∧ (∃ ps, tryWords draftS (tX seedH draftR) .wr (((draftRecord []).length + 7) / 8) draftR.toNat [] = .ok ps
        ∧ firstConflict (tX seedH draftR).b 0 (wordStores 0 draftR.toNat ps (chunks 8 ((draftRecord []).length + 1) (draftRecord [])) 0) = none)
    ∧ draftS.seedOf 0 seedH.toNat = some 4095 ∧ (seedB .replay 3).draft (1#5).toNat ((3#2).toNat + 1) ((15#4).toNat + 1) = [] ∧ draftS.seed 0 4095 = seedB .replay 3
    ∧ draftS.backingHeld 0 (seedB .replay 3) = false :=
  ⟨issues_fits (by decide +kernel), by decide +kernel, by decide +kernel, by decide +kernel, draftS_walker, ⟨(List.range 104).map (0xFFCC0 + 8 * ·), by decide +kernel, by decide +kernel⟩,
    by and_intros <;> decide +kernel⟩

/-- The image of a window of `n` tokens with the header field `n`. -/
def imgOf (n : Nat) : List Byte := seedImage { (seedB .ready n) with ml := 1 }
def loadS (st : SeedSt) (m : List Byte) : State := (seedS (seedB st 3) seedR).put 0xFFC00 m

/-- What SEED.LOAD reads at its operand as `m`, of `n` words. -/
def loadReads (st : SeedSt) (img m : List Byte) (n : Nat) : Bool :=
  decide (readRange (loadS st img) (tX seedH seedR) seedR.toNat m.length .rd = .ok (m, (List.range n).map (0xFFC00 + 8 * ·)))

theorem witness_SeedBanks_images :
    (issues (loadS .ready (imgOf 2)) true true (tX seedH seedR) 1 = true ∧ seedR.toNat % 64 = 0 ∧ (loadS .ready (imgOf 2)).bankSeen (tX seedH seedR) 4095 = seedB .ready 3
        ∧ (loadS .ready (imgOf 2)).held 0 (seedSect 0 4095) = false)
    ∧ (tryWords (loadS .ready (imgOf 2)) (tX seedH seedR) .wr (((seedImage (seedB .ready 3)).length + 7) / 8) seedR.toNat [] = .ok ((List.range 10).map (0xFFC00 + 8 * ·))
        ∧ firstConflict (tX seedH seedR).b 0 (wordStores 0 seedR.toNat ((List.range 10).map (0xFFC00 + 8 * ·)) (chunks 8 ((seedImage (seedB .ready 3)).length + 1) (seedImage (seedB .ready 3))) 0) = none)
    ∧ (loadReads .ready (imgOf 2) ((imgOf 2).take 64) 8 = true ∧ seedHeadBad ((imgOf 2).take 64) = none ∧ leAt ((imgOf 2).take 64) 16 4 = 2
        ∧ loadReads .ready (imgOf 2) (imgOf 2) 9 = true ∧ (imgOf 2).length = 64 + 4 * 2 ∧ (∀ p < 2, leAt (imgOf 2) (64 + 4 * p + 3) 1 = 0) ∧ 2 ≤ (seedB .ready 3).cap)
    ∧ (loadReads .ready [1] (1 :: List.replicate 63 0) 8 = true ∧ seedHeadBad (1 :: List.replicate 63 0) = some 0)
    ∧ ((loadS .replay (imgOf 2)).bankSeen (tX seedH seedR) 4095).st = .replay ∧ ((loadS .ready (imgOf 2)).seed 0 4095).clean = []
    ∧ (loadS .ready (imgOf 2)).backingHeld 0 (seedB .ready 3) = false := by decide +kernel

theorem loadS_walker : (loadS .ready (imgOf 2)).bankIn 0 4095 = loadS .ready (imgOf 2) := bankIn_clean _ _ _ (by decide +kernel)

/-! ## Grafts -/

def graftQ : List Byte := toBytes 6 77 ++ toBytes 2 3 ++ toBytes 4 192 ++ List.replicate 52 0
def graftS : State := (tS openA 64).put 0xFFFC0 graftQ

theorem witness_GraftInstructions_fetch :
    (graftS.fx hd true true = some (tX openA 64) ∧ (tX openA 64).fits hd 1) ∧ (tX openA 64).b.atomic = true ∧ (tX openA 64).r.toNat % 64 = 0
    ∧ readRange graftS (tX openA 64) openA.toNat 64 .rd = .ok (graftQ, openPs) ∧ graftDescBad graftQ = none
    ∧ (graftS.graftsAt (tX openA 64)).graftFetch (graftS.ctxOf 0) (leAt graftQ 0 6) (leAt graftQ 6 2) (sliceB graftQ 16 32) (leAt graftQ 8 4) = (0, some (0, 1))
    ∧ graftS.held 0 (graftSect 0) = false :=
  ⟨issues_fits (by decide +kernel), by and_intros <;> decide +kernel⟩

/-- Entry 3 holds the graft of the query, with the hash asked for or another; entry 3 is held by glade 1's block; the job's quota is 0. -/
def hasS (b : Byte) : State := { graftS with grafts := [(3, { st := .ready, gen := 1, ctx := 5, id := 77, ver := 3, hash := List.replicate 32 b, length := 192 })] }
def heldGraftS : State := (hasS 0).modGlade 1 fun x => { x with cur := { x.cur with ww := { block := some { tB 0 0 with pend := [(0, .hold (graftSect 3))] } } } }
def poorS : State := { graftS with jobs := [(5, { tJob with graftQuota := 0 })] }

/-- The answer that FETCH finds. -/
def fetches (s : State) : Nat × Option (Nat × Nat) := (s.graftsAt (tX openA 64)).graftFetch 5 (leAt graftQ 0 6) (leAt graftQ 6 2) (sliceB graftQ 16 32) (leAt graftQ 8 4)

theorem witness_GraftInstructions_answers :
    (issues (hasS 0) true true (tX openA 64) 1 = true ∧ fetches (hasS 0) = (2, some (3, 1)) ∧ (hasS 0).held 0 (graftSect 3) = false) ∧ fetches (hasS 1) = (10, some (3, 1))
    ∧ (issues poorS true true (tX openA 64) 1 = true ∧ fetches poorS = (4, none))
    ∧ (issues heldGraftS true true (tX openA 64) 1 = true ∧ fetches heldGraftS = (2, some (3, 1)) ∧ heldGraftS.held 0 (graftSect 3) = true) := by decide +kernel

/-- The last entry in a state of the cache, pinned `n` times by launch 0 of die 0. -/
def pinS (st : GraftSt) (n : Nat) : State := { tS 0xFFFFFFFF 0 with grafts := [(65535, { st := st, gen := 0xFFFF, ctx := 5, id := 77, ver := 3, pins := if n = 0 then [] else [(0, n)] })] }
def pinX : Fx := tX 0xFFFFFFFF 0

theorem witness_GraftInstructions_pin :
    (((pinS .evicting 255).fx hd true false = some pinX ∧ pinX.fits hd 1) ∧ pinX.l.toNat < 2 ^ 32 ∧ ((pinS .evicting 255).graftsAt pinX).graftOf ((pinS .evicting 255).ctxOf 0) pinX.l.toNat = some 65535
        ∧ (pinS .evicting 255).held 0 (graftSect 65535) = false ∧ (((pinS .evicting 255).graftsAt pinX).graft 65535).st = .evicting
        ∧ (((pinS .evicting 255).graftsAt pinX).graft 65535).pinCount ≠ 65535 ∧ ((pinS .evicting 255).graftsAt pinX).launchPins ((pinS .evicting 255).launchKeyOf 0) ≠ 256
        ∧ nget 0 (((pinS .evicting 255).graftsAt pinX).graft 65535).pins ((pinS .evicting 255).launchKeyOf 0) ≠ 0)
    ∧ ((pinS .fetching 0).fx hd true false = some pinX ∧ (((pinS .fetching 0).graftsAt pinX).graft 65535).st = .fetching
        ∧ nget 0 (((pinS .fetching 0).graftsAt pinX).graft 65535).pins ((pinS .fetching 0).launchKeyOf 0) = 0)
    ∧ ((pinS .failed 0).fx hd true false = some pinX ∧ (((pinS .failed 0).graftsAt pinX).graft 65535).st = .failed)
    ∧ ((pinS .ready 1).graftOf ((pinS .ready 1).ctxOf 0) pinX.l.toNat = some 65535 ∧ (tS 0xFFFFFFFF 0).graftOf 5 pinX.l.toNat = none) :=
  ⟨⟨issues_fits (by decide +kernel), by decide +kernel⟩, by and_intros <;> decide +kernel⟩

theorem witness_GraftInstructions_find :
    (graftS.fx hd true true = some (tX openA 64) ∧ readRange graftS (tX openA 64) openA.toNat 8 .rd = .ok (graftQ.take 8, [0xFFFC0]) ∧ graftS.graftFind 5 (leAt (graftQ.take 8) 0 6) (leAt (graftQ.take 8) 6 2) = none)
    ∧ (pinS .ready 1).graftFind 5 (leAt (graftQ.take 8) 0 6) (leAt (graftQ.take 8) 6 2) = some 65535 := by decide +kernel

/-! ## Counters -/

def softN : Word := BitVec.ofNat 64 (5 * 2 ^ 61 + 255)
def tlS (l r : Word) : State := (tS l r).modEng 0 fun _ => { tls := [(1, { issued := 9, retired := 4 })] }

theorem witness_Counters_reads :
    (tX 4 0).fits hd 0 ∧ ((tlS 4 0).fx hd false false = some (tX 4 0) ∧ (tX 4 0).b.waitOpen = false)
    ∧ ((tlS 4 0).fx hd true false = some (tX 4 0) ∧ (tX 4 0).l.toNat ≤ (((tlS 4 0).eng 0).tl 1).retired) ∧ ((tlS 5 0).fx hd true false = some (tX 5 0) ∧ (((tlS 5 0).eng 0).tl 1).retired < (tX 5 0).l.toNat)
    ∧ (((tlS 5 0).eng 0).tl 1).issued - (((tlS 5 0).eng 0).tl 1).retired ≤ (tX 5 0).l.toNat
    ∧ ((tS softN 0).fx hd true true = some (tX softN 0) ∧ (tS softN 0).counter ((tS softN 0).ctxOf 0) softN.toNat = some {}) ∧ (tX softN 0).r.toNat ≤ (({} : Counter).count) ∧ (({} : Counter).count) < (tX softN 1).r.toNat
    ∧ ((tS 0 0).fx hd true true = some (tX 0 0) ∧ (tS 0 0).counter ((tS 0 0).ctxOf 0) 0 = none) :=
  ⟨(issues_fits (s := tS 4 0) (nl := false) (nr := false) (by decide +kernel)).2, by decide +kernel⟩

/-- Soft counter 255 of context 5 at its last value but one. -/
def fullS (l r : Word) : State := { tS l r with jobs := [(5, { tJob with soft := [(255, { count := 2 ^ 64 - 2 })] })] }

theorem witness_Counters_changes :
    (((fullS softN 1).fx hd true true = some (tX softN 1) ∧ (tX softN 1).fits hd 1) ∧ (tX softN 1).b.atomic = true ∧ field softN.toNat 61 3 = 5
        ∧ (fullS softN 1).counter ((fullS softN 1).ctxOf 0) softN.toNat = some { count := 2 ^ 64 - 2 } ∧ 2 ^ 64 - 2 + (tX softN 1).b.added 255 0 + 1 < 2 ^ 64)
    ∧ ((fullS softN 0xFFFFFFFF).fx hd true true = some (tX softN 0xFFFFFFFF) ∧ (0xFFFFFFFF#64).toNat < 2 ^ 32 ∧ 2 ^ 64 ≤ 2 ^ 64 - 2 + (tX softN 0xFFFFFFFF).b.added 255 0 + 0xFFFFFFFF)
    ∧ (((tS (BitVec.ofNat 64 (4 * 2 ^ 61)) 0).fx hd true false = some (tX (BitVec.ofNat 64 (4 * 2 ^ 61)) 0) ∧ (tX (BitVec.ofNat 64 (4 * 2 ^ 61)) 0).fits hd 1)
        ∧ field (BitVec.ofNat 64 (4 * 2 ^ 61)).toNat 61 3 = 4 ∧ (tS (BitVec.ofNat 64 (4 * 2 ^ 61)) 0).counter 5 (4 * 2 ^ 61) ≠ none)
    ∧ (((tS 15 0).fx hd true false = some (tX 15 0) ∧ (tX 15 0).fits hd 0) ∧ (tX 15 0).b.waitOpen = false ∧ (tX 15 0).l.toNat ≤ 15)
    ∧ ((tS 0x7F0005 0).fx hd true false = some (tX 0x7F0005 0) ∧ lifeOk (tS 0x7F0005 0) 0 (field 0x7F0005 0 16) (field 0x7F0005 16 16) = true) := by
  refine ⟨⟨issues_fits ?_, ?_⟩, ?_, ⟨issues_fits ?_, ?_⟩, ⟨issues_fits ?_, ?_⟩, ?_⟩ <;> decide +kernel

/-- A request whose record goes to the burrow's start. -/
def useQ : List Byte := List.replicate 32 9 ++ toBytes 8 0xFF00000000000000 ++ List.replicate 24 0
def useRec : List Byte := List.replicate 512 1
def usePs : List Nat := (List.range 64).map (8 * ·)
def useB : Block := { tB openA 0 with signs := [(0, 100, useRec)] }
def useS : State := (tS openA 0).put 0xFFFC0 useQ
def useS2 (t : Nat) : State := { (tState useB).put 0xFFFC0 useQ with wall := t }
def busyS : State := { useS with pk := { useS.pk with signing := [1, 2, 3, 4] } }
def useX : Fx := ⟨0, 0, useB, openA, 0⟩

/-- The request as an instruction of glade 0 reads it. -/
def asked (s : State) (x : Fx) : Bool :=
  decide (s.fx hd true false = some x ∧ x.b.atomic = true ∧ x.l = openA) && decide (readRange s x openA.toNat 64 .rd = .ok (useQ, openPs))

/-- The place of the record is free of conflicts. -/
def placed (s : State) : Bool :=
  decide (tryWords s (tX openA 0) .wr 64 0xFF00000000000000 [] = .ok usePs ∧ firstConflict (tX openA 0).b 0 (penStores 0 0xFF00000000000000 usePs (List.replicate 64 []) (chunks 8 512 (List.replicate 512 0)) 0) = none)

theorem witness_Counters_usage :
    (openA.toNat % 64 = 0 ∧ leAt useQ 40 24 = 0 ∧ leAt useQ 32 8 = 0xFF00000000000000 ∧ 2 ^ 56 ≤ leAt useQ 32 8)
    ∧ (asked useS (tX openA 0) = true ∧ nfind (tX openA 0).b.signs 0 = none ∧ useS.signing.length < 4 ∧ placed useS = true)
    ∧ (asked busyS (tX openA 0) = true ∧ 4 ≤ busyS.signing.length ∧ placed busyS = true)
    ∧ (asked (useS2 99) useX = true ∧ nfind useB.signs 0 = some (100, useRec) ∧ (useS2 99).wall < 100)
    ∧ (asked (useS2 100) useX = true ∧ 100 ≤ (useS2 100).wall) ∧ useX.fits hd 1 := by
  refine ⟨by decide +kernel, by decide +kernel, by decide +kernel, by decide +kernel, by decide +kernel, hd_fits _ _ ?_ ?_⟩ <;> decide +kernel

/-! ## Penalty tables -/

/-- A table of 2^8 slots at the start of the burrow: overlay 3 holds one token, the others are closed. -/
def penT : List Byte := toBytes 4 0x50454E54 ++ [8, 0, 0, 0] ++ toBytes 4 0 ++ [0xFF, 0xFF, 0xFF, 1] ++ List.replicate 48 0 ++ List.replicate 192 0 ++ toBytes 4 0xFFFFFF ++ List.replicate 60 0
def penR : Word := 0xFF00000000001000
def penA : Word := 0xFF00000000000000
def penS (r : Word) : State := (tS penA r).put 0 penT
def penFull : List Byte := penT ++ List.replicate 2048 0
def penPs : List Nat := (List.range 296).map (8 * ·)
/-- A draft record whose branch 3 has `n` tokens. -/
def penDr (n : Nat) : List Byte := [4, 0, 0, 0, BitVec.ofNat 8 n] ++ List.replicate 827 0

/-- What BRANCH finds: the table, and the draft record at its operand. -/
def penDraft (n : Nat) : Bool :=
  let s := (penS penR).put 0x1000 (penDr n)
  issues s true true (tX penA penR) 1 && decide (penRead s (tX penA penR) = .ok (penFull, penPs))
    && decide (readRange s (tX penA penR) penR.toNat 832 .rd = .ok (penDr n, (List.range 104).map (0x1000 + 8 * ·)))

/-- The table of which `old` holds the bytes and `new` the changed ones, as a block without stores writes it. -/
def penWrites (new : List Byte) : Bool :=
  (firstConflict (tX penA penR).b 0 (⟨0, penA.toNat, 0, penFull.take 4, false, []⟩ :: penStores 0 penA.toNat penPs (chunks 8 2368 penFull) (chunks 8 new.length new) 0)).isNone

/-- ACCEPT of one token of overlay 3 with a bonus token; ACCEPT of two, which the overlay does not hold. -/
def penAcc : Word := 0x00ABCDEF00000101

/-- The table as a PEN instruction of glade 0 reads it, whatever its R operand here. -/
theorem penTable_16 : penDraft 16 = true := by decide +kernel
theorem penTable_17 : penDraft 17 = true := by decide +kernel
theorem penTable_accept : penRead (penS penAcc) (tX penA penAcc) = .ok (penFull, penPs) := by decide +kernel
theorem penTable_two : penRead (penS 2) (tX penA 2) = .ok (penFull, penPs) := by decide +kernel
theorem penTable_drop : penRead (penS 0) (tX penA 0) = .ok (penFull, penPs) := by decide +kernel

theorem witness_PenaltyTables_branch :
    (penDraft 16 = true ∧ penR.toNat % 64 = 0 ∧ penA.toNat % 64 = 0 ∧ penA.toNat < 0xFF00000200000000 ∧ leAt (penDr 16) 0 1 ≤ 4 ∧ leAt (penDr 16) (1 + (3#2).toNat) 1 ≤ 16
        ∧ (∀ i < 16, leAt (penDr 16) (64 + 4 * (16 * 3 + i)) 4 < 2 ^ 24) ∧ penWrites (putAt (putAt penFull 15 [16]) (64 + 64 * 3) (List.replicate 64 0)) = true)
    ∧ (penDraft 17 = true ∧ 16 < leAt (penDr 17) (1 + (3#2).toNat) 1) := by
  refine ⟨⟨penTable_16, ?_⟩, penTable_17, ?_⟩ <;> and_intros <;> decide +kernel

theorem witness_PenaltyTables_accept :
    (((penS penAcc).fx hd true true = some (tX penA penAcc) ∧ (tX penA penAcc).fits hd 1) ∧ field penAcc.toNat 0 5 = 1 ∧ field penAcc.toNat 5 3 = 0 ∧ field penAcc.toNat 9 23 = 0 ∧ field penAcc.toNat 56 8 = 0
        ∧ penRead (penS penAcc) (tX penA penAcc) = .ok (penFull, penPs) ∧ leAt penFull (12 + 3) 1 ≠ 0xFF ∧ 1 ≤ leAt penFull (12 + 3) 1 ∧ (penAddAll [0xFFFFFF, 0xABCDEF] penFull).isSome = true)
    ∧ ((penS 2).fx hd true true = some (tX penA 2) ∧ penRead (penS 2) (tX penA 2) = .ok (penFull, penPs) ∧ leAt penFull (12 + 3) 1 < field 2 0 5) :=
  by refine ⟨⟨issues_fits ?_, ?_, ?_, ?_, ?_, penTable_accept, ?_⟩, ?_, penTable_two, ?_⟩ <;> decide +kernel

/-- A table whose count of used slots is its capacity. -/
def penFilled : List Byte := putAt penFull 8 (toBytes 4 256)

theorem witness_PenaltyTables_full : penAddAll [0xFFFFFF] penFilled = none ∧ penBad penFilled = none := by decide +kernel

theorem witness_PenaltyTables_drop : ((penS 0).fx hd true false = some (tX penA 0) ∧ (tX penA 0).fits hd 1) ∧ penRead (penS 0) (tX penA 0) = .ok (penFull, penPs) :=
  ⟨issues_fits (by decide +kernel), penTable_drop⟩

end Sys2Proof.Tests
end

