-- ==== Sys2Proof/Tests/Witness5.lean ====
section
/-! SUPPORT. Witnesses for the statements about power, the host port, launches and the forester. -/

namespace Sys2Proof.Tests

set_option Elab.async false

open Sys2Proof Sys2Proof.Machine

/-! ## Power: a chain whose root key is the base point itself, and which certifies its multiples 3, 4 and 5; every signature has the one-time number 2 -/

def key64 (x y : Nat) : List Byte := toBytesBE 32 x ++ toBytesBE 32 y
/-- A signature with the one-time number 2. -/
def sig64 (e : Nat) : List Byte := toBytesBE 32 56515219790691171413109057904011688695424810155802929973526481321309856242040 ++ toBytesBE 32 e
def rootKey : List Byte := key64 p256Gx p256Gy
/-- A certificate of a key for a role, signed. -/
def certW (key : List Byte) (role e : Nat) : List Byte := key ++ toBytes 1 role ++ List.replicate 31 0 ++ sig64 e
def fwKey : List Byte := key64 42877656971275811310262564894490210024759287182177196162425349131675946712428 61154801112014214504178281461992570017247172004704277041681093927569603776562
def partKey : List Byte := key64 102369864249653057322725350723741461599905180004905897298779971437827381725266 101744491111635190512325668403432589740384530506764148840112137220732283181254
def libKeyW : List Byte := key64 36794669340896883012101473439538929759152396476648692591795318194054580155373 101659946828913883886577915207667153874746613498030835602133042203824767462820
def chainW : List Byte := rootKey ++ List.replicate 256 0
  ++ certW fwKey 2 48646728476067186139064097803174906539919979978580190119427338174408658498441
  ++ certW partKey 3 112816267669484111328737012617943248936287792829586702131887876308526414589749
  ++ certW libKeyW 4 77739446226375523932667283995363373326686204367376540800066270392467508291207
def fwSlot : FlashSlot := { image := [0], secver := 3, sig := sig64 51799969852567503331679597033601374030709409649414430576396747783038922924954 }
/-- A full-grade part record with every glade, channel and lane usable. -/
def partRec : List Byte := [1, 0, 1] ++ List.replicate 29 0 ++ List.replicate 144 255 ++ List.replicate 16 0
def goodFlash : Flash :=
  { hwA := fwSlot, hwB := { fwSlot with secver := 4 }, dfA := fwSlot, chain := chainW
    part := partRec ++ sig64 69781530152390447591600856326586162227157643263374033255347669763787792017889, manifestBytes := [7, 0]
    manifestSig := sig64 85741365200632553187505809539497690785435479353203317860768427806620623826306 }
def flashS (f : Flash) : State := { pk := { flash := f, rom := sha256 rootKey } }
def goodPk : Pkg := (flashS goodFlash).pk

theorem goodFlash_keys : goodPk.keyFor 2 = fwKey ∧ goodPk.keyFor 3 = partKey ∧ goodPk.keyFor 4 = libKeyW := by decide +kernel

theorem witness_PowerOn :
    goodPk.power = 0
    ∧ (ecdsaVerify fwKey goodFlash.hwA.image goodFlash.hwA.sig = true ∧ ecdsaVerify fwKey goodFlash.hwB.image goodFlash.hwB.sig = true ∧ goodFlash.hwA.secver < goodFlash.hwB.secver)
    ∧ (ecdsaVerify fwKey goodFlash.dfA.image goodFlash.dfA.sig = true ∧ ecdsaVerify fwKey goodFlash.dfB.image goodFlash.dfB.sig = false)
    ∧ ecdsaVerify libKeyW goodFlash.manifestBytes goodFlash.manifestSig = true ∧ partBad partKey goodFlash.part = none
    ∧ partBad partKey [] = some 1 ∧ sha256 ((flashS {}).pk.flash.chain.take 64) ≠ (flashS {}).pk.rom ∧ (tS 0 0).pk.power ≠ 0
    ∧ ecdsaVerify libKeyW [7, 1] goodFlash.manifestSig = false := by decide +kernel

theorem witness_PowerAndManagement :
    (0 < 4 ∧ 4 < 5) ∧ (1200 ≤ 2600 ∧ (tS 0 0).pk.power = 1) ∧ (tS 0 0).pk.number = none ∧ ({ (tS 0 0).pk with number := some (1, 2) } : Pkg).number ≠ none ∧ (tS 0 0).pk.hwSlot ≠ 1
    ∧ ({ (tS 0 0).pk with hwSlot := 1, dfSlot := 1 } : Pkg).hwSlot = 1 ∧ (goodPk.power = 0 ∧ (tS 0 0).pk.power ≠ 0 ∧ (tS 0 0).pk.power ≠ 2) := by decide +kernel

/-- A clearing whose requested test is due, one whose test is not; in clearing 62 a launch of context 5 is held for the test, and a party of the job has an open session. -/
def heldL : Launch := { arm := 0, ctx := 5, cls := 2, stage := .running, holdTest := true }
def testS : State := { tS 0 0 with
  wall := 756000000000
  clearings := [(63, { requested := true }), (0, { requested := true, contexts := [5] })]
  dies := [(0, { launches := [(0, heldL)] })]
  pk := { (tS 0 0).pk with spdm := [(relay, { sessions := [(7, { secured := true })] })] } }

theorem witness_InfieldTest :
    testS.testDue 63 = true ∧ testS.testDue 62 = false ∧ testS.loadedOn 63 = []
    ∧ (testS.testDue 0 = true ∧ (0, 0) ∈ testS.loadedOn 0 ∧ testS.launch 0 0 = some heldL ∧ heldL.stage = .running)
    ∧ ((testS.exposed 0).Nodup ∧ 5 ∈ testS.exposed 0 ∧ (0, ⟨some 7, [1]⟩) ∈ (testS.job 5).joins ∧ testS.liveSession ⟨some 7, [1]⟩ = some 7)
    ∧ (0 ∈ gladesOf 0 ∧ testS.runs 0 = true) := by decide +kernel

/-! ## The host port -/

def fnS (f : Fn) : State := { fns := [(63, f)] }

theorem witness_FaultRecords :
    ((fnS {}).fn 63).banned = false ∧ ((fnS {}).fn 63).fqEnable = false
    ∧ (((fnS { fqEnable := true, fqEntries := 16, wcnt := 15 }).fn 63).fqEnable = true ∧ 15 - 0 < 16 ∧ Memory.wf (fnS { fqEnable := true, fqEntries := 16, wcnt := 15 }).mem = true)
    ∧ ((fnS { fqEnable := true, fqEntries := 16, wcnt := 16 }).fn 63).fqEntries ≤ 16 - 0 ∧ ((fnS { banned := true }).fn 63).banned = true := by decide +kernel

def ringS (r : Ring) : State := fnS { rings := [(7, r)] }
/-- Context 5 is an open job of VF 63. -/
def jobS (q : List (Nat × Nat × Nat)) : State := { fnS { tinvQ := q } with jobs := [(5, { tJob with vf := 63 })] }

theorem witness_HostRegisters :
    (((ringS {}).fn 63).ring 7).st = 0 ∧ (((ringS { st := 1, size := 64 }).fn 63).ring 7).st = 1 ∧ 63 % 2 ^ 17 < 64 ∧ 64 ≤ 64 % 2 ^ 17
    ∧ (((ringS { st := 2 }).fn 63).ring 7).st = 2 ∧ (64 ∈ (List.range 11).map fun k => 2 ^ (k + 6)) ∧ (65536 ∈ (List.range 11).map fun k => 2 ^ (k + 6))
    ∧ 63 ∉ ((List.range 11).map fun k => 2 ^ (k + 6)) ∧ (((ringS { st := 3, ridx := 2, widx := 2 }).fn 63).ring 7).ridx = 2
    ∧ (∃ j, nfind (jobS []).jobs (5 % 1024) = some j ∧ j.ending = false ∧ j.vf = 63) ∧ ((jobS (List.replicate 63 (1, 5, 0))).fn 63).tinvQ.length < 64
    ∧ 64 ≤ ((jobS (List.replicate 64 (1, 5, 0))).fn 63).tinvQ.length ∧ (fnS {}).pk.power = 0
    ∧ ((tS 0 0).pk.power ≠ 0 ∧ (tS 0 0).pk.partOk = false) ∧ ({ (tS 0 0).pk with partOk := true } : Pkg).partOk = true ∧ ((fnS { tdi := .run }).fn 63).tdi = .run := by
  and_intros <;> decide +kernel

def pageS (h : HostPage) (q : List (Nat × PrqEnt)) (w : Nat) : State := { fnS { pages := [h], prq := q } with wall := w }

theorem witness_HostEvents_rings :
    ((((ringS { st := 2 }).fn 63).ring 7).st = 2 ∧ (((ringS { st := 2 }).fn 63).ring 7).pendingRecs = 0) ∧ (((ringS { st := 2, pendingRecs := 1 }).fn 63).ring 7).pendingRecs ≠ 0
    ∧ ((((ringS { st := 1, size := 64, ridx := 63, widx := 0 }).fn 63).ring 7).st = 1 ∧ (((ringS { st := 1, size := 64, ridx := 63, widx := 0 }).fn 63).ring 7).ridx ≠ 0
        ∧ (ringS { st := 1, size := 64, ridx := 63, widx := 0 }).bad (2 ^ 60 + 63 * 2 ^ 56 + 64 * 63) 64 = false)
    ∧ (((jobS [(1, 5, 4097)]).fn 63).tinvQ = [(1, 5, 4097)] ∧ (jobS [(1, 5, 4097)]).translating 5 0 (4096 * 4) = false)
    ∧ (((fnS { msixPend := [0] }).fn 63).msixPend = [0] ∧ nfind ((fnS { msixPend := [0] }).fn 63).msixAt 0 = none) ∧ ((fnS {}).fn 63).msixPend = [] := by decide +kernel

theorem witness_HostEvents_pages :
    (((pageS ⟨9, true, .queued, []⟩ [] 0).fn 63).pages = [] ++ ⟨9, true, .queued, []⟩ :: [] ∧ nfind ((pageS ⟨9, true, .queued, []⟩ [] 0).fn 63).prq 0 = none)
    ∧ (nfind ((pageS ⟨9, true, .queued, []⟩ [(63, ⟨9, true, 0, 0⟩)] (100 * 7560000000)).fn 63).prq 63 = some ⟨9, true, 0, 0⟩
        ∧ 0 + 100 * 7560000000 ≤ (pageS ⟨9, true, .queued, []⟩ [(63, ⟨9, true, 0, 0⟩)] (100 * 7560000000)).wall)
    ∧ (pageS ⟨9, true, .queued, []⟩ [(63, ⟨9, true, 0, 0⟩)] (100 * 7560000000 - 1)).wall < 0 + 100 * 7560000000
    ∧ (((pageS ⟨9, true, .queued, []⟩ [(63, ⟨9, true, 0, 0⟩)] 0).fn 63).prq = [] ++ (63, ⟨9, true, 0, 0⟩) :: [] ∧ ((pageS ⟨9, true, .queued, []⟩ [(63, ⟨9, true, 0, 0⟩)] 0).fn 63).incarn = 0)
    ∧ (∀ ws ∈ [[], [⟨0, 0, 0⟩], [⟨4, 0, 0⟩]], ∀ b ∈ [false, true], ((pageS ⟨9, true, .ats b, ws⟩ [] 0).fn 63).pages = [] ++ ⟨9, true, .ats b, ws⟩ :: []) := by decide +kernel

def confS (c : Bool) : State := { fnS { tdi := .run } with jobs := [(5, { tJob with vf := 63, confidential := c })] }

def upS (p : Bool) (f : Fn) : State := { fnS f with pk := { power := 1, partOk := p } }

theorem witness_HostEvents_tdi :
    ((confS true).fn 63).tdi = .run ∧ (∃ c j, (c, j) ∈ (confS true).jobs ∧ j.vf = 63 ∧ j.confidential = true) ∧ (∀ c j, (c, j) ∈ (confS false).jobs → j.vf = 63 → j.confidential = false)
    ∧ ((fnS {}).fn 63).tdi = .unlocked ∧ ((fnS { tdi := .locked }).fn 63).tdi = .locked ∧ (fnS {}).pk.power = 0 ∧ ((upS true {}).pk.power ≠ 0 ∧ (upS true {}).pk.partOk = true) ∧ (upS false {}).pk.partOk = false
    ∧ ((upS true { ide := [1] }).fn 63).ide ≠ [] ∧ ((upS true {}).fn 63).ide = [] :=
  ⟨by decide +kernel, ⟨5, _, List.mem_cons_self .., rfl, rfl⟩, by intro c j h _; simp only [confS, List.mem_singleton, Prod.mk.injEq] at h; rw [h.2], by decide +kernel⟩

theorem witness_HostEvents_invalidations :
    ((upS true {}).fn 63).invQ.length < 32 ∧ 32 ≤ ((upS true { invQ := List.replicate 32 (0, 4096) }).fn 63).invQ.length ∧ ((upS true { invQ := [(0, 4096)] }).fn 63).invQ = (0, 4096) :: [] := by decide +kernel

/-- PF0's fault queue has room. -/
def queueS (f : Fn) : State := { fns := [(0, f)], pk := { power := 1, partOk := true } }

theorem witness_VfReset : (1 ≤ 63 ∧ 63 ≤ 63) ∧ Memory.wf (queueS { fqEnable := true, fqEntries := 16 }).mem = true ∧ (∀ c j, (c, j) ∈ (queueS { fqEnable := true, fqEntries := 16 }).jobs → j.vf ≠ 63)
    ∧ ((queueS {}).pk.power ≠ 0 ∧ (queueS {}).pk.partOk = true)
    ∧ (((queueS { fqEnable := true, fqEntries := 16 }).fn 0).banned = false ∧ ((queueS { fqEnable := true, fqEntries := 16 }).fn 0).fqEnable = true ∧ 0 - 0 < ((queueS { fqEnable := true, fqEntries := 16 }).fn 0).fqEntries) :=
  ⟨by decide, by decide +kernel, by intro c j h; simp [queueS] at h, by decide, by decide +kernel⟩

/-! ## Launches -/

/-- A message with tag 7 for context `c`. -/
def msg (c : Nat) : List Byte := toBytes 4 7 ++ toBytes 2 c ++ List.replicate 58 0
def armE : ArmEnt := { st := .armed, ctx := 5, tag := 7 }
def armedS (b : Bool) : State := { jobS [] with dies := if b then [(3, { arms := [(4095, armE)] })] else [] }

theorem witness_TaggedMessages :
    (leAt (msg 5) 4 2 < 1024 ∧ leAt (msg 5) 6 2 = 0 ∧ leAt (msg 5) 8 8 < 2 ^ 56 ∧ leAt (msg 5) 16 48 = 0 ∧ leAt (msg 5) 0 4 = 7) ∧ (∃ j, nfind (armedS true).jobs 5 = some j ∧ j.ending = false ∧ j.vf = 63)
    ∧ ¬ leAt (msg 1024) 4 2 < 1024 ∧ (∀ d < 4, ((armedS false).die d).arms = [])
    ∧ ((4095, armE) ∈ ((armedS true).die 3).arms ∧ armE.st = .armed ∧ armE.kind = 0 ∧ armE.ctx = 5 ∧ armE.tag = leAt (msg 5) 0 4 ∧ nfind ((armedS true).die 3).arms 4095 = some armE)
    ∧ (∀ d < 4, ((armedS true).die d).arms = if d = 3 then [(4095, armE)] else []) ∧ ((armedS true).die 3).arms.Pairwise (fun x y => x.1 ≠ y.1) :=
  ⟨by decide +kernel, ⟨_, rfl, rfl, rfl⟩, by decide +kernel, by decide +kernel, ⟨List.mem_singleton.2 rfl, by decide +kernel⟩, by decide +kernel, List.pairwise_singleton _ _⟩

/-- A launch 0 on die 0 of the entry that `tPlace` names. -/
def laS (l : Launch) (w : Nat) : State := { tS 0 0 with wall := w, dies := [(0, { launches := [(0, l)], nextLaunch := 1 })] }
def laE : Launch := { arm := 0, ctx := 5, cls := 2 }
def richJob : Job := { tJob with usageLimit := 1000, occLimit := 1000, gladeCap := 16 }

/-- A launch of one unit of the size of context 5's whole partition, in whose boughs glade 0 is occupied. -/
def bigS (w : Nat) : State := { tS 0 0 with
  wall := w
  jobs := [(5, richJob)]
  dies := [(0, { launches := [(0, { laE with headAt := some 0, units := [{ w := 2, h := 4 }] })], nextLaunch := 1, arms := [(0, { armE with images := [List.replicate 8 0 ++ [2, 4]] })] })] }
def bigL : Launch := { laE with headAt := some 0, units := [{ w := 2, h := 4 }] }

theorem witness_LaunchEvents_waits :
    ((laS laE 7560000000).launch 0 0 = some laE ∧ laE.stage = .eligible ∧ laE.boosted = false ∧ laE.eligAt + 7560000000 ≤ (laS laE 7560000000).wall) ∧ (laS laE 7559999999).wall < laE.eligAt + 7560000000
    ∧ ((bigS 7560000000).launch 0 0 = some bigL ∧ bigL.waits = true ∧ bigL.headAt = some 0 ∧ ((bigS 7560000000).die 0).launches = [(0, bigL)] ∧ bigL.reserving = false
        ∧ (bigS 7560000000).keptOut 0 0 bigL = true ∧ (bigS 7560000000).hopeless 0 0 bigL = false)
    ∧ (bigS 7559999999).wall < 0 + 7560000000 ∧ ({ bigS 7560000000 with glades := [] } : State).keptOut 0 0 bigL = false := by decide +kernel

def ts63 : Word := BitVec.ofNat 64 (2 ^ 63 + 1)
def slotsS (l : Launch) : State := { laS l 0 with dies := [(0, { cy := 9, launches := [(0, l)], nextLaunch := 1 })] }

theorem witness_LaunchEvents_start :
    (let l : Launch := { laE with stage := .placed }
     (laS l 0).launch 0 0 = some l ∧ (laS l 0).sides 0 0 = [(0, false)] ∧ (∀ x ∈ (laS l 0).sides 0 0, (laS l 0).canTakeGlade 0 l x = true) ∧ (((laS l 0).sides 0 0).map (·.1)).Nodup)
    ∧ (let l : Launch := { laE with stage := .running, phaseCy := 8, slots := [(63, ts63)] }
       (slotsS l).launch 0 0 = some l ∧ nget 0 l.slots 63 = ts63 ∧ ts63.getLsbD 63 = true ∧ ((slotsS l).die 0).cy - l.phaseCy = field ts63.toNat 0 40 ∧ 63 ∉ l.slotDone)
    ∧ (let l : Launch := { laE with stage := .running, phaseCy := 7, slots := [(63, ts63)] }
       (slotsS l).launch 0 0 = some l ∧ ((slotsS l).die 0).cy - l.phaseCy ≠ field ts63.toNat 0 40) := by decide +kernel

/-- Launch 0 runs on glade 0, whose woodward is as `w`; launch 1 of class 0 waits for all of the partition. -/
def waitL : Launch := { laE with cls := 0, units := [{ w := 2, h := 4 }] }
def runL : Launch := { laE with stage := .running, units := [{}] }
def runS (l : Launch) (ww : Woodward) (w : Nat) : State :=
  { laS l w with jobs := [(5, richJob)], glades := [(0, { cur := { place := some tPlace, ww := ww } })], dies := [(0, { launches := [(0, l), (1, waitL)], nextLaunch := 2, arms := [(0, { armE with images := [List.replicate 8 0 ++ [2, 4]] })] })] }

theorem witness_PhaseEvents :
    ((runS runL { halted := true } 0).launch 0 0 = some runL ∧ runL.units[0]? = some ({} : UnitPl) ∧ (runS runL { halted := true } 0).unitDone 0 0 0 = true ∧ (∀ y ∈ runL.units.set 0 { ({} : UnitPl) with done := true }, y.done = true))
    ∧ (let l := { runL with units := [{}, {}] }
       (runS l { halted := true } 0).launch 0 0 = some l ∧ ∃ y ∈ l.units.set 0 { ({} : UnitPl) with done := true }, y.done = false)
    ∧ ((runS runL { atMark := true } 0).sides 0 0 = [(0, false)] ∧ ((runS runL { atMark := true } 0).bough 0).atBoundary = true ∧ ((runS runL { atMark := true } 0).bough 0).ww.halted = false
        ∧ (runS runL { atMark := true } 0).agHeld 0 0 = false ∧ (runS runL { atMark := true } 0).healthy 0 = true ∧ ((runS runL { atMark := true } 0).job 5).overQuota = false ∧ (runS { runL with cls := 0 } { atMark := true } 0).swapDueAt 0 0 { runL with cls := 0 } = false
        ∧ ∀ c ∈ (runS runL { atMark := true } 0).clearingsOf 0 0, (runS runL { atMark := true } 0).wantsTest c = false)
    ∧ ((runS runL {} 0).bough 0).atBoundary = false
    ∧ (7560000000 * ((runS runL {} 75600000001).job 5).phaseLimit < runL.resident + (75600000001 - runL.residentAt) ∧ ((runS runL {} 75600000001).eng 0).zones = []
        ∧ waitL.eff < runL.eff ∧ (runS runL {} 75600000001).waitsFor 0 runL (1, waitL) = true ∧ (runS runL {} 75600000001).agHeld 0 0 = false)
    ∧ ¬ 7560000000 * ((runS runL {} 75600000000).job 5).phaseLimit < runL.resident + (75600000000 - runL.residentAt)
    ∧ (let l := { runL with stop := some (3, 0) }
       (runS l {} 0).launch 0 0 = some l ∧ l.stop = some (3, 0) ∧ ¬ (runS l {} (50 * 7560000)).wall < 0 + 50 * 7560000)
    ∧ (let s := (runS { runL with stop := some (3, 0) } {} 0).modEng 0 fun e => { e with zones := [(0, { slot := [(0, { st := .filling })] })] }
       s.unsettled 0 0 0 = true ∧ s.wall < 0 + 50 * 7560000)
    ∧ (let l := { runL with saveDue := true, stop := some (1, 0) }
       (runS l {} 0).launch 0 0 = some l ∧ l.saveDue = true ∧ ¬ (runS l {} (20 * 7560000)).wall < (l.stop.map (·.2)).getD 0 + 20 * 7560000) := by decide +kernel

/-- A die with one launch that waits and can be placed. -/
def waitS : State := { laS laE 0 with jobs := [(5, richJob)], glades := [], dies := [(0, { held := false, launches := [(0, { laE with units := [{}] })], nextLaunch := 1, arms := [(0, { armE with images := [img1] })] })] }
where img1 : List Byte := List.replicate 8 0 ++ [1, 1]
def waitU : State := ((failHopeless 0 (waitS.die 0).queue waitS).modDie 0 Die.refresh).noteHeads 0

/-- A die that is asked to end its only launch, which waits. -/
def cancelS : State := { waitS with dies := [(0, { launches := [(0, laE)], cancels := [(0, .faulted, true)], arms := [(0, armE)] })] }
/-- No unit, match, instance or job is to end. -/
def calm (s : State) (d : Nat) : Bool :=
  ((s.die d).launches.all fun x => x.2.unitCancel.isEmpty) && ((s.die d).arms.all fun x => decide (x.1 < 4096 ∧ x.2.cancelWaiting = 0))
    && ((s.die d).instances.all fun i => !i.cancelled) && s.jobs.all fun x => !x.2.ending

theorem witness_ForesterPasses :
    ({ held := true } : Die).held = true ∧ (waitS.die 0).held = false
    ∧ ((waitU.die 0).queue.any fun x => decide (x.2.eff = 2) && (waitU.placeable 0 x.1 x.2).isSome) = true ∧ (∀ k < 4, k ≠ 2 → ((waitU.die 0).queue.any fun x => decide (x.2.eff = k)) = false)
    ∧ ((waitU.die 0).active.find? fun x => decide (x.1 = 2)) = some (2, 5)
    ∧ ((waitS.die 0).ctxQueue 5 2 = [(0, { laE with units := [{}] })] ∧ ({ laE with units := [{}] } : Launch).cost ≤ nget 0 (waitS.die 0).deficit (4 * 5 + 2) + 64 * (waitS.job 5).weight
        ∧ (waitS.placeable 0 0 { laE with units := [{}] }).isSome = true)
    ∧ ((({ waitS with dies := [(0, { held := false })] } : State).die 0).queue = [] ∧ (({ waitS with dies := [(0, { held := false })] } : State).die 0).cancels = [])
    ∧ calm cancelS 0 = true ∧ ((cancelS.die 0).cancels = [(0, .faulted, true)] ∧ (cancelS.die 0).launches = [(0, laE)] ∧ (cancelS.die 0).instances = [] ∧ laE.stage = .eligible
        ∧ laE.root = none ∧ cancelS.sides 0 0 = [] ∧ nget [] (cancelS.die 0).saved 0 = [])
    ∧ (nfind waitS.jobs 5 = some richJob ∧ richJob.ending = false ∧ waitS.wall < richJob.periodAt + 7560000000 * richJob.period)
    ∧ richJob.periodAt + 7560000000 * richJob.period ≤ 7560000000 := by decide +kernel

end Sys2Proof.Tests
end

