-- ==== Sys2Proof/Tests/Witness6.lean ====
section
/-! SUPPORT. Witnesses for the statements about the thicket's cycle, queues, engines and motes. -/

namespace Sys2Proof.Tests

set_option Elab.async false

open Sys2Proof Sys2Proof.Machine

/-! ## The thicket -/

def gladeS (th : Thicket) (e : Engines) : State :=
  { tS 0 0 with glades := [(0, { cur := { place := some tPlace, ww := tWw (tB 0 0), eng := e, th := th } })], dies := [(0, { cy := 100 })] }
def thS (th : Thicket) : State := gladeS th {}
/-- A run whose row 0 issues its first count. -/
def issuing (stems : List (Nat × Stem)) : Thicket := { cnt := 20, stems := stems, run := some { tRun none with first := 20 } }
/-- Stem 15 whose row 0 reads the stream-in port, with its hold bit. -/
def holdStem : List (Nat × Stem) := [(15, { rt := [0x5000], tap := [0x8000] })]
def fl : Flight := { land := 20, val := val 5, rso := false }
def landT : Thicket := { cnt := 20, elems := [(255, { flight := [fl] })] }

theorem witness_ThicketEvents_cycle :
    ((thS landT).cyc = none ∧ ((thS landT).ww 0).started = true ∧ ((thS landT).th 0).stopped = false) ∧ ((thS { stopped := true }).th 0).stopped = true
    ∧ (∃ e ∈ landT.elems, ∃ f ∈ e.2.flight, f.land ≤ landT.cnt)
    ∧ (({} : Thicket).elems = [] ∧ ({} : Thicket).stems = [] ∧ (({} : Thicket).issuing = []))
    ∧ ((issuing holdStem).elems = [] ∧ (∀ x ∈ (issuing holdStem).stems, x.2.staged 20 = []) ∧ (issuing holdStem).issuing ≠ [] ∧ ((thS (issuing holdStem)).bough 0).row0 15 = (true, none)
        ∧ (issuing holdStem).issues 0 = true)
    ∧ ((issuing []).issuing ≠ [] ∧ ∀ st < 16, (((thS (issuing [])).bough 0).row0 st).1 = false)
    ∧ ((nget {} landT.elems 255).flight = [fl] ∧ fl.land ≤ 20 ∧ fl.rel = none ∧ fl.rso = false ∧ landT.stems = [] ∧ (nget {} landT.elems 255).landed = none) := by decide +kernel

def req (k : AgKind) (old : Option Word) : AgReq := { issued := 1, kind := k, gaddr := 0xFF000000000FFFF8, phys := 0xFFFF8, key := none, size := 8, operand := 7, edm := 0, last := false, old := old }
def agS (k : AgKind) (old : Option Word) : State := thS { elems := [(255, { agOut := [req k old] })] }

theorem witness_ThicketEvents_requests :
    ∀ k ∈ [AgKind.load, AgKind.store, AgKind.atom .add .die], ((agS k none).th 0).elem 15 15 = { agOut := [req k none] } ∧ (agS k none).heldSector 512 0xFFFF8 = false ∧ (agS k none).agOwned (req k none) = true
      ∧ (req k (some 3)).old = some 3 := by decide +kernel

/-! ## Queues -/

def runE (timed : Bool) (off : Nat) : QEntry := { kind := 3, timed := timed, offset := off, opnum := 1, tl := 3, desc := List.replicate 16 0 ++ [9] ++ List.replicate 47 0 }
def qS (x : QEntry) (run : Option Run) : State := gladeS { cnt := 20, run := run } { queues := [(3, [x])] }

theorem witness_QueueEvents_start :
    ((((placeModes 0 [runE true 20] (qS (runE true 20) none)).eng 0).queue 3).find? (fun x => decide (x.state = 0)) = some (runE true 20) ∧ ((placeModes 0 [runE true 20] (qS (runE true 20) none)).th 0).cnt = 20
        ∧ (placeModes 0 [runE true 20] (qS (runE true 20) none)).entryLack 0 (runE true 20) = none)
    ∧ ((((placeModes 0 [runE true 21] (qS (runE true 21) none)).eng 0).queue 3).find? (fun x => decide (x.state = 0)) = some (runE true 21) ∧ 20 < (runE true 21).offset)
    ∧ ((((placeModes 0 [runE true 19] (qS (runE true 19) none)).eng 0).queue 3).find? (fun x => decide (x.state = 0)) = some (runE true 19) ∧ (runE true 19).offset < 20)
    ∧ (placeModes 0 [runE true 20] (qS (runE true 20) (some (tRun none)))).entryLack 0 (runE true 20) = some 9
    ∧ (((qS (runE false 0) none).eng 0).queue 3).find? (fun x => decide (x.state = 0)) = some (runE false 0) ∧ (qS (runE false 0) none).entryLack 0 (runE false 0) = none
    ∧ ((runE false 0).pop = false ∧ (∀ m ∈ ((qS (runE false 0) none).th 0).moduli, (((qS (runE false 0) none).ww 0).modulus m).isSome = true) ∧ ((qS (runE false 0) none).th 0).needsKey = false) := by decide +kernel

/-- Stem 0, whose ring holds an operation of the residue class with modulus register `m`, or one that draws words. -/
def modStem (op imm : Nat) : List (Nat × Stem) := [(0, { op := [BitVec.ofNat 24 (op * 2 ^ 17 + imm)] })]
def latchS (op imm : Nat) (key : Bool) : State := { gladeS { stems := modStem op imm } {} with
  glades := [(0, { cur := { place := some tPlace, ww := { tWw (tB 0 0) with keyValid := key }, th := { stems := modStem op imm } } })] }

theorem witness_QueueEvents_latch :
    (((latchS 0x28 1 true).th 0).moduli = [] ++ 1 :: [] ∧ ((latchS 0x28 1 true).ww 0).modulus 1 = none)
    ∧ (((latchS 0x28 0 true).th 0).moduli = [0] ∧ ((latchS 0x28 0 true).ww 0).modulus 0 = some 7)
    ∧ (((latchS 0x53 0 false).th 0).needsKey = true ∧ ((latchS 0x53 0 false).ww 0).keyValid = false ∧ ((latchS 0x53 0 false).th 0).moduli = []) := by decide +kernel

/-- A finished entry that pushes a token to a FIFO with `n`, and two credits due. -/
def doneE (st : Nat) : QEntry := { kind := 2, push := true, peer := 3, state := 2, status := st, opnum := 1, tl := 1 }
def retS (st n : Nat) : State := gladeS { cnt := 20 } { queues := [(1, [doneE st])], fifos := [(9, n), (35, n)], credits := [⟨5, 20⟩, ⟨4, 21⟩] }

theorem witness_QueueEvents_retire :
    (((retS 0 15).eng 0).entry 1 1 = some (doneE 0) ∧ ¬((doneE 0).push = true ∧ (doneE 0).status = 0 ∧ 16 ≤ ((retS 0 15).eng 0).tokens (6 * 1 + 3))) ∧ (((retS 2 16).eng 0).entry 1 1 = some (doneE 2) ∧ (doneE 2).status ≠ 0)
    ∧ ((retS 0 15).eng 0).entry 5 1 = none
    ∧ ((retS 0 15).eng 0).credits.find? (fun c => decide (c.offset ≤ ((retS 0 15).th 0).cnt)) = some ⟨5, 20⟩ ∧ ((retS 0 15).eng 0).tokens (7 * 5) < 16 ∧ 16 ≤ ((retS 0 16).eng 0).tokens (7 * 5)
    ∧ ∀ c ∈ ((thS {}).eng 0).credits, ((thS {}).th 0).cnt < c.offset := by decide +kernel

/-! ## Engines -/

/-- A stand descriptor: one row of one block, one fire, A slot at 0 with rill 31, result to set 0. -/
def sdesc : List Byte := [1, 1, 64, 0] ++ List.replicate 20 0 ++ [17, 0, 1, 1, 1, 0, 1, 31] ++ List.replicate 32 0
def sop : StandOp := { opnum := 1, desc := sdesc }
def standS (x : Stand) : State := gladeS {} { stand := x, rills := [(31, { cfg := 1, arrived := 1 })] }
def fireX (busy : Nat) : Stand := { ops := [(0, sop)], plane0 := { st := 2 }, busyUntil := busy }
def aFire : Fire := { opnum := 1, off := 0, rill := 31, set := 0, start := 40, span := 61, rows := 1, fin := true, acc := [], nanRows := [95], m64 := none }

theorem witness_StandEvents_steps :
    (let u := (tornOps 0 (fireX 100).ops (standS (fireX 100))).markReady 0
     ¬ u.cyAt 0 < (u.stand 0).busyUntil ∧ ((u.stand 0).pick.map fun p => p.1) = some 0)
    ∧ (let u := (tornOps 0 (fireX 101).ops (standS (fireX 101))).markReady 0
       u.cyAt 0 < (u.stand 0).busyUntil)
    ∧ (let u := (tornOps 0 [] (standS {})).markReady 0
       (u.stand 0).pick = none)
    ∧ (((standS { fires := [aFire] }).stand 0).fires = [aFire] ∧ aFire.released = false ∧ aFire.start + aFire.span ≤ (standS { fires := [aFire] }).cyAt 0 + 1)
    ∧ ¬ ({ aFire with start := 41 } : Fire).start + aFire.span ≤ (standS {}).cyAt 0 + 1
    ∧ ({ aFire with span := 50 } : Fire).start + 50 + 10 ≤ (standS {}).cyAt 0 ∧ (standS {}).cyAt 0 < ({ aFire with span := 51 } : Fire).start + 51 + 10 := by decide +kernel

/-- Planes with a block of FP4, or of residues, and a fire to set 0 from each. -/
def fireM (mode : Nat) : StandOp := { opnum := 1, modulus := 7, modulusOk := true, desc := [1, 1, 64, 0, BitVec.ofNat 8 (mode + 16)] ++ List.replicate 21 0 ++ [1, 1, 1, 0, 1, 31] ++ List.replicate 32 0 }
def planeS (mode : Nat) : State := gladeS {} { stand := { ops := [(0, fireM mode)], plane0 := { st := 2, fmt := mode, cols := [[⟨0, List.replicate 32 (false, 1)⟩]] } }, rills := [(31, { cfg := 1, arrived := 1 })] }

theorem witness_StandEvents_fire :
    ∀ m ∈ [0, 1, 2, 3], ((planeS m).stand 0).target (fireM m).desc = some 0 ∧ sdMode (fireM m).desc = m ∧ (fireM m).modulusOk = true ∧ (((planeS m).stand 0).plane ((planeS m).stand 0).active).parity = none
      ∧ sdKb (fireM m).desc = 1 ∧ sdRows (fireM m).desc = 1 ∧ sdSwap (fireM m).desc = false ∧ (((planeS m).stand 0).plane ((planeS m).stand 0).active).cols[0]? = some [⟨0, List.replicate 32 (false, 1)⟩] := by decide +kernel

/-- A FULL set of one row whose drain toward a burrow, or a stream-in port, stands at a beat. -/
def drainX (beat w : Nat) : Stand := { set0 := { tag := .full, rows := 1, fullAt := 99, drain := some { steer := 1, entry := 7, words := [w], beat := beat } } }
def fullPort : State := gladeS { stems := [(0, { strm := { put := 64 } })] } { stand := drainX 5 0 }

theorem witness_StandEvents_drain :
    (((standS (drainX 5 (3 * 2 ^ 60))).stand 0).set 0).tag = .full ∧ (((standS (drainX 5 (3 * 2 ^ 60))).stand 0).set 0).fullAt < (standS (drainX 5 (3 * 2 ^ 60))).cyAt 0
    ∧ (standS (drainX 5 (3 * 2 ^ 60))).beatRoom 0 (3 * 2 ^ 60) 5 = true ∧ 5 + 1 = (((standS (drainX 5 (3 * 2 ^ 60))).stand 0).set 0).rows * 6
    ∧ 0 + 1 ≠ (((standS (drainX 0 (3 * 2 ^ 60))).stand 0).set 0).rows * 6 ∧ fullPort.beatRoom 0 0 5 = false
    ∧ (((standS {}).stand 0).set 1).tag ≠ .full ∧ ((standS { set1 := { tag := .full } }).stand 0).steering = [] ∧ (((standS { set1 := { tag := .full } }).stand 0).set 1).drain = none := by decide +kernel

/-- A started raft entry of one tile of 16 bytes from burrow offset 0 to offset 4096 in a mode, with a notice, or with tiles since their cy. -/
def raftE (mode : Nat) (tiles : List (Nat × Nat)) : QEntry :=
  { kind := 2, state := 1, opnum := 1, tl := 2, tiles := tiles, notices := [0]
    desc := [0, 0, 0, 0, BitVec.ofNat 8 mode] ++ List.replicate 11 0 ++ toBytes 8 (2 ^ 64 - 2 ^ 56) ++ toBytes 8 (2 ^ 64 - 2 ^ 56 + 4096) ++ toBytes 4 16 ++ toBytes 4 1 ++ [1, 0xFF] ++ List.replicate 14 0
      ++ toBytes 8 5 }
def raftS (tiles : List (Nat × Nat)) : State := gladeS {} { queues := [(2, [raftE 0 tiles])] }

theorem witness_RaftEvents_serve :
    ((∀ e ∈ ((raftS []).eng 0).queue (1 + 1), e.tiles = []) ∧ (raftS []).nextServe 0 1 = some (raftE 0 [])) ∧ (thS {}).nextServe 0 0 = none
    ∧ ((raftE 0 [(99, 0)]) ∈ ((raftS [(99, 0)]).eng 0).queue (1 + 1) ∧ (raftS [(99, 0)]).cyAt 0 = 100 ∧ 100 < 100 + ((raftE 0 [(100, 0)]).tileBytes + 127) / 128)
    ∧ (((raftS [(98, 0)]).eng 0).queue (1 + 1) = [] ++ raftE 0 [(98, 0)] :: [] ∧ (raftS [(98, 0)]).tileDue 0 (raftE 0 [(98, 0)]) = true)
    ∧ (raftS [(99, 0)]).tileDue 0 (raftE 0 [(99, 0)]) = false := by decide +kernel

/-- A session's key and its entry; 16 bytes that it seals; a state whose burrow holds `bs` at 0. -/
def sesK : List Byte := List.replicate 32 3
def sealedB : List Byte := let y := gcmSeal sesK (tileIv 1 5) [] (List.replicate 16 9); y.1 ++ y.2
def tileS (bs : List Byte) (hi : Nat) : State := { (raftS []).put 0 bs with jobs := [(5, { tJob with sessions := [(0, { opened := true, key := sesK, hiOpen := hi })] })] }
/-- The tile in flight of the mode, what it reads, and where it lands. -/
def readsT (mode : Nat) (s : State) : Bool × Bool :=
  let r := s.engAccess 0 .rd ((rdSource (raftE mode []).desc 0).flatMap fun p => pieces p.2 p.1 p.2)
  let n := rdSlotSize (raftE mode []).desc
  (decide (r.2 = .ok (pieces 32 0 (if mode = 1 then 32 else 16))), decide ((r.1.engAccess 0 (if mode = 2 then .seal else .wr) (pieces n (2 ^ 64 - 2 ^ 56 + 4096) n)).2 = .ok [(4096, n)]))

/-- A link entry whose tile of 16 bytes is at burrow offset 0, or at no address. -/
def linkE (a : Nat) : QEntry := { kind := 5, state := 1, opnum := 1, tl := 5, tiles := [(98, 0)], link := 15, desc := List.replicate 16 0 ++ toBytes 8 a ++ toBytes 4 16 ++ toBytes 4 1 ++ List.replicate 32 0 }

theorem witness_RaftEvents_link :
    ((raftS []).engAccess 0 .rd (pieces 16 ((leAt (linkE (2 ^ 64 - 2 ^ 56)).desc 16 8) % 2 ^ 64) 16)).2 = .ok [(0, 16)] ∧ ldTile (linkE 0).desc = 16
    ∧ ((raftS []).engAccess 0 .rd (pieces 16 ((leAt (linkE 4096).desc 16 8) % 2 ^ 64) 16)).2 = .fault 0x101 4096 := by decide +kernel

theorem witness_RaftEvents_tile :
    burrowAt 0 false = 0 ∧ Memory.wf (tileS sealedB 4).mem = true ∧ readsT 0 (tileS sealedB 4) = (true, true) ∧ readsT 1 (tileS sealedB 4) = (true, true) ∧ readsT 2 (tileS sealedB 4) = (true, true)
    ∧ ((tileS sealedB 4).job ((tileS sealedB 4).ctxOf 0)).session (leAt (raftE 1 []).desc 48 4) = some { opened := true, key := sesK, hiOpen := 4 }
    ∧ gcmOpen sesK (tileIv 1 (rdNbase (raftE 1 []).desc + 0)) [] (sealedB.take 16) (sealedB.drop 16) = some (List.replicate 16 9) ∧ (4 < rdNbase (raftE 1 []).desc + 0 ∧ rdNbase (raftE 1 []).desc + 0 ≤ 5)
    ∧ gcmOpen sesK (tileIv 1 6) [] (sealedB.take 16) (sealedB.drop 16) = none
    ∧ ((raftS []).engAccess 0 .wr [(0x1000, 16)]).2 = .fault 0x101 0x1000 := by decide +kernel

/-- A weight load of two columns of one FP4 block each, at device addresses 0x10000 and 0x11000, the first of whose regions is mapped, owned by a weight key and installed. -/
def wlE (regs : List (Nat × List Byte)) : QEntry :=
  { kind := 4, state := 1, opnum := 1, tl := 4, regs := regs, desc := List.replicate 16 0 ++ toBytes 8 0x10000 ++ toBytes 8 4096 ++ [0, 1, 2, 0] ++ List.replicate 28 0 }
def wlS (mapped : Bool) (regs : List (Nat × List Byte)) : State := { gladeS {} { queues := [(4, [wlE regs])] } with
  glades := [(0, { cur := { place := some tPlace, ww := tWw (tB 0 0), eng := { queues := [(4, [wlE regs])] } }
                   tlb := if mapped then [{ owner := 5, host := false, base := 0x10000, size := 4096, leaf := BitVec.ofNat 64 (2 ^ 63 + 6 * 2 ^ 52 + 9) }] else [] })]
  pk := { power := 1, health := 2 ^ 512 - 1, owners := [(0, 6)] }
  jobs := [(5, { tJob with keys := [(0, ⟨.weights, 6⟩)], installed := [(0, 6)] })] }

/-- The regions read after the next step of that load, or its fault. -/
def wlStep (mapped : Bool) (regs : List (Nat × List Byte)) : Except (Nat × Nat) (List Nat) := (((wlS mapped regs).wdStep 0 (wlE regs).desc 0 regs).2).map fun l => l.map (·.1)

theorem witness_LoadEvents_steps :
    (((wlS true []).eng 0).queue 4).find? (fun e => decide (e.state = 1)) = some (wlE []) ∧ ((wlS true []).stand 0).reload = [] ∧ wdRegions (wlE []).desc = [0x10, 0x11]
    ∧ (wlStep true []).toOption = some [0x10] ∧ (wlStep true [(0x10, []), (0x11, [])]).toOption = some [0x10, 0x11] ∧ (wlStep false []).toOption = none
    ∧ ∀ e ∈ ((thS {}).eng 0).queue 4, e.state ≠ 1 := by decide +kernel

/-- A repeated load of residues under modulus register `m`, of which only 0 is valid. -/
def reloadS (m : Nat) : State := gladeS {} { stand := { reload := [(1, List.replicate 32 0 ++ [3, 1, 1, 0, BitVec.ofNat 8 m] ++ List.replicate 27 0, (0, 0))] } }

theorem witness_LoadEvents_reload :
    (let d := List.replicate 32 (0 : Byte) ++ [3, 1, 1, 0, 1] ++ List.replicate 27 0
     ((reloadS 1).stand 0).reload = (1, d, 0, 0) :: [] ∧ wdFmt d = 3 ∧ ((reloadS 1).ww ((((reloadS 1).place 0).map fun p => p.gladeAt 0 0 0).getD 0)).modulus (leAt d 36 1) = none)
    ∧ wdCols (wlE []).desc = 2 ∧ wdKb (wlE []).desc = 1 ∧ (∃ b, alignB 0 0 (List.replicate (kBytes 0) 0) = .ok b) :=
  ⟨by decide +kernel, rfl, rfl, ⟨_, rfl⟩⟩

/-! ## Motes -/

/-- A mote for stem 0's stream-in port. -/
def moteM : Sent := { mote := { route := 7 }, words := [2 ^ 63] }
/-- A mote waits on the last rill's stream, for a chain of one entry to stem 0's stream-in port of the own glade. -/
def moteS (put tries : Nat) : State := gladeS { stems := [(0, { strm := { put := put } })] }
  { rills := [(31, { ostream := { out := [moteM], tries := tries } })], routes := [(7, BitVec.ofNat 64 (2 ^ 63))] }

/-- Such a mote whose residue field is wrong. -/
def moteBad : Mote := { route := 7, residue := 3 }

theorem witness_MoteEvents_streams :
    (∀ c < 48, (((thS {}).eng 0).ostream c).out = [] ∧ (c ≠ 47 → (((moteS 0 0).eng 0).ostream c).out = [])) ∧ (((moteS 0 0).eng 0).ostream 47).out = [moteM]
    ∧ moteM.words.map ((moteS 0 0).routeOf 0) = [2 ^ 63] ∧ (moteS 63 0).canTake 0 (2 ^ 63) 47 = true
    ∧ (moteM.mote.residue.toNat = moteM.mote.data.toNat % 15 ∧ moteM.mote.edm.toNat ≤ 8) ∧ (moteBad.valid = true ∧ moteBad.err = false ∧ moteBad.residue.toNat ≠ moteBad.data.toNat % 15)
    ∧ (moteS 64 0).canTake 0 (2 ^ 63) 47 = false ∧ (((moteS 0 3).eng 0).ostream 47).tries < 4 ∧ (((moteS 0 4).eng 0).ostream 47).tries = 4 ∧ 4 < (((moteS 0 5).eng 0).ostream 47).tries := by decide +kernel

/-- A drain whose beat was damaged `n` times, a raft's tile that was, and a link to package 2. -/
def hurtS (n : Nat) : State := gladeS {} { stand := { set0 := { drain := some { steer := 1, entry := 7, words := [], beat := 0, tries := n } } }, queues := [(2, [{ raftE 0 [(98, 0)] with tries := n }])] }
def pkg2S : State := { thS {} with links := [(15, { st := .up, peer := 2 })] }

theorem witness_MoteEvents_damage :
    (∀ n ∈ [3, 4], ∃ dr, ((((hurtS n).stand 0).set 0).drain = some dr ∧ dr.tries = n)) ∧ (∀ n ∈ [3, 4], (((hurtS n).eng 0).queue (1 + 1)).find? (fun e => decide (e.tiles ≠ [] ∧ e.kind = 2)) = some { raftE 0 [(98, 0)] with tries := n })
    ∧ (field (2 ^ 63 + 5 * 2 ^ 60 + 2 * 2 ^ 43) 60 3 = 5 ∧ field (2 ^ 63 + 5 * 2 ^ 60 + 2 * 2 ^ 43) 43 8 = 2 ∧ pkg2S.self ≠ 2 ∧ pkg2S.linkTo 2 = some 15)
    ∧ ({ moteBad with err := true } : Mote).err = true :=
  ⟨by intro n hn; simp only [List.mem_cons, List.not_mem_nil, or_false] at hn; rcases hn with rfl | rfl <;> exact ⟨_, rfl, rfl⟩, by decide +kernel, by decide +kernel, rfl⟩

theorem witness_MoteEvents_sinks :
    field (2 ^ 63) 60 3 = 0 ∧ (∀ k, (((thS {}).bough 0).port 0 5).put ≤ k → nfind (((thS {}).bough 0).port 0 5).vals k = none)
    ∧ (field (2 ^ 63 + 3 * 2 ^ 60) 60 3 = 3 ∧ field (2 ^ 63 + 3 * 2 ^ 60) 0 20 + 8 * 131071 + 8 ≤ 2 ^ 20 ∧ ((thS {}).eng 0).zoneHit (8 * 131071) 8 = false)
    ∧ 2 ^ 20 < field (2 ^ 63 + 3 * 2 ^ 60) 0 20 + 8 * 131072 + 8 ∧ field (2 ^ 63 + 4 * 2 ^ 60) 60 3 = 4 :=
  ⟨by decide, by intro k _; rfl, by and_intros <;> decide +kernel⟩

end Sys2Proof.Tests
end

