-- ==== Sys2Proof/Tests/Witness7.lean ====
section
/-! SUPPORT. Witnesses for the statements about blocks from fetch to commit, banks and grafts, links, jobs and parties, steps, and the rules over all instructions. -/

namespace Sys2Proof.Tests

set_option Elab.async false

open Sys2Proof Sys2Proof.Machine

/-! ## Fetch -/

/-- A woodward of context 5's unit without a block, with memory as `image` puts it at burrow offset 64. -/
def fS (w : Woodward) (image : List Byte) : State := (tState (tB 0 0)).modWw 0 (fun _ => w) |>.put 64 image
def fW : Woodward := { started := true, fetch := 64 }
/-- The image of a block of one LAND 5 with a header word 1. -/
def landImage (h1 : Nat) : List Byte := toBytes 8 0 ++ toBytes 8 h1 ++ toBytes 8 (2 ^ 55 * 0x04C + 5)
def mayFetch (s : State) : Bool :=
  let w := s.ww 0
  !w.deliver && w.started && !w.halted && !w.atMark && w.block.isNone && !s.heldRange 0 (burrowAt 0 0 + w.fetch) (16 + 8 * (s.num (burrowAt 0 0 + w.fetch + 8) 8 % 128 + 1))
/-- The checks on a fetched block's place, and that it decodes. -/
def inReach (s : State) (h1 : Nat) : Bool :=
  let w := s.ww 0
  let n := s.num (64 + 8) 8 % 128 + 1
  mayFetch s && decide (w.fetch % 64 = 0) && decide (w.fetch + 16 + 8 * n ≤ 2 ^ 20) && !s.bad 64 (16 + 8 * n) && decide (s.num (64 + 8) 8 = h1)
    && decide (blockBad (BitVec.ofNat 64 (s.num 64 8)) (BitVec.ofNat 64 (s.num (64 + 8) 8)) (s.blockWords 0 w.fetch n) = none)

theorem witness_BlockEvents_fetch :
    (((fS { fW with deliver := true } []).ww 0).deliver = true ∧ ((fS { fW with deliver := true } []).ww 0).pending = [])
    ∧ ((fS { fW with deliver := true, pending := [⟨0x81, 3, true, 0⟩] } []).ww 0).pending = [⟨0x81, 3, true, 0⟩]
    ∧ (((fS { fW with halted := true } []).ww 0).deliver = false ∧ mayFetch (fS { fW with halted := true } []) = false)
    ∧ (mayFetch (fS { fW with fetch := 2 ^ 20 - 15 } []) = true ∧ 2 ^ 20 < ((fS { fW with fetch := 2 ^ 20 - 15 } []).ww 0).fetch + 16)
    ∧ (mayFetch (fS { fW with fetch := 2 ^ 20 - 48 } []) = true ∧ ((fS { fW with fetch := 2 ^ 20 - 48 } []).ww 0).fetch + 16 ≤ 2 ^ 20 ∧ ((fS { fW with fetch := 2 ^ 20 - 48 } []).ww 0).fetch % 64 ≠ 0)
    ∧ (mayFetch (fS fW []) = true ∧ (fS fW []).bad 64 24 = false ∧ blockBad 0 0 ((fS fW []).blockWords 0 64 1) = some (0x003, 0)) := by decide +kernel

theorem witness_BlockEvents_labels :
    (inReach (fS { fW with label := some 4 } (landImage 0)) 0 = true ∧ ((fS { fW with label := some 4 } (landImage 0)).ww 0).label = some 4
      ∧ (((((fS { fW with label := some 4 } (landImage 0)).blockWords 0 64 1)[0]?).getD 0).toNat % 2 ^ 12 = 5))
    ∧ (inReach (fS { fW with label := some 5 } (landImage 0)) 0 = true ∧ (((((fS { fW with label := some 5 } (landImage 0)).blockWords 0 64 1)[0]?).getD 0).toNat / 2 ^ 55 = 0x04C)) := by decide +kernel

theorem witness_BlockEvents_stamps :
    (inReach (fS fW (landImage 0)) 0 = true ∧ ((fS fW (landImage 0)).ww 0).label = none ∧ ((fS fW (landImage 0)).ww 0).lastTs = none)
    ∧ (inReach (fS { fW with lastTs := some (2 ^ 64 - 2) } (landImage 0)) 0 = true ∧ (2 ^ 64 - 2) + 1 < 2 ^ 64) ∧ (inReach (fS { fW with lastTs := some (2 ^ 64 - 1) } (landImage 0)) 0 = true ∧ 2 ^ 64 ≤ (2 ^ 64 - 1) + 1)
    ∧ (inReach (fS { fW with g := [(3, 7)], lastTs := some 7 } (landImage (3 * 2 ^ 33 + 2 ^ 31))) (3 * 2 ^ 33 + 2 ^ 31) = true ∧ field (3 * 2 ^ 33 + 2 ^ 31) 31 2 = 1)
    ∧ (inReach (fS { fW with g := [(3, 7)], lastTs := some 8 } (landImage (3 * 2 ^ 33 + 2 ^ 31))) (3 * 2 ^ 33 + 2 ^ 31) = true ∧ 7 < 8)
    ∧ (inReach (fS fW (landImage (2 * 2 ^ 31))) (2 * 2 ^ 31) = true ∧ 2 ≤ field (2 * 2 ^ 31) 31 2) := by decide +kernel

/-! ## Commit -/

/-- A block of one LAND that has executed, with what else it holds. -/
def dB : Block := { addr := 64, words := [assembleWord 0x04C ⟨0, false, none, none⟩ 5], done := [0] }
def dS (b : Block) : State := tState b
def st1 : BStore := { idx := 0, gaddr := 0xFF00000000000100, phys := 0x100, bytes := [1, 2] }
def st2 : BStore := { idx := 1, gaddr := 0xFF00000000000101, phys := 0x101, bytes := [3, 4] }
def ord (l : Word) : Pend := .order { kind := 3, timed := false, pop := false, push := false, peer := 3, l := l }

theorem witness_BlockEvents_commit :
    (dS dB).block 1 = none ∧ ((dS { dB with done := [] }).block 0 = some { dB with done := [] } ∧ Block.quiescent { dB with done := [] } = false) ∧ ((dS dB).block 0 = some dB ∧ dB.quiescent = true)
    ∧ (Block.quiescent { dB with h0 := 2 ^ 63 } = true ∧ (2 ^ 63 : BitVec 64).getLsbD 63 = true ∧ nfind ({ dB with h0 := 2 ^ 63 } : Block).gw 63 = none ∧ ∀ j < 63, (2 ^ 63 : BitVec 64).getLsbD j = false)
    ∧ (∀ k < 64, dB.h0.getLsbD k = false) ∧ ({ dB with effects := 1 } : Block).effects ≠ Block.socount { dB with effects := 1 } ∧ dB.effects = dB.socount
    ∧ (dS dB).frontier 0 = true ∧ (dS dB).lack 0 = none ∧ (dS dB).orderEntries 0 dB.actions = .ok [] := by decide +kernel

theorem witness_BlockEvents_commit_orders :
    (let b : Block := { dB with pend := [(0, ord 3)] }; b.quiescent = true ∧ (dS b).lack 0 = none ∧ (dS b).frontier 0 = true ∧ (dS b).orderEntries 0 b.actions = .error (0x0C0, 3))
    ∧ (let b : Block := { dB with pend := [(0, .credit 3 none)] }; ((dS b).modEng 0 fun e => { e with fifos := [(21, 16)] }).lack 0 = some (3, 0)) := by decide +kernel

theorem witness_BlockEvents_commit_outputs :
    (let b : Block := { dB with gw := [(3, some 1), (5, none)], qw := [(2, true)], stores := [st1, st2] }
     (dS b).frontier 0 = true ∧ b.pend = [] ∧ Memory.wf (dS b).mem = true ∧ (b.gw.map (·.1)).Nodup ∧ (b.qw.map (·.1)).Nodup ∧ b.branch ≠ some .tret ∧ b.quiescent = true)
    ∧ (st1.phys ≤ 0x101 ∧ 0x101 < st1.phys + st1.bytes.length ∧ st2.phys ≤ 0x101 ∧ 0x101 < st2.phys + st2.bytes.length ∧ st1.idx < st2.idx)
    ∧ (let s := (dS { dB with branch := some (.trap 0x200 9) }).modWw 0 fun w => { w with trapHandler := 64 }
       (s.ww 0).inh = false ∧ field (s.ww 0).trapHandler.toNat 6 14 ≠ 0 ∧ sysOwned 0x200 = false ∧ s.frontier 0 = true)
    ∧ ((dS { dB with branch := some .tret }).frontier 0 = true ∧ Block.quiescent { dB with branch := some .tret } = true)
    ∧ (some (Branch.goto 64 (some 4095)) ≠ some .tret ∧ some (Branch.call 0xFFFC0) ≠ some .tret ∧ some Branch.halt ≠ some .tret) :=
  ⟨by decide +kernel, by and_intros <;> decide +kernel⟩

/-- A zone whose slot 0 is held by glade 7, rill 2 of package 9, in a state. -/
def zk : SlotKey := ⟨9, 7, 2⟩
def zoneE (st : SlotState) : Engines := { zones := [(0, { valid := true, slots := 4, ssize := 8, slot := [(0, { st := st, key := zk })] })] }

/-- A state whose block has noted one change and can commit; that the noted change is its only one. -/
def pendS (p : Pend) : State := { dS { dB with pend := [(0, p)] } with
  dies := [(0, { launches := [(0, { arm := 0, ctx := 5, stage := .running })], arms := [(9, armE)], seeds := [(0, { isOpen := true })] })] }
def commits (p : Pend) : Bool :=
  let b : Block := { dB with pend := [(0, p)] }
  b.quiescent && b.stores.isEmpty && b.gw.isEmpty && b.qw.isEmpty && decide (b.branch = none ∧ b.h0 = 0 ∧ b.effects = b.socount) && (pendS p).frontier 0 && !(pendS p).cancelDue 0 && !(pendS p).walkerWaits 0 b

theorem witness_CommitEffects :
    (∀ p ∈ [Pend.swr 0x16 5, .clearAborts, .floor 3, .phaseMark, .sampleKey 4, .gload [(3, 7)], .evsend 1 0, .evwait 1, .fence true false .die, .readRel [], .arm 0 9 armE, .disarm 0 9, .rte 3 0, .rillSet 31 0, .rillReset 31,
        .tag 0 0 7, .tslot 63 0, .ccAdd 3 1, .cancel (BitVec.ofNat 64 (2 ^ 61 + 9)) false, .seed 0x115 [0, 1], .graft 0x118 [0], .slotHeld ⟨9, 8, 3, 2⟩ 1 0, .credit 3 none, .slotDone 0 0, .slotRelease ⟨9, 8, 3, 2⟩,
        .testReq], commits p = true)
    ∧ ((pendS .phaseMark).eventGlades 0 0).Nodup ∧ nfind ((pendS .phaseMark).die 0).arms 9 = some armE ∧ (pendS .phaseMark).place 0 = some tPlace ∧ ((pendS .phaseMark).launch 0 0).isSome = true
    ∧ (∀ k ∈ [0, 1, 2, 3], field (BitVec.ofNat 64 (k * 2 ^ 61)).toNat 61 3 = k) ∧ (pendS (.credit 3 none)).lack 0 = none
    ∧ ((((pendS .phaseMark).modEng 0 fun _ => zoneE .reserved).eng 0).zone 0).isSome = true := by and_intros <;> decide +kernel

/-- A block of one EVWAIT that has not executed. -/
def wB (n : Nat) : Block := { addr := 64, words := [assembleWord 0x184 ⟨0, false, none, none⟩ 0], waits := [(0, n), (256, n)], asked := [(0, 5)] }

theorem witness_BlockEvents_waits :
    ((dS (wB 0x1000000)).block 0 = some (wB 0x1000000) ∧ isWait (wordOpcode ((wB 0x1000000).word 0)) = true ∧ 0 ∉ (wB 0x1000000).done ∧ ((dS (wB 0x1000000)).ww 0).waitlim ≤ nget 0 (wB 0x1000000).waits 0)
    ∧ nget 0 (wB 0xFFFFFF).waits 0 < ((dS (wB 0xFFFFFF)).ww 0).waitlim
    ∧ (let b : Block := { dB with pend := [(0, .credit 3 none)], waits := [(256, 0x1000000)] }; ((dS b).modEng 0 fun e => { e with fifos := [(21, 16)] }).lack 0 = some (3, 0) ∧ nget 0 b.waits 256 = 0x1000000)
    ∧ ((dS dB).glade 0).walks = [] ∧ (dS dB).lack 0 = none
    ∧ (((dS dB).modGlade 0 fun x => { x with walks := [] }).fillWalk 0 5 2).2.isSome = true ∧ (∃ x ∈ (wB 0).asked, x.1 = 0 ∧ x.2 + 756000000 ≤ 756000005) := by and_intros <;> decide +kernel

/-! ## Banks and grafts -/

def bankS (b : Seed) (mapped : Bool) : State :=
  { (if mapped then walkS (tS 0 0) else tS 0 0) with dies := [(0, { seeds := [(0, { b with isOpen := true, ctx := 5, lgcap := 10, st := .replay }) ], replays := [0] })] }

/-- A state in which another glade's block holds an entry. -/
def holds (e : Sect) (s : State) : State := s.modGlade 7 fun x => { x with cur := { x.cur with ww := tWw { dB with pend := [(0, .hold e)] } } }

theorem witness_BankAndGraftEvents_replay :
    (let s := bankS { window := [4, 5] } true
     let b := s.seed 0 0
     b.isOpen = true ∧ b.st = .replay ∧ 0 ∈ (s.die 0).replays.take 8 ∧ s.backingHeld 512 b = false ∧ b.clean = [] ∧ s.held 512 (seedSect 0 0) = false ∧ (holds (seedSect 0 0) s).held 512 (seedSect 0 0) = true ∧ s.backingLive b = true ∧ b.built < b.window.length)
    ∧ (let s := bankS { window := [4, 5], built := 2 } true; s.backingLive (s.seed 0 0) = true ∧ (s.seed 0 0).window.length ≤ (s.seed 0 0).built)
    ∧ (let s := bankS { window := [4, 5] } false; (s.seed 0 0).st = .replay ∧ s.backingLive (s.seed 0 0) = false)
    ∧ (tS 0 0).seed 0 0 = {} := by and_intros <;> decide +kernel

/-- An image of 192 bytes: one lane, vectors of one element, of graft `id` version 2. -/
def grImg (id mask : Nat) : List Byte := toBytes 6 id ++ toBytes 2 2 ++ toBytes 8 mask ++ toBytes 4 1 ++ List.replicate 172 0
def grX : Graft := { st := .fetching, ctx := 5, glade := 0, src := 0x10000, length := 192, id := 1, ver := 2, placed := true, hash := sha256 (grImg 1 1) }
/-- Graft 0 as given, its image at device address 0x10000 of context 5 in a page of installed bytes; the pool is mapped where `mapped` says. -/
def grS (x : Graft) (mapped : Bool) (img : List Byte := grImg 1 1) : State :=
  let s := ((walkS (tS 0 0)).put (hbmAt + 0x1010000) img).modJob 5 fun j => { j with installed := [(0x1010, 5)] }
  (if mapped then s.put (hbmAt + 8 * 576) (toBytes 8 0x4001) else s).modGraft 0 fun _ => x
def grSrc (s : State) : State × SrcRes := let x := s.graft 0; s.graftSource 0 x.glade x.ctx (x.length / 4096 + 3) x.src x.length
def grPut (s : State) (img : List Byte := grImg 1 1) : State × Bool := let x := s.graft 0; State.putPool 0 x.ctx (chunks 4096 (x.pages + 1) img) x.addr (grSrc s).1

theorem witness_BankAndGraftEvents_graft :
    ((grS {} true).graft 0).st ≠ .fetching ∧ ((grS grX true).graft 0).st = .fetching ∧ (grS grX true).graftHeld 512 0 = false ∧ (holds (graftSect 0) (grS grX true)).graftHeld 512 0 = true
    ∧ ((grS { grX with placed := false } true).graft 0).placed = false ∧ ((grS grX true).graft 0).placed = true
    ∧ (grS grX true).runFree 0 = true ∧ ((grS grX true).modGraft 1 fun _ => { grX with st := .ready }).runFree 0 = false
    ∧ 0 + 756000000000 ≤ ({ grS grX true with wall := 756000000000 } : State).wall ∧ (grS grX true).wall < 0 + 756000000000 := by and_intros <;> decide +kernel

theorem witness_BankAndGraftEvents_source :
    ((grSrc (grS grX true)).2 = .bytes (grImg 1 1) ∧ (grPut (grS grX true)).2 = true ∧ (grPut (grS grX true)).1.graft 0 = grX)
    ∧ ((grSrc (grS grX false)).2 = .bytes (grImg 1 1) ∧ (grPut (grS grX false)).2 = false ∧ (grPut (grS grX false)).1.graft 0 = grX)
    ∧ ((grSrc (grS { grX with src := 2 ^ 50 } false)).2 = .fail 3 ∧ (grSrc (grS { grX with src := 2 ^ 50 } false)).1.graft 0 = { grX with src := 2 ^ 50 })
    ∧ (grSrc { grS grX true with poison := [hbmAt + 0x1010000] }).2 = .fail 5 ∧ (grSrc (grS { grX with src := 2 ^ 55 } false)).2 = .wait := by and_intros <;> decide +kernel

theorem witness_BankAndGraftEvents_image :
    (sha256 (grImg 1 1) = grX.hash ∧ leAt (grImg 1 1) 0 6 = 1 ∧ leAt (grImg 1 1) 6 2 = 2)
    ∧ (leAt (grImg 1 1) 8 8 ≠ 0 ∧ 1 ≤ leAt (grImg 1 1) 16 4 ∧ leAt (grImg 1 1) 16 4 ≤ 32768 ∧ graftLength (leAt (grImg 1 1) 8 8) (leAt (grImg 1 1) 16 4) = grX.length ∧ leAt (grImg 1 1) 20 44 = 0)
    ∧ (grPut (grS { grX with hash := [] } true)).2 = true ∧ sha256 (grImg 1 1) ≠ []
    ∧ (grPut (grS { grX with id := 2 } true)).2 = true ∧ leAt (grImg 1 1) 0 6 ≠ 2
    ∧ ((grSrc (grS { grX with hash := sha256 (grImg 1 3) } true (grImg 1 3))).2 = .bytes (grImg 1 3) ∧ graftLength (leAt (grImg 1 3) 8 8) (leAt (grImg 1 3) 16 4) ≠ grX.length) := by and_intros <;> decide +kernel

/-! ## Links -/

def linkS (x : Link) : State := { tS 0 0 with links := [(3, x)] }
def upX : Link := { st := .up, width := 4, peer := 9, rxSeq := 5, replay := [{ seq := 1, kind := 1, payload := List.replicate 228 0 }] }
def dataP : List Byte := [7, 0, 2, 0, 0, 0, 8, 0] ++ List.replicate 220 0

/-- Package 9 has context 5's unit on glade 0, running, with a landing zone that glade 7 of package 9 holds; a block that waits for answers about zone 3 of that package's glade 8. -/
def zS (run : Bool) (e : Engines) : State :=
  { (linkS upX).modEng 0 (fun _ => e) with dies := [(0, { launches := if run then [(0, { arm := 0, ctx := 5, stage := .running })] else [] })] }
def askB (op : Nat) : Block := { addr := 64, words := [assembleWord (BitVec.ofNat 9 op) ⟨0, false, none, none⟩ 0], opL := [(0, BitVec.ofNat 64 (9 + 8 * 2 ^ 8 + 3 * 2 ^ 17 + 2 * 2 ^ 21))], asked := [(0, 1)] }
def askS (op : Nat) : State := { dS (askB op) with links := [(3, upX)] }
/-- A SLOTCTL payload: op, destination 8, zone 3, source 0, rill 2, count. -/
def ctlP (op n st : Nat) : List Byte := [BitVec.ofNat 8 op, 8, 0, 3, 0, 0, 2, BitVec.ofNat 8 n, BitVec.ofNat 8 st, 1] ++ List.replicate 218 0

theorem witness_LinkFlits_sequence :
    (¬((linkS { upX with st := .auth }).link 3).st = .up ∧ ((linkS { upX with st := .auth }).link 3).st ≠ .absent) ∧ ((linkS {}).link 3).st = .absent
    ∧ (((linkS upX).link 3).st = .up ∧ nget 0 ((linkS upX).link 3).tagFails 5 < 7 ∧ ((linkS upX).link 3).rxSeq < 6 ∧ 4 < ((linkS upX).link 3).rxSeq ∧ 5 = ((linkS upX).link 3).rxSeq)
    ∧ 7 ≤ nget 0 ((linkS { upX with tagFails := [(5, 7)] }).link 3).tagFails 5 ∧ (∀ f ∈ ((linkS upX).link 3).ahead, f.1 ≠ 6) ∧ noticesOf (List.replicate 228 0) = [List.replicate 8 0] := by decide +kernel

/-- What lies between two parts of a byte list. -/
theorem sliceB_middle (a b c : List Byte) : sliceB (a ++ b ++ c) a.length b.length = b := by
  simp [sliceB, List.append_assoc]

/-- A session key; the flit of sequence number 5 that it seals, whose ciphertext is zeros. -/
def keyW : List Byte := List.replicate 32 3
def keyX : Link := { upX with key := keyW }
def flitHead : List Byte := [1, 0, 0, 0] ++ toBytes 8 5
def flitIv : List Byte := toBytesBE 4 2 ++ toBytesBE 8 5
def zeroF : List Byte := List.replicate 228 0
def flitTag : List Byte := gcmTag (aesKeys keyW) flitIv flitHead zeroF
def sealedF : List Byte := flitHead ++ zeroF ++ flitTag

theorem toBytes_len : ∀ k n, (toBytes k n).length = k
  | 0, _ => rfl
  | k + 1, _ => congrArg (· + 1) (toBytes_len k _)

theorem zeroF_length : zeroF.length = 228 := List.length_replicate

theorem flitTag_length : flitTag.length = 16 := by
  simp only [flitTag, gcmTag, List.length_map, List.length_zip, blockBytes, toBytesBE, List.length_reverse, toBytes_len]
  rw [show (aesBlock (aesKeys keyW) ((flitIv ++ (toBytes 4 1).reverse).map BitVec.toNat)).length = 16 by decide +kernel]
  rfl

/-- What its own tag comes with is opened. -/
theorem gcmOpen_tag (key iv aad ct : List Byte) : ∃ p, gcmOpen key iv aad ct (gcmTag (aesKeys key) iv aad ct) = some p := by
  simp only [gcmOpen, if_true]
  exact ⟨_, rfl⟩

theorem sealedF_open : ∃ p, gcmOpen keyW (toBytesBE 4 2 ++ toBytesBE 8 (leAt sealedF 4 8)) (sliceB sealedF 0 12) (sliceB sealedF 12 228) (sliceB sealedF 240 16) = some p := by
  have h0 : leAt sealedF 4 8 = 5 := by
    have h := sliceB_middle [1, 0, 0, 0] (toBytes 8 5) (zeroF ++ flitTag)
    rw [← List.append_assoc, toBytes_len] at h
    exact (congrArg ofBytes h).trans (by decide)
  have h1 : sliceB sealedF 0 12 = flitHead := by
    have h := sliceB_middle [] flitHead (zeroF ++ flitTag)
    rwa [← List.append_assoc] at h
  have h2 : sliceB sealedF 12 228 = zeroF := by
    have h := sliceB_middle flitHead zeroF flitTag
    rwa [zeroF_length] at h
  have h3 : sliceB sealedF 240 16 = flitTag := by
    have h := sliceB_middle (flitHead ++ zeroF) flitTag []
    rwa [List.append_nil, List.length_append, zeroF_length, flitTag_length] at h
  rw [h0, h1, h2, h3]
  exact gcmOpen_tag keyW flitIv flitHead zeroF

theorem witness_LinkFlits_transport :
    ((((linkS upX).link 3).replay.filter fun f => decide (f.kind ≠ 0)).length < 128 ∧ ((linkS upX).link 3).queue = [] ∧ (∀ c ∈ ((linkS upX).link 3).credits, c.2 = 0))
    ∧ ((linkS { upX with queue := [(1, [])] }).link 3).queue ≠ [] ∧ ((linkS { upX with credits := [(1, 3)] }).link 3).credits = (1, 3) :: []
    ∧ ((((linkS upX).link 3).replay.map (·.seq)).Nodup ∧ ∀ f ∈ ((linkS upX).link 3).replay, f.kind ≠ 0 ∧ vcOf f.kind = 1 / 4096)
    ∧ (((linkS keyX).link 3).key = keyW ∧ keyW ≠ [] ∧ ((linkS keyX).link 3).lower = false)
    ∧ gcmOpen keyW (toBytesBE 4 2 ++ toBytesBE 8 0) [] [] (List.replicate 16 0) = none
    ∧ (leAt ([6] : List Byte) 0 1 = 6 ∧ sliceB ([6] ++ List.replicate 255 0 : List Byte) 240 16 = List.replicate 16 0) ∧ ¬(leAt ([1] : List Byte) 0 1 = 6 ∨ leAt ([1] : List Byte) 0 1 = 7) := by
  and_intros <;> decide +kernel

/-- A zone state as DATA of the stream finds it. -/
def cS (run : Bool) : State := (zS run (zoneE .reserved)).carries 3 (0, 0, zk)

theorem witness_LinkFlits_data :
    (∃ q ∈ ((linkS { upX with waiting := [dataP] }).link 3).waiting, leAt q 0 2 = leAt dataP 0 2 ∧ leAt q 2 1 = leAt dataP 2 1 ∧ leAt q 3 1 = leAt dataP 3 1)
    ∧ ((linkS upX).link 3).waiting = [] ∧ (linkS upX).zoneGlade 0 zk = none ∧ (zS true (zoneE .reserved)).zoneGlade 0 zk = some 0
    ∧ ((cS true).runs 0 = true ∧ ((cS true).eng 0).holdsKey 0 zk = true ∧ (cS true).canLand 0 0 (leAt dataP 4 1) zk = true)
    ∧ (cS false).runs 0 = false ∧ (cS true).canLand 0 0 0xFF ⟨9, 7, 3⟩ = false := by and_intros <;> decide +kernel

theorem witness_LinkFlits_calls :
    ((linkS { upX with calls := [dataP] }).link 3).calls = dataP :: [] ∧ ((linkS upX).link 3).calls = [] := by and_intros <;> rfl

/-- A zone of two slots, which grants one to a source of package 9. -/
def freeZ : State := { zS true { zones := [(3, { valid := true, slots := 2, ssize := 8 })] } with jobs := [(5, { tJob with callers := 2 ^ 9 })] }

theorem witness_LinkFlits_slots :
    (leAt (ctlP 2 1 0) 0 1 = 2 ∧ (askS 0x109).asker 0 0x109 ⟨9, 8, 3, 2⟩ = some 0) ∧ (leAt (ctlP 4 0 0) 0 1 = 4 ∧ (askS 0x10A).asker 0 0x10A ⟨9, 8, 3, 2⟩ = some 0)
    ∧ (linkS upX).asker 0 0x109 ⟨9, 8, 3, 2⟩ = none ∧ (linkS upX).asker 0 0x10A ⟨9, 8, 3, 2⟩ = none
    ∧ leAt (ctlP 2 1 0) 8 1 = 0 ∧ leAt (ctlP 2 1 1) 8 1 = 1 ∧ leAt (ctlP 2 1 3) 8 1 = 3
    ∧ leAt (ctlP 3 0 0) 7 1 = 0 ∧ leAt (ctlP 3 1 0) 7 1 = 1 ∧ leAt (ctlP 3 2 0) 7 1 = 2 ∧ leAt (ctlP 5 0 0) 0 1 = 5 ∧ leAt (ctlP 6 0 0) 0 1 = 6
    ∧ (∃ e ∈ (zS true (zoneE .reserved)).homes 0, e.2.holdsKey 0 zk = true) ∧ ¬(∃ e ∈ (linkS upX).homes 0, e.2.holdsKey 0 zk = true)
    ∧ ((freeZ.reserveHome 0 3 zk 1).2.1 = 0 ∧ ((freeZ.reserveHome 0 3 zk 1).1.keySlots 0 3 zk) = [0] ∧ freeZ.keySlots 0 3 zk = []) ∧ (freeZ.reserveHome 0 2 zk 1).2.1 ≠ 0
    ∧ (0 < leAt ([5, 2] : List Byte) 1 1 ∧ leAt ([5, 2] : List Byte) 1 1 < ((linkS upX).link 3).width) ∧ ((linkS upX).link 3).width ≤ leAt ([5, 4] : List Byte) 1 1
    ∧ (leAt ([0, 0, 1] : List Byte) 2 1 = 1 ∧ leAt ([0, 0, 2] : List Byte) 2 1 ≠ 1) := by and_intros <;> decide +kernel

/-- A job whose stream on clearing 0 came from package 9, and of collective 6. -/
def peerS : State := { linkS upX with jobs := [(5, { tJob with received := [(9, 0)], collective := some 6, abortCounter := 3 })] }

theorem witness_LinkFlits_management :
    (let v := (linkS upX).credit 3 7
     (∀ f ∈ (v.link 3).replay, f.seq ≠ 2) ∧ ((v.link 3).replay.find? (fun f => decide (f.seq = 1))).isSome = true ∧ nget 0 (v.link 3).nakFails 1 + 1 < 8 ∧ ((linkS upX).link 3).st ≠ .down)
    ∧ ((linkS { upX with st := .down }).link 3).st = .down ∧ 8 ≤ nget 0 (((linkS { upX with nakFails := [(1, 7)] }).credit 3 7).link 3).nakFails 1 + 1
    ∧ ((linkS { upX with st := .auth }).link 3).st = .auth ∧ ((linkS { upX with st := .version }).link 3).st = .version ∧ ((linkS {}).link 3).st = .absent
    ∧ (leAt ([1, 1, 1] : List Byte) 1 1 ≤ 1 ∧ 1 ≤ leAt ([1, 1, 1] : List Byte) 2 1) ∧ ¬(leAt ([1, 2, 3] : List Byte) 1 1 ≤ 1 ∧ 1 ≤ leAt ([1, 2, 3] : List Byte) 2 1)
    ∧ (∀ c ∈ (linkS upX).jobs, c.2.received.contains (9, 0) = false)
    ∧ (peerS.jobs = [] ++ (5, { tJob with received := [(9, 0)], collective := some 6, abortCounter := 3 }) :: [] ∧ (peerS.job 5).received.contains (9, 0) = true ∧ (peerS.job 5).collective = some 6
        ∧ (peerS.job 5).ending = false ∧ ¬(9 = peerS.self ∧ 5 = 5))
    ∧ (leAt ([0x10, 4] : List Byte) 1 1 + 0x80 = 0x84 ∧ ((linkS { upX with asking := 0x84 }).link 3).asking = 0x84) ∧ (leAt ([0x10, 0x65] : List Byte) 1 1 + 0x80 = 0xE5 ∧ ((linkS { upX with asking := 0xE5 }).link 3).asking = 0xE5)
    ∧ (leAt ([0x10, 0x7F] : List Byte) 1 1 < 0x80 ∧ leAt ([0x10, 0x7F] : List Byte) 1 1 + 0x80 ≠ ((linkS upX).link 3).asking) ∧ leAt ([0x10, 0x84] : List Byte) 1 1 = 0x84 := by decide +kernel

/-- Package 9's stream to glade 0 in a state of its slot, carried by link 3. -/
def carriedS (st : SlotState) : State := { zS true (zoneE st) with links := [(3, { upX with streams := [(0, 0, zk)] })] }
/-- A link entry on link `l`, in queue 1. -/
def tornE (l : Nat) : Engines := { queues := [(1, [{ kind := 5, state := 1, opnum := 1, tl := 1, link := l, desc := List.replicate 64 0 }])] }

theorem witness_LinkEvents_loss :
    (((linkS upX).link 3).st = .up ∧ ((linkS upX).links.map (·.1)).Pairwise (· < ·) ∧ ¬∃ y ∈ (linkS upX).links, y.1 ≠ 3 ∧ y.2.st = .up ∧ y.2.peer = 9) ∧ ((linkS {}).link 3).st ≠ .up
    ∧ (∃ y ∈ ({ linkS upX with links := [(3, upX), (4, upX)] } : State).links, y.1 ≠ 3 ∧ y.2.st = .up ∧ y.2.peer = 9) ∧ ((linkS upX).link 3).streams = []
    ∧ (((carriedS .filling).link 3).streams = [(0, 0, zk)] ∧ (carriedS .filling).keysFrom 9 = [(0, 0, zk)] ∧ (∃ e ∈ (carriedS .filling).homes 0, ∃ z, nfind e.2.zones 0 = some z ∧ ∃ q ∈ z.slot, q.2.key = zk ∧ q.2.st = .filling)
        ∧ (∀ a ∈ ((carriedS .filling).eng 0).away, a.1 ≠ 3) ∧ (nfind (carriedS .filling).glades 0).isSome = true)
    ∧ ((tornE 3).queue 1 ++ (tornE 3).queue 2 = [{ kind := 5, state := 1, opnum := 1, tl := 1, link := 3, desc := List.replicate 64 0 }] ∧ ¬(4 = 3))
    ∧ (3 < ((linkS upX).link 3).width ∧ ((linkS upX).link 3).width ≤ 4 ∧ 1 < ((linkS upX).link 3).width) ∧ ((linkS { upX with width := 1 }).link 3).width = 1 :=
  ⟨by decide +kernel, by decide +kernel, by decide +kernel, by decide +kernel,
    ⟨by decide +kernel, by decide +kernel, ⟨_, List.mem_cons_self .., _, rfl, _, List.mem_cons_self .., rfl, rfl⟩, by decide +kernel, by decide +kernel⟩, by decide +kernel, by decide +kernel⟩

/-- The chain of a partner whose device key is 6 times the base point and whose alias certifies M0 to M2 of ones, twos and threes. -/
def partnerChain : List Byte := rootKey ++ List.replicate 96 0
  ++ certW (key64 79653159259317329199152975905021693207262715618295428672027927511489832980905 105099244361861367422779349381909628134794498213392835359532911141293690159074) 1 110196153993992306668050889273052462515744091342563939397916134691068577853699
  ++ ((key64 64375483017717711348634889601793836329966447963510648681625681211348943876771 52431391916983504423217627849020916729601969409053901192561322805962577543348) ++ [5] ++ List.replicate 31 0 ++ List.replicate 32 1 ++ List.replicate 32 2 ++ List.replicate 32 3 ++ List.replicate 32 0 ++ sig64 99537233166378206369357846446647522733847216123068931727828752442928593929728)
/-- A link whose authentication is done, on a package of canopy 77 with those measurements. -/
def joinS (x : Link) : State := { linkS { x with st := .auth } with
  pk := { (linkS {}).pk with number := some (2, 77), rom := sha256 rootKey, m0 := List.replicate 32 1, m1 := List.replicate 32 2, m2 := List.replicate 32 3, spdm := [(67, { sessions := [(0, { secured := true })] })] } }

theorem witness_LinkEvents_joins :
    (((joinS { lower := true }).link 3).st = .auth ∧ ((joinS { lower := true }).link 3).asking = 0) ∧ ((joinS {}).link 3).lower = false ∧ (∃ y ∈ ((joinS {}).responder (64 + 3)).sessions, y.2.secured = true)
    ∧ ¬((linkS upX).link 3).st = .auth
    ∧ (partnerChain.length = 608 ∧ sha256 (partnerChain.take 64) = (joinS {}).pk.rom ∧ leAt partnerChain 224 1 = 1 ∧ ecdsaVerify (partnerChain.take 64) (sliceB partnerChain 160 96) (sliceB partnerChain 256 64) = true
        ∧ leAt partnerChain 384 1 = 5 ∧ ecdsaVerify (sliceB partnerChain 160 64) (sliceB partnerChain 320 224) (sliceB partnerChain 544 64) = true)
    ∧ sliceB partnerChain 416 96 = sliceB (joinS {}).pk.m0 0 32 ++ sliceB (joinS {}).pk.m1 0 32 ++ sliceB (joinS {}).pk.m2 0 32 ∧ ({ (joinS {}).pk with m0 := [] } : Pkg).m0 = []
    ∧ (joinS {}).pk.number.map (·.2) = some 77 ∧ (joinS {}).pk.number.map (·.2) ≠ some 78 ∧ ¬(9 = (joinS {}).self ∨ ∃ y ∈ (joinS {}).links, y.2.st = .up ∧ y.2.peer = 9 ∧ y.2.peerSerial ≠ 0) ∧ 2 = (joinS {}).self := by
  and_intros <;> decide +kernel

/-- As `zS`, with a payload that waits. -/
def waitsS (e : Engines) : State := { zS true e with links := [(3, { upX with waiting := [dataP] })] }
/-- A job with two parties, of whom one has an open session. -/
def partyS : State := { tS 0 0 with
  jobs := [(5, { tJob with joins := [(0, ⟨some 7, [1]⟩), (1, ⟨none, []⟩)] })]
  pk := { (tS 0 0).pk with spdm := [(80, { sessions := [(7, { secured := true }), (8, {})] })] } }

theorem witness_LinkEvents_lost :
    (zS false {}).runs 0 = false ∧ ((zS true {}).runs 0 = true ∧ ∀ y ∈ (zS true {}).links, y.2.waiting = [])
    ∧ ((waitsS {}).links = [(3, { upX with waiting := [dataP] })] ∧ (waitsS {}).runs 0 = true ∧ (waitsS {}).zoneGlade 0 zk = none)
    ∧ ((waitsS (zoneE .reserved)).zoneGlade 0 zk = some 0 ∧ ((waitsS (zoneE .reserved)).eng 0).holdsKey 0 zk = true
        ∧ ((waitsS (zoneE .reserved)).modLink 3 fun x => { x with waiting := [] }).canLand 0 0 0 zk = true ∧ ((waitsS { zones := [(0, { valid := true, slots := 4, ssize := 8, slot := [(0, { st := .reserved, key := zk })], holders := [zk] })] }).modLink 3 fun x => { x with waiting := [] }).canLand 0 0 0 zk = false)
    ∧ (let s : State := { zS true (zoneE .reserved) with links := [(3, { peer := 9, st := .down, lostAt := some 0 })], wall := 756000000 }
       (∃ y ∈ s.links, y.2.peer = 9 ∧ y.2.lostAt = some 0) ∧ 0 + 756000000 ≤ s.wall ∧ s.linkTo 9 = none
       ∧ (((s.glades.map (·.1)).eraseDups.flatMap fun g => (s.homes g).flatMap fun e => (e.2.zoneKeys.filter fun k => decide (k.2.pkg = 9)).map fun k => (g, k.1, k.2)) ≠ [])
       ∧ s.links = [] ++ (3, { peer := 9, st := .down, lostAt := some 0 }) :: [])
    ∧ ((linkS upX).linkTo 9).isSome = true
    ∧ (nfind partyS.jobs 5).isSome = true ∧ partyS.liveSession ⟨some 7, [1]⟩ = some 7 ∧ nfind (partyS.responder 80).sessions 7 = some { secured := true }
    ∧ nfind (partyS.responder 80).sessions 8 = some {} := by and_intros <;> decide +kernel

/-! ## Jobs, parties, SPDM -/

/-- A request for a job of VF 1 with no partition, one glade and a grant of the least size at 64 MiB, changed at an offset. -/
def req0 : List Byte :=
  [1, 0, 1, 3, 255, 255, 255, 255, 1, 1, 0, 0] ++ toBytes 4 0 ++ toBytes 8 9 ++ toBytes 8 7 ++ toBytes 4 1 ++ List.replicate 12 0 ++ List.replicate 32 0 ++ toBytes 8 (2 ^ 26) ++ toBytes 8 (2 ^ 26 + 0x1E0000)
    ++ List.replicate 32 0
def openPk : State := { pk := { power := 1, partOk := true, channels := 2 ^ 512 - 1 } }

theorem witness_JobsAndParties_open :
    openPk.openBad (sliceB req0 0 128) = none ∧ openPk.openBad (sliceB (0 :: req0.drop 1) 0 128) = some 0 ∧ openPk.openBad (sliceB (req0.take 96 ++ [1]) 0 128) = some 96
    ∧ (openPk.pk.power ≠ 0 ∧ openPk.pk.power ≠ 2 ∧ ({} : State).pk.power = 0) ∧ ({} : State).openBad (sliceB req0 0 128) = some 0 ∧ openPk.openBad (sliceB [] 0 128) = some 0 := by decide +kernel

/-- How many leaves map a range. -/
def mapSteps : Nat → Nat → Nat → Nat → Nat
  | 0, _, _, _ => 0
  | f + 1, va, pa, n => if n < 4096 then 0 else
    let z := 4096 * 4 ^ pageCode va pa n
    1 + mapSteps f (va + z) (pa + z) (n - z)

theorem childTable_le (base : Nat) (r : State × Nat) (a : Nat) : (childTable base r a).1.2 ≤ r.2 + 1 := by
  simp only [childTable]
  split
  · exact Nat.le_succ _
  · exact Nat.le_refl _

theorem mapLeaf_le (base : Nat) (r : State × Nat) (va k e : Nat) : (mapLeaf base r va k e).2 ≤ r.2 + 3 := by
  have h1 := childTable_le base r (base + 8 * walkIndex va 3)
  have h2 (t2 : Nat) := childTable_le base (childTable base r (base + 8 * walkIndex va 3)).1 (t2 + 8 * walkIndex va 2)
  simp only [mapLeaf]
  generalize hc : childTable base r (base + 8 * walkIndex va 3) = c at h1 h2 ⊢
  obtain ⟨r1, t2⟩ := c
  generalize hd : childTable base r1 (t2 + 8 * walkIndex va 2) = d
  have h2 := h2 t2
  obtain ⟨r2, t1⟩ := d
  have h3 := childTable_le base r2 (t1 + 8 * walkIndex va 1)
  simp only [hd] at h1 h2 ⊢
  generalize childTable base r2 (t1 + 8 * walkIndex va 1) = x at h3 ⊢
  generalize (if k ≤ 5 then 0 else 1 : Nat) = lv
  by_cases hl : lv = 1
  · rw [if_pos hl]
    show r2.2 ≤ _
    omega
  · rw [if_neg hl]; omega

theorem mapRange_le (base keyid : Nat) (w : Bool) : ∀ (f va pa n : Nat) (r : State × Nat), (mapRange base keyid w f va pa n r).2 ≤ r.2 + 3 * mapSteps f va pa n
  | 0, _, _, _, _ => Nat.le_add_right _ _
  | f + 1, va, pa, n, r => by
    simp only [mapRange, mapSteps]
    split
    · exact Nat.le_add_right _ _
    · have h := mapRange_le base keyid w f (va + 4096 * 4 ^ pageCode va pa n) (pa + 4096 * 4 ^ pageCode va pa n) (n - 4096 * 4 ^ pageCode va pa n)
        (mapLeaf base r va (pageCode va pa n) (2 ^ 52 * keyid + pa + 256 * pageCode va pa n + 8 + 2 * b2n w + 1))
      have := mapLeaf_le base r va (pageCode va pa n) (2 ^ 52 * keyid + pa + 256 * pageCode va pa n + 8 + 2 * b2n w + 1)
      omega

theorem witness_JobsAndParties_fits : (({} : State).buildTables (jobOf (sliceB req0 0 128)) 0 0 0).2 ≤ 4096 := by
  have h (j : Job) : (({} : State).buildTables j 0 0 0).2 ≤ 1 + 3 * mapSteps (j.grantSize / 4096 + 1) 0 j.grantBase j.dataSize + 3 * mapSteps (j.grantSize / 4096 + 1) 0x40000000000000 j.tablePa (2 ^ 26)
      + 3 * mapSteps (j.grantSize / 4096 + 1) 0x44000000000000 j.savePa j.saveSize + 3 * mapSteps (j.grantSize / 4096 + 1) 0x48000000000000 j.poolPa j.poolSize := by
    simp only [State.buildTables]
    iterate 3 refine (mapRange_le ..).trans (Nat.add_le_add_right ?_ _)
    exact mapRange_le ..
  exact (h _).trans (by decide +kernel)

/-- Session 7 of the relay, secured or not; context 5 has party 1 on session 7 where `joined`. -/
def sesS (sec joined : Bool) (j : Job) : State :=
  { walkS (tS 0 0) with
    pk := { (walkS (tS 0 0)).pk with spdm := [(80, { stage := 3, kex := true, sessions := [(7, { secured := sec, secret := [1] })] })] }
    jobs := [(5, { j with parties := 3, tableKey := 5, serial := 4, keys := [(0, ⟨.data, 5⟩), (3, ⟨.weights, 6⟩)], joins := if joined then [(1, ⟨some 7, [1]⟩)] else [] })] }

theorem witness_JobsAndParties_sessions :
    (∃ x, nfind ((sesS true true {}).responder 80).sessions 7 = some x ∧ x.secured = true) ∧ ¬(∃ x, nfind ((sesS false true {}).responder 80).sessions 7 = some x ∧ x.secured = true) ∧ ((sesS true true {}).pk.power ≠ 0 ∧ (sesS true true {}).pk.power ≠ 2) ∧ (sesS true false {}).partyOf 7 = none
    ∧ (sesS true true {}).partyOf 7 = some (5, 1) ∧ (sesS true true {}).openJob 5 ≠ none ∧ (sesS true true {}).openJob 6 = none ∧ nfind (sesS true true {}).jobs 5 ≠ none
    ∧ (∀ y ∈ (sesS true false {}).jobs, ¬(y.2.serial = 5 ∧ y.2.ending = false)) ∧ ((sesS true false {}).jobs.find? (fun y => decide (y.2.serial = 4 ∧ y.2.ending = false))).isSome = true
    ∧ (2 < ((sesS true false {}).job 5).parties ∧ nfind ((sesS true false {}).job 5).joins 2 = none) ∧ ((sesS true false {}).job 5).parties ≤ 3
    ∧ (nget ({} : Session) ((sesS true true {}).job 5).sessions 0).opened = false
    ∧ ((nget ({} : Session) ((sesS true true { sessions := [(0, { opened := true }), (1, {})] }).job 5).sessions 1).opened = false ∧ (nget ({} : Session) ((sesS true true { sessions := [(0, { opened := true })] }).job 5).sessions 0).opened = true)
    ∧ (∀ k < 64, (nget ({} : Session) ((sesS true true { sessions := (List.range 64).map fun k => (k, { opened := true }) }).job 5).sessions k).opened = true)
    ∧ ((sesS true true {}).job 5).imageKey = none ∧ ((sesS true true { imageKey := some (2, []) }).job 5).imageKey = some (2, []) ∧ 2 ≠ 1 :=
  ⟨⟨_, rfl, rfl⟩, by rintro ⟨x, h, hx⟩; cases h; exact absurd hx (by decide), by and_intros <;> decide +kernel⟩

/-- Weights of key 6 at device address 0: an operand-only leaf of 16 MiB. -/
def wtS (inst : List (Nat × Nat)) : State :=
  (sesS true true { installed := inst }).put (hbmAt + 0x8000) (toBytes 8 (2 ^ 63 + 6 * 2 ^ 52 + 0x1000000 + 6 * 2 ^ 8 + 9))
/-- The generator of the curve as the point Q. -/
def qG : List Byte := toBytesBE 32 p256Gx ++ toBytesBE 32 p256Gy
def zero4K : List Byte := List.replicate 4096 0

theorem witness_JobsAndParties_install :
    (wtS []).installPlace 5 0 6 = some 0x1000000 ∧ nfind ((wtS []).job 5).keys 3 = some ⟨.weights, 6⟩ ∧ (0x1000000 / 4096, 6) ∉ ((wtS []).job 5).installed ∧ (0x1000000 / 4096, 6) ∈ ((wtS [(0x1000, 6)]).job 5).installed
    ∧ (sesS true true {}).installPlace 5 0 6 = none ∧ nfind ((wtS []).job 5).keys 15 = none := by decide +kernel

theorem witness_JobsAndParties_keys : (wtS []).pk.kek [] = none := by
  simp only [Pkg.kek]
  exact if_pos (Or.inl (by decide))

/-- A table made from a list of numbers answers each of them. -/
theorem nfind_full {l : List Nat} {k : Nat} (n : Nat) (h : k ∈ l) : (nfind (l.map fun k => (k, n)) k).isNone = false :=
  Option.isNone_eq_false_iff.2 <| by
    rw [nfind, Option.isSome_map, List.find?_isSome]
    exact ⟨(k, n), List.mem_map_of_mem h, BEq.rfl⟩

theorem witness_JobsAndParties_full : ({ pk := { keyTable := (List.range 1024).map fun k => (k, 1) } } : State).freeKeys = [] := by
  simp only [State.freeKeys, List.filter_eq_nil_iff]
  exact fun _ hk => Bool.eq_false_iff.1 (nfind_full 1 hk)

/-- The key that a bundle wrapped for the generator is unwrapped with exists, whatever the weight key. -/
theorem kek_generator (p : Pkg) : ∃ z, p.kek qG = some z := by
  simp only [Pkg.kek]
  exact ⟨_, if_neg (by decide +kernel)⟩

theorem witness_JobsAndParties_unwrap : ∃ z, (wtS []).pk.kek qG = some z ∧ ∃ ch : List Byte, ∃ w, gcmOpen z (List.replicate 12 0) [] (ch.take 4096) (ch.drop 4096) = some w := by
  obtain ⟨z, hz⟩ := kek_generator (wtS []).pk
  refine ⟨z, hz, zero4K ++ gcmTag (aesKeys z) (List.replicate 12 0) [] zero4K, gctr (aesKeys z) (List.replicate 12 0) 2 (chunks 16 (zero4K.length / 16 + 1) zero4K), ?_⟩
  have h : zero4K.length = 4096 := List.length_replicate
  rw [List.take_left' h, List.drop_left' h]
  simp only [gcmOpen, if_true]

/-- As `sesS`, with the first session entry of the job open for party 1 and the second closed. -/
def endS : State := sesS true true { sessions := [(0, { opened := true, party := 1 }), (1, { party := 1 })] }

/-- A responder at a stage that answers. -/
def spdmS (r : Nat) (x : Spdm) : State := { linkS upX with pk := { (linkS upX).pk with power := 1, partOk := true, spdm := [(r, x)] } }

theorem witness_SpdmEvents :
    (∀ r ∈ [0, 63, 67, 80], (spdmS r {}).pk.power ≠ 0 ∧ (spdmS r {}).pk.power ≠ 2 ∧ r ≤ 80 ∧ (spdmS r {}).pk.partOk = true ∧ ((spdmS r {}).link (67 - 64)).st ≠ .absent)
    ∧ ({} : State).pk.power = 0 ∧ ((spdmS 64 {}).link (64 - 64)).st = .absent ∧ ¬(81 ≤ 80)
    ∧ (∀ n ∈ [1, 2, 3], n ≤ ((spdmS 67 { stage := 3 }).responder 67).stage ∧ ((spdmS 67 {}).responder 67).stage < n)
    ∧ (((spdmS 1 { stage := 3 }).responder 1).kex = false ∧ ((spdmS 1 { stage := 3, kex := true }).responder 1).kex = true)
    ∧ ((List.replicate 220 (0 : Byte)).length ≤ 220 ∧ field 16 4 1 = 1 ∧ field 1 0 1 = 1 ∧ ¬(field 0 4 1 = 1) ∧ field 8 3 1 = 1 ∧ field 2 1 1 = 1)
    ∧ ¬(4 ≤ ((spdmS 1 {}).responder 1).sessions.length ∨ (nfind ((spdmS 1 {}).responder 1).sessions 8).isSome = true) ∧ (nfind ((sesS true true {}).responder 80).sessions 7).isSome = true
    ∧ nfind ((sesS true true {}).responder 80).sessions 8 = none ∧ nfind ((sesS true true {}).responder 80).sessions 7 = some { secured := true, secret := [1] }
    ∧ nfind ((sesS false true {}).responder 80).sessions 7 = some { secured := false, secret := [1] } ∧ nfind ((spdmS 1 { sessions := [(7, { secured := true })] }).responder 1).sessions 7 = some { secured := true }
    ∧ (sesS true true {}).partyOf 7 = some (5, 1) ∧ (sesS true false {}).partyOf 7 = none := by and_intros <;> decide +kernel

theorem witness_SpdmEvents_end :
    ((7, { secured := true, secret := [1] }) ∈ (endS.responder 80).sessions ∧ endS.partyOf 7 = some (5, 1))
    ∧ ((nfind (endS.job 5).sessions 0).any fun v => v.opened && decide (v.party = 1)) = true ∧ ((nfind (endS.job 5).sessions 1).any fun v => !v.opened && decide (v.party = 1)) = true := by and_intros <;> decide +kernel

/-! ## Steps, memory, and the rules over all instructions -/

/-- A block whose instructions 0 and 1 are ready LANDs; a state in which its woodward moves first. -/
def rB (stalled : List Nat) : Block := { addr := 64, words := [assembleWord 0x04C ⟨0, false, none, none⟩ 5, assembleWord 0x04C ⟨0, false, none, none⟩ 6], stalled := stalled }
def woodS (b : Block) : State := { tState b with agenda := [.woodward 0] }
def answers (o : Outcome) : Bool := match o with | .next _ => true | _ => false

theorem witness_StepRunsTheInstruction_block :
    ((rB []).ready 0 = true ∧ 0 ∉ (rB []).stalled ∧ decodeWord ((rB []).word 0) = .ok (.land ⟨0, false, none, none⟩ 5))
    ∧ ((rB [0]).ready 1 = true ∧ 1 ∉ (rB [0]).stalled ∧ (∀ j < 1, (rB [0]).ready j = true → j ∈ (rB [0]).stalled) ∧ decodeWord ((rB [0]).word 1) = .ok (.land ⟨0, false, none, none⟩ 6))
    ∧ ((rB [0, 1]).ready 0 = true ∧ ∀ j < 2, (rB [0, 1]).ready j = true → j ∈ (rB [0, 1]).stalled) ∧ (∀ j < dB.words.length, dB.ready j = false) ∧ (fS fW []).block 0 = none
    ∧ answers (step (woodS (rB []))) = true ∧ answers (step (woodS (rB [0, 1]))) = true ∧ answers (step (woodS dB)) = true := by decide +kernel

def cy0 : Cyc := { glade := 0, todo := [(0, 0)], saved := (tS 0 0).bough 0 }
def cyS : State := { tS 0 0 with cyc := some cy0 }

theorem witness_StepRunsTheInstruction_rest :
    (cyS.cyc = some cy0 ∧ cy0.todo = (0, 0) :: [] ∧ (∃ i, (cyS.nextElement cy0 0 0).2.bind (fun w => (decodeOp w).toOption) = some i) ∧ answers (step cyS) = true)
    ∧ ({ cy0 with todo := [] } : Cyc).todo = [] ∧ (tS 0 0).cyc = none ∧ (tS 0 0).agenda = [] ∧ outside (.linkDown 3) = true
    ∧ answers (step { tS 0 0 with agenda := [.input], inputs := [(0, .event (.linkDown 3))] }) = true ∧ answers (step { tS 0 0 with agenda := [.input], inputs := [(0, .flit 3 [])] }) = true
    ∧ answers (step { tS 0 0 with agenda := [.input], inputs := [(0, .hostBytes 63 (2 ^ 55 - 1) [7])] }) = true ∧ 2 ^ 55 - 1 + [7].length ≤ 2 ^ 55 ∧ answers (step { tS 0 0 with agenda := [.walkComplete 0] }) = true
    ∧ answers (step (tS 0 0)) = true :=
  ⟨⟨by decide +kernel, by decide, ⟨_, rfl⟩, by decide +kernel⟩, by and_intros <;> decide +kernel⟩

theorem witness_MemoryReadsWhatWasWritten :
    Memory.wf ((tS 0 0).put 5 [1, 0, 3]).mem = true ∧ [1, 2, 0] = toBytes 3 (ofBytes [1, 2, 0]) ∧ Memory.wf (memZero ((tS 0 0).put 5 [1, 0, 3]).mem 6 2) = true ∧ (4 < 5 ∨ 5 + 3 ≤ 4) ∧ (8 < 5 ∨ 5 + 3 ≤ 8) := by decide +kernel

theorem witness_SafeKept : Memory.wf (tS 0 0).mem = true ∧ answers (step (tS 0 0)) = true := by decide +kernel

theorem witness_NothingChangesBeforeCommit :
    (answers (exec (.add hd) (tS 1 2)) = true ∧ (encodeWord (.add hd)).isSome = true ∧ Memory.wf (tS 1 2).mem = true) ∧ (answers (exec (.trap ⟨0, false, none, none⟩ 31) (tS 1 2)) = true ∧ (encodeWord (.trap ⟨0, false, none, none⟩ 31)).isSome = true)
    ∧ (answers (exec (.passThru) cyS) = true ∧ (encodeOp .passThru).isSome = true) := by decide +kernel

theorem witness_ValueInstructionFrame : answers (exec (.add hd) (tS 1 2)) = true ∧ answers (exec (.tskQuery hd .floor) (tS 1 2)) = true := by decide +kernel

def causeS (w : Woodward) : State := tState (tB 0 0) |>.modWw 0 fun _ => w

theorem witness_TakingACause :
    (((causeS { trapHandler := 64 }).ww 0).inh = false ∧ field ((causeS { trapHandler := 64 }).ww 0).trapHandler.toNat 6 14 ≠ 0 ∧ 0x200 ∉ [0x04C, 0x086, 0x100, 0x101, 0x102, 0x1C2])
    ∧ field ((causeS {}).ww 0).trapHandler.toNat 6 14 = 0 ∧ ({} : State).place 0 = none ∧ (causeS {}).place 0 = some tPlace ∧ Memory.wf (causeS {}).mem = true ∧ (causeS {}).block 0 = none ∧ (tS 0 0).block 0 = some (tB 0 0)
    ∧ [({ code := 0x81, value := 3 } : Cause), { code := 0x82, value := 3, rank := 7 }].Pairwise (·.rank ≤ ·.rank) := by and_intros <;> decide +kernel

def cause1 : Cause := { code := 0x81, value := 3, th := true }
/-- What delivers the causes of a cy: one raised, in a handler or not, with a number of pending causes. -/
def raisedW (h d : Bool) (n : Nat) : Woodward := { raised := [cause1], inh := h, deliver := d, pending := List.replicate n cause1 }

theorem witness_TakingACause_deliver :
    ((causeS {}).ww 0).raised = [] ∧ ((causeS (raisedW true false 7)).ww 0).pending.length + ((causeS (raisedW true false 7)).ww 0).raised.length ≤ 8
    ∧ (∀ w ∈ [raisedW true false 0, raisedW false true 0, raisedW false false 7, { raisedW false false 0 with delivered := true }], (w.inh = true ∨ w.deliver = true ∨ w.delivered = true ∨ w.pending ≠ []) ∧ w.raised = [cause1])
    ∧ (((causeS (raisedW true false 8)).ww 0).raised = [cause1] ∧ 8 ≤ ((causeS (raisedW true false 8)).ww 0).pending.length ∧ (causeS (raisedW true false 8)).place 0 = some tPlace)
    ∧ (let s := causeS { raisedW false false 0 with raised := [cause1, cause1] }
       ¬((s.ww 0).inh = true ∨ (s.ww 0).deliver = true ∨ (s.ww 0).delivered = true ∨ (s.ww 0).pending ≠ []) ∧ (s.ww 0).raised = cause1 :: [cause1]
       ∧ ((((s.modWw 0 fun w => { w with raised := [], delivered := false }).take 0 cause1.code cause1.value (s.asyncAt 0) true).ww 0).pending.length + 1 ≤ 8)) := by and_intros <;> decide +kernel

theorem witness_DecodeEncode :
    (wellFormed (.add hd) = true ∧ encodeWord (.add hd) = some (assembleWord 0x001 hd 0)) ∧ (wellFormed (.fadd .rso 7) = true ∧ encodeOp (.fadd .rso 7) = some (BitVec.ofNat 24 (2 ^ 17 + 2 ^ 12 + 7)))
    ∧ decodeWord (assembleWord 0x001 hd 0) = .ok (.add hd) ∧ decodeOp (BitVec.ofNat 24 (2 ^ 17 + 2 ^ 12 + 7)) = .ok (.fadd .rso 7) := by decide +kernel

end Sys2Proof.Tests
end

section
/-! The memory of a state as a function of places: reading a range, zeroing a range, and the canonical form (R4, R231 to R240). -/

namespace Sys2Proof.Machine

/-! ## Reading a range -/

theorem memTake_eq_map (m : List Host.Cell) (n a : Nat) : memTake m n a = (List.range n).map fun i => memGet m (a + i) := by
  induction n generalizing a with
  | zero => rfl
  | succ n ih =>
    rw [memTake, ih, List.range_succ_eq_map, List.map_cons, List.map_map]
    exact congrArg _ (List.map_congr_left fun i _ => by simp only [Function.comp_apply, Nat.succ_eq_add_one, Nat.add_assoc, Nat.add_comm 1 i])

theorem memTake_memPut (bs : List Byte) {m : List Host.Cell} {a : Nat} (w : Memory.wf m = true) : memTake (memPut m a bs) bs.length a = bs := by
  rw [memTake_eq_map]
  refine List.ext_getElem (by simp) fun i _ hi => ?_
  simp [memGet_memPut bs (a + i) w, hi]

theorem bytes_put (s : State) (a : Nat) (bs : List Byte) (w : Memory.wf s.mem = true) : (s.put a bs).bytes a bs.length = bs :=
  memTake_memPut bs w

theorem memGet_put_outside (s : State) (a : Nat) (bs : List Byte) (w : Memory.wf s.mem = true) {b : Nat} (h : b < a ∨ a + bs.length ≤ b) :
    memGet (s.put a bs).mem b = memGet s.mem b := by
  have outside : ¬(a ≤ b ∧ b < a + bs.length) := by omega
  exact (memGet_memPut bs b w).trans (if_neg outside)

/-! ## Numbers as bytes -/

@[simp] theorem toBytes_length (k n : Nat) : (toBytes k n).length = k := by
  induction k generalizing n with
  | zero => rfl
  | succ k ih => exact congrArg (· + 1) (ih _)

theorem num_put (s : State) (a n : Nat) (bs : List Byte) (w : Memory.wf s.mem = true) (h : bs.length = n) : (s.put a bs).num a n = ofBytes bs := by
  subst h
  exact congrArg ofBytes (bytes_put s a bs w)

/-! ## The canonical form is unique -/

theorem memWfFrom_cons {lo : Nat} {c : Host.Cell} {m : List Host.Cell} :
    memWfFrom lo (c :: m) = true ↔ (lo ≤ c.1 ∧ c.2 ≠ 0) ∧ memWfFrom (c.1 + 1) m = true := by
  simp [memWfFrom]

/-- The first listed cell is the lowest place that does not read 0: another memory that lists nothing so low reads otherwise there. -/
theorem memGet_head_ne {c : Host.Cell} {m n : List Host.Cell} {lo : Nat} (hc : c.2 ≠ 0) (hn : memWfFrom lo n = true) (h : c.1 < lo) :
    memGet (c :: m) c.1 ≠ memGet n c.1 := by
  rw [memGet_cons, if_pos rfl, memGet_below hn h]
  exact hc

/-- What follows the first cell reads as the whole list does, but for the first cell's own place, where it reads 0. -/
theorem memGet_tail {c : Host.Cell} {m : List Host.Cell} (w : memWfFrom (c.1 + 1) m = true) (a : Nat) :
    memGet m a = if c.1 = a then 0 else memGet (c :: m) a := by
  rw [memGet_cons]
  split
  · next e => exact e ▸ memGet_below w (Nat.lt_succ_self _)
  · rfl

theorem mem_ext {lo : Nat} {m n : List Host.Cell} (hm : memWfFrom lo m = true) (hn : memWfFrom lo n = true) (h : ∀ a, memGet m a = memGet n a) :
    m = n := by
  induction m generalizing lo n with
  | nil =>
    cases n with
    | nil => rfl
    | cons d n =>
      have ⟨⟨_, hd⟩, _⟩ := memWfFrom_cons.1 hn
      exact absurd (h d.1).symm (memGet_head_ne (lo := d.1 + 1) hd rfl (Nat.lt_succ_self _))
  | cons c m ih =>
    have ⟨⟨_, hc⟩, wm⟩ := memWfFrom_cons.1 hm
    cases n with
    | nil => exact absurd (h c.1) (memGet_head_ne (lo := c.1 + 1) hc rfl (Nat.lt_succ_self _))
    | cons d n =>
      have ⟨⟨_, hd⟩, wn⟩ := memWfFrom_cons.1 hn
      have place : c.1 = d.1 := by
        rcases Nat.lt_trichotomy c.1 d.1 with l | e | l
        · exact absurd (h c.1) (memGet_head_ne hc (memWfFrom_cons.2 ⟨⟨Nat.le_refl _, hd⟩, wn⟩) l)
        · exact e
        · exact absurd (h d.1).symm (memGet_head_ne hd (memWfFrom_cons.2 ⟨⟨Nat.le_refl _, hc⟩, wm⟩) l)
      have byte : c.2 = d.2 := by simpa [memGet_cons, place] using h c.1
      have rest : m = n := ih wm (place ▸ wn) fun a => by rw [memGet_tail wm, memGet_tail wn, h, place]
      rw [Prod.ext place byte, rest]

/-! ## Zeroing a range -/

theorem memGet_filter (p : Nat → Bool) (m : List Host.Cell) (a : Nat) : memGet (m.filter fun c => p c.1) a = if p a then memGet m a else 0 := by
  induction m with
  | nil => simp [memGet_nil]
  | cons c m ih =>
    rw [List.filter_cons]
    by_cases e : c.1 = a
    · subst e
      by_cases kept : p c.1 = true
      · simp [kept, memGet_cons]
      · simpa [kept] using ih
    · have skip : memGet (c :: m) a = memGet m a := by rw [memGet_cons, if_neg e]
      rw [skip, ← ih]
      split
      · rw [memGet_cons, if_neg e]
      · rfl

theorem memGet_memZero (m : List Host.Cell) (lo n a : Nat) : memGet (memZero m lo n) a = if lo ≤ a ∧ a < lo + n then 0 else memGet m a := by
  refine (memGet_filter (fun b => decide (b < lo ∨ lo + n ≤ b)) m a).trans ?_
  by_cases inside : lo ≤ a ∧ a < lo + n
  · simp [inside]
  · rw [if_neg inside, if_pos (decide_eq_true (by omega))]

/-! ## The statement -/

/-- Settles O52: a range reads byte by byte, and the canonical form lists exactly the places that do not read 0, so it is determined by what reads. -/
theorem memoryReadsWhatWasWritten : Obligations.MemoryReadsWhatWasWritten := by
  unfold Obligations.MemoryReadsWhatWasWritten
  refine ⟨fun s a bs w => ⟨bytes_put s a bs w, put_wf s a bs w, fun b h => memGet_put_outside s a bs w h, fun n h => ?_⟩, fun m n hm hn h => mem_ext hm hn h,
    fun m lo k w => ⟨memZero_wf lo k w, memGet_memZero m lo k⟩⟩
  exact num_put s a n bs w (by rw [h, toBytes_length])

end Sys2Proof.Machine
end

section
/-! The host's writes to the registers of a function (R251, R310, R311, R313, R315): what each leaves, where the port carries it out. -/

namespace Sys2Proof.Machine

/-! ## Fields and sizes -/

theorem pageField_eq_field (v : Nat) : pageField v = 4096 * field v 12 43 := by
  simp [pageField, bits, field, Nat.shiftRight_eq_div_pow]

theorem powTwo_iff (n : Nat) : powTwo n = true ↔ ∃ k, n = 2 ^ k := by
  simp only [powTwo, decide_eq_true_eq]
  constructor
  · rintro ⟨pos, disjoint⟩
    refine ⟨n.log2, ?_⟩
    have low : 2 ^ n.log2 ≤ n := Nat.log2_self_le pos.ne'
    have high : n < 2 ^ (n.log2 + 1) := Nat.lt_log2_self
    by_contra other
    have top (m : Nat) (h : 2 ^ n.log2 ≤ m) (k : m ≤ n) : m.testBit n.log2 = true :=
      Nat.testBit_of_two_pow_le_and_two_pow_add_one_gt h (Nat.lt_of_le_of_lt k high)
    have both : (n &&& (n - 1)).testBit n.log2 = true := by
      rw [Nat.testBit_and, top n low le_rfl, top (n - 1) (by omega) (by omega), Bool.and_self]
    simp [disjoint] at both
  · rintro ⟨k, rfl⟩
    exact ⟨Nat.two_pow_pos k, by rw [Nat.and_two_pow_sub_one_eq_mod, Nat.mod_self]⟩

/-- The sizes a ring may have (R311): the eleven powers of two from 64 to 65536. -/
theorem ringSize_iff (n : Nat) : (powTwo n = true ∧ 64 ≤ n ∧ n ≤ 65536) ↔ n ∈ (List.range 11).map fun k => 2 ^ (k + 6) := by
  simp only [powTwo_iff, List.mem_map, List.mem_range]
  constructor
  · rintro ⟨⟨k, rfl⟩, low, high⟩
    have l : 6 ≤ k := (Nat.pow_le_pow_iff_right (a := 2) (by decide)).1 low
    have h : k ≤ 16 := (Nat.pow_le_pow_iff_right (a := 2) (by decide)).1 high
    exact ⟨k - 6, by omega, by rw [Nat.sub_add_cancel l]⟩
  · rintro ⟨k, h, rfl⟩
    exact ⟨⟨k + 6, rfl⟩, Nat.pow_le_pow_right (n := 2) (i := 6) (by decide) (by omega), Nat.pow_le_pow_right (n := 2) (j := 16) (by decide) (by omega)⟩

/-! ## The access itself -/

theorem enumerates_iff (s : State) (fn : Nat) (h : s.pk.power ≠ 0) : s.enumerates fn = true ↔ fn = 0 ∨ s.pk.partOk = true := by
  simp [State.enumerates, h]

theorem refuses_iff (f : Fn) (t : Bool) : f.refuses t = true ↔ f.tdi = .run ∧ t = false := by
  simp [Fn.refuses]

/-- An instruction that is an access of the host writes what the access carries out (R27, R446, R453). -/
theorem writes_of_bar {i : Instr} {s : State} {fn off : Nat} {t : Bool} {k : State → State} {u : State} (h : exec i s = s.bar fn off t k) (e : k s = u) :
    Writes i s fn off t u := by
  have refused (on : s.pk.power ≠ 0) : (!s.enumerates fn || (s.fn fn).refuses t) = true ↔ (fn ≠ 0 ∧ s.pk.partOk = false) ∨ ((s.fn fn).tdi = .run ∧ t = false) := by
    rw [Bool.or_eq_true, Bool.not_eq_true', ← Bool.not_eq_true, enumerates_iff s fn on, refuses_iff, not_or, Bool.not_eq_true]
  refine ⟨fun off => ?_, fun on bad => ?_, fun on good => ?_⟩
  · rw [h, State.bar, if_pos off]
  · rw [h, State.bar, if_neg on, if_pos ((refused on).2 bad)]
  · rw [h, State.bar, if_neg on, if_neg (mt (refused on).1 good), e]

/-! ## Registers -/

theorem ringOk_iff (vf ring : Nat) : ringOk vf ring = true ↔ 1 ≤ vf ∧ vf ≤ 63 ∧ ring < 8 := decide_eq_true_iff

section
variable {vf ring : Nat} (s : State) (v : Nat) (granted : Bool)

/-- A byte offset among the registers of a ring names the ring and the register in it (R310). -/
theorem ringOk_offset (ok : ringOk vf ring = true) {k : Nat} (h : k < 64) :
    64 * ring + k < 0x200 ∧ (64 * ring + k) / 64 = ring ∧ (64 * ring + k) % 64 = k := by
  have := (ringOk_iff vf ring).1 ok
  omega

theorem setReg_ringBase (ok : ringOk vf ring = true) :
    s.setReg vf (64 * ring) v granted = s.withRing vf ring fun r => if r.st = 0 then { r with base := 4096 * field v 12 43 } else r := by
  obtain ⟨inside, index, place⟩ := ringOk_offset ok (k := 0) (by decide)
  simp only [Nat.add_zero] at inside index place
  simp [State.setReg, State.withRing, Fn.modRing, nmod, inside, index, ok, pageField_eq_field]

theorem setReg_ringSize (ok : ringOk vf ring = true) :
    s.setReg vf (64 * ring + 8) v granted = s.withRing vf ring fun r => if r.st = 0 then { r with size := v % 2 ^ 17 } else r := by
  obtain ⟨inside, index, place⟩ := ringOk_offset ok (k := 8) (by decide)
  simp [State.setReg, State.withRing, Fn.modRing, nmod, inside, index, place, ok]

theorem setReg_ringPage (ok : ringOk vf ring = true) :
    s.setReg vf (64 * ring + 0x38) v granted = s.withRing vf ring fun r => if r.st = 0 then { r with cq := 4096 * field v 12 43 } else r := by
  obtain ⟨inside, index, place⟩ := ringOk_offset ok (k := 0x38) (by decide)
  simp [State.setReg, State.withRing, Fn.modRing, nmod, inside, index, place, ok, pageField_eq_field]

/-- RING.RIDX is read only (R310). -/
theorem setReg_ringRidx (ok : ringOk vf ring = true) : s.setReg vf (64 * ring + 0x20) v granted = s := by
  obtain ⟨inside, index, place⟩ := ringOk_offset ok (k := 0x20) (by decide)
  simp [State.setReg, inside, index, place, ok]

theorem setReg_tinvAddr (h : 1 ≤ vf) :
    s.setReg vf 0x10000 v granted = s.modFn vf fun f => { f with tinvAddr := 4096 * field v 12 44 + field v 0 4 } := by
  simp [State.setReg, h, bits, field, Nat.shiftRight_eq_div_pow]

theorem setReg_fqBase : s.setReg vf 0x20000 v granted = s.modFn vf fun f => { f with fqBase := 4096 * field v 12 43 } := by
  simp [State.setReg, pageField_eq_field]

end

/-! ## Write index (R283, R311) -/

section
variable {vf ring : Nat} (s : State) (v : Nat)

theorem setWidx_accepted (ok : ringOk vf ring = true)
    (h : ((s.fn vf).ring ring).st = 0 ∨ (((s.fn vf).ring ring).st = 1 ∧ v % 2 ^ 17 < ((s.fn vf).ring ring).size)) :
    s.setWidx vf ring v = (s.publish vf ring (v % 2 ^ 17)).withRing vf ring fun r => { r with widx := v % 2 ^ 17 } := by
  rw [State.setWidx, if_neg (by grind), if_neg (by omega)]
  rfl

theorem setWidx_outside (ok : ringOk vf ring = true) (active : ((s.fn vf).ring ring).st = 1) (h : ((s.fn vf).ring ring).size ≤ v % 2 ^ 17) :
    s.setWidx vf ring v = (s.withRing vf ring fun r => { r with st := 3, cause := 4 }).noGlade 0x182 vf 0 4 ring := by
  rw [State.setWidx, if_neg (by grind), if_pos ⟨active, h⟩]
  rfl

theorem setWidx_ignored (h : ((s.fn vf).ring ring).st = 2 ∨ ((s.fn vf).ring ring).st = 3) : s.setWidx vf ring v = s := by
  rw [State.setWidx, if_pos (by omega)]

end

/-! ## Enable and teardown (R311, R313) -/

section
variable {vf ring : Nat} (s : State) (granted : Bool)

/-- Why the enable of a ring is refused, if it is (R311). -/
def ringRefusal (r : Ring) (granted : Bool) : Option Nat :=
  if ¬(powTwo r.size = true ∧ 64 ≤ r.size ∧ r.size ≤ 65536) then some 1 else if r.size ≤ r.widx then some 2 else if granted = false then some 3 else none

theorem enableRing_disabled (ok : ringOk vf ring = true) (off : ((s.fn vf).ring ring).st = 0) :
    s.enableRing vf ring granted = (ringRefusal ((s.fn vf).ring ring) granted).elim
      (s.withRing vf ring fun r => { r with st := 1, ridx := 0, fetched := 0, cause := 0, teardown := 0 })
      fun c => (s.withRing vf ring fun r => { r with cause := c }).noGlade 0x181 vf 0 c ring := by
  simp only [State.enableRing, ringRefusal]
  rw [if_neg (by grind)]
  split_ifs <;> rfl

theorem ringRefusal_badSize {r : Ring} (h : r.size ∉ (List.range 11).map fun k => 2 ^ (k + 6)) : ringRefusal r granted = some 1 :=
  if_pos (mt (ringSize_iff _).1 h)

theorem ringRefusal_sized {r : Ring} (h : r.size ∈ (List.range 11).map fun k => 2 ^ (k + 6)) :
    ringRefusal r granted = if r.size ≤ r.widx then some 2 else if granted = false then some 3 else none :=
  if_neg (not_not_intro ((ringSize_iff _).2 h))

theorem cancelUnfetched_none {n : Nat} (h : ((s.fn vf).ring ring).ridx = ((s.fn vf).ring ring).widx) : cancelUnfetched vf ring n s = s := by
  cases n with
  | zero => rfl
  | succ n => exact if_pos h

theorem ring_withRing (f : Ring → Ring) : ((s.withRing vf ring f).fn vf).ring ring = f ((s.fn vf).ring ring) := by
  simp [State.withRing, Fn.ring]

theorem teardown_drain (ok : ringOk vf ring = true) (on : ((s.fn vf).ring ring).st = 1 ∨ ((s.fn vf).ring ring).st = 3) :
    s.teardown vf ring 1 = cancelUnfetched vf ring ((s.fn vf).ring ring).size (s.withRing vf ring fun r => { r with st := 2, teardown := 1 }) := by
  simp only [State.teardown]
  rw [if_neg (by grind)]
  rfl

theorem teardown_drain_fetched (ok : ringOk vf ring = true) (on : ((s.fn vf).ring ring).st = 1 ∨ ((s.fn vf).ring ring).st = 3)
    (h : ((s.fn vf).ring ring).ridx = ((s.fn vf).ring ring).widx) : s.teardown vf ring 1 = s.withRing vf ring fun r => { r with st := 2, teardown := 1 } := by
  rw [teardown_drain s ok on, cancelUnfetched_none _ (by simpa only [ring_withRing] using h)]

theorem teardown_cancel (ok : ringOk vf ring = true) (on : ((s.fn vf).ring ring).st = 1 ∨ ((s.fn vf).ring ring).st = 3) :
    s.teardown vf ring 2 =
      cancelUnfetched vf ring ((s.fn vf).ring ring).size ((s.withRing vf ring fun r => { r with st := 2, teardown := 2 }).cancelDispatched vf ring) := by
  simp only [State.teardown]
  rw [if_neg (by grind)]
  rfl

end

/-! ## Invalidation commands (R251) -/

theorem openJob_eq_some (s : State) (c : Nat) (j : Job) : s.openJob c = some j ↔ nfind s.jobs c = some j ∧ j.ending = false := by
  simp only [State.openJob, Option.bind_eq_some_iff]
  grind

section
variable (s : State) {vf kind cmd : Nat}

theorem tinv_queued (k : kind = 1 ∨ kind = 2) (mine : ∃ j, nfind s.jobs (cmd % 1024) = some j ∧ j.ending = false ∧ j.vf = vf) (room : (s.fn vf).tinvQ.length < 64) :
    s.tinv vf kind cmd =
      s.modFn vf fun f => { f with tinvIssued := f.tinvIssued + 1, tinvQ := f.tinvQ ++ [(kind, cmd % 1024, f.tinvAddr)] } := by
  obtain ⟨j, at_, live, own⟩ := mine
  simp only [State.tinv, (openJob_eq_some s _ j).2 ⟨at_, live⟩, own, decide_true]
  rw [if_neg (by simpa [k] using room)]

theorem tinv_dropped (h : (¬∃ j, nfind s.jobs (cmd % 1024) = some j ∧ j.ending = false ∧ j.vf = vf) ∨ 64 ≤ (s.fn vf).tinvQ.length) :
    s.tinv vf kind cmd = s.modFn vf fun f => { f with tinvDropped := f.tinvDropped + 1 } := by
  rcases h with other | full
  · simp only [State.tinv]
    rw [if_pos (Or.inl ?_)]
    split
    · next j e =>
      obtain ⟨at_, live⟩ := (openJob_eq_some s _ j).1 e
      exact decide_eq_false fun own => other ⟨j, at_, live, own⟩
    · rfl
  · exact if_pos (Or.inr (Or.inr full))

end

/-! ## What each access carries out -/

section
variable {s t : State} {vf ring off v : Nat} {granted tb : Bool}

/-- An access that writes a word carries out what the word's value says. -/
theorem writes_of_bar_word {i : Instr} {fn : Nat} {k : Nat → State → State} (small : v < 2 ^ 64)
    (h : exec i s = s.bar fn off tb (k (BitVec.ofNat 64 v).toNat)) (e : k v s = t) : Writes i s fn off tb t :=
  writes_of_bar h (by rw [BitVec.toNat_ofNat, Nat.mod_eq_of_lt small, e])

theorem registerWrite_writes (inside : vf ≤ 63) (small : v < 2 ^ 64) (h : s.setReg vf off v granted = t) :
    Writes (.registerWrite vf off (BitVec.ofNat 64 v) granted tb) s vf off tb t :=
  writes_of_bar_word (k := fun v s => if vf ≤ 63 then s.setReg vf off v granted else s) small rfl ((if_pos inside).trans h)

theorem ringWidxWrite_writes (small : v < 2 ^ 64) (h : s.setWidx vf ring v = t) :
    Writes (.ringWidxWrite vf ring (BitVec.ofNat 64 v) tb) s vf (64 * ring + 0x18) tb t :=
  writes_of_bar_word (k := fun v s => s.setWidx vf ring v) small rfl h

theorem ringEnable_writes (h : s.enableRing vf ring granted = t) : Writes (.ringEnable vf ring granted tb) s vf (64 * ring + 0x10) tb t :=
  writes_of_bar (k := fun s => s.enableRing vf ring granted) rfl h

theorem ringTeardownDrain_writes (h : s.teardown vf ring 1 = t) : Writes (.ringTeardownDrain vf ring tb) s vf (64 * ring + 0x10) tb t :=
  writes_of_bar (k := fun s => s.teardown vf ring 1) rfl h

theorem ringTeardownCancel_writes (h : s.teardown vf ring 2 = t) : Writes (.ringTeardownCancel vf ring tb) s vf (64 * ring + 0x10) tb t :=
  writes_of_bar (k := fun s => s.teardown vf ring 2) rfl h

theorem tinvPage_writes (isVf : 1 ≤ vf ∧ vf ≤ 63) (small : v < 2 ^ 64) (h : s.tinv vf 1 v = t) :
    Writes (.tinvPage vf (BitVec.ofNat 64 v) tb) s vf 0x10008 tb t :=
  writes_of_bar_word (k := fun v s => if 1 ≤ vf ∧ vf ≤ 63 then s.tinv vf 1 v else s) small rfl ((if_pos isVf).trans h)

theorem tinvContext_writes (isVf : 1 ≤ vf ∧ vf ≤ 63) (small : v < 2 ^ 64) (h : s.tinv vf 2 v = t) :
    Writes (.tinvContext vf (BitVec.ofNat 64 v) tb) s vf 0x10008 tb t :=
  writes_of_bar_word (k := fun v s => if 1 ≤ vf ∧ vf ≤ 63 then s.tinv vf 2 v else s) small rfl ((if_pos isVf).trans h)

theorem fqRcntWrite_writes (small : v < 2 ^ 64) :
    Writes (.fqRcntWrite vf (BitVec.ofNat 64 v) tb) s vf 0x20018 tb (s.modFn vf fun f => if f.rcnt ≤ v ∧ v ≤ f.wcnt then { f with rcnt := v } else f) :=
  writes_of_bar_word (k := fun v s => s.setRcnt vf v) small rfl rfl

theorem fqLostRead_writes :
    Writes (.fqLostRead vf tb) s vf 0x20020 tb ((s.emit (.readValue vf 0x20020 (s.fn vf).lost)).modFn vf fun f => { f with lost := 0 }) :=
  writes_of_bar (k := fun s => (s.emit (.readValue vf 0x20020 (s.fn vf).lost)).modFn vf fun f => { f with lost := 0 }) rfl rfl

end

/-! ## The statement -/

/-- Settles O34: each write is an access of the port (`writes_of_bar`) that carries out the operation of its register. -/
theorem hostRegisters : Obligations.HostRegisters := by
  intro s vf ring v granted tb low high small bound w f r sets
  have ok : ringOk vf ring = true := (ringOk_iff vf ring).2 ⟨low, high, small⟩
  have register {off : Nat} {t : State} (h : s.setReg vf off v granted = t) : sets off t := registerWrite_writes high bound h
  refine ⟨⟨register (setReg_ringBase s v granted ok), register (setReg_ringSize s v granted ok), register (setReg_ringPage s v granted ok),
    register (setReg_tinvAddr s v granted low), register (setReg_fqBase s v granted), register (setReg_ringRidx s v granted ok)⟩, ?_, ?_, ?_, ?_, ?_, ?_, ?_, ?_, ?_⟩
  · exact fun h => ringWidxWrite_writes bound (setWidx_accepted s v ok h)
  · exact fun n => ⟨_, rfl, List.length_map _⟩
  · exact fun active outside => ringWidxWrite_writes bound (setWidx_outside s v ok active outside)
  · exact fun h => ringWidxWrite_writes bound (setWidx_ignored s v h)
  · intro off sized refused
    have disabled {t : State} (e : (ringRefusal r granted).elim _ _ = t) := ringEnable_writes (tb := tb) ((enableRing_disabled s granted ok off).trans e)
    refine ⟨fun h room g => disabled ?_, fun h => disabled ?_, fun h full => disabled ?_, fun h room g => disabled ?_⟩
    · rw [ringRefusal_sized _ h, if_neg (Nat.not_le.2 room), g]; rfl
    · rw [ringRefusal_badSize _ h]; rfl
    · rw [ringRefusal_sized _ h, if_pos full]; rfl
    · rw [ringRefusal_sized _ h, if_neg (Nat.not_le.2 room), if_pos g]; rfl
  · exact fun on => ⟨fun fetched => ringTeardownDrain_writes (teardown_drain_fetched s ok on fetched), ringTeardownDrain_writes (teardown_drain s ok on),
      ringTeardownCancel_writes (teardown_cancel s ok on)⟩
  · have both {t : Nat → State} (h : ∀ kind, kind = 1 ∨ kind = 2 → s.tinv vf kind v = t kind) :
        Writes (.tinvPage vf w tb) s vf 0x10008 tb (t 1) ∧ Writes (.tinvContext vf w tb) s vf 0x10008 tb (t 2) :=
      ⟨tinvPage_writes ⟨low, high⟩ bound (h 1 (.inl rfl)), tinvContext_writes ⟨low, high⟩ bound (h 2 (.inr rfl))⟩
    exact ⟨fun mine room => both fun kind k => tinv_queued s k mine room, fun h => both fun kind _ => tinv_dropped s h⟩
  · exact fqRcntWrite_writes bound
  · exact fqLostRead_writes

end Sys2Proof.Machine
end

section
/-! GET_VERSION at the party relay where the jobs are not listed by rising context (R431, R436, R438). -/

namespace Sys2Proof.Machine

/-- A job of one party, bound to session 7 of the relay, whose one session entry is open. -/
def boundJob : Job := { joins := [(0, { spdm := some 7 })], sessions := [(0, { opened := true })] }

/-- Jobs 5 and 1, listed in this order, each have a party bound to session 7 of the relay; job 1 has another bound to session 8. The relay holds sessions 8 and 7. -/
def unorderedJobs : State :=
  { pk := { power := 1, spdm := [(80, { sessions := [(8, {}), (7, {})] })] }
    jobs := [(5, boundJob), (1, { boundJob with joins := [(0, { spdm := some 7 }), (1, { spdm := some 8 })] })] }

theorem job_answer_relay (s : State) (code : Nat) (body : List Byte) (c : Nat) : (s.answer 80 code body).job c = s.job c := by
  rw [State.answer, if_neg (by decide)]
  rfl

/-- Session 7 belongs to party 0 of job 5, the first of the list. -/
theorem unorderedJobs_partyOf : unorderedJobs.partyOf 7 = some (5, 0) := by decide +kernel

/-- The end of session 8 writes job 1 before job 5 in the list, so the end of session 7 finds job 1's party. -/
theorem unorderedJobs_getVersion :
    ∃ t, exec (.spdmGetVersion 80 true) unorderedJobs = .next t ∧ nfind (t.job 5).sessions 0 = some { opened := true } :=
  ⟨_, rfl, by decide +kernel⟩

/-- Refutes O50: in `unorderedJobs` GET_VERSION at the relay ends session 7, which is bound to a party of job 5, and leaves that party's session entry open. The clause speaks of every state,
also of one whose jobs are not listed by rising context: there the end of an earlier session puts a changed copy of its job in front of the others, and `State.partyOf` then answers otherwise. -/
theorem not_spdmEvents : ¬ Obligations.SpdmEvents := by
  intro h
  obtain ⟨_, _, getVersion, _⟩ := h unorderedJobs 80
  obtain ⟨u, runs, _, _, _, _, _, closes⟩ := getVersion true (by decide +kernel)
  obtain ⟨t, runs', stays⟩ := unorderedJobs_getVersion
  have same : t.job 5 = u.job 5 := by
    rw [runs] at runs'
    cases runs'
    exact job_answer_relay u _ _ 5
  have closed := closes 7 {} 5 0 rfl (by decide +kernel) unorderedJobs_partyOf 0 { opened := true } (by decide +kernel) rfl
  rw [← same, stays] at closed
  exact absurd closed (by decide)

end Sys2Proof.Machine
end

section
/-! Bring-up (R26 to R29, R428, R429, R453): the firmware that starts, what a cold package keeps, the release of the crown dies, and what POWER_ON ends in. -/

namespace Sys2Proof.Machine

/-! ## The flash's chain (R428) -/

/-- No signature verifies where there is no key. -/
theorem ecdsaVerify_noKey (msg sig : List Byte) : ecdsaVerify [] msg sig = false := by
  simp [ecdsaVerify]

/-- A chain that does not begin with the Weadric root's key certifies nothing (R428). -/
theorem keyFor_foreign {p : Pkg} (h : sha256 (p.flash.chain.take 64) ≠ p.rom) (role : Nat) : p.keyFor role = [] := by
  have root : chainRoot p.rom p.flash.chain = [] := if_neg h
  simp [Pkg.keyFor, certBy, root, ecdsaVerify_noKey]

theorem startSlot_noKey (a b : FlashSlot) : startSlot [] a b = 0 := by
  simp [startSlot, FlashSlot.ok, ecdsaVerify_noKey]

/-! ## What a cold package keeps (R453) -/

theorem memGet_cold (s : State) (a : Nat) : memGet s.cold.mem a = if 2 ^ 60 ≤ a then memGet s.mem a else 0 := by
  refine (memGet_filter (fun b => decide (hostAt 0 ≤ b)) s.mem a).trans ?_
  simp [hostAt]

/-! ## The crown dies released (R29, R453) -/

theorem testBit_add_two_pow {m n : Nat} (h : m < 2 ^ n) (g : Nat) : (m + 2 ^ n).testBit g = (m.testBit g || decide (n = g)) := by
  have sum := Nat.two_pow_add_eq_or_of_lt h 1
  rw [Nat.mul_one] at sum
  rw [Nat.add_comm, sum, Nat.testBit_or, Nat.testBit_two_pow, Bool.or_comm]

/-- The sum of the powers of two at the places below `n` that a test names has exactly those bits. -/
theorem testBit_sumPowers (p : Nat → Prop) [DecidablePred p] (n : Nat) :
    (List.range n).foldl (fun m k => if p k then m + 2 ^ k else m) 0 < 2 ^ n
    ∧ ∀ g, ((List.range n).foldl (fun m k => if p k then m + 2 ^ k else m) 0).testBit g = decide (g < n ∧ p g) := by
  induction n with
  | zero => simp
  | succ n ih =>
    rw [List.range_succ, List.foldl_append, Nat.pow_succ]
    obtain ⟨below, bits⟩ := ih
    generalize (List.range n).foldl (fun m k => if p k then m + 2 ^ k else m) 0 = m at below bits
    simp only [List.foldl_cons, List.foldl_nil]
    refine ⟨by split <;> omega, fun g => ?_⟩
    split
    · rw [testBit_add_two_pow below, bits]
      grind
    · rw [bits]
      grind

theorem withoutClearings_testBit (m : Nat) (cs : List Nat) {g : Nat} (h : g < 512) :
    (withoutClearings m cs).testBit g = (m.testBit g && decide (clearingOf g ∉ cs)) := by
  refine ((testBit_sumPowers (fun g => m.testBit g = true ∧ clearingOf g ∉ cs) 512).2 g).trans ?_
  simp [h]

theorem clearingOf_lt {g : Nat} (h : g < 512) : clearingOf g < 64 := by
  unfold clearingOf dieOf gladeY gladeX
  omega

/-- The state with other lifetime counts (R406). -/
def State.withLife (s : State) (life : List (Nat × Nat)) : State := { s with pk := { s.pk with life := life } }

theorem withLife_health (s : State) (life : List (Nat × Nat)) : (s.withLife life).pk.health = s.pk.health := rfl
theorem withLife_clearing (s : State) (life : List (Nat × Nat)) (c : Nat) : (s.withLife life).clearing c = s.clearing c := rfl

/-- Counting for some clearings changes the lifetime counts alone. -/
theorem lives_eq (item : Nat) (cs : List Nat) (s : State) : ∃ life, cs.foldl (fun s c => s.life item c 1) s = s.withLife life := by
  induction cs generalizing s with
  | nil => exact ⟨_, rfl⟩
  | cons c cs ih => exact ih (s.life item c 1)

/-- The record of a clearing after its first test (R29, R453). -/
def firstTest (failed : List Nat) (c : Nat) : Clearing :=
  { seq := 1, last := if c ∈ failed then 2 else 1, quarantined := decide (c ∈ failed) }

/-- The crown dies released with their first in-field tests, before the failures are counted (R29, R453). -/
def State.firstTests (s : State) (failed : List Nat) : State := { s with
  dies := (List.range 4).map fun d => (d, ({ held := false } : Die))
  clearings := (List.range 64).map fun c => (c, firstTest failed c)
  pk := { s.pk with health := withoutClearings s.pk.health ((List.range 64).filter fun c => decide (c ∈ failed)) } }

theorem releaseDies_eq (s : State) (failed : List Nat) : ∃ life, s.releaseDies failed = (s.firstTests failed).withLife life :=
  lives_eq 4 ((List.range 64).filter fun c => decide (c ∈ failed)) (s.firstTests failed)

/-- Reading a map that lists a value for each of some numbers. -/
theorem nfind_map_keys {α : Type} (f : Nat → α) (l : List Nat) (i : Nat) : nfind (l.map fun k => (k, f k)) i = if i ∈ l then some (f i) else none := by
  induction l with
  | nil => rfl
  | cons k l ih =>
    rw [List.map_cons, nfind_cons, ih]
    grind

theorem firstTests_die (s : State) (failed : List Nat) {d : Nat} (h : d < 4) : nfind (s.firstTests failed).dies d = some { held := false } := by
  refine (nfind_map_keys (fun _ => ({ held := false } : Die)) (List.range 4) d).trans ?_
  rw [if_pos (List.mem_range.2 h)]

theorem firstTests_clearing (s : State) (failed : List Nat) {c : Nat} (h : c < 64) : (s.firstTests failed).clearing c = firstTest failed c := by
  have at_ := nfind_map_keys (firstTest failed) (List.range 64) c
  rw [if_pos (List.mem_range.2 h)] at at_
  exact congrArg (·.getD {}) at_

theorem firstTests_health (s : State) (failed : List Nat) {g : Nat} (h : g < 512) :
    (s.firstTests failed).pk.health.testBit g = (s.pk.health.testBit g && decide (clearingOf g ∉ failed)) := by
  simp only [State.firstTests, withoutClearings_testBit _ _ h]
  simp [clearingOf_lt h]

/-! ## What POWER_ON ends in (R429, R453) -/

/-- The heartwood and the device firmware that start (R429): 0 none, 1 slot A, 2 slot B. -/
def Pkg.heartSlot (p : Pkg) : Nat := startSlot (p.keyFor 2) p.flash.hwA p.flash.hwB
def Pkg.deviceSlot (p : Pkg) : Nat := startSlot (p.keyFor 2) p.flash.dfA p.flash.dfB

/-- The manifest verifies (R429, R443). -/
def Pkg.manifestOk (p : Pkg) : Bool := ecdsaVerify (p.keyFor 4) p.flash.manifestBytes p.flash.manifestSig

/-- The measurement of the slot that started (R429). -/
def slotDigest (n : Nat) (a b : FlashSlot) : List Byte := if n = 0 then [] else sha256 (if n = 1 then a.image else b.image)

theorem slotDigest_started {n : Nat} (h : n ≠ 0) (a b : FlashSlot) : slotDigest n a b = sha256 (if n = 1 then a.image else b.image) := if_neg h

/-- The package with its heartwood firmware started and everything measured, the crown dies still held (R429). -/
def State.booted (s : State) : State :=
  let p := s.pk
  let f := p.flash
  { s.cold with pk := { s.cold.pk with
    power := 3, hwSlot := p.heartSlot, dfSlot := p.deviceSlot, libKey := p.keyFor 4, m0 := slotDigest p.heartSlot f.hwA f.hwB
    m1 := slotDigest p.deviceSlot f.dfA f.dfB, m2 := if p.manifestOk then sha256 f.manifestBytes else [], m3 := sha256 (f.part.take 192) } }

theorem booted_m0 (s : State) : s.booted.pk.m0 = slotDigest s.pk.heartSlot s.pk.flash.hwA s.pk.flash.hwB := by simp only [State.booted]
theorem booted_m1 (s : State) : s.booted.pk.m1 = slotDigest s.pk.deviceSlot s.pk.flash.dfA s.pk.flash.dfB := by simp only [State.booted]
theorem booted_m2 (s : State) : s.booted.pk.m2 = if s.pk.manifestOk then sha256 s.pk.flash.manifestBytes else [] := by simp only [State.booted]
theorem booted_out (s : State) : s.booted.out = s.out := rfl

/-- The package with its part record accepted, its crown dies still held (R27, R28, R453). -/
def State.accepting (s : State) : State :=
  let p := s.pk.flash.part
  { s with pk := { s.pk with power := 1, partOk := true, grade := leAt p 2 1, health := partGlades p, channels := partChannels p }
           links := linksOf (partLanes p) }

section
variable {s : State} (failed : List Nat)

theorem powerOn_running (on : s.pk.power ≠ 0) : exec (.powerOn failed) s = .next s := if_pos on

section
variable (off : s.pk.power = 0)
include off

theorem powerOn_off : exec (.powerOn failed) s =
    if s.pk.heartSlot = 0 then .next { s.cold with pk := { s.cold.pk with power := 2 } }
    else if s.pk.deviceSlot = 0 ∨ s.pk.manifestOk = false then .next (s.booted.emit (.mgmt 429 [BitVec.ofNat 8 (if s.pk.deviceSlot = 0 then 1 else 2)]))
    else match partBad (s.pk.keyFor 3) s.pk.flash.part with
      | some c => .next (s.booted.emit (.mgmt 27 [BitVec.ofNat 8 c]))
      | none => .next (s.booted.accepting.releaseDies failed) :=
  if_neg (not_not_intro off)

theorem powerOn_noHeart (h : s.pk.heartSlot = 0) : exec (.powerOn failed) s = .next { s.cold with pk := { s.cold.pk with power := 2 } } := by
  rw [powerOn_off failed off, if_pos h]

theorem powerOn_unverified (heart : s.pk.heartSlot ≠ 0) (bad : s.pk.deviceSlot = 0 ∨ s.pk.manifestOk = false) :
    exec (.powerOn failed) s = .next (s.booted.emit (.mgmt 429 [BitVec.ofNat 8 (if s.pk.deviceSlot = 0 then 1 else 2)])) := by
  rw [powerOn_off failed off, if_neg heart, if_pos bad]

variable (heart : s.pk.heartSlot ≠ 0) (good : ¬(s.pk.deviceSlot = 0 ∨ s.pk.manifestOk = false))
include heart good

theorem powerOn_badPart {c : Nat} (part : partBad (s.pk.keyFor 3) s.pk.flash.part = some c) :
    exec (.powerOn failed) s = .next (s.booted.emit (.mgmt 27 [BitVec.ofNat 8 c])) := by
  rw [powerOn_off failed off, if_neg heart, if_neg good, part]

theorem powerOn_accepted (part : partBad (s.pk.keyFor 3) s.pk.flash.part = none) :
    exec (.powerOn failed) s = .next (s.booted.accepting.releaseDies failed) := by
  rw [powerOn_off failed off, if_neg heart, if_neg good, part]

end

end

/-- What holds of every package whose heartwood firmware started (R429, R453): its ROM, its flash and the hosts' memory stay, no job, no unit and no function's register is left, and
the firmware and the part record are measured. -/
def StartedFrom (s t : State) : Prop :=
  t.pk.flash = s.pk.flash ∧ t.jobs = [] ∧ t.glades = [] ∧ t.fns = [] ∧ (∀ a, memGet t.mem a = if 2 ^ 60 ≤ a then memGet s.mem a else 0)
  ∧ t.pk.m0 = sha256 (if s.pk.heartSlot = 1 then s.pk.flash.hwA.image else s.pk.flash.hwB.image) ∧ t.pk.m3 = sha256 (s.pk.flash.part.take 192) ∧ t.pk.rom = s.pk.rom

theorem booted_started {s : State} (h : s.pk.heartSlot ≠ 0) : StartedFrom s s.booted :=
  ⟨rfl, rfl, rfl, rfl, memGet_cold s, (booted_m0 s).trans (slotDigest_started h _ _), rfl, rfl⟩

theorem accepted_started {s t : State} (failed : List Nat) (h : StartedFrom s t) : StartedFrom s (t.accepting.releaseDies failed) := by
  obtain ⟨life, e⟩ := releaseDies_eq t.accepting failed
  rw [e]
  exact h

/-- The crown dies run, each clearing tested once, and those that failed are quarantined with their glades taken from the map (R26, R27, R29, R453). -/
theorem accepted_runs (s : State) (failed : List Nat) :
    let p := s.pk.flash.part
    let t := s.accepting.releaseDies failed
    t.pk.m1 = s.pk.m1 ∧ t.pk.m2 = s.pk.m2 ∧ t.pk.power = 1 ∧ t.pk.partOk = true ∧ t.pk.grade = leAt p 2 1 ∧ t.pk.channels = leAt p 96 64 ∧ t.pk.number = s.pk.number
    ∧ (∀ g < 512, t.pk.health.testBit g = ((leAt p 32 64).testBit g && decide (clearingOf g ∉ failed)))
    ∧ (∀ d < 4, nfind t.dies d = some { held := false }) ∧ ∀ c < 64, t.clearing c = firstTest failed c := by
  intro p t
  obtain ⟨life, e⟩ := releaseDies_eq s.accepting failed
  rw [show t = _ from e]
  have map : s.accepting.pk.health = leAt p 32 64 := rfl
  refine ⟨rfl, rfl, rfl, rfl, rfl, rfl, rfl, fun g h => ?_, fun d h => firstTests_die s.accepting failed h, fun c h => ?_⟩
  · rw [withLife_health, firstTests_health _ _ h, map]
  · rw [withLife_clearing, firstTests_clearing _ _ h]

/-! ## The statement -/

/-- Settles O30: POWER_ON ends in one of five ways (`powerOn_running`, `powerOn_noHeart`, `powerOn_unverified`, `powerOn_badPart`, `powerOn_accepted`). -/
theorem powerOn : Obligations.PowerOn := by
  intro s failed f key ok start hw df listOk
  refine ⟨powerOn_running failed, fun foreign => ?_, fun off none => ⟨_, powerOn_noHeart failed off none, rfl, rfl, rfl⟩, fun off heart => ?_⟩
  · exact (congrArg (startSlot · f.hwA f.hwB) (keyFor_foreign foreign 2)).trans (startSlot_noKey _ _)
  have measured : StartedFrom s s.booted := booted_started heart
  by_cases bad : df = 0 ∨ listOk = false
  · obtain ⟨flash, jobs, glades, fns, mem, m0, m3, rom⟩ := measured
    refine ⟨_, powerOn_unverified failed off heart bad, flash, jobs, glades, fns, mem, m0, m3, rom, fun _ => ⟨rfl, rfl, ?_⟩, fun device list => ?_⟩
    · rw [State.emit_out, booted_out, apply_ite (BitVec.ofNat 8)]
      rfl
    · exact absurd bad (by simp [device, list])
  · obtain ⟨device, list⟩ := not_or.1 bad
    have list : listOk = true := Bool.eq_true_of_not_eq_false list
    have m1 : s.booted.pk.m1 = sha256 (if df = 1 then f.dfA.image else f.dfB.image) := (booted_m1 s).trans (slotDigest_started device _ _)
    have m2 : s.booted.pk.m2 = sha256 f.manifestBytes := (booted_m2 s).trans (if_pos list)
    cases part : partBad (key 3) f.part with
    | some c =>
      obtain ⟨flash, jobs, glades, fns, mem, m0, m3, rom⟩ := measured
      refine ⟨_, powerOn_badPart failed off heart bad part, flash, jobs, glades, fns, mem, m0, m3, rom, fun h => absurd h bad, fun _ _ => ⟨m1, m2, ?_, ?_⟩⟩
      · exact fun d h => by cases h; exact ⟨rfl, rfl, rfl⟩
      · exact fun h => by cases h
    | none =>
      obtain ⟨flash, jobs, glades, fns, mem, m0, m3, rom⟩ := accepted_started failed measured
      obtain ⟨m1', m2', power, partOk, grade, channels, number, health, dies, clearings⟩ := accepted_runs s.booted failed
      refine ⟨_, powerOn_accepted failed off heart bad part, flash, jobs, glades, fns, mem, m0, m3, rom, fun h => absurd h bad,
        fun _ _ => ⟨m1'.trans m1, m2'.trans m2, ?_, fun _ => ⟨power, partOk, grade, channels, number, health, ?_, ?_⟩⟩⟩
      · exact fun d h => by cases h
      · intro d h
        have die := dies d h
        exact ⟨by rw [die]; rfl, by rw [State.die, nget, die]; rfl⟩
      · intro c h
        rw [clearings c h]
        exact ⟨rfl, rfl, rfl⟩

end Sys2Proof.Machine
end

section
/-! What an invalidation of the host leaves in a function's queue (R252): settling an access discards blocks and performs AG requests, and neither takes an invalidation from any queue. -/

namespace Sys2Proof.Machine

/-- Every function's outstanding invalidations stay. -/
def KeepsInvs (s t : State) : Prop := ∀ v, (t.fn v).invQ = (s.fn v).invQ

theorem KeepsInvs.refl (s : State) : KeepsInvs s s := fun _ => rfl

theorem KeepsInvs.trans {s t u : State} (h : KeepsInvs s t) (k : KeepsInvs t u) : KeepsInvs s u := fun v => (k v).trans (h v)

theorem KeepsInvs.of_fns {s t : State} (h : t.fns = s.fns) : KeepsInvs s t := fun v => by rw [State.fn, h, State.fn]

/-- A change of a function that leaves its invalidations. -/
theorem KeepsInvs.modFn (s : State) (n : Nat) (f : Fn → Fn) (hf : ∀ x, (f x).invQ = x.invQ) : KeepsInvs s (s.modFn n f) := fun v => by
  rw [State.fn_modFn]
  split
  · next e => rw [hf, e]
  · rfl

/-- Steps that each keep a value keep it together. -/
theorem foldl_keeps {α β γ : Type} (r : β → γ) (f : β → α → β) (h : ∀ s x, r (f s x) = r s) (l : List α) (s : β) : r (l.foldl f s) = r s := by
  induction l generalizing s with
  | nil => rfl
  | cons x l ih => exact (ih _).trans (h s x)

theorem KeepsInvs.foldl {α : Type} (f : State → α → State) (h : ∀ s x, KeepsInvs s (f s x)) (l : List α) (s : State) : KeepsInvs s (l.foldl f s) := fun v =>
  foldl_keeps (fun s => (s.fn v).invQ) f (fun s x => h s x v) l s

/-! ## A block discarded -/

theorem report_fns (s : State) (p : Nat) (m : List Byte) : (s.report p m).fns = s.fns := by
  unfold State.report State.tell
  split
  · exact State.sendFlit_fns ..
  · split <;> rfl

theorem modHome_fns (s : State) (g : Nat) (hit : Engines → Bool) (f : Engines → Engines) : (s.modHome g hit f).fns = s.fns := by
  unfold State.modHome
  simp only
  split
  · rfl
  · split <;> rfl

theorem releaseKey_fns (s : State) (g : Nat) (z : ZoneRef) : (s.releaseKey g z).fns = s.fns := by
  unfold State.releaseKey
  split
  · exact modHome_fns ..
  · exact report_fns ..

theorem unhold_fns (s : State) (g : Nat) (z : ZoneRef) : (s.unhold g z).fns = s.fns := by
  unfold State.unhold
  split
  · exact modHome_fns ..
  · exact report_fns ..

theorem releasePend_fns (g : Nat) (l : List (Nat × Pend)) (s : State) : (releasePend g l s).fns = s.fns := by
  induction l generalizing s with
  | nil => rfl
  | cons p rest ih =>
    obtain ⟨_, q⟩ := p
    cases q with
    | slotHeld z n _ =>
      simp only [releasePend, ih]
      split
      · exact unhold_fns ..
      · exact releaseKey_fns ..
    | slotRelease z => exact (ih _).trans (unhold_fns ..)
    | _ => exact ih s

theorem releaseAnswers_fns (g : Nat) (b : Block) (l : List (Nat × Word)) (s : State) : (releaseAnswers g b l s).fns = s.fns := by
  induction l generalizing s with
  | nil => rfl
  | cons p rest ih =>
    simp only [releaseAnswers]
    split_ifs <;> simp only [ih, unhold_fns, releaseKey_fns]

theorem discard_keepsInvs (s : State) (g : Nat) : KeepsInvs s (s.discard g) := by
  unfold State.discard
  split
  · exact .refl s
  · next b _ =>
    have gone (u : State) (h : u.fns = (releaseAnswers g b b.answers (releasePend g b.pend s)).fns) : KeepsInvs s u :=
      .of_fns (by rw [h, releaseAnswers_fns, releasePend_fns])
    simp only
    split
    · exact gone _ rfl
    · refine KeepsInvs.trans (gone _ rfl) (KeepsInvs.modFn _ _ _ ?_)
      exact fun _ => rfl

/-! ## AG requests performed -/

theorem write_keepsInvs (s : State) (a : Nat) (bs : List Byte) (before_ : List Point) (own : Option Nat) (agent : Nat) :
    KeepsInvs s (s.write a bs before_ own agent) := by
  unfold State.write
  simp only
  split
  · exact KeepsInvs.trans (.of_fns rfl) (discard_keepsInvs _ _)
  · exact .of_fns rfl

theorem lives_fns (item : Nat) (at_ : State → Nat → Nat) (is : List Nat) (s : State) : (is.foldl (fun s i => s.life item (at_ s i) 1) s).fns = s.fns :=
  foldl_keeps State.fns _ (fun t i => State.life_fns t item (at_ t i) 1) is s

theorem hbmRead_fns (s : State) (a n : Nat) : (s.hbmRead a n).fns = s.fns := by
  by_cases inside : hbmAt ≤ a ∧ a < hbmAt + 2 ^ 52 ∧ 0 < n
  · simp only [State.hbmRead, if_pos inside]
    generalize (a - hbmAt) / 32 = lo
    exact lives_fns 7 (fun t i => t.stackOf (32 * (lo + i))) _ s
  · rw [State.hbmRead, if_neg inside]

theorem served_fns (s : State) (g a phys n : Nat) : (s.served g a phys n).fns = s.fns := by
  unfold State.served
  refine (hbmRead_fns _ _ _).trans ?_
  split
  · rfl
  · simp only
    repeat' split
    all_goals rfl

theorem agReply_keepsInvs (s : State) (g st k : Nat) : KeepsInvs s (nextOr s (execAgReply g st k s)) := by
  unfold execAgReply
  split
  · exact .refl s
  · next r _ _ =>
    simp only
    split
    · exact .refl s
    · split
      · exact .of_fns rfl
      · exact .refl s
    · split_ifs
      · exact .refl s
      · exact .of_fns rfl
      · exact .of_fns (hbmRead_fns _ _ _)

theorem agStorePerformed_keepsInvs (s : State) (g st k : Nat) : KeepsInvs s (nextOr s (execAgStorePerformed g st k s)) := by
  unfold execAgStorePerformed
  split
  · exact .refl s
  · split_ifs
    · exact .refl s
    · exact .of_fns rfl
    · split
      · exact .refl s
      · exact (write_keepsInvs _ _ _ _ _ _).trans (.of_fns rfl)
      · split
        · exact .refl s
        · exact ((KeepsInvs.of_fns (served_fns _ _ _ _ _)).trans (write_keepsInvs _ _ _ _ _ _)).trans (.of_fns rfl)

theorem quiesceAg_keepsInvs (g i n : Nat) (s : State) : KeepsInvs s (quiesceAg g i n s) := by
  induction n generalizing s with
  | zero => exact .refl s
  | succ n ih => exact ((agStorePerformed_keepsInvs s g _ _).trans (agReply_keepsInvs _ g _ _)).trans (ih _)

theorem settleHost_keepsInvs (s : State) (g lo n : Nat) : KeepsInvs s (s.settleHost g lo n) := by
  unfold State.settleHost
  simp only
  refine KeepsInvs.trans ?_ (KeepsInvs.foldl _ (fun t e => ?_) _ _)
  · split
    · exact discard_keepsInvs s g
    · exact .refl s
  · split
    · exact quiesceAg_keepsInvs g _ _ t
    · exact .refl t

end Sys2Proof.Machine
end

section
/-! What the device does for a function, and the TDISP and IDE steps of the host (R27, R48, R251 to R253, R311 to R313, R317, R445 to R447). -/

namespace Sys2Proof.Machine

/-! ## Rings (R48, R311, R312) -/

section
variable {s : State} {vf ring : Nat}

theorem ringDrainComplete_done (draining : ((s.fn vf).ring ring).st = 2) (recorded : ((s.fn vf).ring ring).pendingRecs = 0) :
    exec (.ringDrainComplete vf ring) s = .next (s.withRing vf ring fun r => { r with st := 0, ridx := r.widx, teardown := 0 }) :=
  if_pos ⟨draining, recorded⟩

theorem ringDrainComplete_waits (h : ((s.fn vf).ring ring).st ≠ 2 ∨ ((s.fn vf).ring ring).pendingRecs ≠ 0) :
    exec (.ringDrainComplete vf ring) s = .next s :=
  if_neg (by omega)

theorem ringFetch_idle (h : ((s.fn vf).ring ring).st ≠ 1 ∨ ((s.fn vf).ring ring).ridx = ((s.fn vf).ring ring).widx) (ok : Bool) :
    exec (.ringFetch vf ring ok) s = .next s :=
  if_pos h

theorem ringFetch_active (active : ((s.fn vf).ring ring).st = 1) (left : ((s.fn vf).ring ring).ridx ≠ ((s.fn vf).ring ring).widx) (ok : Bool) :
    let r := (s.fn vf).ring ring
    let a := hostAt vf + r.base + 64 * r.ridx
    exec (.ringFetch vf ring ok) s =
      if ok = false ∨ s.bad a 64 = true then .next (s.ringError vf ring 5)
      else .next ((s.withRing vf ring fun r => { r with ridx := (r.ridx + 1) % r.size, fetched := r.fetched + 1, pendingRecs := r.pendingRecs + 1 }).message
        (.ring vf ring r.ridx (r.fetched + 1) (leAt (s.bytes a 64) 0 4)) (s.bytes a 64)) :=
  if_neg (by omega)

end

/-! ## Translations (R251, R252) -/

theorem tinvRange_eq (kind addr : Nat) : tinvRange kind addr = if kind = 2 then (0, 2 ^ 64) else
    (4096 * field addr 12 44 / (4096 * 4 ^ field addr 0 4) * (4096 * 4 ^ field addr 0 4), 4096 * 4 ^ field addr 0 4) := by
  simp [tinvRange, bits, field, Nat.shiftRight_eq_div_pow]

/-- A change of every glade's cache entries. -/
theorem glade_tlb_map (l : NatMap Glade) (f : Nat × Glade → Glade) (p : List Tlb → List Tlb) (hp : p [] = []) (hf : ∀ x, (f x).tlb = p x.2.tlb) (g : Nat) :
    (nget {} (l.map fun x => (x.1, f x)) g).tlb = p (nget {} l g).tlb := by
  simp only [nget, nfind_map]
  cases nfind l g with
  | none => exact hp.symm
  | some x => exact hf (g, x)

section
variable (s : State) (p : Tlb → Bool)

theorem dropTlb_glade (g : Nat) : ((s.dropTlb p).glade g).tlb = (s.glade g).tlb.filter fun t => !p t :=
  glade_tlb_map s.glades _ (·.filter fun t => !p t) rfl (fun _ => rfl) g

theorem dropTlb_clearing (c : Nat) : ((s.dropTlb p).clearing c).tlb = (s.clearing c).tlb.filter fun t => !p t := by
  simp only [State.clearing, State.dropTlb, nget]
  rw [nfind_map s.clearings (fun x => { x.2 with tlb := x.2.tlb.filter fun t => !p t })]
  cases nfind s.clearings c <;> rfl

end

/-- The faults that a context's walks have met are forgotten. -/
def State.forgetFaults (s : State) (ctx : Nat) : State :=
  { s with glades := s.glades.map fun x => (x.1, { x.2 with walkFaults := x.2.walkFaults.filter fun f => decide (f.1 ≠ ctx) }) }

theorem forgetFaults_tlb (s : State) (ctx g : Nat) : ((s.forgetFaults ctx).glade g).tlb = (s.glade g).tlb :=
  glade_tlb_map s.glades (fun x => { x.2 with walkFaults := x.2.walkFaults.filter fun f => decide (f.1 ≠ ctx) }) id rfl (fun _ => rfl) g

section
variable {s : State} {vf kind ctx addr lo n : Nat} {rest : List (Nat × Nat × Nat)} (q : (s.fn vf).tinvQ = (kind, ctx, addr) :: rest) (range : tinvRange kind addr = (lo, n))
include q range

theorem tinvComplete_waits (h : s.translating ctx lo n = true) : exec (.tinvComplete vf) s = .next s := by
  change execTinvComplete vf s = _
  simp only [execTinvComplete, q, range, h, if_true]

theorem tinvComplete_done (h : s.translating ctx lo n = false) : exec (.tinvComplete vf) s =
    .next (((s.dropTlb fun t => decide (t.owner = ctx ∧ t.host = false ∧ t.base < lo + n ∧ lo < t.base + t.size)).forgetFaults ctx).modFn vf fun f =>
      { f with tinvQ := rest, tinvDone := f.tinvDone + 1 }) := by
  change execTinvComplete vf s = _
  simp only [execTinvComplete, q, range, h, Bool.false_eq_true, if_false]
  rfl

end

/-! ## Interrupts (R447) -/

section
variable {s : State} {fn vec : Nat}

/-- A vector may be sent: it is signalled, and its last message was a µs ago (R447). -/
def State.msixDue (s : State) (fn vec : Nat) : Prop := vec ∈ (s.fn fn).msixPend ∧ ∀ w, nfind (s.fn fn).msixAt vec = some w → w + usWall ≤ s.wall

theorem msixMessage_waits (h : ¬s.msixDue fn vec) : exec (.msixMessage fn vec) s = .next s := by
  refine if_pos ?_
  by_contra early
  obtain ⟨signalled, late⟩ := not_or.1 early
  refine h ⟨not_not.1 signalled, fun w at_ => ?_⟩
  simpa [at_] using late

theorem msixMessage_sent (due : s.msixDue fn vec) : exec (.msixMessage fn vec) s =
    .next ((s.modFn fn fun f => { f with msixPend := f.msixPend.filter (· ≠ vec), msixAt := nset f.msixAt vec s.wall }).request fn (.msix vec)) := by
  obtain ⟨signalled, late⟩ := due
  refine if_neg ?_
  split
  · next w at_ => simpa [signalled] using late w at_
  · simpa using signalled

end

end Sys2Proof.Machine
end

section
/-! Invalidations and pages of the host, page requests, and the TDISP and IDE steps (R27, R252, R253, R317, R445, R446). -/

namespace Sys2Proof.Machine

/-- The host port enumerates a function (R27, R453). -/
theorem enumerates_eq_true (s : State) (fn : Nat) : s.enumerates fn = true ↔ s.pk.power ≠ 0 ∧ (fn = 0 ∨ s.pk.partOk = true) := by
  simp [State.enumerates]

/-! ## Invalidations of the host (R252, R445) -/

section
variable {s : State} {vf addr size : Nat}

theorem atsInvalidate_taken (there : s.enumerates vf = true) (isVf : 1 ≤ vf ∧ vf ≤ 63) (room : (s.fn vf).invQ.length < 32) :
    exec (.atsInvalidate vf addr size) s = .next (s.modFn vf fun f => { f with invQ := f.invQ ++ [(addr, size)] }) :=
  if_neg (by simp only [there, Bool.true_eq_false, false_or]; omega)

theorem atsInvalidate_refused (h : ¬s.enumerates vf = true ∨ ¬(1 ≤ vf ∧ vf ≤ 63) ∨ 32 ≤ (s.fn vf).invQ.length) :
    exec (.atsInvalidate vf addr size) s = .next s :=
  if_pos (h.imp Bool.eq_false_iff.2 (by omega))

/-- An entry that an invalidation of a VF covers. -/
def Tlb.covered (vf addr size : Nat) (t : Tlb) : Bool := t.host && decide (t.owner = vf ∧ t.base < addr + size ∧ addr < t.base + t.size)

theorem Tlb.covered_iff (vf addr size : Nat) (t : Tlb) :
    t.covered vf addr size = true ↔ t.host = true ∧ t.owner = vf ∧ t.base < addr + size ∧ addr < t.base + t.size := by
  simp [Tlb.covered]

/-- The oldest invalidation completes last of all with its answer; before it the covered entries have gone, and before them the accesses were settled. -/
theorem invalidated_eq {rest : List (Nat × Nat)} (q : (s.fn vf).invQ = (addr, size) :: rest) :
    ∃ u, KeepsInvs (s.modFn vf fun f => { f with invQ := rest }) u ∧ s.invalidated vf = (u.dropTlb (Tlb.covered vf addr size)).request vf .atsInvDone := by
  refine ⟨(nkeys s.glades fun _ x => x.cur.place.any fun p => decide (p.vf = vf)).foldl (fun s g => s.settleHost g addr size)
    (s.modFn vf fun f => { f with invQ := rest }), KeepsInvs.foldl _ (fun t g => settleHost_keepsInvs t g addr size) _ _, ?_⟩
  simp only [State.invalidated, q]
  rfl

end

/-! ## Pages of the host (R252, R253, R317) -/

/-- The first page that meets a test is changed or removed; the others stay. -/
theorem modFirst_found {p : HostPage → Bool} {before after : List HostPage} {h : HostPage} (f : HostPage → Option HostPage)
    (others : ∀ x ∈ before, p x = false) (hit : p h = true) : modFirst p f (before ++ h :: after) = before ++ (f h).toList ++ after := by
  induction before with
  | nil =>
    simp only [List.nil_append, modFirst, hit, if_true]
    cases f h <;> rfl
  | cons x before ih =>
    have skip : p x = false := others x (List.mem_cons_self ..)
    simp only [List.cons_append, modFirst, skip, Bool.false_eq_true, if_false]
    rw [ih fun y at_ => others y (List.mem_cons_of_mem _ at_)]

theorem find?_found {α : Type} {p : α → Bool} {before after : List α} {h : α} (others : ∀ x ∈ before, p x = false) (hit : p h = true) :
    (before ++ h :: after).find? p = some h :=
  List.find?_eq_some_iff_append.2 ⟨hit, before, after, rfl, by simpa using others⟩

/-- Two changes of a function that agree on what it holds are the same change. -/
theorem modFn_congr {s : State} {n : Nat} {f g : Fn → Fn} (h : f (s.fn n) = g (s.fn n)) : s.modFn n f = s.modFn n g :=
  congrArg (fun x => ({ s with fns := nset s.fns n x } : State)) h

section
variable {s : State} {vf page : Nat} {h : HostPage} {before after : List HostPage}

/-- A page waits for a page request index. -/
def HostPage.queuedFor (page : Nat) (h : HostPage) : Bool := decide (h.page = page ∧ h.wait = .queued)

theorem waitPrg_eq (pages : (s.fn vf).pages = before ++ h :: after) (hit : h.queuedFor page = true) (others : ∀ x ∈ before, x.queuedFor page = false) (k : Nat) :
    s.waitPrg vf page k = s.modFn vf fun f => { f with pages := before ++ { h with wait := .prq k } :: after } := by
  refine modFn_congr ?_
  have at_ := modFirst_found (after := after) (fun x => some { x with wait := .prq k }) others hit
  rw [Option.toList_some, List.append_assoc, List.singleton_append, ← pages] at at_
  exact congrArg (fun l => ({ s.fn vf with pages := l } : Fn)) at_

theorem pageRequest_joins {k : Nat} (found : (s.fn vf).pages.find? (HostPage.queuedFor page) = some h) (entry : (s.fn vf).entryOf page = some k) :
    exec (.pageRequest vf page) s = .next (s.waitPrg vf page k) := by
  change execPageRequest vf page s = _
  unfold HostPage.queuedFor at found
  simp only [execPageRequest, found, entry]

theorem pageRequest_sends {k : Nat} (found : (s.fn vf).pages.find? (HostPage.queuedFor page) = some h) (entry : (s.fn vf).entryOf page = none)
    (free : (s.fn vf).freePrg = some k) :
    exec (.pageRequest vf page) s = .next (((s.modFn vf fun f => { f with prq := nset f.prq k ⟨page, h.wr, f.incarn, s.wall⟩ }).waitPrg vf page k).request vf
      (.pageRequest k page h.wr)) := by
  change execPageRequest vf page s = _
  unfold HostPage.queuedFor at found
  simp only [execPageRequest, found, entry, free]

/-- The entry that a page has already is the first of this incarnation that names it (R317). -/
theorem entryOf_found {f : Fn} {k : Nat} {e : PrqEnt} {old rest : List (Nat × PrqEnt)} (prq : f.prq = old ++ (k, e) :: rest) (mine : e.page = page ∧ e.incarn = f.incarn)
    (others : ∀ x ∈ old, ¬(x.2.page = page ∧ x.2.incarn = f.incarn)) : f.entryOf page = some k := by
  rw [Fn.entryOf, prq, find?_found (h := (k, e)) (fun x at_ => decide_eq_false (others x at_)) (decide_eq_true mine)]
  rfl

theorem entryOf_none {f : Fn} (others : ∀ x ∈ f.prq, ¬(x.2.page = page ∧ x.2.incarn = f.incarn)) : f.entryOf page = none := by
  rw [Fn.entryOf, List.find?_eq_none.2 fun x at_ => by simpa using others x at_]
  rfl

/-- The lowest index that no entry has is the free one (R317). -/
theorem freePrg_lowest {f : Fn} {k : Nat} (small : k < 64) (free : nfind f.prq k = none) (taken : ∀ j < k, nfind f.prq j ≠ none) : f.freePrg = some k := by
  rw [Fn.freePrg, List.find?_range_eq_some]
  refine ⟨by simp [free], List.mem_range.2 small, fun j lower => ?_⟩
  simpa [Option.isSome_iff_ne_none] using taken j lower

end

section
variable {s : State} {vf idx : Nat} {e : PrqEnt} (entry : nfind (s.fn vf).prq idx = some e)
include entry

theorem prgResponse_eq (ok : Bool) :
    let freed := s.modFn vf fun f => { f with prq := ndel f.prq idx }
    exec (.prgResponse vf idx ok) s =
      .next (if e.incarn = (s.fn vf).incarn then freed.answerPrg vf idx ok else freed.modFn vf fun f => { f with stale := f.stale + 1 }) := by
  change execPrgResponse vf idx ok s = _
  simp only [execPrgResponse, entry, ne_eq, ite_not]
  exact (apply_ite Host.Outcome.next _ _ _).symm

theorem prgTimeout_early (h : s.wall < e.at_ + 100 * msWall) : exec (.prgTimeout vf idx) s = .next s := by
  change execPrgTimeout vf idx s = _
  simp only [execPrgTimeout, entry, h, if_true]

theorem prgTimeout_due (h : e.at_ + 100 * msWall ≤ s.wall) :
    let freed := s.modFn vf fun f => { f with prq := ndel f.prq idx }
    exec (.prgTimeout vf idx) s = .next (if e.incarn = (s.fn vf).incarn then freed.answerPrg vf idx false else freed) := by
  change execPrgTimeout vf idx s = _
  simp only [execPrgTimeout, entry, Nat.not_lt.2 h, if_false, ne_eq, ite_not]

end

/-! ## Translations of the host (R252, R253, R260) -/

/-- A page asks for a translation. -/
def HostPage.asks (page : Nat) (h : HostPage) : Bool := decide (h.page = page) && (match h.wait with
  | .ats _ => true
  | _ => false)

theorem HostPage.asks_iff (page : Nat) (h : HostPage) : h.asks page = true ↔ h.page = page ∧ ∃ b, h.wait = .ats b := by
  unfold HostPage.asks
  cases h.wait <;> simp

/-- What a refusal leaves of a page (R253, R260): nothing where no access waits for it; a failed page after a retry or for LD.T; else one that waits for a page request. -/
def HostPage.refused (h : HostPage) : Option HostPage :=
  if h.waiters = [] then none else some { h with wait := if h.wait = .ats true ∨ h.light = true then .failed else .queued }

theorem HostPage.light_iff (h : HostPage) : h.light = true ↔ ∃ w ∈ h.waiters, w.agent = 4 := by
  simp [HostPage.light]

theorem HostPage.refused_awaited {h : HostPage} {retried : Bool} (awaited : h.waiters ≠ []) (asks : h.wait = .ats retried) :
    h.refused = some { h with wait := if retried = true ∨ ∃ w ∈ h.waiters, w.agent = 4 then .failed else .queued } := by
  simp only [HostPage.refused, if_neg awaited, asks, PageWait.ats.injEq, h.light_iff]

/-- A translation granted enters the caches of every glade where an access waits for its page (R252). -/
def State.cachePage (s : State) (vf page : Nat) (rd wr : Bool) (h : HostPage) : State :=
  (h.waiters.map s.waiterGlade).eraseDups.foldl (fun s g => s.cacheFill g { owner := vf, host := true, base := 4096 * page, size := 4096, rd := rd, wr := wr }) s

section
variable {s : State} {vf page : Nat} {rd wr : Bool} {h : HostPage} {before after : List HostPage}

theorem cachePage_fns : (s.cachePage vf page rd wr h).fns = s.fns := by
  unfold State.cachePage
  refine foldl_keeps State.fns _ (fun _ _ => ?_) _ _
  rfl

theorem cachePage_mem : (s.cachePage vf page rd wr h).mem = s.mem := by
  unfold State.cachePage
  refine foldl_keeps State.mem _ (fun _ _ => ?_) _ _
  rfl

theorem atsCompletion_found (found : (s.fn vf).pages.find? (HostPage.asks page) = some h) :
    exec (.atsTranslationCompletion vf page rd wr) s =
      if (if h.wr then wr else rd) = true then .next ((s.cachePage vf page rd wr h).modFn vf fun f => { f with pages := modFirst (HostPage.asks page) (fun _ => none) f.pages })
      else .next (s.modFn vf fun f => { f with pages := modFirst (HostPage.asks page) HostPage.refused f.pages }) := by
  change (match (s.fn vf).pages.find? (HostPage.asks page) with | none => _ | some h => _) = _
  rw [found]
  rfl

variable (pages : (s.fn vf).pages = before ++ h :: after) (hit : h.asks page = true) (others : ∀ x ∈ before, x.asks page = false)
include pages hit others

theorem atsCompletion_granted (granted : (if h.wr then wr else rd) = true) :
    Reaches (.atsTranslationCompletion vf page rd wr) s fun t => (t.fn vf).pages = before ++ after ∧ t.mem = s.mem := by
  have found : (s.fn vf).pages.find? (HostPage.asks page) = some h := by rw [pages, find?_found others hit]
  refine ⟨_, (atsCompletion_found found).trans (if_pos granted), ?_, cachePage_mem⟩
  have same : (s.cachePage vf page rd wr h).fn vf = s.fn vf := by rw [State.fn, cachePage_fns, State.fn]
  simp [same, pages, modFirst_found (fun _ => none) others hit]

theorem atsCompletion_refused (refused : ¬(if h.wr then wr else rd) = true) :
    exec (.atsTranslationCompletion vf page rd wr) s = .next (s.modFn vf fun f => { f with pages := before ++ h.refused.toList ++ after }) := by
  have found : (s.fn vf).pages.find? (HostPage.asks page) = some h := by rw [pages, find?_found others hit]
  rw [atsCompletion_found found, if_neg refused]
  refine congrArg _ (modFn_congr ?_)
  rw [pages, modFirst_found HostPage.refused others hit]

end

/-! ## TDISP and IDE (R445, R446) -/

section
variable {s : State} {vf : Nat}

theorem tdisp_absent (h : ¬s.enumerates vf = true) (old new : Tdi) : s.tdisp vf old new = .next s := if_pos (Bool.eq_false_iff.2 h)

theorem tdisp_accepted (there : s.enumerates vf = true) {old : Tdi} (h : (s.fn vf).tdi = old) (new : Tdi) :
    s.tdisp vf old new = .next ((s.modFn vf fun f => { f with tdi := new }).emit (.tdisp vf 0)) :=
  (if_neg (by simp [there])).trans (if_pos h)

theorem tdisp_otherState (there : s.enumerates vf = true) {old : Tdi} (h : (s.fn vf).tdi ≠ old) (new : Tdi) : s.tdisp vf old new = .next (s.emit (.tdisp vf 4)) :=
  (if_neg (by simp [there])).trans (if_neg h)

theorem tdispLock_keyless (there : s.enumerates vf = true) (unlocked : (s.fn vf).tdi = .unlocked) (noKey : (s.fn vf).ide = []) :
    exec (.tdispLockInterface vf) s = .next (s.emit (.tdisp vf 1)) :=
  if_pos ⟨there, unlocked, noKey⟩

/-- A lock request that is no INVALID_REQUEST is one of the state alone. -/
theorem tdispLock_eq (h : ¬(s.enumerates vf = true ∧ (s.fn vf).tdi = .unlocked ∧ (s.fn vf).ide = [])) : exec (.tdispLockInterface vf) s = s.tdisp vf .unlocked .locked :=
  if_neg h

theorem ideKey_set (there : s.enumerates vf = true) (isVf : 1 ≤ vf ∧ vf ≤ 63) (key : List Byte) :
    exec (.ideKmKeyProg ⟨vf, key⟩) s = .next (s.modFn vf fun f => { f with ide := sliceB key 0 32 }) :=
  congrArg _ (if_pos ⟨there, isVf⟩)

theorem ideKey_refused (h : ¬s.enumerates vf = true ∨ ¬(1 ≤ vf ∧ vf ≤ 63)) (key : List Byte) : exec (.ideKmKeyProg ⟨vf, key⟩) s = .next s :=
  congrArg _ (if_neg (not_and_or.2 h))

theorem vfReset_done (there : s.enumerates vf = true) (isVf : 1 ≤ vf ∧ vf ≤ 63) : exec (.vfReset vf) s = .next (s.resetVf vf) := if_pos ⟨isVf.1, isVf.2, there⟩

theorem vfReset_refused (h : ¬s.enumerates vf = true ∨ ¬(1 ≤ vf ∧ vf ≤ 63)) : exec (.vfReset vf) s = .next s := if_neg (by tauto)

theorem tdiStop_refused (h : ¬s.enumerates vf = true ∨ ¬(1 ≤ vf ∧ vf ≤ 63)) (e : Bool) : exec (.tdiStop vf e) s = .next s :=
  if_pos (h.imp Bool.eq_false_iff.2 (by omega))

/-- A VF in RUN holds a CONFIDENTIAL job (R446). -/
def State.runsConfidential (s : State) (vf : Nat) : Bool := decide ((s.fn vf).tdi = .run) && s.jobs.any fun j => decide (j.2.vf = vf) && j.2.confidential

theorem runsConfidential_iff : s.runsConfidential vf = true ↔ (s.fn vf).tdi = .run ∧ ∃ c j, (c, j) ∈ s.jobs ∧ j.vf = vf ∧ j.confidential = true := by
  simp [State.runsConfidential]

theorem tdiStop_eq (there : s.enumerates vf = true) (isVf : 1 ≤ vf ∧ vf ≤ 63) (e : Bool) :
    let stopped := s.modFn vf fun f => { f with tdi := if e then .error else .unlocked }
    let left := if s.runsConfidential vf = true then stopped.resetVf vf else stopped
    exec (.tdiStop vf e) s = .next (if e then left else left.emit (.tdisp vf 0)) :=
  if_neg (by simp only [there, Bool.true_eq_false, false_or]; omega)

end

/-! ## The statement -/

/-- Settles O35: each clause is the equation of its event; only an invalidation needs more, that settling the accesses takes none from a function's queue (`invalidated_eq`). -/
theorem hostEvents : Obligations.HostEvents := by
  intro s vf ring f r onIde there isVf
  have enumerated : there ↔ s.enumerates vf = true := (enumerates_eq_true s vf).symm
  refine ⟨ringDrainComplete_done, ringDrainComplete_waits, ringFetch_idle, ?_, ?_, ?_, ?_, ?_, ?_, ?_, ?_, ?_, ?_, ?_, ?_, ?_⟩
  · intro active left a
    refine ⟨(ringFetch_active active left false).trans (if_pos (.inl rfl)), fun clean => (ringFetch_active active left true).trans (if_neg ?_)⟩
    rw [not_or]
    exact ⟨Bool.noConfusion, ne_true_of_eq_false clean⟩
  · intro kind ctx addr rest q
    rw [← tinvRange_eq]
    rcases range : tinvRange kind addr with ⟨lo, n⟩
    refine ⟨tinvComplete_waits q range, fun h => ⟨_, tinvComplete_done q range h, rfl, State.fn_modFn_self .., fun g => ?_⟩⟩
    rw [State.modFn_glade_at, forgetFaults_tlb, dropTlb_glade]
    simp only [← decide_not]
  · intro vec due
    refine ⟨msixMessage_waits, fun h => ⟨_, msixMessage_sent h, ?_, ?_, ?_⟩⟩
    · simp [State.request, onIde, f]
    · simp [State.request]
    · simp [State.request]
  · intro addr size
    exact ⟨fun on own room => atsInvalidate_taken (enumerated.1 on) own room, fun h => atsInvalidate_refused (h.imp_left (mt enumerated.2))⟩
  · intro addr size rest q t
    obtain ⟨u, kept, e⟩ := invalidated_eq q
    have uncovered {l : List Tlb} {x : Tlb} (at_ : x ∈ l.filter fun y => !y.covered vf addr size) :
        ¬(x.host = true ∧ x.owner = vf ∧ x.base < addr + size ∧ addr < x.base + x.size) := by
      have out := (List.mem_filter.1 at_).2
      rw [← Tlb.covered_iff]
      simpa using out
    have done : t = (u.dropTlb (Tlb.covered vf addr size)).request vf .atsInvDone := e
    rw [done]
    refine ⟨(kept vf).trans ?_, ⟨_, _, rfl⟩, fun g x at_ => uncovered (dropTlb_glade u _ g ▸ at_), fun c x at_ => uncovered (dropTlb_clearing u _ c ▸ at_)⟩
    rw [State.fn_modFn_self]
  · intro page h before after pages named queued others joined mine
    have hit : h.queuedFor page = true := decide_eq_true ⟨named, queued⟩
    have skip : ∀ x ∈ before, x.queuedFor page = false := fun x at_ => decide_eq_false (others x at_)
    have found : f.pages.find? (HostPage.queuedFor page) = some h := by rw [pages, find?_found skip hit]
    refine ⟨fun k e old rest prq own first => ?_, fun none k small free taken => ?_⟩
    · rw [pageRequest_joins found (entryOf_found prq own first), waitPrg_eq pages hit skip]
    · refine ⟨_, pageRequest_sends found (entryOf_none none) (freePrg_lowest small free taken), ?_⟩
      rw [waitPrg_eq (by rw [State.fn_modFn_self]; exact pages) hit skip]
      simp [State.request, onIde, f, joined]
  · intro idx e entry freed
    exact ⟨prgResponse_eq entry, prgTimeout_early entry, prgTimeout_due entry⟩
  · intro page rd wr h retried before after pages named asks others granted light
    have hit : h.asks page = true := (HostPage.asks_iff page h).2 ⟨named, retried, asks⟩
    have skip (x) (at_ : x ∈ before) : x.asks page = false :=
      Bool.eq_false_iff.2 fun on => by
        obtain ⟨own, b, wait⟩ := (HostPage.asks_iff page x).1 on
        exact others x at_ own b wait
    refine ⟨atsCompletion_granted pages hit skip, fun refused => ⟨_, atsCompletion_refused pages hit skip refused, rfl, rfl, ?_⟩⟩
    rw [State.fn_modFn_self]
    refine ⟨fun unawaited => ?_, fun awaited failed => ?_, fun awaited first dark => ?_⟩
    · simp [HostPage.refused, unawaited]
    · simp [HostPage.refused_awaited awaited asks, show retried = true ∨ ∃ w ∈ h.waiters, w.agent = 4 from failed]
    · simp [HostPage.refused_awaited awaited asks, show ¬(retried = true ∨ ∃ w ∈ h.waiters, w.agent = 4) from not_or.2 ⟨ne_true_of_eq_false first, dark⟩]
  · intro becomes
    refine ⟨fun off => ?_, fun on unlocked keyed => ?_, fun on unlocked keyless => ?_, fun on other => ?_, fun on locked => ?_, fun on other => ?_⟩
    · have absent := mt enumerated.2 off
      exact ⟨(tdispLock_eq fun h => absent h.1).trans (tdisp_absent absent _ _), tdisp_absent absent _ _⟩
    · exact (tdispLock_eq fun h => keyed h.2.2).trans (tdisp_accepted (enumerated.1 on) unlocked _)
    · exact tdispLock_keyless (enumerated.1 on) unlocked keyless
    · exact (tdispLock_eq fun h => other h.2.1).trans (tdisp_otherState (enumerated.1 on) other _)
    · exact tdisp_accepted (enumerated.1 on) locked _
    · exact tdisp_otherState (enumerated.1 on) other _
  · intro key
    exact ⟨fun on own => ideKey_set (enumerated.1 on) own key, fun h => ideKey_refused (h.imp_left (mt enumerated.2)) key⟩
  · intro e stopped leaves said
    refine ⟨fun on own stays => ?_, fun on own gone => ?_, fun h => tdiStop_refused (h.imp_left (mt enumerated.2)) e⟩
    · rw [tdiStop_eq (enumerated.1 on) own e, if_neg (mt runsConfidential_iff.1 stays)]
    · rw [tdiStop_eq (enumerated.1 on) own e, if_pos (runsConfidential_iff.2 gone)]
  · exact fun on own => vfReset_done (enumerated.1 on) own
  · exact fun h => vfReset_refused (h.imp_left (mt enumerated.2))

end Sys2Proof.Machine
end

section
/-! The in-field test of a clearing that more than 64 contexts have used, where the jobs are not listed by rising context (R402, R426, R427). -/

namespace Sys2Proof.Machine

/-- A job with partition 0 on die 0 and no room in its save area. -/
def bandJob : Job := { partitions := [0], gladeCap := 0 }

/-- Launch 0 of job 1 is held at its boundary in glade 0, with a link order of which a tile is in flight. -/
def heldUnit : Bough :=
  { place := some { die := 0, launch := 0, arm := 0, upos := 0, ux := 0, uy := 0, w := 1, h := 1, present := 1, ctx := 1, vf := 1, incarn := 0 }
    eng := { queues := [(1, [{ kind := 5, state := 1, tiles := [(0, 0)] }])] } }

/-- The test of clearing 0 is due. More than 64 contexts have been there, so every job of the die is exposed: jobs 5 and 1, listed in this order. -/
def unorderedExposed : State :=
  { wall := 100 * msWall, glades := [(0, { cur := heldUnit })], dies := [(0, { launches := [(0, { arm := 0, ctx := 1, stage := .running, held := true })] })]
    clearings := [(0, { requested := true, contexts := List.replicate 65 0 })], jobs := [(5, bandJob), (1, bandJob)] }

theorem unorderedExposed_due : unorderedExposed.testDue 0 = true := by decide +kernel

theorem unorderedExposed_exposed : unorderedExposed.exposed 0 = [5, 1] := by decide +kernel

/-- The tile's bytes are counted for job 1 as the launch quiesces, which lists that job before job 5 too; so the failed test counts it SUSPECT twice. -/
theorem unorderedExposed_fails : ∃ t, exec (.infieldTest 0 false) unorderedExposed = .next t ∧ nget 0 (t.job 1).usage 15 = 2 :=
  ⟨_, rfl, by decide +kernel⟩

/-- Refutes O32: in `unorderedExposed` the failed test of clearing 0 counts two SUSPECT for job 1, which is exposed once. The clause speaks of every state, also of one whose jobs are not listed
by rising context: there a usage count made while a launch is moved puts a changed copy of its job in front of the others, and the exposed jobs are listed after that. -/
theorem not_infieldTest : ¬ Obligations.InfieldTest := by
  intro h
  obtain ⟨_, due⟩ := h unorderedExposed 0 false (by decide)
  obtain ⟨_, _, failed⟩ := due unorderedExposed_due
  obtain ⟨u, runs, _, _, _, _, _, _, _, suspects, _⟩ := failed rfl
  obtain ⟨t, runs', twice⟩ := unorderedExposed_fails
  rw [runs] at runs'
  cases runs'
  rw [unorderedExposed_exposed] at suspects
  obtain ⟨once, _⟩ := suspects (by decide) 1 (by decide)
  have before : nget 0 (unorderedExposed.job 1).usage 15 = 0 := by decide +kernel
  rw [twice, before] at once
  exact absurd once (by decide)

end Sys2Proof.Machine
end

section
/-! A tagged message of a ring at the arm table's front end (R47 to R50, R313): rejected with its record, or the launch that it fires. -/

namespace Sys2Proof.Machine

/-! ## The entries that a message matches (R48) -/

theorem mem_nkeys {α : Type} {m : NatMap α} {p : Nat → α → Bool} {k : Nat} : k ∈ nkeys m p ↔ ∃ v, (k, v) ∈ m ∧ p k v = true := by
  simp [nkeys]

/-- An armed entry of a context and a tag that a message fires. -/
def ArmEnt.fires (c tag : Nat) (a : ArmEnt) : Bool := decide (a.st = .armed ∧ a.kind ≠ 2 ∧ a.ctx = c ∧ a.tag = tag)

theorem ArmEnt.fires_iff {c tag : Nat} {a : ArmEnt} : a.fires c tag = true ↔ a.st = .armed ∧ a.kind ≠ 2 ∧ a.ctx = c ∧ a.tag = tag := decide_eq_true_iff

/-- The (die, index) of the entries that a message of a context and a tag matches. -/
def State.firedBy (s : State) (c tag : Nat) : List (Nat × Nat) :=
  (List.range 4).flatMap fun d => (nkeys (s.die d).arms fun _ a => a.fires c tag).map fun e => (d, e)

theorem mem_firedBy {s : State} {c tag d e : Nat} : (d, e) ∈ s.firedBy c tag ↔ d < 4 ∧ ∃ a, (e, a) ∈ (s.die d).arms ∧ a.fires c tag = true := by
  simp [State.firedBy, mem_nkeys]

/-- The entry that an index word of a die and an index names. -/
theorem arm_indexWord (s : State) {d e : Nat} (hd : d < 4) (he : e < 4096) : s.arm (4096 * d + e) = nget {} (s.die d).arms e := by
  have die : bits (4096 * d + e) 13 12 = d := by simp only [bits, Nat.shiftRight_eq_div_pow]; omega
  have index : bits (4096 * d + e) 11 0 = e := by simp only [bits, Nat.shiftRight_eq_div_pow]; omega
  rw [State.arm, die, index]

/-! ## The fields of a message (R47) -/

/-- A message whose context is one and whose reserved bytes are 0. -/
def messageFormed (m : List Byte) : Prop := leAt m 4 2 < 1024 ∧ leAt m 6 2 = 0 ∧ leAt m 8 8 < 2 ^ 56 ∧ leAt m 16 48 = 0

theorem admits_ring {s : State} {vf ring idx ordinal tag c : Nat} :
    s.admits (.ring vf ring idx ordinal tag) c = true ↔ ∃ j, nfind s.jobs c = some j ∧ j.ending = false ∧ j.vf = vf := by
  simp only [State.admits]
  cases e : s.openJob c with
  | none =>
    refine iff_of_false (by simp) fun ⟨j, found, live, _⟩ => ?_
    rw [(openJob_eq_some s c j).2 ⟨found, live⟩] at e
    cases e
  | some j =>
    obtain ⟨found, live⟩ := (openJob_eq_some s c j).1 e
    simp [found, live]

section
variable {s : State} {o : Origin} {m : List Byte}

theorem message_malformed (bad : ¬messageFormed m) : s.message o m = s.reject o 0x180 (leAt m 0 4) (leAt m 4 2) :=
  if_pos (by unfold messageFormed at bad; omega)

variable (formed : messageFormed m)
include formed

theorem message_formed : s.message o m = if s.admits o (leAt m 4 2) = false then s.reject o 0x180 (leAt m 0 4) (leAt m 4 2) else
    match s.firedBy (leAt m 4 2) (leAt m 0 4) with
    | [] => s.reject o 0x14B (leAt m 0 4) (leAt m 4 2)
    | (d, e) :: _ =>
      if (s.arm (4096 * d + e)).kind = 0 then (s.fireLaunch d e (leAt m 8 8) (some o) none).1
      else if (s.arm (4096 * d + e)).running = false then s.startInstance d e (leAt m 8 8) (some o)
      else if (s.arm (4096 * d + e)).waiting.length < 16 then s.modArm d e fun a => { a with waiting := a.waiting ++ [(o, leAt m 8 8)] }
      else s.reject o 0x14A (leAt m 0 4) (leAt m 4 2) := by
  have unreserved : ¬(1024 ≤ leAt m 4 2 ∨ leAt m 6 2 ≠ 0 ∨ 2 ^ 56 ≤ leAt m 8 8 ∨ leAt m 16 48 ≠ 0) := by unfold messageFormed at formed; omega
  simp only [State.message, if_neg unreserved, Nat.mod_eq_of_lt formed.1] <;> rfl

theorem message_foreign (foreign : s.admits o (leAt m 4 2) = false) : s.message o m = s.reject o 0x180 (leAt m 0 4) (leAt m 4 2) := by
  rw [message_formed formed, if_pos foreign]

variable (own : s.admits o (leAt m 4 2) = true)
include own

theorem message_unmatched (none : s.firedBy (leAt m 4 2) (leAt m 0 4) = []) : s.message o m = s.reject o 0x14B (leAt m 0 4) (leAt m 4 2) := by
  rw [message_formed formed, if_neg (by simp [own]), none]

theorem message_standalone {d e : Nat} {rest : List (Nat × Nat)} (hit : s.firedBy (leAt m 4 2) (leAt m 0 4) = (d, e) :: rest) (alone : (s.arm (4096 * d + e)).kind = 0) :
    s.message o m = (s.fireLaunch d e (leAt m 8 8) (some o) none).1 := by
  rw [message_formed formed, if_neg (by simp [own]), hit]
  exact if_pos alone

end

/-! ## The launch fired (R50) -/

/-- The launch that an entry fires at a wall time. -/
def firedLaunch (a : ArmEnt) (e wall payload : Nat) (origin : Option Origin) (root : Option Nat) : Launch :=
  { arm := e, ctx := a.ctx, cls := a.cls, eligAt := wall, payload := payload, origin := origin, root := root, units := a.images.map fun i => { w := imgW i, h := imgH i } }

theorem fireLaunch_die (s : State) (d e payload : Nat) (origin : Option Origin) (root : Option Nat) :
    (s.fireLaunch d e payload origin root).1.die d =
      { s.die d with launches := nset (s.die d).launches (s.die d).nextLaunch (firedLaunch (nget {} (s.die d).arms e) e s.wall payload origin root), nextLaunch := (s.die d).nextLaunch + 1 } :=
  State.die_modDie_self ..

theorem fireLaunch_mem (s : State) (d e payload : Nat) (origin : Option Origin) (root : Option Nat) : (s.fireLaunch d e payload origin root).1.mem = s.mem := rfl

/-- Settles O37: a message that is not well formed, or not of an open job of its VF, or that no entry matches is rejected; where one standalone entry alone matches, it heads the list of matches
and fires. -/
theorem taggedMessages : Obligations.TaggedMessages := by
  intro s vf ring idx ordinal m tag c payload o formed mine fires rejected
  have fired {d e : Nat} : (d, e) ∈ s.firedBy c tag ↔ d < 4 ∧ ∃ a, fires d e a := by simp only [mem_firedBy, ArmEnt.fires_iff, fires]
  have own : s.admits o c = true ↔ mine := admits_ring
  refine ⟨fun h => ?_, fun wf job unmatched => ?_, fun wf job d small e a hit entry index alone unique _ => ?_⟩
  · by_cases wf : messageFormed m
    · exact message_foreign wf (Bool.eq_false_iff.2 fun on => h ⟨wf, own.1 on⟩)
    · exact message_malformed wf
  · refine message_unmatched wf (own.2 job) (List.eq_nil_iff_forall_not_mem.2 fun ⟨d, e⟩ at_ => ?_)
    obtain ⟨small, a, hit⟩ := fired.1 at_
    exact unmatched d small e a hit
  · obtain ⟨x, rest, list⟩ := List.exists_cons_of_ne_nil (List.ne_nil_of_mem (fired.2 ⟨small, a, hit⟩))
    have first : x = (d, e) := by
      obtain ⟨small', a', hit'⟩ := fired.1 (list ▸ List.mem_cons_self)
      exact Prod.ext_iff.2 (unique x.1 small' x.2 a' hit')
    have looked : nget {} (s.die d).arms e = a := by rw [nget, entry, Option.getD_some]
    have fire : s.message o m = (s.fireLaunch d e payload (some o) none).1 :=
      message_standalone wf (own.2 job) (first ▸ list) (by rw [arm_indexWord s small index, looked, alone])
    have die := fireLaunch_die s d e payload (some o) none
    rw [looked, ← fire] at die
    refine ⟨?_, ?_, fun k other => ?_, fire ▸ fireLaunch_mem ..⟩
    · rw [State.launch, die, nfind_nset_self, firedLaunch, hit.2.2.2.1]
    · rw [die]
    · rw [State.launch, die, nfind_nset_ne _ _ other.symm, State.launch]

end Sys2Proof.Machine
end

section
/-! The start of a launch where a glade is listed twice (R22, R38, R39). -/

namespace Sys2Proof.Machine

/-- A unit of launch 0 of die 0, in the bough of a glade that is the active one or not. -/
def placedUnit (b : Bool) : Glade :=
  { active := b, cur := { place := some { die := 0, launch := 0, arm := 0, upos := 0, ux := 0, uy := 0, w := 1, h := 1, present := 1, ctx := 0, vf := 1, incarn := 0 } } }

/-- A placed launch. -/
def placedLaunch : Launch := { arm := 0, ctx := 0, stage := .placed }

/-- Glades 0 and 1 of clearing 0 are listed twice: first empty, as every look-up finds them, then with a unit of launch 0, in the one bough of glade 0 and in the other of glade 1. -/
def doubleGlades : State :=
  { glades := [(0, {}), (0, placedUnit true), (1, {}), (1, placedUnit false)], dies := [(0, { launches := [(0, placedLaunch)] })] }

theorem doubleGlades_sides : doubleGlades.sides 0 0 = [(0, true), (1, false)] := by decide +kernel

theorem doubleGlades_canTake : ∀ x ∈ doubleGlades.sides 0 0, doubleGlades.canTakeGlade 0 placedLaunch x = true := by decide +kernel

/-- The clearing takes the one bough for glade 0 and then the other for glade 1. -/
theorem doubleGlades_start : ∃ t, exec (.launchStart 0 0) doubleGlades = .next t ∧ (t.glade 0).active = false :=
  ⟨_, rfl, by decide +kernel⟩

/-- Refutes O38: in `doubleGlades` the start of launch 0 leaves glade 0 with the other bough active than the one its unit is listed in. The clause speaks of every state, also of one whose glades are
listed twice: there the test for residence does not see the units that are listed second, of which two lie in different boughs of one clearing. -/
theorem not_launchEvents : ¬ Obligations.LaunchEvents := by
  intro h
  obtain ⟨_, _, _, start, _, _⟩ := h doubleGlades 0 0 placedLaunch rfl
  obtain ⟨t, runs, _, active⟩ := start rfl doubleGlades_canTake (by rw [doubleGlades_sides]; decide)
  obtain ⟨u, runs', other⟩ := doubleGlades_start
  rw [runs] at runs'
  cases runs'
  have mine := (active (0, true) (by rw [doubleGlades_sides]; decide)).1
  rw [other] at mine
  exact absurd mine (by decide)

end Sys2Proof.Machine
end

section
/-! The cancels of a forester past the four dies (R394). -/

namespace Sys2Proof.Machine

/-- Die 0 has a root entry with one queued match, which a cancel has named; a fifth die, of which the machine has none, lists an entry of the same index that nothing has named. -/
def fifthDie : State :=
  { dies := [(0, { arms := [(0, { st := .armed, kind := 1, waiting := [(.link 0 0 0, 0)], cancelWaiting := 1 })] }), (4, { arms := [(0, {})] })] }

theorem fifthDie_calm : (∀ x ∈ (fifthDie.die 4).launches, x.2.unitCancel = []) ∧ (∀ x ∈ (fifthDie.die 4).arms, x.1 < 4096 ∧ x.2.cancelWaiting = 0)
    ∧ (∀ i ∈ (fifthDie.die 4).instances, i.cancelled = false) ∧ ∀ x ∈ fifthDie.jobs, x.2.ending = false := by decide +kernel

/-- The number of an arm entry has two bits for its die, so die 4's entry is looked up on die 0: the match queued there is cancelled, and its job's counter advances. -/
theorem fifthDie_cancels : ∃ t, exec (.cancelProcess 4) fifthDie = .next t ∧ t.jobs ≠ [] := ⟨_, rfl, by decide +kernel⟩

/-- Refutes O40: in `fifthDie` the cancel pass of die 4, which is asked for nothing, cancels a match of die 0 and so changes a job. The clause speaks of every die number, also of one
past the machine's four dies. -/
theorem not_foresterPasses : ¬ Obligations.ForesterPasses := by
  intro h
  obtain ⟨_, _, _, _, ⟨idle, _⟩, _, _⟩ := h fifthDie 4
  obtain ⟨t, runs, _, jobs, _, _⟩ := idle fifthDie_calm rfl
  obtain ⟨u, runs', changed⟩ := fifthDie_cancels
  rw [runs] at runs'
  cases runs'
  exact changed jobs

end Sys2Proof.Machine
end

section
/-! A launch changed, and what swaps (R44, R55, R420) read of the launches. -/

namespace Sys2Proof.Machine

/-! ## A launch changed -/

section
variable (s : State) (d n : Nat) (f : Launch → Launch)

@[simp] theorem launch_modLaunch_self : (s.modLaunch d n f).launch d n = (s.launch d n).map f := by
  simp only [State.launch, State.modLaunch, State.die_modDie_self]
  cases e : nfind (s.die d).launches n <;> simp [e]

/-- What a change of launches keeps of a die it keeps of every die. -/
theorem die_modLaunch_same {α : Type} (r : Die → α) (hr : ∀ x ls, r { x with launches := ls } = r x) (h : Nat) : r ((s.modLaunch d n f).die h) = r (s.die h) := by
  rw [State.modLaunch, State.die_modDie]
  split
  · next e =>
    subst e
    split
    · exact hr _ _
    · rfl
  · rfl

@[simp] theorem arms_modLaunch (h : Nat) : ((s.modLaunch d n f).die h).arms = (s.die h).arms := die_modLaunch_same s d n f Die.arms (fun _ _ => rfl) h

end

/-- What a change of an arm entry keeps of a die it keeps of every die. -/
theorem die_modArm_same (s : State) (d e : Nat) (f : ArmEnt → ArmEnt) {α : Type} (r : Die → α) (hr : ∀ x as, r { x with arms := as } = r x) (h : Nat) :
    r ((s.modArm d e f).die h) = r (s.die h) := by
  rw [State.modArm, State.die_modDie]
  split
  · next own =>
    subst own
    split
    · exact hr _ _
    · rfl
  · rfl

theorem nfind_arms_modArm (s : State) (d e : Nat) (f : ArmEnt → ArmEnt) : nfind ((s.modArm d e f).die d).arms e = (nfind (s.die d).arms e).map f := by
  simp only [State.modArm, State.die_modDie_self]
  cases h : nfind (s.die d).arms e <;> simp [h]

/-! ## What swaps read of the launches -/

/-- What a swap reads of a launch (R44, R55, R420). -/
def Launch.seen (l : Launch) : Nat × Nat × Stage × Bool × Bool := (l.ctx, l.eff, l.stage, l.saveDue, l.reserving)

/-- What a swap reads of a launch with its number. -/
def seenAs (x : Nat × Launch) : Nat × Nat × Nat × Stage × Bool × Bool := (x.1, x.2.seen)

/-- Two lists in which a swap reads the same launches. -/
def Alike (l m : List (Nat × Launch)) : Prop := ∀ v, (∃ x ∈ l, seenAs x = v) ↔ ∃ y ∈ m, seenAs y = v

theorem Alike.any {l m : List (Nat × Launch)} (h : Alike l m) {p q : Nat × Launch → Bool} (hp : ∀ x y, seenAs x = seenAs y → p x = q y) : l.any p = m.any q := by
  rw [Bool.eq_iff_iff, List.any_eq_true, List.any_eq_true]
  constructor
  · rintro ⟨x, at_, hit⟩
    obtain ⟨y, at', e⟩ := (h (seenAs x)).1 ⟨x, at_, rfl⟩
    exact ⟨y, at', hp x y e.symm ▸ hit⟩
  · rintro ⟨y, at_, hit⟩
    obtain ⟨x, at', e⟩ := (h (seenAs y)).2 ⟨y, at_, rfl⟩
    exact ⟨x, at', (hp x y e).symm ▸ hit⟩

theorem Alike.all {l m : List (Nat × Launch)} (h : Alike l m) {p q : Nat × Launch → Bool} (hp : ∀ x y, seenAs x = seenAs y → p x = q y) : l.all p = m.all q := by
  rw [List.all_eq_not_any_not, List.all_eq_not_any_not, h.any fun x y e => congrArg (!·) (hp x y e)]

/-- An entry set puts nothing but itself in a map. -/
theorem mem_nset {α : Type} {m : NatMap α} {i : Nat} {v : α} {x : Nat × α} (h : x ∈ nset m i v) : x = (i, v) ∨ x ∈ m := by
  induction m <;> grind [nset]

theorem mem_nset_self {α : Type} (m : NatMap α) (i : Nat) (v : α) : (i, v) ∈ nset m i v := by
  induction m <;> grind [nset]

/-- An entry set takes from a map only what a look-up finds at its key. -/
theorem mem_nset_or {α : Type} {m : NatMap α} {i : Nat} (v : α) {x : Nat × α} (h : x ∈ m) : x ∈ nset m i v ∨ (x.1 = i ∧ nfind m i = some x.2) := by
  induction m <;> grind [nset, nfind_cons]

theorem mem_of_nfind {α : Type} {m : NatMap α} {i : Nat} {v : α} (h : nfind m i = some v) : (i, v) ∈ m := by
  induction m <;> grind [nfind_nil, nfind_cons]

theorem alike_nset {m : NatMap Launch} {n : Nat} {l v : Launch} (found : nfind m n = some l) (same : v.seen = l.seen) : Alike (nset m n v) m := by
  have own : seenAs (n, v) = seenAs (n, l) := by rw [seenAs, same, seenAs]
  refine fun w => ⟨fun ⟨x, at_, e⟩ => ?_, fun ⟨y, at_, e⟩ => ?_⟩
  · rcases mem_nset at_ with rfl | old
    · exact ⟨_, mem_of_nfind found, own ▸ e⟩
    · exact ⟨x, old, e⟩
  · rcases mem_nset_or v at_ with stays | ⟨key, first⟩
    · exact ⟨y, stays, e⟩
    · refine ⟨_, mem_nset_self m n v, own.trans (Eq.trans ?_ e)⟩
      have : (n, l) = y := Prod.ext key.symm (Option.some.inj (found.symm.trans first))
      rw [this]

/-- A swap reads the same in two states: the glades, the jobs, the clearings and the time are those before, and of every launch what `Launch.seen` names (R44, R420, R426). -/
structure SameSwaps (s t : State) : Prop where
  glades : t.glades = s.glades
  jobs : t.jobs = s.jobs
  clearings : t.clearings = s.clearings
  wall : t.wall = s.wall
  launch : ∀ d n, (t.launch d n).map Launch.seen = (s.launch d n).map Launch.seen
  listed : ∀ d, Alike (t.die d).launches (s.die d).launches

theorem SameSwaps.trans {s t u : State} (h : SameSwaps s t) (k : SameSwaps t u) : SameSwaps s u where
  glades := k.glades.trans h.glades
  jobs := k.jobs.trans h.jobs
  clearings := k.clearings.trans h.clearings
  wall := k.wall.trans h.wall
  launch d n := (k.launch d n).trans (h.launch d n)
  listed d v := (k.listed d v).trans (h.listed d v)

theorem SameSwaps.flow (s : State) (from_ : List Point) (at_ : Point) : SameSwaps s (s.flow from_ at_) := ⟨rfl, rfl, rfl, rfl, fun _ _ => rfl, fun _ _ => Iff.rfl⟩

theorem SameSwaps.modArm (s : State) (d e : Nat) (f : ArmEnt → ArmEnt) : SameSwaps s (s.modArm d e f) := by
  have same (h : Nat) : ((s.modArm d e f).die h).launches = (s.die h).launches := die_modArm_same s d e f Die.launches (fun _ _ => rfl) h
  exact ⟨rfl, rfl, rfl, rfl, fun h n => by rw [State.launch, same, State.launch], fun h => by rw [same]; exact fun _ => Iff.rfl⟩

theorem SameSwaps.modLaunch (s : State) (d n : Nat) (f : Launch → Launch) (hf : ∀ l, (f l).seen = l.seen) : SameSwaps s (s.modLaunch d n f) := by
  cases e : nfind (s.die d).launches n with
  | none =>
    have same (h : Nat) : (s.modLaunch d n f).die h = s.die h := by
      rw [State.modLaunch, State.die_modDie]
      split
      · next own => simp only [e, own]
      · rfl
    exact ⟨rfl, rfl, rfl, rfl, fun h k => by rw [State.launch, same, State.launch], fun h => by rw [same]; exact fun _ => Iff.rfl⟩
  | some l =>
    have own : ((s.modLaunch d n f).die d).launches = nset (s.die d).launches n (f l) := by simp only [State.modLaunch, State.die_modDie_self, e]
    have other {h : Nat} (ne : h ≠ d) : (s.modLaunch d n f).die h = s.die h := by rw [State.modLaunch, State.die_modDie, if_neg ne]
    refine ⟨rfl, rfl, rfl, rfl, fun h k => ?_, fun h => ?_⟩
    · by_cases eq : h = d
      · subst eq
        rw [State.launch, own, nfind_nset, State.launch]
        split
        · next key => rw [← key, e]; exact congrArg some (hf l)
        · rfl
      · rw [State.launch, other eq, State.launch]
    · by_cases eq : h = d
      · subst eq; rw [own]; exact alike_nset e (hf l)
      · rw [other eq]; exact fun _ => Iff.rfl

section
variable {s t : State}

theorem SameSwaps.sides (h : SameSwaps s t) (d n : Nat) : t.sides d n = s.sides d n := by rw [State.sides, h.glades, State.sides]

theorem SameSwaps.glade (h : SameSwaps s t) (g : Nat) : t.glade g = s.glade g := by rw [State.glade, h.glades, State.glade]

theorem SameSwaps.job (h : SameSwaps s t) (c : Nat) : t.job c = s.job c := by rw [State.job, h.jobs, State.job]

theorem SameSwaps.wantsTest (h : SameSwaps s t) (c : Nat) : t.wantsTest c = s.wantsTest c := by
  rw [State.wantsTest, State.clearing, h.clearings, h.wall, State.wantsTest, State.clearing]

theorem SameSwaps.clearingsOf (h : SameSwaps s t) (d n : Nat) : t.clearingsOf d n = s.clearingsOf d n := by rw [State.clearingsOf, h.sides, State.clearingsOf]

theorem mem_rivals (s : State) (c : Nat) (b : Bool) (x : Nat × Launch) :
    x ∈ s.rivals c b ↔ ∃ g ∈ gladesOf c, ∃ p, ((s.glade g).pick (!b)).place = some p ∧ s.launch p.die p.launch = some x.2 ∧ x.1 = p.launch := by
  rw [State.rivals, List.mem_eraseDups, List.mem_flatMap]
  refine exists_congr fun g => and_congr_right fun _ => ?_
  cases ((s.glade g).pick (!b)).place with
  | none => simp
  | some p =>
    rw [Option.mem_toList, Option.map_eq_some_iff]
    constructor
    · rintro ⟨l, found, rfl⟩; exact ⟨p, rfl, found, rfl⟩
    · rintro ⟨q, e, found, key⟩
      cases e
      exact ⟨x.2, found, Prod.ext key.symm rfl⟩

/-- Of the launches that hold the other bough of a clearing a swap reads the same. -/
theorem SameSwaps.rivals (h : SameSwaps s t) (c : Nat) (b : Bool) : Alike (t.rivals c b) (s.rivals c b) := by
  have half {u v : State} (glade : ∀ g, u.glade g = v.glade g) (launch : ∀ d n, (u.launch d n).map Launch.seen = (v.launch d n).map Launch.seen) {w}
      (hit : ∃ x ∈ u.rivals c b, seenAs x = w) : ∃ y ∈ v.rivals c b, seenAs y = w := by
    obtain ⟨x, at_, e⟩ := hit
    obtain ⟨g, inside, p, place, found, key⟩ := (mem_rivals u c b x).1 at_
    obtain ⟨l, found', same⟩ := Option.map_eq_some_iff.1 ((launch p.die p.launch).symm.trans (congrArg (Option.map Launch.seen) found))
    refine ⟨(p.launch, l), (mem_rivals v c b _).2 ⟨g, inside, p, glade g ▸ place, found', rfl⟩, ?_⟩
    rw [← e, seenAs, seenAs, same, key]
  exact fun w => ⟨half h.glade h.launch, half (fun g => (h.glade g).symm) fun d n => (h.launch d n).symm⟩

theorem SameSwaps.swapsIn (h : SameSwaps s t) (d n : Nat) (l : Launch) {x y : Nat × Launch} (e : seenAs x = seenAs y) : t.swapsIn d n l x = s.swapsIn d n l y := by
  obtain ⟨i, m⟩ := x
  obtain ⟨j, m'⟩ := y
  simp only [seenAs, Launch.seen, Prod.mk.injEq] at e
  obtain ⟨rfl, ctx, eff, stage, save, _⟩ := e
  have reserved : ((t.die d).launches.any fun r => r.2.reserving && decide (r.2.ctx = m.ctx ∧ r.2.eff < l.eff))
      = (s.die d).launches.any fun r => r.2.reserving && decide (r.2.ctx = m'.ctx ∧ r.2.eff < l.eff) := by
    refine (h.listed d).any fun x y e => ?_
    simp only [seenAs, Launch.seen, Prod.mk.injEq] at e
    obtain ⟨_, c, k, _, _, r⟩ := e
    rw [c, k, r, ctx]
  have named (c : Nat) (b : Bool) : ((t.rivals c b).any fun o => decide (o.1 = n)) = (s.rivals c b).any fun o => decide (o.1 = n) := by
    refine (h.rivals c b).any fun x y e => ?_
    rw [(Prod.mk.inj e).1]
  have yields (k c : Nat) (b : Bool) : ((t.rivals c b).all fun o => !o.2.saveDue && (decide (o.2.stage ≠ .running) || decide (k < o.2.eff)))
      = (s.rivals c b).all fun o => !o.2.saveDue && (decide (o.2.stage ≠ .running) || decide (k < o.2.eff)) := by
    refine (h.rivals c b).all fun x y e => ?_
    simp only [seenAs, Launch.seen, Prod.mk.injEq] at e
    obtain ⟨_, _, k, st, sv, _⟩ := e
    rw [k, st, sv]
  simp only [State.swapsIn, h.sides, reserved, named, yields, eff, stage, save]

theorem SameSwaps.swapDueAt (h : SameSwaps s t) (d n : Nat) (l : Launch) : t.swapDueAt d n l = s.swapDueAt d n l := by
  rw [State.swapDueAt, State.swapDueAt, (h.listed d).any fun x y e => h.swapsIn d n l e, h.sides]
  simp only [h.glade]

end

end Sys2Proof.Machine
end

section
/-! Units, phases and pre-emption (R42 to R44, R197, R418, R420, R421). -/

namespace Sys2Proof.Machine

section
variable {s : State} {d n : Nat} {l : Launch} (found : s.launch d n = some l)
include found

/-! ## Units (R42) -/

theorem unitComplete_eq {u : Nat} {x : UnitPl} (unit : l.units[u]? = some x) (runs : l.stage = .running) (goes : l.stop = none) (undone : x.done = false)
    (done : s.unitDone d n u = true) :
    let us := l.units.set u { x with done := true }
    let t := ((s.flow (s.unitPts d n u) (.counter 0 (4096 * d + l.arm) u)).advUnit d l.arm u .ok).modLaunch d n fun l => { l with units := us }
    exec (.unitComplete d n u) s = .next (if us.all (·.done) then
      ((t.flow (t.launchPts d n) (.counter 2 (4096 * d + l.arm) 0)).advPhase d l.arm l.status).endLaunch d n l.status else t) := by
  change execUnitComplete d n u s = _
  simp only [execUnitComplete, found, unit]
  exact if_neg (by simp [undone, runs, goes, done])

theorem unitComplete_waits (u : Nat) (h : l.stage ≠ .running ∨ l.stop ≠ none ∨ s.unitDone d n u = false) : exec (.unitComplete d n u) s = .next s := by
  change execUnitComplete d n u s = _
  simp only [execUnitComplete, found]
  cases l.units[u]? with
  | none => rfl
  | some x => exact if_pos (.inr (h.imp_right (Or.imp_left Option.isSome_iff_ne_none.2)))

/-! ## The save of a swap (R197, R418, R420) -/

/-- The outgoing boughs of a launch, their AG requests performed as far as no sector is held. -/
def State.settledAg (s : State) (d n : Nat) : State := (s.sides d n).foldl (fun s x => s.settleAg x.1 x.2) s

theorem boughSaveWrite_eq (due : l.saveDue = true) :
    exec (.boughSaveWrite d n) s = .next (if (s.settledAg d n).wall < (l.stop.map (·.2)).getD 0 + 20 * usWall
        ∧ (((s.settledAg d n).sides d n).any fun x => (((s.settledAg d n).glade x.1).pick x.2).asking) = true then s.settledAg d n
      else (((s.settledAg d n).sides d n).foldl (fun s x => s.writeRecord d n x.1 x.2 1 []) (s.settledAg d n)).modLaunch d n fun l => { l with saveDue := false, stop := none }) := by
  change execBoughSaveWrite d n s = _
  simp only [execBoughSaveWrite, found, due, if_true, State.settledAg]
  exact (apply_ite Host.Outcome.next _ _ _).symm

theorem boughSaveWrite_idle (saved : l.saveDue = false) : exec (.boughSaveWrite d n) s = .next s := by
  change execBoughSaveWrite d n s = _
  simp [execBoughSaveWrite, found, saved]

/-! ## The limit of a phase (R44, R421) -/

/-- The phase of a launch has run longer than its job's limit. -/
def State.outran (s : State) (l : Launch) : Prop := msWall * (s.job l.ctx).phaseLimit < l.resident + (s.wall - l.residentAt)

/-- A launch of higher effective class waits for a launch's partition. -/
def State.awaited (s : State) (d n : Nat) (l : Launch) : Bool := (s.die d).launches.any fun m => decide (m.1 ≠ n ∧ m.2.eff < l.eff) && s.waitsFor d l m

theorem phaseLimitExpiry_preempts (runs : l.stage = .running) (goes : l.stop = none) (late : s.outran l) (wanted : s.awaited d n l = true) :
    exec (.phaseLimitExpiry d n) s = .next (s.preempt d n 2) := by
  change execPhaseLimitExpiry d n s = _
  simp only [execPhaseLimitExpiry, found]
  rw [if_neg (by simp [goes])]
  exact if_pos ⟨runs, late, wanted⟩

theorem phaseLimitExpiry_goesOn (runs : l.stage = .running) (stops : l.stop ≠ none) : exec (.phaseLimitExpiry d n) s = .next (s.endStop d n) := by
  change execPhaseLimitExpiry d n s = _
  simp only [execPhaseLimitExpiry, found]
  exact if_pos ⟨runs, Option.isSome_iff_ne_none.2 stops⟩

theorem phaseLimitExpiry_idle (h : l.stage ≠ .running ∨ (l.stop = none ∧ ¬(s.outran l ∧ s.awaited d n l = true))) : exec (.phaseLimitExpiry d n) s = .next s := by
  change execPhaseLimitExpiry d n s = _
  simp only [execPhaseLimitExpiry, found]
  rw [if_neg, if_neg]
  · exact fun ⟨runs, late, wanted⟩ => h.elim (· runs) fun k => k.2 ⟨late, wanted⟩
  · exact fun ⟨runs, stops⟩ => h.elim (· runs) fun k => Option.isSome_iff_ne_none.1 stops k.1

theorem endStop_waits {reason at_ : Nat} (stop : l.stop = some (reason, at_)) (h : s.wall < at_ + 50 * usWall ∧ s.unsettled d n at_ = true) : s.endStop d n = s := by
  simp only [State.endStop, found, Option.bind_some, stop]
  exact if_pos h

/-- A quiesced launch that nothing keeps any more is swapped out (R421). -/
theorem endStop_ends {reason at_ : Nat} (stop : l.stop = some (reason, at_)) (h : ¬(s.wall < at_ + 50 * usWall ∧ s.unsettled d n at_ = true)) {l' : Launch}
    (after : (s.endStop d n).launch d n = some l') : l'.stage = .swapped ∧ l'.stop = none := by
  simp only [State.endStop, found, Option.bind_some, stop, if_neg h, launch_modLaunch_self, State.leave, Option.map_map, Option.map_eq_some_iff] at after
  obtain ⟨_, _, rfl⟩ := after
  exact ⟨rfl, rfl⟩

end

/-! ## Phase boundaries (R43, R44) -/

/-- A launch in its next phase: its counts begin anew and the slots set meanwhile are in effect. -/
def Launch.nextPhase (l : Launch) (cy wall : Nat) : Launch :=
  { l with phase := l.phase + 1, phaseCy := cy, resident := 0, residentAt := wall
           slots := l.slotsNext.foldl (fun m x => nset m x.1 x.2) l.slots, slotBy := l.slotByNext.foldl (fun m x => nset m x.1 x.2) l.slotBy
           slotsNext := [], slotByNext := [], slotDone := [] }

/-- A launch without the cancels of units that its boundary has met. -/
def Launch.metCancels (l : Launch) : Launch := { l with unitCancel := l.unitCancel.filter fun u => decide (u.2 ≠ true) }

/-- A launch's phase counter has advanced at its boundary, and its next phase begins. -/
def State.nextPhase (s : State) (d n : Nat) (l : Launch) : State :=
  (((s.flow (s.launchPts d n) (.counter 2 (4096 * d + l.arm) 0)).advPhase d l.arm .ok).modLaunch d n fun l => l.nextPhase (s.die d).cy s.wall).modLaunch d n Launch.metCancels

theorem nextPhase_same (s : State) (d n : Nat) (l : Launch) : SameSwaps s (s.nextPhase d n l) :=
  (((SameSwaps.flow s _ _).trans (SameSwaps.modArm _ d l.arm _)).trans (SameSwaps.modLaunch _ d n (Launch.nextPhase · (s.die d).cy s.wall) fun _ => rfl)).trans (SameSwaps.modLaunch _ d n Launch.metCancels fun _ => rfl)

theorem nextPhase_launch {s : State} {d n : Nat} {l : Launch} (found : s.launch d n = some l) :
    (s.nextPhase d n l).launch d n = some (l.nextPhase (s.die d).cy s.wall).metCancels := by
  have kept : ((s.flow (s.launchPts d n) (.counter 2 (4096 * d + l.arm) 0)).advPhase d l.arm .ok).launch d n = s.launch d n := by
    rw [State.launch, State.advPhase, die_modArm_same _ _ _ _ Die.launches fun _ _ => rfl]; rfl
  rw [State.nextPhase, launch_modLaunch_self, launch_modLaunch_self, kept, found, Option.map_some, Option.map_some]

theorem nextPhase_arms (s : State) (d n : Nat) (l : Launch) {a : ArmEnt} (entry : nfind (s.die d).arms l.arm = some a) :
    nfind ((s.nextPhase d n l).die d).arms l.arm = some { a with phase := a.phase.advance .ok } := by
  have entry' : nfind ((s.flow (s.launchPts d n) (.counter 2 (4096 * d + l.arm) 0)).die d).arms l.arm = some a := entry
  rw [State.nextPhase, arms_modLaunch, arms_modLaunch, State.advPhase, nfind_arms_modArm, entry', Option.map_some]

/-- A boundary cancels nothing of a launch that is asked for no cancel of a unit. -/
theorem cancelUnits_none {s : State} {d n : Nat} {l : Launch} (found : s.launch d n = some l) (none : l.unitCancel = []) (b : Bool) :
    s.cancelUnits d n b = s.modLaunch d n fun l => { l with unitCancel := l.unitCancel.filter fun u => decide (u.2 ≠ b) } := by
  simp [State.cancelUnits, found, none]

section
variable {s : State} {d n : Nat} {l : Launch} (found : s.launch d n = some l)
include found

theorem phaseBoundary_waits
    (h : l.stage ≠ .running ∨ l.stop ≠ none ∨ l.held = true ∨ l.holdTest = true ∨ ∃ x ∈ s.sides d n, (s.bough x.1).atBoundary = false) :
    exec (.phaseBoundary d n) s = .next s := by
  change execPhaseBoundary d n s = _
  simp only [execPhaseBoundary, found]
  refine if_pos ?_
  rcases h with h | h | h | h | ⟨x, side, h⟩
  · exact .inl h
  · exact .inr (.inl (Option.isSome_iff_ne_none.2 h))
  · exact .inr (.inr (.inl h))
  · exact .inr (.inr (.inr (.inl h)))
  · refine .inr (.inr (.inr (.inr (.inl (Bool.eq_false_iff.2 fun all => ?_)))))
    have := List.all_eq_true.1 all (s.bough x.1) (List.mem_map_of_mem side)
    exact absurd this (ne_true_of_eq_false h)

theorem phaseBoundary_eq (runs : l.stage = .running) (goes : l.stop = none) (free : l.held = false) (untested : l.holdTest = false)
    (at_ : ∀ b ∈ (s.sides d n).map fun x => s.bough x.1, b.atBoundary = true) (live : ∃ b ∈ (s.sides d n).map fun x => s.bough x.1, b.ww.halted = false)
    (whole : l.phaseCancel = false) (units : l.unitCancel = []) (healthy : ∀ x ∈ s.sides d n, s.healthy x.1 = true) :
    exec (.phaseBoundary d n) s = .next ((s.nextPhase d n l).boundaryActions d n l) := by
  have all : ((s.sides d n).map fun x => s.bough x.1).all Bough.atBoundary = true := List.all_eq_true.2 at_
  have some_ : (((s.sides d n).map fun x => s.bough x.1).all fun b => b.ww.halted) = false := by
    obtain ⟨b, listed, runs⟩ := live
    exact List.all_eq_false.2 ⟨b, listed, ne_true_of_eq_false runs⟩
  have begun : (((s.flow (s.launchPts d n) (.counter 2 (4096 * d + l.arm) 0)).advPhase d l.arm .ok).modLaunch d n fun l => l.nextPhase (s.die d).cy s.wall).cancelUnits d n true
      = s.nextPhase d n l := by
    have kept : ((s.flow (s.launchPts d n) (.counter 2 (4096 * d + l.arm) 0)).advPhase d l.arm .ok).launch d n = some l := by
      rw [State.launch, State.advPhase, die_modArm_same _ _ _ _ Die.launches fun _ _ => rfl]; exact found
    have next : (((s.flow (s.launchPts d n) (.counter 2 (4096 * d + l.arm) 0)).advPhase d l.arm .ok).modLaunch d n fun l => l.nextPhase (s.die d).cy s.wall).launch d n
        = some (l.nextPhase (s.die d).cy s.wall) := by rw [launch_modLaunch_self, kept, Option.map_some]
    rw [cancelUnits_none next units]; rfl
  have well : ((s.nextPhase d n l).sides d n).any (fun x => !(s.nextPhase d n l).healthy x.1) = false := by
    rw [(nextPhase_same s d n l).sides]
    exact List.any_eq_false.2 fun x side => by
      have : (s.nextPhase d n l).healthy x.1 = s.healthy x.1 := rfl
      rw [this, healthy x side]; decide
  change execPhaseBoundary d n s = _
  simp only [execPhaseBoundary, found]
  rw [if_neg (by simp [runs, goes, free, untested, all, some_])]
  simp only [Launch.nextPhase] at begun
  rw [begun, whole, if_neg Bool.false_ne_true, nextPhase_launch found, if_neg (by simp), if_neg (by rw [well]; decide)]

end

end Sys2Proof.Machine
end

section
/-! The woodwards of a launch that goes on at its boundary (R43), and the statement about phases. -/

namespace Sys2Proof.Machine

theorem Glade.pick_put (x : Glade) (b c : Bool) (v : Bough) : (x.put b v).pick c = if c = b then v else x.pick c := by
  unfold Glade.put Glade.pick
  by_cases h : x.active = b
  · subst h
    by_cases k : c = x.active <;> simp [k, eq_comm]
  · have other : x.active = !b := by revert h; cases x.active <;> cases b <;> decide
    by_cases k : c = b
    · subst k; simp [h]
    · have : c = !b := by revert k; cases c <;> cases b <;> decide
      simp [this, other]

/-- A bough of a glade stands at no mark. -/
def State.unmarked (s : State) (x : Nat × Bool) : Prop := ((s.glade x.1).pick x.2).ww.atMark = false ∧ ((s.glade x.1).pick x.2).ww.mark = false

theorem unmarked_unmark (s : State) (x y : Nat × Bool) (h : x = y ∨ s.unmarked x) : (s.modSide y.1 y.2 Bough.unmark).unmarked x := by
  unfold State.unmarked State.modSide
  rw [State.glade_modGlade]
  by_cases key : x.1 = y.1
  · rw [if_pos key, Glade.pick_put]
    by_cases side : x.2 = y.2
    · rw [if_pos side]; exact ⟨rfl, rfl⟩
    · rw [if_neg side, ← key]
      exact h.resolve_left fun e => side (congrArg Prod.snd e)
  · rw [if_neg key]
    exact h.resolve_left fun e => key (congrArg Prod.fst e)

theorem unmarked_foldl {x : Nat × Bool} (ys : List (Nat × Bool)) (s : State) (h : x ∈ ys ∨ s.unmarked x) :
    (ys.foldl (fun s y => s.modSide y.1 y.2 Bough.unmark) s).unmarked x := by
  induction ys generalizing s with
  | nil => exact h.resolve_left List.not_mem_nil
  | cons y ys ih =>
    refine ih _ ?_
    rcases h with at_ | done
    · exact (List.mem_cons.1 at_).symm.imp_right fun e => unmarked_unmark s x y (.inl e)
    · exact .inr (unmarked_unmark s x y (.inr done))

theorem resume_unmarked {s : State} {d n : Nat} {x : Nat × Bool} (side : x ∈ s.sides d n) : (s.resume d n).unmarked x :=
  unmarked_foldl _ s (.inl side)

/-- Going on changes what is saved of a die and nothing else of it. -/
theorem resume_die_same (s : State) (d n h : Nat) {α : Type} (r : Die → α) (hr : ∀ x v, r { x with saved := v } = r x) : r ((s.resume d n).die h) = r (s.die h) := by
  have sides : ((s.sides d n).foldl (fun s y => s.modSide y.1 y.2 Bough.unmark) s).dies = s.dies := by
    refine foldl_keeps State.dies _ (fun _ _ => ?_) _ _
    rfl
  have die (k : Nat) : ((s.sides d n).foldl (fun s y => s.modSide y.1 y.2 Bough.unmark) s).die k = s.die k := by rw [State.die, sides, State.die]
  rw [State.resume, State.die_modDie]
  split
  · next own => rw [hr, die, own]
  · rw [die]

/-- A launch that nothing holds or swaps out at its boundary goes on (R44). -/
theorem boundaryActions_goesOn {s : State} {d n : Nat} {l : Launch} (quota : (s.job l.ctx).overQuota = false) (stays : s.swapDueAt d n l = false)
    (untested : ∀ c ∈ s.clearingsOf d n, s.wantsTest c = false) : s.boundaryActions d n l = (s.resume d n).graftBoundary (launchKey d n) := by
  have none : (s.clearingsOf d n).any s.wantsTest = false := List.any_eq_false.2 fun c at_ => ne_true_of_eq_false (untested c at_)
  simp [State.boundaryActions, quota, stays, none]

/-- Settles O39: each clause is the equation of its event; at a boundary the actions see the launch in its next phase, of which a swap reads the same as before (`nextPhase_same`). -/
theorem phaseEvents : Obligations.PhaseEvents := by
  intro s d n l found sides
  refine ⟨?_, unitComplete_waits found, ?_, phaseBoundary_waits found, ?_, boughSaveWrite_idle found, ?_, ?_⟩
  · intro u x unit runs goes undone done us t
    have eq := unitComplete_eq found unit runs goes undone done
    refine ⟨fun ⟨y, at_, undone'⟩ => ?_, fun all => ?_⟩
    · exact eq.trans (congrArg _ (if_neg fun h => ne_true_of_eq_false undone' (List.all_eq_true.1 h y at_)))
    · exact eq.trans (congrArg _ (if_pos (List.all_eq_true.2 all)))
  · intro bs runs goes free untested at_ live whole units healthy
    refine ⟨_, phaseBoundary_eq found runs goes free untested at_ live whole units healthy, fun quota stays tests => ?_⟩
    have same := nextPhase_same s d n l
    have goesOn := boundaryActions_goesOn (s := s.nextPhase d n l) (d := d) (n := n) (l := l) (by rw [same.job, quota]) (by rw [same.swapDueAt, stays])
      (fun c on => by rw [same.wantsTest, tests c (same.clearingsOf d n ▸ on)])
    rw [goesOn]
    have die {α : Type} (r : Die → α) (hr : ∀ x v, r { x with saved := v } = r x) :
        r ((((s.nextPhase d n l).resume d n).graftBoundary (launchKey d n)).die d) = r ((s.nextPhase d n l).die d) := resume_die_same _ d n d r hr
    refine ⟨⟨(l.nextPhase (s.die d).cy s.wall).metCancels, ?_, rfl, rfl, rfl, rfl, rfl, rfl, runs⟩, fun a entry => ?_, fun x side => resume_unmarked (same.sides d n ▸ side)⟩
    · rw [State.launch, die Die.launches fun _ _ => rfl]
      exact nextPhase_launch found
    · rw [die Die.arms fun _ _ => rfl]
      exact nextPhase_arms s d n l entry
  · intro due u waits
    have asked : waits ↔ (s.settledAg d n).wall < (l.stop.map (·.2)).getD 0 + 20 * usWall
        ∧ (((s.settledAg d n).sides d n).any fun x => (((s.settledAg d n).glade x.1).pick x.2).asking) = true := by
      rw [List.any_eq_true]; exact and_comm
    have eq := boughSaveWrite_eq found due
    exact ⟨fun h => eq.trans (congrArg _ (if_pos (asked.1 h))), fun h => eq.trans (congrArg _ (if_neg (mt asked.2 h)))⟩
  · intro outran waited
    have wanted : waited ↔ s.awaited d n l = true := by
      simp only [waited, State.awaited, List.any_eq_true, Bool.and_eq_true, decide_eq_true_eq, and_assoc]
    exact ⟨fun runs goes late w => phaseLimitExpiry_preempts found runs goes late (wanted.1 w), phaseLimitExpiry_goesOn found,
      fun h => phaseLimitExpiry_idle found (h.imp_right (And.imp_right (mt (And.imp_right wanted.2))))⟩
  · intro reason at_ stop waits
    exact ⟨endStop_waits found stop, fun ends l' => endStop_ends found stop ends⟩

end Sys2Proof.Machine
end

section
/-! Flits as they arrive (R449, R450, R451): dropped, answered by a NAK, kept for their turn, or delivered. -/

namespace Sys2Proof.Machine

/-! ## A flit sent changes what a link sends -/

/-- What flits sent on a link keep of it: all but its numbers, its replay buffer, what waits for room, and the credits owed. -/
def Link.kept (x : Link) : Link := { x with txSeq := 0, replay := [], queue := [], credits := [] }

theorem kept_transmit (s : State) (l kind : Nat) (p : List Byte) : ((s.transmit l kind p).link l).kept = (s.link l).kept := by
  rw [State.transmit, State.link_modLink_self]
  rfl

theorem kept_sendFlit (s : State) (l kind : Nat) (p : List Byte) : ((s.sendFlit l kind p).link l).kept = (s.link l).kept := by
  rw [State.sendFlit]
  split
  · rw [State.link_modLink_self]
    rfl
  · exact kept_transmit s l kind p

@[simp] theorem tagFails_sendFlit (s : State) (l kind : Nat) (p : List Byte) : ((s.sendFlit l kind p).link l).tagFails = (s.link l).tagFails :=
  (congrArg Link.tagFails (kept_sendFlit s l kind p) :)

/-! ## A flit that arrives -/

/-- A link takes flits of a kind: it is up, or the kind is SPDM or CTRL and the link has been found (R449, R452). -/
def Link.takes (x : Link) (kind : Nat) : Prop := x.st = .up ∨ ((kind = 6 ∨ kind = 7) ∧ x.st ≠ .absent)

section
variable {s : State} {l seq n kind : Nat} {ok : Bool} {p : List Byte}

theorem receive_closed (h : ¬(s.link l).takes kind) : s.receive l seq ok n kind p = .next s := if_pos h

/-- The state once a flit whose tag fails has been answered (R451). -/
def State.failedFlit (s : State) (l seq : Nat) : State :=
  (s.modLink l fun x => { x with tagFails := nmod 0 x.tagFails seq (· + 1) }).sendFlit l 7 (toBytes 8 2 ++ toBytes 8 seq ++ List.replicate 212 0)

theorem nget_tagFails_failedFlit : nget 0 ((s.failedFlit l seq).link l).tagFails seq = nget 0 (s.link l).tagFails seq + 1 := by
  simp [State.failedFlit]

variable (h : (s.link l).takes kind)
include h

theorem receive_failed : s.receive l seq false n kind p = .next (if 7 ≤ nget 0 (s.link l).tagFails seq then (s.failedFlit l seq).retrain l else s.failedFlit l seq) := by
  have eighth : (8 ≤ nget 0 ((s.failedFlit l seq).link l).tagFails seq) = (7 ≤ nget 0 (s.link l).tagFails seq) := by
    rw [nget_tagFails_failedFlit, eq_iff_iff]; omega
  rw [← if_congr (Iff.of_eq eighth) rfl rfl]
  exact (if_neg (not_not.2 h)).trans (if_pos rfl)

theorem receive_passed : s.receive l seq true n kind p =
    if seq < (s.link l).rxSeq then .next s
    else if (s.link l).rxSeq < seq then
      .next (if (s.link l).ahead.any fun f => decide (f.1 = seq) then s else s.modLink l fun x => { x with ahead := x.ahead ++ [(seq, kind, n, p)] })
    else .next (drainAhead l (s.link l).ahead.length ((s.took l seq n).deliver l kind p)) :=
  (if_neg (not_not.2 h)).trans (if_neg (by decide))

end

/-- An instruction that receives a flit of a kind is such a flit on its link. -/
theorem flitIn_of_receive {i : Instr} {s : State} {l kind seq n : Nat} {ok early : Bool} {p : List Byte} {go : State → State} (run : exec i s = s.receive l seq ok n kind p)
    (first : early = true ↔ kind = 6 ∨ kind = 7) (each : ∀ u : State, u.deliver l kind p = go u) : FlitIn i s l kind seq ok n p early go := by
  have opened : ((s.link l).st = .up ∨ (early = true ∧ (s.link l).st ≠ .absent)) ↔ (s.link l).takes kind := by rw [Link.takes, first]
  simp only [FlitIn, opened, run, ← each]
  refine ⟨receive_closed, ?_, ?_, ?_, ?_, ?_⟩
  · rintro takes rfl few
    rw [receive_failed takes, if_neg (by omega)]
    rfl
  · rintro takes rfl many
    rw [receive_failed takes, if_pos many]
    rfl
  · rintro takes rfl early
    rw [receive_passed takes, if_pos early]
  · rintro takes rfl late new
    have fresh : ((s.link l).ahead.any fun f => decide (f.1 = seq)) = false := by simpa using new
    rw [receive_passed takes, if_neg (by omega), if_pos late, fresh]
    rfl
  · rintro takes rfl rfl
    rw [receive_passed takes, if_neg (by omega), if_neg (by omega)]

/-- The same of a flit of kinds SLOTCTL and CTRL that is of the operations its event names. -/
theorem flitIn_of_receiveOp {i : Instr} {s : State} {l kind seq n : Nat} {ok early : Bool} {ops : List Nat} {p : List Byte} {go : State → State}
    (run : exec i s = s.receiveOp l seq ok n kind ops p) (op : leAt p 0 1 ∈ ops) (first : early = true ↔ kind = 6 ∨ kind = 7) (each : ∀ u : State, u.deliver l kind p = go u) :
    FlitIn i s l kind seq ok n p early go :=
  flitIn_of_receive (run.trans (if_pos op)) first each

/-! ## A flit delivered -/

section
variable (u : State) (l : Nat) {p : List Byte}

theorem deliver_slotRes (op : leAt p 0 1 = 1) : u.deliver l 3 p = u.takeRes l p := by simp [State.deliver, op]
theorem deliver_slotAnswer (op : leAt p 0 1 = 2 ∨ leAt p 0 1 = 4) : u.deliver l 3 p = u.takeAnswer l p := by
  rcases op with op | op <;> simp [State.deliver, op]
theorem deliver_slotRelease (op : leAt p 0 1 = 3) : u.deliver l 3 p = u.takeRelease l p := by simp [State.deliver, op]
theorem deliver_slotReclaim (op : leAt p 0 1 = 5 ∨ leAt p 0 1 = 6) : u.deliver l 3 p = u.takeReclaim l p := by
  rcases op with op | op <;> simp [State.deliver, op]
theorem deliver_version (op : leAt p 0 1 = 1) : u.deliver l 7 p = u.takeVersion l p := by simp [State.deliver, op]
theorem deliver_nak (op : leAt p 0 1 = 2) : u.deliver l 7 p = u.takeNak l p := by simp [State.deliver, op]
theorem deliver_suspect (op : leAt p 0 1 = 3) : u.deliver l 7 p = u.takeSuspect l p := by simp [State.deliver, op]
theorem deliver_abort (op : leAt p 0 1 = 4) : u.deliver l 7 p = u.takeAbort l p := by simp [State.deliver, op]
theorem deliver_width (op : leAt p 0 1 = 5) : u.deliver l 7 p = u.takeWidth l p := by simp [State.deliver, op]

/-- A flit of another kind or operation (R407, R450). -/
theorem deliver_other {kind : Nat} (h : 7 < kind ∨ (kind = 3 ∧ leAt p 0 1 ∉ [1, 2, 3, 4, 5, 6]) ∨ (kind = 7 ∧ leAt p 0 1 ∉ [1, 2, 3, 4, 5])) :
    u.deliver l kind p = (u.life 5 (8 * l) 1).credit l kind := by
  simp only [List.mem_cons, List.not_mem_nil, or_false, not_or] at h
  rcases h with other | ⟨rfl, op⟩ | ⟨rfl, op⟩
  · simp [State.deliver, show kind ≠ 0 ∧ kind ≠ 1 ∧ kind ≠ 2 ∧ kind ≠ 3 ∧ kind ≠ 4 ∧ kind ≠ 5 ∧ kind ≠ 6 ∧ kind ≠ 7 by omega]
  · simp [State.deliver, op]
  · simp [State.deliver, op]

end

end Sys2Proof.Machine
end

section
/-! Flits go out and are opened (R449, R450, R451): the numbers they take, the replay buffer, what an acknowledgement frees. -/

namespace Sys2Proof.Machine

/-! ## A flit goes out -/

/-- The flit that a link sends next with a payload of a kind. -/
def Link.nextFlit (x : Link) (kind : Nat) (p : List Byte) : Flit := { seq := x.txSeq, kind := kind, credit := 4096 * x.owed.1 + x.owed.2, payload := p }

theorem owed_of_none {x : Link} (h : ∀ c ∈ x.credits, c.2 = 0) : x.owed = (0, 0) := by
  have none : x.credits.find? (fun c => decide (c.2 ≠ 0)) = none := by simpa using fun a b => h (a, b)
  simp only [Link.owed, none]

theorem owed_of_first {x : Link} {vc n : Nat} {rest : List (Nat × Nat)} (h : x.credits = (vc, n) :: rest) (pos : 0 < n) (few : n < 4096) : x.owed = (vc, n) := by
  have first : x.credits.find? (fun c => decide (c.2 ≠ 0)) = some (vc, n) := by rw [h]; exact List.find?_cons_of_pos (by simpa using pos.ne')
  simp only [Link.owed, first, Nat.min_eq_left (Nat.le_of_lt_succ few)]

section
variable (s : State) (l kind : Nat) (p : List Byte)

/-- The replay buffer has room for one more flit and nothing waits for it (R451). -/
def Link.room (x : Link) : Prop := (x.replay.filter fun f => decide (f.kind ≠ 0)).length < 128 ∧ x.queue = []

theorem sendFlit_no_room (h : ¬(s.link l).room) : s.sendFlit l kind p = s.modLink l fun y => { y with queue := y.queue ++ [(kind, p)] } := by
  refine if_pos ?_
  rw [Link.room, Classical.not_and_iff_not_or_not, Nat.not_lt] at h
  simpa only [Link.full, decide_eq_true_eq] using h

theorem sendFlit_room (h : (s.link l).room) : s.sendFlit l kind p = s.transmit l kind p := by
  refine if_neg ?_
  obtain ⟨few, none⟩ := h
  rintro (full | waits)
  · exact Nat.not_le.2 few (of_decide_eq_true full)
  · exact waits none

@[simp] theorem replay_transmit : ((s.transmit l kind p).link l).replay = (s.link l).replay ++ [(s.link l).nextFlit kind p] := by
  rw [State.transmit, State.link_modLink_self]
  rfl

theorem transmit_no_credit (h : ∀ c ∈ (s.link l).credits, c.2 = 0) : s.transmit l kind p =
    (s.putFlit l { seq := (s.link l).txSeq, kind := kind, credit := 0, payload := p }).modLink l fun y =>
      { y with txSeq := y.txSeq + 1, replay := y.replay ++ [{ seq := (s.link l).txSeq, kind := kind, credit := 0, payload := p }] } := by
  simp only [State.transmit, owed_of_none h]
  rfl

theorem credits_transmit {vc n : Nat} {rest : List (Nat × Nat)} (h : (s.link l).credits = (vc, n) :: rest) (pos : 0 < n) (few : n < 4096) :
    nget 0 ((s.transmit l kind p).link l).credits vc = 0 := by
  have owes : nget 0 (s.link l).credits vc = n := by simp [h, nget, nfind]
  have after : ((s.transmit l kind p).link l).credits = nmod 0 (s.link l).credits vc (· - n) := by
    rw [State.transmit, State.link_modLink_self, owed_of_first h pos few]
    exact if_neg pos.ne'
  rw [after, nget_nmod_self, owes, Nat.sub_self]

end

/-! ## An acknowledgement -/

@[simp] theorem rxSeq_transmit (s : State) (l kind : Nat) (p : List Byte) : ((s.transmit l kind p).link l).rxSeq = (s.link l).rxSeq :=
  (congrArg Link.rxSeq (kept_transmit s l kind p) :)

/-- The flits that waited for room keep what a link has received and the memory. -/
theorem pumpFlits_keeps (l : Nat) : ∀ (n : Nat) (s : State), ((pumpFlits l n s).link l).rxSeq = (s.link l).rxSeq ∧ (pumpFlits l n s).mem = s.mem
  | 0, _ => ⟨rfl, rfl⟩
  | n + 1, s => by
    rw [pumpFlits]
    split
    · exact ⟨rfl, rfl⟩
    · split
      · exact ⟨rfl, rfl⟩
      · next kind p rest _ _ =>
        obtain ⟨received, memory⟩ := pumpFlits_keeps l n ((s.modLink l fun x => { x with queue := rest }).transmit l kind p)
        exact ⟨by rw [received, rxSeq_transmit, State.link_modLink_self], memory⟩

theorem ack_keeps (s : State) (l n : Nat) : ((s.ack l n).link l).rxSeq = (s.link l).rxSeq ∧ (s.ack l n).mem = s.mem := by
  rw [State.ack]
  dsimp only
  split
  · exact ⟨rfl, rfl⟩
  · obtain ⟨received, memory⟩ := pumpFlits_keeps l _ _
    exact ⟨received.trans (by rw [show ∀ (t : State) f, (t.mapEngines f).link l = t.link l from fun _ _ => rfl, State.link_modLink_self]), memory⟩

/-- What follows the first flits of a list without two of one number is what has none of their numbers. -/
theorem filter_not_taken {r : List Flit} (once : (r.map (·.seq)).Nodup) (k : Nat) :
    (r.filter fun f => !((r.take k).map (·.seq)).contains f.seq) = r.drop k := by
  have apart : ∀ f ∈ r.drop k, f.seq ∉ (r.take k).map (·.seq) := by
    rw [← List.take_append_drop k r, List.map_append, List.nodup_append] at once
    exact fun f later first => once.2.2 _ first _ (List.mem_map_of_mem later) rfl
  conv_lhs => enter [2]; rw [← List.take_append_drop k r]
  rw [List.filter_append, List.filter_eq_nil_iff.2, List.filter_eq_self.2, List.nil_append]
  · exact fun f later => by simpa using apart f later
  · exact fun f first => by simpa using List.mem_map_of_mem (f := Flit.seq) first

/-- An acknowledgement of a channel on which alone a link has sent, once each, takes the oldest of its flits. -/
theorem ack_frees {s : State} {l n : Nat} (idle : (s.link l).queue = []) (once : ((s.link l).replay.map (·.seq)).Nodup)
    (alone : ∀ f ∈ (s.link l).replay, f.kind ≠ 0 ∧ vcOf f.kind = n / 4096) : ((s.ack l n).link l).replay = (s.link l).replay.drop (n % 4096) ∧ (s.ack l n).out = s.out := by
  have all : ((s.link l).replay.filter fun f => decide (f.kind ≠ 0 ∧ vcOf f.kind = n / 4096)) = (s.link l).replay := List.filter_eq_self.2 fun f at_ => decide_eq_true (alone f at_)
  rw [State.ack]
  dsimp only
  rw [all]
  split
  · next none =>
    refine ⟨?_, rfl⟩
    rw [← filter_not_taken once (n % 4096), none]
    simp
  · have still : ∀ (t : State) f, (t.mapEngines f).link l = t.link l := fun _ _ => rfl
    rw [still, State.link_modLink_self, idle]
    refine ⟨?_, rfl⟩
    change ((State.mapEngines _ _).link l).replay = _
    rw [still, State.link_modLink_self, ← filter_not_taken once]
    exact List.filter_congr fun f at_ => by simp [alone f at_]

/-! ## A flit's bytes are opened -/

section
variable (s : State) (l : Nat) (b : List Byte)

/-- What a flit's 256 bytes hold, where their tag is right (R449). -/
def Link.openFlit (x : Link) (b : List Byte) : Option (List Byte) :=
  if x.key = [] then (if sliceB b 240 16 = List.replicate 16 0 ∧ (leAt b 0 1 = 6 ∨ leAt b 0 1 = 7) then some (sliceB b 12 228) else none)
  else gcmOpen x.key (flitIv (!x.lower) (leAt b 4 8)) (sliceB b 0 12) (sliceB b 12 228) (sliceB b 240 16)

variable {s l b}

theorem rawFlit_opened {p : List Byte} (h : (s.link l).openFlit b = some p) : s.rawFlit l b = s.receive l (leAt b 4 8) true (leAt b 2 2) (leAt b 0 1) p := by
  change s.receive l _ ((s.link l).openFlit b).isSome _ _ (((s.link l).openFlit b).getD []) = _
  rw [h]
  rfl

theorem rawFlit_failed (h : (s.link l).openFlit b = none) : s.rawFlit l b = s.receive l (leAt b 4 8) false (leAt b 2 2) (leAt b 0 1) [] := by
  change s.receive l _ ((s.link l).openFlit b).isSome _ _ (((s.link l).openFlit b).getD []) = _
  rw [h]
  rfl

theorem flitIv_partner (x : Link) (seq : Nat) : flitIv (!x.lower) seq = toBytesBE 4 (if x.lower then 2 else 1) ++ toBytesBE 8 seq := by
  cases h : x.lower <;> rfl

end

/-- How flits go out, are acknowledged and are opened. -/
theorem flitTransport : Parts.FlitTransport := by
  intro s l x room
  refine ⟨fun kind p => ⟨sendFlit_no_room s l kind p, ?_, ?_⟩, fun n => ?_, fun kind => ?_, fun b => ?_⟩
  · intro free none
    rw [sendFlit_room s l kind p free, transmit_no_credit s l kind p none]
    rfl
  · intro vc n rest free credits pos few
    rw [sendFlit_room s l kind p free]
    refine ⟨credits_transmit s l kind p credits pos few, x.nextFlit kind p, replay_transmit s l kind p, ?_, rfl, rfl⟩
    simp only [Link.nextFlit, owed_of_first credits pos few]
  · intro u
    obtain ⟨received, memory⟩ := ack_keeps (s.modLink l fun y => { y with rxSeq := y.rxSeq + 1, tagFails := y.tagFails.filter fun f => decide (f.1 ≠ x.rxSeq) }) l n
    refine ⟨received.trans (by rw [State.link_modLink_self]), memory, fun idle once alone => ?_⟩
    have frees := @ack_frees (s.modLink l fun y => { y with rxSeq := y.rxSeq + 1, tagFails := y.tagFails.filter fun f => decide (f.1 ≠ x.rxSeq) }) l n
    simp only [State.link_modLink_self] at frees
    exact frees idle once alone
  · exact ⟨by simp [State.credit, x], rfl, rfl, rfl⟩
  · intro tag open_ early
    have sealed : x.key ≠ [] → x.openFlit b = open_ := fun key => (if_neg key).trans (by rw [flitIv_partner])
    refine ⟨fun key p ok => rawFlit_opened ((sealed key).trans ok), fun key fails => rawFlit_failed ((sealed key).trans fails), fun key first zero => ?_, fun key wrong => ?_⟩
    · exact rawFlit_opened ((if_pos key).trans (if_pos ⟨zero, first⟩))
    · refine rawFlit_failed ((if_pos key).trans (if_neg ?_))
      rintro ⟨zero, first⟩
      exact wrong.elim (· first) (· zero)

end Sys2Proof.Machine
end

section
/-! What each kind of flit leaves (R450): landings, notices, control requests, calls and SPDM fragments. -/

namespace Sys2Proof.Machine

section
variable {u : State} {l : Nat} {p : List Byte}

/-! ## Landing bytes (R340, R423) -/

/-- Two payloads of one partner are of one stream: the key and the zone that they name are the same. -/
theorem sameStream_iff {q : List Byte} : (dataKey 0 q = dataKey 0 p ∧ leAt q 3 1 = leAt p 3 1) ↔ leAt q 0 2 = leAt p 0 2 ∧ leAt q 2 1 = leAt p 2 1 ∧ leAt q 3 1 = leAt p 3 1 := by
  simp [dataKey, and_assoc]

theorem takeData_behind (h : ∃ q ∈ (u.link l).waiting, leAt q 0 2 = leAt p 0 2 ∧ leAt q 2 1 = leAt p 2 1 ∧ leAt q 3 1 = leAt p 3 1) :
    u.takeData l p = u.modLink l fun x => { x with waiting := x.waiting ++ [p] } :=
  if_pos (by simpa only [List.any_eq_true, decide_eq_true_eq, sameStream_iff] using h)

theorem takeData_first (h : ∀ q ∈ (u.link l).waiting, ¬(leAt q 0 2 = leAt p 0 2 ∧ leAt q 2 1 = leAt p 2 1 ∧ leAt q 3 1 = leAt p 3 1)) : u.takeData l p = u.arrive l p :=
  if_neg (by simpa only [List.any_eq_true, decide_eq_true_eq, sameStream_iff, not_exists, not_and] using h)

theorem arrive_unreserved (h : u.zoneGlade (leAt p 3 1) ⟨(u.link l).peer, leAt p 0 2, leAt p 2 1⟩ = none) : u.arrive l p = u.credit l 1 := by
  simp only [State.arrive, dataKey, h]

@[simp] theorem peer_carries (u : State) (l k : Nat) (y : Nat × Nat × SlotKey) : ((u.carries l y).link k).peer = (u.link k).peer := by
  simp only [State.carries, State.link, nget, nfind_map]
  cases nfind u.links k <;> rfl

theorem arrive_reserved {g : Nat} (h : u.zoneGlade (leAt p 3 1) ⟨(u.link l).peer, leAt p 0 2, leAt p 2 1⟩ = some g) :
    let k : SlotKey := ⟨(u.link l).peer, leAt p 0 2, leAt p 2 1⟩
    let v := u.carries l (g, leAt p 3 1, k)
    u.arrive l p = if v.runs g = true ∧ (v.eng g).holdsKey (leAt p 3 1) k = true ∧ v.canLand g (leAt p 3 1) (leAt p 4 1) k = true then (v.landData g (u.link l).peer p).credit l 1
      else v.modLink l fun x => { x with waiting := x.waiting ++ [p] } := by
  simp only [State.arrive, dataKey, h, peer_carries]

/-! ## Control requests (R341, R342, R344) -/

theorem takeNotices_single {x : List Byte} (h : noticesOf p = [x]) : u.takeNotices l p =
    (u.modHome (leAt x 0 2) (Engines.sourceOf (u.link l).peer (leAt x 3 1) (leAt x 2 1)) fun e => e.zoneSlot (u.link l).peer (leAt x 3 1) (leAt x 2 1) (leAt x 4 1)).credit l 2 := by
  rw [State.takeNotices, h]
  rfl

/-- The NOTICE flits of a grant: 28 notices each (R450 kind 2). -/
def State.sendNotices (t : State) (l : Nat) (ns : List (List Byte)) : State :=
  (List.range 3).foldl (fun t i =>
    let part := (ns.drop (28 * i)).take 28
    if part = [] then t else t.sendFlit l 2 (part.flatten ++ List.replicate (228 - 8 * part.length) 0)) t

theorem sendNotices_one {t : State} {ns : List (List Byte)} (some_ : ns ≠ []) (few : ns.length ≤ 28) :
    t.sendNotices l ns = t.sendFlit l 2 (ns.flatten ++ List.replicate (228 - 8 * ns.length) 0) := by
  have second : ns.drop (28 * 1) = [] := List.drop_eq_nil_of_le few
  have third : ns.drop (28 * 2) = [] := List.drop_eq_nil_of_le (by omega)
  simp only [State.sendNotices, show List.range 3 = [0, 1, 2] from rfl, List.foldl_cons, List.foldl_nil, second, third, Nat.mul_zero, List.drop_zero, List.take_of_length_le few, some_,
    List.take_nil, reduceIte]

section
variable {v : State} {st c low : Nat} (h : u.reserveHome (ctlDest p) (ctlZone p) (ctlKey (u.link l).peer p) (leAt p 7 1) = (v, st, c, low))
include h

theorem takeRes_eq :
    let k := ctlKey (u.link l).peer p
    let t := v.sendFlit l 3 (slotCtl 2 (ctlDest p) (ctlZone p) k.glade k.rill c st low)
    u.takeRes l p = (t.sendNotices l (if st = 0 then ((t.keySlots (ctlDest p) (ctlZone p) k).filter fun i => !(u.keySlots (ctlDest p) (ctlZone p) k).contains i).map fun i =>
      noticeBytes i (ctlZone p) k else [])).credit l 3 := by
  simp only [State.takeRes, h]
  rfl

end

/-- The zone and rill that an answer is about (R450 kind 3). -/
def answerRef (peer : Nat) (p : List Byte) : ZoneRef := ⟨peer, ctlDest p, ctlZone p, ctlRill p⟩

section
variable (op : leAt p 0 1 = 2)
include op

theorem takeAnswer_reserved {i : Nat} (asked : u.asker (ctlSrc p) 0x109 (answerRef (u.link l).peer p) = some i) : u.takeAnswer l p =
    (u.modBlock (ctlSrc p) fun b => { b with answers := nset b.answers i (BitVec.ofNat 64 (slotValue (leAt p 8 1) (leAt p 7 1) (leAt p 9 1))) }).credit l 3 := by
  rw [answerRef] at asked
  simp only [State.takeAnswer, op, decide_true, reduceIte, asked]

theorem takeAnswer_unasked (none : u.asker (ctlSrc p) 0x109 (answerRef (u.link l).peer p) = none) : u.takeAnswer l p =
    (if leAt p 8 1 = 0 then u.releaseKey (ctlSrc p) (answerRef (u.link l).peer p)
    else if leAt p 8 1 = 0 ∨ leAt p 8 1 = 1 ∨ leAt p 8 1 = 2 then u.unhold (ctlSrc p) (answerRef (u.link l).peer p) else u).credit l 3 := by
  rw [answerRef] at none
  simp only [State.takeAnswer, op, decide_true, reduceIte, true_and, none]
  rfl

end

section
variable (op : leAt p 0 1 = 4)
include op

theorem takeAnswer_held {i : Nat} (asked : u.asker (ctlSrc p) 0x10A (answerRef (u.link l).peer p) = some i) : u.takeAnswer l p =
    (u.modBlock (ctlSrc p) fun b => { b with answers := nset b.answers i (BitVec.ofNat 64 (leAt p 8 1)) }).credit l 3 := by
  have other : decide (leAt p 0 1 = 2) = false := decide_eq_false (by omega)
  rw [answerRef] at asked
  simp only [State.takeAnswer, other, Bool.false_eq_true, reduceIte, asked]

theorem takeAnswer_unheld (none : u.asker (ctlSrc p) 0x10A (answerRef (u.link l).peer p) = none) : u.takeAnswer l p =
    (if leAt p 8 1 = 0 then u.unhold (ctlSrc p) (answerRef (u.link l).peer p) else u).credit l 3 := by
  have other : decide (leAt p 0 1 = 2) = false := decide_eq_false (by omega)
  rw [answerRef] at none
  simp only [State.takeAnswer, other, Bool.false_eq_true, reduceIte, false_and, or_false, none]
  rfl

end

theorem takeRelease_release (hold : leAt p 7 1 ≠ 1) (name : leAt p 7 1 ≠ 2) : u.takeRelease l p =
    ((u.modHome (leAt p 1 2) (Engines.holdsKey (leAt p 3 1) ⟨(u.link l).peer, leAt p 4 2, leAt p 6 1⟩) fun e =>
      e.endKey (leAt p 3 1) ⟨(u.link l).peer, leAt p 4 2, leAt p 6 1⟩).settleTears).credit l 3 :=
  congrArg (State.credit · l 3) ((if_neg hold).trans (if_neg name))

theorem takeRelease_hold (op : leAt p 7 1 = 1) {st : Nat} (held : (∃ e ∈ u.homes (ctlDest p), e.2.holdsKey (ctlZone p) (ctlKey (u.link l).peer p) = true) → st = 0)
    (lost : ¬(∃ e ∈ u.homes (ctlDest p), e.2.holdsKey (ctlZone p) (ctlKey (u.link l).peer p) = true) → st = 3) : u.takeRelease l p =
    ((u.holdKey (ctlDest p) (ctlZone p) (ctlKey (u.link l).peer p)).sendFlit l 3 (slotCtl 4 (ctlDest p) (ctlZone p) (ctlSrc p) (ctlRill p) 0 st 0)).credit l 3 := by
  have told : (if (u.homes (ctlDest p)).any (fun e => e.2.holdsKey (ctlZone p) (ctlKey (u.link l).peer p)) then 0 else 3) = st := by
    split
    · next h => exact (held (by simpa only [List.any_eq_true] using h)).symm
    · next h => exact (lost (by simpa only [List.any_eq_true] using h)).symm
  exact congrArg (State.credit · l 3) ((if_pos op).trans (by rw [told]; rfl))

theorem takeRelease_name (op : leAt p 7 1 = 2) : u.takeRelease l p =
    (u.modHome (leAt p 1 2) (Engines.nameHeld (leAt p 3 1) ⟨(u.link l).peer, leAt p 4 2, leAt p 6 1⟩) (Engines.unhold (leAt p 3 1) ⟨(u.link l).peer, leAt p 4 2, leAt p 6 1⟩)).credit l 3 :=
  congrArg (State.credit · l 3) ((if_neg (by omega)).trans (if_pos op))

theorem takeReclaim_reclaim (op : leAt p 0 1 = 5) : u.takeReclaim l p =
    ((u.modHome (leAt p 1 2) (Engines.holdsKey (leAt p 3 1) ⟨(u.link l).peer, leAt p 4 2, leAt p 6 1⟩) fun e =>
      e.endKey (leAt p 3 1) ⟨(u.link l).peer, leAt p 4 2, leAt p 6 1⟩).settleTears).credit l 3 :=
  congrArg (State.credit · l 3) (if_pos op)

theorem takeReclaim_ended (op : leAt p 0 1 = 6) : u.takeReclaim l p =
    (u.modHome (leAt p 4 2) (Engines.sourceOf (u.link l).peer (leAt p 3 1) (leAt p 6 1)) fun e =>
      { e with resv := e.resv.filter fun r => ¬(r.pkg = (u.link l).peer ∧ r.glade = leAt p 1 2 ∧ r.zone = leAt p 3 1 ∧ r.rill = leAt p 6 1) }).credit l 3 :=
  congrArg (State.credit · l 3) (if_neg (by omega))

/-! ## Calls, SPDM fragments and widths (R314, R431, R448) -/

theorem takeCall_oldest {q : List Byte} {rest : List (List Byte)} (h : (u.link l).calls = q :: rest) :
    u.takeCall l = ((u.modLink l fun x => { x with calls := rest }).credit l 4).message (.link l (leAt q 64 8) (leAt q 0 4)) (sliceB q 0 64) := by
  simp only [State.takeCall, h]

theorem takeCall_none (h : (u.link l).calls = []) : u.takeCall l = u := by
  simp only [State.takeCall, h]

theorem takeWidth_lower (pos : 0 < leAt p 1 1) (lower : leAt p 1 1 < (u.link l).width) : u.takeWidth l p = (u.modLink l fun x => { x with width := leAt p 1 1 }).credit l 7 := by
  refine congrArg (State.credit · l 7) ?_
  have new : (if 0 < leAt p 1 1 ∧ leAt p 1 1 < (u.link l).width then { u.link l with width := leAt p 1 1 } else u.link l) = { u.link l with width := leAt p 1 1 } := if_pos ⟨pos, lower⟩
  exact congrArg (fun x => { u with links := nset u.links l x }) new

theorem takeWidth_keeps (h : leAt p 1 1 = 0 ∨ (u.link l).width ≤ leAt p 1 1) : ((u.takeWidth l p).link l).width = (u.link l).width := by
  rw [State.takeWidth, State.credit, State.link_modLink_self, State.link_modLink_self, if_neg (by omega)]

end

/-- What each kind of flit leaves when its turn comes. -/
theorem flitPayloads : Parts.FlitPayloads := by
  intro u l p peer key ctl dest zone ends
  refine ⟨?_, fun x => takeNotices_single, ?_, ?_, ?_, takeReclaim_reclaim, takeReclaim_ended, fun q rest => takeCall_oldest, takeCall_none, ?_, deliver_width u l,
    ⟨takeWidth_lower, takeWidth_keeps⟩, fun kind => deliver_other u l⟩
  · intro waits same
    refine ⟨takeData_behind, fun first => ⟨fun none => (takeData_first first).trans (arrive_unreserved none), fun g found => ?_⟩⟩
    intro v lands
    rw [takeData_first first, arrive_reserved found]
    exact ⟨fun h => if_pos h, fun h => if_neg h⟩
  · intro v st c low reserved t new
    have answer : u.takeRes l p = (t.sendNotices l (if st = 0 then new.map fun i => noticeBytes i zone ctl else [])).credit l 3 := takeRes_eq reserved
    refine ⟨fun none => ?_, fun granted some_ few => ?_⟩
    · rw [answer]
      split
      · next granted =>
        rw [none.resolve_left (not_not.2 granted)]
        rfl
      · rfl
    · rw [answer, if_pos granted, sendNotices_one (by simpa using some_) (by simpa using few), List.length_map, ← List.flatMap_def]
      rfl
  · intro z g st
    refine ⟨fun op => ⟨fun i asked => ?_, fun none => ?_⟩, fun op => ⟨fun i asked => ?_, fun none => ?_⟩⟩
    · exact takeAnswer_reserved op asked
    · rw [takeAnswer_unasked op none]
      refine ⟨fun released => ?_, fun refused => ?_, fun other => ?_⟩
      · exact congrArg (State.credit · l 3) (if_pos released)
      · exact congrArg (State.credit · l 3) ((if_neg (by omega)).trans (if_pos (.inr refused)))
      · exact congrArg (State.credit · l 3) ((if_neg (by omega)).trans (if_neg (by omega)))
    · exact takeAnswer_held op asked
    · rw [takeAnswer_unheld op none]
      exact ⟨fun ended => congrArg (State.credit · l 3) (if_pos ended), fun other => congrArg (State.credit · l 3) (if_neg other)⟩
  · intro held op
    exact ⟨takeRelease_release, fun hold st => takeRelease_hold hold, takeRelease_name⟩
  · intro m
    exact ⟨fun more => if_neg more, fun last => if_pos last⟩

end Sys2Proof.Machine
end

section
/-! The link's own notices (R425, R427, R451, R452): NAK, VERSION, SPDM messages, SUSPECT, PEER_ABORT. -/

namespace Sys2Proof.Machine

section
variable {u : State} {l : Nat} {p : List Byte}

/-- A flit credited keeps all of a link but its credits. -/
theorem link_credit (u : State) (l kind : Nat) : (u.credit l kind).link l = { u.link l with credits := nmod 0 (u.link l).credits (vcOf kind) (· + 1) } := State.link_modLink_self u l _

/-! ## NAK (R451) -/

theorem takeNak_unknown (h : ∀ f ∈ ((u.credit l 7).link l).replay, f.seq ≠ leAt p 8 8) : u.takeNak l p = u.credit l 7 := by
  have none : (((u.credit l 7).link l).replay.find? fun f => decide (f.seq = leAt p 8 8)) = none := by simpa using h
  simp only [State.takeNak, none]

/-- The state once a NAK of a sequence number has been counted. -/
def State.nakCounted (u : State) (l q : Nat) : State := (u.credit l 7).modLink l fun x => { x with nakFails := nmod 0 x.nakFails q (· + 1) }

theorem takeNak_known {f : Flit} (h : (((u.credit l 7).link l).replay.find? fun f => decide (f.seq = leAt p 8 8)) = some f) :
    let w := u.nakCounted l (leAt p 8 8)
    let r := if 8 ≤ nget 0 ((u.credit l 7).link l).nakFails (leAt p 8 8) + 1 then w.retrain l else w
    u.takeNak l p = if (r.link l).st = .down then r else r.putFlit l f := by
  have count : nget 0 ((u.nakCounted l (leAt p 8 8)).link l).nakFails (leAt p 8 8) = nget 0 ((u.credit l 7).link l).nakFails (leAt p 8 8) + 1 := by
    rw [State.nakCounted, State.link_modLink_self, nget_nmod_self]
  rw [← count]
  simp only [State.takeNak, h]
  rfl

theorem st_nakCounted (q : Nat) : ((u.nakCounted l q).link l).st = (u.link l).st := by
  rw [State.nakCounted, State.link_modLink_self, link_credit]

/-! ## VERSION (R452) -/

theorem takeVersion_ready (h : (u.link l).st = .up ∨ (u.link l).st = .auth) : u.takeVersion l p = u.credit l 7 :=
  if_pos (by rwa [link_credit])

section
variable (up : (u.link l).st ≠ .up) (auth : (u.link l).st ≠ .auth)
include up auth

theorem takeVersion_common (common : leAt p 1 1 ≤ 1 ∧ 1 ≤ leAt p 2 1) :
    let low := decide (u.self < leAt p 3 1)
    let t := (if (u.link l).st = .down then (u.credit l 7).sendVersion l else u.credit l 7).modLink l fun x => { x with st := .auth, lower := low }
    u.takeVersion l p = if low then t.askSpdm l 0x84 else t := by
  have st : ((u.credit l 7).link l).st = (u.link l).st := by rw [link_credit]
  have self : (u.credit l 7).self = u.self := rfl
  simp only [State.takeVersion, st, self, common, up, auth, or_self, and_self, reduceIte]

theorem takeVersion_none (h : ¬(leAt p 1 1 ≤ 1 ∧ 1 ≤ leAt p 2 1)) : u.takeVersion l p = (u.credit l 7).dropLink l 1 := by
  have st : ((u.credit l 7).link l).st = (u.link l).st := by rw [link_credit]
  simp only [State.takeVersion, st, h, up, auth, or_self, reduceIte]

end

/-! ## SPDM messages (R431) -/

/-- The requests of the device in their order, and what follows each. -/
theorem nextRequest_follows : ∀ y ∈ [(0x84, 0xE1), (0xE1, 0xE3), (0xE3, 0x81), (0x81, 0x82), (0x82, 0x83), (0x83, 0xE0), (0xE0, 0xE4), (0xE4, 0xE5)],
    nextRequest y.1 = y.2 ∧ y.2 ≠ 0 ∧ y.1 < 0x100 := by decide

theorem spdmMessage_answer (answer : leAt p 1 1 < 0x80) (asked : leAt p 1 1 + 0x80 = (u.link l).asking) :
    u.spdmMessage l p = if nextRequest (leAt p 1 1 + 0x80) = 0 then u.modLink l fun x => { x with asking := 0 } else u.askSpdm l (nextRequest (leAt p 1 1 + 0x80)) :=
  (if_neg (Nat.not_le.2 answer)).trans (if_pos asked)

theorem spdmMessage_other (answer : leAt p 1 1 < 0x80) (other : leAt p 1 1 + 0x80 ≠ (u.link l).asking) : u.spdmMessage l p = u.dropLink l 2 :=
  (if_neg (Nat.not_le.2 answer)).trans (if_neg other)

/-- A request is what the link's responder does with it. -/
theorem spdmMessage_request {i : Instr} (request : 0x80 ≤ leAt p 1 1) (h : u.spdmRequest l p = exec i u) (t : State) (run : exec i u = .next t) : u.spdmMessage l p = t :=
  (if_pos request).trans (by rw [h, run]; rfl)

/-! ## SUSPECT (R427) and PEER_ABORT (R425) -/

theorem nkeys_none {α : Type} {m : NatMap α} {hit : Nat → α → Bool} (h : ∀ c ∈ m, hit c.1 c.2 = false) : nkeys m hit = [] := by
  rw [nkeys, List.filterMap_eq_nil_iff]
  intro c at_
  simp [h c at_]

theorem nkeys_one {α : Type} {before after : NatMap α} {c : Nat × α} {hit : Nat → α → Bool} (others : ∀ y ∈ before ++ after, hit y.1 y.2 = false) (own : hit c.1 c.2 = true) :
    nkeys (before ++ c :: after) hit = [c.1] := by
  have first := nkeys_none fun y at_ => others y (List.mem_append_left _ at_)
  have last := nkeys_none fun y at_ => others y (List.mem_append_right _ at_)
  rw [nkeys] at first last ⊢
  simp [first, last, own]

/-- The state with its jobs replaced. -/
def State.withJobs (s : State) (js : NatMap Job) : State := { s with jobs := js }

/-- The jobs are not read where a fault record is written (R315). -/
theorem fqWrite_withJobs (s : State) (js : NatMap Job) (f cause flags fn ctx glade value aux : Nat) :
    (s.withJobs js).fqWrite f cause flags fn ctx glade value aux = (s.fqWrite f cause flags fn ctx glade value aux).withJobs js := by
  have same : (s.withJobs js).fn f = s.fn f := rfl
  have put (a : Nat) (bs : List Byte) : (s.withJobs js).put a bs = (s.put a bs).withJobs js := rfl
  have modFn (t : State) (g : Fn → Fn) : (t.withJobs js).modFn f g = (t.modFn f g).withJobs js := rfl
  simp only [State.fqWrite, same, put, modFn, apply_ite (State.withJobs · js)]

theorem noGlade_withJobs (s : State) (js : NatMap Job) (cause fn ctx value aux : Nat) :
    (s.withJobs js).noGlade cause fn ctx value aux = (s.noGlade cause fn ctx value aux).withJobs js := by
  simp only [State.noGlade, State.faultRecord]
  split_ifs
  · exact fqWrite_withJobs ..
  · rw [fqWrite_withJobs, fqWrite_withJobs]

theorem tearDead_jobs (s : State) (coll pkg ctx : Nat) (ks : List DeadStream) : (s.tearDead coll pkg ctx ks).jobs = s.jobs :=
  foldl_keeps State.jobs (fun s c => s.mapBoughs (Bough.tearDead c pkg ks)) (fun _ _ => rfl) _ s

/-- A member of a collective once another has ended on a partner (R425). -/
def Job.abortCounted (j : Job) : Job :=
  { j with soft := nmod {} j.soft j.abortCounter fun k => { count := 2 ^ 64 - 1, nonok := min (k.nonok + 1) (2 ^ 64 - 1), status := .peerAbort } }

/-- The end of a member job reaches the one other member of its collective. -/
theorem peerAbort_one {coll pkg ctx c : Nat} (ks : List DeadStream) {j : Job} (alone : u.jobs = [(c, j)]) (member : j.collective = some coll) (other : ¬(pkg = u.self ∧ c = ctx))
    (live : j.ending = false) : u.peerAbort coll pkg ctx ks = ((u.tearDead coll pkg ctx ks).noGlade 0x187 j.vf c pkg ctx).withJobs [(c, j.abortCounted)] := by
  have members : nkeys u.jobs (fun c j => decide (j.collective = some coll ∧ ¬(pkg = u.self ∧ c = ctx) ∧ j.ending = false)) = [c] := by
    rw [alone]
    exact nkeys_one (before := []) (after := []) (c := (c, j)) (by simp) (decide_eq_true ⟨member, other, live⟩)
  have torn : (u.tearDead coll pkg ctx ks).jobs = [(c, j)] := (tearDead_jobs u coll pkg ctx ks).trans alone
  have counted : (u.tearDead coll pkg ctx ks).modJob c Job.abortCounted = (u.tearDead coll pkg ctx ks).withJobs [(c, j.abortCounted)] := by
    simp [State.modJob, State.withJobs, torn, nmod, nset, nget, nfind]
  have vf : ((u.tearDead coll pkg ctx ks).job c).vf = j.vf := by simp [State.job, torn, nget, nfind]
  simp only [State.peerAbort, members, List.foldl_cons, List.foldl_nil]
  change (State.modJob _ c Job.abortCounted).noGlade 0x187 _ c pkg ctx = _
  rw [counted, vf, noGlade_withJobs]

end

/-- What the link's own notices do. -/
theorem linkNotices : Parts.LinkNotices := by
  intro u l p peer v
  refine ⟨?_, ?_, ?_, ?_, ⟨fun one => congrArg (State.credit · l 7) (if_neg one), fun one => congrArg (State.credit · l 7) (if_pos one)⟩, ?_⟩
  · intro q again fails w
    have stage : ((u.nakCounted l q).link l).st = (u.link l).st := st_nakCounted q
    refine ⟨takeNak_unknown, fun f known few up => ?_, fun f known few down => ?_, fun f known many => ?_⟩
    · rw [takeNak_known known, if_neg (Nat.not_le.2 few), if_neg (stage ▸ up)]
      rfl
    · rw [takeNak_known known, if_neg (Nat.not_le.2 few), if_pos (stage.trans down)]
      rfl
    · rw [takeNak_known known, if_pos many]
      rfl
  · intro common st low next
    refine ⟨takeVersion_ready, fun found common => ?_, fun down common => ?_, takeVersion_none⟩
    · have stage : (u.link l).st ≠ .up ∧ (u.link l).st ≠ .auth ∧ (u.link l).st ≠ .down := by
        change (u.link l).st = .version ∨ (u.link l).st = .absent at found
        rcases found with h | h <;> simp [h]
      obtain ⟨up, auth, down⟩ := stage
      have running := takeVersion_common up auth common
      rw [if_neg down] at running
      exact running
    · have stage : (u.link l).st = .down := down
      have up : (u.link l).st ≠ .up := by simp [stage]
      have auth : (u.link l).st ≠ .auth := by simp [stage]
      have running := takeVersion_common up auth common
      rw [if_pos stage] at running
      exact running
  · intro code asked pairs
    refine ⟨?_, fun last asks => ?_, spdmMessage_other, ?_⟩
    · intro y pair code_ asks
      obtain ⟨next, nonzero, small⟩ := nextRequest_follows y pair
      rw [spdmMessage_answer (by omega) (code_.trans asks.symm), code_, next, if_neg nonzero]
    · rw [spdmMessage_answer (by omega) (last.trans asks.symm), last]
      rfl
    · intro request r runs
      have each : ∀ i, u.spdmRequest l p = exec i u → runs i := fun i h => spdmMessage_request request h
      refine ⟨fun c => each _ ?_, fun c => each _ ?_, fun c => each _ ?_, fun c => each _ ?_, fun c => each _ ?_, fun c => each _ ?_, fun c => each _ ?_, fun c => each _ ?_,
        fun n y one => ⟨fun c => each _ ?_, fun c => each _ ?_, fun c => each _ ?_, fun c => each _ ?_⟩, fun other => each _ ?_⟩
      iterate 8
        · change leAt p 1 1 = _ at c
          simp only [State.spdmRequest, c]
          rfl
      iterate 4
        · change leAt p 1 1 = _ at c
          change (u.responder (64 + l)).sessions = _ at one
          simp only [State.spdmRequest, c, one]
          rfl
      · change leAt p 1 1 ∉ _ at other
        simp only [List.mem_cons, List.not_mem_nil, or_false, not_or] at other
        simp only [State.spdmRequest, other, reduceIte]
        rfl
  · intro z told hit
    refine ⟨fun none => ?_, fun before c after jobs others own => ?_⟩
    · have none' : nkeys u.jobs (fun _ j => j.received.contains (peer, z.clearing)) = [] := nkeys_none none
      exact congrArg (fun js => State.credit (js.foldl (fun s c => s.suspect c z) told) l 7) none'
    · have one : nkeys u.jobs (fun _ j => j.received.contains (peer, z.clearing)) = [c.1] := jobs ▸ nkeys_one others own
      exact congrArg (fun js => State.credit (js.foldl (fun s c => s.suspect c z) told) l 7) one
  · intro coll pkg ctx ks c j alone member other live t
    have ended : t = _ := peerAbort_one ks alone member other live
    have own : t.job c = j.abortCounted := by simp [ended, State.withJobs, State.job, nget, nfind]
    refine ⟨?_, fun k ne => ?_, ?_⟩
    · rw [own, Job.abortCounted, nmod, nfind_nset_self]
    · rw [own, Job.abortCounted, nmod, nfind_nset_ne _ _ ne.symm]
    · rw [ended]
      rfl

/-- Settles O47: a flit that arrives, each kind's payload, the transport and the notices. -/
theorem linkFlits : Obligations.LinkFlits := by
  refine ⟨fun s l seq n ok p => ?_, flitTransport, flitPayloads, linkNotices⟩
  intro op none_
  have otherOp : ∀ {kind : Nat} {ops : List Nat}, op ∉ ops → s.receiveOp l seq ok n kind ops p = .next s := fun h => if_neg h
  refine ⟨flitIn_of_receive rfl (by decide) fun _ => rfl, flitIn_of_receive rfl (by decide) fun _ => rfl, flitIn_of_receive rfl (by decide) fun _ => rfl, ?_, ?_, ?_, ?_, ?_, ?_, ?_, ?_,
    flitIn_of_receive rfl (by decide) fun _ => rfl, flitIn_of_receive rfl (by decide) fun _ => rfl, flitIn_of_receive rfl (by decide) fun _ => rfl, ?_, ?_, ?_, ?_, ?_, ?_, ?_, ?_⟩
  · exact fun h => flitIn_of_receiveOp rfl (by simpa using h) (by decide) fun u => deliver_slotRes u l h
  · exact fun h => otherOp (by simpa using h)
  · exact fun h => flitIn_of_receiveOp rfl (by simpa using h) (by decide) fun u => deliver_slotAnswer u l h
  · exact fun h h' => otherOp (by simpa using ⟨h, h'⟩)
  · exact fun h => flitIn_of_receiveOp rfl (by simpa using h) (by decide) fun u => deliver_slotRelease u l h
  · exact fun h => otherOp (by simpa using h)
  · exact fun h => flitIn_of_receiveOp rfl (by simpa using h) (by decide) fun u => deliver_slotReclaim u l h
  · exact fun h h' => otherOp (by simpa using ⟨h, h'⟩)
  · exact fun h => flitIn_of_receiveOp rfl (by simpa using h) (by decide) fun u => deliver_version u l h
  · exact fun h => otherOp (by simpa using h)
  · exact fun h => flitIn_of_receiveOp rfl (by simpa using h) (by decide) fun u => deliver_nak u l h
  · exact fun h => otherOp (by simpa using h)
  · exact fun h => flitIn_of_receiveOp rfl (by simpa using h) (by decide) fun u => deliver_suspect u l h
  · exact fun h => otherOp (by simpa using h)
  · exact fun h => flitIn_of_receiveOp rfl (by simpa using h) (by decide) fun u => deliver_abort u l h
  · exact fun h => otherOp (by simpa using h)

end Sys2Proof.Machine
end

section
/-! A fire of the stand (R71, R101 to R107, R297): what it makes of the tile sets, and its sums. -/

namespace Sys2Proof.Machine

/-! ## The stand changed -/

section
variable (s : State) (g : Nat) (f : Stand → Stand)

theorem stand_modStand (h : Nat) : (s.modStand g f).stand h = if h = g then f (s.stand g) else s.stand h := by
  rw [State.stand, State.modStand, State.eng_modEng]
  split <;> rfl

@[simp] theorem stand_modStand_self : (s.modStand g f).stand g = f (s.stand g) := by rw [stand_modStand, if_pos rfl]

@[simp] theorem ww_modStand (h : Nat) : (s.modStand g f).ww h = s.ww h := State.ww_modEng ..

/-- What a change of the stand keeps of an engine set it keeps of every one. -/
theorem eng_modStand_same {α : Type} (r : Engines → α) (hr : ∀ e x, r { e with stand := x } = r e) (h : Nat) : r ((s.modStand g f).eng h) = r (s.eng h) := by
  rw [State.modStand, State.eng_modEng]
  split
  · next e => subst e; exact hr _ _
  · rfl

@[simp] theorem rills_modStand (h : Nat) : ((s.modStand g f).eng h).rills = (s.eng h).rills := eng_modStand_same s g f Engines.rills (fun _ _ => rfl) h

/-- Two changes of the stand that agree on what it holds are the same change. -/
theorem modStand_congr {f f' : Stand → Stand} (h : f (s.stand g) = f' (s.stand g)) : s.modStand g f = s.modStand g f' := by
  have same : { (s.glade g) with cur := { (s.glade g).cur with eng := { (s.glade g).cur.eng with stand := f (s.stand g) } } } =
      { (s.glade g) with cur := { (s.glade g).cur with eng := { (s.glade g).cur.eng with stand := f' (s.stand g) } } } := by rw [h]
  exact congrArg (fun x => { s with glades := nset s.glades g x }) same

@[simp] theorem active_modStand (h : Nat) : ((s.modStand g f).glade h).active = (s.glade h).active := by
  rw [State.modStand, State.modEng, State.modBough, State.glade_modGlade]
  split
  · next e => subst e; rfl
  · rfl

end

@[simp] theorem stand_perf (s : State) (g e n h : Nat) : (s.perf g e n).stand h = s.stand h := by rw [State.stand, State.eng_perf]; rfl

/-- The set of an index after a change of it. -/
@[simp] theorem set_modSet (x : Stand) (k : Nat) (f : TileSet → TileSet) : (x.modSet k f).set k = f (x.set k) := by
  unfold Stand.modSet Stand.set
  split <;> rfl

@[simp] theorem set_setPlane (x : Stand) (i k : Nat) (p : Plane) : (x.setPlane i p).set k = x.set k := by
  unfold Stand.setPlane
  split <;> rfl

@[simp] theorem fires_setPlane (x : Stand) (i : Nat) (p : Plane) : (x.setPlane i p).fires = x.fires := by
  unfold Stand.setPlane
  split <;> rfl

/-! ## The planes exchange at fire 0 of a plane-swap form (R71) -/

/-- The stand with its planes exchanged. -/
def Stand.swapped (x : Stand) : Stand := { x.setPlane x.active {} with active := x.idle }

/-- The stand from which a fire takes its plane. -/
def Stand.swapIf (x : Stand) (swap : Bool) : Stand := if swap then x.swapped else x

section
variable (x : Stand) (swap : Bool)

@[simp] theorem set_swapIf (k : Nat) : (x.swapIf swap).set k = x.set k := by
  cases swap
  · rfl
  · exact set_setPlane x x.active k ({} : Plane)

@[simp] theorem target_swapIf (d : List Byte) : (x.swapIf swap).target d = x.target d := by
  simp only [Stand.target, set_swapIf]

@[simp] theorem fires_swapIf : (x.swapIf swap).fires = x.fires := by
  cases swap
  · rfl
  · exact fires_setPlane x x.active ({} : Plane)

@[simp] theorem active_swapIf : (x.swapIf swap).active = if swap then x.idle else x.active := by cases swap <;> rfl

/-- The plane of a fire is the idle one before the exchange. -/
theorem plane_swapIf : (x.swapIf swap).plane (x.swapIf swap).active = x.plane (if swap then x.idle else x.active) := by
  rw [active_swapIf]
  cases swap
  · rfl
  · by_cases first : x.active = 0 <;> simp [Stand.swapIf, Stand.swapped, Stand.plane, Stand.setPlane, Stand.idle, first, Nat.sub_eq_zero_of_le, Nat.one_le_iff_ne_zero]

end

/-! ## A fire -/

/-- What a row of an A slot is read from: the memory with what is not seen yet, the poison, the time and the active bough. -/
theorem standRow_congr {s t : State} {g : Nat} (mem : t.mem = s.mem) (unseen : t.unseen = s.unseen) (poison : t.poison = s.poison) (wall : t.wall = s.wall)
    (active : (t.glade g).active = (s.glade g).active) (uid : Nat) (d : List Byte) (i m scale : Nat) : t.standRow g uid d i m scale = s.standRow g uid d i m scale := by
  have view : t.view = s.view := by
    funext
    simp only [State.view, State.bytes, mem, unseen, wall]
  have bad : t.bad = s.bad := by
    funext
    simp only [State.bad, poison]
  rw [State.standRow, view, bad, active]
  rfl

/-- An operation's next fire exchanges the planes: the first of a plane-swap form (R71). -/
def StandOp.swaps (o : StandOp) : Bool := decide (sdSwap o.desc ∧ o.fires = 0)

/-- The state with the planes of a glade exchanged for an operation's next fire. -/
def State.swapPlanes (s : State) (g : Nat) (o : StandOp) : State := if o.swaps then s.modStand g Stand.swapped else s

/-- The state from which an operation's next fire reads its A slot (R71, R280). -/
def State.slotFetched (s : State) (g : Nat) (o : StandOp) : State :=
  let d := o.desc
  let i := o.fires % sdSlots d
  let s := s.swapPlanes g o
  (s.flow (s.arrivalPts g (sdRbase d + i)) (.op o.uid)).touch (burrowAt g (s.glade g).active + sdSlot d i) (sdRows d * leAt d 24 2)

/-- The fire that an operation starts into a set from a plane without a parity failure (R71). -/
def State.newFire (s : State) (g : Nat) (o : StandOp) (dst : Nat) : Fire :=
  let d := o.desc
  let i := o.fires % sdSlots d
  let t := s.slotFetched g o
  let sums := t.fireSums g o.uid d i o.modulus ((t.stand g).set dst) ((t.stand g).plane (t.stand g).active)
  { opnum := o.opnum, off := sdSlot d i, rill := sdRbase d + i, set := dst, start := s.cyAt g, span := sdRows d * modeW (sdMode d), rows := sdRows d
    fin := sdFinal d, acc := sums.1, nanRows := sums.2, m64 := if sdMode d = 3 then some o.modulus else none }

/-- The stand with a fire of an operation begun. -/
def Stand.firing (x : Stand) (k : Nat) (o : StandOp) (f : Fire) : Stand :=
  { x.modSet f.set fun y => { y with
      claim := true, filledBy := if o.opnum ∈ y.filledBy then y.filledBy else y.filledBy ++ [o.opnum]
      uids := if o.uid ∈ y.uids then y.uids else y.uids ++ [o.uid]
      owners := if decide (o.fires + 1 = sdFires o.desc) then y.owners ++ [o.opnum] else y.owners } with
    ops := nset x.ops k { o with fires := o.fires + 1, readyAt := none }
    fires := x.fires ++ [f], busyUntil := f.start + f.span, lastSlot := k }

section
variable (s : State) (g : Nat) (o : StandOp)

@[simp] theorem stand_swapPlanes : (s.swapPlanes g o).stand g = (s.stand g).swapIf o.swaps := by
  unfold State.swapPlanes Stand.swapIf
  split
  · exact stand_modStand_self ..
  · rfl

@[simp] theorem stand_slotFetched : (s.slotFetched g o).stand g = (s.stand g).swapIf o.swaps := stand_swapPlanes s g o

/-- What an exchange of planes keeps of a state the fetch of an A slot keeps but for what is noted of its reads. -/
theorem swapPlanes_same {α : Type} (r : State → α) (hr : ∀ f, r (s.modStand g f) = r s) : r (s.swapPlanes g o) = r s := by
  unfold State.swapPlanes
  split
  · exact hr _
  · rfl

theorem arrivalPts_swapPlanes (k : Nat) : (s.swapPlanes g o).arrivalPts g k = s.arrivalPts g k :=
  swapPlanes_same s g o (·.arrivalPts g k) fun f => by
    have home : (s.modStand g f).home g = s.home g := State.modBough_same s g g (·.home g) _ fun _ => rfl
    simp only [State.arrivalPts, rills_modStand, home]

/-- A row of an A slot is as the operation finds it, whatever the planes. -/
theorem standRow_slotFetched (uid : Nat) (d : List Byte) (i m scale : Nat) : (s.slotFetched g o).standRow g uid d i m scale =
    (s.flow (s.arrivalPts g (sdRbase o.desc + o.fires % sdSlots o.desc)) (.op o.uid)).standRow g uid d i m scale := by
  refine standRow_congr ?_ ?_ ?_ ?_ ?_ uid d i m scale
  · exact swapPlanes_same s g o State.mem fun _ => rfl
  · have unseen : (s.swapPlanes g o).unseen = s.unseen := swapPlanes_same s g o State.unseen fun _ => rfl
    simp only [State.slotFetched, State.touch, State.flow, State.flowIf, arrivalPts_swapPlanes, unseen]
  · exact swapPlanes_same s g o State.poison fun _ => rfl
  · exact swapPlanes_same s g o State.wall fun _ => rfl
  · exact swapPlanes_same s g o (fun t => (t.glade g).active) fun f => active_modStand s g f g

variable {s g o}

/-- An operation's next fire where its set is free, its modulus valid and its plane without a parity failure. -/
theorem fire_eq {k dst : Nat} (target : (s.stand g).target o.desc = some dst) (valid : sdMode o.desc = 3 → o.modulusOk = true)
    (parity : ((s.stand g).plane (if o.swaps then (s.stand g).idle else (s.stand g).active)).parity = none) :
    let u := (s.slotFetched g o).modStand g fun x => x.firing k o (s.newFire g o dst)
    s.fire g k o = (u.usage (u.ctxOf g) (3 + sdMode o.desc) (sdRows o.desc * 32 * sdKb o.desc * modeCols (sdMode o.desc))).perf g 6 1 := by
  have invalid : ¬(sdMode o.desc = 3 ∧ o.modulusOk = false) := by
    rintro ⟨m64, bad⟩
    rw [valid m64] at bad
    cases bad
  have free : ((s.swapPlanes g o).stand g).target o.desc = some dst := by rw [stand_swapPlanes, target_swapIf, target]
  have whole : (((s.swapPlanes g o).stand g).plane ((s.swapPlanes g o).stand g).active).parity = none := by rw [stand_swapPlanes, plane_swapIf, parity]
  have exchanged : (if decide (sdSwap o.desc ∧ o.fires = 0) then s.modStand g fun x => { x.setPlane x.active {} with active := x.idle } else s) = s.swapPlanes g o := rfl
  simp only [State.fire, if_neg invalid, exchanged, free, whole]
  rfl

end

/-! ## The sums of a fire (R101 to R107) -/

theorem foldl_keeps_mem {α β γ : Type} (r : β → γ) {f : β → α → β} {l : List α} (h : ∀ x ∈ l, ∀ s, r (f s x) = r s) (s : β) : r (l.foldl f s) = r s := by
  induction l generalizing s with
  | nil => rfl
  | cons x l ih => exact (ih (fun y at_ => h y (List.mem_cons_of_mem _ at_)) _).trans (h x (List.mem_cons_self ..) s)

/-- What a fold leaves where one element alone acts: each other has another key and leaves it. -/
theorem foldl_once {α β γ : Type} (r : β → γ) {f : β → α → β} {new : γ → γ} (key : α → Nat) {l : List α} (once : (l.map key).Nodup) {x : α} (at_ : x ∈ l)
    (others : ∀ y ∈ l, key y ≠ key x → ∀ s, r (f s y) = r s) (own : ∀ s, r (f s x) = new (r s)) (s : β) : r (l.foldl f s) = new (r s) := by
  obtain ⟨before, after, rfl⟩ := List.append_of_mem at_
  rw [List.map_append, List.map_cons, List.nodup_middle, List.nodup_cons, List.mem_append, not_or] at once
  obtain ⟨⟨first, last⟩, _⟩ := once
  have apart {l : List α} (new : key x ∉ l.map key) : ∀ y ∈ l, key y ≠ key x := fun y at_ e => new (e ▸ List.mem_map_of_mem at_)
  rw [List.foldl_append, List.foldl_cons, foldl_keeps_mem r fun y at_ => others y (by simp [at_]) (apart last y at_), own,
    foldl_keeps_mem r fun y at_ => others y (by simp [at_]) (apart first y at_)]

theorem map_fst_zip_prefix {α β : Type} (l : List α) (l' : List β) : (l.zip l').map Prod.fst <+: l := by
  induction l generalizing l' with
  | nil => simp
  | cons x l ih => cases l' <;> simp [ih]

/-- The columns of a plane with their numbers, as a fire of a mode takes them. -/
def planeCols (mode : Nat) (cols : List (List WBlock)) : List (Nat × List WBlock) := (List.range (modeCols mode)).zip cols

theorem planeCols_once (mode : Nat) (cols : List (List WBlock)) : ((planeCols mode cols).map Prod.fst).Nodup := by
  exact (map_fst_zip_prefix _ _).sublist.nodup List.nodup_range

theorem mem_planeCols {mode n : Nat} {cols : List (List WBlock)} {col : List WBlock} (few : n < modeCols mode) (at_ : cols[n]? = some col) : (n, col) ∈ planeCols mode cols := by
  rw [List.mem_iff_getElem?]
  exact ⟨n, by simp [planeCols, List.getElem?_zip_eq_some, at_, few]⟩

theorem planeCols_lt {mode : Nat} {cols : List (List WBlock)} {c : Nat × List WBlock} (at_ : c ∈ planeCols mode cols) : c.1 < modeCols mode :=
  List.mem_range.1 (List.of_mem_zip at_).1

/-- One row of A against the columns of a plane: the accumulators after it. -/
def sumRow (mode q : Nat) (cols : List (List WBlock)) (l : List (Nat × Nat)) (r : Nat × List (Int × List (Bool × Nat)) × Bool) : List (Nat × Nat) :=
  (planeCols mode cols).foldl (fun l c =>
    if mode = 3 then setLane l r.1 c.1 (accBlocks mode q r.2.1 c.2 (laneOf l r.1 c.1))
    else nmod 0 l (192 * r.1 + c.1) fun a => accBlocks mode q r.2.1 c.2 a) l

section
variable {mode q : Nat} {cols : List (List WBlock)} {r : Nat × List (Int × List (Bool × Nat)) × Bool} {n : Nat} (l : List (Nat × Nat))

theorem nget_sumRow (words : mode ≠ 3) {col : List WBlock} (few : n < modeCols mode) (at_ : cols[n]? = some col) :
    nget 0 (sumRow mode q cols l r) (192 * r.1 + n) = accBlocks mode q r.2.1 col (nget 0 l (192 * r.1 + n)) := by
  refine foldl_once (nget 0 · (192 * r.1 + n)) Prod.fst (planeCols_once mode cols) (mem_planeCols few at_) (fun y _ ne s => ?_) (fun s => ?_) l
  · rw [if_neg words]
    exact nget_nmod_ne _ _ _ _ fun e => ne (Nat.add_left_cancel e)
  · rw [if_neg words]
    exact nget_nmod_self ..

theorem nget_sumRow_ne (words : mode ≠ 3) {m : Nat} (ne : r.1 ≠ m) (few : n < modeCols mode) : nget 0 (sumRow mode q cols l r) (192 * m + n) = nget 0 l (192 * m + n) := by
  have wide : modeCols mode = 192 := if_neg words
  refine foldl_keeps_mem (nget 0 · (192 * m + n)) (fun y at_ s => ?_) l
  have narrow := planeCols_lt at_
  rw [if_neg words]
  exact nget_nmod_ne _ _ _ _ (by omega)

/-! ### The lanes of MM.M64 (R107) -/

theorem setLane_eq (m v : Nat) : setLane l m n v =
    nset (nset (nset (nset l (192 * m + 4 * n) (v % 2 ^ 32)) (192 * m + 4 * n + 1) (v / 2 ^ 32 % 2 ^ 32)) (192 * m + 4 * n + 2) (v / 2 ^ 64 % 2 ^ 32)) (192 * m + 4 * n + 3) (v / 2 ^ 96 % 2 ^ 32) := by
  simp [setLane, show List.range 4 = [0, 1, 2, 3] from rfl]

theorem laneOf_setLane (m v : Nat) : laneOf (setLane l m n v) m n = v % 2 ^ 128 := by
  simp only [laneOf, setLane_eq, nget, nfind_nset]
  simp
  omega

theorem nget_setLane_ne {m k v : Nat} (apart : ∀ i < 4, 192 * m + 4 * n + i ≠ k) : nget 0 (setLane l m n v) k = nget 0 l k :=
  foldl_keeps_mem (nget 0 · k) (fun i at_ _ => nget_nset_ne 0 _ _ (apart i (List.mem_range.1 at_))) l

theorem laneOf_setLane_ne {m m' n' v : Nat} (few : n < 48) (few' : n' < 48) (ne : m ≠ m' ∨ n ≠ n') : laneOf (setLane l m n v) m' n' = laneOf l m' n' := by
  have apart (j : Nat) (hj : j < 4) : nget 0 (setLane l m n v) (192 * m' + 4 * n' + j) = nget 0 l (192 * m' + 4 * n' + j) := nget_setLane_ne l fun i hi => by omega
  simp only [laneOf, apart 0 (by decide), apart 1 (by decide), apart 2 (by decide), apart 3 (by decide)]

theorem accBlocks_lane_lt {a : List (Int × List (Bool × Nat))} {b : List WBlock} {acc : Nat} (small : acc < 2 ^ 128) : accBlocks 3 q a b acc < 2 ^ 128 := by
  induction a generalizing b acc with
  | nil => exact small
  | cons x a ih =>
    cases b with
    | nil => exact small
    | cons y b => exact ih (by rw [if_pos rfl]; exact Nat.mod_lt _ (by decide))

/-- A sum of some residues stays within its lane, whatever was there. -/
theorem accBlocks_some_lt {a : List (Int × List (Bool × Nat))} {b : List WBlock} (acc : Nat) (ha : a ≠ []) (hb : b ≠ []) : accBlocks 3 q a b acc < 2 ^ 128 := by
  obtain ⟨x, a, rfl⟩ := List.exists_cons_of_ne_nil ha
  obtain ⟨y, b, rfl⟩ := List.exists_cons_of_ne_nil hb
  exact accBlocks_lane_lt (a := a) (b := b) (by rw [if_pos rfl]; exact Nat.mod_lt _ (by decide))

theorem laneOf_sumRow {col : List WBlock} (few : n < 48) (at_ : cols[n]? = some col) (ha : r.2.1 ≠ []) (hb : col ≠ []) :
    laneOf (sumRow 3 q cols l r) r.1 n = accBlocks 3 q r.2.1 col (laneOf l r.1 n) := by
  refine foldl_once (laneOf · r.1 n) Prod.fst (planeCols_once 3 cols) (mem_planeCols few at_) (fun y at_ ne s => ?_) (fun s => ?_) l
  · rw [if_pos rfl]
    exact laneOf_setLane_ne s (planeCols_lt at_) few (.inr ne)
  · rw [if_pos rfl]
    exact (laneOf_setLane ..).trans (Nat.mod_eq_of_lt (accBlocks_some_lt _ ha hb))

theorem laneOf_sumRow_ne {m : Nat} (ne : r.1 ≠ m) (few : n < 48) : laneOf (sumRow 3 q cols l r) m n = laneOf l m n :=
  foldl_keeps_mem (laneOf · m n) (fun y at_ s => by
    rw [if_pos rfl]
    exact laneOf_setLane_ne s (planeCols_lt at_) few (.inl ne)) l

end

/-! ### The rows of a fire -/

/-- The scale of the rows of an A slot (R101). -/
def State.rowScale (s : State) (g : Nat) (d : List Byte) (i : Nat) : Nat :=
  if sdMode d = 3 then 127 else field (nget 0x7F (s.ww g).rsc (field ((s.eng g).rill (sdRbase d + i)).cfg.toNat 57 3)).toNat 0 8

theorem scale_eq (s : State) (g : Nat) (d : List Byte) (i : Nat) : (if sdMode d = 3 then 127 else
    (nget 0x7F (s.ww g).rsc (bits ((s.eng g).rill (sdRbase d + i)).cfg.toNat 59 57)).toNat % 256) = s.rowScale g d i := by
  simp only [State.rowScale, bits, field, Nat.shiftRight_eq_div_pow, Nat.pow_zero, Nat.div_one]
  rfl

/-- The rows of an A slot with their numbers. -/
def State.slotRows (s : State) (g uid : Nat) (d : List Byte) (i : Nat) : List (Nat × List (Int × List (Bool × Nat)) × Bool) :=
  (List.range (sdRows d)).map fun m => (m, s.standRow g uid d i m (s.rowScale g d i))

section
variable (s : State) (g uid : Nat) (d : List Byte) (i q : Nat) (old : TileSet) (p : Plane)

theorem slotRows_once : ((s.slotRows g uid d i).map Prod.fst).Nodup := by
  simp only [State.slotRows, List.map_map]
  exact (List.map_id _).symm ▸ List.nodup_range

theorem fireSums_acc : (s.fireSums g uid d i q old p).1 = (s.slotRows g uid d i).foldl (sumRow (sdMode d) q p.cols) (if sdAcc d then old.acc else []) := by
  simp only [State.fireSums, scale_eq]
  rfl

theorem mem_fireSums_nan (m : Nat) : m ∈ (s.fireSums g uid d i q old p).2 ↔ m < sdRows d ∧ (s.standRow g uid d i m (s.rowScale g d i)).2 = true := by
  simp only [State.fireSums]
  rw [scale_eq]
  simp

variable {s g uid d i q old p} {m n : Nat} (row : m < sdRows d) {col : List WBlock} (at_ : p.cols[n]? = some col)
include row at_

/-- The sum of a row and a column (R103, R104). -/
theorem nget_fireSums (words : sdMode d ≠ 3) (few : n < modeCols (sdMode d)) : nget 0 (s.fireSums g uid d i q old p).1 (192 * m + n) =
    accBlocks (sdMode d) q (s.standRow g uid d i m (s.rowScale g d i)).1 col (if sdAcc d then nget 0 old.acc (192 * m + n) else 0) := by
  have own : (m, s.standRow g uid d i m (s.rowScale g d i)) ∈ s.slotRows g uid d i := List.mem_map_of_mem (List.mem_range.2 row)
  rw [fireSums_acc, foldl_once (nget 0 · (192 * m + n)) Prod.fst (slotRows_once s g uid d i) own (fun y _ ne l => nget_sumRow_ne l words ne few) (fun l => nget_sumRow l words few at_)]
  split <;> rfl

/-- The sum of residues of a row and a column (R107). -/
theorem laneOf_fireSums (lanes : sdMode d = 3) (some_ : sdKb d ≠ 0) (few : n < 48) (hb : col ≠ []) : laneOf (s.fireSums g uid d i q old p).1 m n =
    accBlocks 3 q (s.standRow g uid d i m (s.rowScale g d i)).1 col (if sdAcc d then laneOf old.acc m n else 0) := by
  have own : (m, s.standRow g uid d i m (s.rowScale g d i)) ∈ s.slotRows g uid d i := List.mem_map_of_mem (List.mem_range.2 row)
  have ha : (s.standRow g uid d i m (s.rowScale g d i)).1 ≠ [] := by simpa [State.standRow] using some_
  rw [fireSums_acc, lanes, foldl_once (laneOf · m n) Prod.fst (slotRows_once s g uid d i) own (fun y _ ne l => laneOf_sumRow_ne l ne few) (fun l => laneOf_sumRow l few at_ ha hb)]
  split <;> rfl

end

end Sys2Proof.Machine
end

section
/-! The stand's steps (R58, R62, R71 to R75): a fire, the release of its A slot, its completion, and the drains of its sets. -/

namespace Sys2Proof.Machine

section
variable {s : State} {g : Nat}

/-! ## The start of a fire (R58, R71, R75) -/

/-- The state in which the stand chooses its next operation. -/
def State.standReady (s : State) (g : Nat) : State := (tornOps g (s.stand g).ops s).markReady g

theorem standFire_waits (h : (s.standReady g).cyAt g < ((s.standReady g).stand g).busyUntil ∨ ((s.standReady g).stand g).pick = none) :
    exec (.standFire g) s = .next (s.standReady g) := by
  unfold State.standReady at h ⊢
  change execStandFire g s = _
  simp only [execStandFire]
  split
  · rfl
  · next free => rw [h.resolve_left free]

theorem standFire_picks (free : ¬(s.standReady g).cyAt g < ((s.standReady g).stand g).busyUntil) {k : Nat} {o : StandOp} (pick : ((s.standReady g).stand g).pick = some (k, o)) :
    let u := s.standReady g
    exec (.standFire g) s = .next
      (if u.blocksTimed g o.desc || u.heldRange 512 (burrowAt g (u.glade g).active + sdSlot o.desc (o.fires % sdSlots o.desc)) (slotSpan o.desc) then u else u.fire g k o) := by
  unfold State.standReady at free pick ⊢
  change execStandFire g s = _
  simp only [execStandFire, if_neg free, pick]
  exact (apply_ite Host.Outcome.next _ _ _).symm

@[simp] theorem stand_usage (s : State) (c i n h : Nat) : (s.usage c i n).stand h = s.stand h := rfl

/-- The stand after an operation's next fire has started. -/
theorem stand_fire {k dst : Nat} {o : StandOp} (target : (s.stand g).target o.desc = some dst) (valid : sdMode o.desc = 3 → o.modulusOk = true)
    (parity : ((s.stand g).plane (if o.swaps then (s.stand g).idle else (s.stand g).active)).parity = none) :
    (s.fire g k o).stand g = ((s.stand g).swapIf o.swaps).firing k o (s.newFire g o dst) ∧ (s.fire g k o).mem = s.mem := by
  rw [fire_eq target valid parity]
  exact ⟨by rw [stand_perf, stand_usage, stand_modStand_self, stand_slotFetched], swapPlanes_same s g o State.mem fun _ => rfl⟩

theorem rowScale_slotFetched (o : StandOp) (d : List Byte) (i : Nat) : (s.slotFetched g o).rowScale g d i = s.rowScale g d i := by
  have ww : (s.slotFetched g o).ww g = s.ww g := swapPlanes_same s g o (·.ww g) fun f => ww_modStand s g f g
  have rills : ((s.slotFetched g o).eng g).rills = (s.eng g).rills := swapPlanes_same s g o (fun t => (t.eng g).rills) fun f => rills_modStand s g f g
  simp only [State.rowScale, Engines.rill, ww, rills]

/-- The sums of a fire are those of the A slot that it fetches, onto what its set holds, with the columns of its plane. -/
theorem newFire_sums (o : StandOp) (dst : Nat) :
    let sums := (s.slotFetched g o).fireSums g o.uid o.desc (o.fires % sdSlots o.desc) o.modulus ((s.stand g).set dst)
      ((s.stand g).plane (if o.swaps then (s.stand g).idle else (s.stand g).active))
    (s.newFire g o dst).acc = sums.1 ∧ (s.newFire g o dst).nanRows = sums.2 := by
  simp only [State.newFire, stand_slotFetched, set_swapIf, plane_swapIf, and_self]

theorem active_firing (x : Stand) (k : Nat) (o : StandOp) (f : Fire) : (x.firing k o f).active = x.active := by
  simp only [Stand.firing, Stand.modSet]
  split <;> rfl

theorem fires_firing (x : Stand) (k : Nat) (o : StandOp) (f : Fire) : (x.firing k o f).fires = x.fires ++ [f] := rfl

theorem claim_firing (x : Stand) (k : Nat) (o : StandOp) (f : Fire) : ((x.firing k o f).set f.set).claim = true := by
  change ((x.modSet f.set _).set f.set).claim = true
  rw [set_modSet]

/-! ## The release of an A slot (R71, R297) -/

/-- A fire's last A bit-plane has entered the array and nothing holds its slot. -/
def State.releasable (s : State) (g : Nat) (f : Fire) : Bool := !f.released && decide (f.start + f.span ≤ s.cyAt g + 1) && !s.releaseHeld g f

theorem releasable_iff (f : Fire) : s.releasable g f = true ↔ f.released = false ∧ f.start + f.span ≤ s.cyAt g + 1 ∧ s.releaseHeld g f = false := by
  simp [State.releasable, and_assoc]

theorem standSlotRelease_eq : exec (.standSlotRelease g) s = .next (releaseFires g ((s.stand g).fires.filter (s.releasable g))
    (s.modStand g fun x => { x with fires := x.fires.map fun f => if s.releasable g f then { f with released := true } else f })) := rfl

theorem standSlotRelease_none (h : ∀ f ∈ (s.stand g).fires, ¬s.releasable g f = true) : Reaches (.standSlotRelease g) s fun t => t.stand g = s.stand g ∧ t.mem = s.mem := by
  refine ⟨_, standSlotRelease_eq, ?_⟩
  have same : ((s.stand g).fires.map fun f => if s.releasable g f then { f with released := true } else f) = (s.stand g).fires :=
    (List.map_congr_left fun f at_ => if_neg (h f at_)).trans (List.map_id' _)
  beta_reduce
  rw [List.filter_eq_nil_iff.2 h, releaseFires, stand_modStand_self, same]
  exact ⟨rfl, rfl⟩

theorem standSlotRelease_one {f : Fire} (alone : (s.stand g).fires = [f]) (due : s.releasable g f = true) : exec (.standSlotRelease g) s =
    .next ((((s.modStand g fun x => { x with fires := [{ f with released := true }] }).rearm g f.rill).noticeRaft g f.rill).noticeZone g f.off f.rill) := by
  rw [standSlotRelease_eq, alone, List.filter_cons_of_pos due,
    modStand_congr s g (f' := fun x => { x with fires := [{ f with released := true }] }) (by simp only [alone, List.map_cons, List.map_nil, due, reduceIte])]
  rfl

/-! ## The completion of a fire (R71, R72) -/

/-- A fire's sums have reached its set: ten cy after its last A bit-plane has entered. -/
def State.lands (s : State) (g : Nat) (f : Fire) : Bool := !f.landed && decide (f.start + f.span + 10 ≤ s.cyAt g)

theorem standFireComplete_eq : exec (.standFireComplete g) s = .next (s.modStand g fun x => { (x.fires.filter (s.lands g)).foldl (fun x f => x.land (s.cyAt g) f) x with
    fires := (x.fires.map fun f => if s.lands g f then { f with landed := true } else f).filter fun f => !(f.landed && f.released) }) := rfl

theorem standFireComplete_none (h : ∀ f ∈ (s.stand g).fires, f.landed = false ∧ s.cyAt g < f.start + f.span + 10) : Reaches (.standFireComplete g) s fun t => t.stand g = s.stand g := by
  refine ⟨_, standFireComplete_eq, ?_⟩
  have early : ∀ f ∈ (s.stand g).fires, ¬s.lands g f = true := fun f at_ => by simp [State.lands, Nat.not_le.2 (h f at_).2]
  have same : ((s.stand g).fires.map fun f => if s.lands g f then { f with landed := true } else f) = (s.stand g).fires :=
    (List.map_congr_left fun f at_ => if_neg (early f at_)).trans (List.map_id' _)
  have kept : ((s.stand g).fires.filter fun f => !(f.landed && f.released)) = (s.stand g).fires := List.filter_eq_self.2 fun f at_ => by simp [(h f at_).1]
  beta_reduce
  rw [stand_modStand_self, List.filter_eq_nil_iff.2 early, same, kept]
  rfl

/-- The set that a fire's sums have reached. -/
def TileSet.landed (y : TileSet) (now : Nat) (f : Fire) : TileSet := { y with
  tag := if f.fin then .full else .accum, acc := f.acc, rows := max y.rows f.rows, m64 := f.m64, claim := false
  nanRows := y.nanRows ++ f.nanRows.filter fun m => decide (m ∉ y.nanRows), fullAt := if f.fin then now else y.fullAt }

theorem standFireComplete_one {f : Fire} (alone : (s.stand g).fires = [f]) (due : s.lands g f = true) : Reaches (.standFireComplete g) s fun t =>
    t.mem = s.mem ∧ (t.stand g).fires = (if f.released then [] else [{ f with landed := true }]) ∧ (t.stand g).set f.set = ((s.stand g).set f.set).landed (s.cyAt g) f := by
  refine ⟨_, standFireComplete_eq, rfl, ?_, ?_⟩
  · rw [stand_modStand_self]
    simp only [alone, List.map_cons, List.map_nil, due, reduceIte]
    cases h : f.released <;> simp
  · rw [stand_modStand_self, alone, List.filter_cons_of_pos due]
    exact set_modSet (s.stand g) f.set (TileSet.landed · (s.cyAt g) f)

/-! ## Drains (R62, R73, R299) -/

theorem set_endOp (s : State) (g opnum status k : Nat) : ((s.endOp g opnum status).stand g).set k = ((s.stand g).set k) := by
  rw [State.endOp, State.finishEntry, State.stand, State.eng_modEng_self]
  change ((s.modStand g _).stand g).set k = _
  rw [stand_modStand_self]
  rfl

/-- A drained set is as before it was filled. -/
theorem set_drained (s : State) (g k steer : Nat) (fault : Bool) : ((s.drained g k steer fault).stand g).set k = {} := by
  have finished (t : State) (status : Nat) : ((t.finishEntry g 0 steer status).stand g).set k = (t.stand g).set k := by
    rw [State.finishEntry, State.stand, State.eng_modEng_self]
    rfl
  rw [State.drained, finished]
  refine (foldl_keeps (fun t : State => (t.stand g).set k) _ (fun t op => set_endOp t g op _ k) _ _).trans ?_
  rw [stand_modStand_self, set_modSet]

@[simp] theorem stand_asyncFault (s : State) (g cause v : Nat) (th : Bool) (rank h : Nat) : (s.asyncFault g cause v th rank).stand h = s.stand h := by
  rw [State.stand, State.asyncFault, State.eng_modWw]
  rfl

section
variable {k : Nat}

/-- The end of a drain with the last beat accepted by every consumer (R62). -/
def State.drainDone (s : State) (g k : Nat) (dr : Drain) : State := if ((s.eng g).away.any fun a => decide (a.2.2 = 48 + k)) then s else (s.drained g k dr.steer false).perf g 8 1

theorem drainDone_away {dr : Drain} (h : ∃ a ∈ (s.eng g).away, a.2.2 = 48 + k) : s.drainDone g k dr = s := if_pos (by simpa using h)

theorem drainDone_all {dr : Drain} (h : ¬∃ a ∈ (s.eng g).away, a.2.2 = 48 + k) : s.drainDone g k dr = (s.drained g k dr.steer false).perf g 8 1 := if_neg (by simpa using h)

theorem drainBeat_early (h : ((s.stand g).set k).tag ≠ .full ∨ s.cyAt g ≤ ((s.stand g).set k).fullAt) : exec (.drainBeat g k) s = .next s := if_pos h

variable (full : ((s.stand g).set k).tag = .full) (late : ((s.stand g).set k).fullAt < s.cyAt g)
include full late

theorem drainBeat_full : ¬(((s.stand g).set k).tag ≠ .full ∨ s.cyAt g ≤ ((s.stand g).set k).fullAt) := by
  rintro (h | h)
  · exact h full
  · exact Nat.not_le.2 late h

theorem drainBeat_idle (none : ((s.stand g).set k).drain = none) (unsteered : (s.stand g).steering = []) : exec (.drainBeat g k) s = .next s := by
  change execDrainBeat g k s = _
  simp only [execDrainBeat, if_neg (drainBeat_full full late), none, unsteered]

theorem drainBeat_unrouted (none : ((s.stand g).set k).drain = none) {entry op v : Nat} {rest : List (Nat × Nat)} (steered : (s.stand g).steering = (entry, op) :: rest)
    (refused : (s.modStand g fun x => { x with steering := rest }).chain g entry = .error v) :
    exec (.drainBeat g k) s = .next (((s.modStand g fun x => { x with steering := rest }).drained g k op true).asyncFault g 0x085 v false op) := by
  have ended (t : State) : (((t.drained g k op true).asyncFault g 0x085 v false op).stand g).set k = {} := by rw [stand_asyncFault, set_drained]
  change execDrainBeat g k s = _
  simp only [execDrainBeat, if_neg (drainBeat_full full late), none, steered, refused, ended]

theorem drainBeat_eq {dr : Drain} (draining : ((s.stand g).set k).drain = some dr) :
    let y := (s.stand g).set k
    let last := y.rows * y.perRow
    let t := (beatAll g dr.beat dr.steer k dr.entry (y.beatWords dr.beat) dr.words s).modStand g fun x => x.modSet k fun y => { y with drain := some { dr with beat := dr.beat + 1, tries := 0 } }
    exec (.drainBeat g k) s = if dr.beat = last then .next (s.drainDone g k dr)
      else if dr.tries ≤ 4 ∧ (dr.words.all fun w => s.beatRoom g w dr.beat) = true then .next (if dr.beat + 1 = last then t.drainDone g k dr else t)
      else .next s := by
  change execDrainBeat g k s = _
  simp only [execDrainBeat, if_neg (drainBeat_full full late), draining, State.drainDone]

end

end

/-- The stand's steps. -/
theorem standEvents : Parts.StandEvents := by
  intro s g x
  refine ⟨?_, ?_, ?_, ?_, ?_, ?_⟩
  · intro u busy
    exact ⟨standFire_waits, fun free k o => standFire_picks free⟩
  · intro k o dst d mode i swap p u scale row target valid parity t
    have exchanges : (if o.swaps then (s.stand g).idle else (s.stand g).active) = if swap then x.idle else x.active := if_congr decide_eq_true_iff rfl rfl
    have whole : ((s.stand g).plane (if o.swaps then (s.stand g).idle else (s.stand g).active)).parity = none := by rw [exchanges]; exact parity
    obtain ⟨after, mem⟩ := stand_fire (k := k) target valid whole
    obtain ⟨acc, nan⟩ := newFire_sums (s := s) (g := g) o dst
    rw [exchanges] at acc nan
    have rows (m : Nat) : (s.slotFetched g o).standRow g o.uid d i m ((s.slotFetched g o).rowScale g d i) = row m := by rw [standRow_slotFetched, rowScale_slotFetched]; rfl
    refine ⟨mem, ?_, ?_, ?_, s.newFire g o dst, ?_, rfl, rfl, rfl, rfl, rfl, rfl, rfl, rfl, rfl, rfl, fun m => ?_, fun words m hm n hn col at_ => ?_,
      fun lanes some_ m hm n hn col at_ hb => ?_⟩
    · rw [after, active_firing, active_swapIf]
      exact exchanges
    · rw [after]
      rfl
    · rw [after]
      exact claim_firing _ k o (s.newFire g o dst)
    · rw [after, fires_firing, fires_swapIf]
    · rw [nan, mem_fireSums_nan, rows]
    · rw [acc, nget_fireSums hm at_ words hn, rows]
    · rw [acc, laneOf_fireSums hm at_ lanes some_ hn hb, rows]
  · intro due
    refine ⟨fun none => standSlotRelease_none fun f at_ => ?_, fun f alone ready => standSlotRelease_one alone ((releasable_iff f).2 ready)⟩
    exact (releasable_iff f).not.2 (none f at_)
  · exact standFireComplete_none
  · intro f alone new late
    have due : s.lands g f = true := by simp [State.lands, new, late]
    obtain ⟨t, run, mem, fires, set⟩ := standFireComplete_one alone due
    refine ⟨t, run, mem, fires, ?_⟩
    rw [set]
    refine ⟨rfl, rfl, rfl, rfl, fun m at_ => ?_⟩
    by_cases old : m ∈ (x.set f.set).nanRows
    · exact List.mem_append_left _ old
    · exact List.mem_append_right _ (List.mem_filter.2 ⟨at_, decide_eq_true old⟩)
  · intro k _ y last isAway done
    refine ⟨drainBeat_early, fun full late => drainBeat_idle full late, fun entry op rest v full late none steered => drainBeat_unrouted full late none steered, ?_⟩
    intro dr full late draining takes t
    have beat := drainBeat_eq full late draining
    have allTake : (dr.tries ≤ 4 ∧ (dr.words.all fun w => s.beatRoom g w dr.beat) = true) ↔ takes := by rw [List.all_eq_true]
    have ends (u : State) : done dr u (u.drainDone g k dr) := ⟨drainDone_away, drainDone_all⟩
    refine ⟨fun end_ => ⟨_, beat.trans (if_pos end_), ends s⟩, fun more wait => ?_, fun more room further => ?_, fun more room final => ?_⟩
    · exact beat.trans ((if_neg more).trans (if_neg (allTake.not.2 wait)))
    · exact beat.trans ((if_neg more).trans ((if_pos (allTake.2 room)).trans (congrArg Host.Outcome.next (if_neg further))))
    · exact ⟨_, beat.trans ((if_neg more).trans ((if_pos (allTake.2 room)).trans (congrArg Host.Outcome.next (if_pos final)))), ends t⟩

end Sys2Proof.Machine
end

section
/-! The rafts and link orders (R76, R301 to R306, R439, R450): notices served, tiles landed, link tiles sent. -/

namespace Sys2Proof.Machine

/-! ## What an engine's access keeps (R244, R250): the memory, the jobs and the units' places -/

/-- What an engine's access to memory leaves: it enters caches, counts and notes, and no more. -/
def AccessKeeps (s t : State) : Prop := t.mem = s.mem ∧ t.jobs = s.jobs ∧ ∀ h, t.place h = s.place h

theorem AccessKeeps.refl (s : State) : AccessKeeps s s := ⟨rfl, rfl, fun _ => rfl⟩

theorem AccessKeeps.trans {s t u : State} (h : AccessKeeps s t) (k : AccessKeeps t u) : AccessKeeps s u := by
  obtain ⟨mem, jobs, place⟩ := h
  obtain ⟨mem', jobs', place'⟩ := k
  exact ⟨mem'.trans mem, jobs'.trans jobs, fun g => (place' g).trans (place g)⟩

theorem AccessKeeps.of_glades {s t : State} (mem : t.mem = s.mem) (jobs : t.jobs = s.jobs) (glades : t.glades = s.glades) : AccessKeeps s t :=
  ⟨mem, jobs, fun g => by simp only [State.place, State.bough, State.glade, glades]⟩

theorem AccessKeeps.foldl {α : Type} {f : State → α → State} (h : ∀ s x, AccessKeeps s (f s x)) (l : List α) (s : State) : AccessKeeps s (l.foldl f s) := by
  induction l generalizing s with
  | nil => exact .refl s
  | cons x l ih => exact (h s x).trans (ih _)

theorem AccessKeeps.modGlade (s : State) (g : Nat) (f : Glade → Glade) (hf : ∀ x, (f x).cur = x.cur) : AccessKeeps s (s.modGlade g f) := by
  refine ⟨rfl, rfl, fun h => ?_⟩
  simp only [State.place, State.bough, State.glade_modGlade]
  split
  · next e => rw [hf, e]
  · rfl

theorem perf_access (s : State) (g e n : Nat) : AccessKeeps s (s.perf g e n) := ⟨rfl, rfl, fun _ => State.place_perf ..⟩

theorem ctxOf_access {s t : State} (h : AccessKeeps s t) (g : Nat) : t.ctxOf g = s.ctxOf g := by
  obtain ⟨_, _, place⟩ := h
  rw [State.ctxOf, place, State.ctxOf]

theorem job_access {s t : State} (h : AccessKeeps s t) (c : Nat) : t.job c = s.job c := by
  obtain ⟨_, jobs, _⟩ := h
  rw [State.job, jobs, State.job]

theorem hbmRead_access (s : State) (a n : Nat) : AccessKeeps s (s.hbmRead a n) := by
  by_cases inside : hbmAt ≤ a ∧ a < hbmAt + 2 ^ 52 ∧ 0 < n
  · simp only [State.hbmRead, if_pos inside]
    generalize (a - hbmAt) / 32 = lo
    exact AccessKeeps.foldl (f := fun t i => t.life 7 (t.stackOf (32 * (lo + i))) 1) (fun t i => .of_glades rfl rfl rfl) _ s
  · rw [State.hbmRead, if_neg inside]
    exact .refl s

theorem cacheFill_access (s : State) (g : Nat) (t : Tlb) : AccessKeeps s (s.cacheFill g t) :=
  (AccessKeeps.modGlade s g (fun x => { x with tlb := tlbEnter 1 256 t x.tlb }) fun _ => rfl).trans (.of_glades rfl rfl rfl)

theorem joinWalks_access (s : State) (g : Nat) (hit : Walk → Bool) (r : Except Nat Tlb) : AccessKeeps s (s.joinWalks g hit r) := by
  refine AccessKeeps.foldl (fun t y => ?_) _ s
  refine (AccessKeeps.modGlade t y.1 (fun x => { x with walks := x.walks.filter fun w => !hit w }) fun _ => rfl).trans ?_
  cases r with
  | ok e => exact cacheFill_access _ _ _
  | error c => exact .modGlade _ _ _ fun _ => rfl

theorem fillWalk_access (s : State) (g ctx va : Nat) : AccessKeeps s (s.fillWalk g ctx va).1 := by
  have reads : AccessKeeps s ((s.walkAll ctx va).2.foldl (fun s a => s.hbmRead (hbmAt + a) 8) (s.perf g 13 1)) :=
    (perf_access s g 13 1).trans (.foldl (fun t a => hbmRead_access t _ _) _ _)
  unfold State.fillWalk
  dsimp only
  split
  · exact reads.trans (joinWalks_access ..)
  · exact reads.trans ((joinWalks_access ..).trans (cacheFill_access ..))

theorem served_access (s : State) (g a phys n : Nat) : AccessKeeps s (s.served g a phys n) := by
  have entered (t : Tlb) : AccessKeeps s ((s.modGlade g fun x => { x with tlb := tlbEnter 1 256 t x.tlb }).perf g 12 1) :=
    (AccessKeeps.modGlade s g (fun x => { x with tlb := tlbEnter 1 256 t x.tlb }) fun _ => rfl).trans (perf_access ..)
  unfold State.served
  refine AccessKeeps.trans ?_ ((hbmRead_access _ phys n).trans (.of_glades rfl rfl rfl))
  split
  · exact .refl s
  · dsimp only
    by_cases own : 2 ^ 56 ≤ a ∨ (tlbFind (s.glade g).tlb (if bit a 55 then ‹Place›.vf else ‹Place›.ctx) (bit a 55) (a % 2 ^ 55)).isSome
    · rw [if_pos own]
      exact .refl s
    · rw [if_neg own]
      split
      · exact entered _
      · exact .refl s

theorem engPiece_access (s : State) (g a n : Nat) (k : AccKind) : AccessKeeps s (s.engPiece g a n k).1 := by
  unfold State.engPiece
  dsimp only
  split
  · split_ifs
    · exact .refl s
    · next ctx va _ _ =>
      have walked := (perf_access s g 12 1).trans (fillWalk_access (s.perf g 12 1) g ctx va)
      split
      · next h => rwa [h] at walked
      · next h => rwa [h] at walked
  · exact served_access ..
  · exact .refl s

theorem engAccess_access (g : Nat) (k : AccKind) (l : List (Nat × Nat)) (s : State) : AccessKeeps s (s.engAccess g k l).1 := by
  induction l generalizing s with
  | nil => exact .refl s
  | cons x l ih =>
    obtain ⟨a, n⟩ := x
    have piece := engPiece_access s g a n k
    rw [State.engAccess]
    cases h : s.engPiece g a n k with
    | mk u r =>
      rw [h] at piece
      cases r with
      | ok p =>
        dsimp only
        have rest := piece.trans (ih u)
        split
        · exact piece
        · cases h' : u.engAccess g k l with
          | mk v r =>
            rw [h'] at rest
            cases r with
            | ok ps => exact rest.trans (.of_glades rfl rfl rfl)
            | _ => exact rest
      | _ => exact piece

/-! ## The bytes of a tile (R277, R301) -/

theorem placedAt_nil (pd : List (Nat × Nat)) (a : Nat) : placedAt pd [] a = none := by
  induction pd with
  | nil => rfl
  | cons p pd ih =>
    rw [placedAt, List.drop_nil, ih]
    simp

/-- Bytes scattered over pieces are found where they were put last; nothing else changes. -/
theorem memGet_scatter (before_ : List Point) (pd : List (Nat × Nat)) (bs : List Byte) {s : State} (w : Memory.wf s.mem = true) (a : Nat) :
    memGet (scatter before_ pd bs s).mem a = (placedAt pd bs a).getD (memGet s.mem a) := by
  induction pd generalizing bs s with
  | nil => rfl
  | cons x pd ih =>
    obtain ⟨p, n⟩ := x
    rw [scatter, ih _ (write_wf s p (bs.take n) before_ none w), placedAt, write_mem, memGet_memPut _ _ w]
    cases placedAt pd (bs.drop n) a with
    | some b => rfl
    | none =>
      simp only [Option.getD_none]
      by_cases inside : p ≤ a ∧ a < p + (bs.take n).length
      · have short : (bs.take n).length ≤ n := List.length_take_le ..
        rw [if_pos inside, if_pos ⟨inside.1, by omega⟩]
        obtain ⟨b, at_⟩ : ∃ b, (bs.take n)[a - p]? = some b := ⟨_, List.getElem?_eq_getElem (by omega)⟩
        rw [at_]
        rfl
      · rw [if_neg inside]
        split
        · next within => rw [List.getElem?_eq_none (by omega)]; rfl
        · rfl

theorem placeTile_mem (s : State) (g : Nat) (e : QEntry) (pd : List (Nat × Nat)) (bs : List Byte) : (s.placeTile g e pd bs).mem = (scatter [.out e.uid] pd bs s).mem := by
  unfold State.placeTile
  dsimp only
  split <;> rfl

/-- A rill with bytes arrived (R280, R329). -/
def Rill.arrive (x : Rill) (bytes : Nat) (err : Bool) : Rill :=
  let x := { x with arrived := min (x.arrived + if bit x.cfg.toNat 60 then bytes / 8 else bytes) (2 ^ 64 - 1) }
  if err then x.setStatus 3 else x

/-- A rill whose event has fired if its declared count is reached. -/
def Rill.noted (x : Rill) : Rill := if x.reached then { x with fired := true } else x

/-- The state with bytes counted into a rill, before its event. -/
def State.rillCounted (s : State) (g r bytes : Nat) (x : Rill) : State := (s.modEng g fun e => { e with rills := nset e.rills r x.noted }).perf g 11 bytes

theorem countRill_eq (s : State) (g r bytes : Nat) (err : Bool) :
    let old := (s.eng g).rill r
    let x := old.arrive bytes err
    s.countRill g r bytes err = if bit old.cfg.toNat 56 && x.reached && !x.fired then
      (s.rillCounted g r bytes x).modWw g fun w => { w with evc := nmod 0 w.evc (bits old.cfg.toNat 55 52) (satAdd · 1) } else s.rillCounted g r bytes x := rfl

theorem countRill_mem (s : State) (g r n : Nat) (err : Bool) : (s.countRill g r n err).mem = s.mem := by
  rw [countRill_eq]
  exact (apply_ite State.mem _ _ _).trans (ite_self _)

theorem tileDone_mem (s : State) (g : Nat) (e : QEntry) (count err : Bool) : (s.tileDone g e count err).mem = s.mem := by
  simp only [State.tileDone, apply_ite State.mem, State.finishEntry, State.modEng_mem, State.modClearing_mem, State.perf_mem, countRill_mem, ite_self]

/-! ## A tile lands (R301, R302, R439) -/

section
variable {s u v : State} {g : Nat} {e : QEntry} {ps pd : List (Nat × Nat)}

/-- The access of a tile to its source. -/
def State.readTile (s : State) (g : Nat) (e : QEntry) : State × EngRes := s.engAccess g .rd ((rdSource e.desc e.issued).flatMap fun p => pieces p.2 p.1 p.2)

/-- The access of a tile to its destination slot. -/
def State.reachSlot (s : State) (g : Nat) (e : QEntry) : State × EngRes :=
  s.engAccess g (if rdMode e.desc = 2 then .seal else .wr)
    (pieces (rdSlotSize e.desc) ((rdDst e.desc + (e.issued % rdSlots e.desc) * rdSlotSize e.desc) % 2 ^ 64) (rdSlotSize e.desc))

variable (read : s.readTile g e = (u, .ok ps))
include read

theorem landTile_refused {cause a : Nat} (slot : u.reachSlot g e = (v, .fault cause a)) : s.landTile g e = v.entryFault g e.tl e.opnum cause a := by
  rw [State.readTile] at read
  rw [State.reachSlot] at slot
  simp only [State.landTile, read, slot]
  rfl

variable (slot : u.reachSlot g e = (v, .ok pd))
include slot

/-- The state from which a tile's bytes are written: its source has been read. -/
theorem tileRead_access : AccessKeeps s (ps.foldl (fun s p => s.hbmRead p.1 p.2) v) := by
  have first : AccessKeeps s u := by
    have access := engAccess_access g .rd ((rdSource e.desc e.issued).flatMap fun p => pieces p.2 p.1 p.2) s
    rwa [show s.engAccess g .rd _ = _ from read] at access
  have second : AccessKeeps u v := by
    have access := engAccess_access g (if rdMode e.desc = 2 then .seal else .wr)
      (pieces (rdSlotSize e.desc) ((rdDst e.desc + (e.issued % rdSlots e.desc) * rdSlotSize e.desc) % 2 ^ 64) (rdSlotSize e.desc)) u
    rwa [show u.engAccess g _ _ = _ from slot] at access
  exact first.trans (second.trans (.foldl (fun t p => hbmRead_access t p.1 p.2) ps v))

theorem landTile_plain (plain : rdMode e.desc = 0) : (s.landTile g e).mem = (scatter [.out e.uid] pd (v.gather g e ps).1 (ps.foldl (fun s p => s.hbmRead p.1 p.2) v)).mem := by
  rw [State.readTile] at read
  rw [State.reachSlot] at slot
  simp only [State.landTile, read, slot]
  rw [if_pos plain, tileDone_mem, placeTile_mem]

/-- What a tile that passes a cipher block finds of its session. -/
theorem session_tileRead : ((ps.foldl (fun s p => s.hbmRead p.1 p.2) v).job ((ps.foldl (fun s p => s.hbmRead p.1 p.2) v).ctxOf g)).session (leAt e.desc 48 4) =
    (s.job (s.ctxOf g)).session (leAt e.desc 48 4) := by
  have keeps := tileRead_access read slot
  rw [job_access keeps, ctxOf_access keeps]

variable {k : Session} (session : (s.job (s.ctxOf g)).session (leAt e.desc 48 4) = some k)
include session

theorem landTile_seal (sealed : rdMode e.desc = 2) : (s.landTile g e).mem =
    (scatter [.out e.uid] pd ((gcmSeal k.key (tileIv k.prefSeal (rdNbase e.desc + e.issued)) [] (v.gather g e ps).1).1 ++
      (gcmSeal k.key (tileIv k.prefSeal (rdNbase e.desc + e.issued)) [] (v.gather g e ps).1).2) (ps.foldl (fun s p => s.hbmRead p.1 p.2) v)).mem := by
  have found := (session_tileRead read slot).trans session
  rw [State.readTile] at read
  rw [State.reachSlot] at slot
  simp only [State.landTile, read, slot, found]
  rw [if_neg (by omega), if_pos sealed, tileDone_mem]
  exact placeTile_mem ..

/-- What a tile that is opened gives (R302, R438). -/
def tileOpened (k : Session) (d : List Byte) (n : Nat) (src : List Byte) : Option (List Byte) :=
  gcmOpen k.key (tileIv k.prefOpen (rdNbase d + n)) [] (src.take (rdTile d)) (src.drop (rdTile d))

variable (opens : rdMode e.desc = 1)
include opens

theorem landTile_open {pt : List Byte} (passes : tileOpened k e.desc e.issued (v.gather g e ps).1 = some pt) (new : k.hiOpen < rdNbase e.desc + e.issued)
    (small : rdNbase e.desc + e.issued < 2 ^ 64) : (s.landTile g e).mem = (scatter [.out e.uid] pd pt (ps.foldl (fun s p => s.hbmRead p.1 p.2) v)).mem := by
  have found := (session_tileRead read slot).trans session
  rw [State.readTile] at read
  rw [State.reachSlot] at slot
  rw [tileOpened] at passes
  simp only [State.landTile, read, slot, found]
  rw [if_neg (by omega), if_neg (by omega)]
  simp only [passes]
  rw [if_pos ⟨new, small⟩, tileDone_mem]
  exact placeTile_mem ..

theorem landTile_unopened (fails : tileOpened k e.desc e.issued (v.gather g e ps).1 = none ∨ rdNbase e.desc + e.issued ≤ k.hiOpen ∨ 2 ^ 64 ≤ rdNbase e.desc + e.issued) :
    (s.landTile g e).mem = s.mem := by
  have found := (session_tileRead read slot).trans session
  obtain ⟨kept, _, _⟩ := tileRead_access read slot
  rw [State.readTile] at read
  rw [State.reachSlot] at slot
  rw [tileOpened] at fails
  have discarded (t : State) (h : t.mem = s.mem) (c r : Nat) : ((t.rillStatus c r 2).tileDone g e false false).mem = s.mem := (tileDone_mem ..).trans h
  simp only [State.landTile, read, slot, found]
  rw [if_neg (by omega), if_neg (by omega)]
  split
  · next pt passes =>
    have refused : ¬(k.hiOpen < rdNbase e.desc + e.issued ∧ rdNbase e.desc + e.issued < 2 ^ 64) := by
      rcases fails with none | fails
      · rw [none] at passes
        cases passes
      · omega
    rw [if_neg refused]
    exact discarded _ kept _ _
  · exact discarded _ kept _ _

end

/-! ## Link tiles (R306, R450) -/

theorem sendTile_mem (l g rill zone slot : Nat) (err : Bool) (n off : Nat) (bs : List Byte) (s : State) : (sendTile l g rill zone slot err n off bs s).mem = s.mem := by
  induction n generalizing off bs s with
  | zero => rfl
  | succ n ih =>
    rw [sendTile]
    split
    · rfl
    · exact (ih _ _ _).trans (State.sendFlit_mem ..)

theorem sendTile_more (l g rill zone slot : Nat) (err : Bool) (n off : Nat) {bs : List Byte} (s : State) (some_ : bs ≠ []) :
    sendTile l g rill zone slot err (n + 1) off bs s = sendTile l g rill zone slot err n (off + 200) (bs.drop 200)
      (s.sendFlit l 1 (toBytes 2 g ++ toBytes 1 rill ++ toBytes 1 zone ++ toBytes 1 slot ++ [if err then 1 else 0] ++ toBytes 2 (bs.take 200).length ++ toBytes 4 off ++ List.replicate 16 0
        ++ bs.take 200 ++ List.replicate (200 - (bs.take 200).length) 0)) := by
  have flag : toBytes 1 (b2n err) = [if err then 1 else 0] := by cases err <;> rfl
  rw [sendTile, if_neg some_, flag]

section
variable {s u : State} {g : Nat} {e : QEntry}

/-- The access of a link tile to its source. -/
def State.readLinkTile (s : State) (g : Nat) (e : QEntry) : State × EngRes :=
  s.engAccess g .rd (pieces (ldTile e.desc) ((leAt e.desc 16 8 + e.issued * ldTile e.desc) % 2 ^ 64) (ldTile e.desc))

theorem landLink_refused {cause a : Nat} (read : s.readLinkTile g e = (u, .fault cause a)) : s.landLink g e = u.entryFault g e.tl e.opnum cause a := by
  rw [State.readLinkTile] at read
  simp only [State.landLink, read]
  rfl

theorem landLink_sent {ps : List (Nat × Nat)} (read : s.readLinkTile g e = (u, .ok ps)) :
    let r := u.gather g e ps
    let v := sendTile e.link g (leAt e.desc 36 1) (leAt e.desc 33 1) ((e.tiles.map (·.2)).headD 0) r.2 (ldTile e.desc / 200 + 1) 0 r.1 (ps.foldl (fun s p => s.hbmRead p.1 p.2) u)
    (s.landLink g e).out = v.out ∧ (s.landLink g e).mem = s.mem := by
  have access : AccessKeeps s u := by
    have keeps := engAccess_access g .rd (pieces (ldTile e.desc) ((leAt e.desc 16 8 + e.issued * ldTile e.desc) % 2 ^ 64) (ldTile e.desc)) s
    rwa [show s.engAccess g .rd _ = _ from read] at keeps
  obtain ⟨kept, _, _⟩ := access.trans (.foldl (fun t p => hbmRead_access t p.1 p.2) ps u)
  rw [State.readLinkTile] at read
  simp only [State.landLink, read]
  exact ⟨rfl, (sendTile_mem ..).trans kept⟩

/-! ## Notices served and tiles due (R58, R76) -/

theorem raftBusy_iff (raft : Nat) : s.raftBusy g raft = true ↔ ∃ e ∈ (s.eng g).queue (1 + raft), ∃ t ∈ e.tiles, s.cyAt g < t.1 + (e.tileBytes + 127) / 128 := by
  simp only [State.raftBusy, List.any_eq_true, decide_eq_true_eq]
  rfl

theorem raftNoticeServe_waits {raft : Nat} (h : s.raftBusy g raft = true ∨ s.nextServe g raft = none) : exec (.raftNoticeServe g raft) s = .next s := by
  change execRaftNoticeServe g raft s = _
  unfold execRaftNoticeServe
  split
  · rfl
  · next free => rw [h.resolve_left free]

theorem raftNoticeServe_serves {raft : Nat} (free : ¬s.raftBusy g raft = true) (next : s.nextServe g raft = some e) : exec (.raftNoticeServe g raft) s = .next (s.modEng g fun v =>
    { v.modEntry e.tl e.opnum (fun y => { y with tiles := y.tiles ++ [(s.cyAt g, y.notices.headD 0)], notices := y.notices.drop 1 }) with rr := nset v.rr raft (s.serveRill g e) }) := by
  change execRaftNoticeServe g raft s = _
  simp only [execRaftNoticeServe, if_neg free, next]

theorem tileDue_iff : s.tileDue g e = true ↔ ∃ t rest, e.tiles = t :: rest ∧ e.state = 1 ∧ e.tries ≤ 4 ∧ t.1 + (e.tileBytes + 127) / 128 < s.cyAt g ∧ s.tileHeld g e = false
    ∧ ¬(e.kind = 2 ∧ rdMode e.desc ≠ 0 ∧ s.cyAt g < (s.clearing (clearingOf g)).cipherFree) := by
  change _ ↔ ∃ t rest, e.tiles = t :: rest ∧ e.state = 1 ∧ e.tries ≤ 4 ∧ e.issuedBy t.1 < s.cyAt g ∧ s.tileHeld g e = false ∧ _
  unfold State.tileDue
  cases tiles : e.tiles with
  | nil => simp
  | cons t rest => simp [QEntry.cipher, and_assoc, imp_iff_not_or, or_assoc]

/-- What a raft does with an entry when tiles land. -/
def State.landDue (s : State) (g : Nat) (e : QEntry) : State := if s.tileDue g e then s.landOne g e else s

theorem foldl_fixed {α β : Type} {f : β → α → β} {l : List α} {s : β} (h : ∀ x ∈ l, f s x = s) : l.foldl f s = s := by
  induction l with
  | nil => rfl
  | cons x l ih => rw [List.foldl_cons, h x (List.mem_cons_self ..), ih fun y at_ => h y (List.mem_cons_of_mem _ at_)]

theorem landDue_early {q : List QEntry} (early : ∀ e ∈ q, s.tileDue g e = false) : q.foldl (fun s e => s.landDue g e) s = s :=
  foldl_fixed fun e at_ => if_neg (by rw [early e at_]; decide)

end

/-- The rafts' steps. -/
theorem raftEvents : Parts.RaftEvents := by
  intro s g
  refine ⟨fun raft => ?_, fun e => tileDue_iff, ?_, ?_, fun l rill zone slot err n off bs some_ => sendTile_more l g rill zone slot err n off s some_⟩
  · intro q busy
    have lands : exec (.raftTileLand g raft) s = .next (q.foldl (fun s e => s.landDue g e) s) := rfl
    refine ⟨fun waits => raftNoticeServe_waits (waits.imp_left (raftBusy_iff raft).2), fun e free next => raftNoticeServe_serves ((raftBusy_iff raft).not.2 free) next, fun early => ?_, ?_⟩
    · rw [lands, landDue_early early]
    · intro before e after at_ early due
      have first : s.landDue g e = if e.kind = 5 then s.landLink g e else s.landTile g e := if_pos due
      rw [lands, at_, List.foldl_append, landDue_early early, List.foldl_cons, first]
      rfl
  · intro e u ps w d n dst read
    refine ⟨fun v cause a slot => landTile_refused read slot, fun v pd slot => ?_⟩
    intro src ses placed
    obtain ⟨kept, _, _⟩ := tileRead_access read slot
    have scattered (bs : List Byte) (h : (s.landTile g e).mem = (scatter [.out e.uid] pd bs (ps.foldl (fun s p => s.hbmRead p.1 p.2) v)).mem) : placed bs := fun a => by
      rw [h, memGet_scatter _ _ _ (kept.symm ▸ w), kept]
    refine ⟨fun plain => scattered _ (landTile_plain read slot plain), fun k sealed session => scattered _ (landTile_seal read slot session sealed), ?_⟩
    intro k opens session ctr
    refine ⟨fun pt passes new small => scattered _ (landTile_open read slot session opens passes new small), fun fails a => ?_⟩
    rw [landTile_unopened read slot session opens fails, placedAt_nil]
    rfl
  · intro e u d access
    exact ⟨fun cause a read => landLink_refused read, fun ps read => landLink_sent read⟩

end Sys2Proof.Machine
end

section
/-! Weight loads and rill arrivals (R102, R280, R304, R305, R329, R417). -/

namespace Sys2Proof.Machine

/-! ## Planes set (R304) -/

@[simp] theorem idle_setPlane (x : Stand) (i : Nat) (p : Plane) : (x.setPlane i p).idle = x.idle := by
  unfold Stand.setPlane
  split <;> rfl

theorem setPlane_setPlane (x : Stand) (i : Nat) (p : Plane) : (x.setPlane i p).setPlane i p = x.setPlane i p := by
  unfold Stand.setPlane
  split <;> rfl

/-- A load sets the idle plane of every receiving glade and nothing else of the stands. -/
theorem stand_setPlanes (p : Plane) (gs : List Nat) (s : State) (h : Nat) : (setPlanes none p gs s).stand h = if h ∈ gs then (s.stand h).setPlane (s.stand h).idle p else s.stand h := by
  induction gs generalizing s with
  | nil => rfl
  | cons g gs ih =>
    have head : (s.modStand g fun x => x.setPlane x.idle p).stand h = if h = g then (s.stand h).setPlane (s.stand h).idle p else s.stand h := by
      rw [stand_modStand]
      split
      · next e => rw [e]
      · rfl
    rw [setPlanes]
    refine (ih _).trans ?_
    simp only [Option.getD_none, head, List.mem_cons]
    by_cases own : h = g
    · simp [own, setPlane_setPlane]
    · simp [own]

/-! ## A region's step (R305) -/

section
variable {s : State} {g : Nat} {d : List Byte} {q : Nat} {regs : List (Nat × List Byte)}

/-- Block k of column n of a load from the regions read, aligned, or the cause of its refusal (R102). -/
def wdAligned (d : List Byte) (q : Nat) (regs : List (Nat × List Byte)) (b : Nat × Nat) : Except Nat WBlock :=
  alignB (wdFmt d) q (wdBytes regs (wdBlock d b.1 b.2) (kBytes (wdFmt d)))

theorem wdColumns_at {n k : Nat} (hn : n < wdCols d) (hk : k < wdKb d) {b : WBlock} (aligned : wdAligned d q regs (n, k) = .ok b) :
    ∃ col, (wdColumns d q regs)[n]? = some col ∧ col[k]? = some b := by
  refine ⟨_, by rw [wdColumns, List.getElem?_map, List.getElem?_range hn]; rfl, ?_⟩
  rw [wdAligned] at aligned
  rw [List.getElem?_map, List.getElem?_range hk, Option.map_some, aligned]

/-- The cause for which a block is refused. -/
def wdRefused (d : List Byte) (q : Nat) (regs : List (Nat × List Byte)) (b : Nat × Nat) : Option Nat :=
  match wdAligned d q regs b with
  | .ok _ => none
  | .error c => some c

section
variable {r : Nat} (next : (wdRegions d).find? (fun r => (nfind regs r).isNone) = some r)
include next

theorem wdStep_refused {u : State} {c a : Nat} (region : s.wdRegion g r = (u, .error (c, a))) : s.wdStep g d q regs = (u, .error (c, a)) := by
  simp only [State.wdStep, next, region]

theorem wdStep_read {u : State} {p : List Byte} (region : s.wdRegion g r = (u, .ok p)) :
    let v := u.usage (u.ctxOf g) 11 4096
    s.wdStep g d q regs = ((wdBlocksIn d r).findSome? (wdRefused d q (nset regs r p))).elim (v, .ok (nset regs r p)) fun c => (v.drawn, .error (c, v.freeWord.toNat)) := by
  simp only [State.wdStep, next, region]
  change (match (wdBlocksIn d r).findSome? (wdRefused d q (nset regs r p)) with | some c => _ | none => _) = _
  cases (wdBlocksIn d r).findSome? (wdRefused d q (nset regs r p)) <;> rfl

end

theorem wdRefused_ok {b : Nat × Nat} (h : ∃ w, wdAligned d q regs b = .ok w) : wdRefused d q regs b = none := by
  obtain ⟨w, h⟩ := h
  simp only [wdRefused, h]

theorem wdRefused_error {b : Nat × Nat} {c : Nat} (h : wdAligned d q regs b = .error c) : wdRefused d q regs b = some c := by
  simp only [wdRefused, h]

/-! ## The weight-load engine's step (R62, R305, R417) -/

/-- The next region of a started entry waits for a sector that an atomic holds (R263). -/
def State.regionHeld (s : State) (g : Nat) (e : QEntry) : Bool := (((wdRegions e.desc).find? fun r => (nfind e.regs r).isNone).map (s.wdHeld g)).getD false

theorem regionHeld_iff {e : QEntry} : s.regionHeld g e = true ↔ ∃ r, (wdRegions e.desc).find? (fun r => (nfind e.regs r).isNone) = some r ∧ s.wdHeld g r = true := by
  unfold State.regionHeld
  cases (wdRegions e.desc).find? fun r => (nfind e.regs r).isNone <;> simp

theorem wloadRegion_reload {i : Nat} {src : Nat × Nat} {rest : List (Nat × List Byte × Nat × Nat)} (reload : (s.stand g).reload = (i, d, src) :: rest) (lanes : wdFmt d = 3)
    (invalid : (s.ww (((s.place g).map fun p => p.gladeAt g src.1 src.2).getD g)).modulus (leAt d 36 1) = none) :
    exec (.wloadRegion g) s = .next ((s.modStand g fun x => { x.setPlane i {} with reload := rest }).openAsync g 0x015 (2 ^ 26)) := by
  change execWloadRegion g s = _
  simp only [execWloadRegion, reload, if_pos lanes, invalid]

variable (fresh : (s.stand g).reload = [])
include fresh

theorem wloadRegion_none (h : ∀ e ∈ (s.eng g).queue 4, e.state ≠ 1) : exec (.wloadRegion g) s = .next s := by
  have none : ((s.eng g).queue 4).find? (fun e => decide (e.state = 1)) = none := by simpa using h
  change execWloadRegion g s = _
  simp only [execWloadRegion, fresh, none]

variable {e : QEntry} (started : ((s.eng g).queue 4).find? (fun e => decide (e.state = 1)) = some e)
include started

theorem wloadRegion_held (held : s.regionHeld g e = true) : exec (.wloadRegion g) s = .next s := by
  change execWloadRegion g s = _
  simp only [execWloadRegion, fresh, started]
  exact if_pos held

variable (free : ¬s.regionHeld g e = true)
include free

theorem wloadRegion_refused {t : State} {c a : Nat} (step : s.wdStep g e.desc e.issued e.regs = (t, .error (c, a))) :
    exec (.wloadRegion g) s = .next ((setPlanes none {} (s.wloadGlades g e.desc) t).entryFault g 4 e.opnum c a) := by
  change execWloadRegion g s = _
  simp only [execWloadRegion, fresh, started, step]
  exact if_neg free

theorem wloadRegion_read {t : State} {regs : List (Nat × List Byte)} (step : s.wdStep g e.desc e.issued e.regs = (t, .ok regs)) :
    exec (.wloadRegion g) s = if ((wdRegions e.desc).all fun r => (nfind regs r).isSome) = true then
      .next ((setPlanes none { st := 2, fmt := wdFmt e.desc, cols := wdColumns e.desc e.issued regs, desc := e.desc, src := t.posOf g } (s.wloadGlades g e.desc) t).finishEntry g 4 e.opnum 0)
      else .next (t.modEng g fun v => v.modEntry 4 e.opnum fun y => { y with regs := regs }) := by
  change execWloadRegion g s = _
  simp only [execWloadRegion, fresh, started, step]
  exact if_neg free

end

/-! ## Bytes counted into a rill (R280, R329) -/

theorem bit_iff_field (n i : Nat) : bit n i = true ↔ field n i 1 = 1 := by
  rw [bit, field, Nat.testBit_eq_decide_div_mod_eq, decide_eq_true_iff, Nat.pow_one]

/-- What the note of a reached count keeps of a rill. -/
theorem noted_same {α : Type} (f : Rill → α) (hf : ∀ x, f { x with fired := true } = f x) (x : Rill) : f x.noted = f x := by
  unfold Rill.noted
  split
  · exact hf x
  · rfl

section
variable (s : State) (g r bytes : Nat) (err : Bool)

theorem rill_rillCounted (x : Rill) (k : Nat) : ((s.rillCounted g r bytes x).eng g).rill k = if k = r then x.noted else (s.eng g).rill k := by
  rw [State.rillCounted, State.eng_perf, State.eng_modEng_self, Engines.rill]
  split
  · next e => rw [e, nget_nset_self]
  · next ne => exact nget_nset_ne _ _ _ (Ne.symm ne)

theorem rill_countRill (k : Nat) : ((s.countRill g r bytes err).eng g).rill k = if k = r then (((s.eng g).rill r).arrive bytes err).noted else (s.eng g).rill k := by
  rw [← rill_rillCounted s g r bytes, countRill_eq]
  split
  · rw [State.eng_modWw]
  · rfl

theorem evc_rillCounted (x : Rill) : ((s.rillCounted g r bytes x).ww g).evc = (s.ww g).evc := by
  rw [State.rillCounted, State.perf, State.ww_modWw_self]
  change ((State.modEng s g _).ww g).evc = _
  rw [State.ww_modEng]

/-- The event of a rill whose count is reached fires once. -/
theorem evc_countRill : let old := (s.eng g).rill r
    let x := old.arrive bytes err
    nget 0 ((s.countRill g r bytes err).ww g).evc (field old.cfg.toNat 52 4) =
      if field old.cfg.toNat 56 1 = 1 ∧ x.reached = true ∧ x.fired = false then satAdd (nget 0 (s.ww g).evc (field old.cfg.toNat 52 4)) 1
      else nget 0 (s.ww g).evc (field old.cfg.toNat 52 4) := by
  intro old x
  have event : bits old.cfg.toNat 55 52 = field old.cfg.toNat 52 4 := congrArg (· % 16) (Nat.shiftRight_eq_div_pow _ _)
  have fires : (bit old.cfg.toNat 56 && x.reached && !x.fired) = true ↔ field old.cfg.toNat 56 1 = 1 ∧ x.reached = true ∧ x.fired = false := by
    rw [Bool.and_eq_true, Bool.and_eq_true, bit_iff_field, Bool.not_eq_true', and_assoc]
  rw [countRill_eq, apply_ite (fun t : State => nget 0 (t.ww g).evc (field old.cfg.toNat 52 4)), if_congr fires rfl rfl, evc_rillCounted, State.ww_modWw_self, event]
  dsimp only
  rw [nget_nmod_self, evc_rillCounted]

end

/-- The weight loads and the arrivals. -/
theorem loadEvents : Parts.LoadEvents := by
  intro s g x
  refine ⟨fun fresh => ⟨wloadRegion_none fresh, fun e started => ?_⟩, ?_, fun p gs h => stand_setPlanes p gs s h, fun d q regs n hn k hk => ?_, fun d q regs r next => ?_, fun r bytes => ?_⟩
  · intro gs held
    have free : ¬held ↔ ¬s.regionHeld g e = true := regionHeld_iff.symm.not
    refine ⟨fun waits => wloadRegion_held fresh started (regionHeld_iff.2 waits), fun goes t c a step => wloadRegion_refused fresh started (free.1 goes) step, fun goes t regs step => ?_⟩
    have read := wloadRegion_read fresh started (free.1 goes) step
    constructor
    · rintro ⟨r, at_, missing⟩
      exact read.trans (if_neg fun all => by simpa [missing] using List.all_eq_true.1 all r at_)
    · intro whole
      exact read.trans (if_pos (List.all_eq_true.2 fun r at_ => Option.isSome_iff_ne_none.2 (whole r at_)))
  · intro i d src rest reload lanes by_ invalid
    exact wloadRegion_reload reload lanes invalid
  · intro bytes b aligned
    exact wdColumns_at hn hk aligned
  · refine ⟨fun u c a region => wdStep_refused next region, fun u p region => ?_⟩
    intro v block
    have step := wdStep_read (q := q) next region
    refine ⟨fun fine => ?_, fun before b after c at_ fine bad => ?_⟩
    · have none : (wdBlocksIn d r).findSome? (wdRefused d q (nset regs r p)) = none := List.findSome?_eq_none_iff.2 fun b at_ => wdRefused_ok (fine b at_)
      rw [step, none]
      rfl
    · have first : (wdBlocksIn d r).findSome? (wdRefused d q (nset regs r p)) = some c := by
        rw [at_, List.findSome?_append, List.findSome?_eq_none_iff.2 fun y at_ => wdRefused_ok (fine y at_), Option.none_or, List.findSome?_cons, wdRefused_error bad]
      rw [step, first]
      rfl
  · intro old n arrived
    have counted : old.arrive bytes false = { old with arrived := arrived } := by
      simp only [Rill.arrive, bit_iff_field]
      rfl
    refine ⟨s.countRill g r bytes false, rfl, ?_, ?_, fun k ne => ?_, countRill_mem .., ?_⟩
    · rw [rill_countRill, if_pos rfl, noted_same Rill.arrived fun _ => rfl]
      change (old.arrive bytes false).arrived = arrived
      rw [counted]
    · rw [rill_countRill, if_pos rfl, noted_same Rill.status fun _ => rfl]
      change (old.arrive bytes false).status = old.status
      rw [counted]
    · rw [rill_countRill, if_neg ne]
    · have event := evc_countRill s g r bytes false
      dsimp only at event
      rw [counted] at event
      exact event

/-- Settles O43: the steps of the stand, of the rafts and link orders, and of the weight loads and rills. -/
theorem engineEvents : Obligations.EngineEvents := ⟨standEvents, raftEvents, loadEvents⟩

end Sys2Proof.Machine
end

section
/-! The plumbing of the elements and the address walks (R65, R210, R211): a value passed on with its tags, a constant, and the levels of a walk. -/

namespace Sys2Proof.Machine

/-! ## A value passed on (R199, R210) -/

/-- A value that is passed on with its tags: err and the releases are of what was read (R199, R281). -/
def Val.passed (v : Val) (reads : List Val) : Val :=
  { v with err := (mkG reads 0).err || decide (v.residue.toNat ≠ v.data.toNat % 15), rels := relsOf (v :: reads) }

theorem mod15_toNat (w : Word) : (mod15 w).toNat = w.toNat % 15 := by
  rw [mod15, BitVec.toNat_ofNat]
  omega

theorem ne_mod15_iff (r : BitVec 4) (w : Word) : r ≠ mod15 w ↔ r.toNat ≠ w.toNat % 15 := by
  rw [← mod15_toNat, Ne, Ne, BitVec.toNat_inj]

/-- A value read twice gives err once. -/
theorem errOf_cons_mem {v : Val} {reads : List Val} (h : v ∈ reads) : errOf (v :: reads) = errOf reads := by
  rw [errOf, errOf, List.any_cons, Bool.or_eq_right_iff_imp]
  exact fun bad => List.any_eq_true.2 ⟨v, h, bad⟩

theorem mismP_own (v : Val) (reads : List Val) : mismP reads v.data v.residue = mismG reads + v.wrong := by
  simp only [mismP, Val.wrong, ne_mod15_iff, b2n]
  by_cases same : v.residue.toNat = v.data.toNat % 15 <;> simp [same]

theorem resultA_eq (s : State) (lam : Nat) (d : Dest) {v : Val} {reads : List Val} (h : v ∈ reads) :
    s.resultA lam d v reads = (s.result lam d (v.passed reads)).mism (mismG reads + v.wrong) := by
  simp only [State.resultA, errOf_cons_mem h, mismP_own, ne_mod15_iff]
  rfl

/-! ## The instructions -/

section
variable (s : State) (d : Dest) (ty : ElemType) (imm : BitVec 12)

theorem pass_eq : exec (.pass d ty imm) s = .next ((s.result 1 d (s.lineA.passed [s.lineA])).mism (mismG [s.lineA] + s.lineA.wrong)) :=
  congrArg Host.Outcome.next (resultA_eq s 1 d (List.mem_singleton_self _))

theorem passThru_eq {y : Cyc} (cyc : s.cyc = some y) : exec .passThru s = .next ((s.result 1 .res (y.pass.passed [y.pass])).mism (mismG [y.pass] + y.pass.wrong)) := by
  change execPassThru s = _
  rw [execPassThru, cyc]
  exact congrArg Host.Outcome.next (resultA_eq s 1 .res (List.mem_singleton_self _))

theorem hold_eq : exec (.hold d ty imm) s = .next (if s.lineC.data.getLsbD 0 then (s.result 1 d (s.lineA.passed [s.lineA, s.lineC])).mism (mismG [s.lineA, s.lineC] + s.lineA.wrong)
    else s.mism (mismG [s.lineA, s.lineC])) := by
  rw [← resultA_eq s 1 d (List.mem_cons_self ..)]
  rfl

/-- A level counts, from 0 again after its last value. -/
theorem agCnt_eq (n : BitVec 12) : exec (.agCnt d n) s =
    .next (((s.result 1 d { mkG [s.lineB] (BitVec.ofNat 64 s.elemF.level * s.lineB.data) with valid := true, edm := if s.elemF.level = n.toNat then 1 else 0 }).modElemF fun e =>
      { e with level := if s.elemF.level = n.toNat then 0 else s.elemF.level + 1 }).mism (mismG [s.lineB])) := by
  change execAgCnt d n s = _
  simp only [execAgCnt, decide_eq_true_eq]

variable {s}

theorem agLink_idle (idle : s.lineA.valid = false) (l : BitVec 4) (n : BitVec 8) :
    exec (.agLink d l n) s = .next ((s.result 1 d { mkG [s.lineA, s.lineB] s.lineA.data with edm := s.lineA.edm }).mism (mismG [s.lineA, s.lineB])) := if_pos idle

theorem agLink_eq (valid : s.lineA.valid = true) (l : BitVec 4) (n : BitVec 8) :
    let lower := l.toNat ≤ s.lineA.edm.toNat + 1
    exec (.agLink d l n) s = .next (((s.result 1 d { mkG [s.lineA, s.lineB] (s.lineA.data + BitVec.ofNat 64 s.elemF.level * s.lineB.data) with
        edm := if lower ∧ s.elemF.level = n.toNat then l else s.lineA.edm }).modElemF
      fun e => { e with level := if lower then (if s.elemF.level = n.toNat then 0 else s.elemF.level + 1) else s.elemF.level }).mism (mismG [s.lineA, s.lineB])) := by
  intro lower
  change execAgLink d l n s = _
  have level : (if lower ∧ s.elemF.level = n.toNat then 0 else if lower then s.elemF.level + 1 else s.elemF.level) =
      if lower then (if s.elemF.level = n.toNat then 0 else s.elemF.level + 1) else s.elemF.level := by
    split_ifs <;> tauto
  simp only [execAgLink, valid, Bool.true_eq_false, if_false, Bool.and_eq_true, decide_eq_true_eq, ← level]
  rfl

end

/-! ## The statement -/

/-- Settles O24: PASS, PASS THRU and HOLD pass a value on (`resultA_eq`); a level of a walk counts where every lower one has wrapped (`agCnt_eq`, `agLink_eq`). -/
theorem plumbingAndWalks : Obligations.PlumbingAndWalks := fun s d =>
  ⟨pass_eq s d, fun _ => passThru_eq s, hold_eq s d, fun _ _ => rfl, agCnt_eq s d, fun l n => ⟨fun idle => agLink_idle d idle l n, fun valid => agLink_eq d valid l n⟩⟩

end Sys2Proof.Machine
end

section
/-! What a step runs (R64, R77, R115): the instruction a woodward picks, the element of a context cycle, the moves of the agenda and the arrivals. -/

namespace Sys2Proof.Machine

/-! ## The instruction that a block issues next (R77, R115) -/

section
variable {b : Block} {k : Nat}

/-- The first of a round: the lowest that is ready and has not found that it must wait. -/
theorem pick_fresh (ready : b.ready k = true) (inside : k < b.words.length) (fresh : k ∉ b.stalled) (lower : ∀ j < k, b.ready j = true → j ∈ b.stalled) :
    b.pick = some (k, false) := by
  have found : ((List.range b.words.length).filter b.ready).find? (fun i => decide (i ∉ b.stalled)) = some k := by
    rw [List.find?_filter, List.find?_range_eq_some]
    exact ⟨by simp [ready, fresh], List.mem_range.2 inside, fun j below => by simpa [or_iff_not_imp_left] using lower j below⟩
  rw [Block.pick, found]

/-- The last of a round has been: the lowest that is ready begins the next. -/
theorem pick_again (ready : b.ready k = true) (inside : k < b.words.length) (lowest : ∀ j < k, b.ready j = false) (waited : ∀ j < b.words.length, b.ready j = true → j ∈ b.stalled) :
    b.pick = some (k, true) := by
  have none : ((List.range b.words.length).filter b.ready).find? (fun i => decide (i ∉ b.stalled)) = none := by
    rw [List.find?_filter, List.find?_range_eq_none]
    exact fun j at_ => by simpa [or_iff_not_imp_left] using waited j at_
  have head : ((List.range b.words.length).filter b.ready).head? = some k := by
    rw [List.head?_filter, List.find?_range_eq_some]
    exact ⟨ready, List.mem_range.2 inside, fun j below => by rw [lowest j below]; rfl⟩
  rw [Block.pick, none, head]
  rfl

/-- Nothing is ready. -/
theorem pick_none (idle : ∀ j < b.words.length, b.ready j = false) : b.pick = none := by
  have empty : (List.range b.words.length).filter b.ready = [] := List.filter_eq_nil_iff.2 fun j at_ => by simp [idle j (List.mem_range.1 at_)]
  rw [Block.pick, empty]
  rfl

end

/-! ## A woodward's move (R77) -/

section
variable {s : State} {g : Nat} {b : Block}

theorem woodward_issues {k : Nat} {i : Instr} (block : s.block g = some b) (pick : b.pick = some (k, false)) (word : decodeWord (b.word k) = .ok i) :
    s.woodward g = exec i { s with focus := { glade := g, idx := k } } := by
  simp only [State.woodward, block, pick, word, Bool.false_eq_true, if_false]

/-- The first instruction of the next round. -/
theorem woodward_issuesAgain {k : Nat} {i : Instr} (block : s.block g = some b) (pick : b.pick = some (k, true)) (word : decodeWord (b.word k) = .ok i) :
    s.woodward g = exec i { s.modBlock g fun b => { b with stalled := [] } with focus := { glade := g, idx := k } } := by
  simp only [State.woodward, block, pick, word, if_true]

theorem woodward_commits (block : s.block g = some b) (pick : b.pick = none) : s.woodward g = exec (.blockCommit g) s := by
  simp only [State.woodward, block, pick]
  rfl

theorem woodward_fetches (block : s.block g = none) : s.woodward g = exec (.blockFetch g) s := by
  simp only [State.woodward, block]
  rfl

end

/-! ## An element's issue (R64) -/

theorem step_element {s u : State} {c : Cyc} {e : Nat × Nat} {t : List (Nat × Nat)} {w : BitVec 24} {i : Instr} (cyc : s.cyc = some c) (todo : c.todo = e :: t)
    (next : s.nextElement c e.1 e.2 = (u, some w)) (word : decodeOp w = .ok i) : step s = exec i u := by
  simp only [step, cyc, State.element, todo, next, word]

theorem step_endCycle {s : State} {c : Cyc} (cyc : s.cyc = some c) (todo : c.todo = []) : step s = .next (s.endCycle c) := by
  simp only [step, cyc, State.element, todo]

theorem step_tick {s : State} (cyc : s.cyc = none) (agenda : s.agenda = []) : step s = .next s.tick := by
  simp only [step, cyc, agenda]

/-! ## What arrives -/

section
variable {s : State} {t : Nat} {l : List (Nat × Arrival)}

theorem input_arrives {a : Arrival} (first : s.inputs = (t, a) :: l) : s.input = ({ s with inputs := l } : State).arrival a := by
  simp only [State.input, first]

theorem arrival_event {i : Instr} (out : outside i = true) : s.arrival (.event i) = exec i s := if_pos out

/-- Bytes that the host writes to its own memory. -/
theorem arrival_hostBytes {vf a : Nat} {bs : List Byte} (fn : vf < 64) (inside : a + bs.length ≤ 2 ^ 55) :
    s.arrival (.hostBytes vf a bs) = .next (s.putNoted (hostAt vf + a) bs [.host vf]) := congrArg Host.Outcome.next (if_pos ⟨fn, inside⟩)

end

/-! ## The statement -/

/-- Settles O51: a step runs the first move of the agenda, and each move but the woodward's, an arrival's and a test's is its event by definition. -/
theorem stepRunsTheInstruction : Obligations.StepRunsTheInstruction := by
  intro s g rest on left
  refine ⟨fun b k i block ready inside fresh lower => woodward_issues (s := left) block (pick_fresh ready inside fresh lower),
    fun b k i block ready inside lowest waited => woodward_issuesAgain (s := left) block (pick_again ready inside lowest waited),
    fun b block idle => woodward_commits (s := left) block (pick_none idle), woodward_fetches (s := left),
    fun c e t u w i => step_element, fun c => step_endCycle, step_tick, fun t i l first out => ?_, fun t k b l first => ?_, fun t vf a bs l first fn inside => ?_, fun k => ?_, fun k n j => ?_⟩
  · exact (input_arrives first).trans (arrival_event out)
  · exact input_arrives first
  · exact ⟨_, (input_arrives first).trans (arrival_hostBytes fn inside), rfl, rfl, rfl, rfl⟩
  · exact ⟨rfl, rfl, rfl, rfl, rfl, rfl, rfl, rfl, fun early => if_neg (Bool.eq_false_iff.1 early), fun due => ⟨_, if_pos due⟩⟩
  · repeat refine List.forall_mem_cons.2 ⟨rfl, ?_⟩
    exact List.forall_mem_nil _

end Sys2Proof.Machine
end

section
/-! The queues of a glade (R61, R74, R201, R290, R293, R309, R386): the entry at a head starts, a run entry latches what its run needs, a finished entry retires, a credit falls due. -/

namespace Sys2Proof.Machine

/-! ## The entry at the head of a queue (R61, R74) -/

section
variable {s u : State} {g q : Nat} (placed : placeModes g ((s.eng g).queue q) s = u)
include placed

theorem entryStartTimed_none (none : (u.eng g).head q = none) : exec (.entryStartTimed g q) s = .next u := by
  change execEntryStartTimed g q s = _
  simp only [execEntryStartTimed, placed, none]

variable {x : QEntry} (head : (u.eng g).head q = some x)
include head

theorem entryStartTimed_waits (early : x.timed = false ∨ (u.th g).cnt < x.offset) : exec (.entryStartTimed g q) s = .next u := by
  change execEntryStartTimed g q s = _
  simp only [execEntryStartTimed, placed, head]
  split_ifs with gated before late
  · rfl
  · rfl
  · exact absurd early (not_or.2 ⟨gated, before⟩)
  · exact absurd early (not_or.2 ⟨gated, before⟩)

variable (timed : x.timed = true)
include timed

theorem entryStartTimed_late (late : x.offset < (u.th g).cnt) : exec (.entryStartTimed g q) s = .next (u.entryFault g x.tl x.opnum 0x080 (timeValue q x 0)) := by
  change execEntryStartTimed g q s = _
  simp only [execEntryStartTimed, placed, head, timed, Bool.true_eq_false, if_false, if_neg (Nat.lt_asymm late), if_pos late]

variable (now : x.offset = (u.th g).cnt)
include now

theorem entryStartTimed_starves {c : Nat} (lack : u.entryLack g x = some c) : exec (.entryStartTimed g q) s = .next (u.entryFault g x.tl x.opnum 0x081 (timeValue q x c)) := by
  change execEntryStartTimed g q s = _
  simp only [execEntryStartTimed, placed, head, timed, Bool.true_eq_false, if_false, now, Nat.lt_irrefl, lack]

theorem entryStartTimed_starts (lack : u.entryLack g x = none) : exec (.entryStartTimed g q) s = .next (u.startEntry g x) := by
  change execEntryStartTimed g q s = _
  simp only [execEntryStartTimed, placed, head, timed, Bool.true_eq_false, if_false, now, Nat.lt_irrefl, lack]

end

section
variable {s : State} {g q : Nat} {x : QEntry} (head : (s.eng g).head q = some x)
include head

theorem entryStartGated_starts (gated : x.timed = false) (lack : s.entryLack g x = none) : exec (.entryStartGated g q) s = .next (s.startEntry g x) := by
  change execEntryStartGated g q s = _
  simp only [execEntryStartGated, head, gated, Bool.false_eq_true, if_false, lack]

theorem entryStartGated_waits (h : x.timed = true ∨ s.entryLack g x ≠ none) : exec (.entryStartGated g q) s = .next s := by
  change execEntryStartGated g q s = _
  simp only [execEntryStartGated, head]
  split_ifs with timed
  · rfl
  · cases lack : s.entryLack g x with
    | some c => rfl
    | none => exact absurd h (not_or.2 ⟨timed, not_not.2 lack⟩)

end

/-! ## The start of a run (R64, R201) -/

/-- Two changes of a thicket that agree on what it holds are the same change. -/
theorem modTh_congr {s : State} {g : Nat} {f f' : Thicket → Thicket} (h : f (s.th g) = f' (s.th g)) : s.modTh g f = s.modTh g f' :=
  congrArg (fun t => ({ s with glades := nset s.glades g { s.glade g with cur := { s.bough g with th := t } } } : State)) h

section
variable (s : State) (g : Nat) (x : QEntry)

/-- The state with an entry of a glade marked as started. -/
def State.begun : State := s.modEng g fun e => e.modEntry x.tl x.opnum fun y => { y with state := 1, held := false }

/-- What a run latches at its start. -/
def State.latchedRun : Run :=
  let w := s.ww g
  let t := s.th g
  { opnum := x.opnum, uid := x.uid, first := t.cnt, len := leAt x.desc 16 8, mods := t.moduli.map fun m => (m, (w.modulus m).getD 0), seqid := w.seqid.extractLsb' 0 32
    pos := w.pos.extractLsb' 0 32, key := if w.keyValid then w.samplerKey else none }

/-- An element at the start of a run: its level and its random stream begin anew (R206, R211). -/
def Elem.restarted (e : Elem) : Elem := { e with level := 0, rblk := 0, rword := 0 }

/-- A thicket whose run has started. -/
def Thicket.started (t : Thicket) (r : Run) : Thicket := { t with run := some r, elems := t.elems.map fun e => (e.1, e.2.restarted) }

variable {s g x}

theorem startEntry_run (kind : x.kind = 3) (pop : x.pop = false) : s.startEntry g x = (s.begun g x).startRun g x := by
  simp only [State.startEntry, State.begun, kind, pop, Bool.false_eq_true, false_and, if_false, if_true, Nat.reduceEqDiff]

theorem startRun_modulus {m : Nat} {before after : List Nat} (moduli : (s.th g).moduli = before ++ m :: after) (bad : (s.ww g).modulus m = none)
    (others : ∀ m' ∈ before, (s.ww g).modulus m' ≠ none) : s.startRun g x = s.entryFault g 3 x.opnum 0x015 m := by
  have first : (s.th g).moduli.find? (fun m => ((s.ww g).modulus m).isNone) = some m := by
    rw [moduli]
    exact find?_found (fun m' at_ => Option.isNone_eq_false_iff.2 (Option.isSome_iff_ne_none.2 (others m' at_))) (by rw [bad]; rfl)
  simp only [State.startRun, first]

section
variable (moduli : ∀ m ∈ (s.th g).moduli, (s.ww g).modulus m ≠ none)
include moduli

theorem moduli_valid : (s.th g).moduli.find? (fun m => ((s.ww g).modulus m).isNone) = none :=
  List.find?_eq_none.2 fun m at_ => by simpa [Option.isNone_iff_eq_none] using moduli m at_

theorem startRun_keyless (needs : (s.th g).needsKey = true) (none : (s.ww g).keyValid = false) : s.startRun g x = s.entryOpen g 3 x.opnum 0x088 := by
  simp only [State.startRun, moduli_valid moduli, needs, none, and_self, if_true]

theorem startRun_runs (keyed : (s.th g).needsKey = false ∨ (s.ww g).keyValid = true) : s.startRun g x = s.modTh g fun t => t.started (s.latchedRun g x) := by
  have key : ¬((s.th g).needsKey = true ∧ (s.ww g).keyValid = false) := by
    rintro ⟨needs, none⟩
    simp [needs, none] at keyed
  simp only [State.startRun, moduli_valid moduli, if_neg key]
  refine modTh_congr ?_
  rw [BitVec.setWidth_eq_extractLsb' (by decide), BitVec.setWidth_eq_extractLsb' (by decide)]
  rfl

end

variable (s g x) in
@[simp] theorem ww_begun (h : Nat) : (s.begun g x).ww h = s.ww h := State.ww_modEng ..

variable (s g x) in
@[simp] theorem th_begun (h : Nat) : (s.begun g x).th h = s.th h := State.th_modEng ..

variable (kind : x.kind = 3) (pop : x.pop = false)
include kind pop

theorem startEntry_modulus {m : Nat} {before after : List Nat} (moduli : (s.th g).moduli = before ++ m :: after) (bad : (s.ww g).modulus m = none)
    (others : ∀ m' ∈ before, (s.ww g).modulus m' ≠ none) : s.startEntry g x = (s.begun g x).entryFault g 3 x.opnum 0x015 m := by
  rw [startEntry_run kind pop]
  refine startRun_modulus (before := before) (after := after) ?_ ?_ ?_ <;> simpa only [ww_begun, th_begun]

variable (moduli : ∀ m ∈ (s.th g).moduli, (s.ww g).modulus m ≠ none)
include moduli

theorem startEntry_keyless (needs : (s.th g).needsKey = true) (none : (s.ww g).keyValid = false) : s.startEntry g x = (s.begun g x).entryOpen g 3 x.opnum 0x088 := by
  rw [startEntry_run kind pop]
  refine startRun_keyless ?_ ?_ ?_ <;> simpa only [ww_begun, th_begun]

/-- A started run entry whose moduli and key are valid: the thicket's run is what it latched, and each element has begun anew. -/
theorem startEntry_runs (keyed : (s.th g).needsKey = false ∨ (s.ww g).keyValid = true) :
    s.startEntry g x = (s.begun g x).modTh g fun t => t.started (s.latchedRun g x) := by
  have latched : (s.begun g x).latchedRun g x = s.latchedRun g x := by
    simp only [State.latchedRun, ww_begun, th_begun]
  rw [startEntry_run kind pop, ← latched]
  refine startRun_runs ?_ ?_ <;> simpa only [ww_begun, th_begun]

end

/-! ## Retirement (R61, R290, R293, R386) -/

section
variable {e : Engines} {x : QEntry}

theorem entry_named {q n : Nat} (h : e.entry q n = some x) : x.tl = q ∧ x.opnum = n := by
  rw [Engines.entry] at h
  simpa using List.find?_some h

theorem timelines_retire : (e.retire x).tls = nmod {} e.tls x.tl fun t => t.retire x.opnum x.status := by
  unfold Engines.retire
  dsimp only
  split <;> rfl

theorem retired_retire (t : Timeline) (n status : Nat) : (t.retire n status).retired = n := by
  unfold Timeline.retire
  split <;> rfl

/-- A retired entry has left its queue. -/
theorem entry_retire : (e.retire x).entry x.tl x.opnum = none := by
  have queues : (e.retire x).queues = e.queues.map fun q => (q.1, q.2.filter fun y => ¬(y.tl = x.tl ∧ y.opnum = x.opnum)) := by
    unfold Engines.retire
    dsimp only
    split <;> rfl
  rw [Engines.entry, queues, List.find?_eq_none]
  intro y at_ own
  obtain ⟨_, kept, inside⟩ := List.mem_flatMap.1 at_
  obtain ⟨q, _, rfl⟩ := List.mem_map.1 kept
  have other := (List.mem_filter.1 inside).2
  simp only [decide_eq_true_eq] at own other
  exact other own

theorem tokens_addToken (k : Nat) : (e.addToken k).tokens k = e.tokens k + 1 := nget_nmod_self ..

theorem tokens_retire (push : x.push = true) (ok : x.status = 0) : (e.retire x).tokens (fifoKey x.tl x.peer) = e.tokens (fifoKey x.tl x.peer) + 1 := by
  simp only [Engines.retire, if_pos (And.intro push ok), tokens_addToken]
  rfl

end

section
variable {s : State} {g q : Nat}

theorem eng_releaseEntry (x : QEntry) (h : Nat) : (s.releaseEntry g x).eng h = s.eng h := by
  unfold State.releaseEntry
  dsimp only
  split <;> rfl

theorem mem_releaseEntry (x : QEntry) : (s.releaseEntry g x).mem = s.mem := by
  unfold State.releaseEntry
  dsimp only
  split <;> rfl

variable (engine : q ≠ 3)
include engine

theorem entryRetire_retires {x : QEntry} (next : (s.eng g).retirable q = some x) : exec (.entryRetire g q) s = .next ((s.releaseEntry g x).modEng g fun e => e.retire x) := by
  change execEntryRetire g q s = _
  simp only [execEntryRetire, if_neg engine, next]

theorem entryRetire_waits (none : (s.eng g).retirable q = none) : exec (.entryRetire g q) s = .next s := by
  change execEntryRetire g q s = _
  simp only [execEntryRetire, if_neg engine, none]

end

section
variable {e : Engines} {q : Nat}

theorem retirable_finished {x : QEntry} (next : e.entry q ((nget {} e.tls q).retired + 1) = some x) (finished : x.state = 2)
    (room : ¬(x.push = true ∧ x.status = 0 ∧ 16 ≤ e.tokens (fifoKey q x.peer))) : e.retirable q = some x := by
  simp only [Engines.retirable, next, finished]
  refine if_pos ?_
  simpa [or_assoc, or_iff_not_imp_left] using room

theorem retirable_unfinished (h : ∀ x, e.entry q ((nget {} e.tls q).retired + 1) = some x → x.state ≠ 2) : e.retirable q = none := by
  unfold Engines.retirable
  split
  · next x next => exact if_neg (by simp [h x next])
  · rfl

end

/-! ## Credits (R309) -/

section
variable {s : State} {g : Nat}

theorem creditTimerFire_none (early : ∀ c ∈ (s.eng g).credits, (s.th g).cnt < c.offset) : exec (.creditTimerFire g) s = .next s := by
  have none : (s.eng g).credits.find? (fun c => decide (c.offset ≤ (s.th g).cnt)) = none := List.find?_eq_none.2 fun c at_ => by simpa using early c at_
  change execCreditTimerFire g s = _
  simp only [execCreditTimerFire, none]

variable {c : Credit} (due : (s.eng g).credits.find? (fun c => decide (c.offset ≤ (s.th g).cnt)) = some c)
include due

theorem creditTimerFire_joins (room : (s.eng g).tokens (fifoKey c.peer c.peer) < 16) : exec (.creditTimerFire g) s =
    .next ((s.modEng g fun e => { e with credits := e.credits.erase c }).modEng g fun e => e.addToken (fifoKey c.peer c.peer)) := by
  change execCreditTimerFire g s = _
  simp only [execCreditTimerFire, due, if_neg (Nat.not_le.2 room)]

theorem creditTimerFire_full (full : 16 ≤ (s.eng g).tokens (fifoKey c.peer c.peer)) : exec (.creditTimerFire g) s =
    .next ((s.modEng g fun e => { e with credits := e.credits.erase c }).asyncFault g 0x081 (c.offset % 2 ^ 40 + 2 ^ 40 * 6 + 2 ^ 48 * fifoKey c.peer c.peer + 2 ^ 56 * 12)) := by
  change execCreditTimerFire g s = _
  simp only [execCreditTimerFire, due, if_pos full]

end

/-- The FIFO of an endpoint to itself. -/
theorem fifoKey_self (k : Nat) : fifoKey k k = 7 * k := by
  unfold fifoKey
  omega

/-! ## The statement -/

/-- Settles O42: the head of a queue, the start of a run, the retirement of an entry, and a credit. -/
theorem queueEvents : Obligations.QueueEvents := by
  intro s g q e
  refine ⟨?_, fun x head => ⟨entryStartGated_starts head, entryStartGated_waits head⟩, fun x kind pop => ?_, fun engine => ?_, fun c due => ?_, creditTimerFire_none⟩
  · intro u cnt value
    refine ⟨fun x head => ⟨entryStartTimed_waits rfl head, entryStartTimed_late rfl head, fun timed now => entryStartTimed_starts rfl head timed now,
      fun c timed now => entryStartTimed_starves rfl head timed now⟩, fun started => entryStartTimed_none rfl (List.find?_eq_none.2 fun x at_ => by simpa using started x at_)⟩
  · refine ⟨fun m before after moduli bad others => startEntry_modulus kind pop moduli bad others, fun moduli needs none => startEntry_keyless kind pop moduli needs none, fun moduli keyed => ?_⟩
    have run := startEntry_runs kind pop moduli keyed
    have after : (s.startEntry g x).th g = (s.th g).started (s.latchedRun g x) := by
      rw [run, State.th_modTh_self, th_begun]
    refine ⟨(congrArg Thicket.run after :), fun i el at_ => ?_, (congrArg Thicket.cnt after :), (congrArg Thicket.stems after :), (congrArg State.mem run :)⟩
    rw [after, Thicket.started, nfind_map, at_]
    rfl
  · intro next
    refine ⟨fun x entry finished room => ?_, fun unfinished => entryRetire_waits engine (retirable_unfinished unfinished)⟩
    obtain ⟨rfl, opnum⟩ := entry_named entry
    refine ⟨_, entryRetire_retires engine (retirable_finished entry finished room), ?_⟩
    dsimp only
    rw [State.eng_modEng_self, eng_releaseEntry, timelines_retire, nget_nmod_self, retired_retire]
    refine ⟨opnum, opnum ▸ entry_retire, mem_releaseEntry x, fun bad => ?_, tokens_retire⟩
    rw [Timeline.retire, if_neg bad]
    exact ⟨opnum, rfl, rfl⟩
  · intro k
    rw [show k = fifoKey c.peer c.peer from (fifoKey_self _).symm]
    refine ⟨fun room => ⟨_, creditTimerFire_joins due room, ?_, ?_, rfl⟩, creditTimerFire_full due⟩
    · rw [State.eng_modEng_self, tokens_addToken, State.eng_modEng_self]
      rfl
    · rw [State.eng_modEng_self, State.eng_modEng_self]
      rfl

end Sys2Proof.Machine
end

section
/-! The context cycle of a thicket as it begins (R63, R64, R67, R194): where the counter stays, where it advances, and what issues. -/

namespace Sys2Proof.Machine

section
variable (s : State) (g : Nat)

/-- The glade makes context cycles: none is in progress, the start pulse has come, no fault stops the thicket, and the counter can advance. -/
def State.cycles : Prop := s.cyc = none ∧ (s.ww g).started = true ∧ (s.th g).stopped = false ∧ (s.th g).cnt < 2 ^ 40 - 1

/-- What row 0 of each stem misses, where it issues (R67, R194). -/
def State.row0s : List (Nat × Bool × Option Nat) := if (s.th g).issues 0 then (List.range 16).map fun st => (st, (s.bough g).row0 st) else []

/-- The faults of the rows 0 that find a port empty (R194). -/
def State.row0Faults : List CycFault := (s.row0s g).filterMap fun x => x.2.2.map fun v => ⟨x.1, 0, 0x082, v⟩

/-- The context cycle as it begins. -/
def State.opened : Cyc := { glade := g, todo := (s.th g).issuing, saved := s.bough g, life := s.pk.life, faults := s.row0Faults g }

variable {s g}

theorem overdue_iff (t : Thicket) : t.overdue = true ↔ (∃ e ∈ t.elems, ∃ f ∈ e.2.flight, f.land ≤ t.cnt) ∨ ∃ x ∈ t.stems, x.2.staged t.cnt ≠ [] := by
  simp only [Thicket.overdue, Bool.or_eq_true, List.any_eq_true, decide_eq_true_eq]

theorem cycles_iff : s.cycles g ↔ ¬(s.cyc.isSome || !(s.ww g).started || (s.th g).stopped || decide (2 ^ 40 - 1 ≤ (s.th g).cnt)) = true := by
  simp [State.cycles, and_assoc]

theorem contextCycle_idle (h : ¬s.cycles g) : exec (.contextCycle g) s = .next s := if_pos (not_not.1 (mt cycles_iff.2 h))

/-- A context cycle that is made: a landing holds the counter, else it advances where nothing issues, else a hold bit holds it, else the elements begin to issue. -/
theorem contextCycle_cycles (h : s.cycles g) : exec (.contextCycle g) s = .next (
    if (s.th g).overdue then s.perf g 2 1 else if (s.th g).issuing = [] then s.advance g
    else if (s.row0s g).any fun x => x.2.1 then s.perf g 1 1 else { s with cyc := some (s.opened g) }) := by
  have made : execContextCycle g s = if (s.th g).overdue then .next (s.perf g 2 1) else if (s.th g).issuing = [] then .next (s.advance g)
      else if (s.row0s g).any fun x => x.2.1 then .next (s.perf g 1 1) else .next { s with cyc := some (s.opened g) } := if_neg (cycles_iff.1 h)
  change execContextCycle g s = _
  simp only [made, apply_ite (Host.Outcome.next (φ := Fault) (ρ := Refusal))]

section
variable (h : s.cycles g)
include h

theorem contextCycle_late (late : (s.th g).overdue = true) : exec (.contextCycle g) s = .next (s.perf g 2 1) := by
  rw [contextCycle_cycles h, if_pos late]

variable (landed : ¬(s.th g).overdue = true)
include landed

theorem contextCycle_advances (none : (s.th g).issuing = []) : exec (.contextCycle g) s = .next (s.advance g) := by
  rw [contextCycle_cycles h, if_neg landed, if_pos none]

variable (some_ : (s.th g).issuing ≠ [])
include some_

theorem contextCycle_held (held : ∃ x ∈ s.row0s g, x.2.1 = true) : exec (.contextCycle g) s = .next (s.perf g 1 1) := by
  rw [contextCycle_cycles h, if_neg landed, if_neg some_, if_pos (List.any_eq_true.2 held)]

theorem contextCycle_opens (met : ∀ x ∈ s.row0s g, x.2.1 = false) : exec (.contextCycle g) s = .next { s with cyc := some (s.opened g) } := by
  have free : ¬((s.row0s g).any fun x => x.2.1) = true := by
    rw [Bool.not_eq_true, List.any_eq_false]
    exact fun x at_ => Bool.eq_false_iff.1 (met x at_)
  rw [contextCycle_cycles h, if_neg landed, if_neg some_, if_neg free]

end

theorem advance_cnt : ((s.advance g).th g).cnt = (s.th g).cnt + 1 := by rw [State.advance, State.th_perf, State.th_modTh_self]

theorem advance_elems : ((s.advance g).th g).elems = (s.th g).elems := by rw [State.advance, State.th_perf, State.th_modTh_self]

/-- The elements that issue are those of the grid whose row issues. -/
theorem mem_issuing {t : Thicket} {p : Nat × Nat} (h : p ∈ t.issuing) : p.1 < 16 ∧ p.2 < 16 ∧ t.issues p.2 = true := by
  obtain ⟨k, row, at_⟩ := List.mem_flatMap.1 h
  obtain ⟨st, stem, rfl⟩ := List.mem_map.1 at_
  obtain ⟨inside, issues⟩ := List.mem_filter.1 row
  exact ⟨List.mem_range.1 stem, List.mem_range.1 inside, issues⟩

end

end Sys2Proof.Machine
end

section
/-! Landings (R66, R191, R193, R195, R226): what a landing leaves in an element, in a stem and in its age queue of ferns. -/

namespace Sys2Proof.Machine

/-! ## The results of an element -/

/-- An element in whose register a result lands, unless the result of a later issue has landed there (R191). -/
def Elem.land (cnt : Nat) (e : Elem) (issued : Nat) (v : Val) : Elem := if e.landed = some cnt ∧ issued < e.resAt then e else { e with res := v, landed := some cnt, resAt := issued }

/-- An element once every flight of it that is due has landed. -/
def Elem.landAll (cnt : Nat) (ok : Nat → Bool) (e : Elem) : Elem :=
  { (e.flight.filter fun f => f.lands cnt ok).foldl (fun e f => e.land cnt f.issued f.val) e with flight := e.flight.filter fun f => !f.lands cnt ok }

section
variable {cnt : Nat} {ok : Nat → Bool}

theorem landAll_idle {e : Elem} (idle : e.flight = []) : e.landAll cnt ok = e := by
  cases e
  subst idle
  rfl

/-- What has landed does not land again. -/
theorem landAll_landAll (e : Elem) : (e.landAll cnt ok).landAll cnt ok = e.landAll cnt ok := by
  have none : ((e.flight.filter fun f => !f.lands cnt ok).filter fun f => f.lands cnt ok) = [] := by simp [List.filter_filter]
  have rest : ((e.flight.filter fun f => !f.lands cnt ok).filter fun f => !f.lands cnt ok) = e.flight.filter fun f => !f.lands cnt ok := by simp [List.filter_filter]
  have flight : (e.landAll cnt ok).flight = e.flight.filter fun f => !f.lands cnt ok := rfl
  rw [Elem.landAll, flight, none, rest]
  rfl

theorem landAll_one {e : Elem} {f : Flight} (one : e.flight = [f]) : e.landAll cnt ok = if f.lands cnt ok then { e.land cnt f.issued f.val with flight := [] } else e := by
  cases lands : f.lands cnt ok <;> simp [Elem.landAll, one, lands]
  rw [← one]

section
variable {e : Elem} {f : Flight} (one : e.flight = [f]) (lands : f.lands cnt ok = true)
include one lands

theorem landAll_takes (last : ¬(e.landed = some cnt ∧ f.issued < e.resAt)) : e.landAll cnt ok = { e with res := f.val, landed := some cnt, resAt := f.issued, flight := [] } := by
  rw [landAll_one one, if_pos lands, Elem.land, if_neg last]

theorem landAll_loses (later : e.landed = some cnt ∧ f.issued < e.resAt) : e.landAll cnt ok = { e with flight := [] } := by
  rw [landAll_one one, if_pos lands, Elem.land, if_pos later]

end

theorem lands_early {f : Flight} (early : ¬f.land ≤ cnt) : f.lands cnt ok = false := by
  rw [Flight.lands, decide_eq_false early, Bool.false_and]

theorem lands_eq_true {f : Flight} (due : f.land ≤ cnt) (released : ∀ r, f.rel = some r → ok r = true) : f.lands cnt ok = true := by
  unfold Flight.lands
  cases rel : f.rel with
  | none => simpa using due
  | some r => simpa [due] using released r rel

theorem nfind_nmod {α : Type} (d : α) (m : NatMap α) (i j : Nat) (f : α → α) : nfind (nmod d m i f) j = if i = j then some (f (nget d m i)) else nfind m j := nfind_nset ..

/-- A property of the default and of every listed value is one of what is found. -/
theorem nget_all {α : Type} {d : α} {m : NatMap α} (P : α → Prop) (default : P d) (listed : ∀ x ∈ m, P x.2) (i : Nat) : P (nget d m i) := by
  unfold nget
  cases found : nfind m i with
  | none => exact default
  | some v => exact listed _ (mem_of_nfind found)

section
variable (t : Thicket) (i issued : Nat) (v : Val) (rso : Bool)

theorem elem_land : nget {} (t.land cnt i issued v rso).elems i = (nget {} t.elems i).land cnt issued v := by
  unfold Thicket.land Elem.land
  dsimp only
  split
  · rfl
  · exact nget_nset_self ..

theorem elem_land_ne {j : Nat} (ne : i ≠ j) : nfind (t.land cnt i issued v rso).elems j = nfind t.elems j := by
  unfold Thicket.land
  dsimp only
  split
  · rfl
  · exact nfind_nset_ne _ _ ne

theorem cnt_land : (t.land cnt i issued v rso).cnt = t.cnt := by
  unfold Thicket.land
  dsimp only
  split <;> rfl

theorem stem_modStem (st : Nat) (f : Stem → Stem) (st' : Nat) : (t.modStem st f).stem st' = if st' = st then f (t.stem st) else t.stem st' := by
  split_ifs with own
  · subst own
    exact nget_nmod_self ..
  · exact nget_nmod_ne _ _ _ _ (Ne.symm own)

/-- A landing changes what a stem keeps for its stream-out port only (R193): with dest RES nothing comes to be kept. -/
theorem stem_land (st : Nat) : ∃ so, (t.land cnt i issued v rso).stem st = { t.stem st with so := so } ∧ ((t.stem st).so = [] → rso = false → so = []) := by
  unfold Thicket.land
  dsimp only
  split
  · exact ⟨_, rfl, fun none _ => none⟩
  · let key := 16 * (cnt - i % 16) + i % 16
    change ∃ so, (t.modStem (i / 16) fun x => { x with so := if rso then nset x.so key v else ndel x.so key }).stem st = _ ∧ _
    rw [stem_modStem]
    split_ifs with own res
    · subst own
      exact ⟨_, rfl, fun _ res' => absurd res' (by simp [res])⟩
    · subst own
      exact ⟨_, rfl, fun none _ => congrArg (ndel · key) none⟩
    · exact ⟨_, rfl, fun none _ => none⟩

end

/-! ### Every element of a glade -/

/-- A thicket once the flights of an element that are due have landed. -/
def Thicket.landDue (cnt : Nat) (ok : Nat → Bool) (t : Thicket) (i : Nat) : Thicket :=
  ((nget {} t.elems i).flight.filter fun f => f.lands cnt ok).foldl (fun t f => t.land cnt i f.issued f.val f.rso) t

section
variable (t : Thicket) (i : Nat)

theorem landElem_eq : landElem cnt ok t i =
    { t.landDue cnt ok i with elems := nmod {} (t.landDue cnt ok i).elems i fun y => { y with flight := (nget {} t.elems i).flight.filter fun f => !f.lands cnt ok } } := rfl

theorem nfind_landElem (j : Nat) : nfind (landElem cnt ok t i).elems j = if i = j then some ((nget {} t.elems i).landAll cnt ok) else nfind t.elems j := by
  rw [landElem_eq, nfind_nmod]
  split_ifs with own
  · have landed : nget {} (t.landDue cnt ok i).elems i = ((nget {} t.elems i).flight.filter fun f => f.lands cnt ok).foldl (fun e f => e.land cnt f.issued f.val) (nget {} t.elems i) :=
      (List.foldl_hom (fun t : Thicket => nget {} t.elems i) fun t (f : Flight) => (elem_land t i f.issued f.val f.rso).symm).symm
    rw [landed]
    rfl
  · exact foldl_keeps (fun t : Thicket => nfind t.elems j) _ (fun t (f : Flight) => elem_land_ne t i f.issued f.val f.rso own) _ t

theorem cnt_landElem : (landElem cnt ok t i).cnt = t.cnt :=
  foldl_keeps Thicket.cnt (fun t (f : Flight) => t.land cnt i f.issued f.val f.rso) (fun t f => cnt_land t i f.issued f.val f.rso) _ t

theorem elem_landElem (j : Nat) : nget {} (landElem cnt ok t i).elems j = if i = j then (nget {} t.elems i).landAll cnt ok else nget {} t.elems j := by
  rw [nget, nfind_landElem]
  split_ifs <;> rfl

variable {t}

/-- Nothing is kept for the stream-out ports, and no flight goes there. -/
def Thicket.plain (t : Thicket) : Prop := (∀ st, (t.stem st).so = []) ∧ ∀ i, ∀ f ∈ (nget {} t.elems i).flight, f.rso = false

theorem stem_land_plain (empty : ∀ st, (t.stem st).so = []) (issued : Nat) (v : Val) (st : Nat) : (t.land cnt i issued v false).stem st = t.stem st := by
  obtain ⟨so, stem, none⟩ := stem_land t i issued v false st
  rw [stem, none (empty st) rfl]
  exact congrArg (fun so => { t.stem st with so := so }) (empty st).symm

theorem stem_lands_plain {fs : List Flight} (empty : ∀ st, (t.stem st).so = []) (res : ∀ f ∈ fs, f.rso = false) (st : Nat) :
    (fs.foldl (fun t f => t.land cnt i f.issued f.val f.rso) t).stem st = t.stem st := by
  induction fs generalizing t with
  | nil => rfl
  | cons f fs ih =>
    obtain ⟨first, rest⟩ := List.forall_mem_cons.1 res
    have own (st : Nat) : (t.land cnt i f.issued f.val f.rso).stem st = t.stem st := by rw [first, stem_land_plain i empty]
    exact (ih (fun st => by rw [own, empty]) rest).trans (own st)

theorem stem_landElem (plain : t.plain) (st : Nat) : (landElem cnt ok t i).stem st = t.stem st := by
  obtain ⟨empty, res⟩ := plain
  exact stem_lands_plain i empty (fun f at_ => res i f (List.mem_of_mem_filter at_)) st

theorem plain_landElem (plain : t.plain) : (landElem cnt ok t i).plain := by
  refine ⟨fun st => by rw [stem_landElem i plain, plain.1], fun j f at_ => plain.2 j f ?_⟩
  rw [elem_landElem] at at_
  split_ifs at at_ with own
  · exact own ▸ List.mem_of_mem_filter at_
  · exact at_

end

section
variable (t : Thicket) (i : Nat) {f : Flight} (one : (nget {} t.elems i).flight = [f]) (lands : f.lands cnt ok = true)
include one lands

/-- The one flight of an element takes its register. -/
theorem landElem_takes (last : ¬((nget {} t.elems i).landed = some cnt ∧ f.issued < (nget {} t.elems i).resAt)) :
    nget {} (landElem cnt ok t i).elems i = { nget {} t.elems i with res := f.val, landed := some cnt, resAt := f.issued, flight := [] } := by
  rw [elem_landElem, if_pos rfl, landAll_takes one lands last]

/-- It is lost where the result of a later issue has landed in the same context cycle. -/
theorem landElem_loses (later : (nget {} t.elems i).landed = some cnt ∧ f.issued < (nget {} t.elems i).resAt) :
    nget {} (landElem cnt ok t i).elems i = { nget {} t.elems i with flight := [] } := by
  rw [elem_landElem, if_pos rfl, landAll_loses one lands later]

end

/-! ### Every landing of a glade -/

section
variable {t : Thicket} (l : List Nat)

theorem nfind_landElems (t : Thicket) (j : Nat) :
    nfind (l.foldl (landElem cnt ok) t).elems j = if j ∈ l then some ((nget {} t.elems j).landAll cnt ok) else nfind t.elems j := by
  induction l generalizing t with
  | nil => rfl
  | cons i l ih =>
    rw [List.foldl_cons, ih, nfind_landElem, elem_landElem]
    by_cases own : i = j
    · subst own
      simp [landAll_landAll]
    · simp [own, Ne.symm own]

theorem cnt_landElems (t : Thicket) : (l.foldl (landElem cnt ok) t).cnt = t.cnt := foldl_keeps Thicket.cnt _ cnt_landElem l t

theorem stem_landElems (plain : t.plain) (st : Nat) : (l.foldl (landElem cnt ok) t).stem st = t.stem st := by
  induction l generalizing t with
  | nil => rfl
  | cons i l ih => exact (ih (plain_landElem i plain)).trans (stem_landElem i plain st)

end

end

/-! ### RESULT_LAND -/

section
variable {s : State} {g : Nat}

/-- Stream-out ports for which nothing is kept emit nothing (R193). -/
theorem emitAll_empty (l : List Nat) (empty : ∀ st, ((s.th g).stem st).so = []) : emitAll g l s = s := by
  induction l with
  | nil => rfl
  | cons st l ih =>
    have staged : ((s.th g).stem st).staged (s.th g).cnt = [] := by rw [Stem.staged, empty st, List.filter_nil]
    rw [emitAll, staged, emitStaged, ite_self, ih]

/-- The state of a glade once every result that is due has landed. -/
def State.landed (s : State) (g : Nat) : State := s.modTh g fun t => (t.elems.map (·.1)).foldl (landElem t.cnt (s.releasedAt g)) t

theorem resultLand_stopped (stopped : (s.th g).stopped = true) : exec (.resultLand g) s = .next s := if_pos stopped

theorem resultLand_next : ∃ t, exec (.resultLand g) s = .next t := by
  by_cases stopped : (s.th g).stopped = true
  · exact ⟨s, resultLand_stopped stopped⟩
  · exact ⟨_, if_neg stopped⟩

variable (runs : (s.th g).stopped = false)

theorem th_landed : (s.landed g).th g = ((s.th g).elems.map (·.1)).foldl (landElem (s.th g).cnt (s.releasedAt g)) (s.th g) := State.th_modTh_self ..

include runs in
theorem resultLand_plain (plain : (s.th g).plain) : exec (.resultLand g) s = .next (s.landed g) := by
  have emits : exec (.resultLand g) s = .next (emitAll g (List.range 16) (s.landed g)) := if_neg (Bool.eq_false_iff.1 runs)
  rw [emits, emitAll_empty]
  intro st
  rw [th_landed, stem_landElems _ plain, plain.1]

end

/-- What is kept and flies of every listed stem and element, of a thicket whose ports are empty. -/
theorem plain_of_listed {t : Thicket} (empty : ∀ x ∈ t.stems, x.2.so = []) (res : ∀ e ∈ t.elems, ∀ f ∈ e.2.flight, f.rso = false) : t.plain :=
  ⟨nget_all (fun x : Stem => x.so = []) rfl empty, nget_all (fun e : Elem => ∀ f ∈ e.flight, f.rso = false) (fun _ none => absurd none List.not_mem_nil) res⟩

/-! ## Fern results (R68, R195) -/

/-- An age queue once a fern result of it has landed: it takes the place of its row's older ones. -/
def landFernIn (l : List FernEnt) (y : FernEnt) : List FernEnt :=
  (l.filter fun e => !(e.landed && decide (e.row = y.row)) && decide (e ≠ y)) ++ [{ y with landed := true }]

/-- An age queue once every fern result of it that is due has landed. -/
def landFernsIn (cnt : Nat) (l : List FernEnt) : List FernEnt := (l.filter fun e => !e.landed && decide (e.land ≤ cnt)).foldl landFernIn l

/-- What an age queue holds after some landings has landed, or was there before and is none of them. -/
theorem mem_landFerns (ys : List FernEnt) {l : List FernEnt} {e : FernEnt} (h : e ∈ ys.foldl landFernIn l) : e.landed = true ∨ (e ∈ l ∧ e ∉ ys) := by
  induction ys generalizing l with
  | nil => exact .inr ⟨h, List.not_mem_nil⟩
  | cons y ys ih =>
    rcases ih h with landed | ⟨kept, others⟩
    · exact .inl landed
    · rcases List.mem_append.1 kept with old | new
      · obtain ⟨inside, stays⟩ := List.mem_filter.1 old
        have ne : e ≠ y := by
          simp only [Bool.and_eq_true, decide_eq_true_eq] at stays
          exact stays.2
        exact .inr ⟨inside, List.not_mem_cons_of_ne_of_not_mem ne others⟩
      · exact .inl (List.mem_singleton.1 new ▸ rfl)

/-- Every fern result that is due has landed. -/
theorem landFernsIn_landed {cnt : Nat} {l : List FernEnt} {e : FernEnt} (h : e ∈ landFernsIn cnt l) (due : e.land ≤ cnt) : e.landed = true := by
  rcases mem_landFerns _ h with landed | ⟨inside, none⟩
  · exact landed
  · by_contra flying
    exact none (List.mem_filter.2 ⟨inside, by simp [flying, due]⟩)

section
variable {cnt : Nat} (t : Thicket) (st : Nat)

theorem fern_landFern (y : FernEnt) (st' : Nat) : ((t.landFern cnt st y).stem st').fern = if st' = st then landFernIn (t.stem st).fern y else (t.stem st').fern := by
  have queue : ((t.landFern cnt st y).stem st').fern = ((t.modStem st fun x => { x with fern := landFernIn x.fern y }).stem st').fern := by
    unfold Thicket.landFern
    dsimp only
    split
    · obtain ⟨so, stem, _⟩ := stem_land (cnt := cnt) (t.modStem st fun x => { x with fern := landFernIn x.fern y }) (16 * st + y.row) y.issued y.val y.rso st'
      exact (congrArg Stem.fern stem :)
    · rfl
  rw [queue, stem_modStem]
  split_ifs <;> rfl

theorem cnt_landFern (y : FernEnt) : (t.landFern cnt st y).cnt = t.cnt := by
  unfold Thicket.landFern
  dsimp only
  split
  · exact cnt_land ..
  · rfl

theorem fern_landFerns_self : ((landFerns cnt t st).stem st).fern = landFernsIn cnt (t.stem st).fern :=
  (List.foldl_hom (fun t : Thicket => (t.stem st).fern) fun t y => ((fern_landFern t st y st).trans (if_pos rfl)).symm).symm

theorem fern_landFerns_ne {st' : Nat} (ne : st' ≠ st) : ((landFerns cnt t st).stem st').fern = (t.stem st').fern :=
  foldl_keeps (fun t : Thicket => (t.stem st').fern) _ (fun t y => (fern_landFern t st y st').trans (if_neg ne)) _ t

theorem cnt_landFerns : (landFerns cnt t st).cnt = t.cnt := foldl_keeps Thicket.cnt _ (fun t y => cnt_landFern t st y) _ t

end

section
variable {s : State} {g : Nat}

/-- The state of a glade once every fern result that is due has landed. -/
def State.fernsLanded (s : State) (g : Nat) : State := s.modTh g fun t => (List.range 16).foldl (landFerns t.cnt) t

theorem fernResultLand_stopped (stopped : (s.th g).stopped = true) : exec (.fernResultLand g) s = .next s := if_pos stopped

theorem fernResultLand_lands (runs : (s.th g).stopped = false) : exec (.fernResultLand g) s = .next (s.fernsLanded g) := if_neg (Bool.eq_false_iff.1 runs)

theorem cnt_fernsLanded : ((s.fernsLanded g).th g).cnt = (s.th g).cnt := by
  rw [State.fernsLanded, State.th_modTh_self]
  exact foldl_keeps Thicket.cnt _ cnt_landFerns _ _

theorem fern_fernsLanded {st : Nat} (stem : st < 16) : (((s.fernsLanded g).th g).stem st).fern = landFernsIn (s.th g).cnt ((s.th g).stem st).fern := by
  rw [State.fernsLanded, State.th_modTh_self]
  exact foldl_once (fun t : Thicket => (t.stem st).fern) id (by simp [List.nodup_range]) (List.mem_range.2 stem) (fun st' _ ne t => fern_landFerns_ne t st' (Ne.symm ne))
    (fun t => fern_landFerns_self t st) (s.th g)

end

end Sys2Proof.Machine
end

section
/-! The requests of the AG elements at memory (R213, R241, R263, R270, R277): neither a store performed nor a block discarded changes a thicket, and each request is answered or performed. -/

namespace Sys2Proof.Machine

/-! ## Every thicket stays -/

section
variable (s : State) (h : Nat)

theorem th_of_glades {s t : State} (glades : t.glades = s.glades) : t.th h = s.th h := by simp only [State.th, State.bough, State.glade, glades]

theorem th_modGlade_same (g : Nat) (f : Glade → Glade) (hf : ∀ x, (f x).cur.th = x.cur.th) : (s.modGlade g f).th h = s.th h := by
  simp only [State.th, State.bough, State.glade_modGlade]
  split
  · next e => rw [hf, e]
  · rfl

theorem th_report (p : Nat) (m : List Byte) : (s.report p m).th h = s.th h := by
  unfold State.report State.tell
  split
  · exact State.sendFlit_th_at ..
  · split <;> rfl

theorem th_modHome (g : Nat) (hit : Engines → Bool) (f : Engines → Engines) : (s.modHome g hit f).th h = s.th h := by
  unfold State.modHome
  dsimp only
  split
  · exact State.th_modEng ..
  · split
    · exact th_modGlade_same s h g _ fun _ => rfl
    · rfl

theorem th_settleTears : s.settleTears.th h = s.th h := by
  simp only [State.th, State.bough, State.glade, State.settleTears, nget, nfind_map]
  cases nfind s.glades h <;> rfl

theorem th_releaseKey (g : Nat) (z : ZoneRef) : (s.releaseKey g z).th h = s.th h := by
  unfold State.releaseKey
  split
  · exact (th_settleTears _ h).trans (th_modHome ..)
  · exact th_report ..

theorem th_unhold (g : Nat) (z : ZoneRef) : (s.unhold g z).th h = s.th h := by
  unfold State.unhold
  split
  · exact th_modHome ..
  · exact th_report ..

theorem th_releasePend (g : Nat) (l : List (Nat × Pend)) : (releasePend g l s).th h = s.th h := by
  induction l generalizing s with
  | nil => rfl
  | cons p rest ih =>
    obtain ⟨_, q⟩ := p
    cases q with
    | slotHeld z n _ =>
      rw [releasePend, ih]
      split
      · exact th_unhold ..
      · exact th_releaseKey ..
    | slotRelease z => exact (ih _).trans (th_unhold ..)
    | _ => exact ih s

theorem th_releaseAnswers (g : Nat) (b : Block) (l : List (Nat × Word)) : (releaseAnswers g b l s).th h = s.th h := by
  induction l generalizing s with
  | nil => rfl
  | cons p rest ih =>
    simp only [releaseAnswers]
    split_ifs <;> simp only [ih, th_unhold, th_releaseKey]

theorem th_discard (g : Nat) : (s.discard g).th h = s.th h := by
  unfold State.discard
  split
  · rfl
  · next b _ =>
    have gone : (((releaseAnswers g b b.answers (releasePend g b.pend s)).modWw g fun w => { w with block := none, fetch := b.addr }).modGlade g fun x =>
        { x with walks := [], walkFaults := [] }).th h = s.th h := by
      rw [th_modGlade_same, State.th_modWw, th_releaseAnswers, th_releasePend]
      exact fun _ => rfl
    dsimp only
    split
    · exact gone
    · exact gone

theorem th_write (a : Nat) (bs : List Byte) (before_ : List Point) (own : Option Nat) (agent : Nat) : (s.write a bs before_ own agent).th h = s.th h := by
  unfold State.write
  dsimp only
  split
  · exact th_discard ..
  · rfl

theorem hbmRead_glades (a n : Nat) : (s.hbmRead a n).glades = s.glades := by
  by_cases inside : hbmAt ≤ a ∧ a < hbmAt + 2 ^ 52 ∧ 0 < n
  · simp only [State.hbmRead, if_pos inside]
    generalize (a - hbmAt) / 32 = lo
    exact foldl_keeps State.glades _ (fun (t : State) i => State.life_glades t 7 (t.stackOf (32 * (lo + i))) 1) _ s
  · rw [State.hbmRead, if_neg inside]

theorem th_served (g a phys n : Nat) : (s.served g a phys n).th h = s.th h := by
  have entered (t : Tlb) : ((s.modGlade g fun x => { x with tlb := tlbEnter 1 256 t x.tlb }).perf g 12 1).th h = s.th h :=
    (State.th_perf ..).trans (th_modGlade_same s h g _ fun _ => rfl)
  unfold State.served
  refine (th_of_glades h (hbmRead_glades ..)).trans ?_
  split
  · rfl
  · dsimp only
    generalize (if bit a 55 = true then ‹Place›.vf else ‹Place›.ctx) = owner
    split_ifs
    · rfl
    · split
      · exact entered _
      · rfl

end

/-! ## The oldest request of an element -/

section
variable {s : State} {g st k : Nat} {r : AgReq} {rest : List AgReq}

theorem elem_modAg (f : Elem → Elem) : ((s.modAg g st k f).th g).elem st k = f ((s.th g).elem st k) := by
  rw [State.modAg, State.th_modTh_self]
  exact nget_nmod_self ..

/-- The reply of a request (R212, R213). -/
def AgReq.reply (r : AgReq) (w : Word) (err : Bool) : Val := { Val.ofWord w with edm := r.edm, last := r.last, err := err }

/-- The state once the oldest request of an element has put a reply into its reply queue. -/
def State.replied (s : State) (g st k : Nat) (v : Val) : State := s.modAg g st k fun e => { e with agOut := e.agOut.drop 1, agRep := e.agRep ++ [v] }

variable (oldest : ((s.th g).elem st k).agOut = r :: rest)
include oldest

theorem elem_replied (v : Val) : ((s.replied g st k v).th g).elem st k = { (s.th g).elem st k with agOut := rest, agRep := ((s.th g).elem st k).agRep ++ [v] } := by
  rw [State.replied, elem_modAg, oldest]
  rfl

theorem agReply_store (store : r.kind = .store) : exec (.agReply g st k) s = .next s := by
  change execAgReply g st k s = _
  simp only [execAgReply, oldest, store]

section
variable {op : AgOp} {sc : Scope} (atom : r.kind = .atom op sc)
include atom

theorem agReply_performed {w : Word} (old : r.old = some w) : exec (.agReply g st k) s = .next (s.replied g st k (r.reply w r.bad)) := by
  change execAgReply g st k s = _
  simp only [execAgReply, oldest, atom, old]
  rfl

theorem agReply_unperformed (old : r.old = none) : exec (.agReply g st k) s = .next s := by
  change execAgReply g st k s = _
  simp only [execAgReply, oldest, atom, old]

end

variable (free : s.heldSector 512 r.phys = false)
include free

theorem agStorePerformed_load (load : r.kind = .load) : exec (.agStorePerformed g st k) s = .next s := by
  change execAgStorePerformed g st k s = _
  simp only [execAgStorePerformed, oldest, free, load, Bool.false_eq_true, if_false, ne_eq, not_true_eq_false, false_and]

variable (owned : s.agOwned r = true)
include owned

/-- A load replies with what it finds at its place (R213, R270). -/
theorem agReply_load (load : r.kind = .load) : exec (.agReply g st k) s = .next (((s.replied g st k
    (r.reply (BitVec.ofNat 64 (ofBytes (s.view g (r.after (agAgent g st k)) r.phys r.size))) (s.bad r.phys r.size))).hbmRead r.phys r.size).touch r.phys r.size) := by
  change execAgReply g st k s = _
  simp only [execAgReply, oldest, load, free, owned, Bool.false_eq_true, if_false, Bool.true_eq_false]
  rfl

theorem agStorePerformed_store (store : r.kind = .store) : exec (.agStorePerformed g st k) s =
    .next ((s.write r.phys (toBytes r.size r.operand.toNat) r.before_ none (agAgent g st k)).modAg g st k fun e => { e with agOut := rest }) := by
  change execAgStorePerformed g st k s = _
  simp only [execAgStorePerformed, oldest, store, free, owned, Bool.false_eq_true, if_false, Bool.true_eq_false, and_false]

/-- An atomic is performed: it writes its function of what it finds, which it keeps for its reply, and ends no release sequence (R212, R273). -/
theorem agStorePerformed_atom {op : AgOp} {sc : Scope} (atom : r.kind = .atom op sc) (old : r.old = none) : exec (.agStorePerformed g st k) s =
    .next (({ (s.served g r.gaddr r.phys r.size).write r.phys (toBytes r.size (agFn op (8 * r.size) (s.num r.phys r.size) (r.operand.toNat % 2 ^ (8 * r.size)))) r.before_ none (agAgent g st k) with
      rels := s.rels } : State).modAg g st k fun e => { e with agOut := { r with old := some (BitVec.ofNat 64 (s.num r.phys r.size)), bad := s.bad r.phys r.size } :: rest }) := by
  change execAgStorePerformed g st k s = _
  simp only [execAgStorePerformed, oldest, atom, old, free, owned, Bool.false_eq_true, if_false, Bool.true_eq_false, and_false]

end

/-! ## What a request leaves -/

section
variable {s : State} {g st k : Nat} {i : Instr}

/-- A reply changes the element alone. -/
theorem reaches_reply {r : AgReq} {rest : List AgReq} (oldest : ((s.th g).elem st k).agOut = r :: rest) {v : Val} {t : State} (run : exec i s = .next t)
    (glades : t.glades = (s.replied g st k v).glades) (mem : t.mem = s.mem) :
    Reaches i s fun t => t.mem = s.mem ∧ (t.th g).elem st k = { (s.th g).elem st k with agOut := rest, agRep := ((s.th g).elem st k).agRep ++ [v] } :=
  ⟨t, run, mem, by rw [th_of_glades g glades, elem_replied oldest]⟩

/-- A store or an atomic performed writes its bytes and changes the element's requests. -/
theorem reaches_performed {out : List AgReq} {u : State} {a : Nat} {bs : List Byte} (run : exec i s = .next (u.modAg g st k fun e => { e with agOut := out }))
    (mem : u.mem = (s.put a bs).mem) (th : u.th g = s.th g) :
    Reaches i s fun t => t.mem = (s.put a bs).mem ∧ (t.th g).elem st k = { (s.th g).elem st k with agOut := out } :=
  ⟨_, run, mem, by rw [elem_modAg, th]⟩

theorem served_mem (s : State) (g a phys n : Nat) : (s.served g a phys n).mem = s.mem := (served_access s g a phys n).1

end

/-! ## The statement -/

/-- Settles O41: the context cycle as it begins, the landings of results and ferns, and the requests of the AG elements. -/
theorem thicketEvents : Obligations.ThicketEvents := by
  intro s g th row0 runs overdue
  refine ⟨contextCycle_idle, fun cycles late => contextCycle_late cycles ((overdue_iff _).2 late), fun cycles landed none => ?_,
    fun cycles landed some_ held => contextCycle_held cycles (mt (overdue_iff _).1 landed) some_ held, fun cycles landed some_ met => ?_, fun p => mem_issuing, resultLand_next,
    fun stopped => ⟨resultLand_stopped stopped, fernResultLand_stopped stopped⟩, fun goes idle empty => ?_, fun goes empty one => ?_, fun t cnt i ok f one due released => ?_, fun goes => ?_,
    fun st k r rest oldest free owned => ?_⟩
  · exact ⟨_, contextCycle_advances cycles (mt (overdue_iff _).1 landed) none, advance_cnt, advance_elems, rfl, cycles.1⟩
  · refine ⟨_, contextCycle_opens cycles (mt (overdue_iff _).1 landed) some_ met, ?_, _, rfl, rfl, rfl, rfl, rfl, rfl⟩
    exact congrArg (fun c => { s with cyc := c }) cycles.1.symm
  · have plain : th.plain := plain_of_listed empty fun e at_ f flies => by simp [idle e at_] at flies
    have flights : ∀ i, (nget {} th.elems i).flight = [] := nget_all (fun e : Elem => e.flight = []) rfl idle
    refine ⟨_, resultLand_plain goes plain, rfl, ?_, fun st k => ?_, fun st => ?_⟩
    · rw [th_landed, cnt_landElems]
    · rw [th_landed, Thicket.elem, nget, nfind_landElems]
      split_ifs
      · exact landAll_idle (flights _)
      · rfl
    · rw [th_landed, stem_landElems _ plain]
  · have plain : th.plain := plain_of_listed empty fun e at_ f flies => by
      rcases one e at_ with idle | ⟨f', only, res, _⟩
      · simp [idle] at flies
      · rw [only, List.mem_singleton] at flies
        exact flies ▸ res
    refine ⟨_, resultLand_plain goes plain, rfl, ?_, fun i e found => ?_⟩
    · rw [th_landed, cnt_landElems]
    · have at_ := mem_of_nfind found
      have listed : nget {} th.elems i = e := by rw [nget, found]; rfl
      rw [th_landed, nfind_landElems, if_pos (List.mem_map_of_mem (f := Prod.fst) at_), listed]
      rcases one _ at_ with idle | ⟨f, only, _, unheld, last⟩
      · rw [landAll_idle idle, idle]
      · rw [only]
        by_cases due : f.land ≤ th.cnt
        · rw [landAll_takes only (lands_eq_true due fun r rel => by simp [unheld] at rel) last]
          exact (congrArg some (if_pos due)).symm
        · rw [landAll_one only, if_neg (Bool.eq_false_iff.1 (lands_early due))]
          exact (congrArg some (if_neg due)).symm
  · have lands := lands_eq_true due released
    exact ⟨landElem_takes t i one lands, landElem_loses t i one lands⟩
  · exact ⟨_, fernResultLand_lands goes, cnt_fernsLanded, rfl, fun st stem e at_ due => landFernsIn_landed (fern_fernsLanded stem ▸ at_) due⟩
  · intro old at_ reply performs
    refine ⟨fun load => ⟨?_, agStorePerformed_load oldest free load⟩, fun store => ⟨agReply_store oldest store, ?_⟩, fun op sc atom => ⟨fun w done => ?_, fun undone => ⟨agReply_unperformed oldest atom undone, ?_⟩⟩⟩
    · exact reaches_reply oldest (agReply_load oldest free owned load) (hbmRead_glades ..) (hbmRead_access ..).1
    · exact reaches_performed (agStorePerformed_store oldest free owned store) (write_mem ..) (th_write ..)
    · exact reaches_reply oldest (agReply_performed oldest atom done) rfl rfl
    · refine reaches_performed (agStorePerformed_atom oldest free owned atom undone) ?_ ?_
      · exact (write_mem ..).trans (congrArg (memPut · _ _) (served_mem ..))
      · exact (th_write ..).trans (th_served ..)

end Sys2Proof.Machine
end

section
/-! The modular operations of the elements (R92, R209): each word is the exact residue of its modulus, and a butterfly's two results keep the product's residue. -/

namespace Sys2Proof.Machine

/-! ## Residues as integers (R92) -/

section
variable {q : Nat} (a b c : Nat)

theorem maddQ_cast : (maddQ q a b : Int) = (a + b) % q := by rw [maddQ, Int.natCast_emod, Int.natCast_add]

theorem mmulQ_cast : (mmulQ q a b : Int) = a * b % q := by rw [mmulQ, Int.natCast_emod, Int.natCast_mul]

/-- Adding a product's residue is adding the product. -/
theorem maddQ_mmulQ_cast : (maddQ q a (mmulQ q c b) : Int) = (a + c * b) % q := by rw [maddQ_cast, mmulQ_cast, Int.add_emod_emod]

variable (pos : 0 < q)
include pos

/-- The modulus that MSUB adds keeps its difference of residues from falling below 0. -/
theorem msubQ_cast : (msubQ q a b : Int) = (a - b) % q := by
  have below : b % q ≤ a % q + q := (Nat.mod_lt b pos).le.trans (Nat.le_add_left ..)
  rw [msubQ, Int.natCast_emod, Int.natCast_sub below, Int.natCast_add, add_sub_right_comm, Int.add_emod_right, Int.natCast_emod, Int.natCast_emod, Int.sub_emod_emod, Int.emod_sub_emod]

theorem msubQ_mmulQ_cast : (msubQ q a (mmulQ q c b) : Int) = (a - c * b) % q := by rw [msubQ_cast _ _ pos, mmulQ_cast, Int.sub_emod_emod]

theorem mmulQ_msubQ_cast : (mmulQ q (msubQ q a b) c : Int) = (a - b) * c % q := by
  rw [mmulQ_cast, msubQ_cast _ _ pos]
  exact (Int.mod_modEq ..).mul_right _

end

/-- The word of a residue is the word of the integer that it is. -/
theorem word_of_cast {n : Nat} {v : Int} (cast : (n : Int) = v) : (BitVec.ofNat 64 n : Word) = BitVec.ofInt 64 v := by rw [← cast, BitVec.ofInt_natCast]

/-! ## The statement -/

section
variable {i : Instr} {s : State} {lam : Nat} {d : Dest} {reads : List Val} {n k : Nat} {v w : Int}

/-- An operation that delivers a residue gives the integer that it is. -/
theorem gives_of_cast (run : exec i s = .next (s.resultG lam d reads (BitVec.ofNat 64 n))) (cast : (n : Int) = v) : Gives i s lam d reads (BitVec.ofInt 64 v) :=
  run.trans (by rw [word_of_cast cast, State.resultG])

/-- A butterfly that delivers two residues gives the integers that they are, the second one context cycle after the first. -/
theorem gives_twice_of_cast (run : exec i s = .next ((s.resultG 6 d reads (BitVec.ofNat 64 n)).result 7 d (mkG reads (BitVec.ofNat 64 k)))) (first : (n : Int) = v) (second : (k : Int) = w) :
    exec i s = .next (((s.result 6 d (mkG reads (BitVec.ofInt 64 v))).mism (mismG reads)).result 7 d (mkG reads (BitVec.ofInt 64 w))) :=
  run.trans (by rw [word_of_cast first, word_of_cast second, State.resultG])

end

/-- Settles O23: the residue that each operation delivers is, as an integer, the one that R92 names; the positive modulus matters for the differences alone. -/
theorem modularElements : Obligations.ModularElements := by
  intro s d m q a b c x y z twice pos _
  have pos : 0 < s.modulusF m.toNat := Int.natCast_pos.1 pos
  exact ⟨gives_of_cast rfl (mmulQ_cast ..), gives_of_cast rfl (maddQ_cast ..), gives_of_cast rfl (msubQ_cast _ _ pos),
    gives_twice_of_cast rfl (maddQ_mmulQ_cast ..) (msubQ_mmulQ_cast _ _ _ pos), gives_twice_of_cast rfl (maddQ_cast ..) (mmulQ_msubQ_cast _ _ _ pos)⟩

end Sys2Proof.Machine
end

section
/-! The reducers (R108, R215 to R217): a row keeps its leaf; row 15 combines the sixteen leaves in the fixed tree and delivers one word, or two. -/

namespace Sys2Proof.Machine

/-! ## The focused stem and element -/

/-- A listed key that a test of keys passes is found as before. -/
theorem nfind_filter {α : Type} (m : NatMap α) {p : Nat → Bool} {j : Nat} (pass : p j = true) : nfind (m.filter fun e => p e.1) j = nfind m j := by
  rw [nfind, List.find?_filter, nfind]
  refine congrArg (Option.map Prod.snd) (congrArg (List.find? · m) (funext fun e => ?_))
  by_cases own : e.1 = j <;> simp [own, pass]

section
variable (s : State) (n : Nat)

theorem mem_mism : (s.mism n).mem = s.mem := (mism_calm s n).1

theorem th_mism (h : Nat) : (s.mism n).th h = s.th h := by
  unfold State.mism
  split <;> rfl

theorem focus_mism : (s.mism n).focus = s.focus := by
  unfold State.mism
  split <;> rfl

@[simp] theorem stemF_mism : (s.mism n).stemF = s.stemF := by rw [State.stemF, focus_mism, th_mism, State.stemF]

@[simp] theorem elemF_mism : (s.mism n).elemF = s.elemF := by rw [State.elemF, focus_mism, th_mism, State.elemF]

@[simp] theorem cntF_mism : (s.mism n).cntF = s.cntF := by rw [State.cntF, focus_mism, th_mism, State.cntF]

variable (f : Stem → Stem) (f' : Elem → Elem)

theorem th_modStemF : (s.modStemF f).th s.focus.glade = (s.th s.focus.glade).modStem s.focus.stem f := State.th_modTh_self ..

@[simp] theorem stemF_modStemF : (s.modStemF f).stemF = f s.stemF :=
  (congrArg (·.stem s.focus.stem) (th_modStemF s f)).trans ((stem_modStem ..).trans (if_pos rfl))

@[simp] theorem elemF_modStemF : (s.modStemF f).elemF = s.elemF := congrArg (·.elem s.focus.stem s.focus.row) (th_modStemF s f)

@[simp] theorem cntF_modStemF : (s.modStemF f).cntF = s.cntF := (congrArg Thicket.cnt (th_modStemF s f) :)

theorem th_modElemF : (s.modElemF f').th s.focus.glade = (s.th s.focus.glade).modElem s.focus.stem s.focus.row f' := State.th_modTh_self ..

@[simp] theorem stemF_modElemF : (s.modElemF f').stemF = s.stemF := congrArg (·.stem s.focus.stem) (th_modElemF s f')

@[simp] theorem elemF_modElemF : (s.modElemF f').elemF = f' s.elemF :=
  (congrArg (·.elem s.focus.stem s.focus.row) (th_modElemF s f')).trans (nget_nmod_self ..)

@[simp] theorem cntF_modElemF : (s.modElemF f').cntF = s.cntF := (congrArg Thicket.cnt (th_modElemF s f') :)

end

/-! ## Results one context cycle after another (R191, R217) -/

/-- The results of one issue from a latency on, each a context cycle after the one before. -/
def State.results (s : State) (lam : Nat) (d : Dest) : List Val → State
  | [] => s
  | v :: vs => (s.result lam d v).results (lam + 1) d vs

/-- What is in flight of the results of one issue. -/
def State.flights (s : State) (lam : Nat) (d : Dest) (vs : List Val) : List Flight :=
  if d = .dis then [] else vs.mapIdx fun n v => { land := s.cntF + (lam + n), issued := s.cntF, val := v.made, rso := decide (d = .rso) }

section
variable (s : State) (lam : Nat) (d : Dest)

theorem cntF_result (v : Val) : (s.result lam d v).cntF = s.cntF := by cases d <;> simp [State.result]

theorem stemF_result (v : Val) : (s.result lam d v).stemF = s.stemF := by cases d <;> simp [State.result]

theorem flight_result (v : Val) : (s.result lam d v).elemF.flight = s.elemF.flight ++ s.flights lam d [v] := by cases d <;> simp [State.result, State.flights]

theorem flights_cons (v : Val) (vs : List Val) : s.flights lam d (v :: vs) = s.flights lam d [v] ++ s.flights (lam + 1) d vs := by
  unfold State.flights
  split_ifs
  · rfl
  · simp only [List.mapIdx_cons, List.mapIdx_nil, List.singleton_append, Nat.add_right_comm, Nat.add_assoc]

theorem flights_map {α : Type} (f : α → Val) (l : List α) : s.flights lam d (l.map f) =
    if d = .dis then [] else l.mapIdx fun n x => { land := s.cntF + (lam + n), issued := s.cntF, val := (f x).made, rso := decide (d = .rso) } :=
  if_congr Iff.rfl rfl (List.ext_getElem? fun n => by simp [List.getElem?_mapIdx, Function.comp_def])

theorem mem_results (vs : List Val) : (s.results lam d vs).mem = s.mem := by
  induction vs generalizing s lam with
  | nil => rfl
  | cons v vs ih => exact (ih _ _).trans (result_calm ..).1

theorem stemF_results (vs : List Val) : (s.results lam d vs).stemF = s.stemF := by
  induction vs generalizing s lam with
  | nil => rfl
  | cons v vs ih => exact (ih _ _).trans (stemF_result ..)

theorem flight_results (vs : List Val) : (s.results lam d vs).elemF.flight = s.elemF.flight ++ s.flights lam d vs := by
  induction vs generalizing s lam with
  | nil => simp [State.results, State.flights]
  | cons v vs ih =>
    have same : (s.result lam d v).flights (lam + 1) d vs = s.flights (lam + 1) d vs := by simp only [State.flights, cntF_result]
    rw [State.results, ih, flight_result, same, List.append_assoc, ← flights_cons]

end

/-! ## A row's issue (R215) -/

/-- What a reducing operation reads of a contributing row (R215, R216). -/
def RedOp.reads (op : RedOp) (x : RedLeaf) : List Val := if op = .smerge then [x.a, x.b] else [x.a]

/-- The words of a reduction's results. -/
def RedOp.words (op : RedOp) (ls : List RedLeaf) : List Word := (reduceW op ls).1 :: (reduceW op ls).2.toList

/-- The state once the focused row has kept its leaf, and counted the mismatches of what it read. -/
def State.leafKept (s : State) (op : RedOp) (msk : Bool) : State :=
  let x := s.redLeaf msk
  (s.modStemF fun y => { y with leaves := nset (y.leaves.filter fun l => decide (s.countF < l.1 / 16 + 16)) (16 * s.countF + s.focus.row) x }).mism
    (mismG ((if x.present then op.reads x else []) ++ if msk then [s.lineC] else []))

section
variable (s : State) (op : RedOp) (msk : Bool)

theorem mem_leafKept : (s.leafKept op msk).mem = s.mem := mem_mism ..

theorem elemF_leafKept : (s.leafKept op msk).elemF = s.elemF := (elemF_mism ..).trans (elemF_modStemF ..)

theorem cntF_leafKept : (s.leafKept op msk).cntF = s.cntF := (cntF_mism ..).trans (cntF_modStemF ..)

theorem leaves_leafKept : (s.leafKept op msk).stemF.leaves =
    nset (s.stemF.leaves.filter fun l => decide (s.countF < l.1 / 16 + 16)) (16 * s.countF + s.focus.row) (s.redLeaf msk) := by rw [State.leafKept, stemF_mism, stemF_modStemF]

theorem leaf_own : nfind (s.leafKept op msk).stemF.leaves (16 * s.countF + s.focus.row) = some (s.redLeaf msk) := by rw [leaves_leafKept, nfind_nset_self]

variable {s} in
/-- The leaves of the count that the other rows kept stay. -/
theorem leaf_other {j : Nat} (ne : j ≠ s.focus.row) : nfind (s.leafKept op msk).stemF.leaves (16 * s.countF + j) = nfind s.stemF.leaves (16 * s.countF + j) := by
  rw [leaves_leafKept, nfind_nset_ne _ _ fun e => ne (Nat.add_left_cancel e).symm]
  exact nfind_filter (p := fun l => decide (s.countF < l / 16 + 16)) _ (decide_eq_true (by omega))

variable {s}

/-- The sixteen leaves that row 15 finds. -/
theorem leaves_last (row : s.focus.row = 15) :
    ((List.range 16).map fun i => nget ⟨false, {}, {}, false⟩ (s.leafKept op msk).stemF.leaves (16 * s.countF + i)) = s.redLeaves msk := by
  have own : nget ⟨false, {}, {}, false⟩ (s.leafKept op msk).stemF.leaves (16 * s.countF + 15) = s.redLeaf msk := by rw [nget, ← row, leaf_own]; rfl
  rw [List.range_succ, List.map_append, List.map_singleton, own, State.redLeaves]
  refine congrArg (· ++ [s.redLeaf msk]) (List.map_congr_left fun i at_ => ?_)
  rw [nget, leaf_other op msk (row ▸ (List.mem_range.1 at_).ne), nget]

variable (lam : Nat) (d : Dest)

theorem reduce_early (row : s.focus.row ≠ 15) : s.reduce op lam d msk = s.leafKept op msk := if_neg row

theorem reduce_last (row : s.focus.row = 15) : s.reduce op lam d msk = (s.leafKept op msk).results lam d ((op.words (s.redLeaves msk)).map (redVal op (s.redLeaves msk))) := by
  rw [← leaves_last op msk row]
  cases op <;> exact if_pos row

end

/-! ## The fixed tree (R108) -/

theorem length_redLeaves (s : State) (msk : Bool) : (s.redLeaves msk).length = 16 := by simp [State.redLeaves]

/-- A leaf of the tree where the row contributes (R215). -/
def leafAt (ls : List RedLeaf) (i : Nat) : Option RedLeaf := (ls[i]?).bind fun x => if x.present then some x else none

section
variable {α : Type} {ls : List RedLeaf} (len : ls.length = 16)
include len

/-- Combining sixteen leaves pairwise, level by level, is the tree of R108 over them; an absent row's leaf is `e`. -/
theorem tree16_leaves (f : α → α → α) (z e : α) (g : RedLeaf → α) :
    tree16 f z (ls.map fun x => if x.present then g x else e) = treeFrom f (fun i => ((leafAt ls i).map g).getD e) 4 0 := by
  have leaves : (ls.map fun x => if x.present then g x else e) = (List.range 16).map fun i => ((leafAt ls i).map g).getD e :=
    List.ext_getElem (by simp [len]) fun i at_ _ => by
      rw [List.length_map] at at_
      rw [List.getElem_map, List.getElem_map, List.getElem_range, leafAt, List.getElem?_eq_getElem at_, Option.bind_some]
      split_ifs <;> rfl
  rw [leaves]
  rfl

/-- The tree of R108 with the absent rows ignored (R216). -/
theorem tree16_present (f : α → α → α) (g : RedLeaf → α) :
    tree16 (optComb f) none (ls.map fun x => if x.present then some (g x) else none) = treeFrom (optComb f) (fun i => (leafAt ls i).map g) 4 0 :=
  (tree16_leaves len (optComb f) none none fun x => some (g x)).trans (congrArg (treeFrom (optComb f) · 4 0) (funext fun i => by cases leafAt ls i <;> rfl))

end

/-- The sum of the contributing rows modulo 2^64 (R216). -/
theorem sum_present (ls : List RedLeaf) (n : Nat) :
    (BitVec.ofNat 64 (ls.foldl (fun t x => if x.present then t + x.a.data.toNat else t) n) : Word) = ((ls.filter (·.present)).map (·.a.data)).foldl (· + ·) (BitVec.ofNat 64 n) := by
  induction ls generalizing n with
  | nil => rfl
  | cons x ls ih =>
    rw [List.foldl_cons, ih]
    cases h : x.present <;> simp [h, BitVec.ofNat_add]

/-! ## The statement -/

/-- A reducing operation over what its rows contribute. -/
theorem reduces_of_words {i : Instr} {s : State} {op : RedOp} {lam : Nat} {d : Dest} {msk : Bool} {results : List RedLeaf → List Word} (run : exec i s = .next (s.reduce op lam d msk))
    (words : ∀ ls : List RedLeaf, ls.length = 16 → op.words ls = results ls) : Reduces i s msk lam d op.reads results := by
  by_cases row : s.focus.row = 15
  · refine ⟨_, run.trans (congrArg Host.Outcome.next (reduce_last op msk lam d row)), ?_, ?_, fun j ne => ?_, absurd row, fun _ => ?_⟩
    · rw [mem_results, mem_leafKept]
    · rw [stemF_results, leaf_own]
    · rw [stemF_results, leaf_other op msk ne]
    · intro ls val
      rw [flight_results, elemF_leafKept, flights_map, cntF_leafKept, words ls (length_redLeaves s msk)]
      rfl
  · exact ⟨_, run.trans (congrArg Host.Outcome.next (reduce_early op msk lam d row)), mem_leafKept .., leaf_own .., fun j ne => leaf_other op msk ne, fun _ => elemF_leafKept .., fun last => absurd last row⟩

/-- Settles O26: row 15 finds the leaves that the sixteen rows kept (`leaves_last`), and what it delivers over them is the tree of R108, or the sum, over the contributing rows. -/
theorem reducers : Obligations.Reducers := by
  intro s d msk own lanes leaf
  refine ⟨reduces_of_words (op := .fadd) rfl fun ls len => ?_, reduces_of_words (op := .fmax) rfl fun ls len => ?_, fun z => reduces_of_words (op := .iadd) rfl fun ls len => ?_,
    reduces_of_words (op := .argmax) rfl fun ls len => ?_, reduces_of_words (op := .smerge) rfl fun ls len => ?_⟩
  · simp only [RedOp.words, reduceW, tree16_leaves len, Option.toList_none]
    rfl
  · simp only [RedOp.words, reduceW, tree16_present len, Option.toList_none]
    rfl
  · simp only [RedOp.words, reduceW, sum_present, Option.toList_none]
    rfl
  · simp only [RedOp.words, reduceW, tree16_present len, Option.toList_none]
    rfl
  · simp only [RedOp.words, reduceW, tree16_present len, Option.toList_some]
    rfl

end Sys2Proof.Machine
end

section
/-! The fields of a word (R114, R116): a word is a concatenation exactly where its fields are the parts, and the codes of the enumerated fields. -/

namespace Sys2Proof

/-! ## A word and its fields -/

section
variable {w : Nat}

theorem extract_extract (x : BitVec w) {i j k n : Nat} (h : i + j ≤ k) : (x.extractLsb' n k).extractLsb' i j = x.extractLsb' (n + i) j := by
  ext b hb
  have inside : i + b < k := by omega
  simp [inside, Nat.add_assoc]

/-- A word is two parts side by side exactly where its high and low fields are these. -/
theorem eq_append_iff (m n : Nat) (h : m + n = w) {x : BitVec w} {a : BitVec m} {b : BitVec n} :
    x = (a ++ b).cast h ↔ x.extractLsb' n m = a ∧ x.extractLsb' 0 n = b := by
  subst h
  constructor
  · rintro rfl
    simp [BitVec.extractLsb'_append_eq_of_le, BitVec.extractLsb'_append_eq_of_add_le]
  · rintro ⟨rfl, rfl⟩
    simp [BitVec.extractLsb'_append_extractLsb'_eq_extractLsb']

theorem eq_append3_iff (k m n : Nat) (h : k + m + n = w) {x : BitVec w} {a : BitVec k} {b : BitVec m} {c : BitVec n} :
    x = (a ++ b ++ c).cast h ↔ x.extractLsb' (m + n) k = a ∧ x.extractLsb' n m = b ∧ x.extractLsb' 0 n = c := by
  rw [eq_append_iff (k + m) n h, ← BitVec.cast_eq rfl (a ++ b), eq_append_iff k m rfl, extract_extract _ (by omega), extract_extract _ (by omega), and_assoc,
    Nat.add_zero, Nat.add_comm n m]

theorem eq_append4_iff (j k m n : Nat) (h : j + k + m + n = w) {x : BitVec w} {a : BitVec j} {b : BitVec k} {c : BitVec m} {d : BitVec n} :
    x = (a ++ b ++ c ++ d).cast h ↔ x.extractLsb' (k + m + n) j = a ∧ x.extractLsb' (m + n) k = b ∧ x.extractLsb' n m = c ∧ x.extractLsb' 0 n = d := by
  rw [eq_append_iff (j + k + m) n h, ← BitVec.cast_eq rfl (a ++ b ++ c), eq_append3_iff j k m rfl, extract_extract _ (by omega), extract_extract _ (by omega),
    extract_extract _ (by omega), and_assoc, and_assoc, Nat.add_zero, Nat.add_comm n m, Nat.add_comm n (k + m)]

theorem eq_zero_append_iff (m n : Nat) (h : m + n = w) {x : BitVec w} {b : BitVec n} : x = (0#m ++ b).cast h ↔ x.toNat = b.toNat := by
  simp [BitVec.toNat_eq]

theorem extract_one {x : BitVec w} {i : Nat} {b : Bool} : x.extractLsb' i 1 = BitVec.ofBool b ↔ x.getLsbD i = b := by
  constructor
  · intro h
    simpa using congrArg (·.getLsbD 0) h
  · rintro rfl
    ext j hj
    simp [Nat.lt_one_iff.1 hj]

end

/-! ## The codes of the enumerated fields (R114, R116, R119, R384) -/

theorem Slot.ofCode_eq {c : BitVec 2} {x : Slot} : Slot.ofCode c = x ↔ c = x.code := by cases x <;> revert c <;> decide
theorem Space.ofCode_eq_some {c : BitVec 3} {x : Space} : Space.ofCode c = some x ↔ c = x.code := by cases x <;> revert c <;> decide
theorem MemType.ofCode_eq_some {c : BitVec 4} {x : MemType} : MemType.ofCode c = some x ↔ c = x.code := by cases x <;> revert c <;> decide
theorem Width.ofCode_eq_some {c : BitVec 2} {x : Width} : Width.ofCode c = some x ↔ c = x.code := by cases x <;> revert c <;> decide
theorem MemOrder.ofCode_eq_some {c : BitVec 3} {x : MemOrder} : MemOrder.ofCode c = some x ↔ c = x.code := by cases x <;> revert c <;> decide
theorem Scope.ofCode_eq_some {c : BitVec 3} {x : Scope} : Scope.ofCode c = some x ↔ c = x.code := by cases x <;> revert c <;> decide
theorem MinMaxOp.ofCode_eq_some {c : BitVec 3} {x : MinMaxOp} : MinMaxOp.ofCode c = some x ↔ c = x.code := by cases x <;> revert c <;> decide
theorem BitOp.ofCode_eq_some {c : BitVec 3} {x : BitOp} : BitOp.ofCode c = some x ↔ c = x.code := by cases x <;> revert c <;> decide
theorem Peer.ofCode_eq_some {c : BitVec 3} {x : Peer} : Peer.ofCode c = some x ↔ c = x.code := by cases x <;> revert c <;> decide
theorem TlItem.ofCode_eq {c : BitVec 2} {x : TlItem} : TlItem.ofCode c = x ↔ c = x.code := by cases x <;> revert c <;> decide
theorem Dest.ofCode_eq_some {c : BitVec 2} {x : Dest} : Dest.ofCode c = some x ↔ c = x.code := by cases x <;> revert c <;> decide
theorem FRel.ofCode_eq_some {c : BitVec 3} {x : FRel} : FRel.ofCode c = some x ↔ c = x.code := by cases x <;> revert c <;> decide
theorem IRel.ofCode_eq_some {c : BitVec 2} {x : IRel} : IRel.ofCode c = some x ↔ c = x.code := by cases x <;> revert c <;> decide
theorem AgSize.ofCode_eq_some {c : BitVec 2} {x : AgSize} : AgSize.ofCode c = some x ↔ c = x.code := by cases x <;> revert c <;> decide
theorem AgOp.ofCode_eq_some {c : BitVec 3} {x : AgOp} : AgOp.ofCode c = some x ↔ c = x.code := by cases x <;> revert c <;> decide
theorem ElemType.ofCode_eq_some {c : BitVec 3} {x : ElemType} : ElemType.ofCode c.toNat = some x ↔ c = x.code := by cases x <;> revert c <;> decide
theorem IntType.ofCode_eq_some {c : BitVec 3} {x : IntType} : IntType.ofCode c.toNat = some x ↔ c = x.code := by cases x <;> revert c <;> decide

theorem IntType.ofCode_code (x : IntType) : IntType.ofCode x.code.toNat = some x := IntType.ofCode_eq_some.2 rfl
theorem ElemType.ofCode_code (x : ElemType) : ElemType.ofCode x.code.toNat = some x := ElemType.ofCode_eq_some.2 rfl
theorem Dest.ofCode_code (x : Dest) : Dest.ofCode x.code = some x := Dest.ofCode_eq_some.2 rfl
theorem FRel.ofCode_code (x : FRel) : FRel.ofCode x.code = some x := FRel.ofCode_eq_some.2 rfl
theorem IRel.ofCode_code (x : IRel) : IRel.ofCode x.code = some x := IRel.ofCode_eq_some.2 rfl
theorem Space.ofCode_code (x : Space) : Space.ofCode x.code = some x := Space.ofCode_eq_some.2 rfl
theorem Scope.ofCode_code (x : Scope) : Scope.ofCode x.code = some x := Scope.ofCode_eq_some.2 rfl
theorem AgOp.ofCode_code (x : AgOp) : AgOp.ofCode x.code = some x := AgOp.ofCode_eq_some.2 rfl
theorem AgSize.ofCode_code (x : AgSize) : AgSize.ofCode x.code = some x := AgSize.ofCode_eq_some.2 rfl

/-! ## Payload classes (R116): each answers some fields exactly for the payload that they make, within the limits of the class -/

section
variable {p : BitVec 30}

theorem pZ_eq_some {u : Unit} : pZ p = some u ↔ p = 0 := by simp [pZ]

theorem pFn_eq_some {k : Nat} (h : k < 2 ^ 30) {u : Unit} : pFn p k = some u ↔ p = BitVec.ofNat 30 k := by
  simp only [pFn, BitVec.toNat_eq, BitVec.toNat_ofNat, Nat.mod_eq_of_lt h]
  simp

theorem pK_eq_some {x : BitVec 2 × BitVec 16} : pK p = some x ↔ p = 0#12 ++ x.1 ++ x.2 := by
  obtain ⟨lane, imm⟩ := x
  refine .trans ?_ (eq_append3_iff 12 2 16 rfl).symm
  simp [pK]

theorem pF_eq_some {x : BitVec 6 × BitVec 6} : pF p = some x ↔ p = 0#18 ++ x.1 ++ x.2 ∧ x.1.toNat + x.2.toNat + 1 ≤ 64 := by
  obtain ⟨pos, len1⟩ := x
  refine .trans ?_ (and_congr_left' (eq_append3_iff 18 6 6 rfl).symm)
  simp only [pF, Option.ite_none_right_eq_some, Option.some.injEq, Prod.mk.injEq]
  grind

theorem pW_eq_some {x : Width} : pW p = some x ↔ p = 0#28 ++ x.code := by
  refine .trans ?_ (eq_append_iff 28 2 rfl).symm
  simp [pW, Width.ofCode_eq_some]

theorem pC_eq_some {x : Bool × BitVec 4} : pC p = some x ↔ p = 0#25 ++ BitVec.ofBool x.1 ++ x.2 ∧ (x.1 = false ∨ x.2 ≠ 0) := by
  obtain ⟨wr, qi⟩ := x
  refine .trans ?_ (and_congr_left' (eq_append3_iff 25 1 4 rfl).symm)
  simp only [pC, extract_one, Option.ite_none_right_eq_some, Option.some.injEq, Prod.mk.injEq]
  grind

theorem pM_eq_some {m : BitVec 4} : pM p = some m ↔ p = 0#26 ++ m := by
  refine .trans ?_ (eq_append_iff 26 4 rfl).symm
  simp [pM]

theorem pG_eq_some {g : BitVec 6} : pG p = some g ↔ p = 0#24 ++ g := by
  refine .trans ?_ (eq_append_iff 24 6 rfl).symm
  simp [pG]

theorem pG1_eq_some {g : BitVec 6} : pG1 p = some g ↔ p = 0#24 ++ g ∧ g ≠ 0 := by
  refine .trans ?_ (and_congr_left' (eq_append_iff 24 6 rfl).symm)
  simp only [pG1, Option.ite_none_right_eq_some, Option.some.injEq]
  grind

theorem pU0_eq_some {n : BitVec 8} : pU0 p = some n ↔ p = 0#22 ++ n ∧ 1 ≤ n.toNat ∧ n.toNat ≤ 112 := by
  refine .trans ?_ (and_congr_left' (eq_append_iff 22 8 rfl).symm)
  simp only [pU0, Option.ite_none_right_eq_some, Option.some.injEq]
  grind

theorem pU1_eq_some {g : BitVec 6} : pU1 p = some g ↔ p = 1#1 ++ 0#23 ++ g ∧ g ≠ 0 := by
  refine .trans ?_ (and_congr_left' (eq_append3_iff 1 23 6 rfl).symm)
  simp only [pU1, Option.ite_none_right_eq_some, Option.some.injEq, show (1#1 : BitVec 1) = BitVec.ofBool true from rfl, extract_one]
  grind

theorem pP_eq_some {n : BitVec 12} : pP p = some n ↔ p = 0#18 ++ n := by
  refine .trans ?_ (eq_append_iff 18 12 rfl).symm
  simp [pP]

theorem pY_eq_some {n : BitVec 5} : pY p = some n ↔ p = 0#25 ++ n := by
  refine .trans ?_ (eq_append_iff 25 5 rfl).symm
  simp [pY]

theorem pE_eq_some {n : BitVec 8} : pE p = some n ↔ p = 0#22 ++ n := by
  refine .trans ?_ (eq_append_iff 22 8 rfl).symm
  simp [pE]

theorem pS_eq_some {sp : Space} : pS p = some sp ↔ p = 0#4 ++ sp.code ++ 0#23 := by
  refine .trans ?_ (eq_append3_iff 4 3 23 rfl).symm
  simp only [pS, Option.ite_none_right_eq_some, Space.ofCode_eq_some]
  grind

theorem pL_eq_some {x : MemType × Space × BitVec 23} : pL p = some x ↔ p = x.1.code ++ x.2.1.code ++ x.2.2 := by
  obtain ⟨ty, sp, off⟩ := x
  refine .trans ?_ (eq_append3_iff 4 3 23 rfl).symm
  rw [← MemType.ofCode_eq_some, ← Space.ofCode_eq_some, pL]
  split <;> simp_all

theorem pLS_eq_some {x : MemType × Space × BitVec 23} :
    pLS p = some x ↔ p = x.1.code ++ x.2.1.code ++ x.2.2 ∧ ¬(x.1 = .s8 ∨ x.1 = .s16 ∨ x.1 = .s32) := by
  obtain ⟨ty, sp, off⟩ := x
  rw [← pL_eq_some, pLS]
  split <;> grind

theorem pL0_eq_some {x : Space × BitVec 23} : pL0 p = some x ↔ p = 0#4 ++ x.1.code ++ x.2 := by
  obtain ⟨sp, off⟩ := x
  refine .trans ?_ (eq_append3_iff 4 3 23 rfl).symm
  simp [pL0, Space.ofCode_eq_some]

theorem pV_eq_some {x : BitVec 6 × BitVec 4 × Space × BitVec 17} :
    pV p = some x ↔ p = x.1 ++ x.2.1 ++ x.2.2.1.code ++ x.2.2.2 ∧ x.1.toNat + x.2.1.toNat + 1 ≤ 64 := by
  obtain ⟨first, cnt1, sp, off⟩ := x
  refine .trans ?_ (and_congr_left' (eq_append4_iff 6 4 3 17 rfl).symm)
  simp only [pV, Option.ite_none_right_eq_some, Option.map_eq_some_iff, Space.ofCode_eq_some, Prod.mk.injEq]
  grind

/-! ### Class A: order, scope and width -/

theorem pAHdr_eq_some {a : AtomHdr} : pAHdr p = some a ↔ p.extractLsb' 23 7 = a.code := by
  obtain ⟨order, scope, wide⟩ := a
  refine .trans ?_ (eq_append3_iff 3 3 1 rfl).symm
  rw [extract_extract _ (by decide), extract_extract _ (by decide), extract_extract _ (by decide), extract_one, ← MemOrder.ofCode_eq_some, ← Scope.ofCode_eq_some, pAHdr]
  split <;> simp_all

theorem pA_eq_some {a : AtomHdr} : pA p = some a ↔ p = a.code ++ 0#23 := by
  refine .trans ?_ (eq_append_iff 7 23 rfl).symm
  simp only [pA, Option.ite_none_right_eq_some, pAHdr_eq_some]
  grind

theorem pAM_eq_some {x : AtomHdr × MinMaxOp} : pAM p = some x ↔ p = x.1.code ++ x.2.code ++ 0#20 := by
  obtain ⟨a, op⟩ := x
  refine .trans ?_ (eq_append3_iff 7 3 20 rfl).symm
  rw [← pAHdr_eq_some, ← MinMaxOp.ofCode_eq_some, pAM]
  split <;> grind

theorem pAB_eq_some {x : AtomHdr × BitOp} : pAB p = some x ↔ p = x.1.code ++ x.2.code ++ 0#20 := by
  obtain ⟨a, op⟩ := x
  refine .trans ?_ (eq_append3_iff 7 3 20 rfl).symm
  rw [← pAHdr_eq_some, ← BitOp.ofCode_eq_some, pAB]
  split <;> grind

theorem pAC_eq_some {x : AtomHdr × BitVec 6} : pAC p = some x ↔ p = x.1.code ++ 0#17 ++ x.2 := by
  obtain ⟨a, g⟩ := x
  refine .trans ?_ (eq_append3_iff 7 17 6 rfl).symm
  simp only [pAC, Option.ite_none_right_eq_some, Option.map_eq_some_iff, Prod.mk.injEq, pAHdr_eq_some]
  grind

theorem pAF_eq_some {x : MemOrder × Scope} : pAF p = some x ↔ p = x.1.code ++ x.2.code ++ 0#24 := by
  obtain ⟨order, scope⟩ := x
  refine .trans ?_ (eq_append3_iff 3 3 24 rfl).symm
  rw [← MemOrder.ofCode_eq_some, ← Scope.ofCode_eq_some, pAF]
  split <;> grind

/-! ### Class O: flags and peer -/

theorem pOHdr_eq_some {o : OrdHdr} : pOHdr p = some o ↔ p.extractLsb' 24 6 = o.code := by
  obtain ⟨timed, pop, push, peer⟩ := o
  refine .trans ?_ (eq_append4_iff 1 1 1 3 rfl).symm
  rw [extract_extract _ (by decide), extract_extract _ (by decide), extract_extract _ (by decide), extract_extract _ (by decide), extract_one, extract_one, extract_one,
    ← Peer.ofCode_eq_some, pOHdr]
  simp
  grind

theorem pO_eq_some {o : OrdHdr} : pO p = some o ↔ p = o.code ++ 0#24 := by
  refine .trans ?_ (eq_append_iff 6 24 rfl).symm
  simp only [pO, Option.ite_none_right_eq_some, pOHdr_eq_some]
  grind

theorem pOX_eq_some {x : OrdHdr × BitVec 3 × BitVec 4} : pOX p = some x ↔ p = x.1.code ++ 0#1 ++ x.2.1 ++ x.2.2 ++ 0#16 := by
  obtain ⟨o, ux, uy⟩ := x
  refine .trans ?_ (eq_append_iff 14 16 rfl).symm
  refine .trans ?_ (and_congr_left' (eq_append4_iff 6 1 3 4 rfl).symm)
  rw [extract_extract _ (by decide), extract_extract _ (by decide), extract_extract _ (by decide), extract_extract _ (by decide), show 0#1 = BitVec.ofBool false from rfl,
    extract_one]
  simp only [pOX, Option.ite_none_right_eq_some, Option.map_eq_some_iff, Prod.mk.injEq, pOHdr_eq_some]
  grind

theorem pOT_eq_some {o : OrdHdr} : pOT p = some o ↔ p = o.code ++ 0#24 ∧ o.push = true ∧ o.pop = false := by
  rw [← pO_eq_some, pOT]
  split <;> grind

theorem pOS_eq_some {x : OrdHdr × BitVec 8} : pOS p = some x ↔ p = x.1.code ++ 0#16 ++ x.2 := by
  obtain ⟨o, entry⟩ := x
  refine .trans ?_ (eq_append3_iff 6 16 8 rfl).symm
  simp only [pOS, Option.ite_none_right_eq_some, Option.map_eq_some_iff, Prod.mk.injEq, pOHdr_eq_some]
  grind

theorem pOM_eq_some {x : OrdHdr × BitVec 16} : pOM p = some x ↔ p = x.1.code ++ 0#8 ++ x.2 := by
  obtain ⟨o, mode⟩ := x
  refine .trans ?_ (eq_append3_iff 6 8 16 rfl).symm
  simp only [pOM, Option.ite_none_right_eq_some, Option.map_eq_some_iff, Prod.mk.injEq, pOHdr_eq_some]
  grind

theorem pOB_eq_some {x : OrdHdr × Bool} : pOB p = some x ↔ p = x.1.code ++ 0#23 ++ BitVec.ofBool x.2 := by
  obtain ⟨o, b⟩ := x
  refine .trans ?_ (eq_append3_iff 6 23 1 rfl).symm
  simp only [pOB, Option.ite_none_right_eq_some, Option.map_eq_some_iff, Prod.mk.injEq, pOHdr_eq_some, extract_one]
  grind

/-! ### Classes T and P: functions of tables, counters and services -/

theorem pTQ_eq_some {x : QuerySel} : pTQ p = some x ↔ p = 0#28 ++ x.code := by
  refine .trans ?_ (eq_zero_append_iff 28 2 rfl).symm
  cases x <;> simp [pTQ, QuerySel.code] <;> grind

theorem pTR_eq_some {x : RillFn} : pTR p = some x ↔ p = 0#28 ++ x.code := by
  refine .trans ?_ (eq_zero_append_iff 28 2 rfl).symm
  cases x <;> simp [pTR, RillFn.code] <;> grind

theorem pTS_eq_some {x : SlotFn} : pTS p = some x ↔ p = 0#27 ++ x.code := by
  refine .trans ?_ (eq_zero_append_iff 27 3 rfl).symm
  cases x <;> simp [pTS, SlotFn.code] <;> grind

theorem pTC_eq_some {x : CcItem} : pTC p = some x ↔ p = 0#28 ++ x.code := by
  refine .trans ?_ (eq_zero_append_iff 28 2 rfl).symm
  cases x <;> simp [pTC, CcItem.code] <;> grind

theorem pTD_eq_some {x : BitVec 5 × BitVec 2 × BitVec 4} :
    pTD p = some x ↔ p = 0#19 ++ x.2.2 ++ x.2.1 ++ x.1 ∧ x.1 ≠ 0 := by
  obtain ⟨lmin, bmax1, dmax1⟩ := x
  refine .trans ?_ (and_congr_left' (eq_append4_iff 19 4 2 5 rfl).symm)
  simp only [pTD, Option.ite_none_right_eq_some, Option.some.injEq, Prod.mk.injEq]
  grind

theorem pTLI_eq_some {x : Peer × TlItem} : pTLI p = some x ↔ p = 0#25 ++ x.2.code ++ x.1.code := by
  obtain ⟨tl, item⟩ := x
  refine .trans ?_ (eq_append3_iff 25 2 3 rfl).symm
  simp only [pTLI, Option.ite_none_right_eq_some, Option.map_eq_some_iff, Prod.mk.injEq, Peer.ofCode_eq_some, TlItem.ofCode_eq]
  grind

theorem pTL_eq_some {tl : Peer} : pTL p = some tl ↔ p = 0#27 ++ tl.code := by
  refine .trans ?_ (eq_append_iff 27 3 rfl).symm
  simp [pTL, Peer.ofCode_eq_some]

theorem pT2_eq_some {b : BitVec 2} : pT2 p = some b ↔ p = 0#28 ++ b := by
  refine .trans ?_ (eq_append_iff 28 2 rfl).symm
  simp [pT2]

theorem pT1_eq_some {b : Bool} : pT1 p = some b ↔ p = 0#29 ++ BitVec.ofBool b := by
  refine .trans ?_ (eq_append_iff 29 1 rfl).symm
  simp [pT1, extract_one]

theorem pTM_eq_some {m : BitVec 4} : pTM p = some m ↔ p = 0#26 ++ m ∧ m ≠ 0 := by
  refine .trans ?_ (and_congr_left' (eq_append_iff 26 4 rfl).symm)
  simp only [pTM, Option.ite_none_right_eq_some, Option.some.injEq]
  grind

theorem pPH_eq_some {svc : BitVec 12} : pPH p = some svc ↔ p = 0#18 ++ svc ∧ svc ≠ 2 := by
  refine .trans ?_ (and_congr_left' (eq_append_iff 18 12 rfl).symm)
  simp only [pPH, Option.ite_none_right_eq_some, Option.some.injEq]
  grind

theorem pPE_eq_some {u : Unit} : pPE p = some u ↔ p = 0#18 ++ 2#12 := by
  refine .trans ?_ (eq_zero_append_iff 18 12 rfl).symm
  simp [pPE]

end

end Sys2Proof
end

section
/-! Woodward words (R113, R114, R116, R117): the payload decoders answer an instruction exactly for its opcode and payload. -/

namespace Sys2Proof

/-! ## What the payload decoders answer -/

section
variable {op : BitVec 9} {h : Hdr} {p : BitVec 30} {α : Type} {a b : Option Instr} {k : Nat}

/-- Whatever instruction an answer gives has this opcode, header and payload, and meets the limits of R116. -/
def DecodesTo (op : BitVec 9) (h : Hdr) (p : BitVec 30) (a : Option Instr) : Prop :=
  ∀ i, a = some i → wordParts i = some (op, h, p) ∧ payloadOk i = true

theorem DecodesTo.none : DecodesTo op h p none := fun _ e => (Option.some_ne_none _ e.symm).elim

theorem DecodesTo.some {i : Instr} (word : wordParts i = some (op, h, p)) (ok : payloadOk i = true) : DecodesTo op h p (some i) := by
  rintro _ ⟨⟩
  exact ⟨word, ok⟩

theorem DecodesTo.map {r : Option α} {f : α → Instr} {enc : α → BitVec 30} (payload : ∀ x, r = .some x → p = enc x)
    (word : ∀ x, wordParts (f x) = .some (op, h, enc x)) (ok : ∀ x, payloadOk (f x) = true) : DecodesTo op h p (r.map f) := by
  intro i e
  obtain ⟨x, hx, rfl⟩ := Option.map_eq_some_iff.1 e
  exact ⟨payload x hx ▸ word x, ok x⟩

theorem DecodesTo.mapIf {r : Option α} {f : α → Instr} {enc : α → BitVec 30} {limit : α → Prop} (payload : ∀ x, r = .some x → p = enc x ∧ limit x)
    (word : ∀ x, wordParts (f x) = .some (op, h, enc x)) (ok : ∀ x, limit x → payloadOk (f x) = true) : DecodesTo op h p (r.map f) := by
  intro i e
  obtain ⟨x, hx, rfl⟩ := Option.map_eq_some_iff.1 e
  obtain ⟨he, hl⟩ := payload x hx
  exact ⟨he ▸ word x, ok x hl⟩

theorem DecodesTo.or (this : DecodesTo op h p a) (rest : DecodesTo op h p b) : DecodesTo op h p (a <|> b) := by
  intro i e
  cases a with
  | none => exact rest i e
  | some j => exact this i e

/-- One line of a decoder: the opcode `k` and what follows from it, or the lines below. -/
theorem DecodesTo.line (this : DecodesTo (BitVec.ofNat 9 k) h p a) (rest : DecodesTo op h p b) : DecodesTo op h p (if op.toNat = k then a else b) := by
  split
  · next e => rwa [← e, BitVec.ofNat_toNat, BitVec.setWidth_eq] at this
  · exact rest

theorem decodesTo_pZ {f : Unit → Instr} (word : wordParts (f ()) = some (op, h, 0#30)) (ok : payloadOk (f ()) = true) : DecodesTo op h p ((pZ p).map f) :=
  .map (fun _ => pZ_eq_some.1) (fun _ => word) fun _ => ok

theorem decodesTo_pFn {n : Nat} (small : n < 2 ^ 30) {f : Unit → Instr} (word : wordParts (f ()) = some (op, h, BitVec.ofNat 30 n)) (ok : payloadOk (f ()) = true) :
    DecodesTo op h p ((pFn p n).map f) :=
  .map (fun _ => (pFn_eq_some small).1) (fun _ => word) fun _ => ok

theorem decodeInt_sound : DecodesTo op h p (decodeInt op.toNat h p) := by
  unfold decodeInt
  refine .line (decodesTo_pZ rfl rfl) (.line (.some rfl rfl) ?_)
  iterate 24 refine .line (decodesTo_pZ rfl rfl) ?_
  iterate 2 refine .line (.map (fun _ => pW_eq_some.1) (fun _ => rfl) fun _ => rfl) ?_
  iterate 2 refine .line (.mapIf (fun _ => pF_eq_some.1) (fun _ => rfl) fun _ => decide_eq_true) ?_
  refine .line (.some rfl rfl) ?_
  refine .line (.map (fun _ => pK_eq_some.1) (fun _ => rfl) fun _ => rfl) ?_
  refine .line (decodesTo_pZ rfl rfl) ?_
  iterate 9 refine .line (.mapIf (fun _ => pC_eq_some.1) (fun _ => rfl) fun x ok => by simpa [payloadOk] using ok) ?_
  exact .none

theorem decodeCtl_sound : DecodesTo op h p (decodeCtl op.toNat h p) := by
  unfold decodeCtl
  iterate 4 refine .line (.map (fun _ => pM_eq_some.1) (fun _ => rfl) fun _ => rfl) ?_
  refine .line (.map (fun _ => pG_eq_some.1) (fun _ => rfl) fun _ => rfl) ?_
  refine .line (.mapIf (fun _ => pG1_eq_some.1) (fun _ => rfl) fun _ => decide_eq_true) ?_
  refine .line (decodesTo_pZ rfl rfl) ?_
  refine .line (.or (.mapIf (fun _ => pU0_eq_some.1) (fun _ => rfl) fun x ok => by simpa [payloadOk] using ok)
    (.mapIf (fun _ => pU1_eq_some.1) (fun _ => rfl) fun _ => decide_eq_true)) ?_
  refine .line (.map (fun _ => pP_eq_some.1) (fun _ => rfl) fun _ => rfl) ?_
  refine .line (.some rfl rfl) ?_
  refine .line (.some (congrArg (fun p => some (0x051#9, h, p)) ((eq_append_iff 18 12 rfl).2 ⟨rfl, rfl⟩).symm) rfl) ?_
  refine .line (.some rfl rfl) ?_
  iterate 2 refine .line (decodesTo_pZ rfl rfl) ?_
  refine .line (.map (fun _ => pP_eq_some.1) (fun _ => rfl) fun _ => rfl) ?_
  exact .none

theorem decodeMem_sound : DecodesTo op h p (decodeMem op.toNat h p) := by
  unfold decodeMem
  iterate 3 refine .line (.map (fun _ => pS_eq_some.1) (fun _ => rfl) fun _ => rfl) ?_
  refine .line (.map (fun _ => pL0_eq_some.1) (fun _ => rfl) fun _ => rfl) ?_
  refine .line (.map (fun _ => pS_eq_some.1) (fun _ => rfl) fun _ => rfl) ?_
  refine .line (.map (fun _ => pL_eq_some.1) (fun _ => rfl) fun _ => rfl) ?_
  refine .line (.mapIf (fun _ => pLS_eq_some.1) (fun _ => rfl) fun x ok => by simpa [payloadOk, not_or, and_assoc] using ok) ?_
  refine .line (.map (fun _ => pL0_eq_some.1) (fun _ => rfl) fun _ => rfl) ?_
  iterate 2 refine .line (.mapIf (fun _ => pV_eq_some.1) (fun _ => rfl) fun _ => decide_eq_true) ?_
  refine .line (.map (fun _ => pA_eq_some.1) (fun _ => rfl) fun _ => rfl) ?_
  refine .line (.map (fun _ => pAM_eq_some.1) (fun _ => rfl) fun _ => rfl) ?_
  refine .line (.map (fun _ => pAB_eq_some.1) (fun _ => rfl) fun _ => rfl) ?_
  refine .line (.map (fun _ => pA_eq_some.1) (fun _ => rfl) fun _ => rfl) ?_
  refine .line (.map (fun _ => pAC_eq_some.1) (fun _ => rfl) fun _ => rfl) ?_
  refine .line (.map (fun _ => pAF_eq_some.1) (fun _ => rfl) fun _ => rfl) ?_
  exact .none

theorem decodeOrd_sound : DecodesTo op h p (decodeOrd op.toNat h p) := by
  unfold decodeOrd
  refine .line (decodesTo_pZ rfl rfl) ?_
  refine .line (.or (decodesTo_pFn (by decide) rfl rfl) (decodesTo_pFn (by decide) rfl rfl)) ?_
  refine .line (.map (fun _ => pTQ_eq_some.1) (fun _ => rfl) fun _ => rfl) ?_
  iterate 3
    refine .line (.map (fun _ => pO_eq_some.1) (fun _ => rfl) fun _ => rfl) ?_
    refine .line (.map (fun _ => pOX_eq_some.1) (fun _ => rfl) fun _ => rfl) ?_
  iterate 2 refine .line (.map (fun _ => pO_eq_some.1) (fun _ => rfl) fun _ => rfl) ?_
  refine .line (.mapIf (fun _ => pOT_eq_some.1) (fun _ => rfl) fun x ok => by simpa [payloadOk] using ok) ?_
  refine .line (.map (fun _ => pOS_eq_some.1) (fun _ => rfl) fun _ => rfl) ?_
  refine .line (.map (fun _ => pOM_eq_some.1) (fun _ => rfl) fun _ => rfl) ?_
  refine .line (.map (fun _ => pOB_eq_some.1) (fun _ => rfl) fun _ => rfl) ?_
  exact .none

theorem decodeTab_sound : DecodesTo op h p (decodeTab op.toNat h p) := by
  unfold decodeTab
  iterate 4 refine .line (decodesTo_pZ rfl rfl) ?_
  refine .line (.map (fun _ => pTR_eq_some.1) (fun _ => rfl) fun _ => rfl) ?_
  refine .line (decodesTo_pZ rfl rfl) ?_
  iterate 2 refine .line (.or (decodesTo_pFn (by decide) rfl rfl) (decodesTo_pFn (by decide) rfl rfl)) ?_
  iterate 2 refine .line (decodesTo_pZ rfl rfl) ?_
  refine .line (.or (decodesTo_pFn (by decide) rfl rfl) (decodesTo_pFn (by decide) rfl rfl)) ?_
  refine .line (.map (fun _ => pTS_eq_some.1) (fun _ => rfl) fun _ => rfl) ?_
  refine .line (decodesTo_pZ rfl rfl) ?_
  refine .line (.or (decodesTo_pFn (by decide) rfl rfl) (.or (decodesTo_pFn (by decide) rfl rfl) (.or (decodesTo_pFn (by decide) rfl rfl)
    (decodesTo_pFn (by decide) rfl rfl)))) ?_
  exact .none

theorem decodeSeed_sound : DecodesTo op h p (decodeSeed op.toNat h p) := by
  unfold decodeSeed
  iterate 2 refine .line (decodesTo_pZ rfl rfl) ?_
  refine .line (.mapIf (fun _ => pTD_eq_some.1) (fun _ => rfl) fun _ => decide_eq_true) ?_
  iterate 7 refine .line (decodesTo_pZ rfl rfl) ?_
  refine .line (.or (decodesTo_pFn (by decide) rfl rfl) (decodesTo_pFn (by decide) rfl rfl)) ?_
  exact .none

theorem decodeCnt_sound : DecodesTo op h p (decodeCnt op.toNat h p) := by
  unfold decodeCnt
  refine .line (.map (fun _ => pTLI_eq_some.1) (fun _ => rfl) fun _ => rfl) ?_
  iterate 2 refine .line (.map (fun _ => pTL_eq_some.1) (fun _ => rfl) fun _ => rfl) ?_
  refine .line (.map (fun _ => pTC_eq_some.1) (fun _ => rfl) fun _ => rfl) ?_
  refine .line (decodesTo_pZ rfl rfl) ?_
  refine .line (.map (fun _ => pT2_eq_some.1) (fun _ => rfl) fun _ => rfl) ?_
  refine .line (.map (fun _ => pT1_eq_some.1) (fun _ => rfl) fun _ => rfl) ?_
  iterate 2 refine .line (.map (fun _ => pT2_eq_some.1) (fun _ => rfl) fun _ => rfl) ?_
  refine .line (.mapIf (fun _ => pTM_eq_some.1) (fun _ => rfl) fun _ => decide_eq_true) ?_
  iterate 3 refine .line (decodesTo_pZ rfl rfl) ?_
  exact .none

theorem decodeSys_sound : DecodesTo op h p (decodeSys op.toNat h p) := by
  unfold decodeSys
  refine .line (.map (fun _ => pY_eq_some.1) (fun _ => rfl) fun _ => rfl) ?_
  refine .line (decodesTo_pZ rfl rfl) ?_
  iterate 2 refine .line (.map (fun _ => pP_eq_some.1) (fun _ => rfl) fun _ => rfl) ?_
  iterate 2 refine .line (.map (fun _ => pE_eq_some.1) (fun _ => rfl) fun _ => rfl) ?_
  refine .line (.or (.mapIf (fun _ => pPH_eq_some.1) (fun _ => rfl) fun _ => decide_eq_true) (.map (fun _ => pPE_eq_some.1) (fun _ => rfl) fun _ => rfl)) ?_
  refine .line (decodesTo_pZ rfl rfl) ?_
  exact .none

theorem decodePayload_sound : DecodesTo op h p (decodePayload op.toNat h p) := by
  unfold decodePayload
  refine iteInduction (fun _ => decodeInt_sound) fun _ => ?_
  refine iteInduction (fun _ => decodeCtl_sound) fun _ => ?_
  refine iteInduction (fun _ => decodeMem_sound) fun _ => ?_
  refine iteInduction (fun _ => decodeOrd_sound) fun _ => ?_
  refine iteInduction (fun _ => decodeTab_sound) fun _ => ?_
  refine iteInduction (fun _ => decodeSeed_sound) fun _ => ?_
  exact iteInduction (fun _ => decodeCnt_sound) fun _ => decodeSys_sound

end

/-- A payload of NULL g, whose top bit is 1, is none of NULL n (R168). -/
theorem pU0_nullReg (g : BitVec 6) : pU0 (1#1 ++ 0#23 ++ g) = none := by
  refine Option.eq_none_iff_forall_ne_some.2 fun n e => ?_
  obtain ⟨hi, -⟩ := (eq_append_iff 22 8 rfl).1 (pU0_eq_some.1 e).1
  obtain ⟨top, -⟩ := (eq_append3_iff 1 23 6 rfl (x := 1#1 ++ 0#23 ++ g)).1 rfl
  rw [show 23 + 6 = 8 + 21 from rfl, ← extract_extract _ (show 21 + 1 ≤ 22 by decide), hi] at top
  exact absurd top (by decide)

/-- Every instruction within the limits of R116 is what its opcode and payload are decoded to. -/
theorem decodePayload_wordParts {i : Instr} {op : BitVec 9} {h : Hdr} {p : BitVec 30} (word : wordParts i = some (op, h, p)) (ok : payloadOk i = true) :
    decodePayload op.toNat h p = some i := by
  cases i <;> cases word
  case bri off last =>
    obtain ⟨hi, lo⟩ := (eq_append_iff 18 12 rfl (x := off ++ last)).1 rfl
    simp [decodePayload, decodeCtl, hi, lo]
  case nullReg g =>
    change ((pU0 _).map _ <|> (pU1 _).map _) = _
    rw [pU0_nullReg, pU1_eq_some.2 ⟨rfl, of_decide_eq_true ok⟩]
    rfl
  case hwCallEntropy => rfl
  all_goals
    simp_all [decodePayload, decodeInt, decodeCtl, decodeMem, decodeOrd, decodeTab, decodeSeed, decodeCnt, decodeSys, Option.map_eq_some_iff, pZ_eq_some, pFn, pK_eq_some,
      pF_eq_some, pW_eq_some, pC_eq_some, pM_eq_some, pG_eq_some, pG1_eq_some, pU0_eq_some, pP_eq_some, pY_eq_some, pE_eq_some, pS_eq_some,
      pL_eq_some, pLS_eq_some, pL0_eq_some, pV_eq_some, pA_eq_some, pAM_eq_some, pAB_eq_some, pAC_eq_some, pAF_eq_some, pO_eq_some, pOX_eq_some, pOT_eq_some, pOS_eq_some,
      pOM_eq_some, pOB_eq_some, pTQ_eq_some, pTR_eq_some, pTS_eq_some, pTC_eq_some, pTD_eq_some, pTLI_eq_some, pTL_eq_some, pT2_eq_some, pT1_eq_some, pTM_eq_some,
      pPH_eq_some, pPE_eq_some, payloadOk]

end Sys2Proof
end

section
/-! Woodward words (R113, R114): a word decodes to an instruction exactly where it is the word of that instruction, which is well-formed. -/

namespace Sys2Proof

/-! ## The fields of a word -/

theorem decodeTarget_eq_some {t : BitVec 10} {x : Option Target} : decodeTarget t = some x ↔ t = encodeTarget x := by
  cases x with
  | none =>
    simp only [decodeTarget, encodeTarget]
    grind
  | some x =>
    obtain ⟨slot, index⟩ := x
    refine .trans ?_ (eq_append3_iff 1 2 7 rfl).symm
    rw [show 1#1 = BitVec.ofBool true from rfl, extract_one, ← Slot.ofCode_eq]
    simp [decodeTarget]
    grind

theorem eq_assembleWord_iff {w : BitVec 64} {op : BitVec 9} {h : Hdr} {p : BitVec 30} :
    w = assembleWord op h p ↔ w.extractLsb' 55 9 = op ∧ w.extractLsb' 51 4 = h.pred ∧ w.getLsbD 50 = h.sense ∧ w.extractLsb' 40 10 = encodeTarget h.ta
      ∧ w.extractLsb' 30 10 = encodeTarget h.tb ∧ w.extractLsb' 0 30 = p := by
  refine .trans (eq_append4_iff 14 10 10 30 rfl) (.trans (and_congr_left' (eq_append3_iff 9 4 1 rfl)) ?_)
  rw [extract_extract _ (by decide), extract_extract _ (by decide), extract_extract _ (by decide), extract_one, and_assoc, and_assoc]

/-! ## What the opcode, header and payload of an instruction say of it -/

theorem wordParts_hdr (i : Instr) : (wordParts i).map (·.2.1) = i.hdr := by cases i <;> rfl

section
variable {i : Instr} {op : BitVec 9} {h : Hdr} {p : BitVec 30} (word : wordParts i = some (op, h, p))
include word

theorem opAssigned_of_wordParts : opAssigned op.toNat = true := by cases i <;> cases word <;> rfl

theorem eventOk_of_wordParts : eventOk i = true := by cases i <;> cases word <;> rfl

/-- R113 and R164 as the decoder checks them: by the opcode of SEL, not by its constructor. -/
theorem hdrOk_iff_of_wordParts :
    hdrOk i = true ↔ ¬(h.pred = 0 ∧ h.sense = true) ∧ ¬(op.toNat = 0x021 ∧ (h.pred ≠ 0 ∨ h.sense = true)) := by
  cases i <;> cases word
  case sel => simp [hdrOk, Instr.hdr]; grind
  all_goals simp [hdrOk, Instr.hdr, imp_iff_not_or]

end

/-! ## Decoding -/

/-- The checks of R113 in the decoder's order, as one condition. -/
theorem decodeWord_eq_ok_iff_fields {w : BitVec 64} {i : Instr} :
    decodeWord w = .ok i ↔
      opAssigned (wordOpcode w) = true
      ∧ (¬(w.extractLsb' 51 4 = 0 ∧ w.getLsbD 50 = true) ∧ ¬(wordOpcode w = 0x021 ∧ (w.extractLsb' 51 4 ≠ 0 ∨ w.getLsbD 50 = true)))
      ∧ ∃ ta tb, decodeTarget (w.extractLsb' 40 10) = some ta ∧ decodeTarget (w.extractLsb' 30 10) = some tb
        ∧ decodePayload (wordOpcode w) ⟨w.extractLsb' 51 4, w.getLsbD 50, ta, tb⟩ (w.extractLsb' 0 30) = some i := by
  simp only [decodeWord]
  split
  · simp_all
  split
  · simp_all
  split
  · simp_all
  split
  · next ta tb hta htb =>
    split <;> simp_all
  · next no =>
    split <;> simp_all

/-- A word decodes to exactly the well-formed instruction whose word it is (R113, R114). -/
theorem decodeWord_eq_ok_iff {w : BitVec 64} {i : Instr} : decodeWord w = .ok i ↔ wellFormed i = true ∧ encodeWord i = some w := by
  simp only [decodeWord_eq_ok_iff_fields, wellFormed, Bool.and_eq_true, encodeWord, Option.map_eq_some_iff, Prod.exists, decodeTarget_eq_some]
  constructor
  · rintro ⟨-, hdr, ta, tb, hta, htb, payload⟩
    obtain ⟨word, ok⟩ := decodePayload_sound i payload
    exact ⟨⟨⟨(hdrOk_iff_of_wordParts word).2 hdr, ok⟩, eventOk_of_wordParts word⟩, _, _, _, word, (eq_assembleWord_iff.2 ⟨rfl, rfl, rfl, hta, htb, rfl⟩).symm⟩
  · rintro ⟨⟨⟨hdr, ok⟩, -⟩, op, h, p, word, rfl⟩
    obtain ⟨hop, hpred, hsense, hta, htb, hp⟩ := eq_assembleWord_iff.1 (Eq.refl (assembleWord op h p))
    rw [wordOpcode, hop, hpred, hsense, hp]
    exact ⟨opAssigned_of_wordParts word, (hdrOk_iff_of_wordParts word).1 hdr, h.ta, h.tb, hta, htb, decodePayload_wordParts word ok⟩

theorem encodeWord_isSome_iff (i : Instr) : (encodeWord i).isSome = true ↔ i.hdr.isSome = true := by
  rw [← wordParts_hdr, encodeWord, Option.isSome_map, Option.isSome_map]

end Sys2Proof
end

section
/-! Element op words (R119, R127, R128, R198): an op word decodes to an operation exactly where it is the word of that operation, which is well-formed. -/

namespace Sys2Proof

/-! ## The modifier bits of an op word -/

section
variable {w : BitVec 24}

/-- The bits under a mask of `k` ones from bit `n` on are all 0. -/
theorem and_mask_eq_zero_iff {n k : Nat} (h : n + k ≤ 24) : w &&& (BitVec.allOnes k).setWidth 24 <<< n = 0 ↔ w.extractLsb' n k = 0 := by
  simp only [BitVec.eq_of_getLsbD_eq_iff, BitVec.getLsbD_and, BitVec.getLsbD_shiftLeft, BitVec.getLsbD_setWidth, BitVec.getLsbD_allOnes, BitVec.getLsbD_extractLsb']
  constructor
  · intro all i hi
    simpa [hi, show n + i < 24 by omega, show i < 24 by omega] using all (n + i) (by omega)
  · intro all i hi
    by_cases inside : n ≤ i ∧ i - n < k
    · have := all (i - n) inside.2
      simp_all [show n + (i - n) = i by omega]
    · simp only [not_and_or, not_le, not_lt] at inside
      rcases inside with low | high
      · simp [low]
      · simp [show ¬i - n < k by omega]

/-- A modifier of which only the low `n` bits may be 1. -/
theorem imm_low_iff (m n : Nat) (h : m + n = 12) {x : BitVec n} :
    w.extractLsb' 0 12 = (0#m ++ x).cast h ↔ w &&& (BitVec.allOnes m).setWidth 24 <<< n = 0 ∧ w.extractLsb' 0 n = x := by
  rw [eq_append_iff m n h, extract_extract _ (by omega), extract_extract _ (by omega), and_mask_eq_zero_iff (by omega), Nat.zero_add]
  rfl

theorem imm_none_iff : w.extractLsb' 0 12 = 0#12 ↔ w &&& 0x000fff#24 = 0 := (and_mask_eq_zero_iff (n := 0) (k := 12) (by decide)).symm
theorem imm_low1_iff {x : BitVec 1} : w.extractLsb' 0 12 = 0#11 ++ x ↔ w &&& 0x000ffe#24 = 0 ∧ w.extractLsb' 0 1 = x := imm_low_iff 11 1 rfl
theorem imm_low2_iff {x : BitVec 2} : w.extractLsb' 0 12 = 0#10 ++ x ↔ w &&& 0x000ffc#24 = 0 ∧ w.extractLsb' 0 2 = x := imm_low_iff 10 2 rfl
theorem imm_low3_iff {x : BitVec 3} : w.extractLsb' 0 12 = 0#9 ++ x ↔ w &&& 0x000ff8#24 = 0 ∧ w.extractLsb' 0 3 = x := imm_low_iff 9 3 rfl
theorem imm_low4_iff {x : BitVec 4} : w.extractLsb' 0 12 = 0#8 ++ x ↔ w &&& 0x000ff0#24 = 0 ∧ w.extractLsb' 0 4 = x := imm_low_iff 8 4 rfl
theorem imm_low5_iff {x : BitVec 5} : w.extractLsb' 0 12 = 0#7 ++ x ↔ w &&& 0x000fe0#24 = 0 ∧ w.extractLsb' 0 5 = x := imm_low_iff 7 5 rfl
theorem imm_low6_iff {x : BitVec 6} : w.extractLsb' 0 12 = 0#6 ++ x ↔ w &&& 0x000fc0#24 = 0 ∧ w.extractLsb' 0 6 = x := imm_low_iff 6 6 rfl

theorem imm_flag_iff {b : Bool} : w.extractLsb' 0 12 = 0#11 ++ BitVec.ofBool b ↔ w &&& 0x000ffe#24 = 0 ∧ w.getLsbD 0 = b := by rw [imm_low1_iff, extract_one]

theorem imm_flags_iff {b c : Bool} :
    w.extractLsb' 0 12 = 0#10 ++ BitVec.ofBool b ++ BitVec.ofBool c ↔ w &&& 0x000ffc#24 = 0 ∧ w.getLsbD 1 = b ∧ w.getLsbD 0 = c := by
  refine .trans (eq_append3_iff 10 1 1 rfl) ?_
  rw [extract_extract _ (by decide), extract_extract _ (by decide), extract_extract _ (by decide), extract_one, extract_one]
  exact and_congr_left' (and_mask_eq_zero_iff (n := 2) (k := 10) (by decide)).symm

theorem imm_link_iff {l : BitVec 4} {n : BitVec 8} : w.extractLsb' 0 12 = l ++ n ↔ w.extractLsb' 8 4 = l ∧ w.extractLsb' 0 8 = n := by
  refine .trans (eq_append_iff 4 8 rfl) ?_
  rw [extract_extract _ (by decide), extract_extract _ (by decide)]

theorem imm_access_iff {x : BitVec 3} {y : BitVec 2} :
    w.extractLsb' 0 12 = 0#7 ++ x ++ y ↔ w &&& 0x000fe0#24 = 0 ∧ w.extractLsb' 2 3 = x ∧ w.extractLsb' 0 2 = y := by
  refine .trans (eq_append3_iff 7 3 2 rfl) ?_
  rw [extract_extract _ (by decide), extract_extract _ (by decide), extract_extract _ (by decide)]
  exact and_congr_left' (and_mask_eq_zero_iff (n := 5) (k := 7) (by decide)).symm

/-- The mask that AG.ATOM checks names bit 11, which is 0, and bit 1, which is 1. -/
theorem and_atomMask_iff : w &&& 0x000802#24 = 0x2#24 ↔ w.getLsbD 11 = false ∧ w.getLsbD 1 = true := by
  constructor
  · intro h
    exact ⟨by simpa using congrArg (·.getLsbD 11) h, by simpa using congrArg (·.getLsbD 1) h⟩
  · rintro ⟨h11, h1⟩
    refine BitVec.eq_of_getLsbD_eq fun i hi => ?_
    rw [BitVec.getLsbD_and]
    interval_cases i <;> simp_all

theorem imm_atom_iff {sc op sp : BitVec 3} {z : Bool} :
    w.extractLsb' 0 12 = 0#1 ++ sc ++ op ++ sp ++ 1#1 ++ BitVec.ofBool z ↔
      w &&& 0x000802#24 = 0x2#24 ∧ w.extractLsb' 8 3 = sc ∧ w.extractLsb' 5 3 = op ∧ w.extractLsb' 2 3 = sp ∧ w.getLsbD 0 = z := by
  refine .trans (eq_append3_iff 10 1 1 rfl) (.trans (and_congr_left' (eq_append4_iff 1 3 3 3 rfl)) ?_)
  rw [show 0#1 = BitVec.ofBool false from rfl, show 1#1 = BitVec.ofBool true from rfl, and_atomMask_iff]
  iterate 7 rw [extract_extract _ (by decide)]
  rw [extract_one, extract_one, extract_one]
  grind

end

/-! ## What the decoder answers -/

section
variable {o : BitVec 7} {ty : BitVec 3} {d : Dest} {w : BitVec 24} {a b : Except OpReject Instr} {e : OpReject} {k : Nat} {α : Type}

/-- Whatever operation an answer gives has this opcode, type, destination and modifier, and meets the limits of R211 and R218. -/
def OpDecodesTo (o : BitVec 7) (ty : BitVec 3) (d : Dest) (w : BitVec 24) (a : Except OpReject Instr) : Prop :=
  ∀ i, a = .ok i → opParts i = some (o, ty, d.code, w.extractLsb' 0 12) ∧ payloadOk i = true

theorem OpDecodesTo.error : OpDecodesTo o ty d w (.error e) := fun _ e => nomatch e

theorem OpDecodesTo.ok {i : Instr} {imm : BitVec 12} (modifier : w.extractLsb' 0 12 = imm) (word : opParts i = some (o, ty, d.code, imm)) (ok : payloadOk i = true) :
    OpDecodesTo o ty d w (.ok i) := by
  rintro _ ⟨⟩
  exact ⟨modifier ▸ word, ok⟩

theorem OpDecodesTo.line (this : OpDecodesTo (BitVec.ofNat 7 k) ty d w a) (rest : OpDecodesTo o ty d w b) : OpDecodesTo o ty d w (if o.toNat = k then a else b) := by
  split
  · next e => rwa [← e, BitVec.ofNat_toNat, BitVec.setWidth_eq] at this
  · exact rest

theorem OpDecodesTo.ofTy (this : OpDecodesTo o (BitVec.ofNat 3 k) d w a) : OpDecodesTo o ty d w (if ty.toNat = k then a else .error e) := by
  split
  · next e => rwa [← e, BitVec.ofNat_toNat, BitVec.setWidth_eq] at this
  · exact .error

theorem OpDecodesTo.guard {c : Prop} [Decidable c] (this : c → OpDecodesTo o ty d w a) : OpDecodesTo o ty d w (if c then a else .error e) := by
  split
  · next hc => exact this hc
  · exact .error

theorem addTy_eq (h : ty.toNat = 6 ∨ ty.toNat = 7) : 3#2 ++ BitVec.ofBool (decide (ty.toNat = 7)) = ty := by revert ty; decide

theorem addTy_eq_six {z : Bool} : (3#2 ++ BitVec.ofBool z).toNat = 6 ↔ z = false := by cases z <;> decide
theorem addTy_eq_seven {z : Bool} : (3#2 ++ BitVec.ofBool z).toNat = 7 ↔ z = true := by cases z <;> decide

theorem joinTy_eq (h : ty.toNat = 5 ∨ ty.toNat = 7) : 1#1 ++ BitVec.ofBool (decide (ty.toNat = 7)) ++ 1#1 = ty := by revert ty; decide

theorem joinTy_eq_five {z : Bool} : (1#1 ++ BitVec.ofBool z ++ 1#1).toNat = 5 ↔ z = false := by cases z <;> decide
theorem joinTy_eq_seven {z : Bool} : (1#1 ++ BitVec.ofBool z ++ 1#1).toNat = 7 ↔ z = true := by cases z <;> decide

theorem decodeOpFields_sound : OpDecodesTo o ty d w (decodeOpFields o.toNat ty.toNat d w) := by
  unfold decodeOpFields
  -- F operations and conversions
  iterate 7 refine .line (.ofTy (.ok rfl rfl rfl)) ?_
  refine .line (.ofTy (.guard fun hm => .ok (imm_flags_iff.2 ⟨hm, rfl, rfl⟩) rfl rfl)) ?_
  refine .line (.ofTy (.guard fun hm => ?_)) ?_
  · split
    · next r hr => exact .ok (imm_low3_iff.2 ⟨hm, FRel.ofCode_eq_some.1 hr⟩) rfl rfl
    · exact .error
  iterate 4 refine .line (.ofTy (.ok rfl rfl rfl)) ?_
  refine .line (.ofTy (.guard fun hm => .ok (imm_low1_iff.2 ⟨hm, rfl⟩) rfl rfl)) ?_
  refine .line (.ofTy (.guard fun hm => .ok (imm_none_iff.2 hm) rfl rfl)) ?_
  refine .line (.ofTy (.guard fun hm => .ok (imm_low2_iff.2 ⟨hm, rfl⟩) rfl rfl)) ?_
  refine .line (.ofTy (.guard fun hm => .ok (imm_low1_iff.2 ⟨hm, rfl⟩) rfl rfl)) ?_
  refine .line (.ofTy (.guard fun hm => .ok (imm_low2_iff.2 ⟨hm, rfl⟩) rfl rfl)) ?_
  refine .line ?_ ?_
  · split
    · next t ht =>
      obtain rfl := IntType.ofCode_eq_some.1 ht
      exact .guard fun hm => .ok (imm_flag_iff.2 ⟨hm, rfl⟩) rfl rfl
    · exact .error
  -- I operations
  iterate 12
    refine .line ?_ ?_
    · split
      · next t ht =>
        obtain rfl := IntType.ofCode_eq_some.1 ht
        exact .ok rfl rfl rfl
      · exact .error
  refine .line ?_ ?_
  · split
    · next t ht =>
      obtain rfl := IntType.ofCode_eq_some.1 ht
      refine .guard fun hm => ?_
      split
      · next r hr => exact .ok (imm_low2_iff.2 ⟨hm, IRel.ofCode_eq_some.1 hr⟩) rfl rfl
      · exact .error
    · exact .error
  refine .line ?_ ?_
  · split
    · next t ht =>
      obtain rfl := IntType.ofCode_eq_some.1 ht
      exact .ok rfl rfl rfl
    · exact .error
  iterate 5 refine .line (.ofTy (.guard fun hm => .ok (imm_low4_iff.2 ⟨hm, rfl⟩) rfl rfl)) ?_
  iterate 3
    refine .line ?_ ?_
    · split
      · next t ht =>
        obtain rfl := ElemType.ofCode_eq_some.1 ht
        exact .ok rfl rfl rfl
      · exact .error
  refine .line (.ofTy (.ok rfl rfl rfl)) ?_
  refine .line (.ofTy (.guard fun hl => .ok (imm_link_iff.2 ⟨rfl, rfl⟩) rfl (by simpa [payloadOk] using hl))) ?_
  iterate 4
    refine .line (.ofTy (.guard fun hm => ?_)) ?_
    · split
      · next sp hsp =>
        split
        · next z hz => exact .ok (imm_access_iff.2 ⟨hm, Space.ofCode_eq_some.1 hsp, AgSize.ofCode_eq_some.1 hz⟩) rfl rfl
        · exact .error
      · exact .error
  refine .line (.ofTy (.guard fun hm => ?_)) ?_
  · split
    · next sc hsc =>
      split
      · next op hop =>
        split
        · next sp hsp => exact .ok (imm_atom_iff.2 ⟨hm, Scope.ofCode_eq_some.1 hsc, AgOp.ofCode_eq_some.1 hop, Space.ofCode_eq_some.1 hsp, rfl⟩) rfl rfl
        · exact .error
      · exact .error
    · exact .error
  -- reductions, joins, sampling
  iterate 2 refine .line (.ofTy (.guard fun hm => .ok (imm_flag_iff.2 ⟨hm, rfl⟩) rfl rfl)) ?_
  refine .line (.guard fun ht => .guard fun hm => .ok (imm_flag_iff.2 ⟨hm, rfl⟩) (congrArg (fun t => some (_, t, _, _)) (addTy_eq ht)) rfl) ?_
  iterate 2 refine .line (.ofTy (.guard fun hm => .ok (imm_flag_iff.2 ⟨hm, rfl⟩) rfl rfl)) ?_
  iterate 3
    refine .line (.guard fun ht => .guard fun hm => .guard fun hl =>
      .ok (imm_low4_iff.2 ⟨hm, rfl⟩) (congrArg (fun t => some (_, t, _, _)) (joinTy_eq ht)) (decide_eq_true hl)) ?_
  iterate 2 refine .line (.ofTy (.guard fun hm => .ok (imm_low6_iff.2 ⟨hm, rfl⟩) rfl rfl)) ?_
  refine .line (.ofTy (.guard fun hm => .ok (imm_flag_iff.2 ⟨hm, rfl⟩) rfl rfl)) ?_
  refine .line (.ofTy (.guard fun hm => .ok (imm_none_iff.2 hm) rfl rfl)) ?_
  -- fern functions
  iterate 7 refine .line (.ofTy (.ok rfl rfl rfl)) ?_
  -- boundaries, checks, sequences and rills
  refine .line ?_ ?_
  · split
    · next t ht =>
      obtain rfl := ElemType.ofCode_eq_some.1 ht
      exact .guard fun hm => .ok (imm_none_iff.2 hm) rfl rfl
    · exact .error
  refine .line ?_ ?_
  · split
    · next t ht =>
      obtain rfl := ElemType.ofCode_eq_some.1 ht
      exact .guard fun hm => .ok (imm_flag_iff.2 ⟨hm, rfl⟩) rfl rfl
    · exact .error
  refine .line ?_ ?_
  · split
    · next t ht =>
      obtain rfl := ElemType.ofCode_eq_some.1 ht
      exact .guard fun hm => .ok (imm_none_iff.2 hm) rfl rfl
    · exact .error
  iterate 2
    refine .line ?_ ?_
    · split
      · next t ht =>
        obtain rfl := ElemType.ofCode_eq_some.1 ht
        exact .guard fun hm => .ok (imm_low5_iff.2 ⟨hm, rfl⟩) rfl rfl
      · exact .error
  exact .error

end

/-- Every element operation within the limits of R211 and R218, but the pass-through, is what its opcode, type and modifier are decoded to. -/
theorem decodeOpFields_opParts {i : Instr} {o : BitVec 7} {ty : BitVec 3} {dc : BitVec 2} {d : Dest} {w : BitVec 24} {imm : BitVec 12} (dest : Dest.ofCode dc = some d)
    (modifier : w.extractLsb' 0 12 = imm) (word : opParts i = some (o, ty, dc, imm)) (ok : payloadOk i = true) : decodeOpFields o.toNat ty.toNat d w = .ok i := by
  cases i <;> cases word
  case passThru => cases dest
  all_goals rw [Dest.ofCode_code] at dest
  all_goals cases dest
  all_goals
    simp_all [decodeOpFields, IntType.ofCode_code, ElemType.ofCode_code, FRel.ofCode_code, IRel.ofCode_code, Space.ofCode_code, Scope.ofCode_code, AgOp.ofCode_code,
      AgSize.ofCode_code, imm_none_iff, imm_low1_iff, imm_low2_iff, imm_low3_iff, imm_low4_iff, imm_low5_iff, imm_low6_iff, imm_flags_iff, imm_link_iff, imm_access_iff,
      imm_atom_iff, extract_one, payloadOk, addTy_eq_six, addTy_eq_seven, joinTy_eq_five, joinTy_eq_seven]

/-! ## Decoding -/

section
variable {i : Instr} {o : BitVec 7} {ty : BitVec 3} {dc : BitVec 2} {imm : BitVec 12} (word : opParts i = some (o, ty, dc, imm))
include word

theorem hdrOk_of_opParts : hdrOk i = true := by cases i <;> cases word <;> rfl

theorem eventOk_of_opParts : eventOk i = true := by cases i <;> cases word <;> rfl

/-- The destination code 3 is of the pass-through alone (R119). -/
theorem eq_passThru_of_opParts (thru : Dest.ofCode dc = none) : i = .passThru := by
  cases i <;> cases word
  case passThru => rfl
  all_goals simp [Dest.ofCode_code] at thru

end

theorem eq_opWord_iff {w : BitVec 24} {o : BitVec 7} {ty : BitVec 3} {dc : BitVec 2} {imm : BitVec 12} :
    w = o ++ ty ++ dc ++ imm ↔ w.extractLsb' 17 7 = o ∧ w.extractLsb' 14 3 = ty ∧ w.extractLsb' 12 2 = dc ∧ w.extractLsb' 0 12 = imm :=
  eq_append4_iff 7 3 2 12 rfl

/-- An op word decodes to exactly the well-formed element operation whose word it is (R119, R127). -/
theorem decodeOp_eq_ok_iff {w : BitVec 24} {i : Instr} : decodeOp w = .ok i ↔ wellFormed i = true ∧ encodeOp i = some w := by
  simp only [decodeOp, wellFormed, Bool.and_eq_true, encodeOp, Option.map_eq_some_iff, Prod.exists]
  constructor
  · intro e
    split at e
    · next d hd =>
      obtain ⟨word, ok⟩ := decodeOpFields_sound i e
      exact ⟨⟨⟨hdrOk_of_opParts word, ok⟩, eventOk_of_opParts word⟩, _, _, _, _, word, (eq_opWord_iff.2 ⟨rfl, rfl, Dest.ofCode_eq_some.1 hd, rfl⟩).symm⟩
    · split at e
      · next hw =>
        cases e
        exact ⟨⟨⟨rfl, rfl⟩, rfl⟩, _, _, _, _, rfl, hw.symm⟩
      · cases e
  · rintro ⟨⟨⟨-, ok⟩, -⟩, o, ty, dc, imm, word, rfl⟩
    obtain ⟨ho, hty, hd, himm⟩ := eq_opWord_iff.1 (Eq.refl (o ++ ty ++ dc ++ imm))
    rw [ho, hty, hd]
    cases dest : Dest.ofCode dc with
    | some d => exact decodeOpFields_opParts dest himm word ok
    | none =>
      obtain rfl := eq_passThru_of_opParts word dest
      cases word
      rfl

/-! ## The statements -/

/-- Settles O59: a word decodes to exactly the well-formed instruction, or element operation, whose word it is (`decodeWord_eq_ok_iff`, `decodeOp_eq_ok_iff`). -/
theorem decodeEncode : Obligations.DecodeEncode :=
  ⟨fun _ _ wf word => decodeWord_eq_ok_iff.2 ⟨wf, word⟩, fun _ _ wf word => decodeOp_eq_ok_iff.2 ⟨wf, word⟩, fun _ _ => decodeWord_eq_ok_iff.1, fun _ _ => decodeOp_eq_ok_iff.1,
    encodeWord_isSome_iff⟩

/-- Settles O60: each word is decoded by its fields, or refused by the first check it fails. -/
theorem wordsDecode : Obligations.WordsDecode := by
  unfold Obligations.WordsDecode
  and_intros <;> rfl

end Sys2Proof
end

section
/-! The value instructions (R117, R163 to R165, R167 to R169, R176, R178, R179): what the instructions without an operand, SEL and the compares deliver. -/

namespace Sys2Proof.Machine

section
variable {s : State} {h : Hdr} {x : Fx}

theorem alu0_delivers (issues : s.fx h false false = some x) (fits : x.fits h 0) (f : Woodward → Word) :
    alu0 h s f = .next (s.executed x h (f (s.ww x.g)) 0 id) := by
  rw [alu0, issues]
  exact finish_fits s x h _ 0 id fits .id

theorem reg_eq (w : Woodward) (g : BitVec 6) : w.reg g.toNat = if g = 0 then 0 else nget 0 w.g g.toNat := by
  simp [Woodward.reg, BitVec.toNat_eq]

theorem tskQuery_delivers (fits : x.fits h 0) {sel : QuerySel} {v : Word} (value : execTskQuery h sel s = s.finish x h v 0 id) :
    Delivers (.tskQuery h sel) s x h v := value.trans (finish_fits s x h v 0 id fits .id)

theorem valuesWithoutOperand : Parts.ValuesWithoutOperand := by
  intro s h x issues
  refine ⟨fun fits => ?_, fun n fits => ?_⟩
  · have delivers := alu0_delivers issues fits
    have register (g : BitVec 6) : Delivers (.rdg h g) s x h (if g = 0 then 0 else nget 0 (s.ww x.g).g g.toNat) := by
      rw [← reg_eq]
      exact delivers fun w => w.reg g.toNat
    exact ⟨fun imm => delivers fun _ => immI imm, register, delivers fun _ => aperq .loc, delivers fun _ => aperq .shr, delivers fun _ => aperq .clu,
      delivers fun _ => aperq .gl, delivers fun _ => aperq .gen, tskQuery_delivers fits (by rw [execTskQuery, issues]),
      tskQuery_delivers fits (by rw [execTskQuery, issues]), tskQuery_delivers fits (by rw [execTskQuery, issues]), delivers fun _ => 0,
      fun _ => delivers fun _ => 0⟩
  · change execNullEffect h n s = _
    rw [execNullEffect, issues]
    exact finish_fits s x h 0 n.toNat id fits .id

/-! ## SEL (R164) -/

/-- SEL issues as soon as its selector is known: it is gated by the selector's own value (R115, R164). -/
theorem fxSel_eq {b : Block} {q : Bool} {l r : Word} (block : s.block s.focus.glade = some b) (frontier : b.atomic = true → s.frontier s.focus.glade = true)
    (fresh : s.focus.idx ∉ b.done) (tokens : b.named .o s.focus.idx ≤ nget 0 b.toks s.focus.idx) (left : nfind b.opL s.focus.idx = some l)
    (right : nfind b.opR s.focus.idx = some r) (selector : b.predicate s.focus.idx h.pred = some q) :
    s.fxSel h = some (⟨s.focus.glade, s.focus.idx, b, l, r⟩, q) := by
  have may : (b.atomic && !s.frontier s.focus.glade) = false := by
    cases a : b.atomic
    · rfl
    · simp [frontier a]
  have issue : b.issue s.focus.idx h.pred (!q) true true = some (l, r) := by
    simp [Block.issue, fresh, selector, tokens.not_gt, left, right]
  simp [State.fxSel, State.fx, block, selector, may, issue]

theorem selChooses : Parts.SelChooses := by
  intro s h b l r block frontier fresh tokens left right fits
  have chooses {q : Bool} (selector : b.predicate s.focus.idx h.pred = some q) :
      Delivers (.sel h) s ⟨s.focus.glade, s.focus.idx, b, l, r⟩ h (if q then l else r) := by
    change execSel h s = _
    rw [execSel, fxSel_eq block frontier fresh tokens left right selector]
    exact finish_fits s _ h _ 0 id fits .id
  refine ⟨fun q named produced => chooses ?_, fun unnamed pred true_ => ?_⟩
  · rw [Block.predicate, if_neg produced, named]
    rfl
  · refine chooses (q := true) ?_
    rw [Block.predicate, if_pos unnamed, pred]
    exact congrArg some true_

/-! ## Compares (R165) -/

theorem keepsSlots_writePredicate (wr : Bool) (q : Nat) (v : Bool) : KeepsSlots fun b => if wr then { b with qw := nset b.qw q v } else b := by
  intro b
  cases wr <;> exact ⟨rfl, rfl, rfl, rfl, rfl⟩

theorem compare_completes (issues : s.fx h true true = some x) (fits : x.fits h 0) {wr : Bool} {q : BitVec 4} (first : wr = true → nfind x.b.qw q.toNat = none)
    (f : Word → Word → Bool) {p : Prop} [Decidable p] (bit : f x.l x.r = decide p) :
    compare h wr q s f = .next (s.executed x h (if p then 1 else 0) 0 fun b => if wr = true then { b with qw := nset b.qw q.toNat (decide p) } else b) := by
  have free : ¬(wr = true ∧ (nfind x.b.qw q.toNat).isSome = true) := fun ⟨writes, taken⟩ => by simp [first writes] at taken
  have value : b2w (decide p) = if p then 1 else 0 := by simp [b2w]
  rw [compare, issues]
  simp only [bit]
  rw [if_neg free, value]
  exact finish_fits s x h _ 0 _ fits (keepsSlots_writePredicate wr q.toNat _)

theorem compareResults : Parts.CompareResults := by
  intro s h x wr q issues fits first
  have completes := @compare_completes s h x issues fits wr q first
  exact ⟨completes cmpEqB rfl, completes cmpNeB rfl, completes cmpLtSB rfl, completes cmpLtZB rfl, completes cmpLeSB rfl, completes cmpLeZB rfl, completes testB rfl,
    completes qandB (by simp [qandB]), completes qorB (by simp [qorB])⟩

end

/-- Settles O2: each of these instructions issues with its operands and completes where its targets are free (`alu0_delivers`, `fxSel_eq`, `compare_completes`). -/
theorem valueResults : Obligations.ValueResults := ⟨valuesWithoutOperand, selChooses, compareResults⟩

end Sys2Proof.Machine
end

section
/-! The frame of the value instructions (R112, R114, R115): each leaves the state as it is, changes the block of its glade alone, or faults that block. -/

namespace Sys2Proof.Machine

/-! ## The state with one block changed -/

theorem sameButBlock_refl (s : State) (g : Nat) : SameButBlock s s g := ⟨rfl, fun _ => rfl, fun _ => (ite_self _).symm⟩

theorem sameButBlock_withBlock (s : State) (g : Nat) (b : Block) : SameButBlock s (s.withBlock g b) g := by
  refine ⟨rfl, fun _ => rfl, fun h => ?_⟩
  rw [State.block, State.withBlock, State.ww_modWw, State.modWw, State.modBough, State.glade_modGlade]
  split
  · next e => subst e; rfl
  · rfl

/-! ## What a value instruction can end in -/

/-- Whatever state an outcome leads to differs in the block of the focused glade alone, or is that block's fault. -/
def OnlyBlock (s : State) (o : Outcome) : Prop := ∀ t, o = .next t → SameButBlock s t s.focus.glade ∨ ∃ c v, t = s.blockFault s.focus.glade c v

section
variable {s : State} {h : Hdr} {x : Fx} {nl nr : Bool}

theorem OnlyBlock.stay : OnlyBlock s (.next s) := by
  rintro _ ⟨⟩
  exact .inl (sameButBlock_refl s _)

theorem OnlyBlock.finish {h' : Hdr} (issues : s.fx h nl nr = some x) {v : Word} {eff : Nat} {f : Block → Block} : OnlyBlock s (s.finish x h' v eff f) := by
  intro t e
  obtain ⟨glade, -⟩ := fx_focus s h nl nr x issues
  rcases finish_cases s x h' v eff f with ⟨b, done⟩ | ⟨c, n, faults⟩
  · cases done.symm.trans e
    exact .inl (glade ▸ sameButBlock_withBlock s x.g b)
  · cases faults.symm.trans e
    exact .inr ⟨c, n, glade ▸ rfl⟩

theorem OnlyBlock.stop (issues : s.fx h nl nr = some x) {c v : Nat} : OnlyBlock s (s.stop x c v) := by
  rintro _ ⟨⟩
  obtain ⟨glade, -⟩ := fx_focus s h nl nr x issues
  exact .inr ⟨c, v, glade ▸ rfl⟩

theorem alu2_onlyBlock {f : Word → Word → Word} : OnlyBlock s (alu2 h s f) := by
  rcases alu2_cases h s f with ⟨-, e⟩ | ⟨x, issues, e⟩ <;> rw [e]
  · exact .stay
  · exact .finish issues

theorem alu1_onlyBlock {f : Word → Word} : OnlyBlock s (alu1 h s f) := by
  rcases alu1_cases h s f with ⟨-, e⟩ | ⟨x, issues, e⟩ <;> rw [e]
  · exact .stay
  · exact .finish issues

theorem alu0_onlyBlock {f : Woodward → Word} : OnlyBlock s (alu0 h s f) := by
  rcases alu0_cases h s f with ⟨-, e⟩ | ⟨x, issues, e⟩ <;> rw [e]
  · exact .stay
  · exact .finish issues

theorem fxSel_issues {q : Bool} (issues : s.fxSel h = some (x, q)) : s.fx { h with sense := !q } true true = some x := by
  unfold State.fxSel at issues
  split at issues
  · cases issues
  · split at issues
    · cases issues
    · obtain ⟨y, hy, e⟩ := Option.map_eq_some_iff.1 issues
      cases e
      exact hy

theorem sel_onlyBlock : OnlyBlock s (execSel h s) := by
  unfold execSel
  split
  · exact .stay
  · next issues => exact .finish (fxSel_issues issues)

theorem compare_onlyBlock {wr : Bool} {q : BitVec 4} {f : Word → Word → Bool} : OnlyBlock s (compare h wr q s f) := by
  unfold compare
  split
  · exact .stay
  · next issues => exact iteInduction (fun _ => .stop issues) fun _ => .finish issues

theorem modular_onlyBlock {m : BitVec 4} {f : Word → Word → Int} : OnlyBlock s (modular h m nr s f) := by
  unfold modular
  split
  · exact .stay
  · next issues =>
    split
    · exact .stop issues
    · exact .finish issues

theorem resolveReg_onlyBlock (issues : s.fx h nl nr = some x) {g : Nat} {v : Option Word} : OnlyBlock s (resolveReg h g x v s) :=
  iteInduction (fun _ => .stop issues) fun _ => iteInduction (fun _ => .stop issues) fun _ => .finish issues

theorem wrg_onlyBlock {g : BitVec 6} : OnlyBlock s (execWrg h g s) := by
  unfold execWrg
  split
  · exact .stay
  · next issues => exact resolveReg_onlyBlock issues

theorem nullReg_onlyBlock {g : BitVec 6} : OnlyBlock s (execNullReg h g s) := by
  unfold execNullReg
  split
  · exact .stay
  · next issues => exact resolveReg_onlyBlock issues

theorem nullEffect_onlyBlock {n : BitVec 8} : OnlyBlock s (execNullEffect h n s) := by
  unfold execNullEffect
  split
  · exact .stay
  · next issues => exact .finish issues

theorem tskQuery_onlyBlock {sel : QuerySel} : OnlyBlock s (execTskQuery h sel s) := by
  unfold execTskQuery
  split
  · exact .stay
  · next issues => exact .finish issues

end

/-- Settles O57: an instruction that issues finishes or stops, and both end in the block of its glade (`finish_cases`, `fx_focus`). -/
theorem valueInstructionFrame : Obligations.ValueInstructionFrame := by
  intro h imm w pos len1 g lane k q m wr sp off sel n num
  have two {s : State} {f : Word → Word → Word} : OnlyBlock s (alu2 h s f) := alu2_onlyBlock
  have one {s : State} {f : Word → Word} : OnlyBlock s (alu1 h s f) := alu1_onlyBlock
  have zero {s : State} {f : Woodward → Word} : OnlyBlock s (alu0 h s f) := alu0_onlyBlock
  have bit {s : State} {f : Word → Word → Bool} : OnlyBlock s (compare h wr q s f) := compare_onlyBlock
  have mod {s : State} {nr : Bool} {f : Word → Word → Int} : OnlyBlock s (modular h m nr s f) := modular_onlyBlock
  simp only [List.forall_mem_cons]
  exact ⟨fun _ => two, fun _ => one (f := fun l => l + immI imm), fun _ => two, fun _ => two, fun _ => two, fun _ => two, fun _ => two, fun _ => two, fun _ => two,
    fun _ => two, fun _ => two, fun _ => two, fun _ => two, fun _ => two (f := fun l r => l &&& ~~~r), fun _ => one, fun _ => two, fun _ => two, fun _ => two,
    fun _ => two, fun _ => one, fun _ => one, fun _ => one, fun _ => two, fun _ => two, fun _ => two, fun _ => two, fun _ => one, fun _ => one, fun _ => one,
    fun _ => two, fun _ => zero (f := fun _ => immI imm), fun _ => one, fun _ => sel_onlyBlock, fun _ => bit, fun _ => bit, fun _ => bit, fun _ => bit, fun _ => bit,
    fun _ => bit, fun _ => bit, fun _ => bit, fun _ => bit, fun _ => mod (nr := true) (f := fun l r => (l.toNat : Int) + r.toNat),
    fun _ => mod (nr := true) (f := fun l r => (l.toNat : Int) - r.toNat), fun _ => mod (nr := true) (f := fun l r => (l.toNat : Int) * r.toNat),
    fun _ => mod (nr := false) (f := fun l _ => (l.toNat : Int)), fun _ => zero (f := fun w => w.reg g.toNat), fun _ => wrg_onlyBlock, fun _ => one,
    fun _ => nullEffect_onlyBlock, fun _ => nullReg_onlyBlock, fun _ => zero (f := fun _ => 0), fun _ => one, fun _ => one, fun _ => one, fun _ => one,
    fun _ => zero (f := fun _ => aperq sp), fun _ => tskQuery_onlyBlock, fun _ none => nomatch none⟩

end Sys2Proof.Machine
end

section
/-! Motes reach their sinks (R129, R192, R327, R329, R340, R450, R456, R469): where each kind of sink puts a mote. -/

namespace Sys2Proof.Machine

/-! ## Fields of a routing word -/

theorem bits_eq_field (n hi lo : Nat) : bits n hi lo = field n lo (hi + 1 - lo) := congrArg (· % _) (Nat.shiftRight_eq_div_pow n lo)

/-! ## Two changes that agree on what they change are the same change -/

theorem modBough_congr {s : State} {g : Nat} {f f' : Bough → Bough} (h : f (s.bough g) = f' (s.bough g)) : s.modBough g f = s.modBough g f' :=
  congrArg (fun b : Bough => { s with glades := nset s.glades g { s.glade g with cur := b } }) h

theorem modEng_congr {s : State} {g : Nat} {f f' : Engines → Engines} (h : f (s.eng g) = f' (s.eng g)) : s.modEng g f = s.modEng g f' :=
  modBough_congr (congrArg (fun e : Engines => { s.bough g with eng := e }) h)

theorem modStrm_congr {b : Bough} {st : Nat} {f f' : Port → Port} (h : f (b.port st 5) = f' (b.port st 5)) : b.modPort st 5 f = b.modPort st 5 f' :=
  congrArg (fun p : Port => { b with th := { b.th with stems := nset b.th.stems st { b.th.stem st with strm := p } } }) h

theorem modOstream_congr {e : Engines} {c : Nat} {f f' : OutStream → OutStream} (h : f (e.ostream c) = f' (e.ostream c)) : e.modOstream c f = e.modOstream c f' := by
  unfold Engines.ostream at h
  unfold Engines.modOstream
  split
  · next port =>
    rw [if_pos port] at h
    exact congrArg (fun o : OutStream => { e with souts := nset e.souts c o }) h
  · next rill =>
    rw [if_neg rill] at h
    exact congrArg (fun o : OutStream => { e with rills := nset e.rills (c - 16) { e.rill (c - 16) with ostream := o } }) h

/-! ## A port takes a mote (R189, R192) -/

theorem put_le_close (n : Nat) (p : Port) : p.put ≤ (p.close n).put := by
  induction n generalizing p with
  | zero => exact Nat.le_refl _
  | succ n ih =>
    rw [Port.close]
    split
    · exact Nat.le_refl _
    · exact (Nat.le_succ _).trans (ih (p.push (Val.idle 0 false)))

/-- Idle values close a vector behind the values put. -/
theorem nfind_close {k : Nat} (n : Nat) (p : Port) (before_ : k < p.put) : nfind (p.close n).vals k = nfind p.vals k := by
  induction n generalizing p with
  | zero => rfl
  | succ n ih =>
    rw [Port.close]
    split
    · rfl
    · exact (ih _ (Nat.lt_succ_of_lt before_)).trans (nfind_nset_ne _ _ before_.ne')

theorem put_lt_accept (p : Port) (m : Mote) : p.put + 1 ≤ (p.accept m).put := by
  unfold Port.accept
  dsimp only
  split
  · exact put_le_close 15 (p.push m.val)
  · exact Nat.le_refl _

theorem nfind_accept (p : Port) (m : Mote) : nfind (p.accept m).vals p.put = some m.val := by
  have pushed : nfind (p.push m.val).vals p.put = some m.val := nfind_nset_self ..
  unfold Port.accept
  dsimp only
  split
  · exact (nfind_close 15 _ (Nat.lt_succ_self _)).trans pushed
  · exact pushed

/-! ## The sinks -/

section
variable (s : State) (g w : Nat) (m : Mote) (n tl op c : Nat) (before_ : List Point)

/-- A sink by the fields of its routing word (R192, R327). -/
theorem sink_eq : s.sink g w m n tl op c before_ =
    let d := field w 51 9
    let off := field w 0 20 + 8 * n
    if field w 60 3 = 0 then s.modBough d fun b => b.modPort (field w 38 4) 5 fun p => p.accept m
    else if field w 60 3 = 1 then s.modBough d fun b => b.modPort (field w 38 4) 6 fun p => p.push { m.val with port := false }
    else if field w 60 3 = 2 then s.modBough d fun b => b.modPort (field w 38 4) 9 fun p => p.accept m
    else if field w 60 3 = 3 then
      if 2 ^ 20 < off + 8 then s.entryFault g tl op 0x041 (0xFF00000000000000 + off)
      else if (s.eng d).zoneHit off 8 then s.entryFault g tl op 0x045 (0xFF00000000000000 + off)
      else s.write (burrowAt d (s.glade d).active + off) (toBytes 8 m.data.toNat) before_
    else if field w 60 3 = 4 then (s.countRill d (field w 38 5) 8 m.err).feedRill d (field w 38 5) m
    else if field w 43 8 = s.self then s.landMote d (field w 38 4) ⟨s.self, g, field w 24 5⟩ m before_
    else match s.linkTo (field w 43 8) with
      | some l =>
        let t := (s.noteSent g (field w 43 8)).sendFlit l 1 (toBytes 2 g ++ toBytes 1 (field w 24 5) ++ toBytes 1 (field w 38 4) ++ [0xFF, 0] ++ toBytes 2 8 ++ toBytes 4 m.side
          ++ List.replicate 16 0 ++ toBytes 8 m.data.toNat ++ List.replicate 192 0)
        t.modEng g fun e => { e with away := e.away ++ [(l, (t.link l).lastSeq, c)] }
      | none => s := by
  simp only [State.sink, bits_eq_field, spBase] <;> rfl

variable {s g w m n tl op c before_}

theorem sink_port (kind : field w 60 3 = 0) : s.sink g w m n tl op c before_ =
    s.modBough (field w 51 9) fun b => b.modPort (field w 38 4) 5 fun _ => ((s.bough (field w 51 9)).port (field w 38 4) 5).accept m := by
  rw [sink_eq]
  dsimp only
  rw [if_pos kind]
  exact modBough_congr (modStrm_congr rfl)

theorem sink_space (kind : field w 60 3 = 3) : s.sink g w m n tl op c before_ =
    let off := field w 0 20 + 8 * n
    if 2 ^ 20 < off + 8 then s.entryFault g tl op 0x041 (0xFF00000000000000 + off)
    else if (s.eng (field w 51 9)).zoneHit off 8 then s.entryFault g tl op 0x045 (0xFF00000000000000 + off)
    else s.write (burrowAt (field w 51 9) (s.glade (field w 51 9)).active + off) (toBytes 8 m.data.toNat) before_ := by
  rw [sink_eq]
  dsimp only
  rw [if_neg (by omega), if_neg (by omega), if_neg (by omega), if_pos kind]

theorem sink_burrow (kind : field w 60 3 = 3) (inside : field w 0 20 + 8 * n + 8 ≤ 2 ^ 20) (free : (s.eng (field w 51 9)).zoneHit (field w 0 20 + 8 * n) 8 = false) :
    s.sink g w m n tl op c before_ =
      s.write (burrowAt (field w 51 9) (s.glade (field w 51 9)).active + (field w 0 20 + 8 * n)) (toBytes 8 m.data.toNat) before_ := by
  rw [sink_space kind]
  dsimp only
  rw [if_neg inside.not_gt, if_neg (ne_true_of_eq_false free)]

theorem sink_outside (kind : field w 60 3 = 3) (outside : 2 ^ 20 < field w 0 20 + 8 * n + 8) :
    s.sink g w m n tl op c before_ = s.entryFault g tl op 0x041 (0xFF00000000000000 + (field w 0 20 + 8 * n)) := by
  rw [sink_space kind]
  dsimp only
  rw [if_pos outside]

theorem sink_rill (kind : field w 60 3 = 4) :
    s.sink g w m n tl op c before_ = (s.countRill (field w 51 9) (field w 38 5) 8 m.err).feedRill (field w 51 9) (field w 38 5) m := by
  rw [sink_eq]
  dsimp only
  rw [if_neg (by omega), if_neg (by omega), if_neg (by omega), if_neg (by omega), if_pos kind]

/-- A sink of the kind ZONE. -/
theorem sink_slot (kind : field w 60 3 = 5) : s.sink g w m n tl op c before_ =
    if field w 43 8 = s.self then s.landMote (field w 51 9) (field w 38 4) ⟨s.self, g, field w 24 5⟩ m before_
    else match s.linkTo (field w 43 8) with
      | some l =>
        let t := (s.noteSent g (field w 43 8)).sendFlit l 1 (toBytes 2 g ++ toBytes 1 (field w 24 5) ++ toBytes 1 (field w 38 4) ++ [0xFF, 0] ++ toBytes 2 8 ++ toBytes 4 m.side
          ++ List.replicate 16 0 ++ toBytes 8 m.data.toNat ++ List.replicate 192 0)
        t.modEng g fun e => { e with away := e.away ++ [(l, (t.link l).lastSeq, c)] }
      | none => s := by
  rw [sink_eq]
  dsimp only
  rw [if_neg (by omega), if_neg (by omega), if_neg (by omega), if_neg (by omega), if_neg (by omega)]

theorem sink_zone (kind : field w 60 3 = 5) (own : field w 43 8 = s.self) :
    s.sink g w m n tl op c before_ = s.landMote (field w 51 9) (field w 38 4) ⟨s.self, g, field w 24 5⟩ m before_ := by
  rw [sink_slot kind, if_pos own]

theorem sink_away (kind : field w 60 3 = 5) (away : field w 43 8 ≠ s.self) {l : Nat} (link : s.linkTo (field w 43 8) = some l) :
    let t := (s.noteSent g (field w 43 8)).sendFlit l 1 (toBytes 2 g ++ toBytes 1 (field w 24 5) ++ toBytes 1 (field w 38 4) ++ [0xFF, 0] ++ toBytes 2 8 ++ toBytes 4 m.side
      ++ List.replicate 16 0 ++ toBytes 8 m.data.toNat ++ List.replicate 192 0)
    s.sink g w m n tl op c before_ = t.modEng g fun e => { e with away := e.away ++ [(l, (t.link l).lastSeq, c)] } := by
  rw [sink_slot kind, if_neg away, link]

end

end Sys2Proof.Machine
end

section
/-! The first motes of a glade's streams (R192, R230, R327, R414 to R416): which stream goes, and whether its mote goes on, waits or comes back. -/

namespace Sys2Proof.Machine

/-! ## Nothing to send -/

theorem glade_modEng_of_fixed {s : State} {g : Nat} {f : Engines → Engines} (fixed : f (s.eng g) = s.eng g) (h : Nat) : (s.modEng g f).glade h = s.glade h := by
  refine (State.glade_modGlade ..).trans ?_
  split
  · next same =>
    subst same
    exact congrArg (fun e : Engines => { s.glade h with cur := { s.bough h with eng := e } }) fixed
  · rfl

/-- Rills without waiting values have none to pour. -/
theorem rills_pour_of_empty {l : List (Nat × Rill)} (empty : ∀ x ∈ l, x.2.wait = []) : (l.map fun x => (x.1, x.2.pour x.2.wait.length)) = l := by
  refine (List.map_congr_left fun x mem => ?_).trans (List.map_id l)
  rw [empty x mem]
  rfl

/-! ## The streams that send -/

/-- What one index alone gives of a range. -/
theorem filterMap_range_single {α : Type} {f : Nat → Option α} {c : Nat} (n : Nat) (others : ∀ k < n, k ≠ c → f k = none) :
    (List.range n).filterMap f = if c < n then (f c).toList else [] := by
  induction n with
  | zero => rfl
  | succ n ih =>
    rw [List.range_succ, List.filterMap_append, ih fun k lt => others k (Nat.lt_succ_of_lt lt)]
    have last : [n].filterMap f = (f n).toList := by cases at_ : f n <;> simp [at_]
    rw [last]
    obtain lt | rfl | gt := lt_trichotomy c n
    · rw [if_pos lt, if_pos (Nat.lt_succ_of_lt lt), others n (Nat.lt_succ_self n) lt.ne']
      simp
    · rw [if_neg (lt_irrefl c), if_pos (Nat.lt_succ_self c)]
      cases f c <;> rfl
    · rw [if_neg gt.not_gt, if_neg (by omega), others n (Nat.lt_succ_self n) gt.ne]
      rfl

theorem heads_of_empty {e : Engines} (empty : ∀ c < 48, (e.ostream c).out = []) : e.heads = [] := by
  have none_ : ((List.range 48).filterMap fun c => (e.ostream c).out.head?.map fun m => (c, m.ord)) = [] := by
    refine List.filterMap_eq_nil_iff.2 fun c mem => ?_
    rw [empty c (List.mem_range.1 mem)]
    rfl
  rw [Engines.heads, none_]
  rfl

theorem heads_of_single {e : Engines} {c : Nat} (lt : c < 48) (waits : (e.ostream c).out ≠ []) (others : ∀ k < 48, k ≠ c → (e.ostream k).out = []) : e.heads = [c] := by
  obtain ⟨m, rest, out⟩ := List.exists_cons_of_ne_nil waits
  have one : ((List.range 48).filterMap fun c => (e.ostream c).out.head?.map fun m => (c, m.ord)) = [(c, m.ord)] := by
    rw [filterMap_range_single (c := c) 48 fun k low ne => by rw [others k low ne]; rfl, if_pos lt, out]
    rfl
  rw [Engines.heads, one]
  rfl

theorem laterThan_of_single {e : Engines} {c : Nat} (others : ∀ x ∈ e.rills, x.1 + 16 ≠ c → x.2.ostream.out = []) : e.laterThan c = false := by
  refine Bool.and_eq_false_iff.2 (Or.inr ?_)
  split
  · rfl
  · refine List.any_eq_false.2 fun x mem => ?_
    by_cases own : x.1 + 16 = c
    · simp [own]
    · simp [others x mem own]

theorem execMoteArrival_of_empty {s : State} {g : Nat} (empty : ∀ c < 48, ((s.eng g).ostream c).out = []) (poured : ∀ x ∈ (s.eng g).rills, x.2.wait = []) :
    execMoteArrival g s = .next (s.modEng g fun e => { e with rills := e.rills.map fun x => (x.1, x.2.pour x.2.wait.length) }) := by
  have fixed := rills_pour_of_empty poured
  unfold execMoteArrival
  dsimp only
  rw [State.eng_modEng_self, fixed, heads_of_empty empty]
  rfl

/-- The one stream that has a waiting mote sends it. -/
theorem execMoteArrival_of_single {s : State} {g c : Nat} :
    let u := s.modEng g fun e => { e with rills := e.rills.map fun x => (x.1, x.2.pour x.2.wait.length) }
    c < 48 → ((u.eng g).ostream c).out ≠ [] → (∀ k < 48, k ≠ c → ((u.eng g).ostream k).out = []) → (∀ x ∈ (u.eng g).rills, x.1 + 16 ≠ c → x.2.ostream.out = []) →
      execMoteArrival g s = .next (u.sendHead g c) := by
  intro u lt waits others rills
  have all : execMoteArrival g s = .next (sendHeads g (u.eng g).heads u) := rfl
  rw [all, heads_of_single lt waits others, sendHeads, if_neg (ne_true_of_eq_false (laterThan_of_single rills)), sendHeads]

/-! ## The first mote of a stream -/

/-- A mote that comes with tags fails a check by its residue or its edm (R129, R414). -/
theorem wrong_iff (m : Mote) : m.wrong = true ↔ m.valid = true ∧ (m.residue.toNat ≠ m.data.toNat % 15 ∨ 8 < m.edm.toNat) := by
  have residue : m.residue ≠ mod15 m.data ↔ m.residue.toNat ≠ m.data.toNat % 15 := by
    rw [Ne, ← BitVec.toNat_inj, mod15, BitVec.toNat_ofNat, Nat.mod_eq_of_lt (by omega : m.data.toNat % 15 < 2 ^ 4)]
  rw [Mote.wrong, Bool.and_eq_true, Bool.or_eq_true, decide_eq_true_iff, decide_eq_true_iff, residue]

section
variable {s : State} {g c : Nat} {m : Sent} {rest : List Sent}

/-- The first mote of a stream reaches its sinks after some counts, and leaves the stream (R327). -/
def State.emitHead (s : State) (g c : Nat) (m : Sent) (rest : List Sent) (u : State) : State :=
  sinkAll g m.mote (s.firstNum g c) 3 ((((s.th g).run).map (·.opnum)).getD 0) c [.out m.uid] (m.words.map (s.routeOf g))
    (u.modEng g fun e => e.modOstream c fun _ => { out := rest, tries := 0 })

theorem failed_eng (ws : List Nat) (item : Nat) (s : State) (h : Nat) : (s.failed ws item).eng h = s.eng h := by
  obtain ⟨life, eq⟩ := lives_eq item (s.sinkGlades ws) s
  rw [State.failed, eq]
  rfl

/-- The counted mote leaves the stream that stands: its rest is what follows it. -/
theorem dropFirst_eq {u : State} (out : ((u.eng g).ostream c).out = m :: rest) :
    (u.modEng g fun e => e.modOstream c fun o => { out := o.out.drop 1, tries := 0 }) = u.modEng g fun e => e.modOstream c fun _ => { out := rest, tries := 0 } :=
  modEng_congr (modOstream_congr (by rw [out]; rfl))

variable (out : ((s.eng g).ostream c).out = m :: rest)
include out

theorem sendHead_cons : s.sendHead g c =
    if 4 < ((s.eng g).ostream c).tries ∨ ((m.words.map (s.routeOf g)).all fun w => s.canTake g w c) = false then s
    else if m.mote.damaged then s.reinject g c 1
    else s.emitHead g c m rest (if m.mote.wrong then s.failed (m.words.map (s.routeOf g)) 1 else s) := by
  have counted : (((if m.mote.wrong then s.failed (m.words.map (s.routeOf g)) 1 else s).eng g).ostream c).out = m :: rest := by
    split
    · rw [failed_eng, out]
    · exact out
  rw [State.emitHead, ← dropFirst_eq counted]
  unfold State.sendHead
  simp only [out]

/-- A mote waits until every entry of its chain can take it (R327). -/
theorem sendHead_waits (waits : ¬(((s.eng g).ostream c).tries ≤ 4 ∧ ∀ w ∈ m.words.map (s.routeOf g), s.canTake g w c = true)) : s.sendHead g c = s := by
  rw [sendHead_cons out]
  refine if_pos ?_
  rwa [← Bool.not_eq_true, List.all_eq_true, ← not_le, ← not_and_or]

variable (takes : ((s.eng g).ostream c).tries ≤ 4 ∧ ∀ w ∈ m.words.map (s.routeOf g), s.canTake g w c = true)
include takes

theorem sendHead_goes : s.sendHead g c =
    if m.mote.damaged then s.reinject g c 1 else s.emitHead g c m rest (if m.mote.wrong then s.failed (m.words.map (s.routeOf g)) 1 else s) := by
  rw [sendHead_cons out]
  refine if_neg ?_
  rwa [← Bool.not_eq_true, List.all_eq_true, ← not_le, ← not_and_or, not_not]

theorem sendHead_sound (sound : ¬m.mote.wrong = true) : s.sendHead g c = s.emitHead g c m rest s := by
  rw [sendHead_goes out takes, if_neg (by simp [Mote.damaged, sound]), if_neg sound]

/-- A mote that left its source with err 1 is counted and delivered (R416). -/
theorem sendHead_marked (wrong : m.mote.wrong = true) (err : m.mote.err = true) : s.sendHead g c = s.emitHead g c m rest (s.failed (m.words.map (s.routeOf g)) 1) := by
  rw [sendHead_goes out takes, if_neg (by simp [Mote.damaged, err]), if_pos wrong]

/-- A mote damaged in transit is sent again (R415). -/
theorem sendHead_damaged (wrong : m.mote.wrong = true) (err : m.mote.err = false) : s.sendHead g c = s.reinject g c 1 := by
  rw [sendHead_goes out takes, if_pos (by simp [Mote.damaged, err, wrong])]

end

end Sys2Proof.Machine
end

section
/-! Motes damaged in transit (R407, R414, R415): what is counted, sent again, or given up after four re-injections. -/

namespace Sys2Proof.Machine

/-! ## A sink's rill that becomes ERR -/

theorem sinkErr_mem (s : State) (g w : Nat) : (s.sinkErr g w).mem = s.mem := by
  unfold State.sinkErr
  dsimp only
  split
  · rfl
  · split
    · split <;> rfl
    · rfl

theorem failed_mem (ws : List Nat) (item : Nat) (s : State) : (s.failed ws item).mem = s.mem := by
  obtain ⟨life, eq⟩ := lives_eq item (s.sinkGlades ws) s
  rw [State.failed, eq]
  rfl

theorem mem_insertCause_self (x : Cause) (l : List Cause) : x ∈ insertCause x l := by
  induction l with
  | nil => exact List.mem_singleton_self x
  | cons y t ih =>
    rw [insertCause]
    split
    · exact List.mem_cons_self
    · exact List.mem_cons_of_mem _ ih

theorem mem_raised_asyncFault (s : State) (g cause v : Nat) (th : Bool) (rank : Nat) : (⟨cause, v, th, rank⟩ : Cause) ∈ ((s.asyncFault g cause v th rank).ww g).raised := by
  rw [State.asyncFault, State.ww_modWw_self]
  exact mem_insertCause_self _ _

/-! ## Sent again (R415) -/

section
variable (s : State) (g item rill seq rank : Nat) (ws : List Nat) (put : Nat → State → State) {tries : Nat}

theorem resend_again (lt : tries < 4) : s.resend g item rill seq tries rank ws put = (put (tries + 1) (s.failed ws item)).life 3 g 1 := if_pos lt

theorem resend_exhausted (ge : 4 ≤ tries) : s.resend g item rill seq tries rank ws put =
    (put 5 (ws.foldl (fun s w => s.sinkErr g w) (s.failed ws item))).asyncFault g 0x086 (rill + 2 ^ 16 * seq) false rank := if_neg ge.not_gt

theorem resend_mem {put : Nat → State → State} (keeps : ∀ n u, (put n u).mem = u.mem) : (s.resend g item rill seq tries rank ws put).mem = s.mem := by
  obtain lt | ge := lt_or_ge tries 4
  · rw [resend_again (lt := lt)]
    exact (keeps _ _).trans (failed_mem ..)
  · rw [resend_exhausted (ge := ge)]
    exact (keeps _ _).trans ((foldl_keeps State.mem _ (fun u w => sinkErr_mem u g w) ws _).trans (failed_mem ..))

theorem resend_raises (ge : 4 ≤ tries) : ∃ r ∈ ((s.resend g item rill seq tries rank ws put).ww g).raised, r.code = 0x086 := by
  rw [resend_exhausted (ge := ge)]
  exact ⟨_, mem_raised_asyncFault .., rfl⟩

/-- The stand after a re-injection is the one that the new count of tries was put in. -/
theorem resend_stand (le : tries ≤ 4) : ∃ u, (s.resend g item rill seq tries rank ws put).stand g = (put (tries + 1) u).stand g := by
  obtain lt | rfl := lt_or_eq_of_le le
  · rw [resend_again (lt := lt)]
    exact ⟨_, rfl⟩
  · rw [resend_exhausted (ge := Nat.le_refl 4)]
    exact ⟨_, stand_asyncFault ..⟩

end

/-! ## The three sources of motes -/

/-- A beat of a drain that has not been given up is sent again, its count of tries advanced. -/
theorem reinjectBeat_spec {s : State} {g k item : Nat} {dr : Drain} (drain : ((s.stand g).set k).drain = some dr) (le : dr.tries ≤ 4) :
    (s.reinjectBeat g k item).mem = s.mem ∧ (((s.reinjectBeat g k item).stand g).set k).drain = some { dr with tries := dr.tries + 1 }
      ∧ (dr.tries = 4 → ∃ r ∈ ((s.reinjectBeat g k item).ww g).raised, r.code = 0x086) := by
  have eq : s.reinjectBeat g k item = s.drawn.resend g item 0 ((16 * dr.beat + s.freeWord.toNat % 16) % 2 ^ 16) dr.tries dr.steer dr.words fun n s =>
      s.modStand g fun x => x.modSet k fun y => { y with drain := some { dr with tries := n } } := by
    unfold State.reinjectBeat
    simp only [drain, if_neg le.not_gt]
  rw [eq]
  refine ⟨resend_mem _ _ _ _ _ _ _ fun _ _ => rfl, ?_, fun four => resend_raises _ _ _ _ _ _ _ _ four.ge⟩
  obtain ⟨u, same⟩ := resend_stand s.drawn g item 0 ((16 * dr.beat + s.freeWord.toNat % 16) % 2 ^ 16) dr.steer dr.words
    (fun n s => s.modStand g fun x => x.modSet k fun y => { y with drain := some { dr with tries := n } }) le
  rw [same, stand_modStand_self, set_modSet]

/-- The oldest tile in flight of a raft that has not been given up is sent again. -/
theorem reinjectTile_spec {s : State} {g raft item : Nat} {e : QEntry} (oldest : ((s.eng g).queue (1 + raft)).find? (fun e => decide (e.tiles ≠ [] ∧ e.kind = 2)) = some e)
    (le : e.tries ≤ 4) :
    (s.reinjectTile g raft item).mem = s.mem ∧ (e.tries = 4 → ∃ r ∈ ((s.reinjectTile g raft item).ww g).raised, r.code = 0x086) := by
  unfold State.reinjectTile
  simp only [oldest, if_neg le.not_gt]
  exact ⟨resend_mem _ _ _ _ _ _ _ fun _ _ => rfl, fun four => resend_raises _ _ _ _ _ _ _ _ four.ge⟩

section
variable {s : State} {g c item : Nat} {m : Sent} {rest : List Sent} (out : ((s.eng g).ostream c).out = m :: rest)
include out

theorem reinject_cons : s.reinject g c item =
    s.resend g item m.mote.rill.toNat m.mote.seq.toNat ((s.eng g).ostream c).tries (2 ^ 28) (m.words.map (s.routeOf g)) fun n s =>
      s.modEng g fun e => e.modOstream c fun o => { o with tries := n } := by
  unfold State.reinject
  simp only [out]

theorem reinject_again (lt : ((s.eng g).ostream c).tries < 4) : s.reinject g c item =
    ((s.failed (m.words.map (s.routeOf g)) item).modEng g fun e => e.modOstream c fun o => { o with tries := ((s.eng g).ostream c).tries + 1 }).life 3 g 1 := by
  rw [reinject_cons out, resend_again (lt := lt)]

theorem reinject_exhausted (ge : 4 ≤ ((s.eng g).ostream c).tries) : s.reinject g c item =
    (((m.words.map (s.routeOf g)).foldl (fun s w => s.sinkErr g w) (s.failed (m.words.map (s.routeOf g)) item)).modEng g fun e =>
      e.modOstream c fun o => { o with tries := 5 }).asyncFault g 0x086 (m.mote.rill.toNat + 2 ^ 16 * m.mote.seq.toNat) := by
  rw [reinject_cons out, resend_exhausted (ge := ge)]

end

/-! ## The event MOTE_REINJECTION -/

section
variable {s : State} {g : Nat}

theorem execMoteReinjection_stream {c : Nat} (stream : c < 48) : execMoteReinjection g c s =
    if ((s.eng g).ostream c).out = [] ∨ 4 < ((s.eng g).ostream c).tries then .next s
    else .next (s.drawn.reinject g c (if s.freeWord.getLsbD 0 then 1 else 2)) := by
  unfold execMoteReinjection
  dsimp only
  rw [if_neg (by omega : ¬50 ≤ c), if_neg stream.not_ge]

theorem execMoteReinjection_drain {k : Nat} (set : k < 2) :
    execMoteReinjection g (48 + k) s = .next (s.drawn.reinjectBeat g k (if s.freeWord.getLsbD 0 then 1 else 2)) := by
  unfold execMoteReinjection
  dsimp only
  rw [if_neg (by omega : ¬50 ≤ 48 + k), if_pos (Nat.le_add_right 48 k), Nat.add_sub_cancel_left]

theorem execMoteReinjection_raft (raft : Nat) :
    execMoteReinjection g (50 + raft) s = .next (s.drawn.reinjectTile g raft (if s.freeWord.getLsbD 0 then 1 else 2)) := by
  unfold execMoteReinjection
  dsimp only
  rw [if_pos (Nat.le_add_right 50 raft), Nat.add_sub_cancel_left]

end

end Sys2Proof.Machine
end

section
namespace Sys2Proof
open Machine

/-! ## The statement -/

/-- Settles O44: each sink, stream, drain and raft by its own equation. -/
theorem moteEvents : Obligations.MoteEvents := by
  unfold Obligations.MoteEvents
  intro s g
  refine ⟨fun empty poured => ?idle, ⟨_, rfl⟩, fun c lt waits others rills => execMoteArrival_of_single lt waits others rills, fun c m rest out => ?head, fun m n tl op c w before_ => ?sink, fun c lt waits => ?quiet, fun c lt waits tries => ?again,
    fun k set dr drain tries => ?drain, fun raft _ e oldest tries => ?raft, fun c m rest item out => ?give⟩
  case idle => exact ⟨_, execMoteArrival_of_empty empty poured, rfl, glade_modEng_of_fixed (congrArg (fun l => { s.eng g with rills := l }) (rills_pour_of_empty poured))⟩
  case head =>
    refine ⟨sendHead_waits out, fun takes sound => sendHead_sound out takes ?_, fun takes wrong => sendHead_marked out takes ?_, fun takes wrong => sendHead_damaged out takes ?_⟩
    · rwa [wrong_iff]
    · rwa [wrong_iff]
    · rwa [wrong_iff]
  case sink =>
    refine ⟨fun kind => ⟨_, sink_port kind, put_lt_accept _ m, fun _ => nfind_accept _ m⟩, sink_burrow, sink_outside, sink_rill, sink_zone, fun l kind away link => ?_⟩
    exact sink_away kind away link
  case quiet => exact (execMoteReinjection_stream lt).trans (if_pos waits)
  case again => exact (execMoteReinjection_stream lt).trans (if_neg (not_or.2 ⟨waits, tries.not_gt⟩))
  case drain => exact ⟨_, execMoteReinjection_drain set, reinjectBeat_spec drain tries⟩
  case raft => exact ⟨_, execMoteReinjection_raft raft, reinjectTile_spec oldest tries⟩
  case give => exact ⟨reinject_again out, reinject_exhausted out⟩

end Sys2Proof
end

section
/-! Nothing is written before a block commits (R144): which states differ in no byte of memory, no register and no predicate, but for the fault queues. -/

namespace Sys2Proof.Machine

/-- The fault queue of every function lies where it lay. -/
def QueuesStay (s t : State) : Prop := ∀ f, (t.fn f).fqBase = (s.fn f).fqBase ∧ (t.fn f).fqEntries = (s.fn f).fqEntries

/-- An address of some function's fault queue, as `Obligations.NothingChangesBeforeCommit` writes it. -/
def InFaultQueue (s : State) (a : Nat) : Prop := ∃ f, let q := (s.fn f).fqBase + 2 ^ 60 + f * 2 ^ 56; q ≤ a ∧ a < q + 32 * (s.fn f).fqEntries

/-- No byte of memory, no register and no predicate changes, and no fault queue moves. -/
structure Silent (s t : State) : Prop where
  same : Same s t
  queues : QueuesStay s t

/-- No register and no predicate changes, no fault queue moves, and no byte changes but in the fault queues. -/
structure Unwritten (s t : State) : Prop where
  regs : ∀ g, (t.ww g).g = (s.ww g).g ∧ (t.ww g).q = (s.ww g).q
  queues : QueuesStay s t
  bytes : Memory.wf s.mem = true → Memory.wf t.mem = true ∧ ∀ a, ¬InFaultQueue s a → memGet t.mem a = memGet s.mem a

theorem le_of_inFaultQueue {s : State} {a : Nat} (h : InFaultQueue s a) : 2 ^ 60 ≤ a := by
  obtain ⟨f, low, -⟩ := h
  omega

/-! ## The fault queues stay -/

theorem QueuesStay.of_fns {s t : State} (h : t.fns = s.fns) : QueuesStay s t := fun f => by simp [State.fn, h]

theorem QueuesStay.trans {s t u : State} (first : QueuesStay s t) (second : QueuesStay t u) : QueuesStay s u :=
  fun f => ⟨(second f).1.trans (first f).1, (second f).2.trans (first f).2⟩

theorem QueuesStay.modFn (s : State) (n : Nat) (f : Fn → Fn) (hf : ∀ x, (f x).fqBase = x.fqBase ∧ (f x).fqEntries = x.fqEntries := by exact fun _ => ⟨rfl, rfl⟩) : QueuesStay s (s.modFn n f) := by
  intro m
  rw [State.fn_modFn]
  split
  · next e => subst e; exact hf _
  · exact ⟨rfl, rfl⟩

theorem inFaultQueue_iff {s t : State} (h : QueuesStay s t) (a : Nat) : InFaultQueue t a ↔ InFaultQueue s a := by
  simp only [InFaultQueue, (h _).1, (h _).2]

/-! ## Silent changes -/

theorem Silent.refl (s : State) : Silent s s := ⟨Same.refl s, .of_fns rfl⟩

theorem Silent.trans {s t u : State} (first : Silent s t) (second : Silent t u) : Silent s u := ⟨first.same.trans second.same, first.queues.trans second.queues⟩

theorem Silent.of_fns {s t : State} (same : Same s t) (h : t.fns = s.fns) : Silent s t := ⟨same, .of_fns h⟩

/-- A change of fields other than memory, the glades and the functions. -/
theorem Silent.of_glades {s t : State} (hm : t.mem = s.mem) (hg : t.glades = s.glades) (hf : t.fns = s.fns) : Silent s t := .of_fns (.of_glades hm hg) hf

theorem Silent.modWw (s : State) (g : Nat) (f : Woodward → Woodward) (hf : ∀ w, (f w).g = w.g ∧ (f w).q = w.q := by exact fun _ => ⟨rfl, rfl⟩) : Silent s (s.modWw g f) := .of_fns (.modWw s g f hf) rfl

theorem Silent.modBlock (s : State) (g : Nat) (f : Block → Block) : Silent s (s.modBlock g f) := .modWw s g _

theorem Silent.modEng (s : State) (g : Nat) (f : Engines → Engines) : Silent s (s.modEng g f) := .of_fns (.modEng s g f) rfl

theorem Silent.modGlade (s : State) (g : Nat) (f : Glade → Glade) (hf : ∀ x, (f x).cur.ww = x.cur.ww := by exact fun _ => rfl) : Silent s (s.modGlade g f) := .of_fns (.modGlade s g f hf) rfl

theorem Silent.modFn (s : State) (n : Nat) (f : Fn → Fn) (hf : ∀ x, (f x).fqBase = x.fqBase ∧ (f x).fqEntries = x.fqEntries := by exact fun _ => ⟨rfl, rfl⟩) : Silent s (s.modFn n f) :=
  ⟨.of_glades rfl rfl, .modFn s n f hf⟩

theorem Silent.modDie (s : State) (d : Nat) (f : Die → Die) : Silent s (s.modDie d f) := .of_glades rfl rfl rfl

theorem Silent.modTh (s : State) (g : Nat) (f : Thicket → Thicket) : Silent s (s.modTh g f) := .of_fns ⟨rfl, fun _ => by simp⟩ rfl

theorem Silent.drawn (s : State) : Silent s s.drawn := .of_glades rfl rfl rfl

theorem Silent.perf (s : State) (g e n : Nat) : Silent s (s.perf g e n) := .modWw s g _

theorem Silent.stall (s : State) (x : Fx) : Silent s (s.stall x) := .modBlock _ _ _

theorem Silent.ite {c : Prop} [Decidable c] {s t u : State} (yes : Silent s t) (no : Silent s u) : Silent s (if c then t else u) :=
  iteInduction (motive := Silent s) (fun _ => yes) fun _ => no

theorem Silent.foldl {α : Type} (f : State → α → State) (hf : ∀ s x, Silent s (f s x)) (l : List α) (s : State) : Silent s (l.foldl f s) := by
  induction l generalizing s with
  | nil => exact .refl s
  | cons x _ ih => exact (hf s x).trans (ih _)

theorem report_silent (s : State) (p : Nat) (m : List Byte) : Silent s (s.report p m) := .of_fns (report_same s p m) (report_fns s p m)

theorem discard_silent (s : State) (g : Nat) : Silent s (s.discard g) := by
  refine ⟨discard_same s g, ?_⟩
  unfold State.discard
  split
  · exact .of_fns rfl
  · next b _ =>
    have gone : QueuesStay s (releaseAnswers g b b.answers (releasePend g b.pend s)) := .of_fns (by rw [releaseAnswers_fns, releasePend_fns])
    simp only
    split
    · exact gone.trans (.of_fns rfl)
    · exact gone.trans (.trans (.of_fns rfl) (.modFn _ _ _))

/-! ## Changes that are written nowhere but in a fault queue -/

theorem Unwritten.silent {s t : State} (h : Silent s t) : Unwritten s t := ⟨h.same.2, h.queues, fun wf => by simp [h.same.1, wf]⟩

theorem Unwritten.refl (s : State) : Unwritten s s := .silent (.refl s)

theorem Unwritten.trans {s t u : State} (first : Unwritten s t) (second : Unwritten t u) : Unwritten s u where
  regs g := ⟨(second.regs g).1.trans (first.regs g).1, (second.regs g).2.trans (first.regs g).2⟩
  queues := first.queues.trans second.queues
  bytes wf := by
    obtain ⟨mid, same⟩ := first.bytes wf
    obtain ⟨last, same'⟩ := second.bytes mid
    exact ⟨last, fun a out => (same' a (mt (inFaultQueue_iff first.queues a).1 out)).trans (same a out)⟩

theorem faultBytes_length (cause flags fn ctx glade ordinal value aux : Nat) : (faultBytes cause flags fn ctx glade ordinal value aux).length = 32 := by
  simp [faultBytes, toBytes]

theorem put_outside {s : State} {a b : Nat} {bs : List Byte} (wf : Memory.wf s.mem = true) (out : ¬(a ≤ b ∧ b < a + bs.length)) :
    memGet (s.put a bs).mem b = memGet s.mem b := by
  rw [State.put, memGet_memPut bs b wf, if_neg out]

theorem fqWrite_unwritten (s : State) (f cause flags fn ctx glade value aux : Nat) : Unwritten s (s.fqWrite f cause flags fn ctx glade value aux) := by
  unfold State.fqWrite
  simp only
  split
  · exact .refl s
  · split
    · exact .silent (.modFn s f _)
    · next room =>
      refine .trans (t := s.put _ _) ⟨fun _ => ⟨rfl, rfl⟩, .of_fns rfl, fun wf => ⟨memPut_wf _ wf, fun a out => ?_⟩⟩
        (.silent (.modFn _ _ _))
      have entry : (s.fn f).wcnt % (s.fn f).fqEntries < (s.fn f).fqEntries := Nat.mod_lt _ (by omega)
      have above := not_exists.1 out f
      exact put_outside wf (by rw [faultBytes_length, hostAt]; omega)

theorem faultRecord_unwritten (s : State) (cause flags fn ctx glade value aux : Nat) : Unwritten s (s.faultRecord cause flags fn ctx glade value aux) := by
  unfold State.faultRecord
  split
  · exact fqWrite_unwritten ..
  · exact (fqWrite_unwritten ..).trans (fqWrite_unwritten ..)

theorem forester_unwritten (s : State) (g cause value a : Nat) (async : Bool) : Unwritten s (s.forester g cause value a async) := by
  unfold State.forester
  split
  · exact .refl s
  · next p _ =>
    simp only
    refine .trans ?_ (.silent (.modDie ..))
    refine .trans ?_ (.silent (.modTh ..))
    refine .trans ?_ (.silent (.modWw _ _ _))
    refine .trans ?_ (faultRecord_unwritten ..)
    refine .trans ?_ (.silent (discard_silent ..))
    split
    · exact .silent (.of_glades rfl rfl rfl)
    · split
      · exact .silent (.of_glades rfl rfl rfl)
      · exact .refl s

theorem take_unwritten (s : State) (g cause value a : Nat) (async : Bool) : Unwritten s (s.take g cause value a async) := by
  unfold State.take
  refine (Unwritten.silent (.modWw s g fun w => { w with delivered := true })).trans ?_
  generalize s.modWw g (fun w => { w with delivered := true }) = s
  simp only
  split
  · exact forester_unwritten ..
  · exact .silent ((discard_silent _ g).trans (.modWw _ g _))

theorem blockFault_unwritten (s : State) (g cause value : Nat) : Unwritten s (s.blockFault g cause value) := by
  unfold State.blockFault
  split <;> exact take_unwritten ..

/-! ## Outcomes -/

/-- Whatever state an outcome leads to differs in nothing that a block writes. -/
def Harmless (s : State) (o : Outcome) : Prop := ∀ t, o = .next t → Unwritten s t

section
variable {s t : State} {x : Fx} {h : Hdr} {o o' : Outcome} {c : Prop} [Decidable c]

theorem Harmless.next (keeps : Unwritten s t) : Harmless s (.next t) := by
  rintro _ ⟨⟩
  exact keeps

theorem Harmless.silent (keeps : Silent s t) : Harmless s (.next t) := .next (.silent keeps)

theorem Harmless.stay : Harmless s (.next s) := .silent (.refl s)

theorem Harmless.after (first : Unwritten s t) (rest : Harmless t o) : Harmless s o := fun u e => first.trans (rest u e)

theorem Harmless.of_silent (first : Silent s t) (rest : Harmless t o) : Harmless s o := .after (.silent first) rest

theorem Harmless.ite (yes : Harmless s o) (no : Harmless s o') : Harmless s (if c then o else o') := iteInduction (motive := Harmless s) (fun _ => yes) fun _ => no

theorem Harmless.stop {cause v : Nat} : Harmless s (s.stop x cause v) := .next (blockFault_unwritten ..)

theorem Harmless.stopOpen {cause : Nat} : Harmless s (s.stopOpen x cause) := .next (.trans (.silent (.drawn s)) (blockFault_unwritten ..))

theorem Harmless.stall : Harmless s (.next (s.stall x)) := .silent (.stall s x)

theorem Harmless.finish {v : Word} {eff : Nat} {f : Block → Block} : Harmless s (s.finish x h v eff f) := by
  rcases finish_cases s x h v eff f with ⟨b, e⟩ | ⟨c, n, e⟩ <;> rw [e]
  · exact .silent (.modWw _ _ _)
  · exact .next (blockFault_unwritten ..)

theorem Harmless.frontierOnly (k : Harmless s o) : Harmless s (s.frontierOnly x o) := .ite k .stop

theorem OnlyBlock.harmless (only : OnlyBlock s o) : Harmless s o := by
  intro t e
  rcases only t e with ⟨others, -, block⟩ | ⟨c, v, rfl⟩
  · have regs (g : Nat) : (t.ww g).g = (s.ww g).g ∧ (t.ww g).q = (s.ww g).q := by
      simp only [State.ww, State.bough, block g]
      split <;> exact ⟨rfl, rfl⟩
    exact .silent (.of_fns ⟨by rw [others], regs⟩ (by rw [others]))
  · exact blockFault_unwritten ..

end

end Sys2Proof.Machine
end

section
/-! Nothing is written before a block commits (R144): accesses and walks. -/

namespace Sys2Proof.Machine

/-! ## Walks and caches (R250) -/

theorem hbmRead_silent (s : State) (a n : Nat) : Silent s (s.hbmRead a n) := by
  by_cases inside : hbmAt ≤ a ∧ a < hbmAt + 2 ^ 52 ∧ 0 < n
  · simp only [State.hbmRead, if_pos inside]
    generalize (a - hbmAt) / 32 = lo
    exact Silent.foldl (fun t i => t.life 7 (t.stackOf (32 * (lo + i))) 1) (fun _ _ => .of_glades rfl rfl rfl) _ s
  · rw [State.hbmRead, if_neg inside]
    exact .refl s

theorem cacheFill_silent (s : State) (g : Nat) (t : Tlb) : Silent s (s.cacheFill g t) :=
  (Silent.modGlade s g fun x => { x with tlb := tlbEnter 1 256 t x.tlb }).trans (.of_glades rfl rfl rfl)

theorem served_silent (s : State) (g a phys n : Nat) : Silent s (s.served g a phys n) := by
  have entered (t : Tlb) : Silent s ((s.modGlade g fun x => { x with tlb := tlbEnter 1 256 t x.tlb }).perf g 12 1) :=
    (Silent.modGlade s g fun x => { x with tlb := tlbEnter 1 256 t x.tlb }).trans (.perf ..)
  unfold State.served
  refine .trans ?_ ((hbmRead_silent _ phys n).trans (.of_glades rfl rfl rfl))
  split
  · exact .refl s
  · refine .ite (.refl s) ?_
    split
    · exact entered _
    · exact .refl s

theorem joinWalks_silent (s : State) (g : Nat) (hit : Walk → Bool) (r : Except Nat Tlb) : Silent s (s.joinWalks g hit r) := by
  refine Silent.foldl _ (fun t y => ?_) _ s
  refine (Silent.modGlade t y.1 fun x => { x with walks := x.walks.filter fun w => !hit w }).trans ?_
  cases r with
  | ok => exact cacheFill_silent ..
  | error => exact .modGlade _ _ _

theorem fillWalk_silent (s : State) (g ctx va : Nat) : Silent s (s.fillWalk g ctx va).1 := by
  have reads : Silent s ((s.walkAll ctx va).2.foldl (fun s a => s.hbmRead (hbmAt + a) 8) (s.perf g 13 1)) :=
    (Silent.perf s g 13 1).trans (.foldl _ (fun _ _ => hbmRead_silent ..) _ _)
  unfold State.fillWalk
  dsimp only
  split
  · dsimp only
    exact reads.trans (joinWalks_silent ..)
  · dsimp only
    exact reads.trans ((joinWalks_silent ..).trans (cacheFill_silent ..))

theorem resolveNow_silent {s t : State} {g a n align : Nat} {k : AccKind} {lax : Bool} {r : Xl} (e : s.resolveNow g a n align k lax = (t, r)) : Silent s t := by
  unfold State.resolveNow at e
  split at e
  · next ctx va _ =>
    have walked := (Silent.perf s g 12 1).trans (fillWalk_silent (s.perf g 12 1) g ctx va)
    split at e
    · cases e
      exact .refl _
    · split at e <;> next w =>
        rw [w] at walked
        cases e
        exact walked
  · cases e
    exact .refl s

theorem startWalk_silent (s : State) (g ctx va : Nat) : Silent s (s.startWalk g ctx va) := by
  unfold State.startWalk
  split
  · exact .refl s
  · exact (Silent.modGlade s g fun x => { x with walks := x.walks ++ [⟨ctx, va⟩] }).trans (.perf ..)

theorem needPage_silent (s : State) (vf page : Nat) (wr : Bool) (w : Waiter) : Silent s (s.needPage vf page wr w) := by
  unfold State.needPage
  simp only
  split
  · exact .refl s
  · split
    · exact .modFn s vf _
    · exact (Silent.modFn s vf fun f => { f with pages := f.pages ++ [⟨page, wr, .ats false, [w]⟩] }).trans (.of_glades rfl rfl rfl)

theorem leavePage_silent (s : State) (vf page : Nat) (w : Waiter) : Silent s (s.leavePage vf page w) := .modFn s vf _

/-! ## Accesses of a block (R244, R245, R261, R397) -/

theorem try_unwritten {s t : State} {x : Fx} {a n align : Nat} {k : AccKind} (e : s.try_ x a n align k = .stop t) : Unwritten s t := by
  unfold State.try_ at e
  split at e
  · split at e <;> cases e
    exact .silent (.stall s x)
  · cases e
    exact blockFault_unwritten ..
  · split at e <;> cases e
    · exact .trans (.silent (.modGlade s x.g _)) (blockFault_unwritten ..)
    · exact .silent ((startWalk_silent ..).trans (.stall ..))
  · simp only at e
    split at e <;> cases e
    · exact .trans (.silent (leavePage_silent ..)) (blockFault_unwritten ..)
    · exact .silent ((needPage_silent ..).trans (.stall ..))

theorem tryWords_unwritten {s t : State} {x : Fx} {k : AccKind} {n a : Nat} {acc : List Nat} (e : tryWords s x k n a acc = .error t) : Unwritten s t := by
  induction n generalizing a acc with
  | zero => cases e
  | succ n ih =>
    unfold tryWords at e
    split at e
    · next stopped => cases e; exact try_unwritten stopped
    · exact ih e

theorem readRange_unwritten {s t : State} {x : Fx} {k : AccKind} {a n : Nat} (e : readRange s x a n k = .error t) : Unwritten s t := by
  unfold readRange at e
  split at e <;> cases e
  next stopped => exact tryWords_unwritten stopped

theorem rangeBoth_unwritten {s t : State} {x : Fx} {a n : Nat} (e : rangeBoth s x a n = .error t) : Unwritten s t := by
  unfold rangeBoth at e
  split at e
  · next stopped => cases e; exact readRange_unwritten stopped
  · split at e <;> cases e
    next stopped => exact tryWords_unwritten stopped

theorem penRead_unwritten {s t : State} {x : Fx} (e : penRead s x = .error t) : Unwritten s t := by
  unfold penRead at e
  simp only at e
  split at e
  · next stopped => cases e; exact rangeBoth_unwritten stopped
  · split at e
    · cases e; exact blockFault_unwritten ..
    · split at e
      · cases e; exact blockFault_unwritten ..
      · split at e
        · next stopped => cases e; exact rangeBoth_unwritten stopped
        · split at e
          · cases e; exact blockFault_unwritten ..
          · split at e <;> cases e
            exact blockFault_unwritten ..

/-! ## Images (R324) -/

theorem imagePiece_silent {s t : State} {g ctx va n : Nat} {r : Option (Option Nat)} (e : s.imagePiece g ctx va n = (t, r)) : Silent s t := by
  unfold State.imagePiece at e
  split at e
  · cases e; exact .refl _
  · split at e
    · next found => split at e <;> cases e <;> exact resolveNow_silent found
    · next found => cases e; exact resolveNow_silent found
    · next _ _ _ found => cases e; exact resolveNow_silent found

theorem imageBytes_silent {s t : State} {g ctx fuel va n : Nat} {r : Option (Option (List Byte))} (e : s.imageBytes g ctx fuel va n = (t, r)) : Silent s t := by
  induction fuel generalizing s va n r with
  | zero => cases e; exact .refl _
  | succ fuel ih =>
    unfold State.imageBytes at e
    split at e
    · cases e; exact .refl _
    · simp only at e
      split at e
      · next piece => cases e; exact imagePiece_silent piece
      · next piece => cases e; exact imagePiece_silent piece
      · next piece =>
        refine (imagePiece_silent piece).trans ?_
        split at e
        · next rest => cases e; exact ih rest
        · exact ih e

theorem readImage_silent {s t : State} {g ctx va : Nat} {r : Option (Option (List Byte))} (e : s.readImage g ctx va = (t, r)) : Silent s t := by
  unfold State.readImage at e
  split at e
  · next header => exact (imageBytes_silent header).trans (imageBytes_silent e)
  · exact imageBytes_silent e

theorem armImages_silent {s t : State} {g ctx : Nat} {l : List Nat} {r : Except (Nat × Nat) (List (List Byte))} (e : s.armImages g ctx l = (t, r)) : Silent s t := by
  induction l generalizing s r with
  | nil => cases e; exact .refl _
  | cons a l ih =>
    unfold State.armImages at e
    split at e
    · next read => cases e; exact readImage_silent read
    · next read => cases e; exact readImage_silent read
    · next read =>
      refine (readImage_silent read).trans ?_
      simp only at e
      split at e
      · cases e; exact .refl _
      · split at e
        · cases e; exact .refl _
        · split at e
          · next rest => cases e; exact ih rest
          · exact ih e

/-! ## Reservations (R341, R342) -/

theorem sendFlit_silent (s : State) (l kind : Nat) (p : List Byte) : Silent s (s.sendFlit l kind p) := .of_glades (by simp) (by simp) (by simp)

theorem ask_silent (s : State) (x : Fx) (z : ZoneRef) (op n : Nat) : Silent s (s.ask x z op n) := by
  unfold State.ask
  refine .trans ?_ ((Silent.modBlock _ x.g _).trans (.stall ..))
  split
  · exact sendFlit_silent ..
  · exact .refl s

theorem modHome_silent (s : State) (g : Nat) (hit : Engines → Bool) (f : Engines → Engines) : Silent s (s.modHome g hit f) := .of_fns (modHome_same s g hit f) (modHome_fns s g hit f)

theorem holdKey_silent (s : State) (g zone : Nat) (k : SlotKey) : Silent s (s.holdKey g zone k) := modHome_silent ..

/-- A reservation changes at most the engines of its glade (R341). -/
theorem reserve_induction {s : State} {g zone n : Nat} {k : SlotKey} {P : State → Prop} (stay : P s) (change : ∀ f, P (s.modEng g f)) : P (s.reserve g zone k n).1 := by
  unfold State.reserve
  split
  · have result {c : Prop} [Decidable c] {q r : State × Nat × Nat × Nat} (yes : P q.1) (no : P r.1) : P (if c then q else r).1 := by
      split
      · exact yes
      · exact no
    have changed (f : Engines → Engines) (a : Nat × Nat × Nat) : P (s.modEng g f, a).1 := change f
    exact result stay (result (changed _ _) (result (changed _ _) (changed _ _)))
  · exact stay

/-- A glade turned, changed without what its other bough has become, and turned back. -/
theorem turned_silent {s t : State} {g : Nat} (hm : t.mem = s.mem) (hf : t.fns = s.fns) (hg : (t.glade g).alt = (s.glade g).cur) (ho : ∀ k, k ≠ g → t.glade k = s.glade k) :
    Silent s (t.modGlade g Glade.turned) := by
  refine .of_fns ⟨hm, fun k => ?_⟩ hf
  have back : (t.modGlade g Glade.turned).ww k = s.ww k := by
    simp only [State.ww, State.bough, State.glade_modGlade]
    split
    · next e => rw [Glade.turned, hg, e]
    · next e => rw [ho k e]
  rw [back]
  exact ⟨rfl, rfl⟩

theorem reserveHome_silent {s t : State} {g zone n : Nat} {k : SlotKey} {r : Nat × Nat × Nat} (e : s.reserveHome g zone k n = (t, r)) : Silent s t := by
  unfold State.reserveHome at e
  split at e
  · rw [← show (s.reserve g zone k n).1 = t by rw [e]]
    exact reserve_induction (.refl s) fun f => .modEng s g f
  · split at e
    · cases e; exact .refl _
    · split at e
      next u _ got =>
      cases e
      rw [← show ((s.modGlade g Glade.turned).reserve g zone k n).1 = u by rw [got]]
      refine reserve_induction (P := fun u => Silent s (u.modGlade g Glade.turned)) ?_ fun f => ?_
      · refine turned_silent rfl rfl ?_ fun k other => ?_
        · rw [State.glade_modGlade, if_pos rfl, Glade.turned]
        · rw [State.glade_modGlade, if_neg other]
      · refine turned_silent rfl rfl ?_ fun k other => ?_
        · simp only [State.modEng, State.modBough, State.glade_modGlade, if_pos, Glade.turned]
        · simp only [State.modEng, State.modBough, State.glade_modGlade, if_neg other]

end Sys2Proof.Machine
end

section
/-! Nothing is written before a block commits (R144): the memory, table, seed, graft, counter and system instructions. -/

namespace Sys2Proof.Machine

/-! ## Endings that several instructions share -/

section
variable {s t : State} {x : Fx} {h : Hdr}

theorem Harmless.tableFormat {v : Nat} : Harmless s (tableFormat s x v) := .stop

theorem Harmless.tableRange {v : Nat} : Harmless s (tableRange s x v) := .stop

theorem Harmless.holdOp {v : Nat} {reads : List Sect} {e : Option Sect} : Harmless s (holdOp h x v reads e s) := .finish

theorem Harmless.tableOp {v : Nat} {reads : List Sect} {act : Option Pend} {same : Pend → Bool} : Harmless s (tableOp h x v reads act same s) := by
  unfold Machine.tableOp
  split
  · exact .finish
  · split
    · exact .stop
    · exact .finish

theorem Harmless.branchOp {br : Branch} : Harmless s (branchOp h x br s) := .ite .stop .finish

theorem Harmless.storeBytes {a v : Nat} {bs : List Byte} {f : Block → Block} : Harmless s (storeBytes s x h a bs v f) := by
  unfold Machine.storeBytes
  split
  · next stopped => exact .next (tryWords_unwritten stopped)
  · dsimp only
    split
    · exact .stop
    · exact .finish

theorem Harmless.penFinish {old new : List Byte} {ps : List Nat} : Harmless s (penFinish s x h old new ps) := by
  unfold Machine.penFinish
  dsimp only
  split
  · exact .stop
  · exact .finish

theorem Harmless.penOp {k : List Byte → List Nat → Outcome} (rest : ∀ old ps, Harmless s (k old ps)) : Harmless s (penOp s x k) := by
  refine .ite .stopOpen (.frontierOnly ?_)
  split
  · next stopped => exact .next (penRead_unwritten stopped)
  · exact rest _ _

theorem Harmless.orderOp {o : OrdHdr} {nl : Bool} {p : Fx → Pend} : Harmless s (orderOp h o nl s p) := by
  unfold Machine.orderOp
  split
  · exact .stay
  · exact .ite .stopOpen .finish

theorem Harmless.branch0 {f : Block → Branch} : Harmless s (branch0 h s f) := by
  unfold Machine.branch0
  split
  · exact .stay
  · exact .branchOp

/-! ## Memory instructions (R256 to R264) -/

theorem ld_harmless {ty : MemType} {sp : Space} {off : BitVec 23} : Harmless s (execLd h ty sp off s) := by
  unfold execLd
  split
  · exact .stay
  · dsimp only
    split
    · next stopped => exact .next (try_unwritten stopped)
    · exact .of_silent (served_silent ..) .finish

theorem st_harmless {ty : MemType} {sp : Space} {off : BitVec 23} : Harmless s (execSt h ty sp off s) := by
  unfold execSt
  split
  · exact .stay
  · dsimp only
    split
    · next stopped => exact .next (try_unwritten stopped)
    · split
      · exact .stop
      · exact .of_silent (served_silent ..) .finish

theorem ldT_harmless {sp : Space} {off : BitVec 23} : Harmless s (execLdT h sp off s) := by
  unfold execLdT
  split
  · exact .stay
  · split
    · next resolved =>
      refine .of_silent (resolveNow_silent resolved) (.ite .stall ?_)
      split
      · exact .of_silent (served_silent ..) .finish
      · exact .stay
    · next resolved => exact .of_silent (resolveNow_silent resolved) (.ite (.of_silent (leavePage_silent ..) .finish) (.of_silent (needPage_silent ..) .stall))
    · next resolved => exact .of_silent (resolveNow_silent resolved) .stall
    · next resolved => exact .of_silent (resolveNow_silent resolved) .finish

theorem gsave_harmless {first : BitVec 6} {cnt1 : BitVec 4} {sp : Space} {off : BitVec 17} : Harmless s (execGsave h first cnt1 sp off s) := by
  unfold execGsave
  split
  · exact .stay
  · dsimp only
    split
    · next stopped => exact .next (tryWords_unwritten stopped)
    · split
      · exact .stop
      · exact .of_silent (.foldl _ (fun _ _ => served_silent ..) _ _) .finish

theorem servedWords_silent (g a : Nat) (l : List Nat) (s : State) : Silent s (servedWords g a l s) := by
  induction l generalizing a s with
  | nil => exact .refl s
  | cons p _ ih => exact (served_silent s g a p 8).trans (ih _ _)

theorem gload_harmless {first : BitVec 6} {cnt1 : BitVec 4} {sp : Space} {off : BitVec 17} : Harmless s (execGload h first cnt1 sp off s) := by
  unfold execGload
  split
  · exact .stay
  · dsimp only
    split
    · next stopped => exact .next (tryWords_unwritten stopped)
    · split
      · exact .stop
      · exact .of_silent (servedWords_silent ..) .finish

theorem acquire_silent (s : State) (x : Fx) (l : List Point) : Silent s (s.acquire x l) := .of_glades rfl rfl rfl

theorem atomic_harmless {a : AtomHdr} {f : Nat → Nat → Nat → Nat} : Harmless s (atomic h a s f) := by
  unfold atomic
  split
  · exact .stay
  · refine .frontierOnly ?_
    dsimp only
    split
    · next stopped => exact .next (try_unwritten stopped)
    · split
      · exact .stop
      · exact .of_silent ((served_silent ..).trans (acquire_silent ..)) .finish

theorem fence_harmless {order : MemOrder} {scope : Scope} : Harmless s (execFence h order scope s) := by
  unfold execFence
  split
  · exact .stay
  · exact .frontierOnly .finish

/-! ## Counters, penalty counts and usage (R384 to R407) -/

theorem tlRead_harmless {tl : Peer} {item : TlItem} : Harmless s (execTlRead h tl item s) := by
  unfold execTlRead
  split
  · exact .stay
  · exact .ite .stall .finish

theorem tlWaitGe_harmless {tl : Peer} : Harmless s (execTlWaitGe h tl s) := by
  unfold execTlWaitGe
  split
  · exact .stay
  · exact .ite .stall (.of_silent (acquire_silent ..) .finish)

theorem tlWaitLag_harmless {tl : Peer} : Harmless s (execTlWaitLag h tl s) := by
  unfold execTlWaitLag
  split
  · exact .stay
  · exact .ite .stall (.of_silent (acquire_silent ..) .finish)

theorem ccRead_harmless {item : CcItem} : Harmless s (execCcRead h item s) := by
  unfold execCcRead
  split
  · exact .stay
  · refine .ite .stall ?_
    split
    · exact .stop
    · exact .finish

theorem ccWait_harmless : Harmless s (execCcWait h s) := by
  unfold execCcWait
  split
  · exact .stay
  · split
    · exact .stop
    · exact .ite .stall (.of_silent (acquire_silent ..) .finish)

theorem ccAdd_harmless {b : BitVec 2} : Harmless s (execCcAdd h b s) := by
  unfold execCcAdd
  split
  · exact .stay
  · refine .ite .stopOpen (.frontierOnly ?_)
    dsimp only
    split
    · exact .stop
    · exact .ite .stop (.ite .stopOpen .finish)

theorem cancel_harmless {b : Bool} : Harmless s (execCancel h b s) := by
  unfold execCancel
  split
  · exact .stay
  · exact .frontierOnly (.ite .stop .finish)

theorem penBranch_harmless {b : BitVec 2} : Harmless s (execPenBranch h b s) := by
  unfold execPenBranch
  split
  · exact .stay
  · refine .ite .stopOpen (.penOp fun old ps => ?_)
    split
    · next stopped => exact .next (readRange_unwritten stopped)
    · refine .ite .stop (.ite .stop ?_)
      split
      · exact .stop
      · dsimp only
        split
        · next finished => exact .next (.trans (Harmless.penFinish _ finished) (.silent (.modBlock ..)))
        · exact .penFinish

theorem penAccept_harmless {b : BitVec 2} : Harmless s (execPenAccept h b s) := by
  unfold execPenAccept
  split
  · exact .stay
  · refine .ite .stopOpen (.penOp fun old ps => .ite .stop ?_)
    dsimp only
    split
    · exact .stopOpen
    · exact .penFinish

theorem penDrop_harmless {mask : BitVec 4} : Harmless s (execPenDrop h mask s) := by
  unfold execPenDrop
  split
  · exact .stay
  · exact .penOp fun _ _ => .penFinish

theorem signUsage_silent {ctx : Nat} {nonce out : List Byte} (e : s.signUsage ctx nonce = (t, out)) : Silent s t := by
  cases e
  exact .of_glades rfl rfl rfl

theorem useSign_harmless : Harmless s (execUseSign h s) := by
  unfold execUseSign
  split
  · exact .stay
  · refine .ite .stopOpen (.frontierOnly ?_)
    split
    · exact .ite .stall .finish
    · split
      · next stopped => exact .next (readRange_unwritten stopped)
      · refine .ite .stopOpen ?_
        split
        · next stopped => exact .next (tryWords_unwritten stopped)
        · split
          · exact .stop
          · refine .ite .finish ?_
            split
            next signed =>
            refine .of_silent ((signUsage_silent signed).trans (.trans ?_ (.modBlock ..))) .stall
            exact .of_glades rfl rfl rfl

theorem perfRead_harmless : Harmless s (execPerfRead h s) := by
  unfold execPerfRead
  split
  · exact .stay
  · exact .ite .stall (.ite .stop .finish)

theorem lifeRead_harmless : Harmless s (execLifeRead h s) := by
  unfold execLifeRead
  split
  · exact .stay
  · exact .ite .stall (.ite .stop .finish)

/-! ## Control, tasks and the system (R170 to R187) -/

theorem ret_harmless : Harmless s (execRet h s) := by
  unfold execRet
  split
  · exact .stay
  · exact .branchOp

theorem tret_harmless : Harmless s (execTret h s) := by
  unfold execTret
  split
  · exact .stay
  · exact .ite .branchOp .stopOpen

theorem bri_harmless {off : BitVec 18} {last : BitVec 12} : Harmless s (execBri h off last s) := by
  unfold execBri
  split
  · exact .stay
  · refine .ite .stop (.ite .stop ?_)
    split
    · next stopped => exact .next (try_unwritten stopped)
    · exact .ite .stop (.ite .stop .finish)

theorem tskStamp_harmless : Harmless s (execTskStamp h s) := by
  unfold execTskStamp
  split
  · exact .stay
  · exact .finish

theorem tskYieldPhase_harmless : Harmless s (execTskYieldPhase h s) := by
  unfold execTskYieldPhase
  split
  · exact .stay
  · exact .finish

theorem srd_harmless {num : BitVec 12} : Harmless s (execSrd h num s) := by
  unfold execSrd
  split
  · exact .stay
  · split
    · exact .stop
    · split
      · exact .of_silent (.drawn s) .finish
      · exact .finish

theorem swr_harmless {num : BitVec 12} : Harmless s (execSwr h num s) := by
  unfold execSwr
  split
  · exact .stay
  · exact .ite .finish .stop

theorem evsend_harmless {n : BitVec 8} : Harmless s (execEvsend h n s) := by
  unfold execEvsend
  split
  · exact .stay
  · exact .ite .stop .finish

theorem evwait_harmless {n : BitVec 8} : Harmless s (execEvwait h n s) := by
  unfold execEvwait
  split
  · exact .stay
  · exact .ite .stop (.ite .stall .finish)

theorem hwCallSampleKey_harmless {svc : BitVec 12} : Harmless s (execHwCallSampleKey h svc s) := by
  unfold execHwCallSampleKey
  split
  · exact .stay
  · refine .frontierOnly (.ite .stopOpen (.ite .stopOpen ?_))
    split <;> exact .finish

theorem hwCallEntropy_harmless : Harmless s (execHwCallEntropy h s) := by
  unfold execHwCallEntropy
  split
  · exact .stay
  · refine .frontierOnly (.ite .stopOpen ?_)
    split
    · next stopped => exact .next (try_unwritten stopped)
    · dsimp only
      split
      · exact .stop
      · exact .of_silent (t := { s with free := s.free + 4 }) (.of_glades rfl rfl rfl) .finish

theorem testClr_harmless : Harmless s (execTestClr h s) := by
  unfold execTestClr
  split
  · exact .stay
  · exact .finish

theorem ordMode_harmless {o : OrdHdr} {mode : BitVec 16} : Harmless s (execOrdMode h o mode s) := by
  unfold execOrdMode
  split
  · exact .stay
  · exact .ite .stopOpen (.ite .stopOpen .finish)

/-! ## Tables (R318 to R348) -/

theorem arm_harmless : Harmless s (execArm h s) := by
  unfold execArm
  split
  · exact .stay
  · refine .frontierOnly (.ite .tableFormat ?_)
    split
    · next stopped => exact .next (readRange_unwritten stopped)
    · split
      · exact .tableFormat
      · refine .ite .holdOp (.ite .holdOp (.ite .holdOp ?_))
        split
        · exact .holdOp
        · refine .ite .stall ?_
          split
          · next stopped => exact .next (readRange_unwritten stopped)
          · split
            · next loaded => exact .of_silent (armImages_silent loaded) .stall
            · next loaded => exact .of_silent (armImages_silent loaded) .holdOp
            · next loaded => exact .of_silent (armImages_silent loaded) .tableOp

theorem disarm_harmless : Harmless s (execDisarm h s) := by
  unfold execDisarm
  split
  · exact .stay
  · exact .frontierOnly (.ite .tableFormat (.ite .stall .tableOp))

theorem rteSet_harmless : Harmless s (execRteSet h s) := by
  unfold execRteSet
  split
  · exact .stay
  · refine .ite .tableFormat (.ite .tableFormat ?_)
    dsimp only
    split
    · exact .tableOp
    · exact .ite .tableOp (.ite .tableOp (.ite .tableOp .tableOp))

theorem rillSet_harmless : Harmless s (execRillSet h s) := by
  unfold execRillSet
  split
  · exact .stay
  · exact .frontierOnly (.ite .tableFormat (.ite .tableFormat (.ite .tableOp .tableOp)))

theorem rillGet_harmless {f : RillFn} : Harmless s (execRillGet h f s) := by
  unfold execRillGet
  split
  · exact .stay
  · refine .ite .tableFormat ?_
    dsimp only
    split
    · exact .tableOp
    · exact .tableOp
    · exact .of_silent (acquire_silent ..) .finish

theorem rillReset_harmless : Harmless s (execRillReset h s) := by
  unfold execRillReset
  split
  · exact .stay
  · exact .ite .tableFormat .tableOp

theorem tagLookLookup_harmless : Harmless s (execTagLookLookup h s) := by
  unfold execTagLookLookup
  split
  · exact .stay
  · refine .ite .tableFormat (.ite .tableRange ?_)
    split
    next resolved =>
    refine .of_silent (resolveNow_silent resolved) (.ite .stall (.ite (.of_silent (needPage_silent ..) .stall) ?_))
    refine .of_silent ?_ .tableOp
    exact .ite (leavePage_silent ..) (.refl _)

theorem tagLookRead_harmless : Harmless s (execTagLookRead h s) := by
  unfold execTagLookRead
  split
  · exact .stay
  · exact .ite .tableRange .tableOp

theorem tagSetOp_harmless {sect : Bool} : Harmless s (tagSetOp h sect s) := by
  unfold tagSetOp
  split
  · exact .stay
  · exact .frontierOnly (.ite .tableRange (.ite .stall (.ite (.ite .tableOp .tableOp) (.ite .tableFormat (.ite .tableOp (.ite .tableOp .tableOp))))))

theorem tagInv_harmless : Harmless s (execTagInv h s) := by
  unfold execTagInv
  split
  · exact .stay
  · exact .frontierOnly (.ite .tableRange (.ite .stall .tableOp))

theorem slotRes_harmless : Harmless s (execSlotRes h s) := by
  unfold execSlotRes
  split
  · exact .stay
  · refine .frontierOnly (.ite .tableFormat (.ite .tableFormat ?_))
    split
    · exact .tableOp
    · refine .ite ?_ (.ite .stall (.silent (ask_silent ..)))
      split
      · exact .stop
      · split
        next reserved =>
        dsimp only
        split
        · exact .of_silent ((reserveHome_silent reserved).trans (.modBlock ..)) .tableOp
        · exact .silent ((reserveHome_silent reserved).trans (.modBlock ..))

theorem slotRelRelease_harmless : Harmless s (execSlotRelRelease h s) := by
  unfold execSlotRelRelease
  split
  · exact .stay
  · refine .frontierOnly (.ite .tableFormat ?_)
    split
    · exact .tableOp
    · refine .ite (.ite .tableOp ?_) (.ite .stall (.silent (ask_silent ..)))
      split
      · exact .stop
      · dsimp only
        split
        · exact .of_silent ((holdKey_silent ..).trans (.modBlock ..)) .tableOp
        · exact .silent ((holdKey_silent ..).trans (.modBlock ..))

theorem slotRelDone_harmless : Harmless s (execSlotRelDone h s) := by
  unfold execSlotRelDone
  split
  · exact .stay
  · exact .ite .tableFormat (.ite .stall (.ite .tableOp .tableOp))

theorem slotQry_harmless {f : SlotFn} : Harmless s (execSlotQry h f s) := by
  unfold execSlotQry
  split
  · exact .stay
  · exact .ite .tableFormat .tableOp

theorem tslotSet_harmless : Harmless s (execTslotSet h s) := by
  unfold execTslotSet
  split
  · exact .stay
  · exact .ite .tableFormat (.ite .tableFormat .tableOp)

theorem placePart_harmless : Harmless s (execPlacePart h s) := by
  unfold execPlacePart
  split
  · exact .stay
  · exact .ite .tableFormat .tableOp

theorem placeHealth_harmless : Harmless s (execPlaceHealth h s) := by
  unfold execPlaceHealth
  split
  · exact .stay
  · exact .ite .tableFormat .tableOp

theorem placeBusy_harmless : Harmless s (execPlaceBusy h s) := by
  unfold execPlaceBusy
  split
  · exact .stay
  · exact .ite .tableFormat .tableOp

theorem placeFit_harmless : Harmless s (execPlaceFit h s) := by
  unfold execPlaceFit
  split
  · exact .stay
  · refine .ite .tableFormat ?_
    split
    · next stopped => exact .next (readRange_unwritten stopped)
    · split
      · exact .tableFormat
      · exact .tableOp

/-! ## Seed banks (R363 to R370) -/

theorem bankIn_silent (s : State) (d k : Nat) : Silent s (s.bankIn d k) := .ite (.refl s) (.of_glades rfl rfl rfl)

theorem touchBank_silent (s : State) (d k : Nat) : Silent s (s.touchBank d k) := .ite (.refl s) (.ite (.of_glades rfl rfl rfl) (.drawn s))

theorem Harmless.seedOp {onBroken : Bool} {v : Nat} {k : Nat → Seed → State → Outcome} (rest : ∀ i b t, Harmless t (k i b t)) : Harmless s (seedOp h x s onBroken v k) :=
  .frontierOnly (.ite .tableFormat (.ite .tableOp (.ite .stall (.ite .stop (.ite .stall (.of_silent (bankIn_silent ..) (rest _ _ _)))))))

theorem seedOpen_harmless : Harmless s (execSeedOpen h s) := by
  unfold execSeedOpen
  split
  · exact .stay
  · refine .frontierOnly (.ite .tableFormat ?_)
    split
    · next stopped => exact .next (readRange_unwritten stopped)
    · split
      · exact .tableFormat
      · refine .ite .stall (.ite .finish (.ite .finish ?_))
        split
        · exact .finish
        · exact .tableOp

theorem seedAppend_harmless : Harmless s (execSeedAppend h s) := by
  unfold execSeedAppend
  split
  · exact .stay
  · exact .ite .tableFormat (.seedOp fun _ _ _ => .tableOp)

theorem seedDraft_harmless {lmin : BitVec 5} {bmax1 : BitVec 2} {dmax1 : BitVec 4} : Harmless s (execSeedDraft h lmin bmax1 dmax1 s) := by
  unfold execSeedDraft
  split
  · exact .stay
  · refine .ite .tableFormat (.ite .tableFormat ?_)
    split
    · exact .tableOp
    · exact .ite .stop (.ite .stall (.of_silent ((bankIn_silent ..).trans (touchBank_silent ..)) .storeBytes))

theorem seedSave_harmless : Harmless s (execSeedSave h s) := by
  unfold execSeedSave
  split
  · exact .stay
  · exact .ite .tableFormat (.seedOp fun _ _ _ => .storeBytes)

theorem seedLoad_harmless : Harmless s (execSeedLoad h s) := by
  unfold execSeedLoad
  split
  · exact .stay
  · refine .ite .tableFormat (.seedOp fun _ _ _ => ?_)
    split
    · next stopped => exact .next (readRange_unwritten stopped)
    · dsimp only
      split
      · exact .stop
      · split
        · next stopped => exact .next (readRange_unwritten stopped)
        · split
          · exact .stop
          · exact .ite .tableOp (.ite .tableOp .tableOp)

theorem seedTrim_harmless : Harmless s (execSeedTrim h s) := by
  unfold execSeedTrim
  split
  · exact .stay
  · exact .seedOp fun _ _ _ => .ite .tableOp .tableOp

theorem seedClose_harmless : Harmless s (execSeedClose h s) := by
  unfold execSeedClose
  split
  · exact .stay
  · exact .seedOp fun _ _ _ => .tableOp

/-! ## Grafts (R377 to R381) -/

theorem modGraft_silent (s : State) (e : Nat) (f : Graft → Graft) : Silent s (s.modGraft e f) := .of_glades rfl rfl rfl

theorem markVictims_silent (s : State) (v : List Nat) : Silent s (s.markVictims v) := .foldl _ (fun _ _ => modGraft_silent ..) v s

theorem placeFetch_silent (s : State) (g e : Nat) : Silent s (s.placeFetch g e) := by
  refine .ite (.refl s) ?_
  split
  · exact .refl s
  · exact (markVictims_silent ..).trans (modGraft_silent ..)

theorem startFetch_silent (s : State) (g e : Nat) (f : Graft → Graft) : Silent s (s.startFetch g e f) := (modGraft_silent ..).trans (placeFetch_silent ..)

theorem graftFetch_harmless : Harmless s (execGraftFetch h s) := by
  unfold execGraftFetch
  split
  · exact .stay
  · refine .frontierOnly (.ite .tableFormat (.ite .tableFormat ?_))
    split
    · next stopped => exact .next (readRange_unwritten stopped)
    · split
      · exact .tableFormat
      · dsimp only
        split
        · exact .tableOp
        · exact .ite .stall (.ite .tableOp .holdOp)

theorem graftPin_harmless : Harmless s (execGraftPin h s) := by
  unfold execGraftPin
  split
  · exact .stay
  · refine .frontierOnly (.ite .tableFormat ?_)
    dsimp only
    split
    · exact .tableOp
    · refine .ite .stall ?_
      split
      · exact .tableOp
      · exact .of_silent (.ite (startFetch_silent ..) (.refl s)) .stop
      · exact .stop
      · exact .ite .tableOp (.of_silent (acquire_silent ..) .tableOp)

theorem graftUnpin_harmless : Harmless s (execGraftUnpin h s) := by
  unfold execGraftUnpin
  split
  · exact .stay
  · refine .frontierOnly (.ite .tableFormat ?_)
    dsimp only
    split
    · exact .tableOp
    · exact .ite .stall (.ite .tableOp .tableOp)

theorem graftQryState_harmless : Harmless s (execGraftQryState h s) := by
  unfold execGraftQryState
  split
  · exact .stay
  · refine .ite .tableFormat ?_
    split <;> exact .tableOp

theorem graftQryFind_harmless : Harmless s (execGraftQryFind h s) := by
  unfold execGraftQryFind
  split
  · exact .stay
  · refine .ite .tableFormat ?_
    split
    · next stopped => exact .next (readRange_unwritten stopped)
    · dsimp only
      split <;> exact .tableOp

end

end Sys2Proof.Machine
end

section
/-! An element operation changes no byte of memory, no register and no predicate (R144, R190 to R230). -/

namespace Sys2Proof.Machine

theorem Calm.ite {c : Prop} [Decidable c] {s t u : State} (yes : Calm s t) (no : Calm s u) : Calm s (if c then t else u) :=
  iteInduction (motive := Calm s) (fun _ => yes) fun _ => no

theorem Calm.modEng (s : State) (g : Nat) (f : Engines → Engines) : Calm s (s.modEng g f) := Same.modEng s g f

theorem Calm.foldl {α : Type} (f : State → α → State) (hf : ∀ s x, Calm s (f s x)) (l : List α) (s : State) : Calm s (l.foldl f s) := by
  induction l generalizing s with
  | nil => exact .refl s
  | cons x _ ih => exact (hf s x).trans (ih _)

/-! ## The shared operations of the elements -/

theorem drawn_calm (s : State) : Calm s s.drawn := (Silent.drawn s).same

theorem faultCycOpen_calm (s : State) (cause : Nat) : Calm s (s.faultCycOpen cause) := (drawn_calm s).trans (faultCyc_calm ..)

theorem laneEmpty_calm (s : State) (v : Nat) : Calm s (s.laneEmpty v) := .ite (Calm.modCyc ..) (faultCyc_calm ..)

theorem receive_calm (s : State) (vs : List Val) (l : List Nat) : Calm s (s.receive_ vs l) := .ite (.refl s) (Calm.modCyc ..)

theorem resultA_calm (s : State) (lam : Nat) (d : Dest) (a : Val) (reads : List Val) : Calm s (s.resultA lam d a reads) := (result_calm ..).trans (mism_calm ..)

theorem draw_calm (s : State) (n : Nat) : Calm s (s.draw n).1 := by
  induction n generalizing s with
  | zero => exact .refl s
  | succ n ih =>
    unfold State.draw
    split
    · exact faultCycOpen_calm ..
    · dsimp only
      split
      · exact faultCycOpen_calm ..
      · have rest := (Calm.modElemF s Elem.drawn).trans (ih _)
        split <;> next drew => rwa [drew] at rest

theorem draw_calm_of_eq {s t : State} {n : Nat} {r : Option (List Nat)} (e : s.draw n = (t, r)) : Calm s t := by
  have drew := draw_calm s n
  rwa [e] at drew

theorem convert_calm (s : State) (lam : Nat) (d : Dest) (reads : List Val) (n : Nat) (f : Rm → Sat → List Nat → Word) : Calm s (s.convert lam d reads n f) := by
  unfold State.convert
  dsimp only
  split
  · next drew => exact (draw_calm_of_eq drew).trans (resultG_calm ..)
  · next drew => exact draw_calm_of_eq drew

theorem agRequest_calm (s : State) (a n : Nat) (kind : AgKind) (w : Word) (tag : Val) : Calm s (s.agRequest a n kind w tag) := by
  refine .ite (holdCyc_calm s) ?_
  split
  · exact (served_silent ..).same.trans (Calm.modElemF ..)
  · exact faultCyc_calm ..
  · split
    · exact (Silent.modGlade s _ _).same.trans (faultCyc_calm ..)
    · exact (startWalk_silent ..).same.trans (holdCyc_calm _)
  · exact .ite ((leavePage_silent ..).same.trans (faultCyc_calm ..)) ((needPage_silent ..).same.trans (holdCyc_calm _))

theorem agAddress_calm (s : State) (d : Dest) (w : Word) (reads : List Val) : Calm s (s.agAddress d w reads) := (result_calm ..).trans (mism_calm ..)

theorem reduce_calm (s : State) (op : RedOp) (lam : Nat) (d : Dest) (msk : Bool) : Calm s (s.reduce op lam d msk) := by
  unfold State.reduce
  extract_lets _ _ _ _ _ _ _ _ _ u
  refine .trans (t := u) ((Calm.modStemF s _).trans (mism_calm ..)) (.ite ?_ (.refl u))
  split
  · exact (result_calm ..).trans (result_calm ..)
  · exact result_calm ..

theorem join_calm (s : State) (op : JoinOp) (wide : Bool) (lv : BitVec 4) (d : Dest) : Calm s (s.join op wide lv d) := by
  unfold State.join
  split
  · exact result_calm ..
  · exact .ite (holdCyc_calm s) ((Calm.modElemF ..).trans ((result_calm ..).trans (mism_calm ..)))

theorem bndRelease_calm (s : State) (g id : Nat) : Calm s (s.bndRelease g id) := .trans (t := s.flow _ _) ⟨rfl, fun _ => ⟨rfl, rfl⟩⟩ (.foldl _ (fun _ _ => Calm.modTh ..) _ _)

/-! ## Outcomes -/

/-- Whatever state an outcome leads to has the same memory, registers and predicates. -/
def Quiet (s : State) (o : Outcome) : Prop := ∀ t, o = .next t → Calm s t

section
variable {s t : State} {d : Dest} {o o' : Outcome} {c : Prop} [Decidable c]

theorem Quiet.next (calm : Calm s t) : Quiet s (.next t) := by
  rintro _ ⟨⟩
  exact calm

theorem Quiet.ite (yes : Quiet s o) (no : Quiet s o') : Quiet s (if c then o else o') := iteInduction (motive := Quiet s) (fun _ => yes) fun _ => no

theorem butterfly_calm (reads : List Val) (v w : Word) : Calm s ((s.resultG 6 d reads v).result 7 d (mkG reads w)) := (resultG_calm ..).trans (result_calm ..)

theorem passThru_quiet : Quiet s (execPassThru s) := by
  unfold execPassThru
  split
  · exact .next (resultA_calm ..)
  · exact .next (.refl s)

theorem counted_calm (v : Val) (f : Elem → Elem) (n : Nat) : Calm s (((s.result 1 d v).modElemF f).mism n) := (result_calm ..).trans ((Calm.modElemF ..).trans (mism_calm ..))

theorem agCnt_quiet {n : BitVec 12} : Quiet s (execAgCnt d n s) := .next (counted_calm ..)

theorem agLink_quiet {l : BitVec 4} {n : BitVec 8} : Quiet s (execAgLink d l n s) := .ite (.next ((result_calm ..).trans (mism_calm ..))) (.next (counted_calm ..))

/-- An address delivered, and its request where the operands are valid (R212). -/
theorem agAccess_calm (w : Word) (reads : List Val) (a n : Nat) (kind : AgKind) (operand : Word) (tag : Val) :
    Calm s (if c then (s.agAddress d w reads).agRequest a n kind operand tag else s.agAddress d w reads) :=
  .ite ((agAddress_calm ..).trans (agRequest_calm ..)) (agAddress_calm ..)

theorem sampStep_quiet {f : BitVec 6} : Quiet s (execSampStep d f s) := by
  refine .ite (.next (resultG_calm ..)) (.ite (.next (faultCycOpen_calm ..)) ?_)
  split
  · next drew => exact .next ((draw_calm_of_eq drew).trans ((Calm.modElemF ..).trans (resultG_calm ..)))
  · next drew => exact .next (draw_calm_of_eq drew)

theorem sampEmit_quiet {clr : Bool} : Quiet s (execSampEmit d clr s) := .next ((Calm.ite (Calm.modElemF ..) (.refl s)).trans (result_calm ..))

theorem rng_quiet : Quiet s (execRng d s) := by
  unfold execRng
  split
  · next drew => exact .next ((draw_calm_of_eq drew).trans (result_calm ..))
  · next drew => exact .next (draw_calm_of_eq drew)

theorem bndRel_quiet (ty : ElemType) : Quiet s (execBndRel d ty s) :=
  .next ((mism_calm ..).trans (.ite (.refl _) ((drawn_calm _).trans ((bndRelease_calm ..).trans (Calm.modElemF ..)))))

theorem resChk_quiet (ty : ElemType) {flt : Bool} : Quiet s (execResChk d ty flt s) := .next ((mism_calm ..).trans (.ite (faultCyc_calm ..) (result_calm ..)))

theorem seqTag_quiet (ty : ElemType) : Quiet s (execSeqTag d ty s) :=
  have dropped : Quiet s (.next ((s.result 1 d (Val.idle 0 false)).mism (mismG [s.lineA]))) := .next ((result_calm ..).trans (mism_calm ..))
  .ite (.next (resultA_calm ..)) (.ite dropped (.ite (.next ((resultA_calm ..).trans (Calm.modElemF ..))) (.ite dropped (.next (faultCyc_calm ..)))))

theorem rillIn_quiet (ty : ElemType) {r : BitVec 5} : Quiet s (execRillIn d ty r s) := by
  refine .ite (.next (faultCyc_calm ..)) ?_
  split
  · exact .next ((Calm.modEng ..).trans ((receive_calm ..).trans ((result_calm ..).trans (mism_calm ..))))
  · exact .next (laneEmpty_calm ..)

theorem rillOut_quiet (ty : ElemType) {r : BitVec 5} : Quiet s (execRillOut d ty r s) := by
  refine .ite (.next (resultA_calm ..)) (.ite (.next ((Calm.modCyc ..).trans (resultA_calm ..))) ?_)
  split
  · exact .next (faultCyc_calm ..)
  · exact .ite (.next ((holdCyc_calm s).trans (Calm.modCyc ..))) (.next ((Calm.modEng ..).trans ((Calm.modCyc ..).trans (resultA_calm ..))))

end

/-- Every element operation is quiet (R190 to R230). -/
theorem op_quiet (i : Instr) (s : State) (op : (encodeOp i).isSome = true) : Quiet s (exec i s) := by
  cases i with
  | fadd | fsub | fmul | fma | fnma | fmin | fmax | fmod | fcmp | fsel | fclamp | fscale | imulh | iand | ior | ixor | ishl | ishr | isar | imin | imax | icmp | isel | mmul | madd | msub =>
    exact .next (resultG_calm ..)
  | frnd | cvtF32Bf16 | cvtBf16F32 | cvtF32E4m3 | cvtE4m3F32 | cvtE2m1F32 | cvtIf => exact .next (convert_calm ..)
  | iadd | isub => exact .next (resultP_calm ..)
  | imul => exact .next (.ite (resultP_calm ..) (resultG_calm ..))
  | bfly | ibfly => exact .next (butterfly_calm ..)
  | pass => exact .next (resultA_calm ..)
  | passThru => exact passThru_quiet
  | hold => exact .next (.ite (resultA_calm ..) (mism_calm ..))
  | const => exact .next (result_calm ..)
  | agCnt => exact agCnt_quiet
  | agLink => exact agLink_quiet
  | agLd | agSt | agGath | agScat | agAtom => exact .next (agAccess_calm ..)
  | redFadd | redFmax | redIadd | redArgmax | redSmerge => exact .next (reduce_calm ..)
  | joinIsect | joinUnion | joinMerge => exact .next (join_calm ..)
  | sampInit => exact .next ((Calm.modElemF ..).trans (result_calm ..))
  | sampStep => exact sampStep_quiet
  | sampEmit => exact sampEmit_quiet
  | rng => exact rng_quiet
  | exp2 | log2 | rcp | rsqrt | sqrt | tanh | erf => exact .next (fernResult_calm ..)
  | bndRel _ ty => exact bndRel_quiet ty
  | resChk _ ty => exact resChk_quiet ty
  | seqTag _ ty => exact seqTag_quiet ty
  | rillIn _ ty => exact rillIn_quiet ty
  | rillOut _ ty => exact rillOut_quiet ty
  | _ => cases op

end Sys2Proof.Machine
end

section
/-! Nothing changes before commit (R144), for every woodward word and every element operation. -/

namespace Sys2Proof.Machine

/-- Every woodward word is harmless (R112 to R187, R256 to R264, R284 to R407). -/
theorem word_harmless (i : Instr) (s : State) (word : (encodeWord i).isSome = true) : Harmless s (exec i s) := by
  cases i with
  | add | sub | mul | mulhS | mulhZ | divS | divZ | remS | remZ | and | or | xor | andn | shl | shr | sar | rol | minS | minZ | maxS | maxZ | bins =>
    unfold exec
    exact alu2_onlyBlock.harmless
  | addi | not | clz | ctz | popc | sext | zext | bext | movhi | mov | cvtaTo | cvtaFrom | isspace | lea =>
    unfold exec
    exact alu1_onlyBlock.harmless
  | movi | rdg | land | aperq | tskYield =>
    unfold exec
    exact alu0_onlyBlock.harmless
  | sel => exact sel_onlyBlock.harmless
  | cmpEq | cmpNe | cmpLtS | cmpLtZ | cmpLeS | cmpLeZ | test | qand | qor => exact compare_onlyBlock.harmless
  | maddM | msubM | mmulM | mred =>
    unfold exec
    exact modular_onlyBlock.harmless
  | wrg => exact wrg_onlyBlock.harmless
  | nullReg => exact nullReg_onlyBlock.harmless
  | nullEffect => exact nullEffect_onlyBlock.harmless
  | tskQuery => exact tskQuery_onlyBlock.harmless
  | br | call | halt | bkpt | trap =>
    unfold exec
    exact .branch0
  | bri => exact bri_harmless
  | ret => exact ret_harmless
  | tret => exact tret_harmless
  | ld => exact ld_harmless
  | st => exact st_harmless
  | ldT => exact ldT_harmless
  | gsave => exact gsave_harmless
  | gload => exact gload_harmless
  | atomAdd | atomMinmax | atomBit | atomXchg | atomCas =>
    unfold exec
    exact atomic_harmless
  | fence => exact fence_harmless
  | tskStamp => exact tskStamp_harmless
  | tskYieldPhase => exact tskYieldPhase_harmless
  | ordStand | ordStandx | ordRaft | ordRaftx | ordRun | ordRunx | ordWload | ordLink | ordToken | ordSteer | ordBough =>
    unfold exec
    exact .orderOp
  | ordMode => exact ordMode_harmless
  | arm => exact arm_harmless
  | disarm => exact disarm_harmless
  | rteSet => exact rteSet_harmless
  | rillSet => exact rillSet_harmless
  | rillGet => exact rillGet_harmless
  | rillReset => exact rillReset_harmless
  | tagLookLookup => exact tagLookLookup_harmless
  | tagLookRead => exact tagLookRead_harmless
  | tagSet | tagSetSect => exact tagSetOp_harmless
  | tagInv => exact tagInv_harmless
  | slotRes => exact slotRes_harmless
  | slotRelRelease => exact slotRelRelease_harmless
  | slotRelDone => exact slotRelDone_harmless
  | slotQry => exact slotQry_harmless
  | tslotSet => exact tslotSet_harmless
  | placePart => exact placePart_harmless
  | placeHealth => exact placeHealth_harmless
  | placeBusy => exact placeBusy_harmless
  | placeFit => exact placeFit_harmless
  | seedOpen => exact seedOpen_harmless
  | seedAppend => exact seedAppend_harmless
  | seedDraft => exact seedDraft_harmless
  | seedSave => exact seedSave_harmless
  | seedLoad => exact seedLoad_harmless
  | seedTrim => exact seedTrim_harmless
  | seedClose => exact seedClose_harmless
  | graftFetch => exact graftFetch_harmless
  | graftPin => exact graftPin_harmless
  | graftUnpin => exact graftUnpin_harmless
  | graftQryState => exact graftQryState_harmless
  | graftQryFind => exact graftQryFind_harmless
  | tlRead => exact tlRead_harmless
  | tlWaitGe => exact tlWaitGe_harmless
  | tlWaitLag => exact tlWaitLag_harmless
  | ccRead => exact ccRead_harmless
  | ccWait => exact ccWait_harmless
  | ccAdd => exact ccAdd_harmless
  | cancel => exact cancel_harmless
  | penBranch => exact penBranch_harmless
  | penAccept => exact penAccept_harmless
  | penDrop => exact penDrop_harmless
  | useSign => exact useSign_harmless
  | perfRead => exact perfRead_harmless
  | lifeRead => exact lifeRead_harmless
  | srd => exact srd_harmless
  | swr => exact swr_harmless
  | evsend => exact evsend_harmless
  | evwait => exact evwait_harmless
  | hwCallSampleKey => exact hwCallSampleKey_harmless
  | hwCallEntropy => exact hwCallEntropy_harmless
  | testClr => exact testClr_harmless
  | _ => cases word

/-- Settles O56: a word is harmless (`word_harmless`), and what no fault queue holds includes all below the hosts' memory; an element operation is quiet (`op_quiet`). -/
theorem nothingChangesBeforeCommit : Obligations.NothingChangesBeforeCommit := by
  intro i s t done
  refine ⟨fun word safe => ?_, fun op => op_quiet i s op t done⟩
  obtain ⟨regs, -, bytes⟩ := word_harmless i s word t done
  have outside := (bytes safe).2
  refine ⟨fun a below => outside a fun queue => ?_, fun a out => outside a fun ⟨f, queue⟩ => out f queue, regs⟩
  exact Nat.not_le_of_lt below (le_of_inFaultQueue queue)

end Sys2Proof.Machine
end

section
/-! The one-operand and two-operand instructions deliver what their function gives (R112, R114); the modular instructions (R166). -/

namespace Sys2Proof.Machine

section
variable {s : State} {h : Hdr} {x : Fx}

theorem alu2_delivers (issues : s.fx h true true = some x) (fits : x.fits h 0) {v : Word} (f : Word → Word → Word) (value : f x.l x.r = v) :
    alu2 h s f = .next (s.executed x h v 0 id) := by
  rw [alu2, issues, ← value]
  exact finish_fits s x h _ 0 id fits .id

theorem alu1_delivers (issues : s.fx h true false = some x) (fits : x.fits h 0) {v : Word} (f : Word → Word) (value : f x.l = v) :
    alu1 h s f = .next (s.executed x h v 0 id) := by
  rw [alu1, issues, ← value]
  exact finish_fits s x h _ 0 id fits .id

/-! ## Modular arithmetic (R166) -/

theorem modulus_of_valid {w : Woodward} {m : Nat} (valid : w.mqstat.getLsbD m = true) : w.modulus m = some (nget 0 w.mqQ m).toNat := if_pos valid

theorem modulus_of_invalid {w : Woodward} {m : Nat} (invalid : w.mqstat.getLsbD m = false) : w.modulus m = none := by simp [Woodward.modulus, invalid]

theorem modular_delivers {nr : Bool} {m : BitVec 4} (issues : s.fx h true nr = some x) (fits : x.fits h 0) (valid : (s.ww x.g).mqstat.getLsbD m.toNat = true)
    (f : Word → Word → Int) :
    modular h m nr s f = .next (s.executed x h (BitVec.ofNat 64 (f x.l x.r % (nget 0 (s.ww x.g).mqQ m.toNat).toNat).toNat) 0 id) := by
  rw [modular, issues]
  dsimp only
  rw [modulus_of_valid valid]
  exact finish_fits s x h _ 0 id fits .id

theorem modular_invalid {nr : Bool} {m : BitVec 4} (issues : s.fx h true nr = some x) (invalid : (s.ww x.g).mqstat.getLsbD m.toNat = false) (f : Word → Word → Int) :
    modular h m nr s f = .next (s.blockFault x.g 0x015 m.toNat) := by
  rw [modular, issues]
  dsimp only
  rw [modulus_of_invalid invalid]
  rfl

/-- A residue that fits a word is the word's value. -/
theorem toNat_residue (a : Int) {q : Word} (positive : 0 < q.toNat) : ((BitVec.ofNat 64 (a % q.toNat).toNat).toNat : Int) = a % q.toNat := by
  have low : 0 ≤ a % q.toNat := Int.emod_nonneg a (by omega)
  have high : a % q.toNat < q.toNat := Int.emod_lt_of_pos a (by omega)
  have := q.isLt
  rw [BitVec.toNat_ofNat, Nat.mod_eq_of_lt (by omega)]
  omega

end

/-- Settles O3: a modular instruction delivers its exact result's residue (`modular_delivers`), or faults (`modular_invalid`). -/
theorem modularResults : Obligations.ModularResults := by
  intro s h x m
  refine ⟨fun issues fits ok positive => ?_, fun issues fits ok positive => ?_, fun issues invalid => ?_, fun issues invalid => modular_invalid issues invalid fun l _ => (l.toNat : Int)⟩
  · have delivers := modular_delivers issues fits ok
    refine ⟨delivers fun l r => (l.toNat : Int) + r.toNat, delivers fun l r => (l.toNat : Int) * r.toNat, _, delivers fun l r => (l.toNat : Int) - r.toNat, ?_, ?_⟩
    · have residue := toNat_residue ((x.l.toNat : Int) - x.r.toNat) positive
      have := Int.emod_lt_of_pos ((x.l.toNat : Int) - x.r.toNat) (b := (nget 0 (s.ww x.g).mqQ m.toNat).toNat) (by omega)
      omega
    · zify
      rw [toNat_residue _ positive, Int.emod_add_emod, Int.sub_add_cancel]
  · exact modular_delivers issues fits ok fun l _ => (l.toNat : Int)
  · simp only [List.forall_mem_cons]
    have faults := modular_invalid issues invalid
    exact ⟨faults fun l r => (l.toNat : Int) + r.toNat, faults fun l r => (l.toNat : Int) - r.toNat, faults fun l r => (l.toNat : Int) * r.toNat, fun _ none => nomatch none⟩

end Sys2Proof.Machine
end

section
/-! Address conversion (R175, R176): the windows as the rules write them. -/

namespace Sys2Proof.Machine

theorem noneW_eq : noneW = BitVec.ofNat 64 (2 ^ 64 - 1) := rfl

theorem inWindow_eq (base size a : Nat) : inWindow base size a = decide (base ≤ a ∧ a < base + size) := by simp [inWindow]

theorem canonical_iff (a : Nat) : canonical a = true ↔ a < 2 ^ 56 ∨ inWindow (spBase .loc) (spSize .loc) a = true ∨ inWindow (spBase .shr) (spSize .shr) a = true
    ∨ inWindow (spBase .clu) (spSize .clu) a = true := by
  simp [canonical, spBase, spSize, or_assoc]

theorem cvtaFrom_gl (l : Word) : cvtaFrom .gl l = if l.toNat < 2 ^ 56 then l else noneW := by simp [cvtaFrom, spBase, spSize]

/-- A space other than GL and GEN, which has a window of its own (R175). -/
def Space.windowed (sp : Space) : Prop := sp = .loc ∨ sp = .shr ∨ sp = .clu

section
variable {sp : Space} (windowed : Space.windowed sp) (l : Word)
include windowed

theorem cvtaTo_windowed : cvtaTo sp l = if spBase sp ≤ l.toNat ∧ l.toNat < spBase sp + spSize sp then BitVec.ofNat 64 (l.toNat - spBase sp) else noneW := by
  rcases windowed with rfl | rfl | rfl <;> simp [cvtaTo, inWindow_eq]

theorem cvtaFrom_windowed : cvtaFrom sp l = if l.toNat < spSize sp then BitVec.ofNat 64 (spBase sp + l.toNat) else noneW := by
  rcases windowed with rfl | rfl | rfl <;> rfl

theorem isSpace_windowed : isSpace sp l = if spBase sp ≤ l.toNat ∧ l.toNat < spBase sp + spSize sp then 1 else 0 := by
  rcases windowed with rfl | rfl | rfl <;> simp [isSpace, inWindow_eq, b2w]

theorem leaW_windowed (off : BitVec 23) : leaW sp off l = cvtaFrom sp (l + off.signExtend 64) := by
  rcases windowed with rfl | rfl | rfl <;> rfl

end

section
variable {s : State} {h : Hdr} {x : Fx}

/-- What the four conversions deliver for a window (R176). -/
theorem window_delivers (issues : s.fx h true false = some x) (fits : x.fits h 0) {sp : Space} (windowed : Space.windowed sp) :
    Delivers (.cvtaTo h sp) s x h (if spBase sp ≤ x.l.toNat ∧ x.l.toNat < spBase sp + spSize sp then BitVec.ofNat 64 (x.l.toNat - spBase sp) else noneW)
    ∧ Delivers (.cvtaFrom h sp) s x h (if x.l.toNat < spSize sp then BitVec.ofNat 64 (spBase sp + x.l.toNat) else noneW)
    ∧ Delivers (.isspace h sp) s x h (if spBase sp ≤ x.l.toNat ∧ x.l.toNat < spBase sp + spSize sp then 1 else 0)
    ∧ ∀ off : BitVec 23, Delivers (.lea h sp off) s x h
        (if (x.l + off.signExtend 64).toNat < spSize sp then BitVec.ofNat 64 (spBase sp + (x.l + off.signExtend 64).toNat) else noneW) :=
  ⟨alu1_delivers issues fits (cvtaTo sp) (cvtaTo_windowed windowed x.l), alu1_delivers issues fits (cvtaFrom sp) (cvtaFrom_windowed windowed x.l),
    alu1_delivers issues fits (isSpace sp) (isSpace_windowed windowed x.l),
    fun off => alu1_delivers issues fits (leaW sp off) ((leaW_windowed windowed x.l off).trans (cvtaFrom_windowed windowed _))⟩

end

/-- Settles O4: each conversion delivers its function of L (`alu1_delivers`), which the windows of R175 decide. -/
theorem addressConversion : Obligations.AddressConversion := by
  refine ⟨fun s h x issues fits => ?_, fun s h x issues fits => ⟨?_, ?_, ?_, ?_, ?_, fun off => ⟨?_, ?_⟩⟩⟩
  · have delivers (sp : Space) : Delivers (.aperq h sp) s x h (aperq sp) := alu0_delivers issues fits fun _ => aperq sp
    exact ⟨delivers .loc, delivers .shr, delivers .clu, delivers .gl, delivers .gen⟩
  · simp only [List.forall_mem_cons]
    exact ⟨window_delivers issues fits (.inl rfl), window_delivers issues fits (.inr (.inl rfl)), window_delivers issues fits (.inr (.inr rfl)), fun _ none => nomatch none⟩
  · have canon : canonical x.l.toNat = true ↔ (x.l.toNat < 2 ^ 56 ∨ ∃ w ∈ [(Space.loc, 0xFF00000000000000, 0x00100000), (.shr, 0xFF00000100000000, 0x0C000000), (.clu, 0xFF00000200000000, 0x08000000)],
        w.2.1 ≤ x.l.toNat ∧ x.l.toNat < w.2.1 + w.2.2) := by
      simp [canonical_iff, inWindow_eq, spBase, spSize]
    refine ⟨alu1_delivers issues fits (cvtaTo .gl) ?_, alu1_delivers issues fits (cvtaTo .gen) ?_, alu1_delivers issues fits (isSpace .gen) ?_⟩
    · simp only [cvtaTo, canon, noneW_eq]
    · simp only [cvtaTo, canon, noneW_eq]
    · simp only [isSpace, b2w, canon]
  · exact alu1_delivers issues fits (cvtaFrom .gl) (cvtaFrom_gl x.l)
  · exact alu1_delivers issues fits (cvtaFrom .gen) rfl
  · exact alu1_delivers issues fits (isSpace .gl) (by simp [isSpace, b2w])
  · exact alu1_delivers issues fits (leaW .gen off) rfl
  · exact alu1_delivers issues fits (leaW .gl off) (cvtaFrom_gl _)

end Sys2Proof.Machine
end

section
/-! The integer and field instructions (R160 to R163): each function of the model is the arithmetic the rules write. -/

namespace Sys2Proof.Machine

/-! ## Words as integers -/

theorem ofNat_ofS (i : Int) : BitVec.ofNat 64 (ofS 64 i) = BitVec.ofInt 64 i := by
  refine BitVec.eq_of_toNat_eq ?_
  simp only [ofS, BitVec.toNat_ofNat, BitVec.toNat_ofInt]
  omega

theorem toS_toNat (l : Word) {w : Nat} (some_ : 0 < w) : toS w l.toNat = (l.setWidth w).toInt := by
  have half : 2 ^ w = 2 * 2 ^ (w - 1) := by rw [← pow_succ', Nat.sub_add_cancel some_]
  simp only [toS, BitVec.toInt_eq_toNat_cond, BitVec.toNat_setWidth]
  split <;> split <;> omega

theorem toS_word (l : Word) : toS 64 l.toNat = l.toInt := (toS_toNat l (by decide)).trans (by rw [BitVec.setWidth_eq])

theorem mulhS_eq (l r : Word) : mulhS l r = BitVec.ofInt 64 (l.toInt * r.toInt / 2 ^ 64) := by
  rw [mulhS, ofNat_ofS, toS_word, toS_word]
  rfl

theorem sub_eq (l r : Word) : l - r = BitVec.ofInt 64 ((l.toNat : Int) - r.toNat) := by
  refine BitVec.eq_of_toNat_eq ?_
  have := r.isLt
  simp only [BitVec.toNat_sub, BitVec.toNat_ofInt]
  omega

theorem divS_eq (l r : Word) : divS l r = if r = 0 then BitVec.ofInt 64 (-1) else BitVec.ofInt 64 (l.toInt.tdiv r.toInt) := by
  refine if_congr Iff.rfl rfl (BitVec.eq_of_toInt_eq ?_)
  rw [BitVec.toInt_sdiv, BitVec.toInt_ofInt]

theorem remS_eq (l r : Word) : remS l r = if r = 0 then l else BitVec.ofInt 64 (l.toInt.tmod r.toInt) := by
  rw [remS, ← BitVec.toInt_srem, BitVec.ofInt_toInt]

theorem divZ_eq (l r : Word) : divZ l r = if r = 0 then BitVec.ofNat 64 (2 ^ 64 - 1) else BitVec.ofNat 64 (l.toNat / r.toNat) := by
  rw [divZ, ← BitVec.toNat_udiv, BitVec.ofNat_toNat, BitVec.setWidth_eq]
  rfl

theorem remZ_eq (l r : Word) : remZ l r = if r = 0 then l else BitVec.ofNat 64 (l.toNat % r.toNat) := by
  rw [remZ, ← BitVec.toNat_umod, BitVec.ofNat_toNat, BitVec.setWidth_eq]

/-! ## Shifts and the lesser or greater of two -/

theorem shlW_eq (l r : Word) : shlW l r = BitVec.ofNat 64 (l.toNat * 2 ^ (r.toNat % 64)) := by
  refine BitVec.eq_of_toNat_eq ?_
  simp [shlW, shamt, Nat.shiftLeft_eq]

theorem shrW_eq (l r : Word) : shrW l r = BitVec.ofNat 64 (l.toNat / 2 ^ (r.toNat % 64)) := by
  rw [shrW, shamt, ← Nat.shiftRight_eq_div_pow, ← BitVec.toNat_ushiftRight, BitVec.ofNat_toNat, BitVec.setWidth_eq]

theorem sarW_eq (l r : Word) : sarW l r = BitVec.ofInt 64 (l.toInt / 2 ^ (r.toNat % 64)) := by
  have shifted := BitVec.toInt_sshiftRight (x := l) (n := r.toNat % 64)
  rw [Int.shiftRight_eq_div_pow] at shifted
  rw [sarW, shamt, ← BitVec.ofInt_toInt (x := l.sshiftRight _), shifted]
  norm_cast

theorem rolW_eq (l r : Word) : rolW l r = (l <<< (r.toNat % 64) ||| l >>> (64 - r.toNat % 64)) := by
  rw [rolW, shamt, BitVec.rotateLeft_eq_rotateLeftAux_of_lt (Nat.mod_lt _ (by decide)), BitVec.rotateLeftAux]

theorem minS_eq (l r : Word) : minS l r = if l.toInt ≤ r.toInt then l else r := if_congr BitVec.sle_iff_toInt_le rfl rfl

theorem maxS_eq (l r : Word) : maxS l r = if l.toInt ≤ r.toInt then r else l := by
  simp only [maxS, BitVec.sle_iff_toInt_le]
  split_ifs
  · exact BitVec.eq_of_toInt_eq (by omega)
  · rfl
  · rfl
  · omega

theorem maxZ_eq (l r : Word) : maxZ l r = if l.toNat ≤ r.toNat then r else l := by
  simp only [maxZ, BitVec.le_def]
  split_ifs
  · exact BitVec.eq_of_toNat_eq (by omega)
  · rfl
  · rfl
  · omega

/-! ## Bits counted -/

theorem trailingZeros_spec (k n : Nat) :
    trailingZeros k n ≤ k ∧ (∀ j < trailingZeros k n, n.testBit j = false) ∧ (trailingZeros k n < k → n.testBit (trailingZeros k n) = true) := by
  induction k generalizing n with
  | zero => simp [trailingZeros]
  | succ k ih =>
    obtain ⟨bound, zeros, one⟩ := ih (n / 2)
    unfold trailingZeros
    split
    · next odd => simp [Nat.testBit_zero, odd]
    · next even =>
      refine ⟨by omega, fun j low => ?_, fun low => ?_⟩
      · cases j with
        | zero => simpa [Nat.testBit_zero] using even
        | succ j => exact (Nat.testBit_succ n j).trans (zeros j (by omega))
      · rw [Nat.add_comm, Nat.testBit_succ]
        exact one (by omega)

theorem leadingZeros_spec {n : Nat} (word : n < 2 ^ 64) :
    leadingZeros 64 n ≤ 64 ∧ (∀ j < leadingZeros 64 n, n.testBit (63 - j) = false) ∧ (leadingZeros 64 n < 64 → n.testBit (63 - leadingZeros 64 n) = true) := by
  rw [leadingZeros, Nat.mod_eq_of_lt word]
  split
  · next zero => simp [zero]
  · next nonzero =>
    have top : n.log2 < 64 := (Nat.log2_lt nonzero).2 word
    refine ⟨by omega, fun j low => Nat.testBit_lt_two_pow ((Nat.log2_lt nonzero).1 (by omega)), fun _ => ?_⟩
    rw [show 63 - (64 - 1 - n.log2) = n.log2 by omega]
    exact Nat.testBit_log2 nonzero

theorem popcount_eq (k n : Nat) : popcount k n = (List.range k).countP n.testBit := by
  induction k generalizing n with
  | zero => rfl
  | succ k ih =>
    rw [popcount, ih, List.range_succ_eq_map, List.countP_cons, List.countP_map, Nat.add_comm]
    congr 1
    · exact List.countP_congr fun j _ => by simp [Nat.testBit_succ]
    · rcases Nat.mod_two_eq_zero_or_one n with e | e <;> simp [Nat.testBit_zero, e]

/-! ## Fields -/

theorem sextW_eq (w : Width) (l : Word) : sextW w l = (l.setWidth (widthBits w)).signExtend 64 := by
  rw [sextW, ofNat_ofS, toS_toNat l (by cases w <;> decide), BitVec.signExtend]

theorem zextW_eq (w : Width) (l : Word) : zextW w l = (l.setWidth (widthBits w)).setWidth 64 := by
  refine BitVec.eq_of_toNat_eq ?_
  simp [zextW]

theorem getLsbD_bextW (pos len1 : BitVec 6) (l : Word) {k : Nat} (low : k < 64) : (bextW pos len1 l).getLsbD k = (decide (k ≤ len1.toNat) && l.getLsbD (pos.toNat + k)) := by
  rw [bextW, BitVec.getLsbD_ofNat, Nat.testBit_mod_two_pow, Nat.testBit_div_two_pow, BitVec.testBit_toNat, Nat.add_comm k]
  simp [low]

theorem getLsbD_fieldMask (pos len : Nat) {k : Nat} (low : k < 64) : (fieldMask pos len).getLsbD k = decide (pos ≤ k ∧ k - pos < len) := by
  rw [fieldMask, BitVec.getLsbD_ofNat, Nat.testBit_mul_two_pow, Nat.testBit_two_pow_sub_one]
  simp [low]

theorem getLsbD_binsW (pos len1 : BitVec 6) (l r : Word) {k : Nat} (low : k < 64) :
    (binsW pos len1 l r).getLsbD k = if pos.toNat ≤ k ∧ k ≤ pos.toNat + len1.toNat then r.getLsbD (k - pos.toNat) else l.getLsbD k := by
  have inside : (pos.toNat ≤ k ∧ k - pos.toNat < len1.toNat + 1) ↔ pos.toNat ≤ k ∧ k ≤ pos.toNat + len1.toNat := by omega
  simp only [binsW, BitVec.getLsbD_or, BitVec.getLsbD_and, BitVec.getLsbD_not, getLsbD_fieldMask _ _ low, inside, BitVec.getLsbD_shiftLeft, low]
  split
  · next field => simp [field]
  · next out => simp [out]

theorem getLsbD_movhiW (lane : BitVec 2) (imm : BitVec 16) (l : Word) {k : Nat} (low : k < 64) :
    (movhiW lane imm l).getLsbD k = if k / 16 = lane.toNat then imm.getLsbD (k % 16) else l.getLsbD k := by
  have inside : (16 * lane.toNat ≤ k ∧ k - 16 * lane.toNat < 16) ↔ k / 16 = lane.toNat := by omega
  simp only [movhiW, BitVec.getLsbD_or, BitVec.getLsbD_and, BitVec.getLsbD_not, getLsbD_fieldMask _ _ low, inside, BitVec.getLsbD_shiftLeft, BitVec.getLsbD_setWidth, low]
  split
  · next own =>
    have place : k - 16 * lane.toNat = k % 16 := by omega
    have above : ¬k < 16 * lane.toNat := by omega
    have short : k % 16 < 64 := by omega
    simp [own, place, above, short]
  · next other =>
    by_cases below : k < 16 * lane.toNat
    · simp [below, other]
    · simp [other, below, BitVec.getLsbD_of_ge imm (k - 16 * lane.toNat) (by omega)]

/-! ## What the instructions deliver -/

theorem integerPairResults : Parts.IntegerPairResults := by
  intro s h x issues fits
  have delivers {v : Word} := alu2_delivers (v := v) issues fits
  exact ⟨delivers (fun l r => l + r) (by rw [BitVec.ofNat_add]; simp), delivers (fun l r => l - r) (sub_eq _ _), delivers (fun l r => l * r) (by rw [BitVec.ofNat_mul]; simp),
    delivers mulhS (mulhS_eq _ _), delivers mulhZ rfl, delivers (fun l r => l &&& r) rfl, delivers (fun l r => l ||| r) rfl, delivers (fun l r => l ^^^ r) rfl,
    delivers (fun l r => l &&& ~~~r) rfl, delivers shlW (shlW_eq _ _), delivers shrW (shrW_eq _ _), delivers sarW (sarW_eq _ _), delivers rolW (rolW_eq _ _),
    delivers minS (minS_eq _ _), delivers maxS (maxS_eq _ _), delivers minZ rfl, delivers maxZ (maxZ_eq _ _), delivers divS (divS_eq _ _), delivers remS (remS_eq _ _),
    delivers divZ (divZ_eq _ _), delivers remZ (remZ_eq _ _)⟩

theorem integerFieldResults : Parts.IntegerFieldResults := by
  refine ⟨fun s h x issues fits => ?_, fun s h x issues fits pos len1 _ => ?_⟩
  · have delivers {v : Word} := alu1_delivers (v := v) issues fits
    have counted {n : Nat} (bound : n ≤ 64) : (BitVec.ofNat 64 n).toNat = n := Nat.mod_eq_of_lt (by omega)
    refine ⟨delivers (fun l => ~~~l) rfl, delivers id rfl, ⟨_, delivers clzW rfl, ?_⟩, ⟨_, delivers ctzW rfl, ?_⟩, delivers popcW ?_, fun imm => delivers (fun l => l + immI imm) rfl,
      delivers (sextW .w8) (sextW_eq _ _), delivers (sextW .w16) (sextW_eq _ _), delivers (sextW .w32) (sextW_eq _ _), delivers (zextW .w8) (zextW_eq _ _),
      delivers (zextW .w16) (zextW_eq _ _), delivers (zextW .w32) (zextW_eq _ _), fun pos len1 _ => ⟨_, delivers (bextW pos len1) rfl, fun k => getLsbD_bextW pos len1 x.l⟩,
      fun lane imm => ⟨_, delivers (movhiW lane imm) rfl, fun k => getLsbD_movhiW lane imm x.l⟩⟩
    · have spec := leadingZeros_spec x.l.isLt
      rwa [clzW, counted spec.1]
    · have spec := trailingZeros_spec 64 x.l.toNat
      rwa [ctzW, counted spec.1]
    · rw [popcW, popcount_eq]
      rfl
  · exact ⟨_, alu2_delivers issues fits (binsW pos len1) rfl, fun k => getLsbD_binsW pos len1 x.l x.r⟩

/-- Settles O1: each instruction delivers its function of L and R (`alu2_delivers`, `alu1_delivers`), which the lemmas above give as arithmetic and bit by bit. -/
theorem integerResults : Obligations.IntegerResults := ⟨integerPairResults, integerFieldResults⟩

end Sys2Proof.Machine
end

section
/-! What resolves the registers and the successor of a block (R144, R146, R147, R167, R168, R170 to R173, R180, R182, R335). -/

namespace Sys2Proof.Machine

section
variable {s : State} {h : Hdr} {x : Fx}

/-! ## WRG and NULL (R144, R167, R168) -/

theorem resolveReg_completes (fits : x.fits h 0) {g : Nat} {v : Option Word} (unresolved : nfind x.b.gw g = none) (unloaded : g ∉ x.b.loaded) :
    resolveReg h g x v s = .next (s.executed x h 0 0 fun b => { b with gw := nset b.gw g v }) := by
  rw [resolveReg, if_neg (by simp [unresolved]), if_neg unloaded]
  exact finish_fits s x h 0 0 _ fits fun _ => ⟨rfl, rfl, rfl, rfl, rfl⟩

theorem resolveReg_resolved {g : Nat} {v : Option Word} (resolved : nfind x.b.gw g ≠ none) : resolveReg h g x v s = .next (s.blockFault x.g 0x008 (x.i + 2 ^ 8 * g)) :=
  if_pos (Option.isSome_iff_ne_none.2 resolved)

theorem resolveReg_loaded {g : Nat} {v : Option Word} (unresolved : nfind x.b.gw g = none) (loaded : g ∈ x.b.loaded) :
    resolveReg h g x v s = .next (s.blockFault x.g 0x008 (x.i + 2 ^ 8 * g + 2 ^ 15)) := by
  rw [resolveReg, if_neg (by simp [unresolved]), if_pos loaded]
  rfl

theorem wrg_resolves (issues : s.fx h true false = some x) (g : BitVec 6) : exec (.wrg h g) s = resolveReg h g.toNat x (some x.l) s := by
  change execWrg h g s = _
  rw [execWrg, issues]

theorem nullReg_resolves (issues : s.fx h false false = some x) (g : BitVec 6) : exec (.nullReg h g) s = resolveReg h g.toNat x none s := by
  change execNullReg h g s = _
  rw [execNullReg, issues]

theorem registerResolution : Parts.RegisterResolution := by
  intro s h x g
  refine ⟨fun issues fits fresh => ?_, fun issues fits fresh => ?_, fun i writer => ?_⟩
  · exact (wrg_resolves issues g).trans (resolveReg_completes fits fresh.1 fresh.2)
  · exact (nullReg_resolves issues g).trans (resolveReg_completes fits fresh.1 fresh.2)
  · have resolves : ∃ v, exec i s = resolveReg h g.toNat x v s := by
      rcases writer with ⟨rfl, issues⟩ | ⟨rfl, issues⟩
      · exact ⟨_, wrg_resolves issues g⟩
      · exact ⟨_, nullReg_resolves issues g⟩
    obtain ⟨v, resolves⟩ := resolves
    rw [resolves]
    exact ⟨resolveReg_resolved, resolveReg_loaded⟩

/-! ## The branch class (R170, R171, R173, R180, R182) -/

theorem addrWord_eq (a : Int) : addrWord a = BitVec.ofInt 64 a := ofNat_ofS a

theorem branchOp_first (fits : x.fits h 0) (first : x.b.branch = none) (br : Branch) :
    branchOp h x br s = .next (s.executed x h 0 0 fun b => { b with branch := some br }) := by
  rw [branchOp, if_neg (by simp [first])]
  exact finish_fits s x h 0 0 _ fits fun _ => ⟨rfl, rfl, rfl, rfl, rfl⟩

theorem branchOp_twice (second : x.b.branch ≠ none) (br : Branch) : branchOp h x br s = .next (s.blockFault x.g 0x00A (x.i + 2 ^ 7 * wordOpcode (x.b.word x.i))) :=
  if_pos (Option.isSome_iff_ne_none.2 second)

theorem branch0_eq (issues : s.fx h false false = some x) (f : Block → Branch) : branch0 h s f = branchOp h x (f x.b) s := by
  rw [branch0, issues]

theorem br_eq (issues : s.fx h false false = some x) (off : BitVec 30) :
    exec (.br h off) s = branchOp h x (.goto (BitVec.ofInt 64 ((x.b.addr : Int) + 64 * off.toInt)) none) s := by
  rw [← addrWord_eq]
  exact branch0_eq issues fun b => .goto (addrWord (branchTo b.addr off.toInt)) none

theorem call_eq (issues : s.fx h false false = some x) (off : BitVec 30) :
    exec (.call h off) s = branchOp h x (.call (BitVec.ofInt 64 ((x.b.addr : Int) + 64 * off.toInt))) s := by
  rw [← addrWord_eq]
  exact branch0_eq issues fun b => .call (addrWord (branchTo b.addr off.toInt))

theorem halt_eq (issues : s.fx h false false = some x) : exec (.halt h) s = branchOp h x .halt s := branch0_eq issues fun _ => .halt

theorem bkpt_eq (issues : s.fx h false false = some x) (num : BitVec 12) : exec (.bkpt h num) s = branchOp h x (.trap 0x016 num.toNat) s :=
  branch0_eq issues fun _ => .trap 0x016 num.toNat

theorem trap_eq (issues : s.fx h false false = some x) (n : BitVec 5) : exec (.trap h n) s = branchOp h x (.trap (0x1E0 + n.toNat) 0) s :=
  branch0_eq issues fun _ => .trap (0x1E0 + n.toNat) 0

theorem ret_eq (issues : s.fx h true false = some x) : exec (.ret h) s = branchOp h x (.goto x.l (some 0)) s := by
  change execRet h s = _
  rw [execRet, issues]

theorem tret_eq (issues : s.fx h false false = some x) : exec (.tret h) s = if (s.ww x.g).inh then branchOp h x .tret s else s.stopOpen x 0x00E := by
  change execTret h s = _
  rw [execTret, issues]

theorem branchResolution : Parts.BranchResolution := by
  intro s h x
  refine ⟨fun issues fits first => ?_, fun issues fits first => ?_, fun second => ⟨fun issues => ?_, fun issues => ?_⟩, fun issues outside => ?_⟩
  · have takes := branchOp_first (s := s) fits first
    exact ⟨fun off => ⟨(br_eq issues off).trans (takes _), (call_eq issues off).trans (takes _)⟩, (halt_eq issues).trans (takes _), fun num => (bkpt_eq issues num).trans (takes _),
      fun n => (trap_eq issues n).trans (takes _), fun inside => (tret_eq issues).trans ((if_pos inside).trans (takes _))⟩
  · exact (ret_eq issues).trans (branchOp_first fits first _)
  · have twice := branchOp_twice (s := s) (h := h) second
    exact ⟨fun off => ⟨(br_eq issues off).trans (twice _), (call_eq issues off).trans (twice _)⟩, (halt_eq issues).trans (twice _), fun num => (bkpt_eq issues num).trans (twice _),
      fun n => (trap_eq issues n).trans (twice _), fun inside => (tret_eq issues).trans ((if_pos inside).trans (twice _))⟩
  · exact (ret_eq issues).trans (branchOp_twice second _)
  · exact (tret_eq issues).trans (if_neg (by simp [outside]))

/-! ## The jump table (R172, R335) -/

theorem try_resolved {a n align phys : Nat} {k : AccKind} (resolves : s.resolve x.g a n align k = .ok phys) (free : s.heldSector x.g phys = false) :
    s.try_ x a n align k = .at_ phys := by
  rw [State.try_, resolves]
  exact if_neg (by simp [free])

theorem bri_outOfRange (issues : s.fx h true false = some x) {off : BitVec 18} {last : BitVec 12} (above : last.toNat < x.l.toNat) :
    exec (.bri h off last) s = .next (s.blockFault x.g 0x142 x.l.toNat) := by
  change execBri h off last s = _
  rw [execBri, issues]
  exact if_pos above

theorem bri_outside (issues : s.fx h true false = some x) {off : BitVec 18} {last : BitVec 12} (within : x.l.toNat ≤ last.toNat)
    (outside : (x.b.addr : Int) + 64 * off.toInt + 8 * x.l.toNat < 0 ∨ 2 ^ 20 < (x.b.addr : Int) + 64 * off.toInt + 8 * x.l.toNat + 8) :
    exec (.bri h off last) s = .next (s.blockFault x.g 0x143 x.l.toNat) := by
  change execBri h off last s = _
  rw [execBri, issues]
  exact (if_neg (by omega)).trans (if_pos outside)

/-- What BRI does with the entry it has read (R172). -/
theorem bri_entry (issues : s.fx h true false = some x) {off : BitVec 18} {last : BitVec 12} (within : x.l.toNat ≤ last.toNat) {a : Int}
    (place : a = (x.b.addr : Int) + 64 * off.toInt + 8 * x.l.toNat) (low : 0 ≤ a) (high : a + 8 ≤ 2 ^ 20) {phys : Nat}
    (resolves : s.resolve x.g (0xFF00000000000000 + a.toNat) 8 8 .rd = .ok phys) (free : s.heldSector x.g phys = false) {e : Nat} (entry : e = ofBytes (s.loadBytes x phys 8)) :
    exec (.bri h off last) s =
      if field e 32 32 ≠ 0 ∨ field e 0 6 ≠ 0 then .next (s.blockFault x.g 0x143 x.l.toNat)
      else if x.b.branch.isSome then .next (s.blockFault x.g 0x00A x.opValue)
      else s.finish x h 0 0 fun b => { b.read (sectors phys 8) with branch := some (.goto (BitVec.ofNat 64 (64 * field e 6 14)) (some (field e 20 12))) } := by
  change execBri h off last s = _
  subst place entry
  have read := try_resolved resolves free
  rw [execBri, issues]
  dsimp only [branchTo]
  rw [if_neg (by omega), if_neg (by omega), show spBase .loc = 0xFF00000000000000 from rfl, read]
  simp only [bits_eq_field]
  rfl

theorem jumpTable : Parts.JumpTable := by
  intro s h x off last issues
  refine ⟨bri_outOfRange issues, bri_outside issues, fun within low high phys resolves free => ?_⟩
  have entry := bri_entry issues within rfl low high resolves free rfl
  refine ⟨fun reserved => entry.trans (if_pos reserved), fun high low second => ?_, fun high low fits first => ?_⟩
  · exact entry.trans ((if_neg (by simp [high, low])).trans (if_pos (Option.isSome_iff_ne_none.2 second)))
  · refine entry.trans ((if_neg (by simp [high, low])).trans ((if_neg (by simp [first])).trans ?_))
    exact finish_fits s x h 0 0 _ fits fun _ => ⟨rfl, rfl, rfl, rfl, rfl⟩

end

/-- Settles O5: WRG and NULL resolve through `resolveReg`, the branch class through `branchOp`, and BRI by the entry it reads (`bri_entry`). -/
theorem outputsAndControl : Obligations.OutputsAndControl := ⟨registerResolution, branchResolution, jumpTable⟩

end Sys2Proof.Machine
end

section
/-! System registers, events and the services of the heartwood (R149, R158, R177, R178, R183 to R187). -/

namespace Sys2Proof.Machine

section
variable {s : State} {h : Hdr} {x : Fx}

theorem keepsSlots_addPend (i : Nat) (p : Pend) : KeepsSlots fun b => b.addPend i p := fun _ => ⟨rfl, rfl, rfl, rfl, rfl⟩

/-! ## System registers (R149, R183) -/

/-- The registers that other agents change (R183). -/
def OpenReg (n : Nat) : Prop := n = 0x022 ∨ n = 0x090 ∨ n = 0x091 ∨ (0x0B0 ≤ n ∧ n ≤ 0x0BF)

theorem srdRange_eq_none {n : Nat} (closed : ¬OpenReg n) (w : Word) : srdRange n w = none := by
  unfold OpenReg at closed
  rw [srdRange, if_neg (by omega), if_neg (by omega), if_neg (by omega)]

theorem stat_lt (v : Nat) :
    2 ^ 12 * bits v 15 12 + 2 ^ 10 * (bits v 11 10 % 3) + 2 ^ 8 * (bits v 9 8 % 3) + 2 ^ 6 * (bits v 7 6 % 3) + 2 ^ 4 * (bits v 5 4 % 3) + 8 * bits v 3 3 < 2 ^ 16 := by
  have high : bits v 15 12 < 2 ^ 4 := Nat.mod_lt _ (by decide)
  have low : bits v 3 3 < 2 := Nat.mod_lt _ (by decide)
  omega

theorem srdRange_open {n : Nat} (changes : OpenReg n) (w : Word) : ∃ u, srdRange n w = some u ∧ (n = 0x091 → u.toNat < 2 ^ 32) ∧ (n = 0x090 → u.toNat < 2 ^ 16) := by
  unfold OpenReg at changes
  by_cases stat : n = 0x090
  · refine ⟨_, if_pos stat, fun fmt => by omega, fun _ => ?_⟩
    exact Nat.lt_of_le_of_lt (Nat.mod_le _ _) (stat_lt _)
  · by_cases fmt : n = 0x091
    · refine ⟨w &&& 0xFFFFFFFF, by rw [srdRange, if_neg stat, if_pos fmt], fun _ => ?_, fun e => absurd e stat⟩
      exact Nat.lt_of_le_of_lt (BitVec.toNat_and w _ ▸ Nat.and_le_right) (by decide)
    · exact ⟨w, by rw [srdRange, if_neg stat, if_neg fmt, if_pos (by omega)], fun e => absurd e fmt, fun e => absurd e stat⟩

theorem srd_closed (issues : s.fx h false false = some x) (fits : x.fits h 0) {num : BitVec 12} {v : Word} (reads : sysRead s x.g x.b.ts num.toNat = some v)
    (closed : ¬OpenReg num.toNat) : Delivers (.srd h num) s x h v := by
  change execSrd h num s = _
  rw [execSrd, issues]
  dsimp only
  rw [reads]
  dsimp only
  rw [srdRange_eq_none closed]
  exact finish_fits s x h v 0 id fits .id

theorem keepsSlots_clearAborts (i : Nat) (c : Prop) [Decidable c] : KeepsSlots fun b => if c then b.addPend i .clearAborts else b := by
  intro b
  dsimp only
  split <;> exact ⟨rfl, rfl, rfl, rfl, rfl⟩

theorem srd_open (issues : s.fx h false false = some x) (fits : x.fits h 0) {num : BitVec 12} {v : Word} (reads : sysRead s x.g x.b.ts num.toNat = some v)
    (changes : OpenReg num.toNat) :
    ∃ u : Word, exec (.srd h num) s = .next (s.drawn.executed x h u 0 fun b => if num.toNat = 0x022 then b.addPend x.i .clearAborts else b)
      ∧ (num.toNat = 0x091 → u.toNat < 2 ^ 32) ∧ (num.toNat = 0x090 → u.toNat < 2 ^ 16) := by
  obtain ⟨u, range, bounds⟩ := srdRange_open changes s.freeWord
  refine ⟨u, ?_, bounds⟩
  have named : num = 0x22 ↔ num.toNat = 0x22 := BitVec.toNat_eq
  change execSrd h num s = _
  rw [execSrd, issues]
  dsimp only
  rw [reads]
  dsimp only
  rw [range]
  simp only [named]
  exact finish_fits s.drawn x h u 0 _ fits (keepsSlots_clearAborts x.i _)

theorem srd_unassigned (issues : s.fx h false false = some x) {num : BitVec 12} (unread : sysRead s x.g x.b.ts num.toNat = none) :
    exec (.srd h num) s = .next (s.blockFault x.g 0x00F num.toNat) := by
  change execSrd h num s = _
  rw [execSrd, issues]
  dsimp only
  rw [unread]
  rfl

/-- The numbers that name a register are those it reads (R149). -/
theorem sysRead_isSome (s : State) (g ts n : Nat) : (sysRead s g ts n).isSome = sysAssigned n := by
  rw [Bool.eq_iff_iff]
  simp only [sysRead, sysAssigned, apply_ite Option.isSome, Option.isSome_some, Option.isSome_none, Bool.if_true_left, Bool.or_eq_true, Bool.and_eq_true, decide_eq_true_eq, Bool.or_false]
  omega

theorem swr_eq (issues : s.fx h true false = some x) (num : BitVec 12) :
    exec (.swr h num) s = if (sysRead s x.g x.b.ts num.toNat).isSome then s.finish x h 0 1 fun b => b.addPend x.i (.swr num.toNat x.l) else s.stop x 0x00F num.toNat := by
  change execSwr h num s = _
  rw [execSwr, issues, sysRead_isSome]

/-! ## Events (R184, R185) -/

theorem evsend_eq (issues : s.fx h false false = some x) (n : BitVec 8) :
    exec (.evsend h n) s = if field n.toNat 4 2 = 3 ∨ field n.toNat 6 2 ≠ 0 then .next (s.blockFault x.g 0x010 (n.toNat + 2 ^ 8 * x.i))
      else s.finish x h 0 1 fun b => b.addPend x.i (.evsend (field n.toNat 0 4) (field n.toNat 4 2)) := by
  change execEvsend h n s = _
  rw [execEvsend, issues]
  simp only [bits_eq_field]
  rfl

theorem systemAccess : Parts.SystemAccess := by
  intro s h x
  refine ⟨fun issues num => ⟨fun v reads fits => ⟨srd_closed issues fits reads, srd_open issues fits reads⟩, srd_unassigned issues⟩,
    fun issues num => ⟨fun assigned fits => ?_, fun unassigned => ?_⟩, fun issues fits => ?_, fun issues fits => ?_, fun issues n => ⟨fun target reserved fits => ?_, fun bad => ?_⟩⟩
  · exact (swr_eq issues num).trans ((if_pos (Option.isSome_iff_ne_none.2 assigned)).trans (finish_fits s x h 0 1 _ fits (keepsSlots_addPend _ _)))
  · exact (swr_eq issues num).trans (if_neg (by simp [unassigned]))
  · change execTskStamp h s = _
    rw [execTskStamp, issues]
    exact finish_fits s x h 0 0 _ fits (keepsSlots_addPend _ _)
  · change execTskYieldPhase h s = _
    rw [execTskYieldPhase, issues]
    exact finish_fits s x h 0 0 _ fits (keepsSlots_addPend _ _)
  · exact (evsend_eq issues n).trans ((if_neg (by simp [target, reserved])).trans (finish_fits s x h 0 1 _ fits (keepsSlots_addPend _ _)))
  · exact (evsend_eq issues n).trans (if_pos bad)

theorem evwait_eq (issues : s.fx h false false = some x) (n : BitVec 8) {t : Nat} (consumed : t = (nget 0 (s.ww x.g).evseen n.toNat).toNat + x.b.evwaits n.toNat x.i) :
    exec (.evwait h n) s =
      if field n.toNat 4 4 ≠ 0 then .next (s.blockFault x.g 0x010 (n.toNat + 2 ^ 8 * x.i))
      else if x.b.evwaitOpen n.toNat x.i ∨ (nget 0 (s.ww x.g).evc n.toNat).toNat ≤ t then .next (s.stall x)
      else s.finish x h (BitVec.ofNat 64 (t + 1)) 0 fun b =>
        if (n.toNat, t + 1) ∈ (s.ww x.g).evSent then (b.addPend x.i (.evwait n.toNat)).addPend x.i .acquire else b.addPend x.i (.evwait n.toNat) := by
  change execEvwait h n s = _
  rw [execEvwait, issues, consumed]
  simp only [bits_eq_field]
  rfl

theorem eventWait : Parts.EventWait := by
  intro s h x n issues
  have waits := evwait_eq issues n rfl
  refine ⟨fun reserved => waits.trans (if_pos reserved), fun assigned => ⟨fun settled passed fits => ?_, fun wait => ?_⟩⟩
  · refine waits.trans ((if_neg (by simp [assigned])).trans ((if_neg ?_).trans (finish_fits s x h _ 0 _ fits fun b => ?_)))
    · rintro (still | short)
      · simp [settled] at still
      · omega
    · split <;> exact ⟨rfl, rfl, rfl, rfl, rfl⟩
  · exact waits.trans ((if_neg (by simp [assigned])).trans (if_pos wait))

/-! ## Services of the heartwood (R186, R187) -/

theorem frontierOnly_atomic (atomic : x.b.atomic = true) (k : Outcome) : s.frontierOnly x k = k := if_pos atomic

theorem frontierOnly_plain (plain : x.b.atomic = false) (k : Outcome) : s.frontierOnly x k = .next (s.blockFault x.g 0x012 (x.i + 2 ^ 7 * wordOpcode (x.b.word x.i))) :=
  if_neg (by simp [plain])

theorem hwCall_plain (issues : s.fx h true false = some x) (plain : x.b.atomic = false) {i : Instr} (call : i = .hwCallEntropy h ∨ ∃ svc, i = .hwCallSampleKey h svc) :
    exec i s = .next (s.blockFault x.g 0x012 (x.i + 2 ^ 7 * wordOpcode (x.b.word x.i))) := by
  rcases call with rfl | ⟨svc, rfl⟩
  · change execHwCallEntropy h s = _
    rw [execHwCallEntropy, issues]
    exact frontierOnly_plain plain _
  · change execHwCallSampleKey h svc s = _
    rw [execHwCallSampleKey, issues]
    exact frontierOnly_plain plain _

theorem bits_high_eq_zero (l : Word) : bits l.toNat 63 4 = 0 ↔ l.toNat < 16 := by
  have := l.isLt
  simp only [bits, Nat.shiftRight_eq_div_pow]
  omega

theorem sampleKey_undefined (issues : s.fx h true false = some x) (atomic : x.b.atomic = true) {svc : BitVec 12} (undefined : svc ≠ 1) :
    exec (.hwCallSampleKey h svc) s = .next (s.openFault x.g 0x013) := by
  change execHwCallSampleKey h svc s = _
  rw [execHwCallSampleKey, issues]
  exact (frontierOnly_atomic atomic _).trans (if_pos undefined)

theorem sampleKey_range (issues : s.fx h true false = some x) (atomic : x.b.atomic = true) (high : 16 ≤ x.l.toNat) :
    exec (.hwCallSampleKey h 1) s = .next (s.openFault x.g 0x014) := by
  have reserved : bits x.l.toNat 63 4 ≠ 0 := mt (bits_high_eq_zero x.l).1 (by omega)
  change execHwCallSampleKey h 1 s = _
  rw [execHwCallSampleKey, issues]
  exact (frontierOnly_atomic atomic _).trans ((if_neg (by simp)).trans (if_pos reserved))

/-- The key of the party that SAMPLE_KEY names (R186, R441). -/
def State.partyKey (s : State) (g n : Nat) : Option Word := (s.place g).bind fun p => (nfind (s.job p.ctx).joins n).map fun q => sampleKeyOf q.seed p.ctx

theorem sampleKey_eq (issues : s.fx h true false = some x) (atomic : x.b.atomic = true) (low : x.l.toNat < 16) :
    (s.partyKey x.g x.l.toNat = none → exec (.hwCallSampleKey h 1) s = s.finish x h 1 1 id)
    ∧ ∀ k, s.partyKey x.g x.l.toNat = some k → exec (.hwCallSampleKey h 1) s = s.finish x h 0 1 fun b => b.addPend x.i (.sampleKey k) := by
  have assigned : bits x.l.toNat 63 4 = 0 := (bits_high_eq_zero x.l).2 low
  refine ⟨fun key => ?_, fun k key => ?_⟩ <;>
  · change execHwCallSampleKey h 1 s = _
    rw [State.partyKey] at key
    rw [execHwCallSampleKey, issues]
    dsimp only
    rw [frontierOnly_atomic atomic, if_neg (by simp), if_neg (by simp [assigned]), key]

theorem entropy_range (issues : s.fx h true false = some x) (atomic : x.b.atomic = true) (bad : x.l.toNat % 32 ≠ 0 ∨ 2 ^ 20 ≤ x.l.toNat) :
    exec (.hwCallEntropy h) s = .next (s.openFault x.g 0x014) := by
  change execHwCallEntropy h s = _
  rw [execHwCallEntropy, issues]
  exact (frontierOnly_atomic atomic _).trans (if_pos bad)

theorem entropy_buffers (issues : s.fx h true false = some x) (atomic : x.b.atomic = true) (fits : x.fits h 1) {phys : Nat} (aligned : x.l.toNat % 32 = 0) (low : x.l.toNat < 2 ^ 20)
    (resolves : s.resolve x.g (0xFF00000000000000 + x.l.toNat) 32 32 .wr = .ok phys) (free : s.heldSector x.g phys = false)
    (ordered : x.b.conflict x.i (0xFF00000000000000 + x.l.toNat) phys 32 = none) :
    exec (.hwCallEntropy h) s = .next ({ s with free := s.free + 4 }.executed x h 0 1 fun b =>
      b.store ⟨x.i, 0xFF00000000000000 + x.l.toNat, phys, entropyBytes s.free, false, []⟩) := by
  change execHwCallEntropy h s = _
  rw [execHwCallEntropy, issues]
  dsimp only
  rw [frontierOnly_atomic atomic, if_neg (by omega), show spBase .loc = 0xFF00000000000000 from rfl, try_resolved resolves free]
  dsimp only
  rw [ordered]
  exact finish_fits { s with free := s.free + 4 } x h 0 1 _ fits fun _ => ⟨rfl, rfl, rfl, rfl, rfl⟩

/-- The last in-field test of a clearing as TEST.CLR delivers it (R187). -/
theorem field_testWord {last seq : Nat} (low : last < 4) (short : seq < 2 ^ 32) {v : Word} (value : v = BitVec.ofNat 64 (last + 2 ^ 32 * (if last = 0 then 0 else seq))) :
    field v.toNat 0 32 = last ∧ (last ≠ 0 → field v.toNat 32 32 = seq) := by
  subst value
  simp only [field, BitVec.toNat_ofNat]
  split <;> omega

theorem testClr_completes (issues : s.fx h false false = some x) (fits : x.fits h 0) : ∃ v : Word, Completes (.testClr h) s x h v 0 (fun b => b.addPend x.i .testReq)
    ∧ v = BitVec.ofNat 64 ((s.clearing (clearingOf x.g)).last + 2 ^ 32 * (if (s.clearing (clearingOf x.g)).last = 0 then 0 else (s.clearing (clearingOf x.g)).seq)) := by
  refine ⟨_, ?_, rfl⟩
  change execTestClr h s = _
  rw [execTestClr, issues]
  exact finish_fits s x h _ 0 _ fits (keepsSlots_addPend _ _)

theorem heartwoodServices : Parts.HeartwoodServices := by
  intro s h x
  refine ⟨fun issues plain i => hwCall_plain issues plain, fun issues atomic => ⟨fun svc => sampleKey_undefined issues atomic, sampleKey_range issues atomic, entropy_range issues atomic,
    fun p placed low absent fits => ?_⟩, fun issues atomic fits => ⟨fun p q placed low party => ?_, fun phys => entropy_buffers issues atomic fits⟩, fun issues fits => ?_⟩
  · refine ((sampleKey_eq issues atomic low).1 ?_).trans (finish_fits s x h 1 1 id fits .id)
    simp [State.partyKey, placed, absent]
  · refine ((sampleKey_eq issues atomic low).2 _ ?_).trans (finish_fits s x h 0 1 _ fits (keepsSlots_addPend _ _))
    simp [State.partyKey, placed, party]
  · obtain ⟨v, completes, value⟩ := testClr_completes issues fits
    exact ⟨v, completes, fun low short => field_testWord low short value⟩

end

/-- Settles O6: SRD and SWR by what the number reads (`sysRead_isSome`, `srdRange_open`), the events by their counts (`evwait_eq`), and the services case by case. -/
theorem systemInstructions : Obligations.SystemInstructions := ⟨systemAccess, eventWait, heartwoodServices⟩

end Sys2Proof.Machine
end

section
/-! What the system registers read after reset (R149). -/

namespace Sys2Proof.Machine

/-- After reset every glade has the registers of glade 0 but for its own number. -/
theorem sysRead_reset (g : Nat) {n : Nat} (other : 0 < n) : sysRead State.reset g 0 n = sysRead State.reset 0 0 n := by
  simp only [sysRead, if_neg other.ne']
  rfl

theorem moduli_reset : ∀ i < 16, sysRead State.reset 0 0 (0x040 + 4 * i) = some 0 ∧ sysRead State.reset 0 0 (0x041 + 4 * i) = some 0
    ∧ sysRead State.reset 0 0 (0x042 + 4 * i) = some 0 ∧ sysRead State.reset 0 0 (0x0B0 + i) = some 0 ∧ sysRead State.reset 0 0 (0x0C0 + i) = some 0 := by decide

theorem rsc_reset : ∀ i < 8, sysRead State.reset 0 0 (0x088 + i) = some 0x7F := by decide

/-- Settles O53: the registers of an absent glade are the defaults, which the model evaluates. -/
theorem resetValues : Obligations.ResetValues := by
  intro g
  have zero (n : Nat) (h : n ∈ [0x010, 0x011, 0x012, 0x013, 0x014, 0x015, 0x020, 0x021, 0x022, 0x080, 0x090, 0x091, 0x098, 0x099, 0x09A, 0x09B, 0x09C, 0x0A0, 0x0A1, 0x0A2]) :
      0 < n ∧ sysRead State.reset 0 0 n = some 0 := by
    revert n
    decide
  refine ⟨rfl, rfl, rfl, fun n h => (sysRead_reset g (zero n h).1).trans (zero n h).2, fun i low => ?_, fun i low => ?_, rfl, rfl, rfl, fun k => ite_self _, rfl, rfl⟩
  · obtain ⟨q, inv, sq, count, seen⟩ := moduli_reset i low
    exact ⟨(sysRead_reset g (by omega)).trans q, (sysRead_reset g (by omega)).trans inv, (sysRead_reset g (by omega)).trans sq, (sysRead_reset g (by omega)).trans count,
      (sysRead_reset g (by omega)).trans seen⟩
  · exact (sysRead_reset g (by omega)).trans (rsc_reset i low)

end Sys2Proof.Machine
end

section
/-! Taking a cause (R181, R408, R410 to R413): what is left of a glade whose block is discarded, the fault records that follow, and the order of the causes of a cy. -/

namespace Sys2Proof.Machine

/-! ## A woodward changed twice -/

theorem modWw_modWw (s : State) (g : Nat) (f f' : Woodward → Woodward) : (s.modWw g f).modWw g f' = s.modWw g fun w => f' (f w) := by
  simp only [State.modWw, State.modBough, State.modGlade, nmod, nset_nset, nget_nset_self]

theorem modWw_congr {s : State} {g : Nat} {f f' : Woodward → Woodward} (h : f (s.ww g) = f' (s.ww g)) : s.modWw g f = s.modWw g f' := by
  simp only [State.ww, State.bough, State.glade] at h
  simp only [State.modWw, State.modBough, State.modGlade, nmod, h]

/-! ## Releases (R341, R342) -/

/-- Every woodward is as it was, and so are the cancels that every die waits to make. -/
structure Released (s t : State) : Prop where
  ww : ∀ g, t.ww g = s.ww g
  cancels : ∀ d, (t.die d).cancels = (s.die d).cancels

theorem Released.refl (s : State) : Released s s := ⟨fun _ => rfl, fun _ => rfl⟩

theorem Released.trans {s t u : State} (first : Released s t) (second : Released t u) : Released s u :=
  ⟨fun g => (second.ww g).trans (first.ww g), fun d => (second.cancels d).trans (first.cancels d)⟩

theorem ww_of_glades {s t : State} (h : t.glades = s.glades) (g : Nat) : t.ww g = s.ww g := by simp only [State.ww, State.bough, State.glade, h]

theorem Released.of_glades {s t : State} (glades : t.glades = s.glades) (dies : t.dies = s.dies) : Released s t :=
  ⟨ww_of_glades glades, fun _ => by simp only [State.die, dies]⟩

theorem cancels_map_dies {s t : State} {f : Nat × Die → Die} (dies : t.dies = s.dies.map fun d => (d.1, f d)) (hf : ∀ x, (f x).cancels = x.2.cancels) (d : Nat) :
    (t.die d).cancels = (s.die d).cancels := by
  simp only [State.die, dies, nget, nfind_map]
  cases nfind s.dies d with
  | none => rfl
  | some x => exact hf (d, x)

theorem ww_modGlade_same (s : State) (g h : Nat) (f : Glade → Glade) (hf : ∀ x, (f x).cur.ww = x.cur.ww) : (s.modGlade g f).ww h = s.ww h := by
  simp only [State.ww, State.bough, State.glade_modGlade]
  split
  · next e => rw [hf, e]
  · rfl

theorem report_released (s : State) (p : Nat) (m : List Byte) : Released s (s.report p m) := by
  unfold State.report State.tell
  split
  · exact .of_glades (State.sendFlit_glades ..) (State.sendFlit_dies ..)
  · split <;> exact .of_glades rfl rfl

theorem modHome_released (s : State) (g : Nat) (hit : Engines → Bool) (f : Engines → Engines) : Released s (s.modHome g hit f) := by
  unfold State.modHome
  dsimp only
  split
  · exact ⟨fun _ => State.ww_modEng .., fun _ => rfl⟩
  · split
    · exact ⟨fun h => ww_modGlade_same s g h _ fun _ => rfl, fun _ => rfl⟩
    · exact ⟨fun _ => rfl, cancels_map_dies rfl fun _ => rfl⟩

theorem settleTears_released (s : State) : Released s s.settleTears where
  ww g := by
    simp only [State.ww, State.bough, State.glade, State.settleTears, nget, nfind_map]
    cases nfind s.glades g <;> rfl
  cancels := cancels_map_dies rfl fun _ => rfl

theorem unhold_released (s : State) (g : Nat) (z : ZoneRef) : Released s (s.unhold g z) := by
  unfold State.unhold
  split
  · exact modHome_released ..
  · exact report_released ..

theorem releaseKey_released (s : State) (g : Nat) (z : ZoneRef) : Released s (s.releaseKey g z) := by
  unfold State.releaseKey
  split
  · exact (modHome_released ..).trans (settleTears_released _)
  · exact report_released ..

theorem releasePend_released (g : Nat) (l : List (Nat × Pend)) (s : State) : Released s (releasePend g l s) := by
  induction l generalizing s with
  | nil => exact .refl s
  | cons p rest ih =>
    obtain ⟨_, q⟩ := p
    cases q with
    | slotHeld z n _ =>
      refine .trans ?_ (ih _)
      split
      · exact unhold_released ..
      · exact releaseKey_released ..
    | slotRelease z => exact (unhold_released ..).trans (ih _)
    | _ => exact ih s

theorem releaseAnswers_released (g : Nat) (b : Block) (l : List (Nat × Word)) (s : State) : Released s (releaseAnswers g b l s) := by
  induction l generalizing s with
  | nil => exact .refl s
  | cons p rest ih =>
    simp only [releaseAnswers]
    split_ifs
    · exact ih s
    · exact (unhold_released ..).trans (ih _)
    · exact (releaseKey_released ..).trans (ih _)
    · exact (unhold_released ..).trans (ih _)
    · exact ih s

/-! ## A block discarded (R144) -/

/-- A woodward whose block in flight is discarded: it is to fetch it again. -/
def Woodward.dropped (w : Woodward) : Woodward :=
  match w.block with
  | none => w
  | some b => { w with block := none, fetch := b.addr }

theorem dropped_block (w : Woodward) : w.dropped.block = none := by
  unfold Woodward.dropped
  split
  · assumption
  · rfl

theorem ww_discard (s : State) (g : Nat) : (s.discard g).ww g = (s.ww g).dropped := by
  unfold State.discard
  split
  · next e => rw [Woodward.dropped, show (s.ww g).block = none from e]
  · next b e =>
    have released := (releasePend_released g b.pend s).trans (releaseAnswers_released g b b.answers _)
    rw [Woodward.dropped, show (s.ww g).block = some b from e]
    have gone : (((releaseAnswers g b b.answers (releasePend g b.pend s)).modWw g fun w => { w with block := none, fetch := b.addr }).modGlade g fun x =>
        { x with walks := [], walkFaults := [] }).ww g = { s.ww g with block := none, fetch := b.addr } := by
      refine (ww_modGlade_same _ g g (fun x => { x with walks := [], walkFaults := [] }) fun _ => rfl).trans ?_
      rw [State.ww_modWw_self, released.ww]
    dsimp only
    split <;> exact gone

theorem cancels_discard (s : State) (g d : Nat) : ((s.discard g).die d).cancels = (s.die d).cancels := by
  unfold State.discard
  split
  · rfl
  · next b _ =>
    have released := ((releasePend_released g b.pend s).trans (releaseAnswers_released g b b.answers _)).cancels d
    dsimp only
    split <;> exact released

/-! ## Fault records (R315, R316) -/

/-- Memory and the functions are the same, but for the pages that the functions' accesses wait for. -/
def SameQueues (s t : State) : Prop := t.mem = s.mem ∧ ∀ f, ∃ l, t.fn f = { s.fn f with pages := l }

theorem SameQueues.of_fns {s t : State} (mem : t.mem = s.mem) (fns : t.fns = s.fns) : SameQueues s t := ⟨mem, fun f => ⟨(s.fn f).pages, by simp only [State.fn, fns]⟩⟩

theorem SameQueues.modFn {s t : State} (h : SameQueues s t) (n : Nat) (f : Fn → Fn) (hf : ∀ x l, f { x with pages := l } = { f x with pages := l }) :
    SameQueues (s.modFn n f) (t.modFn n f) := by
  refine ⟨h.1, fun m => ?_⟩
  rw [State.fn_modFn, State.fn_modFn]
  split
  · obtain ⟨l, e⟩ := h.2 n
    exact ⟨l, by rw [e, hf]⟩
  · exact h.2 m

theorem SameQueues.pages {s t : State} (h : SameQueues s t) (n : Nat) (f : Fn → List HostPage) : SameQueues s (t.modFn n fun x => { x with pages := f x }) := by
  refine ⟨h.1, fun m => ?_⟩
  rw [State.fn_modFn]
  split
  · next e =>
    obtain ⟨l, same⟩ := h.2 m
    exact ⟨f (t.fn n), by rw [← e, same]⟩
  · exact h.2 m

theorem SameQueues.put {s t : State} (h : SameQueues s t) (a : Nat) (bs : List Byte) : SameQueues (s.put a bs) (t.put a bs) := ⟨congrArg (memPut · a bs) h.1, h.2⟩

theorem fqWrite_congr {s t : State} (h : SameQueues s t) (f cause flags fn ctx glade value aux : Nat) :
    SameQueues (s.fqWrite f cause flags fn ctx glade value aux) (t.fqWrite f cause flags fn ctx glade value aux) := by
  obtain ⟨l, e⟩ := h.2 f
  simp only [State.fqWrite, e]
  split
  · exact h
  · split
    · exact h.modFn _ _ fun _ _ => rfl
    · exact (h.put ..).modFn _ _ fun _ _ => rfl

theorem faultRecord_congr {s t : State} (h : SameQueues s t) (cause flags fn ctx glade value aux : Nat) :
    SameQueues (s.faultRecord cause flags fn ctx glade value aux) (t.faultRecord cause flags fn ctx glade value aux) := by
  unfold State.faultRecord
  split
  · exact fqWrite_congr h ..
  · exact fqWrite_congr (fqWrite_congr h ..) ..

theorem discard_sameQueues (s : State) (g : Nat) : SameQueues s (s.discard g) := by
  unfold State.discard
  split
  · exact .of_fns rfl rfl
  · next b _ =>
    have gone : SameQueues s (releaseAnswers g b b.answers (releasePend g b.pend s)) :=
      .of_fns ((releaseAnswers_same ..).1.trans (releasePend_same ..).1) (by rw [releaseAnswers_fns, releasePend_fns])
    dsimp only
    split
    · exact gone
    · exact SameQueues.pages gone _ _

theorem modFn_released (s : State) (n : Nat) (f : Fn → Fn) : Released s (s.modFn n f) := .of_glades rfl rfl

theorem put_released (s : State) (a : Nat) (bs : List Byte) : Released s (s.put a bs) := .of_glades rfl rfl

theorem fqWrite_released (s : State) (f cause flags fn ctx glade value aux : Nat) : Released s (s.fqWrite f cause flags fn ctx glade value aux) := by
  unfold State.fqWrite
  dsimp only
  split
  · exact .refl s
  · split
    · exact modFn_released ..
    · exact (put_released s ..).trans (modFn_released ..)

theorem faultRecord_released (s : State) (cause flags fn ctx glade value aux : Nat) : Released s (s.faultRecord cause flags fn ctx glade value aux) := by
  unfold State.faultRecord
  split
  · exact fqWrite_released ..
  · exact (fqWrite_released ..).trans (fqWrite_released ..)

/-! ## The forester (R412) -/

/-- What a cause that goes to the forester counts before anything else: the damaged SRAM or stack. -/
def damageCounted (s : State) (g cause ctx value : Nat) : State :=
  if cause = 0x1C2 then s.life 0 g 1 else if cause = 0x04C then s.life 6 (s.stackSeen g ctx value) 1 else s

theorem damageCounted_keeps (s : State) (g cause ctx value : Nat) :
    Released s (damageCounted s g cause ctx value) ∧ SameQueues s (damageCounted s g cause ctx value) := by
  unfold damageCounted
  split_ifs <;> exact ⟨.of_glades rfl rfl, .of_fns rfl rfl⟩

theorem forester_of_no_place {s : State} {g : Nat} (e : s.place g = none) (c v a : Nat) (async : Bool) : s.forester g c v a async = s := by rw [State.forester, e]

/-- The state after the fault record of a cause, before its launch is to end. -/
def recorded (s : State) (g c v a : Nat) (async : Bool) (p : Place) : State :=
  ((damageCounted s g c p.ctx v).discard g).faultRecord c (b2n async + 2 * b2n (sysOwned c)) p.vf p.ctx g v a

theorem forester_of_place {s : State} {g : Nat} {p : Place} (e : s.place g = some p) (c v a : Nat) (async : Bool) :
    s.forester g c v a async = (((recorded s g c v a async p).modWw g fun w => { w with started := false }).modTh g fun t => { t with stopped := true }).modDie p.die
      fun d => { d with cancels := d.cancels ++ [(p.launch, .faulted, true)] } := by
  rw [State.forester, e]
  rfl

theorem ww_recorded (s : State) (g c v a : Nat) (async : Bool) (p : Place) : (recorded s g c v a async p).ww g = (s.ww g).dropped := by
  rw [recorded, (faultRecord_released ..).ww, ww_discard, (damageCounted_keeps ..).1.ww]

theorem cancels_recorded (s : State) (g c v a : Nat) (async : Bool) (p : Place) (d : Nat) : ((recorded s g c v a async p).die d).cancels = (s.die d).cancels := by
  rw [recorded, (faultRecord_released ..).cancels, cancels_discard, (damageCounted_keeps ..).1.cancels]

theorem SameQueues.trans {s t u : State} (first : SameQueues s t) (second : SameQueues t u) : SameQueues s u := by
  refine ⟨second.1.trans first.1, fun f => ?_⟩
  obtain ⟨l, e⟩ := first.2 f
  obtain ⟨l', e'⟩ := second.2 f
  exact ⟨l', by rw [e', e]⟩

theorem recorded_sameQueues (s : State) (g c v a : Nat) (async : Bool) (p : Place) :
    SameQueues (s.faultRecord c (b2n async + 2 * b2n (sysOwned c)) p.vf p.ctx g v a) (recorded s g c v a async p) :=
  faultRecord_congr ((damageCounted_keeps ..).2.trans (discard_sameQueues ..)) ..

theorem sysOwned_iff (c : Nat) : sysOwned c = true ↔ c ∈ [0x04C, 0x086, 0x100, 0x101, 0x102, 0x1C2] := by simp [sysOwned, or_assoc]

/-! ## Taking a cause outside a handler (R181) -/

/-- The woodward takes the cause itself: no handler runs, one is named, and the system does not own the cause. -/
def Handled (w : Woodward) (c : Nat) : Prop := w.inh = false ∧ field w.trapHandler.toNat 6 14 ≠ 0 ∧ ¬c ∈ [0x04C, 0x086, 0x100, 0x101, 0x102, 0x1C2]

theorem handled_iff (w : Woodward) (c : Nat) : Handled w c ↔ ¬(w.inh = true ∨ bits w.trapHandler.toNat 19 6 = 0 ∨ sysOwned c = true) := by
  rw [Handled, sysOwned_iff, bits_eq_field, not_or, not_or, Bool.not_eq_true]

theorem take_of_handled {s : State} {g c : Nat} (h : Handled (s.ww g) c) (v a : Nat) (async : Bool) :
    s.take g c v a async = ((s.modWw g fun w => { w with delivered := true }).discard g).modWw g fun w => w.enter c v a async w.atMark w.halted := by
  unfold State.take
  simp only [State.ww_modWw_self]
  rw [if_neg ((handled_iff ..).1 h)]

theorem take_of_not_handled {s : State} {g c : Nat} (h : ¬Handled (s.ww g) c) (v a : Nat) (async : Bool) :
    s.take g c v a async = (s.modWw g fun w => { w with delivered := true }).forester g c v a async := by
  unfold State.take
  simp only [State.ww_modWw_self]
  rw [if_pos (not_not.1 (mt (handled_iff ..).2 h))]

/-- What discarding its block leaves of a woodward, whatever the cause is. -/
theorem dropped_same {α : Type} (r : Woodward → α) (hr : ∀ w b f, r { w with block := b, fetch := f } = r w) (w : Woodward) : r w.dropped = r w := by
  unfold Woodward.dropped
  split
  · rfl
  · exact hr ..

/-! ## The order of the causes of a cy (R410) -/

theorem insertCause_perm (e : Cause) (l : List Cause) : (insertCause e l).Perm (e :: l) := by
  induction l with
  | nil => exact .refl _
  | cons y rest ih =>
    rw [insertCause]
    split
    · exact .refl _
    · exact (ih.cons y).trans (.swap e y rest)

theorem insertCause_sorted (e : Cause) {l : List Cause} (h : l.Pairwise (·.rank ≤ ·.rank)) : (insertCause e l).Pairwise (·.rank ≤ ·.rank) := by
  induction l with
  | nil => exact List.pairwise_singleton _ e
  | cons y rest ih =>
    obtain ⟨first, sorted⟩ := List.pairwise_cons.1 h
    rw [insertCause]
    split
    · next before =>
      refine List.pairwise_cons.2 ⟨fun x hx => ?_, h⟩
      rcases List.mem_cons.1 hx with rfl | later
      · exact before.le
      · exact before.le.trans (first x later)
    · next after =>
      refine List.pairwise_cons.2 ⟨fun x hx => ?_, ih sorted⟩
      rcases List.mem_cons.1 ((insertCause_perm e rest).mem_iff.1 hx) with rfl | later
      · exact Nat.le_of_not_lt after
      · exact first x later

/-- Causes of one rank stay in the order in which they arise. -/
theorem filter_insertCause (e : Cause) {l : List Cause} (h : l.Pairwise (·.rank ≤ ·.rank)) (n : Nat) :
    (insertCause e l).filter (fun y => decide (y.rank = n)) = l.filter (fun y => decide (y.rank = n)) ++ if e.rank = n then [e] else [] := by
  induction l with
  | nil => by_cases at_ : e.rank = n <;> simp [insertCause, at_]
  | cons y rest ih =>
    obtain ⟨first, sorted⟩ := List.pairwise_cons.1 h
    rw [insertCause]
    split
    · next before =>
      by_cases at_ : e.rank = n
      · have none : (y :: rest).filter (fun y => decide (y.rank = n)) = [] := by
          refine List.filter_eq_nil_iff.2 fun x hx => ?_
          have above : e.rank < x.rank := by
            rcases List.mem_cons.1 hx with rfl | later
            · exact before
            · exact before.trans_le (first x later)
          simp only [decide_eq_true_eq]
          omega
        rw [List.filter_cons, none, if_pos (decide_eq_true at_), if_pos at_, List.nil_append]
      · rw [List.filter_cons, if_neg (by simpa using at_), if_neg at_, List.append_nil]
    · by_cases at_ : y.rank = n <;> simp [at_, ih sorted]

/-! ## Causes that wait (R411) -/

theorem enlist_of_room {g : Nat} {c : Cause} {l : List Cause} {s : State} (room : (s.ww g).pending.length + (c :: l).length ≤ 8) :
    enlist g (c :: l) s = s.modWw g fun w => { w with pending := w.pending ++ c :: l } := by
  induction l generalizing c s with
  | nil =>
    rw [List.length_singleton] at room
    rw [enlist, if_pos (by omega), enlist]
    exact modWw_congr rfl
  | cons d rest ih =>
    simp only [List.length_cons] at room ih
    rw [enlist, if_pos (by omega), ih (by rw [State.ww_modWw_self, List.length_append, List.length_singleton]; omega), modWw_modWw]
    exact modWw_congr (by simp)

theorem foresterAll_eq_foldl (g : Nat) (l : List Cause) (s : State) :
    foresterAll g l s = l.foldl (fun s x => s.forester g x.code x.value (s.asyncAt g) true) s := by
  induction l generalizing s with
  | nil => rfl
  | cons c rest ih => exact ih _

/-! ## The parts of the statement -/

/-- The woodward in the handler it has taken a cause into. -/
theorem ww_take_of_handled {s : State} {g c : Nat} (h : Handled (s.ww g) c) (v a : Nat) (async : Bool) :
    (s.take g c v a async).ww g = Woodward.enter (Woodward.dropped { s.ww g with delivered := true }) c v a async (s.ww g).atMark (s.ww g).halted := by
  rw [take_of_handled h, State.ww_modWw_self, ww_discard, State.ww_modWw_self, dropped_same (·.atMark) (fun _ _ _ => rfl), dropped_same (·.halted) fun _ _ _ => rfl]

theorem handler_taken {s : State} {g c : Nat} (h : Handled (s.ww g) c) (v a : Nat) (async : Bool) :
    let w := s.ww g
    let t := s.take g c v a async
    (t.ww g).trapCause = BitVec.ofNat 64 (c + if async then 2 ^ 16 else 0) ∧ (t.ww g).trapBlock = BitVec.ofNat 64 (64 * field a 6 14) ∧ (t.ww g).trapValue = BitVec.ofNat 64 v
      ∧ (t.ww g).inh = true ∧ (t.ww g).mark = w.atMark ∧ (t.ww g).hlt = w.halted ∧ (t.ww g).halted = false ∧ (t.ww g).atMark = false ∧ t.block g = none ∧ (t.ww g).delivered = true
      ∧ (t.ww g).fetch = 64 * field w.trapHandler.toNat 6 14 ∧ (t.ww g).g = w.g ∧ (t.ww g).q = w.q ∧ (t.ww g).link = w.link ∧ (t.ww g).trapHandler = w.trapHandler ∧ t.mem = s.mem := by
  intro w t
  have kept {α : Type} (r : Woodward → α) (hr : ∀ w b f, r { w with block := b, fetch := f } = r w) : r (Woodward.dropped { w with delivered := true }) = r { w with delivered := true } :=
    dropped_same r hr _
  have gone := dropped_block { w with delivered := true }
  have ww : t.ww g = Woodward.enter (Woodward.dropped { w with delivered := true }) c v a async w.atMark w.halted := ww_take_of_handled h v a async
  generalize Woodward.dropped { w with delivered := true } = d at kept gone ww
  have handler := kept (·.trapHandler) fun _ _ _ => rfl
  simp only [State.block, ww, Woodward.enter, bits_eq_field, true_and]
  refine ⟨?_, gone, kept (·.delivered) fun _ _ _ => rfl, ?_, kept (·.g) fun _ _ _ => rfl, kept (·.q) fun _ _ _ => rfl, kept (·.link) fun _ _ _ => rfl, handler, ?_⟩
  · cases async <;> rfl
  · rw [handler]
  · simp only [t]
    rw [take_of_handled h, State.modWw_mem, (discard_same ..).1, State.modWw_mem]

theorem forester_done {s : State} {g : Nat} {p : Place} (e : s.place g = some p) (c v a : Nat) (async : Bool) :
    let w := s.ww g
    let t := s.forester g c v a async
    (t.ww g).started = false ∧ t.block g = none ∧ (t.th g).stopped = true ∧ (t.die p.die).cancels = (s.die p.die).cancels ++ [(p.launch, .faulted, true)]
        ∧ (t.ww g).g = w.g ∧ (t.ww g).q = w.q ∧ (Safe s → ∀ x < 2 ^ 60, memGet t.mem x = memGet s.mem x)
        ∧ (let r := s.faultRecord c (b2n async + 2 * b2n (sysOwned c)) p.vf p.ctx g v a
           (sysOwned c = true ↔ c ∈ [0x04C, 0x086, 0x100, 0x101, 0x102, 0x1C2]) ∧ t.mem = r.mem ∧ ∀ f, (t.fn f).wcnt = (r.fn f).wcnt ∧ (t.fn f).lost = (r.fn f).lost) := by
  intro w t
  have keeps : Unwritten s t := forester_unwritten ..
  have done : t = _ := forester_of_place e c v a async
  have ww : t.ww g = { w.dropped with started := false } := by
    rw [done]
    simp only [State.modDie_ww_at, State.ww_modTh, State.ww_modWw_self, ww_recorded, w]
  have stopped : (t.th g).stopped = true := by
    rw [done]
    simp only [State.modDie_th_at, State.th_modTh_self]
  have cancels : (t.die p.die).cancels = (s.die p.die).cancels ++ [(p.launch, .faulted, true)] := by
    rw [done, State.die_modDie_self, ← cancels_recorded s g c v a async p]
    rfl
  have queues : SameQueues (s.faultRecord c (b2n async + 2 * b2n (sysOwned c)) p.vf p.ctx g v a) t := by
    rw [done]
    exact recorded_sameQueues s g c v a async p
  refine ⟨by rw [ww], ?_, stopped, cancels, (keeps.regs g).1, (keeps.regs g).2, fun safe x low => ?_, sysOwned_iff c, queues.1, fun f => ?_⟩
  · rw [State.block, ww]
    exact dropped_block w
  · exact (keeps.bytes safe).2 x fun queue => absurd (le_of_inFaultQueue queue) (by omega)
  · obtain ⟨l, same⟩ := queues.2 f
    rw [same]
    exact ⟨rfl, rfl⟩

/-- A cause of the cy that is not delivered at once joins those that wait. -/
def Waits (w : Woodward) : Prop := w.inh = true ∨ w.deliver = true ∨ w.delivered = true ∨ w.pending ≠ []

/-- A glade as the end of its cy finds it, its causes taken from the list of the cy. -/
def cleared (s : State) (g : Nat) : State := s.modWw g fun w => { w with raised := [], delivered := false }

theorem deliverCauses_of_none {s : State} {g : Nat} (none : (s.ww g).raised = []) : s.deliverCauses g = cleared s g := by
  unfold State.deliverCauses
  simp only [none]
  rfl

theorem deliverCauses_of_waits {s : State} {g : Nat} {e : Cause} {rest : List Cause} (raised : (s.ww g).raised = e :: rest) (waits : Waits (s.ww g)) :
    s.deliverCauses g = enlist g (e :: rest) (cleared s g) := by
  unfold State.deliverCauses
  simp only [raised]
  rw [if_pos (by simpa [Waits, or_assoc] using waits)]
  rfl

theorem asyncAt_cleared (s : State) (g : Nat) : (cleared s g).asyncAt g = s.asyncAt g := by
  simp only [State.asyncAt, cleared, State.ww_modWw_self]

theorem deliverCauses_of_free {s : State} {g : Nat} {e : Cause} {rest : List Cause} (raised : (s.ww g).raised = e :: rest) (free : ¬Waits (s.ww g)) :
    s.deliverCauses g = (enlist g rest ((cleared s g).take g e.code e.value (s.asyncAt g) true)).modWw g fun w => { w with delivered := false } := by
  rw [← asyncAt_cleared]
  unfold State.deliverCauses
  simp only [raised]
  rw [if_neg (by simpa [Waits, or_assoc] using free)]
  rfl

theorem delivered_into_room {s : State} {g : Nat} (waits : Waits (s.ww g)) (room : (s.ww g).pending.length + (s.ww g).raised.length ≤ 8) :
    s.deliverCauses g = (cleared s g).modWw g fun x => { x with pending := (s.ww g).pending ++ (s.ww g).raised } := by
  cases raised : (s.ww g).raised with
  | nil =>
    rw [deliverCauses_of_none raised, cleared, modWw_modWw]
    exact modWw_congr (by simp)
  | cons e rest =>
    rw [raised] at room
    rw [deliverCauses_of_waits raised waits, enlist_of_room (by rw [cleared, State.ww_modWw_self]; exact room)]
    exact modWw_congr (by simp [cleared])

theorem delivered_past_room {s : State} {g : Nat} {e : Cause} (waits : Waits (s.ww g)) (raised : (s.ww g).raised = [e]) (full : 8 ≤ (s.ww g).pending.length) :
    s.deliverCauses g = ((s.ww g).pending ++ [e]).foldl (fun s x => s.forester g x.code x.value (s.asyncAt g) true) ((cleared s g).modWw g fun x => { x with pending := [] }) := by
  have pending : ((cleared s g).ww g).pending = (s.ww g).pending := by rw [cleared, State.ww_modWw_self]
  rw [deliverCauses_of_waits raised waits, enlist, enlist]
  simp only [pending]
  rw [if_neg (by omega), foresterAll_eq_foldl]

theorem delivered_first {s : State} {g : Nat} {e : Cause} {rest : List Cause} (free : ¬Waits (s.ww g)) (raised : (s.ww g).raised = e :: rest)
    (room : (((cleared s g).take g e.code e.value (s.asyncAt g) true).ww g).pending.length + rest.length ≤ 8) :
    s.deliverCauses g = ((cleared s g).take g e.code e.value (s.asyncAt g) true).modWw g fun x => { x with pending := x.pending ++ rest, delivered := false } := by
  rw [deliverCauses_of_free raised free]
  cases rest with
  | nil => exact modWw_congr (by simp [enlist])
  | cons d rest => rw [enlist_of_room room, modWw_modWw]

/-- Settles O58, by what a discarded block leaves (`ww_discard`), the congruence of fault records in the queues (`faultRecord_congr`), and the causes of a cy case by case. -/
theorem takingACause : Obligations.TakingACause := by
  intro s g c v a async th
  refine ⟨fun handled => handler_taken handled v a async, fun other => take_of_not_handled other v a async, fun e => forester_of_no_place e .., fun p e => forester_done e .., ?_, ?_,
    fun _ => rfl, rfl, fun e l sorted => ⟨insertCause_sorted e sorted, insertCause_perm e l, filter_insertCause e sorted⟩,
    deliverCauses_of_none, delivered_into_room, fun e => delivered_past_room, fun e rest => delivered_first⟩
  · intro e
    rw [State.blockFault, e]
  · intro b e
    rw [State.blockFault, e]

end Sys2Proof.Machine
end

section
/-! The commit of a graft fetch where an entry is listed twice (R376). -/

namespace Sys2Proof.Machine

/-- A block with nothing left to issue whose commit starts the fetch of graft entry 0: 2^20 bytes, all pages of the pool of context 0. -/
def fetchingBlock : Block := { addr := 0, words := [], pend := [(0, .graft 0x118 [0, 0, 0, 0, 0, 2 ^ 20, 0])] }

/-- Entry 0 is listed twice: first free, as every look-up finds it, then ready and unpinned in all pages of the pool. -/
def doubleEntry : State :=
  { glades := [(0, { cur := { ww := { block := some fetchingBlock } } })], jobs := [(0, { graftQuota := 1 })], grafts := [(0, {}), (0, { st := .ready, length := 2 ^ 20 })] }

theorem doubleEntry_commits : fetchingBlock.quiescent = true ∧ fetchingBlock.effects = fetchingBlock.socount ∧ doubleEntry.frontier 0 = true ∧ doubleEntry.cancelDue 0 = false
    ∧ doubleEntry.walkerWaits 0 fetchingBlock = false := by and_intros <;> decide +kernel

/-- The fetch finds its run by marking the second listing as its victim, and the mark falls on the first listing: the fetch itself is EVICTED. -/
theorem doubleEntry_evicts : ∃ t, exec (.blockCommit 0) doubleEntry = .next t ∧ (t.graft 0).st = .evicted := ⟨_, rfl, by decide +kernel⟩

/-- Refutes O45: in `doubleEntry` the commit of a graft fetch leaves its entry EVICTED, not FETCHING. The clause speaks of every state, also of one whose graft entries are listed twice: there the
run of the fetch may lie in pages that the same entry is listed to hold, and the entry is marked as its own victim. -/
theorem not_blockEvents : ¬ Obligations.BlockEvents := by
  rintro ⟨-, -, effects, -⟩
  obtain ⟨quiet, full, first, live, walks⟩ := doubleEntry_commits
  obtain ⟨-, -, -, -, -, -, -, -, -, -, -, -, -, -, -, -, -, -, -, grafts, -⟩ :=
    effects doubleEntry 0 fetchingBlock rfl quiet rfl rfl rfl rfl (fun _ _ => BitVec.getLsbD_zero) full first live walks
  obtain ⟨fetch, -⟩ := grafts 0 [0, 0, 0, 0, 2 ^ 20, 0]
  obtain ⟨t, runs, fetching, -⟩ := fetch 0 rfl
  obtain ⟨u, runs', evicted⟩ := doubleEntry_evicts
  rw [runs] at runs'
  cases runs'
  rw [fetching] at evicted
  exact absurd evicted (by decide)

end Sys2Proof.Machine
end

section
/-! The tags and the landing of an element's result (R190, R191, R199): what the values read give it, and what a result in flight leaves as it was. -/

namespace Sys2Proof.Machine

/-! ## The tags of a generated result (R190, R199) -/

theorem mismatch_iff (v : Val) : v.mismatch = true ↔ v.valid = true ∧ ¬v.agrees := by
  rw [Val.mismatch, Bool.and_eq_true, decide_eq_true_eq, ne_mod15_iff]
  rfl

theorem errOf_iff (reads : List Val) : errOf reads = true ↔ ∃ x ∈ reads, x.err = true ∨ (x.valid = true ∧ ¬x.agrees) := by
  simp only [errOf, List.any_eq_true, Bool.or_eq_true, mismatch_iff]

/-- The greatest edm of values, from one on. -/
def maxEdmFrom (m : BitVec 4) (vs : List Val) : BitVec 4 := vs.foldl (fun m v => if m.toNat < v.edm.toNat then v.edm else m) m

theorem maxEdmFrom_greatest (vs : List Val) (m : BitVec 4) : m.toNat ≤ (maxEdmFrom m vs).toNat ∧ ∀ x ∈ vs, x.edm.toNat ≤ (maxEdmFrom m vs).toNat := by
  induction vs generalizing m with
  | nil => exact ⟨le_rfl, fun _ none => absurd none List.not_mem_nil⟩
  | cons v vs ih =>
    obtain ⟨start, rest⟩ := ih (if m.toNat < v.edm.toNat then v.edm else m)
    have both : m.toNat ≤ (maxEdmFrom m (v :: vs)).toNat ∧ v.edm.toNat ≤ (maxEdmFrom m (v :: vs)).toNat := by
      rw [maxEdmFrom, List.foldl_cons, ← maxEdmFrom]
      split_ifs at start ⊢ <;> omega
    exact ⟨both.1, List.forall_mem_cons.2 ⟨both.2, rest⟩⟩

theorem maxEdmFrom_mem (vs : List Val) (m : BitVec 4) : maxEdmFrom m vs = m ∨ ∃ x ∈ vs, x.edm = maxEdmFrom m vs := by
  induction vs generalizing m with
  | nil => exact .inl rfl
  | cons v vs ih =>
    rw [maxEdmFrom, List.foldl_cons, ← maxEdmFrom]
    rcases ih (if m.toNat < v.edm.toNat then v.edm else m) with start | ⟨x, listed, own⟩
    · rw [start]
      split_ifs
      · exact .inr ⟨v, List.mem_cons_self, rfl⟩
      · exact .inl rfl
    · exact .inr ⟨x, List.mem_cons_of_mem _ listed, own⟩

theorem mismG_eq_countP (reads : List Val) : mismG reads = reads.countP fun x => x.valid && decide (x.residue.toNat ≠ x.data.toNat % 15) := by
  simp only [mismG, ← List.countP_eq_length_filter, ← ne_mod15_iff]
  rfl

/-! ## A result in flight (R191) -/

section
variable (s : State) (f : Elem → Elem)

theorem elem_modElemF_ne {st k : Nat} (other : 16 * st + k ≠ 16 * s.focus.stem + s.focus.row) :
    ((s.modElemF f).th s.focus.glade).elem st k = (s.th s.focus.glade).elem st k := by
  rw [th_modElemF]
  exact nget_nmod_ne _ _ _ _ other.symm

theorem stems_modElemF : ((s.modElemF f).th s.focus.glade).stems = (s.th s.focus.glade).stems := (congrArg Thicket.stems (th_modElemF s f) :)

theorem glade_modElemF_ne {g : Nat} (other : g ≠ s.focus.glade) : (s.modElemF f).glade g = s.glade g := State.glade_modGlade_ne _ _ _ _ other

variable {s} {lam : Nat} {d : Dest} {v : Val}

/-- A result changes the focused element, or, with dest DIS, nothing. -/
theorem result_induction (P : State → Prop) (stay : P s) (change : ∀ f, P (s.modElemF f)) : P (s.result lam d v) := by
  cases d with
  | dis => exact stay
  | _ => exact change _

theorem elemF_result (sent : d ≠ .dis) : (s.result lam d v).elemF =
    { s.elemF with flight := s.elemF.flight ++ [{ land := s.cntF + lam, issued := s.cntF, val := { v with port := false, seq := 0 }, rso := decide (d = .rso), rel := none }] } := by
  cases d with
  | dis => exact absurd rfl sent
  | _ => exact elemF_modElemF ..

end

/-- Settles O20: the tags of a generated result (`errOf_iff`, `maxEdmFrom_greatest`), and a result in flight, which changes the focused element alone (`result_induction`). -/
theorem elementTags : Obligations.ElementTags := by
  refine ⟨fun reads w => ⟨rfl, mod15_toNat w, List.all_eq_true, List.any_eq_true, errOf_iff reads, (maxEdmFrom_greatest reads 0).2, maxEdmFrom_mem reads 0, mismG_eq_countP reads⟩,
    fun s lam d v => ⟨?_, elemF_result, fun st k other => ?_, ?_, ?_, (result_calm ..).1, fun g other => ?_⟩⟩
  · rintro rfl
    rfl
  · exact result_induction (fun t => (t.th s.focus.glade).elem st k = (s.th s.focus.glade).elem st k) rfl fun f => elem_modElemF_ne s f other
  · exact result_induction (fun t => (t.th s.focus.glade).stems = (s.th s.focus.glade).stems) rfl (stems_modElemF s)
  · exact result_induction (fun t => (t.th s.focus.glade).cnt = (s.th s.focus.glade).cnt) rfl (cntF_modElemF s)
  · exact result_induction (fun t => t.glade g = s.glade g) rfl fun f => glade_modElemF_ne s f other

end Sys2Proof.Machine
end

section
/-! The random streams of the elements (R201, R206, R222, R223, R401): what a draw gives, and the sampler. -/

namespace Sys2Proof.Machine

/-! ## Draws (R206, R401) -/

section
variable {s : State}

theorem modElemF_modElemF (f f' : Elem → Elem) : (s.modElemF f).modElemF f' = s.modElemF fun e => f' (f e) := by
  simp only [State.modElemF, State.modTh, State.modBough, State.modGlade, Thicket.modElem, nmod, nset_nset, nget_nset_self]

/-- Two changes of the focused element that agree on what it holds are the same change. -/
theorem modElemF_congr {f f' : Elem → Elem} (agree : f s.elemF = f' s.elemF) : s.modElemF f = s.modElemF f' :=
  modTh_congr (congrArg (fun e => ({ s.th s.focus.glade with elems := nset (s.th s.focus.glade).elems (16 * s.focus.stem + s.focus.row) e } : Thicket)) agree)

theorem runF_modElemF (f : Elem → Elem) : (s.modElemF f).runF = s.runF := (congrArg (fun t : Thicket => t.run.getD _) (th_modElemF s f) :)

/-- Moving the stream on by a word keeps the path that it stands on. -/
theorem pathF_drawn : (s.modElemF Elem.drawn).pathF = s.pathF := by
  have path : s.elemF.drawn.path = s.elemF.path := apply_ite Elem.path _ _ _ |>.trans (ite_self _)
  unfold State.pathF
  rw [stemF_modElemF, elemF_modElemF, path]
  rfl

/-- A word drawn moves the stream on by one (R401). -/
theorem drawn_position {e : Elem} (word : e.rword < 4) : e.drawn = { e with rblk := (4 * e.rblk + e.rword + 1) / 4, rword := (4 * e.rblk + e.rword + 1) % 4 } := by
  unfold Elem.drawn
  split_ifs with last
  · rw [show (4 * e.rblk + e.rword + 1) / 4 = e.rblk + 1 by omega, show (4 * e.rblk + e.rword + 1) % 4 = 0 by omega]
  · rw [show (4 * e.rblk + e.rword + 1) / 4 = e.rblk by omega, show (4 * e.rblk + e.rword + 1) % 4 = e.rword + 1 by omega]

variable (word : s.elemF.rword < 4)
include word

theorem drawMoved_one : s.modElemF Elem.drawn = s.drawMoved 1 := modElemF_congr (drawn_position word)

theorem rword_drawn : (s.modElemF Elem.drawn).elemF.rword < 4 := by
  rw [elemF_modElemF, drawn_position word]
  exact Nat.mod_lt _ (by decide)

theorem drawPos_drawn : (s.modElemF Elem.drawn).drawPos = s.drawPos + 1 := by
  rw [State.drawPos, elemF_modElemF, drawn_position word]
  exact Nat.div_add_mod ..

theorem drawMoved_succ (n : Nat) : (s.modElemF Elem.drawn).drawMoved n = s.drawMoved (n + 1) := by
  rw [State.drawMoved, drawPos_drawn word, modElemF_modElemF, State.drawMoved, Nat.add_right_comm]
  refine modElemF_congr ?_
  rw [drawn_position word]
  rfl

theorem drawWords_succ (key : Word) (n : Nat) : s.drawWords key (n + 1) =
    philoxWord key s.runF.seqid.toNat s.runF.pos.toNat s.pathF s.elemF.rblk s.elemF.rword :: (s.modElemF Elem.drawn).drawWords key n := by
  have block : s.drawPos / 4 = s.elemF.rblk := by rw [State.drawPos]; omega
  have place : s.drawPos % 4 = s.elemF.rword := by rw [State.drawPos]; omega
  simp only [State.drawWords, List.range_succ_eq_map, List.map_cons, List.map_map, Nat.add_zero, block, place, runF_modElemF, pathF_drawn, drawPos_drawn word, Function.comp_def,
    Nat.succ_eq_add_one, Nat.add_assoc, Nat.add_comm 1]

/-- Where the stream holds as many words, a draw gives them and moves the stream on. -/
theorem draw_eq {key : Word} (keyed : s.runF.key = some key) {n : Nat} (holds : s.drawPos + (n + 1) ≤ 2 ^ 34) : s.draw (n + 1) = (s.drawMoved (n + 1), some (s.drawWords key (n + 1))) := by
  induction n generalizing s with
  | zero =>
    have early : ¬2 ^ 32 ≤ s.elemF.rblk := by rw [State.drawPos] at holds; omega
    simp only [State.draw, keyed, if_neg early, drawMoved_one word, drawWords_succ word]
    rfl
  | succ n ih =>
    have early : ¬2 ^ 32 ≤ s.elemF.rblk := by rw [State.drawPos] at holds; omega
    have rest := ih (rword_drawn word) ((congrArg Run.key (runF_modElemF _)).trans keyed) (by rw [drawPos_drawn word]; omega)
    rw [State.draw, keyed]
    simp only [if_neg early, rest, drawMoved_succ word, drawWords_succ word key (n + 1)]

end

/-- Without a latched key a draw is SAMPLE_KEY_NONE (R201). -/
theorem draw_unkeyed {s : State} (none_ : s.runF.key = none) (n : Nat) : s.draw (n + 1) = (s.faultCycOpen 0x088, none) := by
  rw [State.draw, none_]

/-! ## The sampler (R222, R223) -/

theorem sampEmitW_eq (e : Elem) : sampEmitW e = BitVec.ofNat 64 (e.cand.toNat + (if e.mass = 0 then 2 ^ 32 else 0) + (if e.bad then 2 ^ 33 else 0)) := by
  simp only [sampEmitW, b2n, decide_eq_true_eq, ite_mul, one_mul, zero_mul]

section
variable {s : State} {d : Dest}

theorem rng_unkeyed (none_ : s.runF.key = none) : exec (.rng d) s = .next (s.faultCycOpen 0x088) := by
  change execRng d s = _
  rw [execRng, draw_unkeyed none_]

theorem rng_eq {w0 w1 : Nat} (drew : s.draw 2 = (s.drawMoved 2, some [w0, w1])) : exec (.rng d) s = .next ((s.drawMoved 2).result 2 d (Val.ofWord (ofLanes w0 w1))) := by
  change execRng d s = _
  rw [execRng, drew]

variable (f : BitVec 6)

theorem sampStep_idle (idle : s.lineA.valid = false) : Gives (.sampStep d f) s 4 d [s.lineA] (s.elemF.cand.setWidth 64) := if_pos idle

section
variable (valid : s.lineA.valid = true)
include valid

theorem sampStep_overflow (past : 2 ^ 64 ≤ s.elemF.mass + (sampWeight f.toNat (lane0 s.lineA.data)).1) : exec (.sampStep d f) s = .next (s.faultCycOpen 0x089) := by
  change execSampStep d f s = _
  simp only [execSampStep, valid, Bool.true_eq_false, if_false, if_pos past]

/-- A step that does not overflow draws two words and replaces the candidate where the draw falls to the new weight's share of the mass. -/
theorem sampStep_eq {w0 w1 : Nat} (drew : s.draw 2 = (s.drawMoved 2, some [w0, w1])) (fits : s.elemF.mass + (sampWeight f.toNat (lane0 s.lineA.data)).1 < 2 ^ 64) :
    let w := sampWeight f.toNat (lane0 s.lineA.data)
    let mass := s.elemF.mass + w.1
    let cand : BitVec 32 := if (w1 % 2 ^ 16 * 2 ^ 32 + w0) * mass < w.1 * 2 ^ 48 then BitVec.ofNat 32 (lane1 s.lineA.data) else s.elemF.cand
    exec (.sampStep d f) s = .next ((((s.drawMoved 2).modElemF fun e => { e with cand := cand, mass := mass, bad := e.bad || w.2 }).result 4 d
      (mkG [s.lineA] (cand.setWidth 64))).mism (mismG [s.lineA])) := by
  intro w mass cand
  change execSampStep d f s = _
  simp only [execSampStep, valid, Bool.true_eq_false, if_false, if_neg fits.not_ge, drew]
  rfl

end

end

/-- Settles O28: INIT and EMIT by definition; RNG and a step by the two words that `draw_eq` gives. -/
theorem sampling : Obligations.Sampling := by
  intro s d a e word
  refine ⟨fun p => rfl, fun clr => ?_, rng_unkeyed, fun key keyed inside holds w0 w1 words => ?_, fun f => sampStep_idle f⟩
  · change execSampEmit d clr s = _
    rw [execSampEmit, sampEmitW_eq]
    rfl
  · have drew : s.draw 2 = (s.drawMoved 2, some [w0, w1]) := by rw [draw_eq inside keyed holds, words]
    refine ⟨rng_eq drew, fun f valid => ?_⟩
    have step := And.intro (sampStep_overflow (d := d) f valid) (sampStep_eq (d := d) f valid drew)
    unfold sampWeight at step
    -- the weight of each kind of datum, as R223 and as the model write it
    cases datum : dec32 (lane0 a.data) <;> rw [datum] at step <;> exact step

end Sys2Proof.Machine
end

section
/-! The FP32 operations, conversions and fern functions of the elements (R97, R202 to R204, R224, R225): the words a conversion draws, and the age queue of the ferns. -/

namespace Sys2Proof.Machine

/-! ## Conversions (R97, R203, R204) -/

/-- A conversion draws under RSTO alone, a word for each of its values. -/
theorem converts_of_convert {i : Instr} {s : State} {n lam : Nat} {d : Dest} {reads : List Val} {f : Rm → Sat → List Nat → Word} (run : exec i s = .next (s.convert lam d reads n f))
    (some_ : 0 < n) : Converts i s n lam d reads f := by
  obtain ⟨n, rfl⟩ := Nat.exists_eq_succ_of_ne_zero some_.ne'
  refine ⟨fun exact_ => run.trans ?_, fun stochastic none_ => run.trans ?_, fun stochastic key keyed inside holds => run.trans ?_⟩
  · rw [State.convert, if_neg exact_]
    rfl
  · rw [State.convert, if_pos stochastic, draw_unkeyed none_]
  · rw [State.convert, if_pos stochastic, draw_eq inside keyed holds, stochastic]
    rfl

/-- A conversion of an integer type converts as many values as a word has lanes of it (R204). -/
theorem convertedLanes (ty : IntType) : (if tBits ty = 32 then 2 else 1) = if ty = .s32 ∨ ty = .z32 then 2 else 1 := by cases ty <;> rfl

/-! ## Fern functions (R195, R224) -/

section
variable (s : State)

@[simp] theorem elemF_perf (g e n : Nat) : (s.perf g e n).elemF = s.elemF := congrArg (·.elem s.focus.stem s.focus.row) (State.th_perf ..)

@[simp] theorem stemF_perf (g e n : Nat) : (s.perf g e n).stemF = s.stemF := congrArg (·.stem s.focus.stem) (State.th_perf ..)

variable (lam : Nat) (d : Dest) (f : Nat → Nat)

theorem elemF_fernResult : (s.fernResult lam d f).elemF = s.elemF := by rw [State.fernResult, elemF_mism, elemF_perf, elemF_modStemF]

/-- A fern result joins the age queue of its stem. -/
theorem stemF_fernResult : (s.fernResult lam d f).stemF = { s.stemF with fern := s.stemF.fern ++
    [FernEnt.mk s.focus.row (s.cntF + lam) s.cntF (mkG [s.lineA] (map1 f s.lineA.data)) (decide (d ≠ .dis)) (decide (d = .rso)) false] } := by
  rw [State.fernResult, stemF_mism, stemF_perf, stemF_modStemF]
  rfl

variable {s lam d f}

theorem fern_gives {i : Instr} (run : exec i s = .next (s.fernResult lam d f)) : ∃ t : State, exec i s = .next t ∧ t.elemF = s.elemF ∧ t.mem = s.mem
    ∧ t.stemF = { s.stemF with fern := s.stemF.fern ++
        [FernEnt.mk s.focus.row (s.cntF + lam) s.cntF (mkG [s.lineA] (map1 f s.lineA.data)) (decide (d ≠ .dis)) (decide (d = .rso)) false] } :=
  ⟨_, run, elemF_fernResult .., (fernResult_calm ..).1, stemF_fernResult ..⟩

end

/-! ## The statement -/

/-- Settles O21: the pair operations by definition, each conversion by what it draws (`converts_of_convert`), each fern function by what joins the age queue (`fern_gives`). -/
theorem floatElements : Obligations.FloatElements := by
  intro s d imm a b c two three
  refine ⟨rfl, rfl, rfl, rfl, rfl, rfl, rfl, fun _ _ => rfl, fun _ => rfl, rfl, rfl, rfl, fun _ => converts_of_convert rfl (by decide), fun _ => converts_of_convert rfl (by decide),
    converts_of_convert rfl (by decide), converts_of_convert rfl (by decide), fun _ => converts_of_convert rfl (by decide), fun _ => converts_of_convert rfl (by decide),
    fun ty dir => ?_, ?_⟩
  · rw [← convertedLanes]
    exact converts_of_convert rfl (by split <;> decide)
  · simp only [List.forall_mem_cons]
    exact ⟨fern_gives rfl, fern_gives rfl, fern_gives rfl, fern_gives rfl, fern_gives rfl, fern_gives rfl, fern_gives rfl, fun _ none => absurd none List.not_mem_nil⟩

end Sys2Proof.Machine
end

section
/-! The requests of the AG elements (R212 to R214): the address that each operation gives, and what becomes of its request. -/

namespace Sys2Proof.Machine

/-! ## A request (R213, R214) -/

/-- The access that a request makes. -/
def AgKind.access : AgKind → AccKind
  | .load => .rd
  | .store => .wr
  | .atom _ _ => .atom

/-- An element has room for one more request; a reply needs its place too (R213). -/
def Elem.AgRoom (e : Elem) (kind : AgKind) : Prop := e.agOut.length < 32 ∧ (kind ≠ .store → e.agRep.length + (e.agOut.countP fun r => r.kind ≠ .store) < 32)

section
variable {s : State} {a n : Nat} {kind : AgKind} {operand : Word} {tag : Val}

theorem agFull_iff (e : Elem) : (32 ≤ e.agOut.length ∨ (kind ≠ .store ∧ 32 ≤ e.agRep.length + (e.agOut.filter fun r => decide (r.kind ≠ .store)).length)) ↔ ¬e.AgRoom kind := by
  rw [Elem.AgRoom, ← List.countP_eq_length_filter, not_and_or, not_lt, Classical.not_imp, not_lt]

theorem agRequest_full (full : ¬s.elemF.AgRoom kind) : s.agRequest a n kind operand tag = s.holdCyc := if_pos ((agFull_iff _).2 full)

section
variable (room : s.elemF.AgRoom kind)
include room

/-- A request that is granted joins the outstanding ones of its element. -/
theorem agRequest_granted {phys : Nat} (granted : s.resolve s.focus.glade a n n kind.access true = .ok phys) : s.agRequest a n kind operand tag =
    (s.served s.focus.glade a phys 0).modElemF fun e => { e with agOut := e.agOut ++ [{ issued := s.wall, uid := s.runUid s.focus.glade, kind := kind, gaddr := a, phys := phys
                                                                                        key := s.pageKey s.focus.glade a, size := n, operand := operand, edm := tag.edm
                                                                                        last := tag.last, asOf := s.free, blind := s.agBlind phys n }] } := by
  refine (if_neg fun full => (agFull_iff _).1 full room).trans ?_
  split <;> next answer => cases answer.symm.trans granted <;> rfl

theorem agRequest_refused {c : Nat} (refused : s.resolve s.focus.glade a n n kind.access true = .fault c) : s.agRequest a n kind operand tag = s.faultCyc c a := by
  refine (if_neg fun full => (agFull_iff _).1 full room).trans ?_
  split <;> next answer => cases answer.symm.trans refused <;> rfl

end

end

/-! ## The operations (R212) -/

section
variable {s : State} {d : Dest} {w : Word} {reads : List Val}

/-- Giving an address moves neither the focus nor the time nor the numbers of writes. -/
theorem agGave_same : (s.agGave d w reads).focus = s.focus ∧ (s.agGave d w reads).wall = s.wall ∧ (s.agGave d w reads).free = s.free := by
  have result (v : Val) : (s.result 1 d v).focus = s.focus ∧ (s.result 1 d v).wall = s.wall ∧ (s.result 1 d v).free = s.free :=
    result_induction (fun t => t.focus = s.focus ∧ t.wall = s.wall ∧ t.free = s.free) ⟨rfl, rfl, rfl⟩ fun _ => ⟨rfl, rfl, rfl⟩
  unfold State.agGave State.mism
  split
  · exact result _
  · exact result _

theorem asks_of_request {i : Instr} {sp : Space} {n : Nat} {kind : AgKind} {operand : Word}
    (run : exec i s = .next ((s.agAddress d w reads).agRequest (cvtaFrom sp w).toNat n kind operand s.lineA)) : Asks i s d w reads sp n kind kind.access operand := by
  obtain ⟨focus, wall, free⟩ := agGave_same (s := s) (d := d) (w := w) (reads := reads)
  rw [show s.agAddress d w reads = s.agGave d w reads from rfl] at run
  unfold Asks
  generalize s.agGave d w reads = t at *
  rw [← focus, ← wall, ← free]
  exact ⟨fun room _ granted => run.trans (congrArg Host.Outcome.next (agRequest_granted room granted)),
    fun room _ refused => run.trans (congrArg Host.Outcome.next (agRequest_refused room refused)), fun full => run.trans (congrArg Host.Outcome.next (agRequest_full full))⟩

/-- An operation that asks where its operands are valid gives its address alone where one is idle. -/
theorem asks_or_gives {i : Instr} {sp : Space} {n : Nat} {kind : AgKind} {operand : Word} {valid : Bool}
    (run : exec i s = .next (if valid then (s.agAddress d w reads).agRequest (cvtaFrom sp w).toNat n kind operand s.lineA else s.agAddress d w reads)) :
    (valid = true → Asks i s d w reads sp n kind kind.access operand) ∧ (valid = false → exec i s = .next (s.agGave d w reads)) := by
  constructor
  · rintro rfl
    exact asks_of_request run
  · rintro rfl
    exact run

end

/-! ## The statement -/

/-- Settles O25: with valid operands an operation asks (`asks_of_request`); otherwise it gives its address alone. -/
theorem addressGenerators : Obligations.AddressGenerators := by
  intro s d sp a b c sum
  refine ⟨fun z => ?_, fun sc op z => asks_or_gives rfl⟩
  intro n scaled
  have size : n = agBytes z := by cases z <;> rfl
  have loads := asks_or_gives (i := .agLd d sp z) (s := s) rfl
  have gathers := asks_or_gives (i := .agGath d sp z) (s := s) rfl
  have stores := asks_or_gives (i := .agSt d sp z) (s := s) rfl
  have scatters := asks_or_gives (i := .agScat d sp z) (s := s) rfl
  rw [Bool.and_eq_true, Bool.and_eq_false_iff] at stores scatters
  simp only [scaled, size]
  exact ⟨fun valid => ⟨loads.1 valid, gathers.1 valid⟩, fun idle => ⟨loads.2 idle, gathers.2 idle⟩, fun valid => ⟨stores.1 valid, scatters.1 valid⟩,
    fun idle => ⟨stores.2 idle, scatters.2 idle⟩⟩

end Sys2Proof.Machine
end

section
/-! The JOIN elements (R218 to R221): what one issue makes of the queues, the done marks and the pending output, and what it delivers. -/

namespace Sys2Proof.Machine

/-! ## One issue (R220) -/

/-- What a comparison emits of the values it took, and what the element keeps of it (R221). -/
def joinEmit (op : JoinOp) (wide : Bool) (e : Elem) (a b : Option Val) : Elem × Val :=
  match op with
  | .merge => (e, joinPlain ((a.orElse fun _ => b).getD Val.zero))
  | .isect => if a.isSome && b.isSome then ({ e with pend := (joinPair wide a b).2 }, (joinPair wide a b).1) else (e, Val.idle 0 false)
  | .union => ({ e with pend := (joinPair wide a b).2 }, (joinPair wide a b).1)

section
variable {op : JoinOp} {wide : Bool} {lv : Nat} {e : Elem}

theorem takeA_eq {v : Val} {q : List Val} (head : e.qa = v :: q) :
    ({ e with qa := (joinTake lv e.qa e.doneA).1, doneA := (joinTake lv e.qa e.doneA).2 } : Elem) = e.tookA lv v := by
  rw [Elem.tookA, head]
  rfl

theorem takeB_eq {v : Val} {q : List Val} (head : e.qb = v :: q) :
    ({ e with qb := (joinTake lv e.qb e.doneB).1, doneB := (joinTake lv e.qb e.doneB).2 } : Elem) = e.tookB lv v := by
  rw [Elem.tookB, head]
  rfl

theorem joinIssue_pending {v : Val} (pending : e.pend = some v) : joinIssue op wide lv e = ({ e with pend := none }, v) := by
  rw [joinIssue, pending]

variable (none_ : e.pend = none)
include none_

theorem joinIssue_done {x y : BitVec 4 × Bool} (doneA : e.doneA = some x) (doneB : e.doneB = some y) :
    joinIssue op wide lv e = ({ e with doneA := none, doneB := none }, Val.idle (if x.1.toNat < y.1.toNat then y.1 else x.1) (x.2 || y.2)) := by
  rw [joinIssue, none_]
  simp only [doneA, doneB]

theorem joinIssue_idleA {v : Val} {q : List Val} (doneA : e.doneA = none) (head : e.qa = v :: q) (idle : v.valid = false) :
    joinIssue op wide lv e = (e.tookA lv v, Val.idle 0 false) := by
  rw [joinIssue, none_, ← takeA_eq head]
  simp [doneA, head, idle]

theorem joinIssue_idleB {v : Val} {q : List Val} (doneB : e.doneB = none) (head : e.qb = v :: q) (idle : v.valid = false)
    (busyA : e.doneA = none → ∀ w, e.qa.head? = some w → w.valid = true) : joinIssue op wide lv e = (e.tookB lv v, Val.idle 0 false) := by
  rw [joinIssue, none_, ← takeB_eq head]
  cases doneA : e.doneA with
  | some x => simp [doneA, doneB, head, idle]
  | none => cases qa : e.qa with
    | nil => simp [doneA, doneB, head, idle, qa]
    | cons w q => simp [doneA, doneB, head, idle, qa, busyA doneA w (by rw [qa]; rfl)]

theorem joinIssue_waits (waits : (e.doneA = none ∧ e.qa = [] ∧ (e.doneB = none → ∀ w, e.qb.head? = some w → w.valid = true))
    ∨ (e.doneB = none ∧ e.qb = [] ∧ (e.doneA = none → ∀ w, e.qa.head? = some w → w.valid = true))) : joinIssue op wide lv e = (e, Val.idle 0 false) := by
  rw [joinIssue, none_]
  rcases waits with ⟨doneA, qa, busyB⟩ | ⟨doneB, qb, busyA⟩
  · cases doneB : e.doneB with
    | some x => simp [doneA, qa]
    | none => cases qb : e.qb with
      | nil => simp [doneA, qa]
      | cons w q => simp [doneA, qa, busyB doneB w (by rw [qb]; rfl)]
  · cases doneA : e.doneA with
    | some x => simp [doneB, qb]
    | none => cases qa : e.qa with
      | nil => simp [doneB, qb]
      | cons w q => simp [doneB, qb, busyA doneA w (by rw [qa]; rfl)]

/-- With side B done, the head of QA is taken alone. -/
theorem joinIssue_onlyA {v : Val} {q : List Val} {x : BitVec 4 × Bool} (doneA : e.doneA = none) (doneB : e.doneB = some x) (head : e.qa = v :: q) (valid : v.valid = true) :
    joinIssue op wide lv e = joinEmit op wide (e.tookA lv v) (some v) none := by
  rw [joinIssue, none_, ← takeA_eq head]
  simp only [doneA, doneB, head, valid] <;> rfl

theorem joinIssue_onlyB {v : Val} {q : List Val} {x : BitVec 4 × Bool} (doneA : e.doneA = some x) (doneB : e.doneB = none) (head : e.qb = v :: q) (valid : v.valid = true) :
    joinIssue op wide lv e = joinEmit op wide (e.tookB lv v) none (some v) := by
  rw [joinIssue, none_, ← takeB_eq head]
  simp only [doneA, doneB, head, valid] <;> rfl

/-- With both sides busy, the lower key is taken; of equal keys MERGE takes A's, the others both. -/
theorem joinIssue_compares {v w : Val} {q r : List Val} (doneA : e.doneA = none) (doneB : e.doneB = none) (headA : e.qa = v :: q) (headB : e.qb = w :: r)
    (validA : v.valid = true) (validB : w.valid = true) : joinIssue op wide lv e =
      if joinKey wide v < joinKey wide w then joinEmit op wide (e.tookA lv v) (some v) none
      else if joinKey wide w < joinKey wide v then joinEmit op wide (e.tookB lv w) none (some w)
      else if op = .merge then joinEmit op wide (e.tookA lv v) (some v) none
      else joinEmit op wide ((e.tookA lv v).tookB lv w) (some v) (some w) := by
  have headB' : (e.tookA lv v).qb = w :: r := headB
  rw [joinIssue, none_, ← takeB_eq headB', ← takeB_eq headB, ← takeA_eq headA]
  simp only [doneA, doneB, headA, headB, validA, validB] <;> rfl

end

/-! ## The operations (R218, R219) -/

/-- The element once it has appended what it reads (R218, R219). -/
def State.joinRead (s : State) (lv : Nat) : Elem := { s.elemF with qa := joinAppend lv s.elemF.qa s.lineA, qb := joinAppend lv s.elemF.qb s.lineB }

section
variable {s : State} {i : Instr} {d : Dest} {op : JoinOp} {wide : Bool} {lv : BitVec 4}

theorem join_skipped (skipped : ∃ c, s.cyc = some c ∧ c.skip = true) : s.join op wide lv d = s.result 2 d (Val.idle 0 false) := by
  obtain ⟨c, cyc, skip⟩ := skipped
  rw [State.join, cyc, Option.map_some, skip]

variable (awake : ¬∃ c, s.cyc = some c ∧ c.skip = true)
include awake

theorem join_awake : s.join op wide lv d = if 16 < (s.joinRead lv.toNat).qa.length ∨ 16 < (s.joinRead lv.toNat).qb.length then s.holdCyc else
    let r := joinIssue op wide lv.toNat (s.joinRead lv.toNat)
    ((s.modElemF fun _ => r.1).result 2 d r.2).mism (mismG [s.lineA, s.lineB] + r.2.wrong) := by
  unfold State.join
  split
  · next skip =>
    obtain ⟨c, cyc, skip⟩ := Option.map_eq_some_iff.1 skip
    exact absurd ⟨c, cyc, skip⟩ awake
  · simp only [mismP_own]
    rfl

theorem joins_of_issue (run : exec i s = .next (s.join op wide lv d)) (fitsA : (s.joinRead lv.toNat).qa.length ≤ 16) (fitsB : (s.joinRead lv.toNat).qb.length ≤ 16) {e : Elem} {v : Val}
    (issue : joinIssue op wide lv.toNat (s.joinRead lv.toNat) = (e, v)) : Joins i s d e v := by
  rw [Joins, run, join_awake awake, if_neg (by omega), issue]

end

/-- Settles O27: each case of an issue is one equation of `joinIssue`, and what a comparison emits (`joinEmit`) is what R221 says of the operation. -/
theorem joinElements : Obligations.JoinElements := by
  intro s d wide lv i op form k add e idle skipped one made pays emits head
  have run : exec i s = .next (s.join op wide lv d) := by
    rcases form with ⟨rfl, rfl⟩ | ⟨rfl, rfl⟩ | ⟨rfl, rfl⟩ <;> rfl
  have read : e = s.joinRead lv.toNat := by
    simp only [State.joinRead, joinAppend, endsRun, ← Bool.or_assoc]
    rfl
  clear_value e
  subst read
  refine ⟨fun skip => run.trans (congrArg _ (join_skipped skip)), fun awake full => run.trans ?_, fun awake fitsA fitsB => ?_⟩
  · rw [join_awake awake, if_pos full]
  have joins {e : Elem} {v : Val} := joins_of_issue (e := e) (v := v) awake run fitsA fitsB
  have emitted {e : Elem} {x y : Option Val} (issue : joinIssue op wide lv.toNat (s.joinRead lv.toNat) = joinEmit op wide e x y) : emits e x y := by
    cases op <;> rcases x with _ | v <;> rcases y with _ | w
    case merge.none.none | union.none.none => trivial
    all_goals exact joins issue
  refine ⟨fun v pending => joins (joinIssue_pending pending), fun none_ => ⟨fun x y doneA doneB => joins (joinIssue_done none_ doneA doneB), fun v doneA first idle => ?_,
    fun v doneB first idle busyA => ?_, fun waits => joins (joinIssue_waits none_ waits), fun v x doneA doneB first valid => ?_, fun v x doneA doneB first valid => ?_,
    fun v w doneA doneB firstA firstB validA validB => ?_⟩⟩
  · obtain ⟨q, first⟩ := List.head?_eq_some_iff.1 first
    exact joins (joinIssue_idleA none_ doneA first idle)
  · obtain ⟨q, first⟩ := List.head?_eq_some_iff.1 first
    exact joins (joinIssue_idleB none_ doneB first idle busyA)
  · obtain ⟨q, first⟩ := List.head?_eq_some_iff.1 first
    exact emitted (joinIssue_onlyA none_ doneA doneB first valid)
  · obtain ⟨q, first⟩ := List.head?_eq_some_iff.1 first
    exact emitted (joinIssue_onlyB none_ doneA doneB first valid)
  · obtain ⟨q, firstA⟩ := List.head?_eq_some_iff.1 firstA
    obtain ⟨r, firstB⟩ := List.head?_eq_some_iff.1 firstB
    have compares := joinIssue_compares (op := op) (wide := wide) (lv := lv.toNat) none_ doneA doneB firstA firstB validA validB
    refine ⟨?_, fun less => ?_, fun same differ => ?_⟩
    · rintro (less | ⟨same, rfl⟩)
      · exact emitted (compares.trans (if_pos less))
      · exact emitted (compares.trans ((if_neg same.not_lt).trans ((if_neg same.not_gt).trans (if_pos rfl))))
    · exact emitted (compares.trans ((if_neg less.not_gt).trans (if_pos less)))
    · exact emitted (compares.trans ((if_neg same.not_lt).trans ((if_neg same.not_gt).trans (if_neg differ))))

end Sys2Proof.Machine
end

section
/-! The boundary, check, sequence and rill operations (R226 to R230, R281). -/

namespace Sys2Proof.Machine

/-! ## What mismatches counted and values received leave -/

section
variable (s : State)

theorem free_mism (n : Nat) : (s.mism n).free = s.free := by
  unfold State.mism
  split <;> rfl

theorem wall_mism (n : Nat) : (s.mism n).wall = s.wall := by
  unfold State.mism
  split <;> rfl

theorem eng_mism (n h : Nat) : (s.mism n).eng h = s.eng h := by
  unfold State.mism
  split <;> rfl

theorem eng_result (lam : Nat) (d : Dest) (v : Val) (h : Nat) : (s.result lam d v).eng h = s.eng h :=
  result_induction (fun t => t.eng h = s.eng h) rfl fun _ => State.eng_modTh ..

theorem eng_modCyc (f : Cyc → Cyc) (h : Nat) : (s.modCyc f).eng h = s.eng h := rfl

theorem elemF_modCyc (f : Cyc → Cyc) : (s.modCyc f).elemF = s.elemF := rfl

theorem cntF_modCyc (f : Cyc → Cyc) : (s.modCyc f).cntF = s.cntF := rfl

/-- What a value received changes is the context cycle alone (R280). -/
theorem receive_induction (P : State → Prop) {vs : List Val} {l : List Nat} (stay : P s) (change : ∀ f, P (s.modCyc f)) : P (s.receive_ vs l) :=
  iteInduction (motive := P) (fun _ => stay) fun _ => change _

theorem eng_receive (vs : List Val) (l : List Nat) (h : Nat) : (s.receive_ vs l).eng h = s.eng h := receive_induction s (fun t => t.eng h = s.eng h) rfl fun _ => eng_modCyc ..

theorem elemF_receive (vs : List Val) (l : List Nat) : (s.receive_ vs l).elemF = s.elemF := receive_induction s (fun t => t.elemF = s.elemF) rfl fun _ => elemF_modCyc ..

theorem cntF_receive (vs : List Val) (l : List Nat) : (s.receive_ vs l).cntF = s.cntF := receive_induction s (fun t => t.cntF = s.cntF) rfl fun _ => cntF_modCyc ..

theorem elemF_modEng (g : Nat) (f : Engines → Engines) : (s.modEng g f).elemF = s.elemF := congrArg (·.elem s.focus.stem s.focus.row) (State.th_modEng ..)

theorem cntF_modEng (g : Nat) (f : Engines → Engines) : (s.modEng g f).cntF = s.cntF := congrArg Thicket.cnt (State.th_modEng ..)

end

/-- The state once the focused element's value has left as the next mote of a rill (R230). -/
def State.moteSent (s : State) (r : BitVec 5) : State :=
  let x := (s.eng s.focus.glade).rill r.toNat
  let route := field x.cfg.toNat 44 8
  let m := s.sentBy s.focus.glade s.focus.stem (256 * s.countF + 16 * s.focus.row + s.focus.stem) route
    { data := s.lineA.data, rill := r, edm := s.lineA.edm, residue := s.lineA.residue, route := BitVec.ofNat 8 route, seq := x.oseq, err := s.lineA.err, last := s.lineA.last, rels := s.lineA.rels }
  (s.modEng s.focus.glade fun y => { y with rills := nset y.rills r.toNat { x with oseq := x.oseq + 1, ostream := { x.ostream with out := x.ostream.out ++ [m] } } }).modCyc
    fun c => { c with sent := c.sent ++ [(s.focus.stem, s.focus.row)] }

section
variable (s : State) (r : BitVec 5)

theorem elemF_moteSent : (s.moteSent r).elemF = s.elemF := by simp only [State.moteSent, elemF_modCyc, elemF_modEng]

theorem cntF_moteSent : (s.moteSent r).cntF = s.cntF := by simp only [State.moteSent, cntF_modCyc, cntF_modEng]

theorem rill_moteSent : let x := (s.eng s.focus.glade).rill r.toNat
    let route := field x.cfg.toNat 44 8
    ((s.moteSent r).eng s.focus.glade).rill r.toNat = { x with
      oseq := x.oseq + 1
      ostream := { x.ostream with out := x.ostream.out ++ [s.sentBy s.focus.glade s.focus.stem (256 * s.countF + 16 * s.focus.row + s.focus.stem) route
        { data := s.lineA.data, rill := r, edm := s.lineA.edm, residue := s.lineA.residue, route := BitVec.ofNat 8 route, seq := x.oseq, err := s.lineA.err, last := s.lineA.last
          rels := s.lineA.rels }] } } := by
  simp only [State.moteSent, eng_modCyc, State.eng_modEng_self]
  rw [Engines.rill, nget_nset_self]

end

/-! ## Boundary and check operations (R226 to R228) -/

section
variable {s : State} {d : Dest} {ty : ElemType}

/-- BND.REL in flight carries its release, numbered before it is made (R226, R281). -/
theorem bndRel_eq : exec (.bndRel d ty) s = .next (if d = .dis then s.mism (mismG [s.lineA] + s.lineA.wrong) else
    ((s.mism (mismG [s.lineA] + s.lineA.wrong)).drawn.bndRelease s.focus.glade s.free).modElemF fun e => { e with flight := e.flight ++
      [{ land := s.cntF + 2, issued := s.cntF, rso := decide (d = .rso), rel := some s.wall
         val := Val.made { s.lineA.passed [s.lineA] with
           rels := s.lineA.rels ++ [⟨(Sys2Proof.Scope.ofCode (clsScope (s.stemF.clsAt s.focus.row))).getD .glade, s.focus.glade, s.free⟩] } }] }) := by
  change execBndRel d ty s = _
  simp only [execBndRel, mismP_own, focus_mism, free_mism, cntF_mism, wall_mism, ne_mod15_iff]
  rfl

theorem resChk_eq {flt : Bool} : let bad := s.lineA.err || decide (s.lineA.residue.toNat ≠ s.lineA.data.toNat % 15)
    exec (.resChk d ty flt) s = .next (if flt && bad then (s.mism 1).faultCyc 0x083 (s.focus.stem + 16 * s.focus.row)
      else (s.mism (if bad then 1 else 0)).result 1 d { s.lineA with err := bad }) := by
  intro bad
  change execResChk d ty flt s = _
  have checked : (s.lineA.err || decide (s.lineA.residue ≠ mod15 s.lineA.data)) = bad := by simp only [ne_mod15_iff, bad]
  simp only [execResChk, checked, focus_mism, b2n]
  cases bad <;> cases flt <;> rfl

/-- SEQ.TAG passes what is no mote (R228). -/
theorem seqTag_other (other : s.lineA.valid = false ∨ s.lineA.port = false) :
    exec (.seqTag d ty) s = .next ((s.result 1 d (s.lineA.passed [s.lineA])).mism (mismG [s.lineA] + s.lineA.wrong)) := by
  rw [← resultA_eq s 1 d (List.mem_singleton_self _)]
  exact if_pos other

section
variable (valid : s.lineA.valid = true) (port : s.lineA.port = true)
include valid port

theorem seqTag_mote : exec (.seqTag d ty) s = if s.lineA.err then .next ((s.result 1 d { valid := false }).mism (mismG [s.lineA]))
    else if s.lineA.seq = s.elemF.expect then
      .next (((s.result 1 d (s.lineA.passed [s.lineA])).mism (mismG [s.lineA] + s.lineA.wrong)).modElemF fun x => { x with expect := s.elemF.expect + 1 })
    else if 1 ≤ (s.elemF.expect - s.lineA.seq).toNat ∧ (s.elemF.expect - s.lineA.seq).toNat ≤ 2 ^ 15 then .next ((s.result 1 d { valid := false }).mism (mismG [s.lineA]))
    else .next (s.faultCyc 0x084 (s.elemF.expect.toNat + 2 ^ 16 * s.lineA.seq.toNat)) := by
  rw [← resultA_eq s 1 d (List.mem_singleton_self _)]
  exact if_neg (by simp [valid, port])

theorem seqTag_damaged (err : s.lineA.err = true) : exec (.seqTag d ty) s = .next ((s.result 1 d { valid := false }).mism (mismG [s.lineA])) := by
  rw [seqTag_mote valid port, if_pos err]

variable (sound : s.lineA.err = false)
include sound

theorem seqTag_expected (next_ : s.lineA.seq = s.elemF.expect) : exec (.seqTag d ty) s =
    .next (((s.result 1 d (s.lineA.passed [s.lineA])).mism (mismG [s.lineA] + s.lineA.wrong)).modElemF fun x => { x with expect := s.elemF.expect + 1 }) := by
  rw [seqTag_mote valid port, if_neg (Bool.not_eq_true _ ▸ sound), if_pos next_]

theorem seqTag_unexpected (behind : 0 < (s.elemF.expect - s.lineA.seq).toNat) : exec (.seqTag d ty) s =
    if (s.elemF.expect - s.lineA.seq).toNat ≤ 2 ^ 15 then .next ((s.result 1 d { valid := false }).mism (mismG [s.lineA]))
    else .next (s.faultCyc 0x084 (s.elemF.expect.toNat + 2 ^ 16 * s.lineA.seq.toNat)) := by
  have other : s.lineA.seq ≠ s.elemF.expect := fun same => by simp [same] at behind
  rw [seqTag_mote valid port, if_neg (Bool.not_eq_true _ ▸ sound), if_neg other]
  exact if_congr (and_iff_right behind) rfl rfl

end

/-! ## Rill ports (R229, R230) -/

variable {r : BitVec 5}

theorem rillIn_torn (torn : ((s.eng s.focus.glade).rill r.toNat).status = 1) : exec (.rillIn d ty r) s = .next (s.faultCyc 0x0C6 r.toNat) := if_pos torn

section
variable (whole : ((s.eng s.focus.glade).rill r.toNat).status ≠ 1)
include whole

/-- RILL.IN takes the head of its row's lane. -/
theorem rillIn_head {v : Val} (head : ((s.eng s.focus.glade).rill r.toNat).port.head s.focus.row = some v) : ∃ t : State, exec (.rillIn d ty r) s = .next t
    ∧ ((t.eng s.focus.glade).rill r.toNat).port = ((s.eng s.focus.glade).rill r.toNat).port.take s.focus.row ∧ t.mem = s.mem
    ∧ t.elemF.flight = s.elemF.flight ++ s.flights 2 d [{ v with residue := mod15 v.data, err := v.err || v.mismatch }] := by
  refine ⟨_, (if_neg whole).trans (by rw [head]), ?_, ?_, ?_⟩
  · rw [eng_mism, eng_result, eng_receive, State.eng_modEng_self, Engines.rill, nget_nmod_self]
    rfl
  · exact ((receive_calm ..).trans ((result_calm ..).trans (mism_calm ..))).1
  · rw [elemF_mism, flight_result, elemF_receive, elemF_modEng]
    simp only [State.flights, cntF_receive, cntF_modEng]

theorem rillIn_empty (empty : ((s.eng s.focus.glade).rill r.toNat).port.head s.focus.row = none) : exec (.rillIn d ty r) s =
    .next (if field (s.stemF.tapAt s.countF) 15 1 = 1 then s.modCyc fun c => { c with tapHold := true } else s.faultCyc 0x082 (s.focus.stem + 2 ^ 8 + 2 ^ 9 * r.toNat)) := by
  refine (if_neg whole).trans ?_
  rw [empty]
  exact congrArg Host.Outcome.next (if_congr (bit_iff_field ..) rfl rfl)

end

theorem rillOut_idle (idle : s.lineA.valid = false) : exec (.rillOut d ty r) s = .next ((s.result 1 d (s.lineA.passed [s.lineA])).mism (mismG [s.lineA] + s.lineA.wrong)) := by
  rw [← resultA_eq s 1 d (List.mem_singleton_self _)]
  exact if_pos idle

section
variable (valid : s.lineA.valid = true)
include valid

theorem rillOut_sent (sent : (s.focus.stem, s.focus.row) ∈ (s.th s.focus.glade).sent) : exec (.rillOut d ty r) s =
    .next (((s.modCyc fun c => { c with sent := c.sent ++ [(s.focus.stem, s.focus.row)] }).result 1 d (s.lineA.passed [s.lineA])).mism (mismG [s.lineA] + s.lineA.wrong)) := by
  rw [← resultA_eq _ 1 d (List.mem_singleton_self _)]
  exact (if_neg (by simp [valid])).trans (if_pos (decide_eq_true sent))

variable (fresh : (s.focus.stem, s.focus.row) ∉ (s.th s.focus.glade).sent)
include fresh

theorem rillOut_bad {c v : Nat} (bad : s.emitBad s.focus.glade s.focus.stem (field ((s.eng s.focus.glade).rill r.toNat).cfg.toNat 44 8) = some (c, v)) :
    exec (.rillOut d ty r) s = .next (s.faultCyc c v) := by
  rw [← bits_eq_field _ 51 44] at bad
  refine (if_neg (by simp [valid])).trans ((if_neg (by simpa [State.sentF] using fresh)).trans ?_)
  rw [bad]

variable (clear : s.emitBad s.focus.glade s.focus.stem (field ((s.eng s.focus.glade).rill r.toNat).cfg.toNat 44 8) = none)
include clear

theorem rillOut_clear : exec (.rillOut d ty r) s = if 16 ≤ ((s.eng s.focus.glade).rill r.toNat).ostream.out.length ∨ s.cyc.any (·.full) = true then
    .next (s.holdCyc.modCyc fun c => { c with full := true }) else .next ((s.moteSent r).resultA 1 d s.lineA [s.lineA]) := by
  simp only [State.moteSent]
  rw [← bits_eq_field _ 51 44] at clear ⊢
  refine (if_neg (by simp [valid])).trans ((if_neg (by simpa [State.sentF] using fresh)).trans ?_)
  rw [clear]
  rfl

/-- RILL.OUT sends a valid value as the next mote of its rill and passes it on. -/
theorem rillOut_sends (room : ((s.eng s.focus.glade).rill r.toNat).ostream.out.length < 16) (open_ : s.cyc.any (·.full) = false) : ∃ t : State, exec (.rillOut d ty r) s = .next t
    ∧ (t.eng s.focus.glade).rill r.toNat = ((s.moteSent r).eng s.focus.glade).rill r.toNat ∧ t.mem = s.mem
    ∧ t.elemF.flight = s.elemF.flight ++ s.flights 1 d [s.lineA.passed [s.lineA]] := by
  refine ⟨_, (rillOut_clear valid fresh clear).trans (if_neg (by simp [room, open_])), ?_, (resultA_calm ..).1, ?_⟩
  · rw [resultA_eq _ 1 d (List.mem_singleton_self _), eng_mism, eng_result]
  · rw [resultA_eq _ 1 d (List.mem_singleton_self _), elemF_mism, flight_result, elemF_moteSent]
    simp only [State.flights, cntF_moteSent]

end

end

/-! ## The statement -/

/-- Settles O29, operation by operation; what RILL.OUT leaves of its rill is `rill_moteSent`. -/
theorem boundaryAndRills : Obligations.BoundaryAndRills := by
  intro s d ty a e g bad kept sc counted passes dropped lands
  refine ⟨?_, fun flt => resChk_eq, seqTag_other, fun valid port => ⟨seqTag_damaged valid port, seqTag_expected valid port, fun sound behind near => ?_, fun sound far => ?_⟩, fun r => ?_⟩
  · rw [bndRel_eq]
    by_cases dis : d = .dis
    · simp only [if_pos dis]
      rfl
    · simp only [lands, if_neg dis]
      rfl
  · rw [seqTag_unexpected valid port sound behind, if_pos near]
  · rw [seqTag_unexpected valid port sound (Nat.zero_lt_of_lt far), if_neg far.not_ge]
  · intro x route
    refine ⟨rillIn_torn, fun whole v head => rillIn_head whole head, rillIn_empty, rillOut_idle, rillOut_sent, fun valid fresh => ⟨fun c v => rillOut_bad valid fresh, fun clear full => ?_,
      fun clear room open_ => ?_⟩⟩
    · rw [rillOut_clear valid fresh clear, if_pos full]
    · obtain ⟨t, run, rill, mem, flight⟩ := rillOut_sends (d := d) (ty := ty) valid fresh clear room open_
      rw [rill_moteSent] at rill
      exact ⟨t, run, congrArg Rill.oseq rill, mem, congrArg (·.ostream.out) rill, flight⟩

end Sys2Proof.Machine
end

section
/-! The integer operations of the elements (R207, R208): each lane is the bit vector that the rules write, and the predicted residues. -/

namespace Sys2Proof.Machine

/-! ## Lanes (R198) -/

theorem lane0_eq (w : Word) : lane0 w = (w.extractLsb' 0 32).toNat := by simp [lane0, BitVec.extractLsb'_toNat]

theorem lane1_eq (w : Word) : lane1 w = (w.extractLsb' 32 32).toNat := by
  have := w.isLt
  simp only [lane1, BitVec.extractLsb'_toNat, Nat.shiftRight_eq_div_pow]
  omega

theorem ofLanes_eq (x y : Nat) : ofLanes x y = BitVec.ofNat 32 y ++ BitVec.ofNat 32 x := by
  refine BitVec.eq_of_toNat_eq ?_
  rw [ofLanes, BitVec.toNat_append, BitVec.toNat_ofNat, BitVec.toNat_ofNat, BitVec.toNat_ofNat, ← Nat.shiftLeft_add_eq_or_of_lt (Nat.mod_lt _ (by decide)), Nat.shiftLeft_eq]
  omega

theorem lanes_append (w : Word) : w.extractLsb' 32 32 ++ w.extractLsb' 0 32 = w := by
  refine BitVec.eq_of_toNat_eq ?_
  have := w.isLt
  rw [BitVec.toNat_append, ← lane1_eq, ← lane0_eq, ← Nat.shiftLeft_add_eq_or_of_lt (by rw [lane0]; omega), Nat.shiftLeft_eq, lane0, lane1]
  omega

section
variable {ty : IntType} (a b c : Word)

theorem tMap2_eq {f : Nat → Nat → Nat} {g : (n : Nat) → BitVec n → BitVec n → BitVec n} (lane : ∀ x y : BitVec (tBits ty), BitVec.ofNat (tBits ty) (f x.toNat y.toNat) = g (tBits ty) x y) :
    tMap2 ty f a b = eachLane ty g a b := by
  have two (lane : ∀ x y : BitVec 32, BitVec.ofNat 32 (f x.toNat y.toNat) = g 32 x y) :
      Machine.map2 f a b = g 32 (a.extractLsb' 32 32) (b.extractLsb' 32 32) ++ g 32 (a.extractLsb' 0 32) (b.extractLsb' 0 32) := by
    rw [Machine.map2, ofLanes_eq, lane0_eq, lane0_eq, lane1_eq, lane1_eq, lane, lane]
  cases ty with
  | s32 | z32 => exact two lane
  | s64 | z64 => exact lane a b

end

/-! ## A lane's result (R207) -/

theorem ofNat_ofS_width (n : Nat) (i : Int) : BitVec.ofNat n (ofS n i) = BitVec.ofInt n i := by
  refine BitVec.eq_of_toNat_eq ?_
  rw [ofS, BitVec.toNat_ofNat, BitVec.toNat_ofInt, Nat.mod_eq_of_lt]
  omega

theorem toS_eq_toInt {n : Nat} (x : BitVec n) : toS n x.toNat = x.toInt := by
  rcases n.eq_zero_or_pos with rfl | some_
  · rw [BitVec.eq_nil x]
    rfl
  have half : 2 ^ n = 2 * 2 ^ (n - 1) := by rw [← pow_succ', Nat.sub_add_cancel some_]
  simp only [toS, BitVec.toInt_eq_toNat_cond, Nat.mod_eq_of_lt x.isLt]
  split <;> split <;> omega

section
variable {ty : IntType} {n : Nat} (x y : BitVec n)

theorem tRd_eq (x : BitVec (tBits ty)) : tRd ty x.toNat = laneInt ty x := by
  have whole : x.toNat % 2 ^ tBits ty = x.toNat := Nat.mod_eq_of_lt x.isLt
  rw [tRd, toS_eq_toInt, whole]
  cases ty <;> rfl

theorem add_lane : BitVec.ofNat n ((x.toNat + y.toNat) % 2 ^ n) = x + y := BitVec.eq_of_toNat_eq (by simp)

theorem sub_lane : BitVec.ofNat n ((x.toNat + 2 ^ n - y.toNat) % 2 ^ n) = x - y := by
  refine BitVec.eq_of_toNat_eq ?_
  rw [BitVec.toNat_ofNat, Nat.mod_mod, BitVec.toNat_sub, Nat.add_comm, Nat.sub_add_comm y.isLt.le]

theorem mul_lane : BitVec.ofNat n (x.toNat * y.toNat % 2 ^ n) = x * y := BitVec.eq_of_toNat_eq (by simp)

theorem shl_lane (k : Nat) : BitVec.ofNat n (x.toNat * 2 ^ k % 2 ^ n) = x <<< k := BitVec.eq_of_toNat_eq (by simp [Nat.shiftLeft_eq])

theorem shr_lane (k : Nat) : BitVec.ofNat n (x.toNat / 2 ^ k) = x >>> k := by
  rw [← Nat.shiftRight_eq_div_pow, ← BitVec.toNat_ushiftRight, BitVec.ofNat_toNat, BitVec.setWidth_eq]

theorem sar_lane (k : Nat) : BitVec.ofNat n (ofS n (toS n x.toNat / ((2 ^ k : Nat) : Int))) = x.sshiftRight k := by
  rw [ofNat_ofS_width, toS_eq_toInt, ← Int.shiftRight_eq_div_pow, ← BitVec.toInt_sshiftRight, BitVec.ofInt_toInt]

theorem choice_lane (p : Prop) [Decidable p] : BitVec.ofNat n (if p then x.toNat else y.toNat) = if p then x else y := by
  split_ifs <;> rw [BitVec.ofNat_toNat, BitVec.setWidth_eq]

theorem flag_lane (p : Prop) [Decidable p] : BitVec.ofNat n (if decide p then 2 ^ n - 1 else 0) = if p then BitVec.allOnes n else 0 := by
  simp only [decide_eq_true_eq]
  split_ifs
  · exact BitVec.eq_of_toNat_eq (by rw [BitVec.toNat_ofNat, BitVec.toNat_allOnes, Nat.mod_eq_of_lt (Nat.sub_lt (Nat.two_pow_pos n) Nat.one_pos)])
  · rfl

theorem laneInt_inj {x y : BitVec n} : laneInt ty x = laneInt ty y ↔ x = y := by
  unfold laneInt
  split_ifs
  · exact BitVec.toInt_inj
  · exact Int.natCast_inj.trans BitVec.toNat_inj

end

section
variable (ty : IntType) (a b c : Word)

theorem iaddW_eq : iaddW ty a b = eachLane ty (fun _ x y => x + y) a b := tMap2_eq a b add_lane

theorem isubW_eq : isubW ty a b = eachLane ty (fun _ x y => x - y) a b := tMap2_eq a b sub_lane

theorem imulW_eq : imulW ty a b = eachLane ty (fun _ x y => x * y) a b := tMap2_eq a b mul_lane

theorem imulhW_eq : imulhW ty a b = eachLane ty (fun n x y => BitVec.ofInt n (laneInt ty x * laneInt ty y / 2 ^ n)) a b :=
  tMap2_eq a b fun x y => by rw [ofNat_ofS_width, tRd_eq, tRd_eq, Nat.cast_pow, Nat.cast_ofNat]

theorem ishlW_eq : ishlW ty a b = eachLane ty (fun n x y => x <<< (y.toNat % n)) a b := tMap2_eq a b fun x _ => shl_lane x _

theorem ishrW_eq : ishrW ty a b = eachLane ty (fun n x y => x >>> (y.toNat % n)) a b := tMap2_eq a b fun x _ => shr_lane x _

theorem isarW_eq : isarW ty a b = eachLane ty (fun n x y => x.sshiftRight (y.toNat % n)) a b := tMap2_eq a b fun x _ => sar_lane x _

theorem iminW_eq : iminW ty a b = eachLane ty (fun _ x y => if laneInt ty x ≤ laneInt ty y then x else y) a b :=
  tMap2_eq a b fun x y => by rw [tRd_eq, tRd_eq, choice_lane]

theorem imaxW_eq : imaxW ty a b = eachLane ty (fun _ x y => if laneInt ty y ≤ laneInt ty x then x else y) a b :=
  tMap2_eq a b fun x y => by rw [tRd_eq, tRd_eq, choice_lane]

theorem icmpW_eq_eq : icmpW ty .eq a b = eachLane ty (fun n x y => if x = y then BitVec.allOnes n else 0) a b :=
  tMap2_eq a b fun x y => (flag_lane _).trans (if_congr (by rw [tRd_eq, tRd_eq, laneInt_inj]) rfl rfl)

theorem icmpW_ne_eq : icmpW ty .ne a b = eachLane ty (fun n x y => if x = y then 0 else BitVec.allOnes n) a b :=
  tMap2_eq a b fun x y => (flag_lane _).trans ((if_congr (by rw [tRd_eq, tRd_eq, Ne, laneInt_inj]) rfl rfl).trans (ite_not ..))

theorem icmpW_lt_eq : icmpW ty .lt a b = eachLane ty (fun n x y => if laneInt ty x < laneInt ty y then BitVec.allOnes n else 0) a b :=
  tMap2_eq a b fun x y => (flag_lane _).trans (if_congr (by rw [tRd_eq, tRd_eq]) rfl rfl)

theorem icmpW_le_eq : icmpW ty .le a b = eachLane ty (fun n x y => if laneInt ty x ≤ laneInt ty y then BitVec.allOnes n else 0) a b :=
  tMap2_eq a b fun x y => (flag_lane _).trans (if_congr (by rw [tRd_eq, tRd_eq]) rfl rfl)

/-- A bitwise function of the lanes is that of the words. -/
theorem eachLane_bitwise {f : (n : Nat) → BitVec n → BitVec n → BitVec n} (append : ∀ p q r t : BitVec 32, f 64 (p ++ q) (r ++ t) = f 32 p r ++ f 32 q t) : f 64 a b = eachLane ty f a b := by
  have split := append (a.extractLsb' 32 32) (a.extractLsb' 0 32) (b.extractLsb' 32 32) (b.extractLsb' 0 32)
  rw [lanes_append, lanes_append] at split
  cases ty with
  | s32 | z32 => exact split
  | s64 | z64 => rfl

/-- ISEL takes each lane of A where C's is not 0, else of B. -/
theorem iselW_eq : iselW ty a b c = if ty = .s64 ∨ ty = .z64 then (if c = 0 then b else a) else
    (if lane1 c = 0 then b else a).extractLsb' 32 32 ++ (if lane0 c = 0 then b else a).extractLsb' 0 32 := by
  have two : Machine.map3 (fun x y z => if z ≠ 0 then x else y) a b c = (if lane1 c = 0 then b else a).extractLsb' 32 32 ++ (if lane0 c = 0 then b else a).extractLsb' 0 32 := by
    rw [Machine.map3, ofLanes_eq, lane0_eq a, lane0_eq b, lane1_eq a, lane1_eq b, choice_lane, choice_lane, ite_not, ite_not, apply_ite (BitVec.extractLsb' 32 32),
      apply_ite (BitVec.extractLsb' 0 32)]
  have whole : (BitVec.ofNat 64 (if c.toNat ≠ 0 then a.toNat else b.toNat) : Word) = if c = 0 then b else a := by
    rw [choice_lane, ite_not]
    exact if_congr ⟨fun zero => BitVec.eq_of_toNat_eq zero, fun zero => congrArg BitVec.toNat zero⟩ rfl rfl
  cases ty with
  | s32 | z32 => exact two
  | s64 | z64 => exact whole

end

/-! ## Predicted residues (R208) -/

section
variable (ty : IntType) (a b : Word)

/-- How many lanes of a type pass a test of their width (R198). -/
theorem laneCount_eq (p : Nat → Nat → Nat → Bool) : laneCount ty (p (tBits ty)) a b =
    if ty = .s64 ∨ ty = .z64 then (p 64 a.toNat b.toNat).toNat else (p 32 (lane0 a) (lane0 b)).toNat + (p 32 (lane1 a) (lane1 b)).toNat := by
  have flag (q : Bool) : b2n q = q.toNat := by cases q <;> rfl
  cases ty <;> simp [laneCount, tBits, flag]

theorem laneCount_le (p : Nat → Nat → Bool) : laneCount ty p a b ≤ 2 := by
  have flag (q : Bool) : b2n q ≤ 1 := by cases q <;> decide
  have low := flag (p (lane0 a) (lane0 b))
  have high := flag (p (lane1 a) (lane1 b))
  have whole := flag (p a.toNat b.toNat)
  unfold laneCount
  split <;> omega

theorem add_carry {m x y : Nat} (hx : x < m) (hy : y < m) : x + y = (x + y) % m + m * b2n (decide (x + y ≥ m)) := by
  by_cases carry : m ≤ x + y
  · rw [Nat.mod_eq_sub_mod carry, Nat.mod_eq_of_lt (by omega)]
    simp only [b2n, carry, decide_true, if_true]
    omega
  · rw [Nat.mod_eq_of_lt (by omega)]
    simp [b2n, carry]

theorem sub_borrow {m x y : Nat} (hx : x < m) (hy : y < m) : x + m * b2n (decide (x < y)) = (x + m - y) % m + y := by
  by_cases borrow : x < y
  · rw [Nat.mod_eq_of_lt (by omega)]
    simp only [b2n, borrow, decide_true, if_true]
    omega
  · rw [Nat.mod_eq_sub_mod (by omega), Nat.mod_eq_of_lt (by omega)]
    simp only [b2n, borrow, decide_false, Bool.false_eq_true, if_false]
    omega

theorem toNat_ofLanes {x y : Nat} (hx : x < 2 ^ 32) (hy : y < 2 ^ 32) : (ofLanes x y).toNat = x + 2 ^ 32 * y := by
  rw [ofLanes, BitVec.toNat_ofNat]
  omega

theorem toNat_eq_lanes (w : Word) : w.toNat = lane0 w + 2 ^ 32 * lane1 w := (Nat.mod_add_div ..).symm

theorem lane0_lt (w : Word) : lane0 w < 2 ^ 32 := Nat.mod_lt _ (by decide)

theorem lane1_lt (w : Word) : lane1 w < 2 ^ 32 := by
  rw [lane1_eq]
  exact BitVec.isLt _

theorem tBits_cases (ty : IntType) : tBits ty = 32 ∨ tBits ty = 64 := by cases ty <;> decide

/-- 2^32 and 2^64 are 1 modulo 15, so each carry out of a lane takes 1 from the sum. -/
theorem iaddW_mod15 : (((iaddW ty a b).toNat % 15 : Nat) : Int) = ((a.toNat % 15 : Nat) + (b.toNat % 15 : Nat) - (laneCount ty (fun x y => decide (x + y ≥ 2 ^ tBits ty)) a b : Nat)) % 15 := by
  rcases tBits_cases ty with h | h
  · have low := add_carry (lane0_lt a) (lane0_lt b)
    have high := add_carry (lane1_lt a) (lane1_lt b)
    have sum := toNat_ofLanes (Nat.mod_lt (lane0 a + lane0 b) (Nat.two_pow_pos 32)) (Nat.mod_lt (lane1 a + lane1 b) (Nat.two_pow_pos 32))
    simp only [iaddW, tMap2, laneCount, h, if_true, Machine.map2, sum, toNat_eq_lanes a, toNat_eq_lanes b]
    omega
  · have whole := add_carry a.isLt b.isLt
    simp only [iaddW, tMap2, laneCount, h, Nat.reduceEqDiff, if_false, BitVec.toNat_ofNat, Nat.mod_mod]
    omega

theorem isubW_mod15 : (((isubW ty a b).toNat % 15 : Nat) : Int) = ((a.toNat % 15 : Nat) - (b.toNat % 15 : Nat) + (laneCount ty (fun x y => decide (x < y)) a b : Nat)) % 15 := by
  rcases tBits_cases ty with h | h
  · have low := sub_borrow (lane0_lt a) (lane0_lt b)
    have high := sub_borrow (lane1_lt a) (lane1_lt b)
    have difference := toNat_ofLanes (Nat.mod_lt (lane0 a + 2 ^ 32 - lane0 b) (Nat.two_pow_pos 32)) (Nat.mod_lt (lane1 a + 2 ^ 32 - lane1 b) (Nat.two_pow_pos 32))
    simp only [isubW, tMap2, laneCount, h, if_true, Machine.map2, difference, toNat_eq_lanes a, toNat_eq_lanes b]
    omega
  · have whole := sub_borrow a.isLt b.isLt
    simp only [isubW, tMap2, laneCount, h, Nat.reduceEqDiff, if_false, BitVec.toNat_ofNat, Nat.mod_mod]
    omega

theorem mul_mod15 : (((a * b).toNat % 15 : Nat) : Int) = ((a.toNat % 15 : Nat) * (b.toNat % 15 : Nat) - (a.toNat * b.toNat / 2 ^ 64 : Nat)) % 15 := by
  have product := Nat.mul_mod a.toNat b.toNat 15
  rw [BitVec.toNat_mul, ← Nat.cast_mul]
  omega

end

section
variable {ty : IntType} (a b : Val)

theorem iaddRes_cast : ((iaddRes ty a b).toNat : Int) = ((a.residue.toNat : Int) + b.residue.toNat - (laneCount ty (fun x y => decide (x + y ≥ 2 ^ tBits ty)) a.data b.data : Nat)) % 15 := by
  have few := laneCount_le ty a.data b.data fun x y => decide (x + y ≥ 2 ^ tBits ty)
  rw [iaddRes, BitVec.toNat_ofNat]
  omega

theorem isubRes_cast : ((isubRes ty a b).toNat : Int) = ((a.residue.toNat : Int) - b.residue.toNat + (laneCount ty (fun x y => decide (x < y)) a.data b.data : Nat)) % 15 := by
  have := b.residue.isLt
  rw [isubRes, BitVec.toNat_ofNat]
  omega

theorem imulRes_cast : ((imulRes a b).toNat : Int) = ((a.residue.toNat : Int) * b.residue.toNat - a.data.toNat * b.data.toNat / 2 ^ 64) % 15 := by
  rw [imulRes, BitVec.toNat_ofNat, ← Nat.cast_mul, ← Nat.cast_mul]
  omega

variable {a b} {i : Instr} {s : State} {lam : Nat} {d : Dest} {reads : List Val} {w : Word} {p : BitVec 4} {r : Int}

/-- A result with a predicted residue: a prediction that disagrees with the data marks the result and is counted (R199). -/
theorem predicted (run : exec i s = .next (s.resultP lam d reads w p)) (residue : (p.toNat : Int) = r % 15) :
    ∃ v : Val, exec i s = .next ((s.result lam d v).mism (mismG reads + if r % 15 = (w.toNat % 15 : Nat) then 0 else 1))
      ∧ v = { mkG reads w with residue := v.residue, err := v.err } ∧ (v.residue.toNat : Int) = r % 15 ∧ (v.err = true ↔ (mkG reads w).err = true ∨ r % 15 ≠ (w.toNat % 15 : Nat)) := by
  have wrong : p ≠ mod15 w ↔ r % 15 ≠ (w.toNat % 15 : Nat) := by rw [ne_mod15_iff, ← residue, Ne, Ne, Int.natCast_inj]
  refine ⟨mkP reads w p, run.trans ?_, rfl, residue, ?_⟩
  · simp only [State.resultP, mismP, wrong, b2n, decide_eq_true_eq, ite_not]
  · simp only [mkP, Bool.or_eq_true, decide_eq_true_eq, wrong]
    rfl

/-- A prediction that agrees with the data is the generated residue. -/
theorem gives_of_predicted (run : exec i s = .next (s.resultP lam d reads w p)) (agree : p.toNat = w.toNat % 15) : Gives i s lam d reads w := by
  have same : p = mod15 w := not_not.1 fun wrong => (ne_mod15_iff p w).1 wrong agree
  subst same
  refine run.trans ?_
  simp only [State.resultP, mkP, mismP, ne_eq, not_true, decide_false, Bool.or_false, b2n, Bool.false_eq_true, if_false, Nat.add_zero]
  rfl

end

/-! ## The statement -/

/-- Settles O22: the words lane by lane (`tMap2_eq`), and the predictions, which agree with the data where those of the operands do (`iaddW_mod15`, `isubW_mod15`, `mul_mod15`). -/
theorem integerElements : Obligations.IntegerElements := by
  intro s d ty imm a b c wide bin count predicts
  have gives {i : Instr} {lam : Nat} {reads : List Val} {v w : Word} (word : v = w) (run : exec i s = .next (s.resultG lam d reads v)) : Gives i s lam d reads w := word ▸ run
  have predicts_of {i : Instr} {lam : Nat} {v w : Word} {p : BitVec 4} {r : Int} (word : v = w) (run : exec i s = .next (s.resultP lam d [a, b] v p)) (residue : (p.toNat : Int) = r % 15)
      (agree : a.residue.toNat = a.data.toNat % 15 → b.residue.toNat = b.data.toNat % 15 → ((v.toNat % 15 : Nat) : Int) = r % 15) : predicts i lam w r := by
    subst word
    exact ⟨predicted run residue, fun ha hb => gives_of_predicted run (Int.natCast_inj.1 (residue.trans (agree ha hb).symm))⟩
  have carries : laneCount ty (fun x y => decide (x + y ≥ 2 ^ tBits ty)) a.data b.data = count fun n x y => decide (2 ^ n ≤ x + y) :=
    laneCount_eq ty a.data b.data fun n x y => decide (2 ^ n ≤ x + y)
  have borrows : laneCount ty (fun x y => decide (x < y)) a.data b.data = count fun _ x y => decide (x < y) := laneCount_eq ty a.data b.data fun _ x y => decide (x < y)
  have tBits_wide : wide ↔ tBits ty = 64 := by cases ty <;> simp [wide, tBits]
  have product : wide → imulW ty a.data b.data = a.data * b.data := by rintro (rfl | rfl) <;> exact imulW_eq ..
  rw [← carries, ← borrows]
  refine ⟨predicts_of (iaddW_eq ty _ _) rfl (iaddRes_cast a b) fun ha hb => ?_, predicts_of (isubW_eq ty _ _) rfl (isubRes_cast a b) fun ha hb => ?_,
    fun is64 => predicts_of (product is64) (congrArg Host.Outcome.next (if_pos (tBits_wide.1 is64))) (imulRes_cast a b) fun ha hb => ?_,
    fun is32 => gives (imulW_eq ty _ _) (congrArg Host.Outcome.next (if_neg (is32 ∘ tBits_wide.2))), gives (imulhW_eq ty _ _) rfl,
    gives (eachLane_bitwise ty _ _ fun _ _ _ _ => BitVec.and_append) rfl, gives (eachLane_bitwise ty _ _ fun _ _ _ _ => BitVec.or_append) rfl,
    gives (eachLane_bitwise ty _ _ fun _ _ _ _ => BitVec.xor_append) rfl, gives (ishlW_eq ty _ _) rfl, gives (ishrW_eq ty _ _) rfl, gives (isarW_eq ty _ _) rfl, gives (iminW_eq ty _ _) rfl,
    gives (imaxW_eq ty _ _) rfl, gives (icmpW_eq_eq ty _ _) rfl, gives (icmpW_ne_eq ty _ _) rfl, gives (icmpW_lt_eq ty _ _) rfl, gives (icmpW_le_eq ty _ _) rfl,
    gives (iselW_eq ty _ _ _) rfl⟩
  · rw [ha, hb, iaddW_mod15]
  · rw [ha, hb, isubW_mod15]
  · rw [product is64, ha, hb, mul_mod15, Int.natCast_ediv, Nat.cast_mul]
    rfl

end Sys2Proof.Machine
end

section
/-! # Every step keeps the canonical form of memory (R231, R239): what a change of the state does

`Safe` speaks of `State.mem` alone, and memory changes only through `memPut` and `memZero`, which keep its form. So each function of the model that gives a state
gets one rule here: it keeps `Safe`. A rule is the composition of the rules of the functions it calls, along the branches of its definition. Functions that other
parts of the development showed to leave memory as it is (`Same`, `Calm`, `Silent`, `Unwritten`, `Keeps`) are used through those facts. -/

namespace Sys2Proof.Machine

/-- An outcome leads to a state whose memory is in its canonical form, if it leads to one. -/
def Sound (o : Outcome) : Prop := ∀ t, o = .next t → Safe t

section
variable {s t : State} {o o' : Outcome} {c : Prop} [Decidable c]

theorem Keeps.safe (k : Keeps s t) (h : Safe s) : Safe t := (k.2 h).1

theorem Unwritten.safe (k : Unwritten s t) (h : Safe s) : Safe t := (k.bytes h).1

theorem safe_of_mem (same : t.mem = s.mem) (h : Safe s) : Safe t := by rwa [Safe, same]

theorem Same.safe (k : Same s t) (h : Safe s) : Safe t := safe_of_mem k.1 h

theorem Calm.safe (k : Calm s t) (h : Safe s) : Safe t := safe_of_mem k.1 h

theorem Silent.safe (k : Silent s t) (h : Safe s) : Safe t := k.same.safe h

theorem ite_safe (yes : Safe s) (no : Safe t) : Safe (if c then s else t) :=
  iteInduction (motive := Safe) (fun _ => yes) fun _ => no

theorem ite_fst_safe {α : Type} {p q : State × α} (yes : Safe p.1) (no : Safe q.1) : Safe (if c then p else q).1 :=
  iteInduction (motive := fun u : State × α => Safe u.1) (fun _ => yes) fun _ => no

/-- A change that may be made. -/
theorem when_safe (change : Safe s → Safe t) (h : Safe s) : Safe (if c then t else s) := ite_safe (change h) h

theorem foldl_safe {α : Type} {f : State → α → State} {l : List α} (step : ∀ s x, Safe s → Safe (f s x)) (h : Safe s) :
    Safe (l.foldl f s) :=
  List.foldlRecOn (motive := Safe) l f h fun u w x _ => step u x w

theorem foldl_fst_safe {α β : Type} {f : State × α → β → State × α} {l : List β} {p : State × α} (step : ∀ r x, Safe r.1 → Safe (f r x).1)
    (h : Safe p.1) : Safe (l.foldl f p).1 :=
  List.foldlRecOn (motive := fun r => Safe r.1) l f h fun r w x _ => step r x w

theorem fst_safe {α : Type} {p : State × α} {a : α} (e : p = (t, a)) (h : Safe p.1) : Safe t := by
  rw [e] at h
  exact h

theorem Sound.next (h : Safe t) : Sound (.next t) := by
  rintro _ ⟨⟩
  exact h

theorem Sound.fault {f : Fault} : Sound (.fault f) := by
  rintro _ ⟨⟩

theorem Sound.ite (yes : Sound o) (no : Sound o') : Sound (if c then o else o') := iteInduction (motive := Sound) (fun _ => yes) fun _ => no

theorem Harmless.sound (k : Harmless s o) (h : Safe s) : Sound o := fun t e => (k t e).safe h

end

variable {s : State}

theorem emit_safe {o} (h : Safe s) : Safe (s.emit o) := h

theorem life_safe {item idx n} (h : Safe s) : Safe (s.life item idx n) := h

theorem releaseDies_safe {failed} (h : Safe s) : Safe (s.releaseDies failed) := by
  unfold State.releaseDies
  extract_lets bad pk fresh
  have same : fresh.mem = s.mem := rfl
  exact foldl_safe (fun _ _ => life_safe) (safe_of_mem same h)

theorem execPowerOn_sound {failed} (h : Safe s) : Sound (execPowerOn failed s) := by
  unfold execPowerOn
  refine .ite (.next h) (.ite (.next (safe_of_mem rfl (cold_wf _ h))) (.ite (.next (emit_safe (safe_of_mem rfl (cold_wf _ h)))) ?_))
  split
  · exact .next (emit_safe (safe_of_mem rfl (cold_wf _ h)))
  · exact .next (releaseDies_safe (safe_of_mem rfl (safe_of_mem rfl (cold_wf _ h))))

theorem modJob_safe {c f} (h : Safe s) : Safe (s.modJob c f) := h

theorem advJob_safe {ctx st} (h : Safe s) : Safe (s.advJob ctx st) := h

theorem modDie_safe {d f} (h : Safe s) : Safe (s.modDie d f) := h

theorem modArm_safe {d n f} (h : Safe s) : Safe (s.modArm d n f) := h

theorem advLaunch_safe {d n st} (h : Safe s) : Safe (s.advLaunch d n st) := h

theorem modFn_safe {n f} (h : Safe s) : Safe (s.modFn n f) := h

theorem put_safe {a bs} (h : Safe s) : Safe (s.put a bs) := put_wf s a bs h

theorem putNoted_safe {a bs before_ agent} (h : Safe s) : Safe (s.putNoted a bs before_ agent) := put_safe h

theorem touch_safe {a n merge} (h : Safe s) : Safe (s.touch a n merge) := h

theorem modGlade_safe {g f} (h : Safe s) : Safe (s.modGlade g f) := h

theorem modBough_safe {g f} (h : Safe s) : Safe (s.modBough g f) := h

theorem modWw_safe {g f} (h : Safe s) : Safe (s.modWw g f) := h

theorem modEng_safe {g f} (h : Safe s) : Safe (s.modEng g f) := h

theorem modLink_safe {l f} (h : Safe s) : Safe (s.modLink l f) := h

theorem putFlit_safe {l f} (h : Safe s) : Safe (s.putFlit l f) := h

theorem transmit_safe {l kind payload} (h : Safe s) : Safe (s.transmit l kind payload) := h

theorem tell_safe {pkg kind m} (h : Safe s) : Safe (s.tell pkg kind m) := by
  unfold State.tell
  split
  · exact (sendFlit_silent ..).safe h
  · split <;> exact h

theorem settleTears_safe (h : Safe s) : Safe (s.settleTears) := h

theorem dropPoints_safe {gone} (h : Safe s) : Safe (s.dropPoints gone) := h

theorem endAcquires_safe {g} (h : Safe s) : Safe (s.endAcquires g) := h

theorem write_safe {a bs before_ own agent} (h : Safe s) : Safe (s.write a bs before_ own agent) := write_wf s a bs before_ own h agent

theorem ringRecord_safe {vf ring idx tag status ordinal} (h : Safe s) : Safe (s.ringRecord vf ring idx tag status ordinal) :=
  ite_safe h (modFn_safe (write_safe h))

theorem record_safe {o status} (h : Safe s) : Safe (s.record o status) := by
  unfold State.record
  split
  · exact modFn_safe (ringRecord_safe h)
  · dsimp only
    split
    · exact (sendFlit_silent ..).safe h
    · exact h

theorem advGraph_safe {d n st} (h : Safe s) : Safe (s.advGraph d n st) := h

theorem cancelMatches_safe {d e} : ∀ n {s}, Safe s → Safe (cancelMatches d e n s)
  | 0, _, h => h
  | n + 1, s, h => by
    unfold cancelMatches
    split
    · exact h
    · exact cancelMatches_safe n (advJob_safe (record_safe (advGraph_safe (modArm_safe (foldl_safe (fun _ _ => advLaunch_safe) h)))))

theorem modInstance_safe {root f} (h : Safe s) : Safe (s.modInstance root f) := h

theorem skipEntry_safe {root k} (h : Safe s) : Safe (s.skipEntry root k) := h

theorem flow_safe {from_ at_} (h : Safe s) : Safe (s.flow from_ at_) := h

theorem fireLaunch_safe {d e payload origin root} (h : Safe s) : Safe (s.fireLaunch d e payload origin root).1 :=
  safe_of_mem (fireLaunch_mem ..) h

theorem stepInstance_safe {root} : ∀ n {s}, Safe s → Safe (stepInstance root n s)
  | 0, _, h => h
  | n + 1, s, h => by
    unfold stepInstance
    split
    · exact h
    · split
      · exact h
      · split
        · exact stepInstance_safe n (skipEntry_safe h)
        · exact stepInstance_safe n (modInstance_safe (fireLaunch_safe h))

theorem endMembers_safe {root i} (h : Safe s) : Safe (s.endMembers root i) := h

theorem recordFor_safe {o status} (h : Safe s) : Safe (s.recordFor o status) := by
  unfold State.recordFor
  split
  · exact record_safe h
  · exact h

theorem cancelNamed_safe {d n} (h : Safe s) : Safe (s.cancelNamed d n) := ite_safe h (modArm_safe (cancelMatches_safe _ h))

theorem settleArm_safe {d n} (h : Safe s) : Safe (s.settleArm d n) := ite_safe h h

theorem startInstance_safe {d n payload origin} (h : Safe s) : Safe (s.startInstance d n payload origin) :=
  modDie_safe (modArm_safe (fireLaunch_safe h))

theorem settleInstance_safe {root} (h : Safe s) : Safe (s.settleInstance root) := by
  unfold State.settleInstance
  extract_lets t d e filtered
  have h : Safe t := stepInstance_safe _ h
  split
  · exact h
  · refine ite_safe h ?_
    extract_lets ended recorded settled
    have h : Safe recorded := advJob_safe (recordFor_safe (advGraph_safe (endMembers_safe (modDie_safe h))))
    have h : Safe settled := cancelNamed_safe (foldl_safe (fun _ _ => settleArm_safe) h)
    split
    · exact settleArm_safe (modArm_safe h)
    · exact startInstance_safe (modArm_safe h)

theorem nextOr_safe {o} (h : Safe s) (sound : Sound o) : Safe (nextOr s o) := by
  unfold nextOr
  split
  · exact sound _ rfl
  · exact h

theorem asyncFault_safe {g cause value th rank} (h : Safe s) : Safe (s.asyncFault g cause value th rank) := h

theorem modTh_safe {g f} (h : Safe s) : Safe (s.modTh g f) := h

theorem modAg_safe {g st k f} (h : Safe s) : Safe (s.modAg g st k f) := h

theorem perf_safe {g n n2} (h : Safe s) : Safe (s.perf g n n2) := h

theorem noGlade_safe {cause fn ctx value aux} (h : Safe s) : Safe (s.noGlade cause fn ctx value aux) := (noGlade_keeps ..).safe h

theorem execAgStorePerformed_sound {g st k} (h : Safe s) : Sound (execAgStorePerformed g st k s) := by
  unfold execAgStorePerformed
  split
  · exact .next h
  · refine .ite (.next h) (.ite (.next h) ?_)
    split
    · exact .next h
    · exact .next (modAg_safe (write_safe h))
    · split
      · exact .next h
      · exact .next (modAg_safe (safe_of_mem rfl (write_safe ((served_silent ..).safe h))))

theorem execAgReply_sound {g st k} (h : Safe s) : Sound (execAgReply g st k s) := by
  unfold execAgReply
  split
  · exact .next h
  · dsimp only
    split
    · exact .next h
    · split <;> exact .next h
    · exact .ite (.next h) (.ite (.next h) (.next (touch_safe ((hbmRead_silent ..).safe h))))

theorem quiesceAg_safe {g i} : ∀ n {s}, Safe s → Safe (quiesceAg g i n s)
  | 0, _, h => h
  | n + 1, s, h => by
    have stored : Safe (nextOr s (execAgStorePerformed g (i / 16) (i % 16) s)) := nextOr_safe h (execAgStorePerformed_sound h)
    exact quiesceAg_safe n (nextOr_safe stored (execAgReply_sound stored))

theorem modClearing_safe {c f} (h : Safe s) : Safe (s.modClearing c f) := h

theorem engPiece_safe {g a n k} (h : Safe s) : Safe (s.engPiece g a n k).1 := by
  unfold State.engPiece
  dsimp only
  split
  · refine ite_fst_safe h ?_
    split
    all_goals next e => exact fst_safe e ((fillWalk_silent ..).safe h)
  · exact (served_silent ..).safe h
  · exact h

theorem engAccess_safe {g k} : ∀ l {s : State}, Safe s → Safe (s.engAccess g k l).1
  | [], _, h => h
  | (a, n) :: t, s, h => by
    unfold State.engAccess
    split
    · next e =>
      have h := fst_safe e (engPiece_safe h)
      refine ite_fst_safe h ?_
      split
      · next e => exact touch_safe (fst_safe e (engAccess_safe t h))
      · exact engAccess_safe t h
    all_goals next e => exact fst_safe e (engPiece_safe h)

theorem usage_safe {c i n} (h : Safe s) : Safe (s.usage c i n) := h

theorem noteSent_safe {g pkg} (h : Safe s) : Safe (s.noteSent g pkg) := h

theorem finishEntry_safe {g tl n status} (h : Safe s) : Safe (s.finishEntry g tl n status) := h

theorem faulted_safe {g tl n} (h : Safe s) : Safe (s.faulted g tl n) := ite_safe h h

theorem entryFault_safe {g tl n cause value} (h : Safe s) : Safe (s.entryFault g tl n cause value) := asyncFault_safe (faulted_safe h)

theorem request_safe {fn x} (h : Safe s) : Safe (s.request fn x) := h

theorem engStop_safe {g x wr v} (h : Safe s) : Safe (s.engStop g x wr v) := by
  unfold State.engStop
  split
  · exact entryFault_safe h
  · exact ite_safe (entryFault_safe h) ((needPage_silent ..).safe h)
  · exact h

theorem landLink_safe {g x} (h : Safe s) : Safe (s.landLink g x) := by
  unfold State.landLink
  dsimp only
  split
  · next e =>
    have h := fst_safe e (engAccess_safe _ h)
    exact perf_safe (usage_safe (noteSent_safe (modEng_safe (safe_of_mem (sendTile_mem ..) (foldl_safe (fun _ _ => (hbmRead_silent
        ..).safe) h)))))
  · next e => exact engStop_safe (fst_safe e (engAccess_safe _ h))

theorem scatter_safe {before_} : ∀ l bs {s}, Safe s → Safe (scatter before_ l bs s)
  | [], _, _, h => h
  | (_, _) :: t, _, _, h => scatter_safe t _ (write_safe h)

theorem releaseCount_safe {g r hit} (h : Safe s) : Safe (s.releaseCount g r hit) := h

theorem placeTile_safe {g x pd bs} (h : Safe s) : Safe (s.placeTile g x pd bs) :=
  ite_safe (scatter_safe _ _ h) (releaseCount_safe (scatter_safe _ _ h))

theorem rillStatus_safe {g r st} (h : Safe s) : Safe (s.rillStatus g r st) := h

theorem modSession_safe {c n f} (h : Safe s) : Safe (s.modSession c n f) := h

/-- A tile that is not what its sender sealed gives its rill an error and ends (R385). -/
theorem tileTorn_safe {g x c r v a b} (h : Safe s) : Safe ((s.rillStatus c r v).tileDone g x a b) :=
  safe_of_mem (tileDone_mem ..) (rillStatus_safe h)

theorem landTile_safe {g x} (h : Safe s) : Safe (s.landTile g x) := by
  unfold State.landTile
  extract_lets d t src dst nonce ctr
  split
  · next e =>
    have h := fst_safe e (engAccess_safe _ h)
    split
    · next e =>
      have h := fst_safe e (engAccess_safe _ h)
      extract_lets r u c
      have h : Safe u := foldl_safe (fun _ _ => (hbmRead_silent ..).safe) h
      refine ite_safe (safe_of_mem (tileDone_mem ..) (placeTile_safe h)) ?_
      split
      · exact ite_safe (entryFault_safe h) (tileTorn_safe h)
      · refine ite_safe (safe_of_mem (tileDone_mem ..) (usage_safe (placeTile_safe h))) ?_
        split
        · exact ite_safe (safe_of_mem (tileDone_mem ..) (usage_safe (modSession_safe (placeTile_safe h)))) (tileTorn_safe h)
        · exact tileTorn_safe h
    · next e => exact engStop_safe (fst_safe e (engAccess_safe _ h))
  · next e => exact engStop_safe (fst_safe e (engAccess_safe _ h))

theorem landOne_safe {g x} (h : Safe s) : Safe (s.landOne g x) := ite_safe (landLink_safe h) (landTile_safe h)

theorem quiesceTiles_safe {g q tl k} : ∀ n {s}, Safe s → Safe (quiesceTiles g q tl k n s)
  | 0, _, h => h
  | n + 1, s, h => by
    refine quiesceTiles_safe n ?_
    split
    · exact landOne_safe h
    · exact h

theorem quiesceRaft_safe {g raft} (h : Safe s) : Safe (quiesceRaft s g raft) := foldl_safe (fun _ _ h => quiesceTiles_safe _ h) h

theorem zoneNotice_safe {slot zone k} (h : Safe s) : Safe (s.zoneNotice slot zone k) := ite_safe h (tell_safe h)

theorem slotReleased_safe {g zone slot} (h : Safe s) : Safe (s.slotReleased g zone slot) := by
  unfold State.slotReleased
  split
  · exact h
  · exact ite_safe h (ite_safe h (zoneNotice_safe h))

theorem noticeZone_safe {g off r} (h : Safe s) : Safe (s.noticeZone g off r) := by
  unfold State.noticeZone
  split
  · exact slotReleased_safe h
  · exact h

theorem noticeRaft_safe {g r} (h : Safe s) : Safe (s.noticeRaft g r) := by
  unfold State.noticeRaft
  dsimp only
  split <;> exact h

theorem rearm_safe {g r} (h : Safe s) : Safe (s.rearm g r) := h

theorem releaseFires_safe {g} : ∀ l {s}, Safe s → Safe (releaseFires g l s)
  | [], _, h => h
  | _ :: t, _, h => releaseFires_safe t (noticeZone_safe (noticeRaft_safe (rearm_safe h)))

theorem modStand_safe {g f} (h : Safe s) : Safe (s.modStand g f) := h

theorem endOp_safe {g opnum status} (h : Safe s) : Safe (s.endOp g opnum status) := h

theorem drained_safe {g t steer fault} (h : Safe s) : Safe (s.drained g t steer fault) := finishEntry_safe (foldl_safe (fun _ _ h => h) h)

theorem drawn_safe (h : Safe s) : Safe (s.drawn) := h

theorem openAsync_safe {g cause rank} (h : Safe s) : Safe (s.openAsync g cause rank) := h

theorem feedRill_safe {d r m} (h : Safe s) : Safe (s.feedRill d r m) := ite_safe h h

theorem landBytes_safe {d zi slot k off bs err before_} (h : Safe s) : Safe (s.landBytes d zi slot k off bs err before_) := by
  unfold State.landBytes
  split
  · exact h
  · refine ite_safe h (when_safe (fun h => ?_) (modEng_safe (write_safe h)))
    exact safe_of_mem (countRill_mem ..) (releaseCount_safe h)

theorem landMote_safe {d zi k m before_} (h : Safe s) : Safe (s.landMote d zi k m before_) := by
  unfold State.landMote
  split
  · exact h
  · split
    · exact h
    · exact feedRill_safe (landBytes_safe h)

theorem sink_safe {g w m n tl op c before_} (h : Safe s) : Safe (s.sink g w m n tl op c before_) := by
  unfold State.sink
  extract_lets d kind st
  refine ite_safe (modBough_safe h) <| ite_safe (modBough_safe h) <| ite_safe (modBough_safe h) <| ite_safe ?_ <|
    ite_safe (feedRill_safe (safe_of_mem (countRill_mem ..) h)) <| ite_safe (landMote_safe h) ?_
  · exact ite_safe (entryFault_safe h) (ite_safe (entryFault_safe h) (write_safe h))
  · split
    · exact modEng_safe ((sendFlit_silent ..).safe h)
    · exact h

theorem beatTo_safe {g w b steer t ws entry} (h : Safe s) : Safe (s.beatTo g w b steer t ws entry) :=
  ite_safe (ite_safe (entryFault_safe h) (ite_safe (entryFault_safe h) (write_safe h))) (foldl_safe (fun _ _ => sink_safe) h)

theorem beatAll_safe {g b steer set entry ws} : ∀ l {s}, Safe s → Safe (beatAll g b steer set entry ws l s)
  | [], _, h => h
  | _ :: t, _, h => beatAll_safe t (beatTo_safe h)

theorem execDrainBeat_sound {g t} (h : Safe s) : Sound (execDrainBeat g t s) := by
  unfold execDrainBeat
  extract_lets x y start last
  refine .ite (.next h) ?_
  have h : Safe start := by
    unfold start
    split
    · extract_lets u
      split
      · exact asyncFault_safe (drained_safe (modStand_safe h))
      · exact modStand_safe (modStand_safe h)
    · exact h
  split
  · exact .next h
  · next dr _ =>
    extract_lets ended beaten noted
    have ends {u : State} (h : Safe u) : Safe (ended u) := ite_safe h (perf_safe (drained_safe h))
    have hNoted : Safe noted := modStand_safe (beatAll_safe _ h)
    exact .ite (.next (ends h)) (.ite (.next (ite_safe (ends hNoted) hNoted)) (.next h))

theorem quiesceDrain_safe {g t} : ∀ n {s}, Safe s → Safe (quiesceDrain g t n s)
  | 0, _, h => h
  | n + 1, s, h => by
    have drained : Safe (nextOr s (execDrainBeat g t s)) := nextOr_safe h (execDrainBeat_sound h)
    unfold quiesceDrain
    split
    · exact h
    · exact ite_safe drained (quiesceDrain_safe n drained)

theorem setPlanes_safe {i p} : ∀ l {s}, Safe s → Safe (setPlanes i p l s)
  | [], _, h => h
  | _ :: t, _, h => setPlanes_safe t (modStand_safe h)

theorem settleRun_safe {g} (h : Safe s) : Safe (s.settleRun g) := by
  unfold State.settleRun
  split
  · exact ite_safe h h
  · exact h

theorem execEntryRetire_sound {g q} (h : Safe s) : Sound (execEntryRetire g q s) := by
  unfold execEntryRetire
  dsimp only
  split
  · exact .next (modEng_safe (safe_of_mem (mem_releaseEntry ..) (ite_safe (settleRun_safe h) h)))
  · exact .next (ite_safe (settleRun_safe h) h)

theorem quiesceRetire_safe {g q} : ∀ n {s}, Safe s → Safe (quiesceRetire g q n s)
  | 0, _, h => h
  | n + 1, _, h => quiesceRetire_safe n (nextOr_safe h (execEntryRetire_sound h))

theorem quiesce_safe {g} (h : Safe s) : Safe (s.quiesce g) := by
  unfold State.quiesce
  extract_lets t ok is stored emptied rafts fired placed beaten settled retired
  have h : Safe rafts := quiesceRaft_safe (quiesceRaft_safe (modTh_safe (foldl_safe (fun _ _ => quiesceAg_safe _) (modEng_safe
      ((discard_silent ..).safe h)))))
  have h : Safe beaten := quiesceDrain_safe _ (quiesceDrain_safe _ (modStand_safe (releaseFires_safe _ h)))
  have h : Safe settled := by
    unfold settled
    split
    · exact setPlanes_safe _ h
    · exact h
  exact modEng_safe (foldl_safe (fun _ _ => quiesceRetire_safe _) h)

theorem quiesceGlades_safe {gs} (h : Safe s) : Safe (s.quiesceGlades gs) :=
  foldl_safe (fun _ _ => quiesce_safe) (foldl_safe (fun _ _ => (discard_silent ..).safe) h)

end Sys2Proof.Machine
end

section
/-! # The canonical form of memory: launches, jobs, rings and host registers -/

namespace Sys2Proof.Machine

variable {s : State}

theorem advUnit_safe {d n upos st} (h : Safe s) : Safe (s.advUnit d n upos st) := h

theorem advPhase_safe {d n st} (h : Safe s) : Safe (s.advPhase d n st) := h

theorem releaseLaunch_safe {d n l} (h : Safe s) : Safe (s.releaseLaunch d n l) := by
  unfold State.releaseLaunch
  dsimp only
  split <;> exact h

theorem reportEnded_safe {g zone k} (h : Safe s) : Safe (s.reportEnded g zone k) :=
  ite_safe ((modHome_same ..).safe h) ((report_same ..).safe h)

theorem reclaim_safe {g r} (h : Safe s) : Safe (s.reclaim g r) :=
  ite_safe (settleTears_safe ((modHome_same ..).safe h)) ((report_same ..).safe h)

theorem endKeys_safe {g v cancelled} (h : Safe s) : Safe (s.endKeys g v cancelled) :=
  when_safe (foldl_safe fun _ _ => reclaim_safe) (foldl_safe (fun _ _ => reportEnded_safe) h)

theorem endSaved_safe {ctx cancelled v} (h : Safe s) : Safe (s.endSaved ctx cancelled v) := endKeys_safe (ite_safe h h)

theorem modSide_safe {g b f} (h : Safe s) : Safe (s.modSide g b f) := h

theorem vacate_safe {g b cancelled} (h : Safe s) : Safe (s.vacate g b cancelled) :=
  modGlade_safe (modSide_safe (endKeys_safe (ite_safe h h)))

theorem dropRecords_safe {d l ctx} (h : Safe s) : Safe (s.dropRecords d l ctx) :=
  modDie_safe (foldl_safe (fun _ _ h => ite_safe (memZero_wf _ _ h) h) h)

theorem graftBoundary_safe {k} (h : Safe s) : Safe (s.graftBoundary k) := h

theorem graftRelease_safe {k} (h : Safe s) : Safe (s.graftRelease k) := h

theorem endLaunch_safe {d n st} (h : Safe s) : Safe (s.endLaunch d n st) := by
  unfold State.endLaunch
  split
  · exact h
  · extract_lets released emptied removed ended counted recorded
    have h : Safe emptied :=
      ite_safe (foldl_safe (fun _ _ => endSaved_safe) (releaseLaunch_safe h)) (foldl_safe (fun _ _ => vacate_safe) (releaseLaunch_safe h))
    have h : Safe ended := usage_safe (advLaunch_safe (modDie_safe (dropRecords_safe (graftRelease_safe h))))
    have h : Safe counted := by
      unfold counted
      split
      · exact usage_safe h
      · exact h
    have h : Safe recorded := by
      unfold recorded
      split
      · exact advJob_safe (recordFor_safe h)
      · exact settleInstance_safe (modInstance_safe h)
    exact settleArm_safe h

theorem cancelLaunch_safe {d n st} (h : Safe s) : Safe (s.cancelLaunch d n st) := by
  unfold State.cancelLaunch
  split
  · exact h
  · extract_lets quiet units left phase
    have h : Safe quiet := ite_safe (quiesceGlades_safe h) h
    have h : Safe left := ite_safe h (foldl_safe (fun _ _ h => advUnit_safe (flow_safe h)) h)
    have h : Safe phase := ite_safe (advPhase_safe (flow_safe h)) h
    exact endLaunch_safe h

theorem cancelWork_safe {ctx st} (h : Safe s) : Safe (s.cancelWork ctx st) := by
  unfold State.cancelWork
  extract_lets matched marked settled
  have h : Safe matched := foldl_safe (fun _ _ => foldl_safe fun _ _ => cancelMatches_safe _) h
  have h : Safe settled := foldl_safe (fun _ _ => foldl_safe fun _ _ h => ite_safe (settleInstance_safe h) h) (foldl_safe (fun _ _ =>
      modDie_safe) h)
  exact foldl_safe (fun _ _ => foldl_safe fun _ _ => cancelLaunch_safe) h

theorem modSeed_safe {d k f} (h : Safe s) : Safe (s.modSeed d k f) := h

theorem putDirty_safe {d k pick} (h : Safe s) : Safe (s.putDirty d k pick) := foldl_safe (fun _ _ h => (by
      refine ite_safe h ?_
      split
      · exact h
      · exact modSeed_safe (putNoted_safe h))) h

theorem writeBack_safe {d k} (h : Safe s) : Safe (s.writeBack d k) := ite_safe h (putDirty_safe h)

theorem noteReplay_safe {d k} (h : Safe s) : Safe (s.noteReplay d k) := h

theorem closeBank_safe {d k back} (h : Safe s) : Safe (s.closeBank d k back) :=
  modDie_safe (noteReplay_safe (modSeed_safe (ite_safe (writeBack_safe h) h)))

theorem forget_safe {a n} (h : Safe s) : Safe (s.forget a n) := h

theorem releaseJob_safe {ctx} (h : Safe s) : Safe (s.releaseJob ctx) := by
  unfold State.releaseJob
  extract_lets closed keys cleared dropped
  have h : Safe closed := foldl_safe (fun _ _ => foldl_safe fun _ _ => closeBank_safe) h
  have h : Safe cleared := foldl_safe (fun _ _ => modDie_safe) h
  have h : Safe dropped := dropPoints_safe (foldl_safe (fun _ _ => forget_safe) h)
  clear_value dropped
  exact memZeros_wf (fun d => shrAt ctx d) _ _ h

theorem tearDead_safe {coll pkg ctx ks} (h : Safe s) : Safe (s.tearDead coll pkg ctx ks) := settleTears_safe (foldl_safe (fun _ _ h => h) h)

theorem peerAbort_safe {coll pkg ctx ks} (h : Safe s) : Safe (s.peerAbort coll pkg ctx ks) :=
  foldl_safe (fun _ _ h => noGlade_safe (modJob_safe h)) (tearDead_safe h)

theorem abortFlits_safe {pkg coll ctx} : ∀ n more ks {s}, Safe s → Safe (abortFlits pkg coll ctx n more ks s)
  | 0, _, _, _, h => h
  | n + 1, _, _, _, h => abortFlits_safe n _ _ (tell_safe h)

theorem abortCollective_safe {ctx dead} (h : Safe s) : Safe (s.abortCollective ctx dead) := by
  unfold State.abortCollective
  split
  · exact h
  · exact peerAbort_safe (foldl_safe (fun _ _ h => abortFlits_safe _ _ _ h) h)

theorem endJob_safe {ctx abort} (h : Safe s) : Safe (s.endJob ctx abort) :=
  releaseJob_safe (when_safe abortCollective_safe (advJob_safe (cancelWork_safe h)))

theorem dropJobs_safe {vf} (h : Safe s) : Safe (s.dropJobs vf) := keepHost_wf _ _ _ (modFn_safe (foldl_safe (fun _ _ => endJob_safe) h))

theorem execThermalShutdown_sound (h : Safe s) : Sound (execThermalShutdown s) :=
  .next (safe_of_mem rfl (foldl_safe (fun _ _ => dropJobs_safe) h))

theorem execClockStep_sound {die step} (h : Safe s) : Sound (execClockStep die step s) := .next (ite_safe h h)

theorem execLifetimeFlush_sound (h : Safe s) : Sound (execLifetimeFlush s) := .next h

theorem dropTlb_safe {p} (h : Safe s) : Safe (s.dropTlb p) := h

theorem resetVf_safe {vf} (h : Safe s) : Safe (s.resetVf vf) := noGlade_safe (modFn_safe (dropJobs_safe h))

theorem execVfReset_sound {vf} (h : Safe s) : Sound (execVfReset vf s) := .ite (.next (resetVf_safe h)) (.next h)

theorem execTdiStop_sound {vf error} (h : Safe s) : Sound (execTdiStop vf error s) :=
  .ite (.next h) (.next (ite_safe (when_safe resetVf_safe h) (emit_safe (when_safe resetVf_safe h))))

/-- An access to a register that is answered carries out `k` (R27, R446, R453). -/
theorem bar_sound {fn off t k} (h : Safe s) (done : Safe (k s)) : Sound (s.bar fn off t k) := .ite (.next h) (.ite (.next h) (.next done))

theorem enableRing_safe {vf ring granted} (h : Safe s) : Safe (s.enableRing vf ring granted) := by
  unfold State.enableRing
  refine ite_safe h ?_
  dsimp only
  split
  · exact noGlade_safe h
  · exact h

theorem cancelQueued_safe {vf ring d n} (h : Safe s) : Safe (s.cancelQueued vf ring d n) :=
  foldl_safe (fun _ _ h => advJob_safe (record_safe h)) h

theorem cancelDispatched_safe {vf ring} (h : Safe s) : Safe (s.cancelDispatched vf ring) :=
  foldl_safe (fun _ _ h => h) (foldl_safe (fun _ _ h => foldl_safe (fun _ _ => cancelQueued_safe) h) h)

theorem cancelUnfetched_safe {vf ring} : ∀ n {s}, Safe s → Safe (cancelUnfetched vf ring n s)
  | 0, _, h => h
  | n + 1, _, h => ite_safe h (cancelUnfetched_safe n (modFn_safe (ringRecord_safe h)))

theorem teardown_safe {vf ring mode} (h : Safe s) : Safe (s.teardown vf ring mode) :=
  ite_safe h (cancelUnfetched_safe _ (ite_safe (cancelDispatched_safe h) h))

theorem ringError_safe {vf ring cause} (h : Safe s) : Safe (s.ringError vf ring cause) := (noGlade_keeps ..).safe h

theorem setWidx_safe {vf ring v} (h : Safe s) : Safe (s.setWidx vf ring v) := ite_safe h (ite_safe (ringError_safe h) h)

theorem tinv_safe {vf kind cmd} (h : Safe s) : Safe (s.tinv vf kind cmd) := ite_safe h h

theorem setReg_safe {fn off v granted} (h : Safe s) : Safe (s.setReg fn off v granted) := by
  unfold State.setReg
  extract_lets i idle
  have hIdle {f} : Safe (idle f) := modFn_safe h
  refine ite_safe (ite_safe h <| ite_safe hIdle <| ite_safe hIdle <| ite_safe ?_ <| ite_safe (setWidx_safe h) <| ite_safe hIdle h) ?_
  · exact ite_safe (ite_safe (enableRing_safe h) h) (ite_safe (teardown_safe h) h)
  · exact ite_safe (modFn_safe h) <| ite_safe (tinv_safe h) <| ite_safe (modFn_safe h) <| ite_safe (modFn_safe h) <| ite_safe (modFn_safe
        h) h

theorem execRegisterWrite_sound {fn off v granted t} (h : Safe s) : Sound (execRegisterWrite fn off v granted t s) :=
  bar_sound h (ite_safe (setReg_safe h) h)

theorem execRingEnable_sound {vf ring granted t} (h : Safe s) : Sound (execRingEnable vf ring granted t s) :=
  bar_sound h (enableRing_safe h)

theorem execRingTeardownDrain_sound {vf ring t} (h : Safe s) : Sound (execRingTeardownDrain vf ring t s) := bar_sound h (teardown_safe h)

theorem execRingTeardownCancel_sound {vf ring t} (h : Safe s) : Sound (execRingTeardownCancel vf ring t s) := bar_sound h (teardown_safe h)

theorem execRingWidxWrite_sound {vf ring v t} (h : Safe s) : Sound (execRingWidxWrite vf ring v t s) := bar_sound h (setWidx_safe h)

theorem execRingDrainComplete_sound {vf ring} (h : Safe s) : Sound (execRingDrainComplete vf ring s) := .ite (.next h) (.next h)

theorem reject_safe {o cause tag ctx} (h : Safe s) : Safe (s.reject o cause tag ctx) := by
  unfold State.reject
  dsimp only
  split
  · exact record_safe (noGlade_safe h)
  · exact record_safe (noGlade_safe (noGlade_safe h))

theorem message_safe {o m} (h : Safe s) : Safe (s.message o m) := by
  unfold State.message
  refine ite_safe (reject_safe h) (ite_safe (reject_safe h) ?_)
  dsimp only
  split
  · exact reject_safe h
  · exact ite_safe (fireLaunch_safe h) (ite_safe (startInstance_safe h) (ite_safe h (reject_safe h)))

theorem execRingFetch_sound {vf ring ok} (h : Safe s) : Sound (execRingFetch vf ring ok s) :=
  .ite (.next h) (.ite (.next (ringError_safe h)) (.next (message_safe h)))

theorem execTinvPage_sound {vf cmd t} (h : Safe s) : Sound (execTinvPage vf cmd t s) := bar_sound h (ite_safe (tinv_safe h) h)

theorem execTinvContext_sound {vf cmd t} (h : Safe s) : Sound (execTinvContext vf cmd t s) := bar_sound h (ite_safe (tinv_safe h) h)

theorem execTinvComplete_sound {vf} (h : Safe s) : Sound (execTinvComplete vf s) := by
  unfold execTinvComplete
  split
  · exact .next h
  · exact .ite (.next h) (.next h)

theorem execFqRcntWrite_sound {fn v t} (h : Safe s) : Sound (execFqRcntWrite fn v t s) := bar_sound h h

theorem execFqLostRead_sound {fn t} (h : Safe s) : Sound (execFqLostRead fn t s) := bar_sound h h

theorem execMsixMessage_sound {fn vec} (h : Safe s) : Sound (execMsixMessage fn vec s) := .ite (.next h) (.next h)

theorem execAtsInvalidate_sound {vf addr size} (h : Safe s) : Sound (execAtsInvalidate vf addr size s) := .ite (.next h) (.next h)

theorem answerPrg_safe {vf k ok} (h : Safe s) : Safe (s.answerPrg vf k ok) := ite_safe (foldl_safe (fun _ _ h => h) h) h

theorem execPrgResponse_sound {vf idx ok} (h : Safe s) : Sound (execPrgResponse vf idx ok s) := by
  unfold execPrgResponse
  dsimp only
  split
  · exact .next h
  · exact .ite (.next h) (.next (answerPrg_safe h))

theorem execPrgTimeout_sound {vf idx} (h : Safe s) : Sound (execPrgTimeout vf idx s) := by
  unfold execPrgTimeout
  dsimp only
  split
  · exact .next h
  · exact .ite (.next h) (.next (ite_safe h (answerPrg_safe h)))

theorem execPageRequest_sound {vf page} (h : Safe s) : Sound (execPageRequest vf page s) := by
  unfold execPageRequest
  dsimp only
  split
  · exact .next h
  · split <;> exact .next h

theorem execWalkComplete_sound {g} (h : Safe s) : Sound (execWalkComplete g s) := by
  unfold execWalkComplete
  split
  · exact .next h
  · refine .ite (.next h) ?_
    dsimp only
    split
    · next e =>
        have h' := fst_safe e ((fillWalk_silent ..).safe h)
        exact .next h'
    · next e =>
        have h' := fst_safe e ((fillWalk_silent ..).safe h)
        exact .next h'

theorem noteHeads_safe {d} (h : Safe s) : Safe (s.noteHeads d) := h

theorem failHopeless_safe {d} : ∀ l {s}, Safe s → Safe (failHopeless d l s)
  | [], _, h => h
  | (_, _) :: t, _, h =>
    ite_safe (failHopeless_safe t (endLaunch_safe (noGlade_safe (when_safe advPhase_safe h)))) (failHopeless_safe t h)

theorem restoreGlade_safe {g b p v} (h : Safe s) : Safe (s.restoreGlade g b p v) := modSide_safe (fillBurrow_wf _ _ _ _ h)

theorem loadGlade_safe {b m saved p g} (h : Safe s) : Safe (s.loadGlade b m saved p g) := by
  unfold State.loadGlade
  dsimp only
  split
  · exact restoreGlade_safe h
  · exact modSide_safe (fillBurrow_wf _ _ _ _ h)

theorem modLaunch_safe {d l f} (h : Safe s) : Safe (s.modLaunch d l f) := h

theorem placeUnit_safe {d n l u ox oy} (h : Safe s) : Safe (s.placeUnit d n l u ox oy) :=
  modLaunch_safe (foldl_safe (fun _ _ => loadGlade_safe) h)

theorem placeLaunch_safe {d n l os} (h : Safe s) : Safe (s.placeLaunch d n l os) :=
  modLaunch_safe (when_safe dropRecords_safe (foldl_safe (fun _ _ => placeUnit_safe) h))

theorem serve_safe {d k c} (h : Safe s) : Safe (s.serve d k c) := by
  unfold State.serve
  refine modDie_safe ?_
  split
  · refine ite_safe ?_ h
    split
    · exact modDie_safe (placeLaunch_safe h)
    · exact h
  · exact h

theorem execSelectionPass_sound {d} (h : Safe s) : Sound (execSelectionPass d s) := by
  unfold execSelectionPass
  refine .ite (.next h) ?_
  dsimp only
  split
  · exact .next (noteHeads_safe (modDie_safe (failHopeless_safe _ h)))
  · split
    · exact .next (noteHeads_safe (serve_safe (noteHeads_safe (modDie_safe (failHopeless_safe _ h)))))
    · exact .next (noteHeads_safe (modDie_safe (failHopeless_safe _ h)))

theorem execLaunchBoost_sound {d n} (h : Safe s) : Sound (execLaunchBoost d n s) := .next h

theorem execReservingTimeout_sound {d n} (h : Safe s) : Sound (execReservingTimeout d n s) := by
  unfold execReservingTimeout
  split
  · exact .next h
  · exact .ite (.next h) (.next h)

theorem noteResident_safe {g ctx} (h : Safe s) : Safe (s.noteResident g ctx) := h

theorem yieldBand_safe {c} (h : Safe s) : Safe (s.yieldBand c) := foldl_safe (fun _ _ => writeBack_safe) h

theorem activateClearing_safe {c b} (h : Safe s) : Safe (s.activateClearing c b) :=
  ite_safe h (safe_of_mem rfl (foldl_safe (fun _ _ => modGlade_safe) (yieldBand_safe h)))

theorem rearmStreams_safe {g} (h : Safe s) : Safe (s.rearmStreams g) := foldl_safe (fun _ _ h => (by
      refine ite_safe h (ite_safe h (ite_safe ?_ h))
      split
      · exact ite_safe h (ite_safe h h)
      · exact h)) h

theorem execLaunchStart_sound {d n} (h : Safe s) : Sound (execLaunchStart d n s) := by
  unfold execLaunchStart
  split
  · exact .next h
  · extract_lets sides active cy args pulsed flown restored
    refine .ite (.next h) ?_
    have h : Safe active := foldl_safe (fun _ _ h => noteResident_safe (activateClearing_safe h)) h
    have hFlown : Safe flown := foldl_safe (fun _ _ => foldl_safe fun _ _ => flow_safe) (foldl_safe (fun _ _ => modBough_safe) h)
    have hRestored : Safe restored := foldl_safe (fun _ _ h => rearmStreams_safe (modStand_safe h)) (dropRecords_safe h)
    exact .ite (.next (modLaunch_safe hFlown)) (.next (modLaunch_safe hRestored))

theorem execUnitComplete_sound {d n u} (h : Safe s) : Sound (execUnitComplete d n u s) := by
  unfold execUnitComplete
  split
  · exact .next h
  · split
    · exact .next h
    · exact .ite (.next h) (.next (ite_safe (endLaunch_safe h) h))

theorem cancelUnit_safe {d n u st} (h : Safe s) : Safe (s.cancelUnit d n u st) := by
  unfold State.cancelUnit
  split
  · exact h
  · split
    · exact h
    · refine ite_safe h ?_
      extract_lets mine quiet flown emptied kept ended recorded left units marked
      have h : Safe emptied := foldl_safe (fun _ _ h => modSide_safe (vacate_safe h)) (flow_safe (ite_safe (quiesceGlades_safe h) h))
      have h : Safe ended := foldl_safe (fun _ _ => endSaved_safe) h
      have h : Safe recorded := ite_safe h (modDie_safe h)
      have h : Safe marked := modLaunch_safe (ite_safe h (advUnit_safe h))
      exact ite_safe (endLaunch_safe (ite_safe (advPhase_safe (flow_safe h)) h)) h

theorem cancelUnits_safe {d n boundary} (h : Safe s) : Safe (s.cancelUnits d n boundary) := by
  unfold State.cancelUnits
  split
  · exact h
  · exact foldl_safe (fun _ _ h => ite_safe h (cancelUnit_safe h)) h

theorem clearSide_safe {g b} (h : Safe s) : Safe (s.clearSide g b) := h

theorem freeNext_safe {n} (h : Safe s) : Safe { s with free := n } := h

theorem writeRecord_safe {d l g b reason cells} (h : Safe s) : Safe (s.writeRecord d l g b reason cells) := by
  unfold State.writeRecord
  extract_lets x
  split
  · exact h
  · extract_lets j used slot phase recorded
    have h : Safe recorded := ite_safe (putNoted_safe (freeNext_safe (putNoted_safe h))) h
    exact modDie_safe h

theorem resume_safe {d n} (h : Safe s) : Safe (s.resume d n) := modDie_safe (foldl_safe (fun _ _ h => h) h)

theorem leave_safe {d n st} (h : Safe s) : Safe (s.leave d n st) := h

theorem endStop_safe {d n} (h : Safe s) : Safe (s.endStop d n) := by
  unfold State.endStop
  split
  · exact h
  · refine ite_safe h (modLaunch_safe (leave_safe (foldl_safe (fun _ _ h => h) ?_)))
    exact foldl_safe (fun _ _ => writeRecord_safe) (quiesceGlades_safe h)

theorem preempt_safe {d n reason} (h : Safe s) : Safe (s.preempt d n reason) := by
  unfold State.preempt
  split
  · exact h
  · dsimp only
    split
    · exact endStop_safe (modLaunch_safe (quiesceGlades_safe (ite_safe (resume_safe h) h)))
    · exact modLaunch_safe (foldl_safe (fun _ _ => clearSide_safe) (foldl_safe (fun _ _ => writeRecord_safe) (dropRecords_safe h)))
    · exact modLaunch_safe (foldl_safe (fun _ _ => clearSide_safe) h)
    · exact h

theorem swapOut_safe {d n} (h : Safe s) : Safe (s.swapOut d n) :=
  modLaunch_safe (foldl_safe (fun _ _ h => ite_safe h (activateClearing_safe h)) (leave_safe (quiesceGlades_safe h)))

theorem boundaryActions_safe {d n l} (h : Safe s) : Safe (s.boundaryActions d n l) :=
  graftBoundary_safe (when_safe swapOut_safe (ite_safe (modLaunch_safe h) (ite_safe (modLaunch_safe h) (resume_safe h))))

theorem execPhaseBoundary_sound {d n} (h : Safe s) : Sound (execPhaseBoundary d n s) := by
  unfold execPhaseBoundary
  split
  · exact .next h
  · extract_lets boughs cy next cancelled
    refine .ite (.next h) ?_
    have h : Safe cancelled := cancelUnits_safe (modLaunch_safe (advPhase_safe (flow_safe h)))
    exact .ite (.next (graftBoundary_safe (cancelLaunch_safe h))) <| .ite (.next h) <|
      .ite (.next (graftBoundary_safe (preempt_safe (resume_safe h)))) (.next (boundaryActions_safe h))

theorem settleAg_safe {g b} (h : Safe s) : Safe (s.settleAg g b) := by
  unfold State.settleAg
  extract_lets perform
  have performs {u : State} (h : Safe u) : Safe (perform u) := foldl_safe (fun _ _ => quiesceAg_safe _) h
  exact ite_safe (performs h) (modGlade_safe (performs (modGlade_safe h)))

theorem execBoughSaveWrite_sound {d n} (h : Safe s) : Sound (execBoughSaveWrite d n s) := by
  unfold execBoughSaveWrite
  split
  · exact .next h
  · extract_lets settled
    have settles : Safe settled := foldl_safe (fun _ _ => settleAg_safe) h
    exact .ite (.ite (.next settles) (.next (modLaunch_safe (foldl_safe (fun _ _ => writeRecord_safe) settles)))) (.next h)

theorem execPhaseLimitExpiry_sound {d n} (h : Safe s) : Sound (execPhaseLimitExpiry d n s) := by
  unfold execPhaseLimitExpiry
  split
  · exact .next h
  · exact .ite (.next (endStop_safe h)) (.ite (.next (preempt_safe h)) (.next h))

theorem cancelListed_safe {d} : ∀ l {s}, Safe s → Safe (cancelListed d l s)
  | [], _, h => h
  | (_, _, _) :: t, _, h => cancelListed_safe t (ite_safe h (cancelLaunch_safe h))

theorem execCancelProcess_sound {d} (h : Safe s) : Sound (execCancelProcess d s) := by
  unfold execCancelProcess
  extract_lets named list listed units settled
  have h : Safe listed := cancelListed_safe _ (modDie_safe (foldl_safe (fun _ _ => cancelNamed_safe) h))
  have h : Safe settled := foldl_safe (fun _ _ h => ite_safe (settleInstance_safe h) h) (foldl_safe (fun _ _ => cancelUnits_safe) h)
  exact .next (foldl_safe (fun _ _ => endJob_safe) h)

theorem release_safe {ctx} (h : Safe s) : Safe (s.release ctx) :=
  foldl_safe (fun _ _ h => foldl_safe (fun _ _ h => ite_safe h (resume_safe h)) h) h

theorem execPeriodRollover_sound {ctx} (h : Safe s) : Sound (execPeriodRollover ctx s) := by
  unfold execPeriodRollover
  split
  · exact .next h
  · exact .ite (.next h) (.next (ite_safe h (release_safe h)))

theorem endHolds_safe {c} (h : Safe s) : Safe (s.endHolds c) := foldl_safe (fun _ _ h => (by
      split
      · exact ite_safe (resume_safe h) h
      · exact h)) h

theorem suspect_safe {ctx x} (h : Safe s) : Safe (s.suspect ctx x) := noGlade_safe (foldl_safe (fun _ _ h => h) h)

theorem suspectGone_safe {v x} (h : Safe s) : Safe (s.suspectGone v x) := noGlade_safe (foldl_safe (fun _ _ h => h) h)

theorem package_safe {k} (h : Safe s) : Safe { s with pk := k } := h

theorem testFail_safe {c} (h : Safe s) : Safe (s.testFail c) := by
  unfold State.testFail
  extract_lets x k pk quarantined preempted noticed suspected gone told
  have h : Safe quarantined := modClearing_safe (life_safe (package_safe h))
  have h : Safe noticed := noGlade_safe (foldl_safe (fun _ _ => preempt_safe) h)
  have h : Safe suspected := foldl_safe (fun _ _ => suspect_safe) h
  have h : Safe gone := foldl_safe (fun _ _ => suspectGone_safe) h
  have h : Safe told := foldl_safe (fun _ _ => tell_safe) h
  exact noGlade_safe h

theorem execInfieldTest_sound {c pass} (h : Safe s) : Sound (execInfieldTest c pass s) := by
  unfold execInfieldTest
  extract_lets on noted restored released now
  refine .ite (.next h) ?_
  have h : Safe released := endHolds_safe (foldl_safe (fun _ _ h => ite_safe (modStand_safe h) h) (modClearing_safe h))
  exact .ite (.next (modClearing_safe h)) (.next (testFail_safe h))

end Sys2Proof.Machine
end

section
/-! # The canonical form of memory: queues, engines, motes and links into a glade -/

namespace Sys2Proof.Machine

variable {s : State}

theorem addEvents_safe {k} : ∀ l {s}, Safe s → Safe (addEvents k l s)
  | [], _, h => h
  | _ :: t, _, h => addEvents_safe t (modWw_safe h)

theorem execTimeSlotEvent_sound {d n m} (h : Safe s) : Sound (execTimeSlotEvent d n m s) := by
  unfold execTimeSlotEvent
  split
  · exact .next h
  · exact .ite (.next h) (.next (modLaunch_safe (addEvents_safe _ h)))

theorem execContextCycle_sound {g} (h : Safe s) : Sound (execContextCycle g s) :=
  .ite (.next h) (.ite (.next h) (.ite (.next h) (.ite (.next h) (.next h))))

theorem emitStaged_safe {g st} : ∀ l {s}, Safe s → Safe (emitStaged g st l s)
  | [], _, h => h
  | (_, _) :: t, s, h => by
    unfold emitStaged
    refine ite_safe (emitStaged_safe t (modTh_safe h)) ?_
    split
    · exact h
    · exact ite_safe h (emitStaged_safe t (modEng_safe (modTh_safe (modTh_safe h))))

theorem emitAll_safe {g} : ∀ l {s}, Safe s → Safe (emitAll g l s)
  | [], _, h => h
  | _ :: t, _, h => emitAll_safe t (ite_safe h (emitStaged_safe _ h))

theorem execResultLand_sound {g} (h : Safe s) : Sound (execResultLand g s) := .ite (.next h) (.next (emitAll_safe _ h))

theorem execFernResultLand_sound {g} (h : Safe s) : Sound (execFernResultLand g s) := .ite (.next h) (.next h)

theorem placeMode_safe {g x} (h : Safe s) : Safe (s.placeMode g x) := ite_safe h h

theorem placeModes_safe {g} : ∀ l {s}, Safe s → Safe (placeModes g l s)
  | [], _, h => h
  | _ :: t, _, h => placeModes_safe t (ite_safe (placeMode_safe h) h)

theorem fire_safe {g slotNo o} (h : Safe s) : Safe (s.fire g slotNo o) := by
  unfold State.fire
  extract_lets d mode now swap swapped x i rows flown span last
  refine ite_safe h ?_
  have h : Safe swapped := ite_safe (modStand_safe h) h
  split
  · exact h
  · extract_lets sums f noted reloaded
    have h : Safe noted := modStand_safe (touch_safe (flow_safe h))
    have h : Safe reloaded := by
      unfold reloaded
      split
      · exact h
      · exact (faultRecord_unwritten ..).safe (modStand_safe h)
    exact perf_safe (usage_safe h)

theorem startStand_safe {g x} (h : Safe s) : Safe (s.startStand g x) := by
  unfold State.startStand
  dsimp only
  split
  · exact h
  · exact ite_safe (fire_safe h) h

theorem startRaft_safe {g x} (h : Safe s) : Safe (s.startRaft g x) := by
  unfold State.startRaft
  refine ite_safe ?_ h
  dsimp only
  split
  · exact ite_safe h (entryFault_safe h)
  · exact entryFault_safe h

theorem entryOpen_safe {g tl n cause} (h : Safe s) : Safe (s.entryOpen g tl n cause) := openAsync_safe (faulted_safe h)

theorem startRun_safe {g x} (h : Safe s) : Safe (s.startRun g x) := by
  unfold State.startRun
  dsimp only
  split
  · exact entryFault_safe h
  · exact ite_safe (entryOpen_safe h) h

theorem startWload_safe {g x} (h : Safe s) : Safe (s.startWload g x) := by
  unfold State.startWload
  dsimp only
  split
  · exact entryOpen_safe (setPlanes_safe _ h)
  · exact modEng_safe (setPlanes_safe _ h)

theorem startLink_safe {g x} (h : Safe s) : Safe (s.startLink g x) := by
  unfold State.startLink
  extract_lets d e other link
  clear_value link
  split
  · exact entryFault_safe h
  · refine ite_safe (entryFault_safe h) ?_
    split
    · exact finishEntry_safe h
    · exact modEng_safe h

theorem startBough_safe {g x} (h : Safe s) : Safe (s.startBough g x) := by
  unfold State.startBough
  refine ite_safe h ?_
  split
  · exact ite_safe h (entryOpen_safe h)
  · exact entryOpen_safe h

theorem startEntry_safe {g x} (h : Safe s) : Safe (s.startEntry g x) := by
  unfold State.startEntry
  extract_lets k t u
  have h : Safe u := modEng_safe (ite_safe (flow_safe h) h)
  exact ite_safe (startStand_safe h) <| ite_safe (startRaft_safe h) <| ite_safe (startRun_safe h) <| ite_safe (startWload_safe h) <|
    ite_safe (startLink_safe h) <| ite_safe (modStand_safe h) <| ite_safe (placeMode_safe h) (startBough_safe h)

theorem execEntryStartTimed_sound {g q} (h : Safe s) : Sound (execEntryStartTimed g q s) := by
  unfold execEntryStartTimed
  dsimp only
  split
  · exact .next (placeModes_safe _ h)
  · refine .ite (.next (placeModes_safe _ h)) (.ite (.next (placeModes_safe _ h)) (.ite (.next (entryFault_safe (placeModes_safe _ h))) ?_))
    split
    · exact .next (entryFault_safe (placeModes_safe _ h))
    · exact .next (startEntry_safe (placeModes_safe _ h))

theorem execEntryStartGated_sound {g q} (h : Safe s) : Sound (execEntryStartGated g q s) := by
  unfold execEntryStartGated
  split
  · exact .next h
  · refine .ite (.next h) ?_
    split
    · exact .next h
    · exact .next (startEntry_safe h)

theorem execCreditTimerFire_sound {g} (h : Safe s) : Sound (execCreditTimerFire g s) := by
  unfold execCreditTimerFire
  dsimp only
  split
  · exact .next h
  · exact .ite (.next h) (.next h)

theorem markReady_safe {g} (h : Safe s) : Safe (s.markReady g) := h

theorem tornOps_safe {g} : ∀ l {s}, Safe s → Safe (tornOps g l s)
  | [], _, h => h
  | _ :: t, _, h => ite_safe (tornOps_safe t (openAsync_safe (endOp_safe h))) (tornOps_safe t h)

theorem execStandFire_sound {g} (h : Safe s) : Sound (execStandFire g s) := by
  unfold execStandFire
  refine .ite (.next (markReady_safe (tornOps_safe _ h))) ?_
  split
  · exact .ite (.next (markReady_safe (tornOps_safe _ h))) (.next (fire_safe (markReady_safe (tornOps_safe _ h))))
  · exact .next (markReady_safe (tornOps_safe _ h))

theorem execStandSlotRelease_sound {g} (h : Safe s) : Sound (execStandSlotRelease g s) := .next (releaseFires_safe _ h)

theorem execStandFireComplete_sound {g} (h : Safe s) : Sound (execStandFireComplete g s) := .next h

theorem execRaftNoticeServe_sound {g raft} (h : Safe s) : Sound (execRaftNoticeServe g raft s) := by
  unfold execRaftNoticeServe
  refine .ite (.next h) ?_
  split <;> exact .next h

theorem execRaftTileLand_sound {g raft} (h : Safe s) : Sound (execRaftTileLand g raft s) :=
  .next (foldl_safe (fun _ _ h => ite_safe (landOne_safe h) h) h)

theorem resolveNow_safe {g a n align k lax} (h : Safe s) : Safe (s.resolveNow g a n align k lax).1 := by
  unfold State.resolveNow
  split
  · refine ite_fst_safe h ?_
    split
    · next e =>
        have h' := fst_safe e ((fillWalk_silent ..).safe h)
        exact h'
    · next e =>
        have h' := fst_safe e ((fillWalk_silent ..).safe h)
        exact h'
  · exact h

theorem wdRegion_safe {g region} (h : Safe s) : Safe (s.wdRegion g region).1 := by
  unfold State.wdRegion
  dsimp only
  split
  · next e =>
      have h' := fst_safe e (resolveNow_safe h)
      exact ite_fst_safe ((served_silent ..).safe h') h'
  · next e =>
      have h' := fst_safe e (resolveNow_safe h)
      exact ite_fst_safe h' h'
  · next e =>
      have h' := fst_safe e (resolveNow_safe h)
      exact h'

theorem wdStep_safe {g d q regs} (h : Safe s) : Safe (s.wdStep g d q regs).1 := by
  unfold State.wdStep
  split
  · exact h
  · split
    · next e =>
        have h' := fst_safe e (wdRegion_safe h)
        exact h'
    · next e =>
        have h' := fst_safe e (wdRegion_safe h)
        dsimp only
        split <;> exact h'

theorem execWloadRegion_sound {g} (h : Safe s) : Sound (execWloadRegion g s) := by
  unfold execWloadRegion
  split
  · next i d src rest _ =>
    extract_lets glade
    split
    · exact .next h
    · next q _ =>
      extract_lets all
      refine .ite (.next h) ?_
      have h : Safe all.1 := foldl_fst_safe (fun r _ h => by
        obtain ⟨u, _ | regs⟩ := r
        · exact h
        · exact wdStep_safe h) h
      clear_value all
      split
      · exact .next (modStand_safe h)
      · exact .next (asyncFault_safe (modStand_safe h))
  · split
    · exact .next h
    · refine .ite (.next h) ?_
      split
      · next e => exact .next (entryFault_safe (setPlanes_safe _ (fst_safe e (wdStep_safe h))))
      · next e =>
        have h := fst_safe e (wdStep_safe h)
        exact .ite (.next (finishEntry_safe (setPlanes_safe _ h))) (.next (modEng_safe h))

theorem execRillArrival_sound {g r bytes} (h : Safe s) : Sound (execRillArrival g r bytes s) := .next (safe_of_mem (countRill_mem ..) h)

theorem credit_safe {l kind} (h : Safe s) : Safe (s.credit l kind) := h

theorem landData_safe {g peer p} (h : Safe s) : Safe (s.landData g peer p) := by
  unfold State.landData
  extract_lets k zone bs c received
  have h : Safe received := by
    unfold received
    split
    · exact modJob_safe h
    · exact h
  exact ite_safe (landMote_safe h) (landBytes_safe h)

theorem landWaiting_safe {l g} : ∀ ps {s}, Safe s → Safe (landWaiting l g ps s)
  | [], _, h => h
  | _ :: t, _, h => ite_safe (landWaiting_safe t (credit_safe h)) (ite_safe (landWaiting_safe t (credit_safe (landData_safe h)))
      (landWaiting_safe t (modLink_safe h)))

theorem execLandingArrival_sound {g} (h : Safe s) : Sound (execLandingArrival g s) :=
  .ite (.next h) (.next (foldl_safe (fun _ _ h => ite_safe h (landWaiting_safe _ h)) h))

/-- A mote or beat damaged in transit goes out once more by `put` (R415). -/
theorem resend_safe {g item rill seq tries rank ws put} (again : ∀ n {s}, Safe s → Safe (put n s)) (h : Safe s) :
    Safe (s.resend g item rill seq tries rank ws put) := by
  have failed : Safe (s.failed ws item) := safe_of_mem (failed_mem ..) h
  exact ite_safe (life_safe (again _ failed)) (asyncFault_safe (again _ (foldl_safe (fun _ _ h => safe_of_mem (sinkErr_mem ..) h) failed)))

theorem reinject_safe {g c item} (h : Safe s) : Safe (s.reinject g c item) := by
  unfold State.reinject
  dsimp only
  split
  · exact h
  · exact resend_safe (fun _ _ h => h) h

theorem sinkAll_safe {g m n tl op c before_} : ∀ l {s}, Safe s → Safe (sinkAll g m n tl op c before_ l s)
  | [], _, h => h
  | _ :: t, _, h => sinkAll_safe t (sink_safe h)

theorem sendHead_safe {g c} (h : Safe s) : Safe (s.sendHead g c) := by
  unfold State.sendHead
  dsimp only
  split
  · exact h
  · exact ite_safe h (ite_safe (reinject_safe h) (sinkAll_safe _ (modEng_safe (ite_safe (safe_of_mem (failed_mem ..) h) h))))

theorem sendHeads_safe {g} : ∀ l {s}, Safe s → Safe (sendHeads g l s)
  | [], _, h => h
  | _ :: t, _, h => sendHeads_safe t (ite_safe h (sendHead_safe h))

theorem execMoteArrival_sound {g} (h : Safe s) : Sound (execMoteArrival g s) := .next (sendHeads_safe _ h)

theorem reinjectTile_safe {g raft item} (h : Safe s) : Safe (s.reinjectTile g raft item) := by
  unfold State.reinjectTile
  split
  · exact h
  · exact ite_safe h (resend_safe (fun _ _ h => h) h)

theorem reinjectBeat_safe {g t item} (h : Safe s) : Safe (s.reinjectBeat g t item) := by
  unfold State.reinjectBeat
  split
  · exact h
  · exact ite_safe h (resend_safe (fun _ _ h => h) h)

theorem execMoteReinjection_sound {g c} (h : Safe s) : Sound (execMoteReinjection g c s) :=
  .ite (.next (reinjectTile_safe h)) (.ite (.next (reinjectBeat_safe h)) (.ite (.next h) (.next (reinject_safe h))))

end Sys2Proof.Machine
end

section
/-! # The canonical form of memory: banks, grafts and the commit of a block -/

namespace Sys2Proof.Machine

variable {s : State}

theorem bankOut_safe {d k b0} (h : Safe s) : Safe (s.bankOut d k b0) :=
  ite_safe h (ite_safe (putDirty_safe h) (safe_of_mem rfl (putDirty_safe h)))

theorem seedChange_safe {d k f} (h : Safe s) : Safe (s.seedChange d k f) := noteReplay_safe (bankOut_safe ((touchBank_silent ..).safe h))

theorem execSeedReplayStep_sound {die bank} (h : Safe s) : Sound (execSeedReplayStep die bank s) :=
  .ite (.next (seedChange_safe ((bankIn_silent ..).safe h))) (.next h)

theorem modGraft_safe {n f} (h : Safe s) : Safe (s.modGraft n f) := h

theorem graftSource_safe {e g ctx} : ∀ fuel a n {s}, Safe s → Safe (State.graftSource e g ctx fuel a n s).1
  | 0, _, _, _, h => h
  | fuel + 1, a, n, s, h => by
    unfold State.graftSource
    extract_lets k vf w
    refine ite_fst_safe h ?_
    split
    · next p _ =>
      have rest : Safe (State.graftSource e g ctx fuel (a + k) (n - k) (s.hbmRead p k)).1 := graftSource_safe fuel _ _ ((hbmRead_silent
          ..).safe h)
      refine ite_fst_safe h ?_
      split
      · next e => exact fst_safe e rest
      · exact rest
    · exact ite_fst_safe ((leavePage_silent ..).safe h) ((needPage_silent ..).safe h)
    · exact h
    · exact h

theorem putPool_safe {e ctx} : ∀ l va {s}, Safe s → Safe (State.putPool e ctx l va s).1
  | [], _, _, h => h
  | _ :: t, va, s, h => by
    unfold State.putPool
    split
    · exact h
    · exact putPool_safe t _ (putNoted_safe h)

theorem execGraftFetchComplete_sound {n} (h : Safe s) : Sound (execGraftFetchComplete n s) := by
  unfold execGraftFetchComplete
  refine .ite (.next h) (.ite (.next ((placeFetch_silent ..).safe h)) (.ite (.next h) ?_))
  split
  · next e =>
      have h' := fst_safe e (graftSource_safe _ _ _ h)
      exact .next h'
  · next e =>
      have h' := fst_safe e (graftSource_safe _ _ _ h)
      exact .next h'
  · next e =>
      have h' := fst_safe e (graftSource_safe _ _ _ h)
      split
      · next e =>
          have h'' := fst_safe e (putPool_safe _ _ h')
          exact .next h''
      · next e =>
          have h'' := fst_safe e (putPool_safe _ _ h')
          exact .ite (.next h'') (.ite (.next h'') (.next h''))

theorem execGraftFetchTimeout_sound {n} (h : Safe s) : Sound (execGraftFetchTimeout n s) := .ite (.next h) (.next h)

theorem execWaitTimeout_sound {g idx} (h : Safe s) : Sound (execWaitTimeout g idx s) := by
  unfold execWaitTimeout
  split
  · exact .next h
  · exact .ite (.next ((blockFault_keeps ..).safe h)) (.next h)

theorem execOrderStall_sound {g} (h : Safe s) : Sound (execOrderStall g s) := by
  unfold execOrderStall
  split
  · exact .ite (.next ((blockFault_keeps ..).safe h)) (.next h)
  · exact .next h

theorem execBlockFetch_sound {g} (h : Safe s) : Sound (execBlockFetch g s) := by
  unfold execBlockFetch
  refine .ite ?_ ?_
  · dsimp only
    split
    · exact .next ((take_unwritten ..).safe h)
    · exact .next h
  · refine .ite ?_ (.next h)
    split
    · exact .next ((take_unwritten ..).safe (ite_safe h h))
    · exact .next h

theorem writeAtomic_safe {g t before_ mine} (h : Safe s) : Safe (s.writeAtomic g t before_ mine) :=
  ite_safe (write_safe h) (safe_of_mem rfl (write_safe h))

theorem putStores_safe {g b rels} : ∀ l {s}, Safe s → Safe (putStores g b rels l s)
  | [], _, h => h
  | _ :: t, _, h => putStores_safe t (ite_safe (writeAtomic_safe h) (write_safe h))

theorem performStores_safe {g b} (h : Safe s) : Safe (s.performStores g b) := putStores_safe _ (foldl_safe (fun _ _ h => h) h)

theorem takeAcquires_safe {g b} (h : Safe s) : Safe (s.takeAcquires g b) := h

theorem sendEvents_safe {k} : ∀ l {s}, Safe s → Safe (sendEvents k l s)
  | [], _, h => h
  | _ :: t, _, h => sendEvents_safe t (addEvents_safe _ (modWw_safe h))

theorem tableChange_safe {g v} (h : Safe s) : Safe (s.tableChange g v) := by
  unfold State.tableChange
  split <;> exact h

theorem leaveLines_safe {ctx d runs} (h : Safe s) : Safe (s.leaveLines ctx d runs) :=
  foldl_safe (fun _ _ h => safe_of_mem rfl (put_safe h)) h

theorem seedCommit_safe {g op args} (h : Safe s) : Safe (s.seedCommit g op args) := by
  unfold State.seedCommit
  extract_lets d a k ctx b opened
  split_ifs
  · exact modWw_safe (putDirty_safe (modDie_safe (modSeed_safe h)))
  · exact modWw_safe (usage_safe (seedChange_safe h))
  · exact usage_safe (modSeed_safe h)
  · exact writeBack_safe h
  · exact modWw_safe (seedChange_safe h)
  · exact modWw_safe (seedChange_safe h)
  · exact h
  · exact modWw_safe (leaveLines_safe (flow_safe (closeBank_safe h)))

theorem graftCommit_safe {g op args} (h : Safe s) : Safe (s.graftCommit g op args) :=
  ite_safe ((startFetch_silent ..).safe h) (ite_safe h h)

theorem noteCancels_safe {phase} : ∀ l {s}, Safe s → Safe (noteCancels phase l s)
  | [], _, h => h
  | (_, _) :: t, _, h => noteCancels_safe t (ite_safe (modLaunch_safe h) (modDie_safe h))

theorem cancelName_safe {ctx w phase} (h : Safe s) : Safe (s.cancelName ctx w phase) :=
  ite_safe (ite_safe (foldl_safe (fun _ _ => modLaunch_safe) h) (foldl_safe (fun _ _ => modLaunch_safe) h)) <|
    ite_safe (modDie_safe (noteCancels_safe _ h)) <| ite_safe (modDie_safe (modDie_safe (noteCancels_safe _ h))) (modJob_safe h)

theorem applyPend_safe {g v} (h : Safe s) : Safe (s.applyPend g v) := by
  unfold State.applyPend
  split
  · exact h
  · exact h
  · exact h
  · exact h
  · exact h
  · exact sendEvents_safe _ h
  · exact h
  · exact h
  · exact ite_safe h h
  · exact h
  · exact h
  · exact h
  · exact tableChange_safe h
  · exact settleArm_safe (tableChange_safe h)
  · exact tableChange_safe h
  · exact tableChange_safe h
  · exact tableChange_safe h
  · exact tableChange_safe h
  · exact h
  · exact ite_safe ((unhold_same ..).safe h) (modEng_safe ((unhold_same ..).safe h))
  · exact modEng_safe ((releaseKey_same ..).safe h)
  · exact slotReleased_safe h
  · split <;> exact h
  · exact seedCommit_safe h
  · exact graftCommit_safe h
  · exact h
  · exact cancelName_safe h
  · exact h
  · exact h

theorem applyPends_safe {g} : ∀ l {s}, Safe s → Safe (applyPends g l s)
  | [], _, h => h
  | (_, _) :: t, _, h => applyPends_safe t (applyPend_safe h)

theorem sendOrders_safe {g ts} : ∀ l {s : State}, Safe s → Safe (s.sendOrders g ts l)
  | [], _, h => h
  | (_, _, _, _) :: t, _, h => sendOrders_safe t (modEng_safe (drawn_safe (flow_safe h)))

theorem abort_safe {n} (h : Safe s) : Safe (s.abort n) := perf_safe (modWw_safe ((discard_silent ..).safe h))

theorem abortReaders_safe {ts g hit} : ∀ l {s}, Safe s → Safe (abortReaders ts g hit l s)
  | [], _, h => h
  | _ :: t, s, h => by
    unfold abortReaders
    split
    · exact ite_safe (abortReaders_safe t (abort_safe h)) (abortReaders_safe t h)
    · exact abortReaders_safe t h

theorem commitBlock_safe {g b orders} (h : Safe s) : Safe (s.commitBlock g b orders) := by
  unfold State.commitBlock
  extract_lets mark peers changed acq hit touched stored written applied sent aborted
  have h : Safe touched := foldl_safe (fun s r h => by
    split
    · exact touch_safe h
    · exact h) h
  have h : Safe stored := flow_safe (performStores_safe (endAcquires_safe (takeAcquires_safe h)))
  have h : Safe applied := modWw_safe (applyPends_safe _ (modWw_safe h))
  have h : Safe aborted := perf_safe (abortReaders_safe _ (sendOrders_safe _ h))
  split
  · exact (take_unwritten ..).safe h
  · exact modTh_safe h
  · exact h

theorem execBlockCommit_sound {g} (h : Safe s) : Sound (execBlockCommit g s) := by
  unfold execBlockCommit
  split
  · exact .next h
  · refine .ite (.next h) ?_
    split
    · exact .next ((blockFault_keeps ..).safe h)
    · refine .ite (.next ((blockFault_keeps ..).safe h)) (.ite (.next h) ?_)
      split
      · exact .next ((blockFault_keeps ..).safe h)
      · exact .next (commitBlock_safe h)

theorem modSpdm_safe {r f} (h : Safe s) : Safe (s.modSpdm r f) := h

end Sys2Proof.Machine
end

section
/-! # The canonical form of memory: links, SPDM and sessions -/

namespace Sys2Proof.Machine

variable {s : State}

theorem wasCarried_safe {on y} (h : Safe s) : Safe (s.wasCarried on y).1 := ite_fst_safe h (ite_fst_safe h (ite_fst_safe h h))

theorem mapEngines_safe {f} (h : Safe s) : Safe (s.mapEngines f) := h

theorem tearCarried_safe {on} : ∀ l {s}, Safe s → Safe (tearCarried on l s)
  | [], _, h => h
  | _ :: t, _, h => tearCarried_safe t (ite_safe (mapEngines_safe (wasCarried_safe h)) (wasCarried_safe h))

theorem dropLink_safe {l reason} (h : Safe s) : Safe (s.dropLink l reason) :=
  noGlade_safe (when_safe modLink_safe (when_safe (fun h => settleTears_safe (tearCarried_safe _ h)) (modSpdm_safe (modLink_safe h))))

theorem retrain_safe {l} (h : Safe s) : Safe (s.retrain l) := ite_safe (modLink_safe (dropLink_safe h)) ((sendFlit_silent ..).safe h)

theorem execLaneFailure_sound {l lane} (h : Safe s) : Sound (execLaneFailure l lane s) := .next (ite_safe (retrain_safe h) h)

theorem execLinkUp_sound {l number canopy chain aliasCert key} (h : Safe s) : Sound (execLinkUp l number canopy chain aliasCert key s) :=
  .ite (.next h) (.ite (.next (dropLink_safe h)) (.next (foldl_safe (fun _ _ => (sendFlit_silent ..).safe) h)))

theorem execLinkDown_sound {l} (h : Safe s) : Sound (execLinkDown l s) := .ite (.next (dropLink_safe h)) (.next h)

theorem execPeerReclaimTimeout_sound {peer} (h : Safe s) : Sound (execPeerReclaimTimeout peer s) :=
  .ite (.next h) (.next (foldl_safe (fun _ _ => noGlade_safe) (noGlade_safe (foldl_safe (fun _ _ => (report_same ..).safe) h))))

theorem pumpFlits_safe {l} : ∀ n {s}, Safe s → Safe (pumpFlits l n s)
  | 0, _, h => h
  | n + 1, s, h => by
    unfold pumpFlits
    extract_lets x
    split
    · exact h
    · exact ite_safe h (pumpFlits_safe n (transmit_safe (modLink_safe h)))

theorem ack_safe {l credit} (h : Safe s) : Safe (s.ack l credit) := ite_safe h (pumpFlits_safe _ h)

theorem arrive_safe {l p} (h : Safe s) : Safe (s.arrive l p) := by
  unfold State.arrive
  dsimp only
  split
  · exact h
  · exact ite_safe (credit_safe (landData_safe h)) h

theorem takeData_safe {l p} (h : Safe s) : Safe (s.takeData l p) := ite_safe h (arrive_safe h)

theorem takeNotices_safe {l p} (h : Safe s) : Safe (s.takeNotices l p) := credit_safe (foldl_safe (fun _ _ => (modHome_same ..).safe) h)

theorem reserve_safe {g zone k n} (h : Safe s) : Safe (s.reserve g zone k n).1 := by
  unfold State.reserve
  split
  · exact ite_fst_safe h (ite_fst_safe h (ite_fst_safe h h))
  · exact h

theorem reserveHome_safe {g zone k n} (h : Safe s) : Safe (s.reserveHome g zone k n).1 :=
  ite_fst_safe (reserve_safe h) (ite_fst_safe h (modGlade_safe (reserve_safe h)))

theorem takeRes_safe {l p} (h : Safe s) : Safe (s.takeRes l p) :=
  credit_safe (foldl_safe (fun _ _ h => ite_safe h ((sendFlit_silent ..).safe h)) ((sendFlit_silent ..).safe (reserveHome_safe h)))

theorem takeAnswer_safe {l p} (h : Safe s) : Safe (s.takeAnswer l p) := by
  unfold State.takeAnswer
  refine credit_safe ?_
  split
  · exact h
  · exact ite_safe ((releaseKey_same ..).safe h) (ite_safe ((unhold_same ..).safe h) h)

theorem takeRelease_safe {l p} (h : Safe s) : Safe (s.takeRelease l p) :=
  credit_safe <| ite_safe ((sendFlit_silent ..).safe ((holdKey_silent ..).safe h)) <|
    ite_safe ((modHome_same ..).safe h) (settleTears_safe ((modHome_same ..).safe h))

theorem takeReclaim_safe {l p} (h : Safe s) : Safe (s.takeReclaim l p) :=
  credit_safe (ite_safe (settleTears_safe ((modHome_same ..).safe h)) ((modHome_same ..).safe h))

theorem endSpdm_safe {rsp ses} (h : Safe s) : Safe (s.endSpdm rsp ses) := by
  unfold State.endSpdm
  refine modSpdm_safe (ite_safe ?_ ?_)
  · refine safe_of_mem rfl ?_
    split <;> exact h
  · split <;> exact h

theorem sendSpdm_safe {l} : ∀ n m {s}, Safe s → Safe (sendSpdm l n m s)
  | 0, _, _, h => h
  | n + 1, _, _, h => sendSpdm_safe n _ ((sendFlit_silent ..).safe h)

theorem spdmTo_safe {l m} (h : Safe s) : Safe (s.spdmTo l m) := sendSpdm_safe _ _ h

theorem answer_safe {rsp code body} (h : Safe s) : Safe (s.answer rsp code body) := ite_safe (spdmTo_safe h) h

theorem spdmError_safe {rsp code} (h : Safe s) : Safe (s.spdmError rsp code) := answer_safe h

theorem execSpdmGetVersion_sound {rsp common} (h : Safe s) : Sound (execSpdmGetVersion rsp common s) := by
  unfold execSpdmGetVersion
  extract_lets closed
  have hClosed : Safe closed := foldl_safe (fun _ _ => endSpdm_safe) h
  exact .ite (.next h) (.ite (.next (answer_safe (modSpdm_safe hClosed))) (.next (spdmError_safe (modSpdm_safe hClosed))))

theorem spdmAt_sound {r stage code ok body k} (h : Safe s) (done : Safe (k s)) : Sound (s.spdmAt r stage code ok body k) :=
  .ite (.next h) (.ite (.next (spdmError_safe h)) (.ite (.next (spdmError_safe h)) (.next (answer_safe done))))

theorem execSpdmGetCapabilities_sound {rsp} (h : Safe s) : Sound (execSpdmGetCapabilities rsp s) := by
  unfold execSpdmGetCapabilities
  exact spdmAt_sound h h

theorem execSpdmNegotiateAlgorithms_sound {req} (h : Safe s) : Sound (execSpdmNegotiateAlgorithms req s) := by
  unfold execSpdmNegotiateAlgorithms
  exact spdmAt_sound h h

theorem execSpdmGetDigests_sound {rsp} (h : Safe s) : Sound (execSpdmGetDigests rsp s) := spdmAt_sound h h

theorem execSpdmGetCertificate_sound {req} (h : Safe s) : Sound (execSpdmGetCertificate req s) := spdmAt_sound h h

theorem execSpdmChallenge_sound {req nonce} (h : Safe s) : Sound (execSpdmChallenge req nonce s) := spdmAt_sound h h

theorem execSpdmGetMeasurements_sound {req nonce} (h : Safe s) : Sound (execSpdmGetMeasurements req nonce s) := spdmAt_sound h h

theorem execSpdmKeyExchange_sound {rsp ses secret} (h : Safe s) : Sound (execSpdmKeyExchange rsp ses secret s) :=
  .ite (.next (spdmError_safe h)) (.ite (.next (spdmError_safe h)) (spdmAt_sound h h))

theorem spdmIn_sound {rsp ses code secured k} (h : Safe s) (done : Safe (k s)) : Sound (s.spdmIn rsp ses code secured k) := by
  unfold State.spdmIn
  refine .ite (.next h) ?_
  split
  · exact .ite (.next (answer_safe done)) (.next (spdmError_safe h))
  · exact .next (spdmError_safe h)

theorem execSpdmFinish_sound {rsp ses} (h : Safe s) : Sound (execSpdmFinish rsp ses s) := spdmIn_sound h h

theorem execSpdmHeartbeat_sound {rsp ses} (h : Safe s) : Sound (execSpdmHeartbeat rsp ses s) := spdmIn_sound h h

theorem execSpdmKeyUpdate_sound {rsp ses} (h : Safe s) : Sound (execSpdmKeyUpdate rsp ses s) := spdmIn_sound h h

theorem execSpdmEndSession_sound {rsp ses} (h : Safe s) : Sound (execSpdmEndSession rsp ses s) := spdmIn_sound h (endSpdm_safe h)

theorem execSpdmUnsupported_sound {rsp} (h : Safe s) : Sound (execSpdmUnsupported rsp s) := .next (ite_safe (spdmError_safe h) h)

theorem spdmRequest_sound {l m} (h : Safe s) : Sound (s.spdmRequest l m) :=
  .ite (execSpdmGetVersion_sound h) <| .ite (execSpdmGetCapabilities_sound h) <| .ite (execSpdmNegotiateAlgorithms_sound h) <|
    .ite (execSpdmGetDigests_sound h) <| .ite (execSpdmGetCertificate_sound h) <| .ite (execSpdmChallenge_sound h) <|
    .ite (execSpdmGetMeasurements_sound h) <| .ite (execSpdmKeyExchange_sound h) <| .ite (execSpdmFinish_sound h) <|
    .ite (execSpdmHeartbeat_sound h) <| .ite (execSpdmKeyUpdate_sound h) <| .ite (execSpdmEndSession_sound h) (execSpdmUnsupported_sound h)

theorem askSpdm_safe {l code} (h : Safe s) : Safe (s.askSpdm l code) := spdmTo_safe h

theorem spdmMessage_safe {l m} (h : Safe s) : Safe (s.spdmMessage l m) :=
  ite_safe (nextOr_safe h (spdmRequest_sound h)) (ite_safe (ite_safe h (askSpdm_safe h)) (dropLink_safe h))

theorem takeSpdm_safe {l p} (h : Safe s) : Safe (s.takeSpdm l p) := ite_safe (spdmMessage_safe h) h

theorem sendVersion_safe {l} (h : Safe s) : Safe (s.sendVersion l) := (sendFlit_silent ..).safe h

theorem takeVersion_safe {l p} (h : Safe s) : Safe (s.takeVersion l p) := by
  unfold State.takeVersion
  extract_lets t st low u
  have h : Safe t := credit_safe h
  have hu : Safe u := modLink_safe (ite_safe (sendVersion_safe h) h)
  exact ite_safe h (ite_safe (ite_safe (askSpdm_safe hu) hu) (dropLink_safe h))

theorem takeNak_safe {l p} (h : Safe s) : Safe (s.takeNak l p) := by
  unfold State.takeNak
  extract_lets q t noted u
  have h : Safe t := credit_safe h
  split
  · exact h
  · have h : Safe u := when_safe retrain_safe (modLink_safe h)
    exact ite_safe h (putFlit_safe h)

theorem takeSuspect_safe {l p} (h : Safe s) : Safe (s.takeSuspect l p) :=
  credit_safe (foldl_safe (fun _ _ => suspect_safe) (noGlade_safe h))

theorem takeAbort_safe {l p} (h : Safe s) : Safe (s.takeAbort l p) := credit_safe (ite_safe (tearDead_safe h) (peerAbort_safe h))

theorem deliver_safe {l kind p} (h : Safe s) : Safe (s.deliver l kind p) := by
  unfold State.deliver
  extract_lets op other
  have hOther : Safe other := credit_safe (life_safe h)
  refine ite_safe h <| ite_safe (takeData_safe h) <| ite_safe (takeNotices_safe h) <| ite_safe ?_ <| ite_safe h <| ite_safe (credit_safe h)
      <|
    ite_safe (takeSpdm_safe h) <| ite_safe ?_ hOther
  · exact ite_safe (takeRes_safe h) <| ite_safe (takeAnswer_safe h) <| ite_safe (takeRelease_safe h) <| ite_safe (takeReclaim_safe h) hOther
  · exact ite_safe (takeVersion_safe h) <| ite_safe (takeNak_safe h) <| ite_safe (takeSuspect_safe h) <| ite_safe (takeAbort_safe h) <|
        ite_safe h hOther

theorem drainAhead_safe {l} : ∀ n {s}, Safe s → Safe (drainAhead l n s)
  | 0, _, h => h
  | n + 1, s, h => by
    unfold drainAhead
    dsimp only
    split
    · exact h
    · exact drainAhead_safe n (deliver_safe (ack_safe (modLink_safe h)))

theorem receive_sound {l seq ok credit kind p} (h : Safe s) : Sound (s.receive l seq ok credit kind p) := by
  unfold State.receive
  extract_lets x nak taken
  have hNak : Safe nak := (sendFlit_silent ..).safe (modLink_safe h)
  have hTaken : Safe taken := ack_safe (modLink_safe h)
  exact .ite (.next h) <| .ite (.next (ite_safe (retrain_safe hNak) hNak)) <| .ite (.next h) <|
    .ite (.next (ite_safe h (modLink_safe h))) (.next (drainAhead_safe _ (deliver_safe hTaken)))

theorem execFlitData_sound {l seq ok n payload} (h : Safe s) : Sound (execFlitData l seq ok n payload s) := receive_sound h

theorem execFlitNotice_sound {l seq ok n payload} (h : Safe s) : Sound (execFlitNotice l seq ok n payload s) := receive_sound h

theorem receiveOp_sound {l seq ok n kind ops p} (h : Safe s) : Sound (s.receiveOp l seq ok n kind ops p) := .ite (receive_sound h) (.next h)

theorem execFlitSlotRes_sound {l seq ok n payload} (h : Safe s) : Sound (execFlitSlotRes l seq ok n payload s) := receiveOp_sound h

theorem execFlitSlotAnswer_sound {l seq ok n payload} (h : Safe s) : Sound (execFlitSlotAnswer l seq ok n payload s) := receiveOp_sound h

theorem execFlitSlotRelease_sound {l seq ok n payload} (h : Safe s) : Sound (execFlitSlotRelease l seq ok n payload s) := receiveOp_sound h

theorem execFlitSlotReclaim_sound {l seq ok n payload} (h : Safe s) : Sound (execFlitSlotReclaim l seq ok n payload s) := receiveOp_sound h

theorem execFlitCall_sound {l seq ok n payload} (h : Safe s) : Sound (execFlitCall l seq ok n payload s) := receive_sound h

theorem execFlitCallDone_sound {l seq ok n payload} (h : Safe s) : Sound (execFlitCallDone l seq ok n payload s) := receive_sound h

theorem execFlitSpdm_sound {l seq ok n payload} (h : Safe s) : Sound (execFlitSpdm l seq ok n payload s) := receive_sound h

theorem execFlitNak_sound {l seq ok n payload} (h : Safe s) : Sound (execFlitNak l seq ok n payload s) := receiveOp_sound h

theorem execFlitVersion_sound {l seq ok n payload} (h : Safe s) : Sound (execFlitVersion l seq ok n payload s) := receiveOp_sound h

theorem execFlitSuspect_sound {l seq ok n payload} (h : Safe s) : Sound (execFlitSuspect l seq ok n payload s) := receiveOp_sound h

theorem execFlitPeerAbort_sound {l seq ok n payload} (h : Safe s) : Sound (execFlitPeerAbort l seq ok n payload s) := receiveOp_sound h

theorem execSlotAnswerTimeout_sound {g} (h : Safe s) : Sound (execSlotAnswerTimeout g s) := .next h

theorem secured_sound {ses k} (h : Safe s) (done : ∀ x, Safe (k x)) : Sound (s.secured ses k) := by
  unfold State.secured
  refine .ite (.next h) ?_
  split
  · exact .ite (.next (done _)) (.next (spdmError_safe h))
  · exact .next (spdmError_safe h)

theorem execJobJoin_sound {ses serial idx} (h : Safe s) : Sound (execJobJoin ses serial idx s) := by
  unfold execJobJoin
  refine secured_sound h fun _ => ?_
  split
  · exact h
  · exact ite_safe h h

theorem asParty_sound {ses what k} (h : Safe s) (done : ∀ c i x, Safe (k c i x)) : Sound (s.asParty ses what k) := by
  refine secured_sound h fun _ => ?_
  split
  · exact done _ _ _
  · exact emit_safe h

theorem execQuote_sound {ses nonce} (h : Safe s) : Sound (execQuote ses nonce s) := asParty_sound h fun _ _ _ => h

theorem execSessionOpen_sound {ses} (h : Safe s) : Sound (execSessionOpen ses s) := by
  unfold execSessionOpen
  refine asParty_sound h fun _ _ _ => ?_
  dsimp only
  split <;> exact h

theorem execSessionClose_sound {ses handle} (h : Safe s) : Sound (execSessionClose ses handle s) := asParty_sound h fun _ _ _ => h

theorem weightsKey_safe {ctx idx} (h : Safe s) : Safe (s.weightsKey ctx idx).1 := by
  unfold State.weightsKey
  split
  · exact h
  · split <;> exact h

theorem install_safe {ctx va keyid kek} : ∀ l i {s}, Safe s → Safe (install ctx va keyid kek l i s).1
  | [], _, _, h => h
  | _ :: t, i, s, h => by
    unfold install
    split
    · exact h
    · refine ite_fst_safe h ?_
      split
      · exact h
      · extract_lets u
        have h : Safe u := modJob_safe (put_safe h)
        exact install_safe t (i + 1) (safe_of_mem rfl h)

theorem execWeightInstall_sound {ses q va idx chunks_} (h : Safe s) : Sound (execWeightInstall ses q va idx chunks_ s) := by
  unfold execWeightInstall
  refine asParty_sound h fun _ _ _ => ?_
  refine ite_safe h ?_
  split
  · next e =>
      have h' := fst_safe e (weightsKey_safe h)
      exact h'
  · next e =>
      have h' := fst_safe e (weightsKey_safe h)
      exact emit_safe (install_safe _ _ h')

theorem execImageKey_sound {ses key} (h : Safe s) : Sound (execImageKey ses key s) := asParty_sound h fun _ _ _ => ite_safe h h

end Sys2Proof.Machine
end

section
/-! # The canonical form of memory: jobs, arrivals, moves and steps -/

namespace Sys2Proof.Machine

variable {s : State}

/-- The next level's table is found or begun (R434). -/
theorem childTable_safe {base a} {r : State × Nat} (h : Safe r.1) : Safe (childTable base r a).1.1 := by
  unfold childTable
  dsimp only
  split
  · exact h
  · exact put_safe h

theorem mapLeaf_safe {base va k e} {r : State × Nat} (h : Safe r.1) : Safe (mapLeaf base r va k e).1 := by
  unfold mapLeaf
  extract_lets lvl
  clear_value lvl
  dsimp only
  refine put_safe ?_
  split
  · exact childTable_safe (childTable_safe h)
  · exact childTable_safe (childTable_safe (childTable_safe h))

theorem mapRange_safe {base keyid w} : ∀ f va pa n {r : State × Nat}, Safe r.1 → Safe (mapRange base keyid w f va pa n r).1
  | 0, _, _, _, _, h => h
  | f + 1, _, _, _, _, h => ite_fst_safe h (mapRange_safe f _ _ _ (mapLeaf_safe h))

theorem buildTables_safe {j kd kt ks} (h : Safe s) : Safe (s.buildTables j kd kt ks).1 :=
  mapRange_safe _ _ _ _ (mapRange_safe _ _ _ _ (mapRange_safe _ _ _ _ (mapRange_safe _ _ _ _ h)))

theorem openNew_safe {r} (h : Safe s) : Safe (s.openNew r).1 := by
  unfold State.openNew
  extract_lets ks key c n asked keyed rooted cleared pk granted
  have h : Safe granted := memZero_wf _ _ h
  clear_value granted
  change Safe (granted.buildTables rooted (key 0) (key 1) (key 2)).1
  exact buildTables_safe h

theorem execJobOpen_sound {request} (h : Safe s) : Sound (execJobOpen request s) := by
  unfold execJobOpen
  extract_lets r bad
  clear_value bad
  refine .ite (.next h) ?_
  split
  · exact .next h
  · have h : Safe (s.openNew r).1 := openNew_safe h
    generalize s.openNew r = opened at h
    exact .next (emit_safe h)

theorem execJobClose_sound {ctx} (h : Safe s) : Sound (execJobClose ctx s) := .next (ite_safe (endJob_safe h) h)

theorem execPowerCapSet_sound {watts} (h : Safe s) : Sound (execPowerCapSet watts s) := .ite (.next h) (.next h)

theorem execFirmwareUpdate_sound {heart img secver sig} (h : Safe s) : Sound (execFirmwareUpdate heart img secver sig s) :=
  .ite (.next h) (.next h)

theorem execPldmMonitor_sound (h : Safe s) : Sound (execPldmMonitor s) := .ite (.next h) (.next h)

theorem execPackageNumberSet_sound {num canopy} (h : Safe s) : Sound (execPackageNumberSet num canopy s) :=
  .ite (.next h) (.next (foldl_safe (fun _ _ h => modLink_safe (sendVersion_safe h)) h))

theorem execUsageRecordRequest_sound {ctx nonce} (h : Safe s) : Sound (execUsageRecordRequest ctx nonce s) := by
  unfold execUsageRecordRequest
  refine .ite (.next h) ?_
  split <;> exact .next h

theorem execPowerFail_sound (h : Safe s) : Sound (execPowerFail s) := .next (cold_wf _ h)

theorem fitPool_safe {ctx forced f} : ∀ l {s}, Safe s → Safe (State.fitPool ctx forced f l s)
  | [], _, h => h
  | _ :: t, _, h => ite_safe h (fitPool_safe t (modGraft_safe h))

theorem shrinkPool_safe {ctx} (h : Safe s) : Safe (s.shrinkPool ctx) := fitPool_safe _ (fitPool_safe _ h)

theorem execQuotaChange_sound {ctx graft usage occ} (h : Safe s) : Sound (execQuotaChange ctx graft usage occ s) := by
  unfold execQuotaChange
  split
  · exact .next h
  · exact .next (ite_safe (shrinkPool_safe h) (release_safe (shrinkPool_safe h)))

theorem tdisp_sound {vf old new} (h : Safe s) : Sound (s.tdisp vf old new) := .ite (.next h) (.ite (.next h) (.next h))

theorem execTdispLockInterface_sound {vf} (h : Safe s) : Sound (execTdispLockInterface vf s) := .ite (.next h) (tdisp_sound h)

theorem execTdispStartInterface_sound {vf} (h : Safe s) : Sound (execTdispStartInterface vf s) := tdisp_sound h

theorem execIdeKmKeyProg_sound {req} (h : Safe s) : Sound (execIdeKmKeyProg req s) := .next (ite_safe h h)

theorem execAtsTranslationCompletion_sound {vf page rd wr} (h : Safe s) : Sound (execAtsTranslationCompletion vf page rd wr s) := by
  unfold execAtsTranslationCompletion
  dsimp only
  split
  · exact .next h
  · exact .ite (.next (modFn_safe (foldl_safe (fun _ _ h => h) h))) (.next h)

theorem execFlitIdle_sound {l seq ok n} (h : Safe s) : Sound (execFlitIdle l seq ok n s) := receive_sound h

theorem execHistogramSecond_sound {temps mvs} (h : Safe s) : Sound (execHistogramSecond temps mvs s) :=
  .next (foldl_safe (fun _ _ h => h) h)

theorem countWaits_safe {g} (h : Safe s) : Safe (s.countWaits g) := by
  unfold State.countWaits
  split <;> exact h

theorem openGlade_safe {g} (h : Safe s) : Safe (s.openGlade g) := modEng_safe (countWaits_safe (ite_safe h h))

theorem openCy_safe {d} (h : Safe s) : Safe (s.openCy d) :=
  safe_of_mem rfl (foldl_safe (fun _ _ => openGlade_safe) (settleTears_safe (foldl_safe (fun _ _ h => h) h)))

theorem exec_event_sound {i} (h : Safe s) (event : ((encodeWord i).isSome || (encodeOp i).isSome) = false) : Sound (exec i s) := by
  cases i with
  | powerOn => exact execPowerOn_sound h
  | thermalShutdown => exact execThermalShutdown_sound h
  | clockStep => exact execClockStep_sound h
  | lifetimeFlush => exact execLifetimeFlush_sound h
  | vfReset => exact execVfReset_sound h
  | tdiStop => exact execTdiStop_sound h
  | registerWrite => exact execRegisterWrite_sound h
  | ringEnable => exact execRingEnable_sound h
  | ringTeardownDrain => exact execRingTeardownDrain_sound h
  | ringTeardownCancel => exact execRingTeardownCancel_sound h
  | ringWidxWrite => exact execRingWidxWrite_sound h
  | ringDrainComplete => exact execRingDrainComplete_sound h
  | ringFetch => exact execRingFetch_sound h
  | tinvPage => exact execTinvPage_sound h
  | tinvContext => exact execTinvContext_sound h
  | tinvComplete => exact execTinvComplete_sound h
  | fqRcntWrite => exact execFqRcntWrite_sound h
  | fqLostRead => exact execFqLostRead_sound h
  | msixMessage => exact execMsixMessage_sound h
  | atsInvalidate => exact execAtsInvalidate_sound h
  | prgResponse => exact execPrgResponse_sound h
  | prgTimeout => exact execPrgTimeout_sound h
  | pageRequest => exact execPageRequest_sound h
  | walkComplete => exact execWalkComplete_sound h
  | selectionPass => exact execSelectionPass_sound h
  | launchBoost => exact execLaunchBoost_sound h
  | reservingTimeout => exact execReservingTimeout_sound h
  | launchStart => exact execLaunchStart_sound h
  | unitComplete => exact execUnitComplete_sound h
  | phaseBoundary => exact execPhaseBoundary_sound h
  | boughSaveWrite => exact execBoughSaveWrite_sound h
  | phaseLimitExpiry => exact execPhaseLimitExpiry_sound h
  | cancelProcess => exact execCancelProcess_sound h
  | periodRollover => exact execPeriodRollover_sound h
  | infieldTest => exact execInfieldTest_sound h
  | timeSlotEvent => exact execTimeSlotEvent_sound h
  | contextCycle => exact execContextCycle_sound h
  | resultLand => exact execResultLand_sound h
  | fernResultLand => exact execFernResultLand_sound h
  | agReply => exact execAgReply_sound h
  | entryStartTimed => exact execEntryStartTimed_sound h
  | entryStartGated => exact execEntryStartGated_sound h
  | entryRetire => exact execEntryRetire_sound h
  | creditTimerFire => exact execCreditTimerFire_sound h
  | standFire => exact execStandFire_sound h
  | standSlotRelease => exact execStandSlotRelease_sound h
  | standFireComplete => exact execStandFireComplete_sound h
  | drainBeat => exact execDrainBeat_sound h
  | raftNoticeServe => exact execRaftNoticeServe_sound h
  | raftTileLand => exact execRaftTileLand_sound h
  | wloadRegion => exact execWloadRegion_sound h
  | rillArrival => exact execRillArrival_sound h
  | landingArrival => exact execLandingArrival_sound h
  | moteArrival => exact execMoteArrival_sound h
  | moteReinjection => exact execMoteReinjection_sound h
  | seedReplayStep => exact execSeedReplayStep_sound h
  | graftFetchComplete => exact execGraftFetchComplete_sound h
  | graftFetchTimeout => exact execGraftFetchTimeout_sound h
  | waitTimeout => exact execWaitTimeout_sound h
  | orderStall => exact execOrderStall_sound h
  | blockFetch => exact execBlockFetch_sound h
  | blockCommit => exact execBlockCommit_sound h
  | laneFailure => exact execLaneFailure_sound h
  | linkUp => exact execLinkUp_sound h
  | linkDown => exact execLinkDown_sound h
  | peerReclaimTimeout => exact execPeerReclaimTimeout_sound h
  | flitData => exact execFlitData_sound h
  | flitNotice => exact execFlitNotice_sound h
  | flitSlotRes => exact execFlitSlotRes_sound h
  | flitSlotAnswer => exact execFlitSlotAnswer_sound h
  | flitSlotRelease => exact execFlitSlotRelease_sound h
  | flitSlotReclaim => exact execFlitSlotReclaim_sound h
  | flitCall => exact execFlitCall_sound h
  | flitCallDone => exact execFlitCallDone_sound h
  | flitSpdm => exact execFlitSpdm_sound h
  | flitNak => exact execFlitNak_sound h
  | flitVersion => exact execFlitVersion_sound h
  | flitSuspect => exact execFlitSuspect_sound h
  | flitPeerAbort => exact execFlitPeerAbort_sound h
  | slotAnswerTimeout => exact execSlotAnswerTimeout_sound h
  | spdmGetVersion => exact execSpdmGetVersion_sound h
  | spdmGetCapabilities => exact execSpdmGetCapabilities_sound h
  | spdmNegotiateAlgorithms => exact execSpdmNegotiateAlgorithms_sound h
  | spdmGetDigests => exact execSpdmGetDigests_sound h
  | spdmGetCertificate => exact execSpdmGetCertificate_sound h
  | spdmChallenge => exact execSpdmChallenge_sound h
  | spdmGetMeasurements => exact execSpdmGetMeasurements_sound h
  | spdmKeyExchange => exact execSpdmKeyExchange_sound h
  | spdmFinish => exact execSpdmFinish_sound h
  | spdmKeyUpdate => exact execSpdmKeyUpdate_sound h
  | spdmHeartbeat => exact execSpdmHeartbeat_sound h
  | spdmEndSession => exact execSpdmEndSession_sound h
  | spdmUnsupported => exact execSpdmUnsupported_sound h
  | jobJoin => exact execJobJoin_sound h
  | quote => exact execQuote_sound h
  | sessionOpen => exact execSessionOpen_sound h
  | sessionClose => exact execSessionClose_sound h
  | weightInstall => exact execWeightInstall_sound h
  | imageKey => exact execImageKey_sound h
  | jobOpen => exact execJobOpen_sound h
  | jobClose => exact execJobClose_sound h
  | powerCapSet => exact execPowerCapSet_sound h
  | firmwareUpdate => exact execFirmwareUpdate_sound h
  | pldmMonitor => exact execPldmMonitor_sound h
  | packageNumberSet => exact execPackageNumberSet_sound h
  | usageRecordRequest => exact execUsageRecordRequest_sound h
  | powerFail => exact execPowerFail_sound h
  | quotaChange => exact execQuotaChange_sound h
  | tdispLockInterface => exact execTdispLockInterface_sound h
  | tdispStartInterface => exact execTdispStartInterface_sound h
  | ideKmKeyProg => exact execIdeKmKeyProg_sound h
  | atsTranslationCompletion => exact execAtsTranslationCompletion_sound h
  | agStorePerformed => exact execAgStorePerformed_sound h
  | flitIdle => exact execFlitIdle_sound h
  | histogramSecond => exact execHistogramSecond_sound h
  | _ => cases event

theorem exec_sound {i} (h : Safe s) : Sound (exec i s) := by
  by_cases word : (encodeWord i).isSome
  · exact (word_harmless i s word).sound h
  · by_cases op : (encodeOp i).isSome
    · exact fun t e => (op_quiet i s op t e).safe h
    · exact exec_event_sound h (by simp [word, op])

theorem woodward_sound {g} (h : Safe s) : Sound (s.woodward g) := by
  unfold State.woodward
  split
  · exact execBlockFetch_sound h
  · split
    · exact execBlockCommit_sound h
    · next k again _ =>
      extract_lets t
      have h : Safe t := ite_safe (modGlade_safe h) h
      split
      · exact exec_sound h
      · exact .fault

theorem rawFlit_sound {l b} (h : Safe s) : Sound (s.rawFlit l b) := receive_sound h

theorem damage_safe {a} (h : Safe s) : Safe (s.damage a) := foldl_safe (fun _ _ h => h) h

theorem arrival_sound {a} (h : Safe s) : Sound (s.arrival a) := by
  cases a with
  | event i => exact .ite (exec_sound h) (.next h)
  | flit l b => exact rawFlit_sound h
  | hostBytes vf addr bs => exact .next (ite_safe (putNoted_safe h) h)
  | damage a => exact .next (damage_safe h)
  | parity g p m => exact .next (modStand_safe h)
  | corrected item idx => exact .next (ite_safe (life_safe h) h)

theorem input_sound (h : Safe s) : Sound s.input := by
  unfold State.input
  split
  · exact .next h
  · exact arrival_sound h

theorem execGraftSettle_sound {n} (h : Safe s) : Sound (execGraftSettle n s) := .ite (.next h) (.next h)

theorem runTest_sound {c} (h : Safe s) : Sound (s.runTest c) := .ite (execInfieldTest_sound h) (.next h)

theorem takeCall_safe {l} (h : Safe s) : Safe (s.takeCall l) := by
  unfold State.takeCall
  split
  · exact h
  · exact message_safe h

theorem sendCredits_safe {l} (h : Safe s) : Safe (s.sendCredits l) := foldl_safe (fun _ _ h => h) h

theorem settleHost_safe {g lo n} (h : Safe s) : Safe (s.settleHost g lo n) :=
  foldl_safe (fun _ _ h => ite_safe (quiesceAg_safe _ h) h) (ite_safe ((discard_silent ..).safe h) h)

theorem invalidated_safe {vf} (h : Safe s) : Safe (s.invalidated vf) := by
  unfold State.invalidated
  split
  · exact h
  · exact request_safe (dropTlb_safe (foldl_safe (fun _ _ => settleHost_safe) h))

theorem performOrphan_safe {o} (h : Safe s) : Safe (s.performOrphan o) := by
  unfold State.performOrphan
  refine ite_safe h ?_
  split
  · exact h
  · exact write_safe h
  · exact safe_of_mem rfl (write_safe h)

theorem runOrphans_safe : ∀ l {s}, Safe s → Safe (runOrphans l s)
  | [], _, h => h
  | _ :: t, _, h => ite_safe (runOrphans_safe t h) (runOrphans_safe t (performOrphan_safe h))

theorem settleOrphans_safe (h : Safe s) : Safe s.settleOrphans := runOrphans_safe _ h

theorem evictRow_safe {d l v b row} (h : Safe s) : Safe (s.evictRow d l v b row) := by
  unfold State.evictRow
  split
  · exact h
  · exact ite_safe h (modDie_safe (ite_safe (putNoted_safe (putNoted_safe h)) h))

theorem evictRows_safe {g b lo hi} (h : Safe s) : Safe (s.evictRows g b lo hi) :=
  foldl_safe (fun _ _ h => ite_safe h (foldl_safe (fun _ _ h => foldl_safe (fun _ _ => evictRow_safe) h) h)) h

theorem evictLine_safe {ctx d line} (h : Safe s) : Safe (s.evictLine ctx d line) :=
  foldl_safe (fun _ _ h => modJob_safe (ite_safe h (putNoted_safe h))) h

theorem settleTouch_safe {t} (h : Safe s) : Safe (s.settleTouch t) := by
  unfold State.settleTouch
  extract_lets u a
  have h : Safe u := foldl_safe (fun _ _ => life_safe) h
  exact ite_safe h (ite_safe (evictRows_safe h) (ite_safe (foldl_safe (fun _ _ => evictLine_safe) h) h))

theorem settleTouches_safe (h : Safe s) : Safe s.settleTouches := foldl_safe (fun _ _ => settleTouch_safe) h

theorem runMove_sound {m} (h : Safe s) : Sound (runMove m s) := by
  unfold runMove
  split
  · exact .next (openCy_safe h)
  · exact woodward_sound h
  · exact .next ((deliverCauses_keeps ..).safe h)
  · exact input_sound h
  · exact execWalkComplete_sound h
  · exact execContextCycle_sound h
  · exact execResultLand_sound h
  · exact execFernResultLand_sound h
  · exact execAgReply_sound h
  · exact execAgStorePerformed_sound h
  · exact execEntryStartTimed_sound h
  · exact execEntryStartGated_sound h
  · exact execEntryRetire_sound h
  · exact execCreditTimerFire_sound h
  · exact execStandFire_sound h
  · exact execStandSlotRelease_sound h
  · exact execStandFireComplete_sound h
  · exact execDrainBeat_sound h
  · exact execRaftNoticeServe_sound h
  · exact execRaftTileLand_sound h
  · exact execWloadRegion_sound h
  · exact execMoteArrival_sound h
  · exact execLandingArrival_sound h
  · exact execSeedReplayStep_sound h
  · exact execGraftFetchComplete_sound h
  · exact execGraftFetchTimeout_sound h
  · exact execGraftSettle_sound h
  · exact execWaitTimeout_sound h
  · exact execOrderStall_sound h
  · exact execSlotAnswerTimeout_sound h
  · exact execSelectionPass_sound h
  · exact execLaunchBoost_sound h
  · exact execReservingTimeout_sound h
  · exact execLaunchStart_sound h
  · exact execUnitComplete_sound h
  · exact execPhaseBoundary_sound h
  · exact execBoughSaveWrite_sound h
  · exact execPhaseLimitExpiry_sound h
  · exact execCancelProcess_sound h
  · exact execTimeSlotEvent_sound h
  · exact runTest_sound h
  · exact execPeriodRollover_sound h
  · exact execRingFetch_sound h
  · exact execRingDrainComplete_sound h
  · exact execTinvComplete_sound h
  · exact execPageRequest_sound h
  · exact execPrgTimeout_sound h
  · exact execMsixMessage_sound h
  · exact execPeerReclaimTimeout_sound h
  · exact .next (takeCall_safe h)
  · exact .next (sendCredits_safe h)
  · exact .next (invalidated_safe h)
  · exact .next (settleOrphans_safe h)
  · exact .next (settleTouches_safe h)
  · exact execLifetimeFlush_sound h

theorem edge_safe (h : Safe s) : Safe s.edge := by
  unfold State.edge
  dsimp only
  split <;> exact h

theorem tick_safe (h : Safe s) : Safe s.tick := by
  unfold State.tick
  split
  · exact ite_safe h (edge_safe h)
  · exact edge_safe h

theorem raiseFaults_safe {g} : ∀ l {s}, Safe s → Safe (raiseFaults g l s)
  | [], _, h => h
  | _ :: t, _, h => raiseFaults_safe t (asyncFault_safe (when_safe life_safe (when_safe modBough_safe h)))

theorem endCycle_safe {c} (h : Safe s) : Safe (s.endCycle c) :=
  ite_safe (ite_safe h h) (ite_safe h (ite_safe (raiseFaults_safe _ h) (ite_safe h (raiseFaults_safe _ h))))

theorem modCyc_safe {f} (h : Safe s) : Safe (s.modCyc f) := h

theorem takeQuiet_safe {g st k} : ∀ l {s}, Safe s → Safe (takeQuiet g st k l s)
  | [], _, h => h
  | _ :: t, _, h => ite_safe (takeQuiet_safe t (modBough_safe h)) (takeQuiet_safe t h)

theorem modElemF_safe {f} (h : Safe s) : Safe (s.modElemF f) := h

theorem faultCyc_safe {cause value} (h : Safe s) : Safe (s.faultCyc cause value) := h

theorem source_safe {w code join} (h : Safe s) : Safe (s.source w code join).1 := by
  unfold State.source
  extract_lets g st k b todo r ofOpt
  have found : ∀ v, Safe (ofOpt v).1
    | some _ => h
    | none => h
  refine ite_fst_safe ?_ <| ite_fst_safe h <| ite_fst_safe (found _) ?_
  · split
    · exact found _
    · exact h
  · split
    · exact ite_fst_safe h h
    · exact ite_fst_safe h (ite_fst_safe h (ite_fst_safe ((laneEmpty_calm ..).safe h) h))

theorem sources_safe {w} : ∀ l got {s : State}, Safe s → Safe (s.sources w l got).1
  | [], _, _, h => h
  | (_, _) :: t, got, s, h => by
    unfold State.sources
    split
    · exact sources_safe t got h
    · exact sources_safe t _ (source_safe h)

theorem modeSwitch_safe {v} (h : Safe s) : Safe (s.modeSwitch v) := ite_safe h (ite_safe h h)

theorem enterLines_safe (h : Safe s) : Safe s.enterLines := by
  unfold State.enterLines
  extract_lets g x c w rt join o e j ca cb cc cp thru r at_ ports u
  have h' : Safe u := (receive_calm ..).safe (modCyc_safe (modElemF_safe (sources_safe _ _ h)))
  exact ite_safe (modCyc_safe (modElemF_safe h)) <| ite_safe (modeSwitch_safe h') <| ite_safe (modeSwitch_safe h') <|
    ite_safe (modeSwitch_safe h') (ite_safe (modeSwitch_safe h') h')

theorem nextElement_safe {c st k} (h : Safe s) : Safe (s.nextElement c st k).1 :=
  ite_fst_safe h (ite_fst_safe (modCyc_safe (takeQuiet_safe _ h)) (modCyc_safe (enterLines_safe h)))

theorem element_sound {c} (h : Safe s) : Sound (s.element c) := by
  unfold State.element
  split
  · exact .next (endCycle_safe h)
  · split
    · next e => exact .next (fst_safe e (nextElement_safe h))
    · next e =>
      split
      · exact exec_sound (fst_safe e (nextElement_safe h))
      · exact .fault

theorem step_sound (h : Safe s) : Sound (step s) := by
  unfold step
  split
  · exact element_sound h
  · split
    · exact runMove_sound h
    · exact .next (tick_safe h)

/-- Settles O55: a step is a move of the agenda, an element's operation or the end of a cycle, and each of them keeps the form. -/
theorem safeKept : Obligations.SafeKept := fun _ t h e => step_sound h t e

/-- Settles O54: the memory of the reset state has no cells. -/
theorem safeAtReset : Obligations.SafeAtReset := rfl

end Sys2Proof.Machine
end

section
/-! # Memory instructions: loads, stores and LD.T (R256, R257, R259, R260) -/

namespace Sys2Proof.Machine

section
variable {s : State} {h : Hdr} {x : Fx} {a n phys : Nat}

/-! ## What an access leaves in its block -/

theorem keepsSlots_read (l : List Sect) : KeepsSlots fun b => b.read l := fun _ => ⟨rfl, rfl, rfl, rfl, rfl⟩

theorem keepsSlots_store (t : BStore) : KeepsSlots fun b => b.store t := fun _ => ⟨rfl, rfl, rfl, rfl, rfl⟩

/-- An address that translates without a walk is resolved at once. -/
theorem resolveNow_resolved {g align : Nat} {k : AccKind} (resolves : s.resolve g a n align k = .ok phys) : s.resolveNow g a n align k = (s, .ok phys) := by
  rw [State.resolveNow, resolves]

/-! ## The value of a load -/

theorem ofBytes_lt (l : List Byte) : ofBytes l < 2 ^ (8 * l.length) := by
  induction l with
  | nil => exact Nat.one_pos
  | cons b t ih =>
    have byte : b.toNat < 256 := b.isLt
    have step : 2 ^ (8 * (t.length + 1)) = 256 * 2 ^ (8 * t.length) := by rw [Nat.mul_succ, Nat.pow_add, Nat.mul_comm]
    rw [ofBytes, List.length_cons, step]
    omega

theorem overlay_length (b : Block) (i phys : Nat) (ts : List BStore) (bs : List Byte) : (overlay b i phys ts bs).length = bs.length := by
  induction ts generalizing bs with
  | nil => rfl
  | cons t ts ih =>
    rw [overlay, ih]
    split <;> simp

theorem loadBytes_length (s : State) (x : Fx) (phys n : Nat) : (s.loadBytes x phys n).length = n := by
  simp [State.loadBytes, overlay_length, State.view, State.bytes, memTake_eq_map]

theorem loadBytes_lt (s : State) (x : Fx) (phys n : Nat) : ofBytes (s.loadBytes x phys n) < 2 ^ (8 * n) := by
  simpa only [loadBytes_length] using ofBytes_lt (s.loadBytes x phys n)

theorem toS_of_lt {w v : Nat} (fits : v < 2 ^ w) : toS w v = if 2 ^ (w - 1) ≤ v then (v : Int) - 2 ^ w else v := by
  rw [toS, Nat.mod_eq_of_lt fits]
  by_cases low : v < 2 ^ (w - 1)
  · exact (if_pos low).trans (if_neg (Nat.not_le.2 low)).symm
  · exact (if_neg low).trans ((if_pos (Nat.not_lt.1 low)).trans (by push_cast; rfl)).symm

theorem loadExt_eq {ty : MemType} {v : Nat} (fits : v < 2 ^ (8 * mtBytes ty)) :
    loadExt ty v = if mtSigned ty = true ∧ 2 ^ (8 * mtBytes ty - 1) ≤ v then BitVec.ofInt 64 ((v : Int) - 2 ^ (8 * mtBytes ty)) else BitVec.ofNat 64 v := by
  rw [loadExt, ofNat_ofS, toS_of_lt fits]
  by_cases signed : mtSigned ty = true
  · by_cases high : 2 ^ (8 * mtBytes ty - 1) ≤ v
    · simp [signed, high]
    · simp [signed, high]
  · simp [signed]

/-! ## The instructions -/

theorem ld_resolved (issues : s.fx h true false = some x) (fits : x.fits h 1) {ty : MemType} {sp : Space} {off : BitVec 23} (place : a = addrL sp off x.l)
    (resolves : s.resolve x.g a (mtBytes ty) (mtBytes ty) .rd = .ok phys) (free : s.heldSector x.g phys = false) :
    CompletesFrom (s.served x.g a phys (mtBytes ty)) (.ld h ty sp off) s x h (loadExt ty (ofBytes (s.loadBytes x phys (mtBytes ty)))) 1
      fun b => b.read (sectors phys (mtBytes ty)) := by
  subst place
  change execLd h ty sp off s = _
  rw [execLd, issues]
  dsimp only
  rw [try_resolved resolves free]
  exact finish_fits _ _ _ _ _ _ fits (keepsSlots_read _)

/-- What a store does with the place its address translates to (R257, R259). -/
theorem st_resolved (issues : s.fx h true true = some x) {ty : MemType} {sp : Space} {off : BitVec 23} (place : a = addrL sp off x.l)
    (resolves : s.resolve x.g a (mtBytes ty) (mtBytes ty) .wr = .ok phys) (free : s.heldSector x.g phys = false) :
    (x.b.conflict x.i a phys (mtBytes ty) = none → x.fits h 1 →
      CompletesFrom (s.served x.g a phys 0) (.st h ty sp off) s x h 0 1 fun b => b.store ⟨x.i, a, phys, toBytes (mtBytes ty) x.r.toNat, false, []⟩)
    ∧ ∀ v, x.b.conflict x.i a phys (mtBytes ty) = some v → exec (.st h ty sp off) s = .next (s.blockFault x.g 0x04B v) := by
  subst place
  refine ⟨fun clear fits => ?_, fun v clash => ?_⟩
  all_goals
    change execSt h ty sp off s = _
    rw [execSt, issues]
    dsimp only
    rw [try_resolved resolves free]
    dsimp only
  · rw [clear]
    exact finish_fits _ _ _ _ _ _ fits (keepsSlots_store _)
  · rw [clash]
    rfl

theorem ldT_resolved (issues : s.fx h true false = some x) (fits : x.fits h 1) {sp : Space} {off : BitVec 23} (place : a = addrL sp off x.l)
    (resolves : s.resolve x.g a 1 1 .rd = .ok phys) (free : s.heldSector x.g phys = false) :
    CompletesFrom (s.served x.g a phys 1) (.ldT h sp off) s x h 0 1 fun b => b.read (sectors phys 1) := by
  subst place
  obtain ⟨glade, -, block⟩ := fx_focus s h true false x issues
  rw [← glade] at block
  change execLdT h sp off s = _
  rw [execLdT, issues]
  dsimp only
  rw [resolveNow_resolved resolves]
  dsimp only
  rw [if_neg (by simp [free]), block]
  exact finish_fits _ _ _ _ _ _ fits (keepsSlots_read _)

end

/-- Settles O7: an access whose address translates to a free place goes through `try_resolved`, and what it finishes with is its block's. -/
theorem loadStore : Obligations.LoadStore := by
  intro s h x sp off phys a
  refine ⟨fun ty => ?_, fun issues fits => ldT_resolved issues fits rfl⟩
  intro n
  refine ⟨fun issues fits resolves free => ?_, fun issues fits resolves free => ?_⟩
  · have loads := ld_resolved (ty := ty) issues fits rfl resolves free
    rw [loadExt_eq (loadBytes_lt s x phys n)] at loads
    exact loads
  · obtain ⟨clear, clash⟩ := st_resolved issues rfl resolves free
    exact ⟨(clear · fits), clash⟩

end Sys2Proof.Machine
end

section
/-! # Multi-word accesses: GSAVE and GLOAD (R245, R261) -/

namespace Sys2Proof.Machine

section
variable {s : State} {h : Hdr} {x : Fx}

/-! ## The words of an access -/

/-- Every word has a place to which its address translates and which no block holds. -/
def WordsResolve (s : State) (x : Fx) (k : AccKind) (a : Nat) (ps : List Nat) : Prop :=
  ∀ i p, ps[i]? = some p → s.resolve x.g ((a + 8 * i) % 2 ^ 64) 8 8 k = .ok p ∧ s.heldSector x.g p = false

theorem tryWords_resolved {k : AccKind} {ps : List Nat} {a : Nat} (acc : List Nat) (word : a < 2 ^ 64) (resolves : WordsResolve s x k a ps) :
    tryWords s x k ps.length a acc = .ok (acc.reverse ++ ps) := by
  induction ps generalizing a acc with
  | nil => simp [tryWords]
  | cons p ps ih =>
    obtain ⟨first, free⟩ := resolves 0 p rfl
    rw [Nat.mul_zero, Nat.add_zero, Nat.mod_eq_of_lt word] at first
    have rest : WordsResolve s x k ((a + 8) % 2 ^ 64) ps := fun i q e => by
      have next : ((a + 8) % 2 ^ 64 + 8 * i) % 2 ^ 64 = (a + 8 * (i + 1)) % 2 ^ 64 := by omega
      rw [next]
      exact resolves (i + 1) q e
    rw [List.length_cons, tryWords, try_resolved first free]
    simpa using ih (p :: acc) (Nat.mod_lt _ (by decide)) rest

/-! ## GSAVE -/

theorem saveWords_getElem? (w : Woodward) (i first a : Nat) (ps : List Nat) (j k : Nat) :
    (saveWords w i first a j ps)[k]? =
      ps[k]?.map fun p => ⟨i, (a + 8 * (j + k)) % 2 ^ 64, p, toBytes 8 (w.reg (first + (j + k))).toNat, false, []⟩ := by
  induction ps generalizing j k with
  | nil => simp [saveWords]
  | cons p ps ih =>
    cases k with
    | zero => simp [saveWords]
    | succ k => simp [saveWords, ih, Nat.add_assoc, Nat.add_comm 1 k]

theorem saveWords_length (w : Woodward) (i first a : Nat) (ps : List Nat) (j : Nat) : (saveWords w i first a j ps).length = ps.length := by
  induction ps generalizing j with
  | nil => rfl
  | cons p ps ih => exact congrArg (· + 1) (ih _)

theorem firstConflict_none {b : Block} {i : Nat} {ts : List BStore} (clear : ∀ t ∈ ts, b.conflict i t.gaddr t.phys t.bytes.length = none) :
    firstConflict b i ts = none := by
  induction ts with
  | nil => rfl
  | cons t ts ih =>
    rw [firstConflict, clear t (by simp)]
    exact ih fun u m => clear u (by simp [m])

theorem gsave_resolved (issues : s.fx h true false = some x) (fits : x.fits h 1) {first : BitVec 6} {cnt1 : BitVec 4} {sp : Space} {off : BitVec 17} {ps : List Nat}
    (all : ps.length = cnt1.toNat + 1) (resolves : WordsResolve s x .wr (addrV sp off x.l) ps)
    (clear : ∀ t ∈ saveWords (s.ww x.g) x.i first.toNat (addrV sp off x.l) 0 ps, x.b.conflict x.i t.gaddr t.phys t.bytes.length = none) :
    CompletesFrom (ps.foldl (fun u p => u.served x.g (addrV sp off x.l) p 0) s) (.gsave h first cnt1 sp off) s x h 0 1
      fun b => { b with stores := b.stores ++ saveWords (s.ww x.g) x.i first.toNat (addrV sp off x.l) 0 ps } := by
  change execGsave h first cnt1 sp off s = _
  rw [execGsave, issues]
  dsimp only
  rw [← all, tryWords_resolved (a := addrV sp off x.l) [] (BitVec.isLt _) resolves]
  dsimp only
  rw [List.reverse_nil, List.nil_append, firstConflict_none clear]
  exact finish_fits _ _ _ _ _ _ fits fun _ => ⟨rfl, rfl, rfl, rfl, rfl⟩

/-! ## GLOAD -/

theorem mem_loadWords {first g : Nat} {v : Word} {ps : List Nat} {j : Nat} : (g, v) ∈ loadWords s x first j ps ↔
    ∃ k p, ps[k]? = some p ∧ g = first + (j + k) ∧ g ≠ 0 ∧ v = BitVec.ofNat 64 (ofBytes (s.loadBytes x p 8)) := by
  induction ps generalizing j with
  | nil => simp [loadWords]
  | cons p ps ih =>
    have split : (g, v) ∈ loadWords s x first j (p :: ps) ↔
        (g = first + j ∧ g ≠ 0 ∧ v = BitVec.ofNat 64 (ofBytes (s.loadBytes x p 8))) ∨ (g, v) ∈ loadWords s x first (j + 1) ps := by
      rw [loadWords]
      split
      · next zero => exact ⟨.inr, fun m => m.resolve_left fun c => c.2.1 (c.1.trans zero)⟩
      · next other =>
        rw [List.mem_cons, Prod.mk.injEq]
        exact or_congr_left ⟨fun ⟨e, w⟩ => ⟨e, e ▸ other, w⟩, fun ⟨e, _, w⟩ => ⟨e, w⟩⟩
    rw [split, ih]
    constructor
    · rintro (⟨e, rest⟩ | ⟨k, q, at_, e, rest⟩)
      · exact ⟨0, p, rfl, e, rest⟩
      · exact ⟨k + 1, q, at_, by omega, rest⟩
    · rintro ⟨_ | k, q, at_, e, rest⟩
      · obtain rfl : p = q := by simpa using at_
        exact .inl ⟨e, rest⟩
      · exact .inr ⟨k, q, at_, by omega, rest⟩

theorem gload_resolved (issues : s.fx h true false = some x) (fits : x.fits h 1) {first : BitVec 6} {cnt1 : BitVec 4} {sp : Space} {off : BitVec 17} {ps : List Nat}
    (all : ps.length = cnt1.toNat + 1) (resolves : WordsResolve s x .rd (addrV sp off x.l) ps)
    (alone : ∀ g v, (g, v) ∈ loadWords s x first.toNat 0 ps → nfind x.b.gw g = none ∧ g ∉ x.b.loaded) :
    CompletesFrom (servedWords x.g (addrV sp off x.l) ps s) (.gload h first cnt1 sp off) s x h 0 1
      fun b => (b.read (ps.flatMap fun p => sectors p 8)).addPend x.i (.gload (loadWords s x first.toNat 0 ps)) := by
  have once : (loadWords s x first.toNat 0 ps).find? (fun p => (nfind x.b.gw p.1).isSome || decide (p.1 ∈ x.b.loaded)) = none := by
    rw [List.find?_eq_none]
    rintro ⟨g, v⟩ m
    obtain ⟨unwritten, unloaded⟩ := alone g v m
    simp [unwritten, unloaded]
  change execGload h first cnt1 sp off s = _
  rw [execGload, issues]
  dsimp only
  rw [← all, tryWords_resolved (a := addrV sp off x.l) [] (BitVec.isLt _) resolves]
  dsimp only
  rw [List.reverse_nil, List.nil_append, once]
  exact finish_fits _ _ _ _ _ _ fits fun _ => ⟨rfl, rfl, rfl, rfl, rfl⟩

end

/-- Settles O8: no word's address wraps, so each translates as stated (`tryWords_resolved`), and the words are those of `saveWords` and `loadWords`. -/
theorem multiWordAccess : Obligations.MultiWordAccess := by
  intro s h x first cnt1 sp off ps a issues fits all top free
  have inside {k p : Nat} (e : ps[k]? = some p) : (a + 8 * k) % 2 ^ 64 = a + 8 * k := by
    have low := (List.getElem?_eq_some_iff.1 e).1
    exact Nat.mod_eq_of_lt (by omega)
  have words {kind : AccKind} (resolves : ∀ k phys, ps[k]? = some phys → s.resolve x.g (a + 8 * k) 8 8 kind = .ok phys) : WordsResolve s x kind a ps :=
    fun k p e => ⟨by rw [inside e]; exact resolves k p e, free k p e⟩
  refine ⟨fun resolves clear => ?_, fun resolves alone => ?_⟩
  · have saved (k : Nat) := saveWords_getElem? (s.ww x.g) x.i first.toNat a ps 0 k
    refine ⟨_, gsave_resolved issues fits all (words resolves) fun t m => ?_, saveWords_length .., fun k phys e => ?_⟩
    · obtain ⟨k, at_⟩ := List.mem_iff_getElem?.1 m
      obtain ⟨p, e, rfl⟩ := Option.map_eq_some_iff.1 ((saved k).symm.trans at_)
      change x.b.conflict x.i ((a + 8 * (0 + k)) % 2 ^ 64) p (toBytes 8 _).length = none
      rw [Nat.zero_add, inside e, toBytes_length]
      exact clear k p e
    · refine (saved k).trans ?_
      rw [e, Option.map_some, Nat.zero_add, inside e]
  · refine ⟨_, gload_resolved issues fits all (words resolves) fun g v m => ?_, fun g v => ?_⟩
    · obtain ⟨k, p, e, rfl, -⟩ := mem_loadWords.1 m
      rw [Nat.zero_add]
      exact alone k (List.getElem?_eq_some_iff.1 e).1
    · simp [mem_loadWords]

end Sys2Proof.Machine
end

section
/-! # Atomics and FENCE (R262, R263, R264, R271) -/

namespace Sys2Proof.Machine

section
variable {s : State} {h : Hdr} {x : Fx} {a : AtomHdr} {phys : Nat}

theorem acquires_iff {o : MemOrder} : acquires o = true ↔ o = .acq ∨ o = .ar := by
  cases o <;> simp [acquires]

theorem releases_iff {o : MemOrder} : releases o = true ↔ o = .rel ∨ o = .ar := by
  cases o <;> simp [releases]

/-! ## What an atomic delivers and leaves in its block -/

/-- The width of an atomic in bytes. -/
def atomBytes (a : AtomHdr) : Nat := if a.wide then 8 else 4

/-- The value an atomic finds: memory under the block's own ordered stores (R257, R263). -/
def State.atomOld (s : State) (x : Fx) (a : AtomHdr) (phys : Nat) : Nat :=
  ofBytes (overlay x.b x.i phys x.b.stores (s.bytes phys (atomBytes a)))

/-- The operand R of an atomic at its width. -/
def Fx.atomR (x : Fx) (a : AtomHdr) : Nat := x.r.toNat % 2 ^ (8 * atomBytes a)

/-- The releases an atomic acquires from (R271). -/
def State.atomAcquires (s : State) (x : Fx) (a : AtomHdr) (phys : Nat) : List Rel :=
  if a.order = .acq ∨ a.order = .ar then (s.reach x.g (s.heads phys (atomBytes a))).filter fun q => s.inScope a.scope x.g q.glade else []

/-- What an atomic that writes `v` leaves in its block. -/
def State.atomBlock (s : State) (x : Fx) (a : AtomHdr) (phys v : Nat) (b : Block) : Block :=
  let heads := s.reach x.g (s.heads phys (atomBytes a))
  let b := (b.read (sectors phys (atomBytes a))).store
    ⟨x.i, x.l.toNat, phys, toBytes (atomBytes a) v, true, if a.order = .rel ∨ a.order = .ar then [a.scope] else []⟩
  let b := if heads = [] then b else b.addPend x.i (.readRel heads)
  if s.atomAcquires x a phys = [] then b else b.addPend x.i .acquire

theorem keepsSlots_atomBlock (s : State) (x : Fx) (a : AtomHdr) (phys v : Nat) : KeepsSlots (s.atomBlock x a phys v) := by
  have noted (c : Prop) [Decidable c] (b : Block) (p : Pend) : (if c then b else b.addPend x.i p) = { b with pend := if c then b.pend else b.pend ++ [(x.i, p)] } := by
    split <;> rfl
  intro b
  simp only [State.atomBlock, noted]
  exact ⟨rfl, rfl, rfl, rfl, rfl⟩

theorem atomOld_lt (s : State) (x : Fx) (a : AtomHdr) (phys : Nat) : s.atomOld x a phys < 2 ^ (8 * atomBytes a) := by
  have long : (overlay x.b x.i phys x.b.stores (s.bytes phys (atomBytes a))).length = atomBytes a := by
    simp [overlay_length, State.bytes, memTake_eq_map]
  simpa only [State.atomOld, long] using ofBytes_lt (overlay x.b x.i phys x.b.stores (s.bytes phys (atomBytes a)))

theorem atomic_resolved (issues : s.fx h true true = some x) (inside : x.b.atomic = true) (fits : x.fits h 1)
    (resolves : s.resolve x.g x.l.toNat (atomBytes a) (atomBytes a) .atom = .ok phys) (free : s.heldSector x.g phys = false)
    (clear : x.b.conflict x.i x.l.toNat phys (atomBytes a) = none) (f : Nat → Nat → Nat → Nat) :
    atomic h a s f = .next (((s.served x.g x.l.toNat phys (atomBytes a)).acquire x ((s.atomAcquires x a phys).map fun q => .rel q.id)).executed x h
      (BitVec.ofNat 64 (s.atomOld x a phys)) 1 (s.atomBlock x a phys (f (8 * atomBytes a) (s.atomOld x a phys) (x.atomR a)))) := by
  rw [← finish_fits _ _ _ _ _ _ fits (keepsSlots_atomBlock s x a phys _), atomic, issues]
  refine (frontierOnly_atomic inside _).trans ?_
  dsimp only
  rw [← atomBytes, try_resolved resolves free]
  dsimp only
  rw [clear]
  simp only [acquires_iff, releases_iff]
  rfl

theorem atomic_plain (issues : s.fx h true true = some x) (plain : x.b.atomic = false) (f : Nat → Nat → Nat → Nat) :
    atomic h a s f = .next (s.blockFault x.g 0x012 (x.i + 2 ^ 7 * wordOpcode (x.b.word x.i))) := by
  rw [atomic, issues]
  exact frontierOnly_plain plain _

/-! ## FENCE -/

theorem fence_plain (issues : s.fx h false false = some x) (plain : x.b.atomic = false) (o : MemOrder) (sc : Scope) :
    exec (.fence h o sc) s = .next (s.blockFault x.g 0x012 (x.i + 2 ^ 7 * wordOpcode (x.b.word x.i))) := by
  change execFence h o sc s = _
  rw [execFence, issues]
  exact frontierOnly_plain plain _

theorem fence_atomic (issues : s.fx h false false = some x) (inside : x.b.atomic = true) (fits : x.fits h 1) (o : MemOrder) (sc : Scope) :
    Completes (.fence h o sc) s x h 0 1 fun b =>
      if o = .rlx then b else b.addPend x.i (.fence (decide (o = .rel ∨ o = .ar)) (decide (o = .acq ∨ o = .ar)) sc) := by
  have rel : decide (o = .rel ∨ o = .ar) = releases o := by simp [← releases_iff]
  have acq : decide (o = .acq ∨ o = .ar) = acquires o := by simp [← acquires_iff]
  have kept : KeepsSlots fun b => if o = .rlx then b else b.addPend x.i (.fence (releases o) (acquires o) sc) := by
    intro b
    split
    · exact ⟨rfl, rfl, rfl, rfl, rfl⟩
    · exact ⟨rfl, rfl, rfl, rfl, rfl⟩
  change execFence h o sc s = _
  rw [execFence, issues, rel, acq]
  exact (frontierOnly_atomic inside _).trans (finish_fits _ _ _ _ _ _ fits kept)

end

/-- Settles O9: every atomic is `atomic` with its own combination of the old value and R (`atomic_resolved`); the signed order of the two is that of their values
below the width's modulus (`toS_of_lt`). -/
theorem atomics : Obligations.Atomics := by
  intro s h x a phys n m old r sgn from_ mine relAs acq reads gives
  refine ⟨fun issues inside fits resolves free clear => ?_, fun issues plain g => ?_, fun issues plain o sc => fence_plain issues plain o sc,
    fun issues inside fits o sc => fence_atomic issues inside fits o sc⟩
  · have done {i : Instr} {v : Nat} (f : Nat → Nat → Nat → Nat) (e : exec i s = atomic h a s f) (writes : f (8 * n) old r = v) : gives i v :=
      writes ▸ e.trans (atomic_resolved issues inside fits resolves free clear f)
    have signed {v : Nat} (low : v < m) : toS (8 * n) v = sgn v := (toS_of_lt low).trans (by simp [sgn, m])
    have ofOld : toS (8 * n) old = sgn old := signed (atomOld_lt s x a phys)
    have ofR : toS (8 * n) r = sgn r := signed (Nat.mod_lt x.r.toNat (Nat.two_pow_pos (8 * n)))
    have mins : minMax .mins (8 * n) old r = if sgn old ≤ sgn r then old else r := by rw [minMax, ofOld, ofR]
    have maxs : minMax .maxs (8 * n) old r = if sgn r ≤ sgn old then old else r := by rw [minMax, ofOld, ofR]
    refine ⟨done (fun w old r => (old + r) % 2 ^ w) rfl rfl, done (minMax .mins) rfl mins, done (minMax .maxs) rfl maxs, done (minMax .minz) rfl rfl,
      done (minMax .maxz) rfl rfl, done (bitOp .and) rfl rfl, done (bitOp .or) rfl rfl, done (bitOp .xor) rfl rfl, done (fun _ _ r => r) rfl rfl, fun g => ?_⟩
    rw [(fx_focus s h true true x issues).1]
    exact done (fun w old r => if old = r then ((s.ww s.focus.glade).reg g.toNat).toNat % 2 ^ w else old) rfl rfl
  · have stops {i : Instr} (f : Nat → Nat → Nat → Nat) (e : exec i s = atomic h a s f) := e.trans (atomic_plain issues plain f)
    simp only [List.forall_mem_cons]
    exact ⟨stops (fun w old r => (old + r) % 2 ^ w) rfl, stops (minMax .mins) rfl, stops (minMax .maxs) rfl, stops (minMax .minz) rfl, stops (minMax .maxz) rfl,
      stops (bitOp .and) rfl, stops (bitOp .or) rfl, stops (bitOp .xor) rfl, stops (fun _ _ r => r) rfl,
      stops (fun w old r => if old = r then ((s.ww s.focus.glade).reg g.toNat).toNat % 2 ^ w else old) rfl, by simp⟩

end Sys2Proof.Machine
end

section
/-! # Bank replay (R263, R354, R355, R361, R363) -/

namespace Sys2Proof.Machine

/-! ## Indexing a token changes a bank's tables alone (R357) -/

/-- A bank that differs from another in its automaton alone. -/
def Seed.Indexed (b c : Seed) : Prop := c = { b with nodes := c.nodes, edges := c.edges, last := c.last }

section
variable {b c : Seed}

theorem Seed.Indexed.refl (b : Seed) : b.Indexed b := rfl

theorem Seed.Indexed.trans {a : Seed} (first : a.Indexed b) (second : b.Indexed c) : a.Indexed c := by
  rw [Seed.Indexed] at *
  rw [second, first]

theorem Seed.Indexed.setNode (k : Nat) (v : SeedNode) (step : b.Indexed c) : b.Indexed (c.setNode k v) := step.trans rfl

theorem Seed.Indexed.setEdge (f x t : Nat) (step : b.Indexed c) : b.Indexed (c.setEdge f x t) := step.trans rfl

theorem Seed.Indexed.withLast (k : Nat) (step : b.Indexed c) : b.Indexed { c with last := k } := step.trans rfl

theorem addChain_indexed (x cur : Nat) : ∀ n s {c : Seed}, b.Indexed c → b.Indexed (Seed.addChain x cur n s c).1
  | 0, _, _, step => step
  | n + 1, s, c, step => by
    unfold Seed.addChain
    split
    · exact step
    · split
      · exact step
      · exact addChain_indexed x cur n _ (step.setEdge ..)

theorem redirect_indexed (x q cl : Nat) : ∀ n s {c : Seed}, b.Indexed c → b.Indexed (Seed.redirect x q cl n s c)
  | 0, _, _, step => step
  | n + 1, s, c, step => by
    unfold Seed.redirect
    split
    · exact redirect_indexed x q cl n _ (step.setEdge ..)
    · exact step

theorem endAt_indexed (p : Nat) : ∀ n t {c : Seed}, b.Indexed c → b.Indexed (Seed.endAt p n t c)
  | 0, _, _, step => step
  | n + 1, t, c, step => by
    unfold Seed.endAt
    split
    · exact step
    · exact endAt_indexed p n _ (step.setNode ..)

theorem index_indexed (b : Seed) (x p : Nat) : b.Indexed (b.index x p) := by
  unfold Seed.index
  extract_lets n cur ls added link
  have begun : b.Indexed added := .setNode _ _ (.refl b)
  have chained : b.Indexed (Seed.addChain x cur n ls added).1 := addChain_indexed x cur n ls begun
  generalize Seed.addChain x cur n ls added = r at chained
  obtain ⟨c, s⟩ := r
  have linked {c : Seed} (k v : Nat) (step : b.Indexed c) : b.Indexed (link c k v) := step.setNode ..
  refine endAt_indexed _ _ _ (.withLast _ ?_)
  split
  · exact linked _ _ chained
  · extract_lets q cl node cloned copied redirected
    split
    · exact linked _ _ chained
    · have h : b.Indexed copied := List.foldlRecOn _ _ (chained.setNode ..) fun c step e _ => step.setEdge ..
      have h : b.Indexed redirected := redirect_indexed _ _ _ _ _ h
      exact linked _ _ (linked _ _ h)

/-! ## One replayed token (R361) -/

/-- What a bank's walker leaves of the bank: its tokens and where its backing lies. -/
def Seed.tokens (b : Seed) : List Nat × Nat × Bool × Nat × Nat × Nat := (b.window, b.appended, b.isOpen, b.ctx, b.lgcap, b.backing)

theorem match_frame (b : Seed) : b.match.tokens = b.tokens ∧ b.match.built = b.built ∧ b.match.st = b.st := by
  unfold Seed.match
  split
  · exact ⟨rfl, rfl, rfl⟩
  · exact ⟨rfl, rfl, rfl⟩

theorem index_frame (b : Seed) (x p : Nat) : (b.index x p).tokens = b.tokens ∧ (b.index x p).st = b.st := by
  rw [index_indexed b x p]
  exact ⟨rfl, rfl⟩

/-- A bank READY where its window is indexed. -/
def Seed.finished (b : Seed) : Seed := if b.window.length ≤ b.built then { b with st := .ready }.match else b

theorem finished_frame (b : Seed) : b.finished.tokens = b.tokens ∧ b.finished.built = b.built
    ∧ b.finished.st = if b.window.length ≤ b.built then .ready else b.st := by
  unfold Seed.finished
  split
  · exact match_frame { b with st := .ready }
  · exact ⟨rfl, rfl, rfl⟩

/-- What the replay of a token does to a bank apart from its automaton and its match registers. -/
theorem replay_frame (b : Seed) : b.replay.tokens = b.tokens ∧ b.replay.built = (if b.built < b.window.length then b.built + 1 else b.built)
    ∧ b.replay.st = if b.window.length ≤ b.built + 1 then .ready else b.st := by
  by_cases left : b.built < b.window.length
  · let c : Seed := { b.index ((b.window[b.built]?).getD 0) b.built with built := b.built + 1 }
    have step : b.replay = c.finished := by rw [Seed.replay, if_pos left]; rfl
    obtain ⟨same, st⟩ : c.tokens = b.tokens ∧ c.st = b.st := index_frame b _ _
    have window : c.window = b.window := congrArg Prod.fst same
    obtain ⟨kept, built, final⟩ := finished_frame c
    rw [window, st] at final
    rw [step, if_pos left]
    exact ⟨kept.trans same, built, final⟩
  · have done : b.window.length ≤ b.built := Nat.not_lt.1 left
    have step : b.replay = b.finished := by rw [Seed.replay, if_neg left]; rfl
    obtain ⟨same, built, final⟩ := finished_frame b
    rw [step, if_neg left, if_pos (Nat.le_succ_of_le done)]
    exact ⟨same, built, final.trans (if_pos done)⟩

end

/-! ## What a walker leaves of the state -/

section
variable {s t u : State} {d k : Nat}

theorem seed_modSeed_self (s : State) (d k : Nat) (f : Seed → Seed) : (s.modSeed d k f).seed d k = f (s.seed d k) := by
  simp [State.seed, State.modSeed, State.die, State.modDie]

theorem seed_modSeed_ne (s : State) (d : Nat) {k j : Nat} (f : Seed → Seed) (other : j ≠ k) : (s.modSeed d k f).seed d j = s.seed d j := by
  simp [State.seed, State.modSeed, State.die, State.modDie, nget_nmod_ne _ _ _ _ other.symm]

/-- The walker of bank `k` has worked on the bank's lines: no other bank of the die, no job and no glade changes, the bank keeps its tokens, and at most it breaks. -/
structure Walks (d k : Nat) (s t : State) : Prop where
  others : ∀ j, j ≠ k → t.seed d j = s.seed d j
  jobs : t.jobs = s.jobs
  glades : t.glades = s.glades
  same : (t.seed d k).tokens = (s.seed d k).tokens
  built : (t.seed d k).built = (s.seed d k).built
  st : (t.seed d k).st = (s.seed d k).st ∨ (t.seed d k).st = .broken

/-- A change of anything but the banks, the jobs and the glades. -/
theorem Walks.of_seeds (seeds : ∀ j, t.seed d j = s.seed d j) (jobs : t.jobs = s.jobs) (glades : t.glades = s.glades) : Walks d k s t where
  others j _ := seeds j
  jobs := jobs
  glades := glades
  same := by rw [seeds]
  built := by rw [seeds]
  st := .inl (by rw [seeds])

theorem Walks.refl (s : State) : Walks d k s s := .of_seeds (fun _ => rfl) rfl rfl

theorem Walks.trans (first : Walks d k s t) (second : Walks d k t u) : Walks d k s u where
  others j other := (second.others j other).trans (first.others j other)
  jobs := second.jobs.trans first.jobs
  glades := second.glades.trans first.glades
  same := second.same.trans first.same
  built := second.built.trans first.built
  st := second.st.elim (fun e => first.st.imp e.trans e.trans) .inr

theorem Walks.modSeed {f : Seed → Seed} (same : (f (s.seed d k)).tokens = (s.seed d k).tokens) (built : (f (s.seed d k)).built = (s.seed d k).built)
    (st : (f (s.seed d k)).st = (s.seed d k).st ∨ (f (s.seed d k)).st = .broken) : Walks d k s (s.modSeed d k f) where
  others _ other := seed_modSeed_ne s d f other
  jobs := rfl
  glades := rfl
  same := by rw [seed_modSeed_self]; exact same
  built := by rw [seed_modSeed_self]; exact built
  st := by rw [seed_modSeed_self]; exact st

theorem Walks.clean (f : Seed → List Nat) : Walks d k s (s.modSeed d k fun b => { b with clean := f b }) := .modSeed rfl rfl (.inl rfl)

theorem Walks.breaks : Walks d k s (s.modSeed d k fun b => { b with st := .broken }) := .modSeed rfl rfl (.inr rfl)

theorem Walks.putNoted (a : Nat) (bs : List Byte) (before_ : List Point) : Walks d k s (s.putNoted a bs before_) := .of_seeds (fun _ => rfl) rfl rfl

theorem Walks.freeNext (n : Nat) : Walks d k s { s with free := n } := .of_seeds (fun _ => rfl) rfl rfl

theorem putDirty_walks (s : State) (d k : Nat) (pick : Nat → Bool) : Walks d k s (s.putDirty d k pick) :=
  List.foldlRecOn (motive := Walks d k s) _ _ (.refl s) fun u step l _ => by
    split
    · exact step
    · split
      · exact step.trans .breaks
      · exact step.trans ((Walks.putNoted ..).trans (.clean _))

theorem bankOut_walks (s : State) (d k : Nat) (b : Seed) : Walks d k s (s.bankOut d k b) := by
  unfold State.bankOut
  extract_lets t c
  have dirtied : Walks d k s t := .clean _
  split
  · exact dirtied
  · split
    · exact dirtied.trans (putDirty_walks ..)
    · exact dirtied.trans ((putDirty_walks ..).trans (.freeNext _))

theorem noteReplay_walks (s : State) (d k : Nat) : Walks d k s (s.noteReplay d k) :=
  .of_seeds (fun j => by simp [State.seed, State.noteReplay, State.die, State.modDie]) rfl rfl

theorem touchBank_walks (s : State) (d k : Nat) : Walks d k s (s.touchBank d k) := by
  unfold State.touchBank
  extract_lets b
  split
  · exact .refl s
  · split
    · exact (Walks.freeNext (s.free + 1)).trans .breaks
    · exact .freeNext _

theorem seedChange_walks (s : State) (d k : Nat) (f : Seed → Seed) : Walks d k (s.modSeed d k f) (s.seedChange d k f) :=
  ((touchBank_walks ..).trans (bankOut_walks ..)).trans (noteReplay_walks ..)

/-! ## The step (R263, R354, R355, R361) -/

theorem bankIn_same (same : ∀ l ∈ (s.seed d k).clean, ∀ p, s.linePlace (s.seed d k) l = some p → s.bytes p 512 = (s.seed d k).line l) : s.bankIn d k = s := by
  unfold State.bankIn
  extract_lets b found moved
  have finds : ∀ l ∈ b.clean, found l = b.line l := fun l m => by
    unfold found
    split
    · next p e => exact same l m p e
    · rfl
  have unmoved : moved = [] := List.filter_eq_nil_iff.2 fun l m => by simp [finds l m]
  exact if_pos (.inr (.inr unmoved))

theorem backingLive_modSeed {f : Seed → Seed} {b c : Seed} (same : c.tokens = b.tokens) : (s.modSeed d k f).backingLive c = s.backingLive b := by
  simp only [Seed.tokens, Prod.mk.injEq] at same
  obtain ⟨-, -, -, ctx, lgcap, backing⟩ := same
  rw [State.backingLive, State.backingLive, Seed.cap, Seed.cap, ctx, lgcap, backing]
  rfl

/-- A walker that meets a backing it cannot reach breaks the bank (R355). -/
theorem touchBank_breaks (opened : (s.seed d k).isOpen = true) (away : s.backingLive (s.seed d k) = false) (met : s.freeWord.getLsbD 0 = true) :
    ((s.touchBank d k).seed d k).st = .broken := by
  unfold State.touchBank
  extract_lets b
  by_cases broken : b.st = .broken
  · rw [if_pos (.inr (.inl broken))]
    exact broken
  · rw [if_neg (by simp [b, opened, away, broken]), if_pos met, seed_modSeed_self]

theorem seedChange_breaks {f : Seed → Seed} (same : (f (s.seed d k)).tokens = (s.seed d k).tokens) (opened : (s.seed d k).isOpen = true)
    (away : s.backingLive (s.seed d k) = false) (met : s.freeWord.getLsbD 0 = true) : ((s.seedChange d k f).seed d k).st = .broken := by
  have there := seed_modSeed_self s d k f
  have broken : (((s.modSeed d k f).touchBank d k).seed d k).st = .broken := by
    refine touchBank_breaks ?_ ?_ met
    · rw [there]
      exact (congrArg (·.2.2.1) same).trans opened
    · rw [there, backingLive_modSeed same, away]
  have after : Walks d k ((s.modSeed d k f).touchBank d k) (s.seedChange d k f) := (bankOut_walks ..).trans (noteReplay_walks ..)
  exact after.st.elim (·.trans broken) id

/-- What a replay step leaves of its bank, but for where the backing cannot be reached (R361). -/
theorem seedReplay_bank (replaying : (s.seed d k).st = .replay) :
    let b := s.seed d k
    let t := s.seedChange d k Seed.replay
    (t.seed d k).tokens = b.tokens ∧ (t.seed d k).built = (if b.built < b.window.length then b.built + 1 else b.built)
      ∧ ((t.seed d k).st = (if b.window.length ≤ b.built + 1 then .ready else .replay) ∨ (t.seed d k).st = .broken) := by
  intro b t
  obtain ⟨-, -, -, same, built, st⟩ := seedChange_walks s d k Seed.replay
  obtain ⟨same', built', st'⟩ := replay_frame b
  rw [seed_modSeed_self] at same built st
  rw [st', replaying] at st
  exact ⟨same.trans same', built.trans built', st⟩

/-- A bank in REPLAY that has one of the die's eight walkers and for which no hold waits (R263, R319, R363). -/
def State.ReplayDue (s : State) (d k : Nat) : Prop :=
  (s.seed d k).isOpen = true ∧ (s.seed d k).st = .replay ∧ k ∈ (s.die d).replays.take 8 ∧ s.held 512 (seedSect d k) = false
    ∧ s.backingHeld 512 (s.seed d k) = false

theorem replayTurn_iff : s.replayTurn d k = true ↔ k ∈ (s.die d).replays.take 8 := by
  rw [State.replayTurn, List.contains_iff_mem]

theorem seedReplayStep_waits (h : ¬s.ReplayDue d k) : exec (.seedReplayStep d k) s = .next s :=
  if_neg fun ⟨opened, replaying, turn, free⟩ => h ⟨opened, replaying, replayTurn_iff.1 turn, free⟩

theorem seedReplayStep_goes (h : s.ReplayDue d k)
    (same : ∀ l ∈ (s.seed d k).clean, ∀ p, s.linePlace (s.seed d k) l = some p → s.bytes p 512 = (s.seed d k).line l) :
    exec (.seedReplayStep d k) s = .next (s.seedChange d k Seed.replay) := by
  obtain ⟨opened, replaying, turn, free⟩ := h
  change execSeedReplayStep d k s = _
  rw [execSeedReplayStep, bankIn_same same]
  exact if_pos ⟨opened, replaying, replayTurn_iff.2 turn, free⟩

end

end Sys2Proof.Machine
end

section
/-! # Graft fetches (R373, R375) -/

namespace Sys2Proof.Machine

section
variable {s u v : State} {e : Nat}

/-- The header of an image names the entry it was fetched for. -/
def Graft.named (x : Graft) (bs : List Byte) : Prop := leAt bs 0 6 = x.id ∧ leAt bs 6 2 = x.ver

/-- The header of an image agrees with its length (R372). -/
def Graft.shaped (x : Graft) (bs : List Byte) : Prop :=
  leAt bs 8 8 ≠ 0 ∧ 1 ≤ leAt bs 16 4 ∧ leAt bs 16 4 ≤ 32768 ∧ graftLength (leAt bs 8 8) (leAt bs 16 4) = x.length ∧ leAt bs 20 44 = 0

theorem headBad_iff (x : Graft) (bs : List Byte) : x.headBad bs = true ↔ ¬(x.named bs ∧ x.shaped bs) := by
  unfold Graft.headBad Graft.named Graft.shaped
  simp only [Bool.or_eq_true, decide_eq_true_eq]
  omega

/-- A change of the entry in its own terms. -/
theorem modGraft_of_graft {x : Graft} (there : u.graft e = x) (f : Graft → Graft) : u.modGraft e f = u.modGraft e fun _ => f x := by
  subst there
  rfl

theorem graftFetchComplete_waits (h : (s.graft e).st ≠ .fetching ∨ s.graftHeld 512 e = true) : exec (.graftFetchComplete e) s = .next s := if_pos h

theorem graftFetchTimeout_waits (h : (s.graft e).st ≠ .fetching ∨ s.graftHeld 512 e = true) : exec (.graftFetchTimeout e) s = .next s :=
  if_neg fun ⟨fetching, _, free⟩ => h.elim (· fetching) fun held => by simp [held] at free

theorem graftFetchComplete_unplaced (fetching : (s.graft e).st = .fetching) (free : ¬s.graftHeld 512 e = true) (fresh : (s.graft e).placed = false) :
    exec (.graftFetchComplete e) s = .next (s.placeFetch 512 e) :=
  (if_neg (by simp [fetching, free])).trans (if_pos fresh)

theorem graftFetchComplete_taken (fetching : (s.graft e).st = .fetching) (free : ¬s.graftHeld 512 e = true) (placed : (s.graft e).placed = true)
    (taken : s.runFree e = false) : exec (.graftFetchComplete e) s = .next s :=
  (if_neg (by simp [fetching, free])).trans ((if_neg (by simp [placed])).trans (if_pos taken))

theorem graftFetchTimeout_late (fetching : (s.graft e).st = .fetching) (free : ¬s.graftHeld 512 e = true) (late : (s.graft e).startedAt + 756000000000 ≤ s.wall) :
    exec (.graftFetchTimeout e) s = .next (s.modGraft e fun _ => { s.graft e with st := .failed, reason := 4 }) :=
  if_pos ⟨fetching, late, Bool.eq_false_iff.2 free⟩

theorem graftFetchTimeout_early (early : s.wall < (s.graft e).startedAt + 756000000000) : exec (.graftFetchTimeout e) s = .next s :=
  if_neg fun ⟨_, late, _⟩ => Nat.not_le.2 early late

end

/-- A fetch that waits for neither its hold nor its pages. -/
structure State.Fetches (s : State) (e : Nat) : Prop where
  fetching : (s.graft e).st = .fetching
  free : ¬s.graftHeld 512 e = true
  placed : (s.graft e).placed = true
  run : s.runFree e = true

section
variable {s u v : State} {e : Nat} {bs : List Byte} {ok : Bool}

/-- What follows the image of an entry once its bytes are in the pool, or where a page of the pool does not translate (R375). -/
def State.graftDone (v : State) (e : Nat) (x : Graft) (bs : List Byte) (ok : Bool) : State :=
  if ok = false then v.graftFail e 3
  else if sha256 bs ≠ x.hash then v.graftFail e 1
  else if x.headBad bs then v.graftFail e 2
  else v.modGraft e fun x => { x with st := .ready }

theorem graftFetchComplete_reads (h : s.Fetches e) {r : SrcRes}
    (source : State.graftSource e (s.graft e).glade (s.graft e).ctx ((s.graft e).length / 4096 + 3) (s.graft e).src (s.graft e).length s = (u, r)) :
    (r = .wait → exec (.graftFetchComplete e) s = .next u) ∧ (∀ n, r = .fail n → exec (.graftFetchComplete e) s = .next (u.graftFail e n))
      ∧ ∀ bs, r = .bytes bs → ∀ v ok, State.putPool e (s.graft e).ctx (chunks 4096 ((s.graft e).pages + 1) bs) (s.graft e).addr u = (v, ok) →
          exec (.graftFetchComplete e) s = .next (v.graftDone e (s.graft e) bs ok) := by
  obtain ⟨fetching, free, placed, run⟩ := h
  have begun : exec (.graftFetchComplete e) s = _ :=
    (if_neg (by simp [fetching, free])).trans ((if_neg (by simp [placed])).trans (if_neg (by simp [run])))
  rw [begun, source]
  refine ⟨fun w => by rw [w], fun n w => by rw [w], fun bs w v ok pool => ?_⟩
  rw [w]
  dsimp only
  rw [pool]
  cases ok with
  | false => rfl
  | true =>
    rw [State.graftDone, if_neg (by decide), apply_ite Host.Outcome.next, apply_ite Host.Outcome.next]

theorem graftDone_fails {x : Graft} (there : v.graft e = x) (fails : ok = false) :
    v.graftDone e x bs ok = v.modGraft e fun _ => { x with st := .failed, reason := 3 } :=
  (if_pos fails).trans (modGraft_of_graft there _)

theorem graftDone_torn {x : Graft} (there : v.graft e = x) (written : ok = true) (torn : sha256 bs ≠ x.hash) :
    v.graftDone e x bs ok = v.modGraft e fun _ => { x with st := .failed, reason := 1 } :=
  (if_neg (by simp [written])).trans ((if_pos torn).trans (modGraft_of_graft there _))

theorem graftDone_other {x : Graft} (there : v.graft e = x) (written : ok = true) (whole : sha256 bs = x.hash) (other : ¬(x.named bs ∧ x.shaped bs)) :
    v.graftDone e x bs ok = v.modGraft e fun _ => { x with st := .failed, reason := 2 } :=
  (if_neg (by simp [written])).trans ((if_neg (not_not_intro whole)).trans ((if_pos ((headBad_iff x bs).2 other)).trans (modGraft_of_graft there _)))

theorem graftDone_ready {x : Graft} (there : v.graft e = x) (written : ok = true) (whole : sha256 bs = x.hash) (named : x.named bs) (shaped : x.shaped bs) :
    v.graftDone e x bs ok = v.modGraft e fun _ => { x with st := .ready } :=
  (if_neg (by simp [written])).trans ((if_neg (not_not_intro whole)).trans
    ((if_neg fun bad => (headBad_iff x bs).1 bad ⟨named, shaped⟩).trans (modGraft_of_graft there _)))

end

/-- Settles O46: a replay step is `seedChange` with `Seed.replay`, of which `Walks` says what it leaves, and a fetch that reads its source ends in `graftDone`. -/
theorem bankAndGraftEvents : Obligations.BankAndGraftEvents := by
  intro s
  refine ⟨fun d k => ?_, fun e => ?_⟩
  · intro b step reached steps same st kept
    have reaches {P : State → Prop} (due : steps) (w : same) (p : P (s.seedChange d k Seed.replay)) : reached P := by
      obtain ⟨others, jobs, glades, -⟩ := seedChange_walks s d k Seed.replay
      exact ⟨_, seedReplayStep_goes due w, p, fun j other => (others j other).trans (seed_modSeed_ne s d _ other), jobs, glades⟩
    have leaves (due : steps) := seedReplay_bank due.2.1
    have keeps (due : steps) : kept (s.seedChange d k Seed.replay) := ⟨congrArg (·.1) (leaves due).1, congrArg (·.2.1) (leaves due).1⟩
    refine ⟨seedReplayStep_waits, fun due w _ => reaches due w ⟨keeps due, (leaves due).2⟩,
      fun due w away => reaches due w ⟨keeps due, fun met => ?_, fun _ => (leaves due).2.2⟩⟩
    exact seedChange_breaks (replay_frame b).1 due.1 away met
  · intro x held ends
    refine ⟨fun waits => ⟨graftFetchComplete_waits waits, graftFetchTimeout_waits waits⟩, graftFetchComplete_unplaced, graftFetchComplete_taken,
      fun fetching free => ⟨graftFetchTimeout_late fetching free, graftFetchTimeout_early⟩, fun h => if_pos h, fun h => if_neg h,
      fun fetching free placed run u r source => ?_⟩
    obtain ⟨waits, fails, reads⟩ := graftFetchComplete_reads ⟨fetching, free, placed, run⟩ source
    refine ⟨waits, fun n failed there => (fails n failed).trans (congrArg _ (modGraft_of_graft there _)), fun bs got v ok pool there => ?_⟩
    have done := reads bs got v ok pool
    exact ⟨fun w => done.trans (congrArg _ (graftDone_fails there w)), fun w torn => done.trans (congrArg _ (graftDone_torn there w torn)),
      fun w whole other => done.trans (congrArg _ (graftDone_other there w whole other)),
      fun w whole named shaped => done.trans (congrArg _ (graftDone_ready there w whole named shaped))⟩

end Sys2Proof.Machine
end
